-- ==== Sys2Proof/Word.lean ====
section
/-! DEFINITION. The word types of the module and their plainest helpers.

Registers, addresses under computation, packet fields and tile fields are bit vectors. Counts, indexes and memory
keys are `Nat`. -/

namespace Sys2Proof

abbrev Byte := BitVec 8
abbrev W16 := BitVec 16
abbrev W32 := BitVec 32
abbrev W64 := BitVec 64

end Sys2Proof
end

