-- ==== Sys2Proof/Types.lean ====
section
/-! DEFINITION. The small closed types the manual names and several files share: number formats, rounding modes,
completion statuses, address-space classes. Data with no behaviour. -/

namespace Sys2Proof

/-- Tile payload formats (R29, Table 02-1), without NONE. -/
inductive Fmt where
  | fp64 | fp32 | bf16 | fp16 | e4m3 | e5m2 | int8 | int4 | int32 | acc128
  | mxE4m3 | mxE5m2 | mxE3m2 | mxE2m3 | mxE2m1 | mxInt8
  deriving DecidableEq, Repr

/-- Rounding of a drain, a store or a vector operation. The first five are Table 03-9; `stochastic` carries the
32-bit draw R of R125 for the element being rounded (R124). -/
inductive Rnd where
  | ties | zero | up | down | away
  | stochastic (r : Nat)
  deriving DecidableEq, Repr

/-- Accumulator tags (Table 03-4). -/
inductive Tag where
  | finite | posInf | negInf | nan
  deriving DecidableEq, Repr

/-- Vector-unit formats (R82). -/
inductive VFmt where
  | fp64 | fp32 | bf16 | fp16 | int32
  deriving DecidableEq, Repr

/-- The operations of the vector unit that ELEMENTWISE names (Table 03-8, R285). -/
inductive VOp where
  | add | sub | mul | fma | fms | fnma | div | sqrt | min | max | minnum | maxnum
  | abs | neg | copysign | rint | cvt
  | iadd | isub | imul | iadds | isubs | and | or | xor | shl | shr | sra | imin | imax
  deriving DecidableEq, Repr

/-- Completion statuses (R305, Table 09-23). -/
inductive Status where
  | ok | okTrunc
  | anchorOverflow | tornTile | tileCorrupt | formatMismatch
  | segFault | segWalkTimeout
  | allotCap
  | tallyOverflow | tallyUnderflow | scopeShort
  | epochStale | epochPostponed
  | fenced | aborted | hostLost | peerLost
  | packetNotVisible | badOpcode | badParam
  | tierFail
  | microprogNonmono | signature
  deriving DecidableEq, Repr

end Sys2Proof
end

