-- ==== Sys2Proof/Config.lean ====
section
/-! DEFINITION. The free values: constants with no body. Whatever the manual leaves open, or fixes per
implementation without stating a value, is one of these, applied to what it may depend on or to the state's
counter of draws. Nothing in Lean can evaluate them. Each is named in the assumption log. -/

namespace Sys2Proof.Config

/-- IEEE 754-2019 leaves open whether FMA of 0 × ∞ with a quiet NaN addend raises invalid (R84). -/
opaque fmaQuietInvalid : Bool

/-- The result of SHL, SHR or SRA by 32 or more, which Table 03-8 does not state. -/
opaque wideShift : VOp → BitVec 32 → BitVec 32 → BitVec 32

/-- The working result (Table 05-1 encoding) of a shipped special-function program on a finite nonzero input: set
family, FUNC_ID, the input's working encoding. The manual gives the sets' special values and error bounds, not
their tables (R148 to R152). -/
opaque shipped : Nat → Nat → BitVec 64 → BitVec 64

/-- The digest of a shipped set's image (R140), by SET_ID. -/
opaque shippedDigest : Nat → BitVec 384

/-- The step cycles of a heritage or shipped program are tabulated; the K of a RANGE step on a source the step does
not cover (a NaN, or a non-positive LOG source) is not stated (Table 05-3). -/
opaque rangeK : BitVec 64 → Int

/-- The segment a LUT step takes for a NaN, which R135 does not state. -/
opaque lutNan : BitVec 64 → Nat

/-- SHA-384 of a byte string (R140, R583). The model does not compute it. -/
opaque sha384 : List (BitVec 8) → BitVec 384

/-- Whether an ECDSA P-384 signature (r, s) verifies over a digest under a public key (x, y) (R140, R583). -/
opaque ecdsaOk : BitVec 768 → BitVec 384 → BitVec 768 → Bool

/-- Varryn's set-signing key, SIGNER 0 (Table 05-7). -/
opaque varrynSetKey : BitVec 768

/-- Nanoseconds since the last edge at a moment (R308), by the state's counter of draws. -/
opaque subns : Nat → BitVec 24

/-- The module's time base in ns since bring-up at a moment (Table 08-10a), by the counter of draws. -/
opaque clockNs : Nat → BitVec 64

/-- A byte that memory outside the module answers: which memory (module ID; 65536 + port; 65538 + guest site), the
address there, and the counter of draws. -/
opaque outsideByte : Nat → Nat → Nat → BitVec 8

/-- What the target of an access outside the module answers (R345, R496): 0 success, else the reason code it gives,
by target, address and counter of draws. -/
opaque outsideFault : Nat → Nat → Nat → BitVec 8

/-- Had the step in flight on an engine that is reset opened a tile and not sealed it (R63)? By the counter of draws. -/
opaque storeCut : Nat → Bool

/-- The engine that carries a later chain of a command: which one frees up first is a matter of timing, which the model
leaves out (R172). By tick and chain number. -/
opaque engineFor : Nat → Nat → BitVec 2

/-- Has another module loaded its own part of a program (R217)? By module, handle and counter of draws. -/
opaque peerLoaded : Nat → Nat → Nat → Bool

/-- Where another module placed slot `k` of the ring of stream `j` of a handle: core × 1512 + larder slot. -/
opaque peerSlot : Nat → Nat → Nat → Nat → Nat

/-- A stream that enters this module (R217): the module it comes from and the depth its producer declares, by handle and
tensor. -/
opaque inboundPeer : Nat → Nat → BitVec 16
opaque inboundDepth : Nat → Nat → BitVec 8

/-- The produced counter another module gave stream `j` of a handle: die × 65536 + index. -/
opaque peerTally : Nat → Nat → Nat → Nat

/-- What a ledger record of a rung or a domain reset says of its trigger, its duration and the stores it discarded, which
depend on timing and which the manual does not number; by the counter of draws. -/
opaque rungTrigger : Nat → BitVec 8
opaque duration : Nat → BitVec 32
opaque lostStores : Nat → BitVec 32

/-- The stalled cycles that a core's stall counter shows (R224); they depend on timing. By the register and the counter of
draws. -/
opaque stallCycles : Nat → Nat → BitVec 64

/-- The cycles a ready step waited for a patrol, which is at most 3,500 (R93); they depend on timing. By the counter of draws. -/
opaque patrolWait : Nat → BitVec 12

/-- The blocks that give the Warden no answer during a crash capture (R578), by the counter of draws. -/
opaque absentBlocks : Nat → BitVec 64

/-- Bytes of a capture whose content the manual does not give, or that followed from other state when it was taken (R578): by
slot and offset. -/
opaque captureByte : Nat → Nat → BitVec 8

/-- The first sector of the row of a stack that holds a sector, and how many spare rows a channel has (R369): the manual
gives neither. By stack and sector of the stack; by stack and channel. -/
opaque stackRow : Nat → Nat → BitVec 31
opaque stackSpareRows : Nat → Nat → BitVec 8

/-- Does a sector of a failed channel lie in a good row, where a write can be stored (R370)? By stack and sector number. -/
opaque goodRow : Nat → Nat → Bool

/-- What a stick reports of itself (Table 12-15), and how much a rebuild has written; by the counter of draws. -/
opaque lifeUsed : Nat → BitVec 16
opaque sparePct : Nat → BitVec 8
opaque rebuiltGib : Nat → BitVec 24

/-- Microjoules a domain of Table 19-4 drew in a 100 µs sample, by the counter of draws and domain. -/
opaque drawnUj : Nat → Nat → BitVec 32

/-- The boost points of an island above its fixed one, and the voltage and frequency of its points, set at test (R528);
by island, by island and point. -/
opaque boostPoints : Nat → BitVec 3
opaque vfMilliVolt : Nat → Nat → BitVec 16
opaque vfMhz : Nat → Nat → BitVec 16

/-- The Warden's estimate of the power in W that a point adds on an island (R530), by the counter of draws, island and
point. -/
opaque boostWatts : Nat → Nat → Nat → BitVec 8

/-- Signed nanoseconds by which an edge followed the reference (R313), by the counter of draws. -/
opaque bellOffset : Nat → BitVec 32

/-- The 8-byte word of a sector in which a scrub found an error, which the event does not name; by the counter of draws. -/
opaque errWord : Nat → BitVec 3

/-- Journal bytes written in a hold-up (Table 20-3), by the counter of draws. -/
opaque journalBytes : Nat → BitVec 32

/-- The SHA-384 digest of the firmware-signing key, fused at manufacture (R583). -/
opaque fwKeyHash : BitVec 384

/-- The image that bank A of a component (Table 21-1, by ID) leaves the factory with. -/
opaque factoryImage : Nat → List (BitVec 8)

/-- Which of an engine's units are at work at a moment within a step: the array, the drain unit, the vector unit, and whether its
shadow is full (Table 03-14). By the core × 4 + engine and the counter of draws. -/
opaque engActive : Nat → Nat → BitVec 4

/-- The largest MAXEXP that another module finds in a grid of its own which an ANCHOR_SCAN names, in bits 15 to 0, and whether some
tile there has MAXEXP 0x7FFF, in bit 16 (R283). By the module, the first tile and the counter of draws. -/
opaque remoteScan : Nat → Nat → Nat → BitVec 17

/-- The errors that strike between two edges of the bell: in a set's memories, in the tag or in the data of a line of a core cache
(0, 1, 2), by core and SET_ID or line, or in the transfer of a tile to a stack (3), by the stack and whether its resend errs too
(R147, R191, R371). By the counter of draws. -/
opaque upsets : Nat → List (BitVec 2 × BitVec 8 × BitVec 42)

/-- How many nanoseconds a Q_CMD or a TALLY_CMD action takes, ENABLE at most 10,000 of them (R260, R413, Table 08-12). By the counter of draws. -/
opaque actionNs : Nat → BitVec 32

/-- Which hart's interrupt file the IOMMU's tables give for a write of an attached device, if they take it for an MSI (R512). By the
port, the address and the counter of draws. -/
opaque iommuMsi : Nat → Nat → Nat → Option (BitVec 8)

/-- Has a coordinator switched to the slot it had voted on, when a participant that it lost rejoins (R330)? By the coordinator, the
handle and the counter of draws. -/
opaque rejoinSwitched : Nat → Nat → Nat → Bool

/-- What measurement block 0x01 gives for the Warden ROM version (Table 21-5), and the content of certificate slot 0. -/
opaque romVersion : List (BitVec 8)
opaque deviceChain : List (BitVec 8)

/-- Signatures and key-exchange data of an SPDM answer (R590), by the counter of draws. -/
opaque spdmAnswer : Nat → List (BitVec 8)

/-- The standby power monitor's reading in 0.1 W (Table 23-3), by the counter of draws. -/
opaque standbyPower : Nat → BitVec 16

end Sys2Proof.Config
end

