-- ==== Sys2Proof/Machine/Bits.lean ====
section
/-! DEFINITION. Byte order, bit fields and the CRC-32C code (R4, R52). Every multi-byte value is little-endian. -/

namespace Sys2Proof

/-- Bits [hi:lo] of a value. -/
def bits (v : Nat) (hi lo : Nat) : Nat := v / 2 ^ lo % 2 ^ (hi + 1 - lo)

/-- One bit of a value. -/
def bitAt (v i : Nat) : Bool := v / 2 ^ i % 2 == 1

/-- A flag as a number. -/
def bnat (b : Bool) : Nat := if b then 1 else 0

/-- Replace bits [hi:lo] of a value. -/
def setBits (v : Nat) (hi lo : Nat) (x : Nat) : Nat :=
  v - bits v hi lo * 2 ^ lo + x % 2 ^ (hi + 1 - lo) * 2 ^ lo

/-- The `n` bytes of a value, lowest first (R4). -/
def leBytes : Nat → Nat → List Byte
  | 0, _ => []
  | n + 1, v => BitVec.ofNat 8 v :: leBytes n (v / 256)

/-- The value of a byte string, lowest byte first (R4). -/
def leNat : List Byte → Nat
  | [] => 0
  | b :: r => b.toNat + 256 * leNat r

/-- `n` bytes from offset `o`, zero beyond the end. -/
def slice (bs : List Byte) (o n : Nat) : List Byte :=
  let t := (bs.drop o).take n
  t ++ List.replicate (n - t.length) 0

/-- The little-endian field of `n` bytes at offset `o`. -/
def field (bs : List Byte) (o n : Nat) : Nat := leNat (slice bs o n)

/-- One bit of the reflected CRC-32C register (R52). -/
def crcBit (c : Nat) : Nat := if c % 2 = 1 then (c / 2) ^^^ 0x82F63B78 else c / 2

/-- One byte into the CRC register. -/
def crcByte (c : Nat) (b : Byte) : Nat :=
  crcBit (crcBit (crcBit (crcBit (crcBit (crcBit (crcBit (crcBit (c ^^^ b.toNat))))))))

/-- CRC-32C of a byte string (R52). -/
def crc32c (bs : List Byte) : Nat := (bs.foldl crcByte 0xFFFFFFFF) ^^^ 0xFFFFFFFF

/-- Round up to a multiple, as a count: ceil(a / b). -/
def ceilDiv (a b : Nat) : Nat := (a + b - 1) / b

/-- ceil(log2 k); 0 for k ≤ 1. -/
def clog2 (k : Nat) : Nat := if k ≤ 1 then 0 else Nat.log2 (k - 1) + 1

end Sys2Proof
end

