-- ==== Sys2Proof/Machine/Numeric.lean ====
section
/-! DEFINITION. Number formats: exact values, decoding, and the one rounding every result goes through
(R29 to R41, R122 to R125). A finite value is a sign, a magnitude and a power of two, so every sum and product
below is exact and rounding happens in `roundMag` alone. -/

namespace Sys2Proof

/-- The exact value of an element. `fin neg mag exp` is (−1)^neg × mag × 2^exp. -/
inductive Val where
  | nan (signalling : Bool)
  | inf (neg : Bool)
  | fin (neg : Bool) (mag : Nat) (exp : Int)
  deriving DecidableEq, Repr

/-- Bit layout of a floating-point format (Table 02-2). `ieee`: the all-ones exponent holds infinity and NaN.
`nanTop`: only the all-ones code is NaN (E4M3). Neither: every code is finite. -/
structure FLay where
  eb : Nat
  mb : Nat
  bias : Nat
  ieee : Bool
  nanTop : Bool
  deriving DecidableEq, Repr

def lay64 : FLay := ⟨11, 52, 1023, true, false⟩
def lay32 : FLay := ⟨8, 23, 127, true, false⟩
def layBf16 : FLay := ⟨8, 7, 127, true, false⟩
def layFp16 : FLay := ⟨5, 10, 15, true, false⟩
def layE5m2 : FLay := ⟨5, 2, 15, true, false⟩
def layE4m3 : FLay := ⟨4, 3, 7, false, true⟩
def layE3m2 : FLay := ⟨3, 2, 3, false, false⟩
def layE2m3 : FLay := ⟨2, 3, 1, false, false⟩
def layE2m1 : FLay := ⟨2, 1, 1, false, false⟩

/-- Width of an encoding in bits. -/
def FLay.width (l : FLay) : Nat := 1 + l.eb + l.mb

/-- Exponent of the smallest normal number. -/
def FLay.emin (l : FLay) : Int := 1 - l.bias

/-- The largest finite magnitude, as an integer multiple of 2^(exponent) (Table 02-2). -/
def FLay.maxFinite (l : FLay) : Nat × Int :=
  if l.ieee then (2 ^ (l.mb + 1) - 1, (2 ^ l.eb - 2 : Int) - l.bias - l.mb)
  else if l.nanTop then (2 ^ (l.mb + 1) - 2, (2 ^ l.eb - 1 : Int) - l.bias - l.mb)
  else (2 ^ (l.mb + 1) - 1, (2 ^ l.eb - 1 : Int) - l.bias - l.mb)

/-- The value an encoding denotes (R31). A NaN is signalling when its top mantissa bit is 0 (R84); the single
E4M3 NaN is quiet. -/
def FLay.decode (l : FLay) (bits : Nat) : Val :=
  let neg := bits / 2 ^ (l.eb + l.mb) % 2 == 1
  let e := bits / 2 ^ l.mb % 2 ^ l.eb
  let m := bits % 2 ^ l.mb
  if l.ieee && e == 2 ^ l.eb - 1 then
    if m == 0 then .inf neg else .nan (m / 2 ^ (l.mb - 1) == 0)
  else if l.nanTop && e == 2 ^ l.eb - 1 && m == 2 ^ l.mb - 1 then .nan false
  else if e == 0 then .fin neg m (1 - (l.bias : Int) - l.mb)
  else .fin neg (2 ^ l.mb + m) ((e : Int) - l.bias - l.mb)

/-- floor(log2) of a nonzero magnitude mag × 2^exp. -/
def flog2 (mag : Nat) (exp : Int) : Int := (Nat.log2 mag : Int) + exp

/-- The magnitude mag × 2^exp as a whole number of units 2^q, rounded; with the flag 'inexact'.
Directed modes look at the sign. Stochastic rounding follows R124: F = floor(2^32 × (v − lo)/(hi − lo)) on the
signed value, and hi is taken when R < F. -/
def roundMag (r : Rnd) (neg : Bool) (mag : Nat) (exp q : Int) : Nat × Bool :=
  if q ≤ exp then (mag * 2 ^ (exp - q).toNat, false)
  else
    let d := (q - exp).toNat
    let n := mag / 2 ^ d
    let rem := mag % 2 ^ d
    if rem = 0 then (n, false)
    else
      let half := 2 ^ (d - 1)
      let bump : Bool :=
        match r with
        | .ties => decide (half < rem) || (decide (rem = half) && n % 2 == 1)
        | .away => decide (half ≤ rem)
        | .zero => false
        | .up => !neg
        | .down => neg
        | .stochastic draw =>
          if neg then !(decide (draw < 2 ^ 32 * (2 ^ d - rem) / 2 ^ d))
          else decide (draw < 2 ^ 32 * rem / 2 ^ d)
      (if bump then n + 1 else n, true)

/-- What one rounding produced: the encoding, and the events a producer or a flag register reports. -/
structure Rounded where
  bits : Nat
  /-- R34 or R35 changed the element to the largest representable one. -/
  sat : Bool := false
  /-- The result exceeded the range (IEEE overflow or saturation). -/
  overflow : Bool := false
  inexact : Bool := false
  /-- Tininess after rounding (R84). -/
  tiny : Bool := false
  deriving DecidableEq, Repr

/-- The sign bit of an encoding. -/
def FLay.signBits (l : FLay) (neg : Bool) : Nat := if neg then 2 ^ (l.eb + l.mb) else 0

/-- The encoding of the largest finite magnitude. -/
def FLay.maxBits (l : FLay) (neg : Bool) : Nat :=
  l.signBits neg +
    (if l.ieee then (2 ^ l.eb - 1) * 2 ^ l.mb - 1
     else if l.nanTop then 2 ^ (l.eb + l.mb) - 2
     else 2 ^ (l.eb + l.mb) - 1)

/-- Infinity of an IEEE layout. -/
def FLay.infBits (l : FLay) (neg : Bool) : Nat := l.signBits neg + (2 ^ l.eb - 1) * 2 ^ l.mb

/-- The canonical NaN (R33). A layout without NaN has no such code; 0 stands there and no caller asks for it. -/
def FLay.nanBits (l : FLay) : Nat :=
  if l.ieee then (2 ^ l.eb - 1) * 2 ^ l.mb + 2 ^ (l.mb - 1)
  else if l.nanTop then 2 ^ (l.eb + l.mb) - 1
  else 0

/-- Whether a magnitude n × 2^q lies above the largest finite one. -/
def FLay.exceeds (l : FLay) (n : Nat) (q : Int) : Bool :=
  let (mx, me) := l.maxFinite
  if q ≤ me then decide (mx * 2 ^ (me - q).toNat < n) else decide (mx < n * 2 ^ (q - me).toNat)

/-- Does an IEEE overflow under this mode give infinity (true) or the largest finite value (false)? -/
def overflowToInf (r : Rnd) (neg : Bool) : Bool :=
  match r with
  | .ties | .away | .stochastic _ => true
  | .zero => false
  | .up => !neg
  | .down => neg

/-- The side from which a rounding looks at a value: the signed value's, but the magnitude's for the stochastic rounding of an
IEEE format beyond its largest finite value, where hi is ±2^(emax + 1) (R124). -/
def FLay.roundNeg (l : FLay) (r : Rnd) (neg : Bool) (mag : Nat) (exp : Int) : Bool :=
  match r with
  | .stochastic _ => neg && !(l.ieee && l.exceeds mag exp)
  | _ => neg

/-- Round a finite value once into a floating-point layout (R34, R84, R122, R124). A zero keeps its sign. -/
def FLay.round (l : FLay) (r : Rnd) (neg : Bool) (mag : Nat) (exp : Int) : Rounded :=
  if mag = 0 then { bits := l.signBits neg }
  else
    let e := flog2 mag exp
    let q := max e l.emin - l.mb
    let (n, inexact) := roundMag r (l.roundNeg r neg mag exp) mag exp q
    if l.exceeds n q then
      if l.ieee then
        { bits := if overflowToInf r neg then l.infBits neg else l.maxBits neg, overflow := true, inexact := true }
      else { bits := l.maxBits neg, sat := true, overflow := true, inexact := true }
    else
      let tiny := decide (e < l.emin) &&
        (let (n', _) := roundMag r neg mag exp (e - l.mb)
         decide (flog2 n' (e - l.mb) < l.emin))
      -- a carry into the next binade keeps the value: n = 2^(mb+1) is 2^mb at q + 1
      let (n, q) := if n = 2 ^ (l.mb + 1) then (2 ^ l.mb, q + 1) else (n, q)
      let field := if n < 2 ^ l.mb then n else (q + l.mb + l.bias).toNat * 2 ^ l.mb + (n - 2 ^ l.mb)
      { bits := l.signBits neg + field, inexact, tiny }

/-- Round any value into a layout that has the encodings for it: NaN to the canonical NaN, infinity to infinity,
or to the largest finite value with SAT where the layout has none (Table 04-7). -/
def FLay.roundVal (l : FLay) (r : Rnd) : Val → Rounded
  | .nan _ => { bits := l.nanBits }
  | .inf neg =>
    if l.ieee then { bits := l.infBits neg } else { bits := l.maxBits neg, sat := true }
  | .fin neg mag exp => l.round r neg mag exp

/-- Two's complement of a signed integer in `w` bits. -/
def twos (w : Nat) (i : Int) : Nat := (i % (2 ^ w : Int)).toNat

/-- The signed integer a `w`-bit pattern holds. -/
def ofTwos (w : Nat) (n : Nat) : Int := if n < 2 ^ (w - 1) then n else (n : Int) - 2 ^ w

/-- Round a finite value to an integer and saturate it to [lo, hi] (R35). -/
def roundInt (r : Rnd) (w : Nat) (lo hi : Int) (neg : Bool) (mag : Nat) (exp : Int) : Rounded :=
  let (n, inexact) := roundMag r neg mag exp 0
  let i : Int := if neg then -n else n
  if hi < i then { bits := twos w hi, sat := true, overflow := true, inexact := true }
  else if i < lo then { bits := twos w lo, sat := true, overflow := true, inexact := true }
  else { bits := twos w i, inexact }

/-- An integer result of any value: infinities saturate and NaN is written 0, each with SAT (Table 04-7). -/
def roundIntVal (r : Rnd) (w : Nat) (lo hi : Int) : Val → Rounded
  | .nan _ => { bits := 0, sat := true }
  | .inf neg => { bits := twos w (if neg then lo else hi), sat := true }
  | .fin neg mag exp => roundInt r w lo hi neg mag exp

/-! ### Formats -/

/-- Format codes (R29, Table 02-1). -/
def Fmt.code : Fmt → Nat
  | .fp64 => 0x01 | .fp32 => 0x02 | .bf16 => 0x03 | .fp16 => 0x04 | .e4m3 => 0x05 | .e5m2 => 0x06
  | .int8 => 0x07 | .int4 => 0x08 | .int32 => 0x09 | .acc128 => 0x0A
  | .mxE4m3 => 0x10 | .mxE5m2 => 0x11 | .mxE3m2 => 0x12 | .mxE2m3 => 0x13 | .mxE2m1 => 0x14 | .mxInt8 => 0x15

/-- The format of a code; NONE and the reserved codes have none (R30). -/
def Fmt.ofCode (c : Nat) : Option Fmt :=
  match c with
  | 0x01 => some .fp64 | 0x02 => some .fp32 | 0x03 => some .bf16 | 0x04 => some .fp16 | 0x05 => some .e4m3
  | 0x06 => some .e5m2 | 0x07 => some .int8 | 0x08 => some .int4 | 0x09 => some .int32 | 0x0A => some .acc128
  | 0x10 => some .mxE4m3 | 0x11 => some .mxE5m2 | 0x12 => some .mxE3m2 | 0x13 => some .mxE2m3
  | 0x14 => some .mxE2m1 | 0x15 => some .mxInt8 | _ => none

/-- Element width in bits. -/
def Fmt.width : Fmt → Nat
  | .fp64 => 64 | .fp32 => 32 | .int32 => 32 | .bf16 => 16 | .fp16 => 16
  | .e4m3 => 8 | .e5m2 => 8 | .int8 => 8 | .mxE4m3 => 8 | .mxE5m2 => 8 | .mxInt8 => 8
  | .mxE3m2 => 6 | .mxE2m3 => 6 | .int4 => 4 | .mxE2m1 => 4 | .acc128 => 128

def Fmt.isMx : Fmt → Bool
  | .mxE4m3 | .mxE5m2 | .mxE3m2 | .mxE2m3 | .mxE2m1 | .mxInt8 => true
  | _ => false

/-- The floating-point layout of a format's elements, if it has one. -/
def Fmt.lay : Fmt → Option FLay
  | .fp64 => some lay64 | .fp32 => some lay32 | .bf16 => some layBf16 | .fp16 => some layFp16
  | .e4m3 => some layE4m3 | .e5m2 => some layE5m2
  | .mxE4m3 => some layE4m3 | .mxE5m2 => some layE5m2 | .mxE3m2 => some layE3m2 | .mxE2m3 => some layE2m3
  | .mxE2m1 => some layE2m1
  | .int8 | .int4 | .int32 | .acc128 | .mxInt8 => none

/-- The integer range of an integer format; for an MXINT8 element it is −127 to 127 (R35, R41). -/
def Fmt.intRange : Fmt → Int × Int
  | .int4 => (-8, 7)
  | .int8 => (-128, 127)
  | .mxInt8 => (-127, 127)
  | .int32 => (-2147483648, 2147483647)
  | _ => (0, 0)

/-- emax of an MX element (Table 02-3). -/
def Fmt.mxEmax : Fmt → Int
  | .mxE2m1 => 2 | .mxE2m3 => 2 | .mxE3m2 => 4 | .mxE4m3 => 8 | .mxE5m2 => 15 | _ => 0

/-- Decode an element pattern without its MX scale (R31, R37, R38). An ACC128 element needs its tile's anchor
and is decoded in Machine/Accum.lean; here it reads as its integer. -/
def Fmt.decodeElem (f : Fmt) (bits : Nat) : Val :=
  match f.lay with
  | some l => l.decode bits
  | none =>
    let i := ofTwos f.width bits
    .fin (decide (i < 0)) i.natAbs (match f with | .mxInt8 => -6 | _ => 0)

/-- Scale a value by 2^x. -/
def Val.scale (x : Int) : Val → Val
  | .fin neg mag exp => .fin neg mag (exp + x)
  | v => v

/-- The shared exponent X of a scale byte; 0xFF is NaN (R38, R39). -/
def scaleExp (s : Nat) : Option Int := if s = 0xFF then none else some ((s : Int) - 127)

/-- Round a value into a plain (not MX, not ACC128) format (Table 04-7, R34, R35). -/
def Fmt.roundPlain (f : Fmt) (r : Rnd) (v : Val) : Rounded :=
  match f.lay with
  | some l => l.roundVal r v
  | none => let (lo, hi) := f.intRange; roundIntVal r f.width lo hi v

/-- The shared exponent X that R40 gives a block of values: none if a NaN or an infinity is among them. -/
def blockExp (f : Fmt) (vs : List Val) : Option Int :=
  let rec go : List Val → Option Int → Option (Option Int)
    | [], best => some best
    | .fin _ mag exp :: rest, best =>
      if mag = 0 then go rest best
      else go rest (some (match best with | none => flog2 mag exp | some b => max b (flog2 mag exp)))
    | _ :: _, _ => none
  match go vs none with
  | none => none
  | some none => some (-127)
  | some (some e) => some (max (-127) (min 127 (e - f.mxEmax)))

/-- Round one element of an MX block from its value divided by 2^X. -/
def Fmt.roundMxElem (f : Fmt) (r : Rnd) (x : Int) (v : Val) : Rounded :=
  match v.scale (-x) with
  | .fin neg mag exp =>
    match f.lay with
    | some l => l.round r neg mag exp
    | none => -- MXINT8: the integer is value × 64
      let (lo, hi) := f.intRange
      roundInt r 8 lo hi neg mag (exp + 6)
  | _ => { bits := 0 }

/-- Write one MX block (R40): the scale byte and the element patterns, with what rounding reported. A block
holding a NaN or an infinity has scale 0xFF and zero elements. The draws give each element its rounding. -/
def Fmt.writeBlock (f : Fmt) (rs : List Rnd) (vs : List Val) : Nat × List Rounded :=
  match blockExp f vs with
  | none => (0xFF, vs.map fun _ => { bits := 0 })
  | some x => ((x + 127).toNat, List.zipWith (fun r v => f.roundMxElem r x v) rs vs)

/-! ### The stochastic generator -/

/-- R of R125 from the seed and the destination coordinates; products modulo 2^64. -/
def stochR (seed r c : Nat) : Nat :=
  let m := 2 ^ 64
  let x := (seed + (r * 2 ^ 32 + c) * 0x9E3779B97F4A7C15) % m
  let x := (x ^^^ (x >>> 30)) * 0xBF58476D1CE4E5B9 % m
  let x := (x ^^^ (x >>> 27)) * 0x94D049BB133111EB % m
  let x := x ^^^ (x >>> 31)
  x >>> 32

end Sys2Proof
end

