-- ==== Sys2Proof/Machine/Tile.lean ====
section
/-! DEFINITION. Tiles (R42 to R59): header, payload layout, MAXEXP, the CRC, the check a consumer makes, and the
writing of elements into a payload. Nothing here touches memory; Machine/Ops.lean reads and writes the bytes. -/

namespace Sys2Proof

/-- A tile header (R47, Table 02-5). -/
structure Header where
  format : Nat
  flags : Nat
  rows : Nat
  cols : Nat
  /-- The 16-bit pattern of MAXEXP; the anchor for ACC128. -/
  maxexp : Nat
  gen : Nat
  prodModule : Nat
  prodUnit : Nat
  prodCtx : Nat
  epoch : Nat
  sealBell : Nat
  reserved : Nat
  crc : Nat
  tail : Nat
  deriving DecidableEq, Repr

/-- The header in 64 bytes (Table 02-5). -/
def Header.ofBytes (b : List Byte) : Header where
  format := field b 0 1
  flags := field b 1 1
  rows := field b 2 2
  cols := field b 4 2
  maxexp := field b 6 2
  gen := field b 8 4
  prodModule := field b 12 2
  prodUnit := field b 14 2
  prodCtx := field b 16 4
  epoch := field b 20 4
  sealBell := field b 24 8
  reserved := field b 32 24
  crc := field b 56 4
  tail := field b 60 4

/-- Header bytes 0 to 55, which the CRC covers. -/
def Header.covered (h : Header) : List Byte :=
  leBytes 1 h.format ++ leBytes 1 h.flags ++ leBytes 2 h.rows ++ leBytes 2 h.cols ++ leBytes 2 h.maxexp ++
  leBytes 4 h.gen ++ leBytes 2 h.prodModule ++ leBytes 2 h.prodUnit ++ leBytes 4 h.prodCtx ++
  leBytes 4 h.epoch ++ leBytes 8 h.sealBell ++ leBytes 24 h.reserved

def Header.toBytes (h : Header) : List Byte := h.covered ++ leBytes 4 h.crc ++ leBytes 4 h.tail

/-- FLAGS bits (R49, Table 02-6). -/
def Header.layout (h : Header) : Bool := bitAt h.flags 0
def Header.invalid (h : Header) : Bool := bitAt h.flags 1
def Header.sat (h : Header) : Bool := bitAt h.flags 2
def Header.trunc (h : Header) : Bool := bitAt h.flags 3

/-- A tile as read: header and 4,096 payload bytes. -/
structure Tile where
  hdr : Header
  payload : List Byte
  deriving DecidableEq, Repr

def payloadBytes : Nat := 4096

/-- The CRC a tile's contents call for (R52). -/
def Tile.crc (t : Tile) : Nat := crc32c (t.payload ++ t.hdr.covered)

/-- The number of elements. -/
def Header.count (h : Header) : Nat := h.rows * h.cols

/-- The contiguous dimension: the row, or the column under LAYOUT 1 (R42). -/
def Header.contig (h : Header) : Nat := if h.layout then h.rows else h.cols

/-- The shape rules of R44. -/
def shapeOk (f : Fmt) (rows cols contig : Nat) : Bool :=
  let n := rows * cols
  let scale := if f.isMx then n / 32 else 0
  decide (1 ≤ rows) && decide (1 ≤ cols) &&
  decide (n * f.width ≤ (payloadBytes - scale) * 8) && decide (scale ≤ payloadBytes) &&
  (f.width != 4 || contig % 2 == 0) && (f.width != 6 || contig % 4 == 0) && (!f.isMx || contig % 32 == 0)

/-- The storage index of element (r, c) (R42). -/
def elemIndex (layout : Bool) (rows cols r c : Nat) : Nat := if layout then c * rows + r else r * cols + c

/-- Element pattern `i` of a payload read as one little-endian number: every width packs the same way (R42). -/
def elemBits (w : Nat) (payload i : Nat) : Nat := payload / 2 ^ (w * i) % 2 ^ w

/-- The scale byte of block `b` of a tile of `n` elements (R43). -/
def scaleByte (n payload b : Nat) : Nat := elemBits 8 payload (payloadBytes - n / 32 + b)

/-- Element `i` of a payload, MX scale applied (R38, R39); an ACC128 element under anchor `a` (R37, R100). -/
def elemVal (f : Fmt) (n : Nat) (anchor : Int) (payload i : Nat) : Val :=
  let p := elemBits f.width payload i
  if f.isMx then
    match scaleExp (scaleByte n payload (i / 32)) with
    | none => .nan false
    | some x => (f.decodeElem p).scale x
  else if f == .acc128 then
    let v := ofTwos 128 p
    if v == -(2 ^ 127) + 1 then .inf false
    else if v == -(2 ^ 127) + 2 then .inf true
    else if v == -(2 ^ 127) || v == -(2 ^ 127) + 3 then .nan false
    else .fin (decide (v < 0)) v.natAbs (anchor - 126)
  else f.decodeElem p

/-- The signed value of a MAXEXP pattern. -/
def maxexpInt (m : Nat) : Int := ofTwos 16 m

/-- The values of a tile in storage order. -/
def Tile.vals (t : Tile) (f : Fmt) : List Val :=
  let p := leNat t.payload
  (List.range t.hdr.count).map (elemVal f t.hdr.count (maxexpInt t.hdr.maxexp) p)

/-- The largest floor(log2 |x|) over finite nonzero values; none if there is none. -/
def maxLog (vs : List Val) : Option Int :=
  vs.foldl (fun acc v =>
    match v with
    | .fin _ m e =>
      if m = 0 then acc else some (match acc with | none => flog2 m e | some b => max b (flog2 m e))
    | _ => acc) none

/-- Is a value NaN or infinite? -/
def Val.nonfinite : Val → Bool
  | .fin .. => false
  | _ => true

/-- MAXEXP of stored values, as its 16-bit pattern (R50). -/
def maxexpOf (vs : List Val) : Nat :=
  if vs.any Val.nonfinite then 0x7FFF
  else match maxLog vs with | none => 0x8000 | some e => twos 16 e

/-- Reasons of ST_FORMAT_MISMATCH (Table 02-9). -/
inductive FmtReason where
  | unexpected | reserved | empty | shape | maxexp | invalid
  deriving DecidableEq, Repr

def FmtReason.code : FmtReason → Nat
  | .unexpected => 0x01 | .reserved => 0x02 | .empty => 0x03 | .shape => 0x04 | .maxexp => 0x05 | .invalid => 0x06

/-- How a tile check ends (R57, R58). -/
inductive TileFail where
  | corrupt
  | torn (changed : Bool)
  | mismatch (r : FmtReason)
  deriving DecidableEq, Repr

/-- What a consumer sees of one tile: the header sector read first, the payload, the header read again after it,
and which sectors were poisoned (R57). In a model where a check is one step, the two header reads agree unless the
row that checks says a producer intervened. -/
structure TileView where
  first : Header
  firstPoison : Bool
  payload : List Byte
  payloadPoison : Bool
  second : Header
  secondPoison : Bool
  deriving DecidableEq, Repr

/-- The check of R57 and Table 02-9 in its order. `accepts` says which formats the operand takes; `also` is the
command's own agreement of shape (R68), reported as UNEXPECTED. -/
def tileCheck (accepts : Fmt → Bool) (v : TileView) : Except TileFail (Fmt × Tile) :=
  if v.firstPoison then .error .corrupt
  else if v.first.gen % 2 = 1 then .error (.torn false)
  else if v.secondPoison then .error .corrupt
  else if v.second.gen ≠ v.first.gen then .error (.torn true)
  else if v.payloadPoison then .error .corrupt
  else
    let t : Tile := ⟨v.second, v.payload⟩
    if v.second.format = 0 then .error (.mismatch .empty)
    else if t.crc ≠ v.second.crc then .error .corrupt
    else match Fmt.ofCode v.second.format with
      | none => .error (.mismatch .reserved)
      | some f =>
        if v.second.invalid then .error (.mismatch .invalid)
        else if !accepts f then .error (.mismatch .unexpected)
        else if !shapeOk f v.second.rows v.second.cols v.second.contig then .error (.mismatch .shape)
        else if f ≠ .acc128 ∧ maxexpOf (t.vals f) ≠ v.second.maxexp then .error (.mismatch .maxexp)
        else if f = .acc128 ∧ (maxexpInt v.second.maxexp < -1024 ∨ 1023 < maxexpInt v.second.maxexp) then
          .error (.mismatch .unexpected) -- R99
        else .ok (f, t)

/-- The status of a failed check. -/
def TileFail.status : TileFail → Status
  | .corrupt => .tileCorrupt
  | .torn _ => .tornTile
  | .mismatch _ => .formatMismatch

/-- The detail word of a failed check in an operand slot (Table 02-8). -/
def TileFail.detail (slot : Nat) : TileFail → Nat
  | .corrupt => slot * 2 ^ 12
  | .torn changed => slot * 2 ^ 12 + (if changed then 2 else 1)
  | .mismatch r => slot * 2 ^ 12 + r.code

/-! ### Writing elements -/

/-- Pack element patterns of width `w` from payload byte 0 (R42), as one little-endian number. -/
def packElems (w : Nat) : List Nat → Nat
  | [] => 0
  | p :: r => p % 2 ^ w + 2 ^ w * packElems w r

/-- Cut a list into blocks of 32 (R38). -/
def blocks32 {α : Type} : Nat → List α → List (List α)
  | 0, _ => []
  | k + 1, l => if l.isEmpty then [] else l.take 32 :: blocks32 k (l.drop 32)

/-- What writing a payload gave: its number, whether an element saturated, and the values as stored. -/
structure Written where
  payload : Nat
  sat : Bool
  flags : List Rounded
  deriving DecidableEq, Repr

/-- Write values in storage order into a payload of format `f` (not ACC128), each with its rounding
(R34, R35, R40, R42, R43); the bytes that hold nothing are 0 (R45). -/
def writeVals (f : Fmt) (rs : List Rnd) (vs : List Val) : Written :=
  if f.isMx then
    let bs := List.zipWith (fun r v => f.writeBlock r v) (blocks32 vs.length rs) (blocks32 vs.length vs)
    let elems := (bs.map Prod.snd).flatten
    let scales := bs.map Prod.fst
    let area := packElems f.width (elems.map Rounded.bits)
    { payload := area + 2 ^ (8 * (payloadBytes - scales.length)) * packElems 8 scales
      sat := elems.any Rounded.sat
      flags := elems }
  else
    let elems := List.zipWith f.roundPlain rs vs
    { payload := packElems f.width (elems.map Rounded.bits), sat := elems.any Rounded.sat, flags := elems }

/-- A header for a result tile, before its GEN and CRC are set. -/
def Header.result (f : Fmt) (flags rows cols maxexp prodModule prodUnit prodCtx epoch bell : Nat) : Header where
  format := f.code
  flags := flags
  rows := rows
  cols := cols
  maxexp := maxexp
  gen := 0
  prodModule := prodModule
  prodUnit := prodUnit
  prodCtx := prodCtx
  epoch := epoch
  sealBell := bell
  reserved := 0
  crc := 0
  tail := 0

/-- The open value of a generation (R54, stage 1). -/
def genOpen (g : Nat) : Nat := (if g % 2 = 0 then g + 1 else g + 2) % 2 ^ 32

/-- Seal a tile over an opened generation: GEN is the open value plus 1 and the CRC covers the final contents
(R54, stage 3). -/
def Tile.sealed (t : Tile) (openGen : Nat) : Tile :=
  let h := { t.hdr with gen := (openGen + 1) % 2 ^ 32 }
  let t' : Tile := ⟨h, t.payload⟩
  { t' with hdr := { h with crc := t'.crc } }

end Sys2Proof
end

