-- ==== Sys2Proof/Machine/Vector.lean ====
section
/-! DEFINITION. The vector unit's arithmetic (R82 to R89) on one lane. Every operation computes its exact result
and rounds once; the five IEEE flags come with it. -/

namespace Sys2Proof

/-- The sticky IEEE flags (R87). -/
structure VFlags where
  invalid : Bool := false
  divzero : Bool := false
  overflow : Bool := false
  underflow : Bool := false
  inexact : Bool := false
  deriving DecidableEq, Repr

def VFlags.or (x y : VFlags) : VFlags :=
  ⟨x.invalid || y.invalid, x.divzero || y.divzero, x.overflow || y.overflow, x.underflow || y.underflow,
   x.inexact || y.inexact⟩

/-- Bits [4:0] of an ELEMENTWISE detail word (R87). -/
def VFlags.code (f : VFlags) : Nat :=
  bnat f.inexact + 2 * bnat f.underflow + 4 * bnat f.overflow + 8 * bnat f.divzero + 16 * bnat f.invalid

/-- The flags one rounding raises; underflow is tiny and inexact (R84). -/
def Rounded.flags (r : Rounded) : VFlags :=
  { overflow := r.overflow, underflow := r.tiny && r.inexact, inexact := r.inexact }

/-- The layout of a floating-point vector format. -/
def VFmt.lay : VFmt → Option FLay
  | .fp64 => some lay64 | .fp32 => some lay32 | .bf16 => some layBf16 | .fp16 => some layFp16 | .int32 => none

/-- VFMT codes (Table 09-12). -/
def VFmt.ofCode : Nat → Option VFmt
  | 0x01 => some .fp64 | 0x02 => some .fp32 | 0x03 => some .bf16 | 0x04 => some .fp16 | 0x09 => some .int32
  | _ => none

/-- Rounding mode codes (Table 03-9). -/
def Rnd.ofCode : Nat → Option Rnd
  | 0 => some .ties | 1 => some .zero | 2 => some .up | 3 => some .down | 4 => some .away | _ => none

/-- Operation codes (Table 09-13). -/
def VOp.ofCode : Nat → Option VOp
  | 0x01 => some .add | 0x02 => some .sub | 0x03 => some .mul | 0x04 => some .fma | 0x05 => some .fms
  | 0x06 => some .fnma | 0x07 => some .div | 0x08 => some .sqrt | 0x09 => some .min | 0x0A => some .max
  | 0x0B => some .minnum | 0x0C => some .maxnum | 0x0D => some .abs | 0x0E => some .neg | 0x0F => some .copysign
  | 0x10 => some .rint | 0x11 => some .cvt | 0x12 => some .iadd | 0x13 => some .isub | 0x14 => some .imul
  | 0x15 => some .iadds | 0x16 => some .isubs | 0x17 => some .and | 0x18 => some .or | 0x19 => some .xor
  | 0x1A => some .shl | 0x1B => some .shr | 0x1C => some .sra | 0x1D => some .imin | 0x1E => some .imax
  | _ => none

/-- Which of the operands an operation uses: Y, and Z (Table 09-13). -/
def VOp.uses : VOp → Bool × Bool
  | .fma | .fms | .fnma => (true, true)
  | .sqrt | .abs | .neg | .rint | .cvt => (false, false)
  | _ => (true, false)

/-- Integer operations require VFMT INT32; the floating-point ones refuse it (R285). CVT takes either. -/
def VOp.isInt : VOp → Bool
  | .iadd | .isub | .imul | .iadds | .isubs | .and | .or | .xor | .shl | .shr | .sra | .imin | .imax => true
  | _ => false

def Val.isNan : Val → Bool
  | .nan _ => true
  | _ => false

def Val.isSignalling : Val → Bool
  | .nan s => s
  | _ => false

/-- The negation of a value; a NaN is unchanged. -/
def Val.neg : Val → Val
  | .nan s => .nan s
  | .inf s => .inf (!s)
  | .fin s m e => .fin (!s) m e

/-- The exact sum of two finite values as sign, magnitude and exponent; an exact zero is marked by magnitude 0. -/
def finAdd (s : Bool) (m : Nat) (e : Int) (t : Bool) (n : Nat) (f : Int) : Bool × Nat × Int :=
  let x := min e f
  let i : Int := (if s then -1 else 1) * ((m : Int) * 2 ^ (e - x).toNat) +
    (if t then -1 else 1) * ((n : Int) * 2 ^ (f - x).toNat)
  (decide (i < 0), i.natAbs, x)

/-- The sign of an exactly zero sum (R84). -/
def zeroSign (r : Rnd) (s t : Bool) : Bool := if s == t then s else r == .down

/-- A value and the flags raised so far, before rounding. -/
abbrev VRes := Val × VFlags

def vinvalid : VRes := (.nan false, { invalid := true })

/-- The invalid flag of a signalling input. -/
def sigFlag (vs : List Val) : VFlags := { invalid := vs.any Val.isSignalling }

def vadd (r : Rnd) (x y : Val) : VRes :=
  match x, y with
  | .nan _, _ | _, .nan _ => (.nan false, sigFlag [x, y])
  | .inf s, .inf t => if s == t then (.inf s, {}) else vinvalid
  | .inf s, .fin .. => (.inf s, {})
  | .fin .., .inf t => (.inf t, {})
  | .fin s m e, .fin t n f =>
    let (sg, mag, ex) := finAdd s m e t n f
    if mag = 0 then (.fin (zeroSign r s t) 0 0, {}) else (.fin sg mag ex, {})

def vmul (x y : Val) : VRes :=
  match x, y with
  | .nan _, _ | _, .nan _ => (.nan false, sigFlag [x, y])
  | .inf s, .inf t => (.inf (s != t), {})
  | .inf s, .fin t m _ | .fin t m _, .inf s => if m = 0 then vinvalid else (.inf (s != t), {})
  | .fin s m e, .fin t n f => (.fin (s != t) (m * n) (e + f), {})

/-- x × y + z with one rounding; `neg` negates the product, `negc` the addend (FMA, FMS, FNMA). -/
def vfma (r : Rnd) (neg negc : Bool) (x y z : Val) : VRes :=
  let (p, pf) := vmul x y
  let p := if neg then p.neg else p
  let z' := if negc then z.neg else z
  let sig := sigFlag [x, y, z]
  if x.isNan || y.isNan || z.isNan then
    -- 0 × ∞ with a NaN addend: invalid is certain only for a signalling one
    let opt := pf.invalid && !(x.isNan || y.isNan) && Config.fmaQuietInvalid
    (.nan false, { sig with invalid := sig.invalid || opt })
  else if pf.invalid then vinvalid
  else vadd r p z'

/-- Exact quotient with a sticky last bit: precise enough for every rounding below. -/
def vdiv (x y : Val) : VRes :=
  match x, y with
  | .nan _, _ | _, .nan _ => (.nan false, sigFlag [x, y])
  | .inf _, .inf _ => vinvalid
  | .inf s, .fin t _ _ => (.inf (s != t), {})
  | .fin s _ _, .inf t => (.fin (s != t) 0 0, {})
  | .fin s m e, .fin t n f =>
    if n = 0 then (if m = 0 then vinvalid else (.inf (s != t), { divzero := true }))
    else if m = 0 then (.fin (s != t) 0 0, {})
    else
      let k := 130 + Nat.log2 n
      let q := m * 2 ^ k / n
      let sticky := if m * 2 ^ k % n = 0 then 0 else 1
      (.fin (s != t) (2 * q + sticky) (e - f - k - 1), {})

/-- Integer square root by bits, `fuel` bits from the top. -/
def isqrt : Nat → Nat → Nat → Nat
  | 0, _, acc => acc
  | b + 1, n, acc => let t := acc + 2 ^ b; isqrt b n (if t * t ≤ n then t else acc)

def vsqrt (x : Val) : VRes :=
  match x with
  | .nan s => (.nan false, { invalid := s })
  | .inf s => if s then vinvalid else (.inf false, {})
  | .fin s m e =>
    if m = 0 then (.fin s 0 0, {})
    else if s then vinvalid
    else
      -- scale to an even exponent with at least 128 result bits
      let k : Nat := 260 + (if e % 2 = 0 then 0 else 1)
      let n := m * 2 ^ k
      let root := isqrt (Nat.log2 n / 2 + 1) n 0
      let sticky := if root * root = n then 0 else 1
      (.fin false (2 * root + sticky) ((e - k) / 2 - 1), {})

/-- Order of values with −0 below +0; neither is NaN. -/
def vle (x y : Val) : Bool :=
  match x, y with
  | .nan _, _ | _, .nan _ => false
  | .inf s, .inf t => s || !t
  | .inf s, .fin .. => s
  | .fin .., .inf t => !t
  | .fin s m e, .fin t n f =>
    if m = 0 ∧ n = 0 then s || !t
    else
      let (sg, mag, _) := finAdd s m e (!t) n f
      sg || mag == 0

def vminmax (isMax : Bool) (x y : Val) : VRes :=
  if x.isNan || y.isNan then (.nan false, sigFlag [x, y])
  else (if vle x y != isMax then x else y, {})

/-- MINNUM and MAXNUM under R84: the number beside a quiet NaN, a NaN when both are NaN or either signals. -/
def vminmaxNum (isMax : Bool) (x y : Val) : VRes :=
  if x.isSignalling || y.isSignalling then vinvalid
  else if x.isNan && y.isNan then (.nan false, {})
  else if x.isNan then (y, {})
  else if y.isNan then (x, {})
  else vminmax isMax x y

def vrint (r : Rnd) (x : Val) : VRes :=
  match x with
  | .nan s => (.nan false, { invalid := s })
  | .inf s => (.inf s, {})
  | .fin s m e => let (n, _) := roundMag r s m e 0; (.fin s n 0, {})

/-- Saturate a 32-bit signed result. -/
def sat32 (i : Int) : Nat :=
  twos 32 (if 2147483647 < i then 2147483647 else if i < -2147483648 then -2147483648 else i)

/-- The INT32 operations on lane values (Table 03-8). -/
def vint (op : VOp) (x y : Nat) : Nat :=
  let a := BitVec.ofNat 32 x
  let b := BitVec.ofNat 32 y
  match op with
  | .iadd => (a + b).toNat
  | .isub => (a - b).toNat
  | .imul => (a * b).toNat
  | .iadds => sat32 (a.toInt + b.toInt)
  | .isubs => sat32 (a.toInt - b.toInt)
  | .and => (a &&& b).toNat
  | .or => (a ||| b).toNat
  | .xor => (a ^^^ b).toNat
  | .shl => (if b.toNat < 32 then a <<< b.toNat else Config.wideShift .shl a b).toNat
  | .shr => (if b.toNat < 32 then a >>> b.toNat else Config.wideShift .shr a b).toNat
  | .sra => (if b.toNat < 32 then a.sshiftRight b.toNat else Config.wideShift .sra a b).toNat
  | .imin => (if a.toInt ≤ b.toInt then a else b).toNat
  | .imax => (if a.toInt ≤ b.toInt then b else a).toNat
  | _ => x

/-- The exact result of a floating-point operation, before the one rounding. -/
def vfloat (op : VOp) (r : Rnd) (x y z : Val) : VRes :=
  match op with
  | .add => vadd r x y
  | .sub => vadd r x y.neg
  | .mul => vmul x y
  | .fma => vfma r false false x y z
  | .fms => vfma r false true x y z
  | .fnma => vfma r true false x y z
  | .div => vdiv x y
  | .sqrt => vsqrt x
  | .min => vminmax false x y
  | .max => vminmax true x y
  | .minnum => vminmaxNum false x y
  | .maxnum => vminmaxNum true x y
  | .abs => (match x with | .nan _ => .nan false | .inf _ => .inf false | .fin _ m e => .fin false m e, {})
  | .neg => (match x with | .nan _ => .nan false | v => v.neg, {})
  | .copysign =>
    (match x, y with
     | .nan _, _ => .nan false
     | .inf _, .inf t | .inf _, .fin t _ _ => .inf t
     | .fin _ m e, .inf t | .fin _ m e, .fin t _ _ => .fin t m e
     | v, .nan _ => v, {})
  | .rint => vrint r x
  | _ => (x, {})

/-- Convert a value into a lane of a vector format, with its flags (R84, R86). An INT32 lane saturates and raises
invalid when the value does not fit. -/
def VFmt.into (f : VFmt) (r : Rnd) (v : Val) : Nat × VFlags :=
  match f.lay with
  | some l => let w := l.roundVal r v; (w.bits, w.flags.or (sigFlag [v]))
  | none =>
    let w := roundIntVal r 32 (-2147483648) 2147483647 v
    (w.bits, { invalid := w.sat, inexact := w.inexact && !w.sat })

/-- The value a lane holds. -/
def VFmt.out (f : VFmt) (bits : Nat) : Val :=
  match f.lay with
  | some l => l.decode bits
  | none => let i := ofTwos 32 bits; .fin (decide (i < 0)) i.natAbs 0

/-- One lane of an operation in VFMT: the lane result and its flags. COPYSIGN with a NaN sign source reads the
sign bit of the lane itself. -/
def vlane (op : VOp) (f : VFmt) (r : Rnd) (x y z : Nat) : Nat × VFlags :=
  match f.lay with
  | none => if op == .cvt then (x, {}) else (vint op x y, {})
  | some l =>
    if op == .copysign then
      let sy := bitAt y (l.eb + l.mb)
      ((l.roundVal r (vfloat .copysign r (l.decode x) (.inf sy) (.fin false 0 0)).1).bits, {})
    else
      let (v, fl) := vfloat op r (l.decode x) (l.decode y) (l.decode z)
      let w := l.roundVal r v
      (w.bits, fl.or w.flags)

/-- One level of VSUM64: lane i + w is added to lane i where both are there; the flags of the additions. -/
def vsumLevel (r : Rnd) (w : Nat) (t : List Nat × VFlags) : List Nat × VFlags :=
  let l := (List.range (min w t.1.length)).map fun i =>
    if i + w < t.1.length then vlane .add .fp64 r (t.1.getD i 0) (t.1.getD (i + w) 0) 0 else (t.1.getD i 0, {})
  (l.map (·.1), (l.map (·.2)).foldl VFlags.or t.2)

/-- The six levels of VSUM64 (R88), with the flags of its additions. The rule gives 64 lanes; of a shorter group the lanes that
are not there take no part, which is the model's choice (DESIGN CHOICE, log 116): no start value is added (R89). -/
def vsum64F (r : Rnd) (lanes : List Nat) : Nat × VFlags :=
  let t := [32, 16, 8, 4, 2, 1].foldl (fun t w => vsumLevel r w t) (lanes, {})
  (t.1.getD 0 0, t.2)

def vsum64 (r : Rnd) (lanes : List Nat) : Nat := (vsum64F r lanes).1

/-- An FP64 sum over registers: VSUM64 of each, added in ascending order from the first (R89). A program takes it with VSUM64
steps and ADD steps. -/
def vsum64All (r : Rnd) : List (List Nat) → Nat
  | [] => 0
  | g :: rest => rest.foldl (fun acc h => (vlane .add .fp64 r acc (vsum64 r h) 0).1) (vsum64 r g)

end Sys2Proof
end

