-- ==== Sys2Proof/Machine/Shipped.lean ====
section
/-! DEFINITION. The working format (R127, R128), and what the manual states of the shipped sets' programs (R148 to R152): their
functions and cycles, the exact functions they approximate, the unit in which their errors are stated, and the results that
keep the stated bounds. Their tables are not given: a result is a free value (Config.shipped) among those. -/

namespace Sys2Proof

/-- The working format (Table 05-1). -/
def layW : FLay := ⟨15, 48, 16383, true, false⟩

/-- Is a finite value nonzero and below the smallest subnormal of the working format? -/
def belowW (mag : Nat) (exp : Int) : Bool := mag != 0 && decide (flog2 mag exp < layW.emin - layW.mb)

/-- Round to the working format (R128): what lies below the smallest subnormal becomes a zero of its sign. -/
def rW (v : Val) : Val :=
  match v with
  | .fin neg m e => if belowW m e then .fin neg 0 0 else layW.decode (layW.roundVal .ties v).bits
  | _ => layW.decode (layW.roundVal .ties v).bits

/-- The working encoding of a value that the format holds. -/
def encW (v : Val) : BitVec 64 := BitVec.ofNat 64 (layW.roundVal .ties v).bits

/-- SET_ID of the shipped sets (R148). -/
def setStandard : Nat := 0x00010100
def setFast : Nat := 0x00020100
def setHeritage : Nat := 0x00030100

def isShipped (id : Nat) : Bool := id == setStandard || id == setFast || id == setHeritage

/-- FUNC_IDs of a shipped set (Tables 05-11, 05-12, 05-14). -/
def shippedHas (id f : Nat) : Bool :=
  if id == setHeritage then [0x01, 0x03, 0x05, 0x07, 0x08, 0x09, 0x0B, 0x0C].contains f
  else decide (1 ≤ f ∧ f ≤ 0x10)

/-- Step cycles per 64 elements of a shipped program. -/
def shippedCycles (id f : Nat) : Nat :=
  let pick (l : List Nat) : Nat := l.getD (f - 1) 0
  if id == setStandard then pick [9, 9, 10, 10, 12, 11, 12, 16, 16, 17, 19, 17, 16, 13, 14, 14]
  else if id == setFast then pick [6, 6, 7, 7, 7, 7, 8, 10, 10, 11, 12, 11, 10, 8, 9, 9]
  else pick [10, 0, 11, 0, 9, 0, 10, 14, 14, 0, 18, 15, 0, 0, 0, 0]


/-! ### The exact functions (R149)

A real number is enclosed between two integers in units of 2^-700. The enclosures are so narrow that no bound below depends on
where in one its number lies. -/

/-- A number between `lo` and `hi`, in units of 2^-700. -/
structure Encl where
  lo : Int
  hi : Int
  deriving DecidableEq, Repr

def enclBits : Nat := 700

namespace Encl

def ofInt (i : Int) : Encl := ⟨i * 2 ^ enclBits, i * 2 ^ enclBits⟩

/-- The integers on both sides of i × 2^e. -/
def around (i e : Int) : Encl :=
  if 0 ≤ e then ⟨i * 2 ^ e.toNat, i * 2 ^ e.toNat⟩
  else ⟨i / 2 ^ (-e).toNat, -(-i / 2 ^ (-e).toNat)⟩

def ofVal : Val → Encl
  | .fin s m e => around ((if s then -1 else 1) * (m : Int)) (e + enclBits)
  | _ => ofInt 0

def neg (a : Encl) : Encl := ⟨-a.hi, -a.lo⟩
def add (a b : Encl) : Encl := ⟨a.lo + b.lo, a.hi + b.hi⟩
def sub (a b : Encl) : Encl := a.add b.neg

/-- Product: the extremes lie at the ends. -/
def mul (a b : Encl) : Encl :=
  let l := [a.lo * b.lo, a.lo * b.hi, a.hi * b.lo, a.hi * b.hi]
  let least := l.foldl min (a.lo * b.lo)
  let most := l.foldl max (a.lo * b.lo)
  ⟨least / 2 ^ enclBits, -(-most / 2 ^ enclBits)⟩

/-- Quotient by a positive number. -/
def div (a b : Encl) : Encl :=
  let lo := a.lo * 2 ^ enclBits
  let hi := a.hi * 2 ^ enclBits
  ⟨lo / (if 0 ≤ lo then b.hi else b.lo), -(-hi / (if 0 ≤ hi then b.lo else b.hi))⟩

def scale (a : Encl) (k : Int) : Encl := ⟨(around a.lo k).lo, (around a.hi k).hi⟩

/-- `n` terms of a series: term i + 1 is term i times `x`, over `d i` where that is not 0; `use` keeps a term. What is left out
lies below one unit. -/
def series (x : Encl) (d : Nat → Nat) (use : Nat → Encl → Encl) : Nat → Nat → Encl → Encl → Encl
  | 0, _, _, sum => ⟨sum.lo - 1, sum.hi + 1⟩
  | n + 1, i, t, sum => series x d use n (i + 1) ((t.mul x).div (ofInt (d (i + 1)))) (sum.add (use i t))

def plain (_ : Nat) (t : Encl) : Encl := t
def alternate (i : Nat) (t : Encl) : Encl := if i % 2 = 0 then t else t.neg

/-- 2 atanh z, for |z| ≤ 1/3. -/
def atanh2 (z : Encl) : Encl :=
  series (z.mul z) (fun _ => 1) (fun i t => t.div (ofInt (2 * i + 1))) 230 0 (z.add z) (ofInt 0)

def atan (n : Nat) : Encl :=
  let z := (ofInt 1).div (ofInt n)
  series (z.mul z) (fun _ => 1) (fun i t => alternate i (t.div (ofInt (2 * i + 1)))) 160 0 z (ofInt 0)

def ln2 : Encl := atanh2 ((ofInt 1).div (ofInt 3))

/-- π by Machin's formula. -/
def pi : Encl := ((ofInt 16).mul (atan 5)).sub ((ofInt 4).mul (atan 239))

/-- The root of a number that is not negative; exact where it is. -/
def sqrt (a : Encl) : Encl :=
  let root (n : Nat) : Nat := isqrt (Nat.log2 n / 2 + 1) n 0
  let lo := a.lo.toNat * 2 ^ enclBits
  let hi := a.hi.toNat * 2 ^ enclBits
  ⟨root lo, if root hi * root hi = hi then root hi else root hi + 1⟩

/-- e^x as an enclosure and a power of two, for |x| ≤ 20,000: beyond it every format overflows or underflows. -/
def exp (x : Encl) : Encl × Int :=
  let top := ofInt 20000
  let x := if top.lo < x.lo then top else if x.hi < -top.lo then top.neg else x
  let k := (x.lo + ln2.lo / 2) / ln2.lo
  (series (x.sub ((ofInt k).mul ln2)) (fun i => i) plain 130 0 (ofInt 1) (ofInt 0), k)

/-- e^x of an x that is not above 0. -/
def expNeg (x : Encl) : Encl := let (y, k) := x.exp; y.scale k

/-- log x of a positive x = m × 2^k. -/
def log (m : Encl) (k : Int) : Encl := (atanh2 ((m.sub (ofInt 1)).div (m.add (ofInt 1)))).add ((ofInt k).mul ln2)

/-- 1 / (1 + e^-x). -/
def sigmoid (x : Encl) : Encl :=
  if 0 ≤ x.lo then (ofInt 1).div ((ofInt 1).add x.neg.expNeg)
  else x.expNeg.div ((ofInt 1).add x.expNeg)

def tanh (x : Encl) : Encl :=
  let pos (x : Encl) : Encl := let t := (x.add x).neg.expNeg; ((ofInt 1).sub t).div ((ofInt 1).add t)
  if 0 ≤ x.lo then pos x else (pos x.neg).neg

/-- log(1 + e^x). -/
def softplus (x : Encl) : Encl :=
  let log1 (t : Encl) : Encl := atanh2 (t.div ((ofInt 2).add t))
  if 0 ≤ x.lo then x.add (log1 x.neg.expNeg) else log1 x.expNeg

/-- erf x; within 2^-200 of 1 from 12 up. -/
def erf (x : Encl) : Encl :=
  let pos (x : Encl) : Encl :=
    if (ofInt 12).lo ≤ x.lo then ⟨2 ^ enclBits - 2 ^ (enclBits - 200), 2 ^ enclBits⟩
    else (series (x.mul x) (fun i => i) (fun i t => alternate i (t.div (ofInt (2 * i + 1)))) 900 0 x (ofInt 0)).mul
      ((ofInt 2).div pi.sqrt)
  if 0 ≤ x.lo then pos x else (pos x.neg).neg

/-- sin of x + quarter × π/2. -/
def sin (x : Encl) (quarter : Int) : Encl :=
  let half := pi.scale (-1)
  let n := (x.lo + half.lo / 2) / half.lo
  let r := x.sub ((ofInt n).mul half)
  let q := (n + quarter) % 4
  let even := series (r.mul r) (fun i => (2 * i) * (2 * i - 1)) alternate 80 0 (ofInt 1) (ofInt 0)
  let odd := series (r.mul r) (fun i => (2 * i) * (2 * i + 1)) alternate 80 0 r (ofInt 0)
  let y := if q % 2 = 0 then odd else even
  if q < 2 then y else y.neg

end Encl

/-- The functions of Table 05-11 at a finite nonzero value inside their domain: an enclosure and a power of two. -/
def exactFunc (f : Nat) (x : Val) : Encl × Int :=
  let a := Encl.ofVal x
  match x with
  | .fin s m e =>
    let l := Nat.log2 m
    let hi := decide (3 * 2 ^ l ≤ 2 * m)
    let k : Int := (l : Int) + e + (if hi then 1 else 0)
    let mant := Encl.ofVal (.fin false m (e - k))
    match f with
    | 0x01 => a.exp
    | 0x02 =>
      let k := a.lo / 2 ^ enclBits
      if a = .ofInt k then (.ofInt 1, k) else (((Encl.sub a (.ofInt k)).mul .ln2).exp.1, k)
    | 0x03 => (.log mant k, 0)
    | 0x04 => (if mant = .ofInt 1 then .ofInt k else (Encl.log mant k).div .ln2, 0)
    | 0x05 => (if s then ((Encl.ofInt 1).div mant).neg else (Encl.ofInt 1).div mant, -k)
    | 0x06 => (a.sqrt, 0)
    | 0x07 =>
      let j := k / 2
      let t := Encl.scale mant (k - 2 * j)
      ((Encl.ofInt 1).div t.sqrt, -j)
    | 0x08 => (a.sigmoid, 0)
    | 0x09 => (a.tanh, 0)
    | 0x0A => ((a.scale (-1)).mul ((Encl.ofInt 1).add (a.div (Encl.ofInt 2).sqrt).erf), 0)
    | 0x0B =>
      let u := ((Encl.ofInt 2).div .pi).sqrt.mul (a.add (((Encl.ofInt 44715).div (.ofInt 1000000)).mul (a.mul (a.mul a))))
      (a.mul (u.add u).sigmoid, 0)
    | 0x0C => (a.mul a.sigmoid, 0)
    | 0x0D => (a.softplus, 0)
    | 0x0E => (a.erf, 0)
    | 0x0F => (a.sin 0, 0)
    | _ => (a.sin 1, 0)
  | _ => (.ofInt 0, 0)

/-- The two ends of an enclosure as values. -/
def exactEnds (f : Nat) (x : Val) : Val × Val :=
  let (y, k) := exactFunc f x
  let at_ (i : Int) : Val := .fin (decide (i < 0)) i.natAbs (k - enclBits)
  (at_ y.lo, at_ y.hi)

/-! ### Error bounds (R149, R150, R152) -/

/-- The exponent of a unit in the last place of a format at an exact value: of its significand, of the smallest subnormal at
and below the smallest normal number (R149). -/
def FLay.ulpExp (l : FLay) (y : Val) : Int :=
  match y with
  | .fin _ m e => (if m = 0 then l.emin else max (flog2 m e) l.emin) - l.mb
  | _ => l.emin - l.mb

/-- The bound of a function in FP32, BF16 and FP16, E4M3 and E5M2, in halves of a unit (Tables 05-11, 05-12, 05-14); 0 where
none is stated. -/
def shippedBound (set f : Nat) : Nat × Nat × Nat :=
  let pick (l : List Nat) : Nat := l.getD (f - 1) 0
  if set = setStandard then (pick [2, 2, 2, 2, 1, 1, 2, 3, 3, 4, 4, 4, 3, 3, 2, 2], 1, 1)
  else if set = setFast then (pick [8, 8, 8, 8, 4, 4, 8, 16, 16, 16, 16, 16, 16, 16, 16, 16], 2, 1)
  else (8, 2, 0)

/-- Is a value an input of the formats for which the bounds are stated? All lie on the grid of FP32 with at most 24 bits, MX
scales included. -/
def boundedInput (x : Val) : Bool :=
  match x with
  | .fin _ m e =>
    let d := max (flog2 m e - 23) (-149)
    m != 0 && decide (flog2 m e < 144) && (decide (d ≤ e) || m % 2 ^ (d - e).toNat == 0)
  | _ => false

/-- Is an input below 0 outside a function's domain (Table 05-13)? -/
def belowDomain (f : Nat) (x : Val) : Bool := [0x03, 0x04, 0x06, 0x07].contains f && vle x (.fin true 0 0)

/-- Does a working result keep a bound of `b` half units in a format, rounded to nearest even? A bound of one half unit is
correct rounding. Where something overflows or vanishes R34 governs. -/
def keepsBound (l : FLay) (b : Nat) (ends : Val × Val) (w : Val) : Bool :=
  let r := l.roundVal .ties w
  let lo := l.roundVal .ties ends.1
  let hi := l.roundVal .ties ends.2
  let gone (x : Rounded) : Bool := x.overflow || x.bits % 2 ^ (l.eb + l.mb) == 0
  if b = 0 ∨ gone lo ∨ gone hi then true
  else if b = 1 then r.bits == lo.bits || r.bits == hi.bits
  else
    let v := l.decode r.bits
    let most : Val := .fin false b (l.ulpExp ends.1 - 1)
    let within (y : Val) : Bool :=
      let d := (vadd .ties v y.neg).1
      vle d most && vle most.neg d
    within ends.1 && within ends.2 && (ends.1 != ends.2 || l.decode lo.bits != ends.1 || r.bits == lo.bits)

/-- Is a working result one that the manual allows a shipped program: within every stated bound, exact where the exact result
can be represented, and for sin and cos of a large number within [-1, 1]? -/
def shippedAllows (set f : Nat) (x w : Val) : Bool :=
  let one : Val := .fin false 1 0
  let large := f ≥ 0x0F && !(vle x (.fin false 1 20) && vle (.fin true 1 20) x)
  if large then vle w one && vle one.neg w
  else
    let (b32, b16, b8) := shippedBound set f
    let ends := exactEnds f x
    keepsBound lay32 b32 ends w && keepsBound layBf16 b16 ends w && keepsBound layFp16 b16 ends w &&
    keepsBound layE4m3 b8 ends w && keepsBound layE5m2 b8 ends w

/-- A shipped program's working result at an input: the free value where the manual allows it, else the exact result,
rounded. -/
def shippedAt (set f : Nat) (x : Val) : Val :=
  let w := layW.decode (Config.shipped set f (encW x)).toNat
  if !boundedInput x || shippedAllows set f x w then w else rW (exactEnds f x).1

/-- Tables 05-11 and 05-12: in which direction a function is monotone, if it is; on each sign for the reciprocal. The heritage
set states none. -/
def monotone (set f : Nat) : Option Bool :=
  if set = setHeritage then none
  else if [0x01, 0x02, 0x03, 0x04, 0x06, 0x08, 0x09, 0x0D, 0x0E].contains f then some true
  else if f = 0x05 ∨ f = 0x07 then some false
  else none

/-- Are two working results in the order that the direction asks of their inputs? -/
def inOrder (f : Nat) (up : Bool) (x y wx wy : Val) : Bool :=
  let signs (a : Val) : Bool := vle a (.fin true 0 0)
  !(boundedInput x && boundedInput y && vle x y) || belowDomain f x || (f == 0x05 && signs x != signs y) || (if up then vle wx wy else vle wy wx)

/-- Do the results over all inputs keep the direction stated? Every pair of working encodings is compared: a condition on a free
function, which nothing evaluates. -/
@[irreducible] def keepsDirection (set f : Nat) : Bool :=
  match monotone set f with
  | none => true
  | some up => decide (∀ i < 2 ^ 64, ∀ j < 2 ^ 64,
      inOrder f up (layW.decode i) (layW.decode j) (shippedAt set f (layW.decode i)) (shippedAt set f (layW.decode j)) = true)

/-- The working result of a shipped program on an input that Table 05-13 does not list. -/
def shippedVal (set f : Nat) (x : Val) : Val := if keepsDirection set f then shippedAt set f x else rW (exactEnds f x).1

end Sys2Proof
end

