-- ==== Sys2Proof/Machine/Func.lean ====
section
/-! DEFINITION. Special functions (R127 to R153): the working format, micro-programs, set images and their loader
checks, and one element's evaluation. -/

namespace Sys2Proof

/-! ### Sets -/

/-- One segment of a table (Table 05-6), working values as encodings. -/
structure SegEntry where
  coef : List Nat
  start : Nat
  stop : Nat
  deriving DecidableEq, Repr

/-- A segment table (Table 05-5). -/
structure FTable where
  mono : Bool
  degree : Nat
  wshift : Int
  lo : Nat
  segs : List SegEntry
  deriving DecidableEq, Repr

/-- A program of a set (Table 05-8): FUNC_ID, step words, OUT_REG, special-value codes. -/
structure FProg where
  funcId : Nat
  steps : List Nat
  outReg : Nat
  special : Nat
  deriving DecidableEq, Repr

/-- A set as a core holds it. The shipped sets carry no tables: their programs are free (Config.shipped). -/
structure FSet where
  setId : Nat
  signer : Nat
  digest : BitVec 384
  progs : List FProg
  tables : List FTable
  consts : List Nat
  deriving DecidableEq, Repr

/-! ### Steps -/

/-- The working state of one element (R128). -/
structure FState where
  w : List Val
  k : Int
  seg : Nat
  q : Nat
  bank : List Val
  /-- Which registers hold a NaN with its sign bit set; an operation's own NaN is the canonical one. -/
  nanNeg : List Bool
  deriving DecidableEq, Repr

def wzero : Val := .fin false 0 0

def FState.init (x : Val) : FState :=
  ⟨x :: List.replicate 7 wzero, 0, 0, 0, List.replicate 6 wzero, List.replicate 8 false⟩

def FState.reg (s : FState) (i : Nat) : Val := s.w.getD i wzero

/-- Write a register; `neg` is the sign bit of a NaN that is passed on and not made. -/
def FState.setReg (s : FState) (i : Nat) (v : Val) (neg : Bool := false) : FState :=
  { s with w := s.w.set i v, nanNeg := s.nanNeg.set i (v.isNan && neg) }

def FState.nanSign (s : FState) (i : Nat) : Bool := s.nanNeg.getD i false

/-- The magnitude of a value with a sign; a NaN result is the canonical one (R131). -/
def Val.withSign (neg : Bool) : Val → Val
  | .nan _ => .nan false
  | .inf _ => .inf neg
  | .fin _ m e => .fin neg m e

/-- The sign of a value, a NaN's being told apart. -/
def Val.signOr (nan : Bool) : Val → Bool
  | .nan _ => nan
  | .inf s => s
  | .fin s _ _ => s

/-- Fields of a step word (Table 05-2). -/
def stepOp (w : Nat) : Nat := bits w 63 60
def stepD (w : Nat) : Nat := bits w 59 57
def stepA (w : Nat) : Nat := bits w 56 54
def stepB (w : Nat) : Nat := bits w 53 51
def stepMode (w : Nat) : Nat := bits w 50 48
def stepTab (w : Nat) : Nat := bits w 47 40
def stepImm (w : Nat) : Int := ofTwos 8 (bits w 39 32)
def stepConst (w : Nat) : Nat := bits w 27 16

def FSet.const (s : FSet) (i : Nat) : Val := layW.decode (s.consts.getD i 0)

/-- The sign bit of a constant, a NaN's too. -/
def FSet.constNeg (s : FSet) (i : Nat) : Bool := (s.consts.getD i 0).testBit 63

def FSet.table (s : FSet) (i : Nat) : FTable := s.tables.getD i ⟨false, 0, 0, 0, []⟩

/-- An exact integer multiple of 2^e. -/
def intVal (i : Int) (e : Int) : Val := .fin (decide (i < 0)) i.natAbs e

/-- The exact sum of values; IEEE rules for the non-finite ones. -/
def exactSum (x y : Val) : Val := (vadd .ties x y).1

def exactMul (x y : Val) : Val := (vmul x y).1

/-- The left end of segment `s` (R135), exact. -/
def FTable.left (t : FTable) (s : Nat) : Val := exactSum (layW.decode t.lo) (intVal s t.wshift)

/-- The segment of a source value (R135). Where LO is infinite or NaN, a finite one takes segment 0 (DEDUCED, log 138). -/
def FTable.pick (t : FTable) (a : Val) : Nat :=
  match a with
  | .nan _ => Config.lutNan (encW a) % max 1 t.segs.length
  | .inf neg => if neg then 0 else t.segs.length - 1
  | .fin .. =>
    match exactSum a (layW.decode t.lo).neg with
    | .fin neg m e =>
      let s := e - t.wshift
      let fl : Int := if 0 ≤ s then m * 2 ^ s.toNat else
        (if neg then ((m + 2 ^ (-s).toNat - 1) / 2 ^ (-s).toNat : Nat) else (m / 2 ^ (-s).toNat : Nat))
      let i := if neg then -fl else fl
      if i < 0 then 0 else min i.toNat (t.segs.length - 1)
    | _ => 0

/-- The integer a RANGE step takes: A × c rounded to even, clamped to ±2^20 (Table 05-3). -/
def rangeInt (a c : Val) : Int :=
  match exactMul a c with
  | .nan _ => Config.rangeK (encW a)
  | .inf neg => if neg then -1048576 else 1048576
  | .fin neg m e =>
    let (n, _) := roundMag .ties neg m e 0
    let i : Int := if neg then -n else n
    max (-1048576) (min 1048576 i)

/-- One step of a program (R131, Table 05-3). -/
def FSet.step (fs : FSet) (s : FState) (w : Nat) : FState :=
  let a := s.reg (stepA w)
  let b := s.reg (stepB w)
  let c := stepConst w
  let d := stepD w
  let t := fs.table (stepTab w)
  let mode := stepMode w
  match stepOp w with
  | 1 =>
    if mode = 1 then
      match a with
      | .fin false m e =>
        if m = 0 then { s.setReg d (.nan false) with k := Config.rangeK (encW a) }
        else
          -- A = m' × 2^k with m' in [0.75, 1.5)
          let l := Nat.log2 m
          let hi := decide (3 * 2 ^ l ≤ 2 * m)
          let k : Int := (l : Int) + e + (if hi then 1 else 0)
          { s.setReg d (.fin false m (e - k)) with k := k }
      | _ => { s.setReg d (.nan false) with k := Config.rangeK (encW a) }
    else
      let k := rangeInt a (fs.const c)
      let r := rW (exactSum a (exactSum (exactMul (intVal (-k) 0) (fs.const (c + 1)))
        (exactMul (intVal (-k) 0) (fs.const (c + 2)))))
      let s := { s.setReg d r with k := k }
      if mode = 2 then { s with q := (k % 4).toNat } else s
  | 2 =>
    let i := t.pick a
    let e := t.segs.getD i ⟨[], 0, 0⟩
    { s with seg := i, bank := (List.range 6).map fun j => layW.decode (e.coef.getD j 0) }
  | 3 =>
    let x := if mode % 2 = 0 then a else rW (exactSum a (t.left s.seg).neg)
    let acc := (List.range t.degree).reverse.foldl
      (fun acc j => rW (vfma .ties false false acc x (s.bank.getD j wzero)).1) (s.bank.getD t.degree wzero)
    s.setReg d acc
  | 4 =>
    s.setReg d (rW (a.scale (stepImm w + (if mode % 2 = 1 then s.k else 0))))
  | 5 =>
    let e := t.segs.getD s.seg ⟨[], 0, 0⟩
    let lo := if mode = 0 then layW.decode e.start else fs.const c
    let hi := if mode = 0 then layW.decode e.stop else fs.const (c + 1)
    if a.isNan then s.setReg d (.nan false) (s.nanSign (stepA w))
    else s.setReg d (vminmax false (vminmax true a lo).1 hi).1
  | 6 =>
    let k := fs.const c
    let cmp := !(b.isNan || k.isNan)
    let le := vle b k
    let ge := vle k b
    -- +0 and −0 compare equal
    let zeroes := match b, k with | .fin _ 0 _, .fin _ 0 _ => true | _, _ => false
    let holds :=
      match mode % 4 with
      | 0 => cmp && le && !ge && !zeroes
      | 1 => cmp && (ge || zeroes)
      | 2 => cmp && ((le && ge) || zeroes)
      | _ => (s.q : Int) == stepImm w % 4
    if !holds then s
    else if mode / 4 = 1 then s.setReg d (fs.const (c + 1)) (fs.constNeg (c + 1))
    else s.setReg d a (s.nanSign (stepA w))
  | 7 =>
    let r :=
      match mode with
      | 0 => rW (vadd .ties a b).1
      | 1 => rW (vadd .ties a b.neg).1
      | 2 => rW (vmul a b).1
      | 3 => rW (vfma .ties false false a b (s.reg d)).1
      | 4 => rW (vdiv a b).1
      | 5 => a.withSign (b.signOr (s.nanSign (stepB w)))
      | 6 => (vfloat .neg .ties a wzero wzero).1
      | _ => (vfloat .abs .ties a wzero wzero).1
    s.setReg d r
  | _ => s

/-- Cycles of a step per 64 lanes (Table 05-3). -/
def FSet.stepCycles (fs : FSet) (w : Nat) : Nat :=
  match stepOp w with
  | 3 => max 1 (fs.table (stepTab w)).degree
  | 7 => if stepMode w = 4 then 4 else 1
  | _ => 1

/-- Special-value codes (Table 05-4); code 7 runs the program, and so does a code above it (DEDUCED, log 138). -/
def specialVal : Nat → Option Val
  | 0 => some (.fin false 0 0) | 1 => some (.fin true 0 0) | 2 => some (.fin false 1 0) | 3 => some (.fin true 1 0)
  | 4 => some (.inf false) | 5 => some (.inf true) | 6 => some (.nan false) | _ => none

/-- The special-value code of an input, none when the input is finite and nonzero. -/
def specialCode (special : Nat) (x : Val) : Option Nat :=
  match x with
  | .fin false 0 _ => some (bits special 15 12)
  | .fin true 0 _ => some (bits special 11 8)
  | .inf false => some (bits special 7 4)
  | .inf true => some (bits special 3 0)
  | _ => none

/-- Table 05-13: the listed values of the shipped sets. -/
def shippedSpecial (f : Nat) (x : Val) : Option Val :=
  let p0 : Val := .fin false 0 0
  let n0 : Val := .fin true 0 0
  let one : Val := .fin false 1 0
  let pick (a b c d : Val) (neg : Option Val) : Option Val :=
    match x with
    | .fin false 0 _ => some a
    | .fin true 0 _ => some b
    | .inf false => some c
    | .inf true => some d
    | .fin true _ _ => neg
    | _ => none
  match f with
  | 0x01 | 0x02 => pick one one (.inf false) p0 none
  | 0x03 | 0x04 => pick (.inf true) (.inf true) (.inf false) (.nan false) (some (.nan false))
  | 0x05 => pick (.inf false) (.inf true) p0 n0 none
  | 0x06 => pick p0 n0 (.inf false) (.nan false) (some (.nan false))
  | 0x07 => pick (.inf false) (.inf true) p0 (.nan false) (some (.nan false))
  | 0x08 => pick (.fin false 1 (-1)) (.fin false 1 (-1)) one p0 none
  | 0x09 | 0x0E => pick p0 n0 one (.fin true 1 0) none
  | 0x0A | 0x0B | 0x0C => pick p0 n0 (.inf false) n0 none
  | 0x0D =>
    -- ln 2 rounded to the working format, 49 significant bits (R128)
    let ln2 : Val := .fin false 390207173010335 (-49)
    pick ln2 ln2 (.inf false) p0 none
  | 0x0F => pick p0 n0 (.nan false) (.nan false) none
  | 0x10 => pick one one (.nan false) (.nan false) none
  | _ => none

/-- The working result of one element (R129), before the final rounding. -/
def FSet.eval (fs : FSet) (f : Nat) (x : Val) : Val :=
  match x with
  | .nan _ => .nan false
  | _ =>
    if isShipped fs.setId then
      match shippedSpecial f x with
      | some v => v
      | none => shippedVal fs.setId f x
    else
      match fs.progs.find? (·.funcId == f) with
      | none => .nan false
      | some p =>
        let direct := (specialCode p.special x).bind specialVal
        match direct with
        | some v => v
        | none => (p.steps.foldl fs.step (FState.init x)).reg p.outReg

/-- Whether a set offers a function. -/
def FSet.has (fs : FSet) (f : Nat) : Bool :=
  if isShipped fs.setId then shippedHas fs.setId f else fs.progs.any (·.funcId == f)

/-- Cycles per 64 elements (R132). -/
def FSet.cycles (fs : FSet) (f : Nat) : Nat :=
  if isShipped fs.setId then shippedCycles fs.setId f
  else match fs.progs.find? (·.funcId == f) with
    | none => 0
    | some p => (p.steps.map fs.stepCycles).sum

/-- Do two values agree? All NaNs do, and the two zeros. -/
def Val.same (x y : Val) : Bool := (x.isNan && y.isNan) || (vle x y && vle y x) ||
  (match x, y with | .fin _ 0 _, .fin _ 0 _ => true | _, _ => false)

/-- The flags of one FUNC output (R153): the input, the working result, the output as it is stored, and what the rounding
reported. -/
def funcFlags (x y out : Val) (w : Rounded) : VFlags :=
  { invalid := y.isNan && !x.isNan
    divzero := (match y, x with | .inf _, .fin _ 0 _ => true | _, _ => false)
    overflow := w.overflow || w.sat
    underflow := w.tiny && w.inexact
    inexact := !out.same y }

/-! ### Set images (R139 to R141) -/

/-- The header fields of a set image (Table 05-7). -/
structure SetHdr where
  setId : Nat
  version : Nat
  progCount : Nat
  tabCount : Nat
  constCount : Nat
  length : Nat
  signer : Nat
  stepOff : Nat
  constOff : Nat
  tabOff : Nat
  deriving DecidableEq, Repr

def SetHdr.ofBytes (b : List Byte) : SetHdr :=
  ⟨field b 0 4, field b 4 2, field b 6 2, field b 8 2, field b 10 2, field b 12 4, field b 32 1, field b 36 4,
   field b 40 4, field b 44 4⟩

/-- A table at an offset (Tables 05-5, 05-6). -/
def parseTable (b : List Byte) (o : Nat) : FTable where
  mono := field b (o + 2) 1 % 2 == 1
  degree := field b (o + 3) 1
  wshift := ofTwos 8 (field b (o + 4) 1)
  lo := field b (o + 8) 8
  segs := (List.range (field b o 2)).map fun i =>
    let e := o + 16 + 64 * i
    ⟨(List.range 6).map fun j => field b (e + 8 * j) 8, field b (e + 48) 8, field b (e + 56) 8⟩

/-- The set an image describes. -/
def parseSet (b : List Byte) : FSet :=
  let h := SetHdr.ofBytes b
  { setId := h.setId
    signer := h.signer
    digest := Config.sha384 (b.take h.length)
    progs := (List.range h.progCount).map fun i =>
      let e := 64 + 16 * i
      let first := field b (e + 2) 2
      ⟨field b e 1, (List.range (field b (e + 1) 1)).map fun j => field b (h.stepOff + 8 * (first + j)) 8,
       field b (e + 4) 1, field b (e + 6) 2⟩
    tables := (List.range h.tabCount).map fun i => parseTable b (field b (h.tabOff + 4 * i) 4)
    consts := (List.range h.constCount).map fun i => field b (h.constOff + 8 * i) 8 }

/-- Check 1 of Table 05-9: version, counts and offsets inside the image. A FUNC_ID of 0 or one given twice passes
(DEDUCED, log 138). -/
def imageShapeOk (b : List Byte) (imgBytes : Nat) : Bool :=
  let h := SetHdr.ofBytes b
  let steps := (List.range h.progCount).foldl (fun n i =>
    max n (field b (64 + 16 * i + 2) 2 + field b (64 + 16 * i + 1) 1)) 0
  h.version == 1 && h.length + 96 == imgBytes && decide (1 ≤ h.progCount ∧ h.progCount ≤ 64) &&
  decide (h.tabCount ≤ 256) && decide (h.constCount ≤ 4096) && decide (h.signer ≤ 15) &&
  decide (64 + 16 * h.progCount ≤ h.length) && decide (h.stepOff + 8 * steps ≤ h.length) &&
  decide (h.constOff + 8 * h.constCount ≤ h.length) && decide (h.tabOff + 4 * h.tabCount ≤ h.length) &&
  (List.range h.tabCount).all fun i =>
    let o := field b (h.tabOff + 4 * i) 4
    decide (o + 16 + 64 * field b o 2 ≤ h.length) && decide (1 ≤ field b o 2 ∧ field b o 2 ≤ 256)

/-- The bits of a step word that its OP and MODE use (Tables 05-2, 05-3); every other bit must be 0 (R131). -/
def stepUsed (w : Nat) : Nat :=
  let op := 0xF * 2 ^ 60
  let d := 7 * 2 ^ 57
  let a := 7 * 2 ^ 54
  let b := 7 * 2 ^ 51
  let mode := 7 * 2 ^ 48
  let tab := 0xFF * 2 ^ 40
  let imm := 0xFF * 2 ^ 32
  let con := 0xFFF * 2 ^ 16
  match stepOp w with
  | 1 => if stepMode w = 1 then op + d + a + mode else op + d + a + mode + con
  | 2 => op + a + tab
  | 3 => op + d + a + 2 ^ 48 + tab
  | 4 => op + d + a + 2 ^ 48 + imm
  | 5 => if stepMode w = 0 then op + d + a + mode + tab else op + d + a + mode + con
  | 6 =>
    let src := if stepMode w / 4 = 0 then a else con
    op + d + mode + (if stepMode w % 4 = 3 then imm else b + con) ||| src
  | 7 =>
    let two := stepMode w ≤ 5
    op + d + a + mode + (if two then b else 0)
  | _ => 0

/-- A MODE an OP defines; another fails as STEP (DEDUCED, log 138). -/
def stepModeOk (w : Nat) : Bool :=
  match stepOp w with
  | 1 => decide (stepMode w ≤ 2)
  | 5 => decide (stepMode w ≤ 1)
  | 2 | 3 | 4 | 6 | 7 => true
  | _ => false

/-- Check 4 of Table 05-9, of STEP_COUNT and OUT_REG too (DEDUCED, log 138). -/
def FSet.stepsOk (fs : FSet) : Bool :=
  fs.tables.all (fun t => decide (t.degree ≤ 5)) &&
  fs.progs.all fun p => decide (1 ≤ p.steps.length ∧ p.steps.length ≤ 48) && decide (p.outReg ≤ 7) &&
    p.steps.all fun w =>
      stepModeOk w && w - (w &&& stepUsed w) == 0 &&
      (stepUsed w / 2 ^ 40 % 256 == 0 || decide (stepTab w < fs.tables.length)) &&
      (stepUsed w / 2 ^ 16 % 4096 == 0 || decide (stepConst w + 2 < fs.consts.length))

/-- Order of two working values with equal zeros; false when either is NaN. -/
def wle (x y : Nat) : Bool :=
  match layW.decode x, layW.decode y with
  | .fin _ 0 _, .fin _ 0 _ => true
  | a, b => vle a b

/-- The first segment that breaks the seam order of a monotone table (R136). -/
def FTable.seamBreak (t : FTable) : Option Nat :=
  let rec go : List SegEntry → Nat → Option Nat → Option Nat
    | [], _, _ => none
    | e :: rest, i, prev =>
      let ok := (match prev with | none => wle e.start e.start | some p => wle p e.start) && wle e.start e.stop
      if ok then go rest (i + 1) (some e.stop) else some i
  if t.mono then go t.segs 0 none else none

/-- Check 5: table and segment of the first break, in table order. -/
def FSet.nonMono (fs : FSet) : Option (Nat × Nat) :=
  let rec go : List FTable → Nat → Option (Nat × Nat)
    | [], _ => none
    | t :: rest, i => match t.seamBreak with
      | some s => some (i, s)
      | none => go rest (i + 1)
  go fs.tables 0

/-- Check 6 (R137): after a POLY on a monotone table, a SEAM CLAMP of the same table on the POLY's destination comes
before any later LUT on that table and before the end. -/
def FSet.clampsOk (fs : FSet) : Bool :=
  let isMono (t : Nat) : Bool := (fs.table t).mono
  let rec waits (tab d : Nat) : List Nat → Bool
    | [] => false
    | w :: rest =>
      if stepOp w == 5 && stepMode w == 0 && stepTab w == tab && stepA w == d then true
      else if stepOp w == 2 && stepTab w == tab then false
      else waits tab d rest
  let rec go : List Nat → Bool
    | [] => true
    | w :: rest =>
      (if stepOp w == 3 && isMono (stepTab w) then waits (stepTab w) (stepD w) rest else true) && go rest
  fs.progs.all fun p => go p.steps

/-- Program slots, segment entries and constant words a set takes on a core (R142). The shipped sets take 40 slots,
2,560 segments and 1,352 constants together. -/
def FSet.load (fs : FSet) : Nat × Nat × Nat :=
  if fs.setId == setStandard then (40, 2560, 1352)
  else if isShipped fs.setId then (0, 0, 0)
  else (fs.progs.length, (fs.tables.map (·.segs.length)).sum, fs.consts.length)

/-- A shipped set. -/
def shippedSet (id : Nat) : FSet := ⟨id, 0, Config.shippedDigest id, [], [], []⟩

/-- The shipped sets as a core's directory holds them. -/
def shippedSets : List FSet := [setStandard, setFast, setHeritage].map shippedSet

end Sys2Proof
end

