-- ==== Sys2Proof/Machine/Accum.lean ====
section
/-! DEFINITION. Anchored accumulation (R98 to R126): contributions, tags, the 128-bit window, the FP32 split,
MX block sums, the default anchor, and the drain that rounds once. -/

namespace Sys2Proof

/-- One accumulator: a 128-bit two's-complement integer and a tag (R74). -/
structure Acc where
  int : BitVec 128
  tag : Tag
  deriving DecidableEq, Repr

def Acc.zero : Acc := ⟨0, .finite⟩

/-- Range of a finite accumulator (R98). -/
def accMax : Int := 2 ^ 127 - 1
def accMin : Int := -(2 ^ 127) + 4

/-- Tag codes (Table 03-4). -/
def Tag.code : Tag → Nat
  | .finite => 0 | .posInf => 1 | .negInf => 2 | .nan => 3

/-- Tags combine by bitwise OR of their codes (R107). -/
def Tag.or : Tag → Tag → Tag
  | .finite, t => t
  | t, .finite => t
  | .posInf, .posInf => .posInf
  | .negInf, .negInf => .negInf
  | _, _ => .nan

/-- Saturate a partial sum into the window (R118); the flag is OVF. -/
def accClamp (i : Int) : Int × Bool :=
  if accMax < i then (accMax, true) else if i < accMin then (accMin, true) else (i, false)

/-- floor(value / u) for u = 2^(A − 126), and whether nonzero bits were discarded (R101, R102). -/
def contribution (a : Int) (neg : Bool) (mag : Nat) (exp : Int) : Int × Bool :=
  let s := exp - (a - 126)
  if 0 ≤ s then
    let m : Int := mag * 2 ^ s.toNat
    (if neg then -m else m, false)
  else
    let d := (-s).toNat
    let q : Nat := mag / 2 ^ d
    let lost := decide (mag % 2 ^ d ≠ 0)
    if neg then (-(q : Int) - (if lost then 1 else 0), lost) else ((q : Int), lost)

/-- The tag of a product (Table 04-2). -/
def productTag : Val → Val → Tag
  | .nan _, _ | _, .nan _ => .nan
  | .inf s, .inf t => if s == t then .posInf else .negInf
  | .inf s, .fin t m _ | .fin t m _, .inf s => if m = 0 then .nan else if s == t then .posInf else .negInf
  | .fin .., .fin .. => .finite

/-- What one or more products add to an accumulator. -/
structure Contrib where
  ints : List Int
  trunc : Bool
  tag : Tag
  deriving DecidableEq, Repr

def Contrib.none : Contrib := ⟨[], false, .finite⟩

def Contrib.append (x y : Contrib) : Contrib := ⟨x.ints ++ y.ints, x.trunc || y.trunc, x.tag.or y.tag⟩

/-- A plain product (R101, R107). -/
def productContrib (a : Int) (x y : Val) : Contrib :=
  match x, y with
  | .fin s m e, .fin t n f =>
    let (i, tr) := contribution a (s != t) (m * n) (e + f)
    ⟨[i], tr, .finite⟩
  | _, _ => ⟨[], false, productTag x y⟩

/-- Truncate a magnitude toward zero to 8 significant bits (R105). -/
def top8 (m : Nat) : Nat :=
  let l := Nat.log2 m
  if l < 8 then m else m / 2 ^ (l - 7) * 2 ^ (l - 7)

/-- hi, mid and lo of an FP32 magnitude (R105). -/
def split32 (m : Nat) : Nat × Nat × Nat :=
  let hi := top8 m
  let mid := top8 (m - hi)
  (hi, mid, m - hi - mid)

/-- The six terms of an FP32 product (R106). -/
def fp32Contrib (a : Int) (x y : Val) : Contrib :=
  match x, y with
  | .fin s m e, .fin t n f =>
    let (ha, ma, la) := split32 m
    let (hb, mb, lb) := split32 n
    let terms := [(ha, hb), (ha, mb), (ma, hb), (ha, lb), (ma, mb), (la, hb)]
    let cs := terms.map fun (p, q) => contribution a (s != t) (p * q) (e + f)
    ⟨cs.map Prod.fst, cs.any Prod.snd, .finite⟩
  | _, _ => ⟨[], false, productTag x y⟩

/-- An operand element as a matrix step sees it: the decoded element without its scale, and the shared exponent of
its block (none: the block's scale is NaN). A plain element has shared exponent 0 (R103). -/
structure MElem where
  val : Val
  scale : Option Int
  deriving DecidableEq, Repr

/-- The element of storage index `i` of a tile of `n` elements. -/
def mElem (f : Fmt) (n payload i : Nat) : MElem :=
  ⟨f.decodeElem (elemBits f.width payload i), if f.isMx then scaleExp (scaleByte n payload (i / 32)) else some 0⟩

/-- The value with its scale; NaN in a NaN block (R39). -/
def MElem.full (e : MElem) : Val :=
  match e.scale with
  | none => .nan false
  | some x => e.val.scale x

/-- Exact sum of signed terms as an integer times a power of two. -/
def exactAdd (x : Int × Int) (neg : Bool) (mag : Nat) (exp : Int) : Int × Int :=
  let v : Int := if neg then -(mag : Int) else mag
  if x.2 ≤ exp then (x.1 + v * 2 ^ (exp - x.2).toNat, x.2)
  else (x.1 * 2 ^ (x.2 - exp).toNat + v, exp)

/-- The contribution of one 32-element block (R103): the block sum of the unscaled products, shifted once.
Pairs whose product is not finite are left out of S and give their tag. -/
def blockContrib (a : Int) (xs : List (MElem × MElem)) : Contrib :=
  let tag := xs.foldl (fun t (p, q) => t.or (productTag p.full q.full)) Tag.finite
  let s := xs.foldl (fun acc (p, q) =>
    match p.scale, q.scale, p.val, q.val with
    | some _, some _, .fin u m e, .fin v n f => exactAdd acc (u != v) (m * n) (e + f)
    | _, _, _, _ => acc) (0, 0)
  match xs with
  | (p, q) :: _ =>
    match p.scale, q.scale with
    | some xa, some xb =>
      let (i, tr) := contribution a (decide (s.1 < 0)) s.1.natAbs (s.2 + xa + xb)
      ⟨[i], tr, tag⟩
    | _, _ => ⟨[], false, tag⟩
  | [] => Contrib.none

/-- The contributions of a dot product of one activation row and one weight column, in ascending k.
MX operands go block by block (R103), FP32 in six terms (R106), everything else product by product (R101). -/
def dotContrib (a : Int) (fa fb : Fmt) (row col : List MElem) : Contrib :=
  let ps := row.zip col
  if fa.isMx || fb.isMx then
    (blocks32 ps.length ps).foldl (fun c b => c.append (blockContrib a b)) Contrib.none
  else if fa == .fp32 then
    ps.foldl (fun c (p, q) => c.append (fp32Contrib a p.full q.full)) Contrib.none
  else
    ps.foldl (fun c (p, q) => c.append (productContrib a p.full q.full)) Contrib.none

/-- Add contributions one by one, saturating at the window (R118); the flag is OVF. -/
def addInts (start : Int) (is : List Int) : Int × Bool :=
  is.foldl (fun (acc, ovf) i => let (s, o) := accClamp (acc + i); (s, ovf || o)) (start, false)

/-- Add contributions into an accumulator: the new accumulator and OVF. A later contribution after an overflow
changes nothing a command reports: the chain is skipped and its destinations are sealed invalid (R76). -/
def Acc.add (x : Acc) (c : Contrib) : Acc × Bool :=
  let (i, ovf) := addInts x.int.toInt c.ints
  (⟨BitVec.ofInt 128 i, x.tag.or c.tag⟩, ovf)

/-- One value added by VACC or by a sum without products (R104). -/
def valueContrib (a : Int) : Val → Contrib
  | .fin s m e => let (i, tr) := contribution a s m e; ⟨[i], tr, .finite⟩
  | .inf s => ⟨[], false, if s then .negInf else .posInf⟩
  | .nan _ => ⟨[], false, .nan⟩

/-- Combine two partial accumulators of one anchor exactly (R121). -/
def Acc.combine (x y : Acc) : Acc × Bool := x.add ⟨[y.int.toInt], false, y.tag⟩

/-- The ACC128 element of an accumulator (R100, Table 04-1). -/
def Acc.pattern (x : Acc) : Nat :=
  match x.tag with
  | .finite => x.int.toNat
  | t => 2 ^ 127 + t.code

/-- The accumulator an ACC128 element stands for. −2^127 reads as NaN. -/
def Acc.ofPattern (p : Nat) : Acc :=
  if p = 2 ^ 127 + 1 then ⟨0, .posInf⟩
  else if p = 2 ^ 127 + 2 then ⟨0, .negInf⟩
  else if p = 2 ^ 127 ∨ p = 2 ^ 127 + 3 then ⟨0, .nan⟩
  else ⟨BitVec.ofNat 128 p, .finite⟩

/-- The exact value an accumulator drains (R122): a zero integer is +0. -/
def Acc.val (a : Int) (x : Acc) : Val :=
  match x.tag with
  | .finite => let i := x.int.toInt; .fin (decide (i < 0)) i.natAbs (a - 126)
  | .posInf => .inf false
  | .negInf => .inf true
  | .nan => .nan false

/-! ### Anchors -/

/-- finite_maxexp of R109, from a tile's header, and from its payload when MAXEXP is 0x7FFF. -/
def finiteMaxexp (f : Fmt) (t : Tile) : Int :=
  if t.hdr.maxexp = 0x8000 then -32768
  else if t.hdr.maxexp = 0x7FFF then (maxLog (t.vals f)).getD (-32768)
  else maxexpInt t.hdr.maxexp

/-- What R109 computes over a reduction scope, with the fields of the ANCHOR_SCAN word. -/
structure AnchorScan where
  anchor : Int
  maxa : Int
  maxb : Int
  klog : Nat
  zero : Bool
  nonfinite : Bool
  deriving DecidableEq, Repr

def maxOf (xs : List Int) : Int := xs.foldl max (-32768)

/-- The default anchor (R109) of the operands' tiles; operand b absent gives maxb = 0. The raw anchor is not yet
brought into the range of R99. -/
def defaultAnchor (as : List (Fmt × Tile)) (bs : Option (List (Fmt × Tile))) (k : Nat) : AnchorScan :=
  let maxa := maxOf (as.map fun (f, t) => finiteMaxexp f t)
  let maxb := match bs with
    | none => 0
    | some l => maxOf (l.map fun (f, t) => finiteMaxexp f t)
  let nonfin := as.any (fun (_, t) => t.hdr.maxexp == 0x7FFF) ||
    (match bs with | none => false | some l => l.any (fun (_, t) => t.hdr.maxexp == 0x7FFF))
  let klog := clog2 k
  if maxa = -32768 ∨ maxb = -32768 then ⟨-1024, maxa, maxb, klog, true, nonfin⟩
  else ⟨maxa + maxb + 1 + klog, maxa, maxb, klog, false, nonfin⟩

/-- R112: an anchor below −1,024 is raised to it; one above 1,023 has no window. -/
def anchorInRange (a : Int) : Option Int := if 1023 < a then none else some (max a (-1024))

/-- The ANCHOR_SCAN result word (Table 04-4). ANCHOR is the anchor as computed, raised to −1,024. -/
def AnchorScan.word (s : AnchorScan) : Nat :=
  twos 16 (max s.anchor (-1024)) + 2 ^ 16 * twos 16 s.maxa + 2 ^ 32 * twos 16 s.maxb +
  2 ^ 48 * (s.klog % 256) + 2 ^ 56 * (bnat s.zero + 2 * bnat s.nonfinite)

/-! ### Draining -/

/-- Rows of each output tile of a drain (Table 03-5). -/
def rowsPerTile : Fmt → Nat
  | .e4m3 | .e5m2 | .int8 | .int4 | .mxE3m2 | .mxE2m3 | .mxE2m1 => 64
  | .mxE4m3 | .mxE5m2 | .mxInt8 | .bf16 | .fp16 => 32
  | .fp32 | .int32 => 16
  | .fp64 => 8
  | .acc128 => 4

/-- The roundings of a drain's elements: round-to-nearest-even, or the draws of R125 at the destination
coordinates. -/
def drainRnds (seed : Option Nat) (coords : List (Nat × Nat)) : List Rnd :=
  match seed with
  | none => coords.map fun _ => .ties
  | some s => coords.map fun (r, c) => .stochastic (stochR s r c)

/-- One output tile's body: payload, SAT and MAXEXP of accumulators in storage order (R78, R122). For ACC128 the
integers go out unchanged and MAXEXP carries the anchor. -/
def drainTile (f : Fmt) (a : Int) (seed : Option Nat) (coords : List (Nat × Nat)) (accs : List Acc) :
    List Byte × Bool × Nat :=
  if f = .acc128 then
    (leBytes payloadBytes (packElems 128 (accs.map Acc.pattern)), false, twos 16 a)
  else
    let w := writeVals f (drainRnds seed coords) (accs.map (Acc.val a))
    let stored := (List.range accs.length).map (elemVal f accs.length 0 w.payload)
    (leBytes payloadBytes w.payload, w.sat, maxexpOf stored)

/-- The rate class of an activation format: the K width of the held block (Table 03-2). -/
def heldK : Fmt → Nat
  | .mxE2m1 | .int4 => 128
  | .e4m3 | .e5m2 | .mxE4m3 | .mxE5m2 | .mxE3m2 | .mxE2m3 | .int8 | .mxInt8 => 64
  | .bf16 | .fp16 | .fp32 => 32
  | .fp64 | .int32 | .acc128 => 0

/-- Float formats of the 8-bit class (R67). -/
def Fmt.float8 : Fmt → Bool
  | .e4m3 | .e5m2 | .mxE4m3 | .mxE5m2 | .mxE3m2 | .mxE2m3 => true
  | _ => false

/-- The permitted pairings of a matrix step (R67). -/
def pairOk (a b : Fmt) : Bool :=
  (a.float8 && b.float8) ||
  ((a == .int8 || a == .mxInt8) && (b == .int8 || b == .mxInt8)) ||
  (a == .int4 && b == .int4) || (a == .mxE2m1 && b == .mxE2m1) ||
  ((a == .bf16 || a == .fp16) && (b == .bf16 || b == .fp16)) ||
  (a == .fp32 && b == .fp32)

/-- Formats whose weight blocks need the two-tile form (R68). -/
def twoTileForm (b : Fmt) : Bool := b.isMx || b == .fp32

end Sys2Proof
end

