-- ==== Sys2Proof/Machine/RowStat.lean ====
section
/-! DEFINITION. Row statistics, softmax and normalisation of one row (R154 to R165): the two passes, the 256-bit
datapath, and the exact value of each output before its one rounding. -/

namespace Sys2Proof

/-- An exact ratio num / den × 2^exp as a value with a sticky last bit: every rounding of it is the ratio's own. -/
def ratVal (neg : Bool) (num den : Nat) (exp : Int) : Val :=
  if num = 0 ∨ den = 0 then .fin neg 0 0
  else
    let k := 700 + Nat.log2 den
    let q := num * 2 ^ k / den
    .fin neg (2 * q + (if num * 2 ^ k % den = 0 then 0 else 1)) (exp - k - 1)

/-- What a row command learns and reports of one row. -/
structure RowFlags where
  trunc : Bool := false
  ovf : Bool := false
  negClamp : Bool := false
  nonfinite : Bool := false
  emptyRow : Bool := false
  zeroVar : Bool := false
  deriving DecidableEq, Repr

def RowFlags.or (x y : RowFlags) : RowFlags :=
  ⟨x.trunc || y.trunc, x.ovf || y.ovf, x.negClamp || y.negClamp, x.nonfinite || y.nonfinite,
   x.emptyRow || y.emptyRow, x.zeroVar || y.zeroVar⟩

/-- The larger or smaller of two values that are not NaN; the first on a tie. -/
def pickExtreme (isMax : Bool) (x y : Val) : Val := (vminmax isMax x y).1

/-- M or m over a row, infinities included (R155, R160). -/
def rowExtreme (isMax : Bool) : List Val → Val
  | [] => .fin false 0 0
  | x :: r => r.foldl (pickExtreme isMax) x

/-- The anchors of the two windows of a row (R155). -/
def rowAnchors (explicit : Option Int) (row : List Val) : Int × Int :=
  let klog : Int := clog2 row.length
  match explicit with
  | some a1 => (a1, 2 * a1 - 1 - klog)
  | none => match maxLog row with
    | none => (-1024, -1024)
    | some e => (e + 1 + klog, 2 * e + 1 + klog)

/-- The exact square of a value, for the second window. -/
def Val.square (v : Val) : Val := exactMul v v

/-- The two window sums of a row: accumulators, truncation, overflow (R155, R156). -/
def rowSums (a1 a2 : Int) (row : List Val) : Acc × Acc × Bool × Bool :=
  row.foldl (fun (s, q, tr, ov) x =>
    let c1 := valueContrib a1 x
    let c2 := match x with
      | .inf _ => ⟨[], false, .posInf⟩
      | v => valueContrib a2 v.square
    let (s', o1) := s.add c1
    let (q', o2) := q.add c2
    (s', q', tr || c1.trunc || c2.trunc, ov || o1 || o2)) (Acc.zero, Acc.zero, false, false)

/-- D of R157, in units of u1², with R158's clamp; the flag is the clamp. When both anchors are −1,024, D is 0. -/
def rowD (a1 a2 : Int) (n : Nat) (i1 i2 : Int) : Nat × Bool :=
  if a1 = -1024 ∧ a2 = -1024 then (0, false)
  else
    let d : Int := n * i2 * 2 ^ (125 - clog2 n) - i1 * i1
    if d < 0 then (0, true) else (d.toNat, false)

/-- Everything a row command needs of a row's exact statistics. -/
structure RowStats where
  n : Nat
  a1 : Int
  a2 : Int
  s1 : Acc
  s2 : Acc
  d : Nat
  max : Val
  min : Val
  hasNan : Bool
  flags : RowFlags
  deriving DecidableEq, Repr

def rowStats (explicit : Option Int) (row : List Val) : RowStats :=
  let (a1, a2) := rowAnchors explicit row
  let (s1, s2, tr, ov) := rowSums a1 a2 row
  let (d, clamp) := rowD a1 a2 row.length s1.int.toInt s2.int.toInt
  { n := row.length, a1, a2, s1, s2, d
    max := rowExtreme true row, min := rowExtreme false row
    hasNan := row.any Val.isNan
    flags := { trunc := tr, ovf := ov, negClamp := clamp, nonfinite := row.any Val.nonfinite } }

/-- An accumulator's value divided by a count, exact (Table 05-15). -/
def accOver (a : Int) (x : Acc) (den : Nat) : Val :=
  match x.tag with
  | .finite => let i := x.int.toInt; ratVal (decide (i < 0)) i.natAbs den (a - 126)
  | .posInf => .inf false
  | .negInf => .inf true
  | .nan => .nan false

/-- The exact value of statistic `bit` of Table 05-15 (R159, R160). -/
def RowStats.stat (r : RowStats) (bit : Nat) : Val :=
  if r.hasNan then .nan false
  else
    let infinite := r.s1.tag != .finite || r.s2.tag != .finite
    match bit with
    | 0 => accOver r.a1 r.s1 1
    | 1 => accOver r.a1 r.s1 r.n
    | 2 => if infinite then .nan false else ratVal false r.d (r.n * r.n) (2 * (r.a1 - 126))
    | 3 => if infinite || r.n ≤ 1 then .nan false else ratVal false r.d (r.n * (r.n - 1)) (2 * (r.a1 - 126))
    | 4 => accOver r.a2 r.s2 1
    | 5 => r.max
    | _ => r.min

/-- The statistics a mask selects, in ascending bit order. -/
def statBits (mask : Nat) : List Nat := (List.range 7).filter fun i => bitAt mask i

/-! ### Heritage (R165) -/

/-- Round to FP32 to nearest even. -/
def r32 (v : Val) : Val := lay32.decode (lay32.roundVal .ties v).bits

def tree32 (v : List Val) : Val :=
  let level (w : Nat) (t : List Val) : List Val :=
    (List.range w).map fun i => r32 (exactSum (t.getD i wzero) (t.getD (i + w) wzero))
  (level 1 (level 2 (level 4 (level 8 (level 16 v))))).getD 0 wzero

def hsum (x : List Val) : Val :=
  match (blocks32 x.length x).map tree32 with
  | [] => wzero
  | g :: rest => rest.foldl (fun s t => r32 (exactSum s t)) g

def divN (v : Val) (n : Nat) : Val := r32 (vdiv v (.fin false n 0)).1

def hMean (x : List Val) : Val := divN (hsum x) x.length

def hVar (x : List Val) : Val :=
  let m := hMean x
  divN (hsum (x.map fun v => let t := r32 (exactSum v m.neg); r32 (exactMul t t))) x.length

/-- A heritage function's result as FP32. -/
def hFunc (f : Nat) (v : Val) : Val := r32 ((FSet.mk setHeritage 0 0 [] [] []).eval f v)

/-- A heritage statistic: SUM, MEAN, VAR, MAX, MIN. -/
def hStat (row : List Val) (bit : Nat) : Val :=
  if row.any Val.isNan then .nan false
  else match bit with
    | 0 => hsum row
    | 1 => hMean row
    | 2 => hVar row
    | 5 => rowExtreme true row
    | _ => rowExtreme false row

/-! ### Softmax (R161, R162) -/

/-- The exact outputs of a softmax row before their rounding, and the row's flags. -/
def softmaxRow (fs : FSet) (row : List Val) : List Val × RowFlags :=
  let m := rowExtreme true row
  let nonfin := row.any Val.nonfinite
  if row.any Val.isNan || m == .inf false then (row.map fun _ => .nan false, { nonfinite := nonfin })
  else if row.all (· == .inf true) then
    (row.map fun _ => .fin false 0 0, { nonfinite := nonfin, emptyRow := true })
  else if fs.setId = setHeritage then
    let es := row.map fun x => if x == .inf true then wzero else hFunc 0x01 (r32 (exactSum x m.neg))
    let q := r32 (vdiv (.fin false 1 0) (hsum es)).1
    (es.map fun e => exactMul e q, { nonfinite := nonfin })
  else
    let es := row.map fun x => if x == .inf true then wzero else fs.eval 0x01 (rW (exactSum x m.neg))
    let a : Int := 1 + clog2 row.length
    let (s, ov) := es.foldl (fun (acc, o) e => let (t, o') := acc.add (valueContrib a e); (t, o || o')) (Acc.zero, false)
    let q := match s.tag with
      | .finite => let i := s.int.toInt; rW (ratVal (decide (i < 0)) (2 ^ (126 - a).toNat) i.natAbs 0)
      | _ => rW (vdiv (.fin false 1 0) (s.val a)).1
    (es.map fun e => exactMul e q, { nonfinite := nonfin, ovf := ov })

/-! ### Normalisation (R163, R164) -/

/-- A finite ε that is not negative (R163); −0 is zero. -/
def epsOk (e : Nat) : Bool := decide (e < 0x7F800000) || e == 0x80000000

/-- The exact outputs of a NORM row before their rounding, and its flags. `gamma` and `beta` are the row's
elements of those tensors. -/
def normRow (fs : FSet) (rms : Bool) (explicit : Option Int) (eps : Val) (row gamma beta : List Val) :
    List Val × RowFlags :=
  let st := rowStats explicit row
  let nonfin := row.any Val.nonfinite
  if nonfin then (row.map fun _ => .nan false, { nonfinite := true })
  else if fs.setId = setHeritage then
    if rms then
      let ms := divN (hsum (row.map fun x => r32 (exactMul x x))) row.length
      let r := hFunc 0x07 (r32 (exactSum ms eps))
      (List.zipWith (fun x g => exactMul (r32 (exactMul x r)) g) row gamma, {})
    else
      let mean := hMean row
      let r := hFunc 0x07 (r32 (exactSum (hVar row) eps))
      (List.zipWith (fun x (g, b) => exactSum (exactMul (r32 (exactMul (r32 (exactSum x mean.neg)) r)) g) b)
        row (gamma.zip beta), {})
  else
    let flags : RowFlags :=
      { trunc := st.flags.trunc, ovf := st.flags.ovf, negClamp := !rms && st.flags.negClamp }
    let v := if rms then rW (exactSum (accOver st.a2 st.s2 st.n) eps)
             else rW (exactSum (ratVal false st.d (st.n * st.n) (2 * (st.a1 - 126))) eps)
    if v == .fin false 0 0 || (match v with | .fin _ 0 _ => true | _ => false) then
      (if rms then row.map fun _ => .fin false 0 0 else beta, { flags with zeroVar := true })
    else
      let r := fs.eval 0x07 v
      if rms then
        (List.zipWith (fun x g => exactMul (rW (exactMul x r)) g) row gamma, flags)
      else
        let mu := rW (accOver st.a1 st.s1 st.n)
        (List.zipWith (fun x (g, b) => exactSum (exactMul (rW (exactMul (rW (exactSum x mu.neg)) r)) g) b)
          row (gamma.zip beta), flags)

end Sys2Proof
end

