-- ==== Sys2Proof/Params.lean ====
section
/-! DEFINITION. The operands of the packet commands (chapter 09): the shared field encodings of Table 09-3 and one
record per parameter layout of Tables 09-7 to 09-20, each field as wide as the packet holds it. -/

namespace Sys2Proof

/-- Which packet a command came from: its queue, its index modulo 2^32 (the TAG, R243) and its context. -/
structure CmdRef where
  queue : BitVec 16
  index : BitVec 32
  ctx : BitVec 32
  deriving DecidableEq, Repr

/-- TREF: a tile of a segment of the context (Table 09-3). -/
structure Tref where
  tile : BitVec 44
  seg : BitVec 4
  deriving DecidableEq, Repr

/-- BREF: a byte of a segment of the context (Table 09-3). -/
structure Bref where
  off : BitVec 44
  seg : BitVec 4
  deriving DecidableEq, Repr

/-- AWORD under its AMODE (Table 09-3, Table 04-3). -/
inductive AWord where
  | default
  | explicit (a : BitVec 16)
  | scanned (r : Bref)
  deriving DecidableEq, Repr

/-- TALLY (Table 09-3). -/
structure TallyRef where
  die : BitVec 3
  index : BitVec 16
  deriving DecidableEq, Repr

/-- KIND of FENCE (R276). -/
inductive FenceKind where
  | all
  | module (m : BitVec 16)
  | extA | extB | onModule
  deriving DecidableEq, Repr

/-- QUEUE_MARK (Table 09-7): the word to store, when WRITE is set. -/
structure MarkP where
  write : Option (Bref × BitVec 64)
  deriving DecidableEq, Repr

/-- The two ends of a COPY (Table 09-8). -/
inductive CopyP where
  | tiles (src dst : Tref) (count : BitVec 32)
  | raw (src dst : Bref) (count : BitVec 32)
  deriving DecidableEq, Repr

/-- GATHER and SCATTER (Table 09-8). -/
structure IdxP where
  idx : Bref
  base : Tref
  count : BitVec 32
  deriving DecidableEq, Repr

/-- ZERO (Table 09-8, R279). `fmt` none is FMT 0x00. -/
inductive ZeroP where
  | tiles (dst : Tref) (count : BitVec 32) (layout : Bool) (fmt : Option Fmt) (rows cols anchor : BitVec 16)
  | raw (dst : Bref) (count : BitVec 32)
  deriving DecidableEq, Repr

/-- CELLAR_READ and CELLAR_WRITE (Table 09-8). -/
structure CellarP where
  mem : Tref
  count : BitVec 32
  volume : BitVec 8
  ctile : BitVec 48
  deriving DecidableEq, Repr

/-- MATMUL (Table 09-9). `seed` is present when ROUND is 1. -/
structure MatmulP where
  a : Tref
  b : Tref
  d : Tref
  aStr : BitVec 24
  bStr : BitVec 24
  mt : BitVec 16
  kt : BitVec 16
  nt : BitVec 16
  fmtOut : Fmt
  anchor : AWord
  seed : Option (BitVec 64)
  deriving DecidableEq, Repr

/-- MATMUL_ACC (Table 09-9): `base.seed` present means ROUND is 1, which R282 refuses. -/
structure MatmulAccP where
  base : MatmulP
  c : Tref
  deriving DecidableEq, Repr

/-- ANCHOR_SCAN (Table 09-10). -/
structure ScanP where
  a : Tref
  aStr : BitVec 24
  aRows : BitVec 16
  aCols : BitVec 16
  /-- Grid B: reference, stride, rows and columns; none when B_ABSENT is 1. -/
  b : Option (Tref × BitVec 24 × BitVec 16 × BitVec 16)
  k : BitVec 64
  res : Bref
  deriving DecidableEq, Repr

/-- REDUCE (Table 09-12). -/
structure ReduceP where
  input : Tref
  d : Tref
  inStep : BitVec 32
  tiles : BitVec 32
  inCount : BitVec 16
  fmtOut : Fmt
  anchor : AWord
  seed : Option (BitVec 64)
  deriving DecidableEq, Repr

/-- ELEMENTWISE (Table 09-12). The rounding mode is one of Table 03-9. -/
structure ElemP where
  x : Tref
  y : Tref
  z : Tref
  d : Tref
  tiles : BitVec 32
  op : VOp
  vfmt : VFmt
  fmtOut : Fmt
  rnd : Rnd
  scalar : Option (BitVec 64)
  deriving DecidableEq, Repr

/-- FUNC (Table 09-14). -/
structure FuncP where
  x : Tref
  d : Tref
  tiles : BitVec 32
  set : BitVec 32
  func : BitVec 8
  fmtOut : Fmt
  seed : Option (BitVec 64)
  deriving DecidableEq, Repr

/-- SOFTMAX, NORM and ROWSTAT (Table 09-14); `anchor` is A1 under EXPLICIT. -/
structure RowP where
  x : Tref
  d : Tref
  rowt : BitVec 16
  colt : BitVec 16
  n : BitVec 32
  set : BitVec 32
  fmtOut : Fmt
  anchor : Option (BitVec 16)
  seed : Option (BitVec 64)
  deriving DecidableEq, Repr

/-- What NORM adds (Table 09-14): FORM RMS, γ and β, ε. -/
structure NormP where
  row : RowP
  rms : Bool
  gb : Tref
  eps : BitVec 32
  deriving DecidableEq, Repr

/-- DEST of SIGNAL_HOST (Table 09-16): a segment word, or a bus address on port A (false) or B (true). -/
inductive SigDest where
  | seg (w : Bref)
  | port (b : Bool) (addr : BitVec 64)
  deriving DecidableEq, Repr

/-- SIGNAL_HOST (Table 09-16) without its OP. -/
structure SignalP where
  dest : SigDest
  value : BitVec 64
  irqKind : BitVec 8
  vector : BitVec 16
  deriving DecidableEq, Repr

/-- EPOCH_STAGE (Table 09-17). -/
structure StageP where
  handle : BitVec 16
  slot : BitVec 8
  src : Tref
  epoch : BitVec 32
  tiles : BitVec 32
  deriving DecidableEq, Repr

/-- STEP_RUN (Table 09-20). -/
structure RunP where
  handle : BitVec 16
  slot : BitVec 8
  args : Bref
  argCount : BitVec 16
  deriving DecidableEq, Repr

/-- ALLOT_SET (Table 09-18). -/
structure AllotP where
  engine : BitVec 32
  stack : BitVec 32
  fabric : BitVec 32
  host : BitVec 32
  carry : Bool
  deriving DecidableEq, Repr

end Sys2Proof
end

