-- ==== Sys2Proof/Events.lean ====
section
/-! DEFINITION. The operands of the event rows: which agent writes, and what the module observes from outside itself
at the moment of the event (a peer's announcement, a reading, the bytes an external host returns). -/

namespace Sys2Proof

/-- The agents that write registers (Table 24-25, AGENT and UNIT). -/
inductive Agent where
  | host (core : BitVec 7) (machine : Bool)
  | portA | portB
  | reeve (die : BitVec 2)
  | warden
  | mailbox
  deriving DecidableEq, Repr

/-- Who owns a timed wait: a step of a run, or a command (R225, R388). -/
inductive Stalled where
  | step (handle : BitVec 16) (run : BitVec 32) (step : BitVec 20)
  | cmd (c : CmdRef)
  deriving DecidableEq, Repr

/-- The operations of a base die, and of the coherence protocol's Atomic (Table 12-2). `smin` to `umax` are the two
operations of each of codes 0x4 and 0x5. -/
inductive AtomicOp where
  | add | and | or | xor | smin | smax | umin | umax | swap
  | cas (expected : BitVec 64)
  deriving DecidableEq, Repr

/-- One atomic: operation, width 8 (64-bit) or 4 (32-bit), operand. -/
structure AtomicReq where
  op : AtomicOp
  wide : Bool
  value : BitVec 64
  deriving DecidableEq, Repr

/-- A vote of a parish commit (Table 10-5). -/
inductive VoteKind where
  | yes | stale | busy
  deriving DecidableEq, Repr

/-- What an ABORT ends: a parish commit of a handle (Table 10-5), or a collective (R485). -/
inductive AbortOf where
  | commit (handle : BitVec 16)
  | collective (root coll : BitVec 16)
  deriving DecidableEq, Repr

/-- A DECIDE (Table 10-5): the handle, and the bell of the switch. -/
structure Decision where
  handle : BitVec 16
  bell : BitVec 64
  deriving DecidableEq, Repr

/-- A tally operation of Table 13-3 that a remote module may ask for. -/
inductive TallyOpKind where
  | add | sub
  deriving DecidableEq, Repr

/-- What a fabric port learns of its peer while it trains (R466, R475, R487): protocol version, module ID, parish
tag, its port number, the highest rate code it supports, the rates at which every active lane met the bit-error bound, and the
measured one-way delay in ns. -/
structure PeerInfo where
  version : BitVec 8
  module : BitVec 16
  parish : BitVec 16
  port : BitVec 3
  maxRate : BitVec 2
  /-- Bit r: rate code r was accepted on this cable. -/
  goodRates : BitVec 4
  delayNs : BitVec 16
  linkTmo : BitVec 16
  deriving DecidableEq, Repr

/-- A link-state record (R476): origin, serial, sequence number, link timeout, and the peers of its UP ports with
whether each speaks version 2 and the delay of the link. -/
structure Lsr where
  origin : BitVec 16
  serial : BitVec 64
  seq : BitVec 32
  linkTmo : BitVec 16
  peers : List (BitVec 16 × Bool × BitVec 16)
  deriving DecidableEq, Repr

/-- The header fields of a fabric message that the destination acts on (Table 16-3). -/
structure MsgHdr where
  src : BitVec 16
  dest : BitVec 16
  seq : BitVec 32
  ttl : BitVec 16
  retx : Bool
  /-- The traffic class it travels in. -/
  cls : BitVec 2
  /-- The port it arrived on. -/
  port : BitVec 3
  deriving DecidableEq, Repr

/-- An ABORT with the header of its message. -/
structure AbortMsg where
  hdr : MsgHdr
  of : AbortOf
  deriving DecidableEq, Repr

/-- A remote access checked at its target (R345): the remote context and segment named, and the offset in it. -/
structure RemoteRef where
  ctx : BitVec 32
  seg : BitVec 4
  off : BitVec 48
  deriving DecidableEq, Repr

/-- A collective contribution (R484): the root, the collective, the tile; count, anchor and flags; the ACC128
elements as the message carries them. -/
structure CollMsg where
  root : BitVec 16
  coll : BitVec 16
  tile : BitVec 32
  count : BitVec 16
  anchor : BitVec 16
  trunc : Bool
  ovf : Bool
  data : List (BitVec 128)
  deriving DecidableEq, Repr

/-- A partial ANCHOR_SCAN word on its way (R486, Table 04-4). -/
structure CollMaxMsg where
  root : BitVec 16
  coll : BitVec 16
  count : BitVec 16
  word : BitVec 64
  deriving DecidableEq, Repr

/-- What a stick carries when it is inserted (R386). -/
inductive StickKind where
  | member | blank | foreign
  deriving DecidableEq, Repr

/-- Targets of stores, as the bits of ORD_ERR name them (R429, R430). -/
inductive StoreTarget where
  | larder (core : BitVec 8)
  | stack (s : BitVec 4)
  | ddr
  | cellar
  | guest (g1 : Bool)
  | remote (m : BitVec 16)
  | extA | extB
  deriving DecidableEq, Repr

/-- Who waits on a failed store (R430). -/
inductive Barrier where
  | cmd (c : CmdRef)
  | step (handle : BitVec 16) (run : BitVec 32) (step : BitVec 20)
  | none
  deriving DecidableEq, Repr

/-- The 64-byte capability record of a guest chiplet (Table 17-5). -/
structure GuestCap where
  vendor : BitVec 16
  device : BitVec 16
  proto : BitVec 8
  roles : BitVec 8
  kind : BitVec 8
  size : BitVec 64
  outstanding : BitVec 16
  latencyUs : BitVec 16
  powerW : BitVec 16
  identity : BitVec 256
  deriving DecidableEq, Repr

/-- What a guest answers (R496). -/
inductive GuestRsp where
  | done
  | doneData (bytes : List (BitVec 8)) (poison : Bool)
  | err (reason : BitVec 8)
  deriving DecidableEq, Repr

/-- Why a port enters HOLDING (R513). -/
inductive HoldCause where
  | linkDown | hostReset | bmeClear
  deriving DecidableEq, Repr

/-- An island's reading: its ID (Table 19-1) and °C; none where the sensor gives no valid reading. -/
structure SensorReading where
  island : BitVec 9
  celsius : Option (BitVec 8)
  deriving DecidableEq, Repr

/-- The domains that a fence names (Table 09-23). -/
inductive DomainRef where
  | core (n : BitVec 8)
  | die (d : BitVec 2)
  | partition (p : BitVec 4)
  | stack (s : BitVec 4)
  | hostComplex
  | port (p : BitVec 3)
  | guest (g1 : Bool)
  | bay (b : BitVec 3)
  | ddr
  deriving DecidableEq, Repr

/-- A target of a rung (Table 20-4). -/
inductive RungRef where
  | context (x : BitVec 32)
  | engine (core : BitVec 8) (e : BitVec 2)
  | partition (p : BitVec 4)
  | chip
  | module
  deriving DecidableEq, Repr

/-- The causes of a phase fault (Table 20-3). -/
inductive PhaseCause where
  | overcurrent | overtemperature | driver
  deriving DecidableEq, Repr

/-- What bring-up finds (Tables 21-3, 21-4): what trained, and the images of the banks. -/
structure StartReport where
  /-- Valid Warden firmware on X0, on X1. -/
  wardenX0 : Bool
  wardenX1 : Bool
  dies : BitVec 4
  stackMap : BitVec 12
  ddr : Bool
  ddr6400 : Bool
  /-- Bays present with a stick of this cellar. -/
  bays : BitVec 8
  /-- Fabric cages that hold a cable. -/
  ports : BitVec 8
  /-- Milliseconds from the start to NORMAL. -/
  ms : BitVec 16
  deriving DecidableEq, Repr

/-- Components of the boot store (Table 21-1). -/
inductive Component where
  | warden | reeve | hostBoot | stick
  deriving DecidableEq, Repr

/-- SPDM requests the responder answers besides GET_MEASUREMENTS (R590). -/
inductive SpdmKind where
  | getCertificate (slot : BitVec 3)
  | challenge (slot : BitVec 3) (nonce : BitVec 256)
  /-- KEY_EXCHANGE; does the requester authenticate with a chain to an enrolled anchor? -/
  | keyExchange (anchored : Bool)
  | endSession (id : BitVec 32)
  deriving DecidableEq, Repr

/-- Who makes an attention request (R603). -/
inductive AttnSource where
  | button (ms : BitVec 16)
  | register
  | servicePort
  | mailbox
  deriving DecidableEq, Repr

/-- The sender of a mailbox request: its EID, its TAG, the binding it came on and the SPDM session, if any (R624,
R625). -/
structure MailRef where
  eid : BitVec 8
  tag : BitVec 32
  /-- Did it arrive over I3C? -/
  i3c : Bool
  session : Option (BitVec 32)
  deriving DecidableEq, Repr

/-- The configuration record (R582). -/
structure ConfigRec where
  fabId : BitVec 64
  fabCfg : BitVec 32
  pwrCap : BitVec 32
  bellCtl : BitVec 32
  bellOrigin : BitVec 64
  bootCfg : BitVec 32
  identity0 : BitVec 256
  identity1 : BitVec 256
  deriving DecidableEq, Repr

/-- MCTP bindings (Table 23-2). -/
inductive Binding where
  | i3c | vdmA | vdmB
  deriving DecidableEq, Repr

end Sys2Proof
end

