-- ==== Sys2Proof/Syntax.lean ====
section
/-! DEFINITION. The commands of the block: one constructor per row of the opcode table, with the row's operands.
Commands of a packet carry the packet's reference and the decoded parameters; the other rows name the core, queue,
port or register they concern, and what the module observes from outside. -/

namespace Sys2Proof

inductive Instr where
  -- chapter 09: packet commands
  | nop (c : CmdRef)
  | queueMark (c : CmdRef) (p : MarkP)
  | fence (c : CmdRef) (kind : FenceKind)
  | copy (c : CmdRef) (p : CopyP)
  | gather (c : CmdRef) (p : IdxP)
  | scatter (c : CmdRef) (p : IdxP)
  | zero (c : CmdRef) (p : ZeroP)
  | cellarRead (c : CmdRef) (p : CellarP)
  | cellarWrite (c : CmdRef) (p : CellarP)
  | matmul (c : CmdRef) (p : MatmulP)
  | matmulAcc (c : CmdRef) (p : MatmulAccP)
  | anchorScan (c : CmdRef) (p : ScanP)
  | reduce (c : CmdRef) (p : ReduceP)
  | elementwise (c : CmdRef) (p : ElemP)
  | func (c : CmdRef) (p : FuncP)
  | softmax (c : CmdRef) (p : RowP)
  | norm (c : CmdRef) (p : NormP)
  | rowstat (c : CmdRef) (p : RowP) (stats : BitVec 8)
  | microprogLoad (c : CmdRef) (img : Bref) (bytes : BitVec 32)
  | microprogUnload (c : CmdRef) (set : BitVec 32)
  | tallyAdd (c : CmdRef) (t : TallyRef) (scope : BitVec 8) (n : BitVec 64)
  | tallySub (c : CmdRef) (t : TallyRef) (scope : BitVec 8) (n : BitVec 64)
  | tallyWait (c : CmdRef) (t : TallyRef) (n : BitVec 64)
  | tallyTake (c : CmdRef) (t : TallyRef) (n : BitVec 64)
  | signalRemote (c : CmdRef) (t : TallyRef) (scope : BitVec 8) (module : BitVec 16) (n : BitVec 64)
  | signalHost (c : CmdRef) (p : SignalP)
  | signalHostAdd (c : CmdRef) (p : SignalP)
  | epochStage (c : CmdRef) (p : StageP)
  | epochCommit (c : CmdRef) (handle : BitVec 16) (slot : BitVec 8) (bell : BitVec 64)
  | epochCommitParish (c : CmdRef) (handle : BitVec 16) (slot : BitVec 8) (bell : BitVec 64)
  | epochPin (c : CmdRef) (handle : BitVec 16) (slot : BitVec 8)
  | epochUnpin (c : CmdRef) (handle : BitVec 16) (slot : BitVec 8)
  | ctxCreate (c : CmdRef) (part : BitVec 8) (carry : Bool) (segTable : BitVec 64)
  | ctxDestroy (c : CmdRef)
  | ctxDestroyAbortOnly (c : CmdRef)
  | segSet (c : CmdRef) (seg : BitVec 8) (desc : BitVec 256)
  | segInvalidate (c : CmdRef) (wholePart : Option (BitVec 8))
  | allotSet (c : CmdRef) (p : AllotP)
  | partSetCores (c : CmdRef) (part : BitVec 8) (map : BitVec 256)
  | partSetCaps (c : CmdRef) (part : BitVec 8) (engine stack fabric host : BitVec 32) (priority : BitVec 8)
  | partSetKey (c : CmdRef) (part : BitVec 8) (stack ddr : Bool) (slot : BitVec 8)
  | partSetMode (c : CmdRef) (part : BitVec 8) (strict : Bool)
  | partSetTimeouts (c : CmdRef) (part : BitVec 8) (tmo tmo2 : BitVec 64)
  | partSetVectors (c : CmdRef) (part : BitVec 8) (base count : BitVec 16) (kind : BitVec 8)
  | partSetVolumes (c : CmdRef) (part : BitVec 8) (map : BitVec 256)
  | partSetTalliesGrant (c : CmdRef) (part : BitVec 8) (die : BitVec 8) (first count : BitVec 16)
  | partSetTalliesRevoke (c : CmdRef) (part : BitVec 8) (die : BitVec 8) (first count : BitVec 16)
  | stepLoad (c : CmdRef) (handle : BitVec 16) (prog : Bref) (len : BitVec 32)
  | stepUnload (c : CmdRef) (handle : BitVec 16)
  | stepRun (c : CmdRef) (p : RunP)
  | selftestPatrol (c : CmdRef) (cores : BitVec 256)
  | selftestLoopback (c : CmdRef) (cores : BitVec 256)
  | dumpCoreRegs (c : CmdRef) (core : BitVec 8) (dst : Bref) (maxBytes : BitVec 32)
  | dumpSpill (c : CmdRef) (dst : Bref) (maxBytes : BitVec 32)
  | dumpLedger (c : CmdRef) (dst : Bref) (maxBytes : BitVec 32)
  -- chapter 08: queues. `ext` is what an external host's memory answers when the ring lies there
  | commandCompletion (queue : BitVec 16) (index : BitVec 32)
  | irqHoldoffExpiry (queue : BitVec 16)
  | sqDoorbell (queue : BitVec 16) (value : BitVec 64)
  | qEnable (queue : BitVec 16)
  | qDisable (queue : BitVec 16)
  | qDisableAbort (queue : BitVec 16)
  | qRestart (queue : BitVec 16)
  | queueDrained (queue : BitVec 16)
  | packetFetch (queue : BitVec 16) (ext : Option (BitVec 512))
  | packetRetry (queue : BitVec 16) (ext : Option (BitVec 512))
  -- chapters 03, 06, 07: engines, cores, placed programs
  | stepIssue (core : BitVec 8) (engine : BitVec 2)
  | stepBoundary (core : BitVec 8) (engine : BitVec 2)
  | drain (core : BitVec 8) (engine : BitVec 2)
  | spill (core : BitVec 8) (engine : BitVec 2)
  | restore (core : BitVec 8) (engine : BitVec 2)
  | engHalt (w : Agent) (core : BitVec 8) (engine : BitVec 2) (on : Bool)
  | spillNow (w : Agent) (core : BitVec 8) (engine : BitVec 2)
  | patrolNow (w : Agent) (core : BitVec 8) (engine : BitVec 2)
  | patrolDue (core : BitVec 8) (engine : BitVec 2)
  | patrolStart (core : BitVec 8) (engine : BitVec 2)
  | patrolComplete (core : BitVec 8) (engine : BitVec 2) (failed : BitVec 4)
  | engineReset (core : BitVec 8) (engine : BitVec 2)
  | stepWatchdog (core : BitVec 8) (unit : BitVec 3)
  | stallSwitch (core : BitVec 8) (engine : BitVec 2)
  | allotDraw (core : BitVec 8) (ctx : BitVec 32) (cls : BitVec 2)
  | stagingFetchDone (core : BitVec 8) (handle : BitVec 16) (run : BitVec 32) (step : BitVec 20)
  | tierTimeout (core : BitVec 8) (cause unit : BitVec 4) (who : Stalled)
  | coreHold (w : Agent) (core : BitVec 8) (on : Bool)
  | offReq (core : BitVec 8)
  | wake (core : BitVec 8)
  | wakeHoldExpiry (core : BitVec 8)
  | larderScrub (core : BitVec 8) (found : List (BitVec 17 × Bool))
  | cacheFlush (core : BitVec 8)
  | zeroLine (core : BitVec 8) (addr : BitVec 48)
  | cacheMissFill (core : BitVec 8)
  -- chapter 15: coherence and the host complex
  | readShared (agent : BitVec 9) (addr : BitVec 48)
  | readUnique (agent : BitVec 9) (addr : BitVec 48)
  | upgrade (agent : BitVec 9) (addr : BitVec 48)
  | zeroUnique (agent : BitVec 9) (addr : BitVec 48)
  | atomic (agent : BitVec 9) (addr : BitVec 48) (req : AtomicReq)
  | cleanReq (agent : BitVec 9) (addr : BitVec 48)
  | flushReq (agent : BitVec 9) (addr : BitVec 48)
  | invalReq (agent : BitVec 9) (addr : BitVec 48)
  | snpShared (holder : BitVec 9) (addr : BitVec 48)
  | snpUnique (holder : BitVec 9) (addr : BitVec 48)
  | snpInval (holder : BitVec 9) (addr : BitVec 48)
  | snpResp (holder : BitVec 9) (addr : BitVec 48)
  | data (agent : BitVec 9) (addr : BitVec 48)
  | compAck (agent : BitVec 9) (addr : BitVec 48)
  | wbDirty (agent : BitVec 9) (addr : BitVec 48)
  | wbClean (agent : BitVec 9) (addr : BitVec 48)
  | wbAck (agent : BitVec 9) (addr : BitVec 48)
  | baseDieAtomic (addr : BitVec 48) (req : AtomicReq)
  | hostComplexReset (cause : BitVec 4)
  | hostBoot
  | hcReady
  | keepWrite (w : Agent) (k : BitVec 3) (value : BitVec 64)
  -- chapter 10: the bell and parish commits
  | bellEdge (schedule : BitVec 64)
  | localBalanceReset (core : BitVec 8)
  | boostPointChange (core : BitVec 8)
  | bellSourceValid (source : BitVec 3)
  | bellLocked
  | bellHoldover
  | ctxPageStore (ctx : BitVec 32) (off : BitVec 7) (bytes : BitVec 4) (value : BitVec 64)
  | prepare (h : MsgHdr) (handle : BitVec 16) (slot : BitVec 8) (epoch : BitVec 32) (bell : BitVec 64)
      (period : BitVec 8)
  | vote (h : MsgHdr) (handle : BitVec 16) (kind : VoteKind)
  | decide (h : MsgHdr) (d : Decision)
  | abort (m : AbortMsg)
  | commitDeadline (handle : BitVec 16)
  -- chapters 11, 13: tallies, descriptor walks
  | twAdd (t : TallyRef) (value : BitVec 64)
  | twSub (t : TallyRef) (value : BitVec 64)
  | tallyCmdRead
  | tallyCmdWrite
  | waiterReoffer (die : BitVec 3)
  | tallyOp (h : MsgHdr) (op : TallyOpKind) (t : TallyRef) (n : BitVec 64) (scope : BitVec 3)
  | descriptorWalk (die : BitVec 2) (ctx : BitVec 32) (seg : BitVec 4)
  | walkTimeout (die : BitVec 2) (ctx : BitVec 32) (seg : BitVec 4)
  -- chapter 12: memory tiers
  | stackScrub (stack : BitVec 4) (found : List (BitVec 31 × Bool))
  | channelSpareDone (stack : BitVec 4)
  | channelFail (stack : BitVec 4) (channel : BitVec 4)
  | stackFence (stack : BitVec 4)
  | stackReady (stack : BitVec 4)
  | ddrControllerReset
  | ddrReady (speed : Bool)
  | ddrRepair (channel : BitVec 3) (row : BitVec 48) (hard : Bool)
  | cellarWindowAccess (addr : BitVec 48) (write : Option (BitVec 64))
  | slowChunkRead (volume : BitVec 8) (tile : BitVec 48) (good : BitVec 4)
  | readDisturbRelocate (bay : BitVec 3) (block : BitVec 32)
  | retentionRewrite (bay : BitVec 3) (block : BitVec 32)
  | badBlockRetire (bay : BitVec 3) (block : BitVec 32) (sparePct : BitVec 8)
  | stickInsert (bay : BitVec 3) (kind : StickKind)
  | stickRemove (bay : BitVec 3)
  | rebuildComplete (bay : BitVec 3)
  | adopt (bays : BitVec 8)
  | storeDeclaredFailed (target : StoreTarget) (addr : BitVec 64) (agent : BitVec 16) (engine : BitVec 2)
      (barrier : Barrier)
  -- chapter 16: the fabric
  | portTrain (port : BitVec 3) (peer : PeerInfo)
  | trainingComplete (port : BitVec 3)
  | flitReceive (port : BitVec 3) (flit : BitVec 2048) (corrected : BitVec 16)
  | flitNak (port : BitVec 3) (seq : BitVec 12)
  | laneSwap (port : BitVec 3) (lane : BitVec 4)
  | portRetrain (port : BitVec 3) (goodLanes : BitVec 9)
  | fabWrite (h : MsgHdr) (r : RemoteRef) (bytes : List (BitVec 8)) (tile : Bool)
  | readReq (h : MsgHdr) (r : RemoteRef) (len : BitVec 16)
  | readResp (h : MsgHdr) (bytes : List (BitVec 8)) (poison : Bool)
  | ack (h : MsgHdr) (status detail : BitVec 16)
  | collAdd (h : MsgHdr) (m : CollMsg)
  | collMax (h : MsgHdr) (m : CollMaxMsg)
  | lsr (l : Lsr)
  | lsrRefresh
  | lsrExpiry (origin : BitVec 16)
  | routeCompute
  | e2eRetransmit (dest : BitVec 16) (cls : BitVec 2)
  | linkTimeout (dest : BitVec 16) (cls : BitVec 2)
  | fabRouteData (w : Agent) (value : BitVec 64)
  -- chapter 17: die links and guest sites
  | beat (link : BitVec 6)
  | stileFence (link : BitVec 6)
  | dieLinkRepair (link : BitVec 6) (lane : BitVec 8) (dropped : Bool)
  | cap (g1 : Bool) (r : GuestCap)
  | guestRead (g1 : Bool) (tag : BitVec 12) (addr : BitVec 48) (sectors : BitVec 7)
  | guestWrite (g1 : Bool) (tag : BitVec 12) (addr : BitVec 48) (bytes : List (BitVec 8)) (poison : Bool)
  | guestAtomic (g1 : Bool) (tag : BitVec 12) (addr : BitVec 48) (req : AtomicReq)
  | guestTallyOp (g1 : Bool) (tag : BitVec 12) (op : TallyOpKind) (t : TallyRef) (n : BitVec 64)
  | guestIrq (g1 : Bool) (tag : BitVec 12) (vector : BitVec 16)
  | guestSnoopTimeout (g1 : Bool) (addr : BitVec 48)
  | guestReset (g1 : Bool)
  | guestAccept (g1 : Bool)
  | dieFence (die : BitVec 2)
  | dieReturn (die : BitVec 2)
  -- chapter 18: external hosts
  | extHoldBegin (portB : Bool) (cause : HoldCause)
  | extHoldEnd (portB : Bool) (l0 bme : Bool)
  | extHoldExpiry (portB : Bool)
  | resume (portB : Bool)
  | bar4Write (portB : Bool) (off : BitVec 48) (bytes : List (BitVec 8))
  | bar4Read (portB : Bool) (off : BitVec 48) (len : BitVec 13)
  | msixUnmask (portB : Bool) (entry : BitVec 11)
  | rootDeviceDma (portB : Bool) (addr : BitVec 48) (write : Option (List (BitVec 8))) (len : BitVec 13)
      (iommuOk : Bool)
  | rootSnoopTimeout (portB : Bool)
  -- chapter 19: power and heat
  | powerSample (watts : BitVec 13) (milliVolt : BitVec 16) (current : BitVec 16)
      (estimates : List (BitVec 8 × BitVec 16 × BitVec 32))
  | capUnmet
  | rampStage (core : BitVec 8)
  | rampStart (core : BitVec 8) (rise : Bool)
  | thermalSample (readings : List SensorReading) (loads : List (BitVec 8 × BitVec 32))
  | thermalTrip (r : BitVec 9) (celsius : BitVec 8)
  | coolantSample (inlet outlet : BitVec 12) (flow : BitVec 12) (held : Bool)
  | pwrPeak
  -- chapter 20: faults, resets, repair
  | domainFence (d : DomainRef)
  | drainLimitExpiry (d : DomainRef) (answered discarded : BitVec 32)
  | contextAbort (ctx : BitVec 32)
  | partitionReset (p : BitVec 4)
  | chipReset
  | modulePowerCycle
  | rungBoundExpiry (r : RungRef)
  | fltResetReq (w : Agent) (value : BitVec 64)
  | owlCheck
  | wardenTakeover
  | spareMapIn (core : BitVec 8)
  | sparePatrol (die : BitVec 2) (phys : BitVec 7) (failed : BitVec 4)
  | phaseFault (supply phase : BitVec 5) (cause : PhaseCause)
  | ledgerMirrorWrite
  | crashCapture (trigger : BitVec 8) (absent : BitVec 64)
  | captureCutoff
  -- chapter 21: bring-up, attestation, update
  | coldStart (r : StartReport)
  | warmStart (r : StartReport)
  | requestUpdate (c : Component) (imageLen : BitVec 32)
  | verifyComplete
  | activateFirmware (c : Component)
  | wardenActivation (ok : Bool)
  | reeveActivation (die : BitVec 2) (ok : Bool)
  | stickFwInstall (bay : BitVec 3) (ok : Bool)
  | getMeasurements (index : BitVec 8)
  | spdmRequest (k : SpdmKind)
  -- chapter 22: the service face
  | attentionRequest (src : AttnSource)
  | armedExpiry
  | drainDeadline
  | release
  | cancel
  | safeEntry
  | leverTouch (ms : BitVec 16)
  | leverPushHome
  | bayButton (bay : BitVec 3)
  | cableEvent (port : BitVec 3) (inserted : Bool)
  | serviceIdent (tag : BitVec 32)
  | serviceRead (tag : BitVec 32) (off : BitVec 32)
  | serviceLedger (tag : BitVec 32) (seq : BitVec 32) (count : BitVec 8)
  | serviceAttention (tag : BitVec 32)
  | serviceCancel (tag : BitVec 32)
  | serviceLocate (tag : BitVec 32) (value : BitVec 8)
  -- chapter 23: the mailbox and PLDM
  | mailboxIdent (m : MailRef)
  | regRead (m : MailRef) (off : BitVec 32)
  | ledgerRead (m : MailRef) (seq : BitVec 32) (count : BitVec 8)
  | mirrorRead (m : MailRef) (seq : BitVec 32) (count : BitVec 8)
  | captureRead (m : MailRef) (slot : BitVec 8) (off : BitVec 64)
  | capturePin (m : MailRef) (slot : BitVec 8) (pin : BitVec 8)
  | captureNow (m : MailRef)
  | mailboxRung (m : MailRef) (value : BitVec 64)
  | hostReset (m : MailRef)
  | ddrReset (m : MailRef)
  | powerOff (m : MailRef)
  | powerOn (m : MailRef)
  | powerCycle (m : MailRef)
  | retire (m : MailRef) (core : BitVec 8)
  | service (m : MailRef) (state : BitVec 8)
  | configRead (m : MailRef)
  | configWrite (m : MailRef) (r : ConfigRec)
  | setkeyEnrol (m : MailRef) (slot : BitVec 8) (key : BitVec 768)
  | setkeyRevoke (m : MailRef) (slot : BitVec 8)
  | datakeySet (m : MailRef) (slot : BitVec 8) (key : BitVec 512)
  | datakeyErase (m : MailRef) (slot : BitVec 8)
  | certSet (m : MailRef) (slot : BitVec 8) (chain : List (BitVec 8))
  | anchorSet (m : MailRef) (slot : BitVec 8) (anchor : List (BitVec 8))
  | svnCommit (m : MailRef) (component : BitVec 16)
  | setEventReceiver (eid : BitVec 8) (b : Binding)
  | getSensorReading (eid : BitVec 8) (id : BitVec 16)
  | setEffecter (m : MailRef) (id : BitVec 16) (value : BitVec 16)
  -- chapter 25: inputs
  | mainInputLoss
  | standbyInputLoss (mainInRange : Bool)
  | prsntDeassert
  | cageOvercurrent (port : BitVec 3)
  -- rows without a chapter of their own
  | registerWrite (w : Agent) (off : BitVec 32) (bytes : BitVec 4) (value : BitVec 64)
  | heartbeat
  | stickFailure (bay : BitVec 3)
  | remotePortAccess (w : Agent) (addr : BitVec 48) (write : Option (List (BitVec 8))) (len : BitVec 7)
  | guestResponse (g1 : Bool) (tag : BitVec 12) (r : GuestRsp)
  | extLinkUp (portB : Bool) (gen : BitVec 4) (width : BitVec 5)
  | setLoadComplete (core : BitVec 8)
  | cycleReqTimeout
  | quiesceAbortTimeout
  | wardenResetDone (ok : Bool)
  | requestFirmwareData (off : BitVec 32) (bytes : List (BitVec 8))
  | cancelUpdate
  | setEndpointId (b : Binding) (eid : BitVec 8)
  | dynamicAddressAssignment (addr : BitVec 7)
  | eventAcknowledge (id : BitVec 16)
  deriving DecidableEq, Repr

end Sys2Proof
end

