-- ==== Sys2Proof/Decode.lean ====
section
/-! DEFINITION. Reading commands from packets (chapters 08, 09): the parameter bytes of each opcode with the checks
of R264, R265 and R269 step 1. A packet is its 64 bytes as a little-endian number. The opcode table itself gives its
rows no bits, so `decodeTableWord` reads none. -/

namespace Sys2Proof

/-- A failed parameter check: the reason of Table 09-5 and the packet byte of the field (R271). -/
structure ParamFault where
  reason : Nat
  off : Nat
  deriving DecidableEq, Repr

/-- The field of `n` bytes at byte `o` of a packet. -/
def pf (pk o n : Nat) : Nat := pk / 2 ^ (8 * o) % 2 ^ (8 * n)

abbrev Dec := Except ParamFault

def need (b : Bool) (reason off : Nat) : Dec Unit := if b then .ok () else .error ⟨reason, off⟩

/-- Every listed (offset, length) field is 0, or RESERVED at the field's first byte: the fields a mode does not use (R265, R271). -/
def unused (pk : Nat) : List (Nat × Nat) → Dec Unit
  | [] => .ok ()
  | (o, n) :: r => do need (pf pk o n == 0) 0x01 o; unused pk r

/-- How many of the low `n` bytes of `v` precede the first that is not 0. -/
def zeroBytes (v : Nat) : Nat → Nat
  | 0 => 0
  | n + 1 => if v % 256 = 0 then zeroBytes (v / 256) n + 1 else 0

/-- Every byte of the listed (offset, length) areas is 0, or RESERVED at the first byte that is not: the bytes a map shows
as 0 (R265, R271). -/
def zeros (pk : Nat) : List (Nat × Nat) → Dec Unit
  | [] => .ok ()
  | (o, n) :: r => do need (pf pk o n == 0) 0x01 (o + zeroBytes (pf pk o n) n); zeros pk r

/-- The field's bits from `lo` up are 0, or RESERVED. -/
def upper (pk o n lo : Nat) : Dec Unit := need (pf pk o n / 2 ^ lo == 0) 0x01 o

def tref (pk o : Nat) : Tref := ⟨BitVec.ofNat 44 (pf pk o 6 / 16), BitVec.ofNat 4 (pf pk o 6)⟩
def bref (pk o : Nat) : Bref := ⟨BitVec.ofNat 44 (pf pk o 6 / 16), BitVec.ofNat 4 (pf pk o 6)⟩

/-- A BREF aligned to `a` bytes, or RANGE (R265). -/
def brefAligned (pk o a : Nat) : Dec Bref := do
  need ((pf pk o 6 / 16) % a == 0) 0x02 o
  .ok (bref pk o)

/-- A signed anchor inside R99, or ANCHOR. -/
def anchorField (pk o : Nat) : Dec (BitVec 16) := do
  let a := ofTwos 16 (pf pk o 2)
  need (decide (-1024 ≤ a) && decide (a ≤ 1023)) 0x03 o
  .ok (BitVec.ofNat 16 (pf pk o 2))

/-- AWORD at `o` under the AMODE of `ctrl` (Table 09-3, Table 04-3). -/
def aword (v2 : Bool) (pk o ctrlOff : Nat) : Dec AWord := do
  match pf pk ctrlOff 1 % 4 with
  | 0 => unused pk [(o, 6)]; .ok .default
  | 1 => zeros pk [(o + 2, 4)]; return .explicit (← anchorField pk o)
  | 2 => need (!v2) 0x04 ctrlOff; return .scanned (← brefAligned pk o 8)
  | _ => need false (if v2 then 0x04 else 0x03) ctrlOff; .ok .default

/-- ROUND of a CTRL byte with the SEED at 56 (Table 09-3, Table 09-2). -/
def seedField (v2 : Bool) (pk ctrlOff : Nat) : Dec (Option (BitVec 64)) := do
  if bitAt (pf pk ctrlOff 1) 2 then
    need (!v2) 0x06 ctrlOff
    .ok (some (BitVec.ofNat 64 (pf pk 56 8)))
  else
    need (pf pk 56 8 == 0) (if v2 then 0x06 else 0x01) 56
    .ok none

/-- A format code of Table 02-1 other than 0x00, or FORMAT. -/
def fmtField (pk o : Nat) : Dec Fmt :=
  match Fmt.ofCode (pf pk o 1) with
  | some f => .ok f
  | none => .error ⟨0x08, o⟩

/-- An output format that holds single rounded values: not ACC128, which only a drain fills (R78, R86, R129). -/
def outField (pk o : Nat) : Dec Fmt := do
  let f ← fmtField pk o
  need (f != .acc128) 0x08 o
  .ok f

/-- TALLY (Table 09-3, Table 09-2). -/
def tallyField (v2 : Bool) (pk : Nat) : Dec TallyRef := do
  upper pk 16 4 19
  let die := pf pk 16 4 / 2 ^ 16
  need (decide (die ≤ if v2 then 3 else 4)) 0x02 16
  need (die != 4 || decide (pf pk 16 2 < 16384)) 0x02 16
  .ok ⟨BitVec.ofNat 3 die, BitVec.ofNat 16 (pf pk 16 2)⟩

def atLeast1 (pk o n : Nat) : Dec Unit := need (decide (1 ≤ pf pk o n)) 0x02 o

/-! ### One reader per opcode -/

def decMark (pk : Nat) : Dec MarkP := do
  upper pk 16 1 1
  zeros pk [(17, 3), (26, 6), (40, 24)]
  if bitAt (pf pk 16 1) 0 then return ⟨some (← brefAligned pk 20 8, BitVec.ofNat 64 (pf pk 32 8))⟩
  else unused pk [(20, 6), (32, 8)]; .ok ⟨none⟩

def decFence (pk : Nat) : Dec FenceKind := do
  zeros pk [(17, 1), (20, 44)]
  match pf pk 16 1 with
  | 1 => .ok (.module (BitVec.ofNat 16 (pf pk 18 2)))
  | 0 => unused pk [(18, 2)]; .ok .all
  | 2 => unused pk [(18, 2)]; .ok .extA
  | 3 => unused pk [(18, 2)]; .ok .extB
  | 4 => unused pk [(18, 2)]; .ok .onModule
  | _ => .error ⟨0x02, 16⟩

def decCopy (pk : Nat) : Dec CopyP := do
  upper pk 32 1 1
  zeros pk [(33, 31)]
  atLeast1 pk 28 4
  let n := BitVec.ofNat 32 (pf pk 28 4)
  if bitAt (pf pk 32 1) 0 then return .raw (← brefAligned pk 16 64) (← brefAligned pk 22 64) n
  else .ok (.tiles (tref pk 16) (tref pk 22) n)

def decIdx (pk : Nat) : Dec IdxP := do
  zeros pk [(32, 32)]
  atLeast1 pk 28 4
  return ⟨← brefAligned pk 16 8, tref pk 22, BitVec.ofNat 32 (pf pk 28 4)⟩

def decZero (pk : Nat) : Dec ZeroP := do
  upper pk 32 1 2
  zeros pk [(22, 6), (40, 24)]
  atLeast1 pk 28 4
  let n := BitVec.ofNat 32 (pf pk 28 4)
  let ctrl := pf pk 32 1
  if bitAt ctrl 0 then
    need (ctrl == 1) 0x01 32
    unused pk [(33, 1), (34, 2), (36, 2), (38, 2)]
    return .raw (← brefAligned pk 16 64) n
  else
    let rows := pf pk 34 2
    let cols := pf pk 36 2
    let layout := bitAt ctrl 1
    if pf pk 33 1 = 0 then
      need (rows == 0 && cols == 0) 0x0B 34
      unused pk [(38, 2)]
      .ok (.tiles (tref pk 16) n layout none 0 0 0)
    else
      let f ← fmtField pk 33
      need (shapeOk f rows cols (if layout then rows else cols)) 0x0B 34
      let a ← if f = .acc128 then anchorField pk 38 else do unused pk [(38, 2)]; .ok 0
      .ok (.tiles (tref pk 16) n layout (some f) (BitVec.ofNat 16 rows) (BitVec.ofNat 16 cols) a)

def decCellar (pk : Nat) : Dec CellarP := do
  zeros pk [(22, 6), (33, 1), (40, 24)]
  atLeast1 pk 28 4
  .ok ⟨tref pk 16, BitVec.ofNat 32 (pf pk 28 4), BitVec.ofNat 8 (pf pk 32 1), BitVec.ofNat 48 (pf pk 34 6)⟩

def decMatmul (v2 acc : Bool) (pk : Nat) : Dec MatmulP := do
  atLeast1 pk 40 2
  atLeast1 pk 42 2
  atLeast1 pk 44 2
  let f ← fmtField pk 46
  upper pk 47 1 3
  let a ← aword v2 pk 48 47
  zeros pk [(54, 2)]
  let seed ← if acc then
      do need (!bitAt (pf pk 47 1) 2) 0x06 47; zeros pk [(62, 2)]; .ok none
    else seedField v2 pk 47
  .ok ⟨tref pk 16, tref pk 22, tref pk 28, BitVec.ofNat 24 (pf pk 34 3), BitVec.ofNat 24 (pf pk 37 3),
    BitVec.ofNat 16 (pf pk 40 2), BitVec.ofNat 16 (pf pk 42 2), BitVec.ofNat 16 (pf pk 44 2), f, a, seed⟩

def decScan (pk : Nat) : Dec ScanP := do
  atLeast1 pk 34 2
  atLeast1 pk 36 2
  atLeast1 pk 42 8
  need (decide (pf pk 42 8 ≤ 2 ^ 48)) 0x05 42
  let res ← brefAligned pk 50 8
  upper pk 56 1 1
  zeros pk [(57, 7)]
  let b ← if bitAt (pf pk 56 1) 0 then do unused pk [(22, 6), (31, 3), (38, 2), (40, 2)]; .ok none
    else do
      atLeast1 pk 38 2
      atLeast1 pk 40 2
      .ok (some (tref pk 22, BitVec.ofNat 24 (pf pk 31 3), BitVec.ofNat 16 (pf pk 38 2), BitVec.ofNat 16 (pf pk 40 2)))
  .ok ⟨tref pk 16, BitVec.ofNat 24 (pf pk 28 3), BitVec.ofNat 16 (pf pk 34 2), BitVec.ofNat 16 (pf pk 36 2), b,
    BitVec.ofNat 64 (pf pk 42 8), res⟩

def decReduce (v2 : Bool) (pk : Nat) : Dec ReduceP := do
  atLeast1 pk 32 4
  need (decide (2 ≤ pf pk 36 2)) 0x02 36
  let f ← fmtField pk 38
  upper pk 39 1 3
  let a ← aword v2 pk 40 39
  zeros pk [(46, 10)]
  let seed ← seedField v2 pk 39
  .ok ⟨tref pk 16, tref pk 22, BitVec.ofNat 32 (pf pk 28 4), BitVec.ofNat 32 (pf pk 32 4),
    BitVec.ofNat 16 (pf pk 36 2), f, a, seed⟩

def decElem (pk : Nat) : Dec ElemP := do
  zeros pk [(34, 6), (54, 2)]
  atLeast1 pk 46 4
  let op ← match VOp.ofCode (pf pk 50 1) with | some o => Except.ok o | none => .error ⟨0x12, 50⟩
  let vf ← match VFmt.ofCode (pf pk 51 1) with | some o => Except.ok o | none => .error ⟨0x12, 51⟩
  need (op == .cvt || (op.isInt == (vf == .int32))) 0x12 50
  let f ← outField pk 52
  upper pk 53 1 4
  let r ← match Rnd.ofCode (pf pk 53 1 % 8) with | some o => Except.ok o | none => .error ⟨0x06, 53⟩
  let ys := bitAt (pf pk 53 1) 3
  let (useY, useZ) := op.uses
  need (useY || !ys) 0x01 53
  need ((useY && !ys) || pf pk 22 6 == 0) 0x01 22
  need (useZ || pf pk 28 6 == 0) 0x01 28
  need (ys || pf pk 56 8 == 0) 0x01 56
  .ok ⟨tref pk 16, tref pk 22, tref pk 28, tref pk 40, BitVec.ofNat 32 (pf pk 46 4), op, vf, f, r,
    if ys then some (BitVec.ofNat 64 (pf pk 56 8)) else none⟩

/-- SET_ID of a version-2 packet is 0 and stands for the heritage set (R246, R264). -/
def setField (v2 : Bool) (pk o : Nat) : Dec (BitVec 32) := do
  if v2 then need (pf pk o 4 == 0) 0x01 o; .ok (BitVec.ofNat 32 setHeritage)
  else .ok (BitVec.ofNat 32 (pf pk o 4))

def decFunc (v2 : Bool) (pk : Nat) : Dec FuncP := do
  atLeast1 pk 28 4
  let set ← setField v2 pk 32
  let f ← outField pk 37
  need (pf pk 38 1 == pf pk 38 1 % 8 && pf pk 38 1 % 4 == 0) 0x01 38
  zeros pk [(39, 17)]
  let seed ← seedField v2 pk 38
  .ok ⟨tref pk 16, tref pk 22, BitVec.ofNat 32 (pf pk 28 4), set, BitVec.ofNat 8 (pf pk 36 1), f, seed⟩

/-- The part the row commands share: AMODE DEFAULT or EXPLICIT only (R155, R287), n within R154. -/
def decRow (v2 : Bool) (pk : Nat) : Dec RowP := do
  atLeast1 pk 28 2
  atLeast1 pk 30 2
  need (decide (1 ≤ pf pk 32 4) && decide (pf pk 32 4 ≤ 1048576)) 0x05 32
  let set ← setField v2 pk 36
  let f ← outField pk 40
  upper pk 41 1 4
  let m := pf pk 41 1 % 4
  need (m != 3) (if v2 then 0x04 else 0x03) 41
  need (m != 2) 0x04 41
  let a ← if m = 1 then (anchorField pk 42).map some else (unused pk [(42, 2)]).map fun _ => none
  zeros pk [(55, 1)]
  let seed ← seedField v2 pk 41
  .ok ⟨tref pk 16, tref pk 22, BitVec.ofNat 16 (pf pk 28 2), BitVec.ofNat 16 (pf pk 30 2), BitVec.ofNat 32 (pf pk 32 4),
    set, f, a, seed⟩

def decSoftmax (v2 : Bool) (pk : Nat) : Dec RowP := do
  let r ← decRow v2 pk
  need (!bitAt (pf pk 41 1) 3) 0x01 41
  need (r.anchor == none) 0x04 41
  unused pk [(44, 6), (50, 4), (54, 1)]
  .ok r

def decNorm (v2 : Bool) (pk : Nat) : Dec NormP := do
  let r ← decRow v2 pk
  need (epsOk (pf pk 50 4)) 0x0A 50
  unused pk [(54, 1)]
  .ok ⟨r, bitAt (pf pk 41 1) 3, tref pk 44, BitVec.ofNat 32 (pf pk 50 4)⟩

def decRowstat (v2 : Bool) (pk : Nat) : Dec (RowP × BitVec 8) := do
  let r ← decRow v2 pk
  need (r.set == 0 || r.set.toNat == setHeritage) 0x02 36
  need (!bitAt (pf pk 41 1) 3) 0x01 41
  need (r.fmtOut == .fp64 || r.fmtOut == .fp32 || r.fmtOut == .bf16 || r.fmtOut == .fp16) 0x08 40
  unused pk [(44, 6), (50, 4)]
  let st := pf pk 54 1
  need (st != 0 && !bitAt st 7) 0x09 54
  need (r.set == 0 || (!bitAt st 3 && !bitAt st 4)) 0x09 54
  .ok (r, BitVec.ofNat 8 st)

def scopeField (pk : Nat) (ok : Nat → Bool) : Dec (BitVec 8) := do
  need (ok (pf pk 21 1)) 0x02 21
  .ok (BitVec.ofNat 8 (pf pk 21 1))

def decSignal (v2 : Bool) (c : CmdRef) (pk : Nat) : Dec Instr := do
  let dest := pf pk 32 1
  need (decide (dest ≤ if v2 then 0 else 2)) 0x02 32
  let d ← if dest = 0 then (do zeros pk [(22, 2)]; let w ← brefAligned pk 16 8; .ok (SigDest.seg w))
    else (do need (pf pk 16 8 % 8 == 0) 0x02 16; .ok (.port (dest == 2) (BitVec.ofNat 64 (pf pk 16 8))))
  need (decide (pf pk 33 1 ≤ 3)) 0x02 33
  if pf pk 33 1 = 0 then unused pk [(34, 2)] else .ok ()
  zeros pk [(37, 27)]
  let p : SignalP := ⟨d, BitVec.ofNat 64 (pf pk 24 8), BitVec.ofNat 8 (pf pk 33 1), BitVec.ofNat 16 (pf pk 34 2)⟩
  match pf pk 36 1 with
  | 0 => .ok (.signalHost c p)
  | 1 => need (dest == 0) 0x12 36; .ok (.signalHostAdd c p)
  | _ => .error ⟨0x12, 36⟩

def decPartSet (c : CmdRef) (pk : Nat) : Dec Instr := do
  need (decide (pf pk 16 1 ≤ 15)) 0x02 16
  let part := BitVec.ofNat 8 (pf pk 16 1)
  zeros pk [(18, 6), (56, 8)]
  match pf pk 17 1 with
  | 0x01 => .ok (.partSetCores c part (BitVec.ofNat 256 (pf pk 24 32)))
  | 0x02 =>
    need (decide (pf pk 40 1 ≤ 15)) 0x02 40
    zeros pk [(41, 15)]
    .ok (.partSetCaps c part (BitVec.ofNat 32 (pf pk 24 4)) (BitVec.ofNat 32 (pf pk 28 4)) (BitVec.ofNat 32 (pf pk 32 4))
      (BitVec.ofNat 32 (pf pk 36 4)) (BitVec.ofNat 8 (pf pk 40 1)))
  | 0x03 =>
    upper pk 24 1 2
    need (decide (1 ≤ pf pk 25 1) && decide (pf pk 25 1 ≤ 15)) 0x02 25
    zeros pk [(26, 30)]
    .ok (.partSetKey c part (bitAt (pf pk 24 1) 0) (bitAt (pf pk 24 1) 1) (BitVec.ofNat 8 (pf pk 25 1)))
  | 0x04 => upper pk 24 1 1; zeros pk [(25, 31)]; .ok (.partSetMode c part (bitAt (pf pk 24 1) 0))
  | 0x05 =>
    zeros pk [(30, 2), (38, 2), (40, 16)]
    .ok (.partSetTimeouts c part (BitVec.ofNat 64 (pf pk 24 8)) (BitVec.ofNat 64 (pf pk 32 8)))
  | 0x06 =>
    need (decide (pf pk 28 1 ≤ 3)) 0x02 28
    zeros pk [(29, 27)]
    .ok (.partSetVectors c part (BitVec.ofNat 16 (pf pk 24 2)) (BitVec.ofNat 16 (pf pk 26 2)) (BitVec.ofNat 8 (pf pk 28 1)))
  | 0x07 => .ok (.partSetVolumes c part (BitVec.ofNat 256 (pf pk 24 32)))
  | 0x08 =>
    upper pk 25 1 1
    zeros pk [(30, 26)]
    let die := BitVec.ofNat 8 (pf pk 24 1)
    if bitAt (pf pk 25 1) 0 then
      .ok (.partSetTalliesRevoke c part die (BitVec.ofNat 16 (pf pk 26 2)) (BitVec.ofNat 16 (pf pk 28 2)))
    else .ok (.partSetTalliesGrant c part die (BitVec.ofNat 16 (pf pk 26 2)) (BitVec.ofNat 16 (pf pk 28 2)))
  | _ => .error ⟨0x0F, 17⟩

def decAdmin (c : CmdRef) (op pk : Nat) : Dec Instr := do
  match op with
  | 0x0600 =>
    need (decide (pf pk 16 1 ≤ 15)) 0x02 16
    upper pk 17 1 1
    zeros pk [(18, 6), (32, 32)]
    .ok (.ctxCreate c (BitVec.ofNat 8 (pf pk 16 1)) (bitAt (pf pk 17 1) 0) (BitVec.ofNat 64 (pf pk 24 8)))
  | 0x0601 =>
    upper pk 16 1 1
    zeros pk [(17, 47)]
    if bitAt (pf pk 16 1) 0 then .ok (.ctxDestroyAbortOnly c) else .ok (.ctxDestroy c)
  | 0x0602 =>
    need (decide (pf pk 16 1 ≤ 15)) 0x02 16
    zeros pk [(17, 7), (56, 8)]
    .ok (.segSet c (BitVec.ofNat 8 (pf pk 16 1)) (BitVec.ofNat 256 (pf pk 24 32)))
  | 0x0603 =>
    upper pk 16 1 1
    zeros pk [(18, 46)]
    if bitAt (pf pk 16 1) 0 then
      need (decide (pf pk 17 1 ≤ 15)) 0x02 17
      .ok (.segInvalidate c (some (BitVec.ofNat 8 (pf pk 17 1))))
    else unused pk [(17, 1)]; .ok (.segInvalidate c none)
  | 0x0604 =>
    upper pk 32 1 1
    zeros pk [(33, 31)]
    .ok (.allotSet c ⟨BitVec.ofNat 32 (pf pk 16 4), BitVec.ofNat 32 (pf pk 20 4), BitVec.ofNat 32 (pf pk 24 4),
      BitVec.ofNat 32 (pf pk 28 4), bitAt (pf pk 32 1) 0⟩)
  | _ => decPartSet c pk

def decFizan (c : CmdRef) (op pk : Nat) : Dec Instr := do
  match op with
  | 0x0700 =>
    upper pk 18 1 1
    zeros pk [(19, 1), (26, 2), (32, 32)]
    let h := BitVec.ofNat 16 (pf pk 16 2)
    if bitAt (pf pk 18 1) 0 then unused pk [(20, 6), (28, 4)]; .ok (.stepUnload c h)
    else .ok (.stepLoad c h (bref pk 20) (BitVec.ofNat 32 (pf pk 28 4)))
  | 0x0701 =>
    zeros pk [(19, 1), (28, 36)]
    return .stepRun c ⟨BitVec.ofNat 16 (pf pk 16 2), BitVec.ofNat 8 (pf pk 18 1), ← brefAligned pk 20 8,
      BitVec.ofNat 16 (pf pk 26 2)⟩
  | 0x0F00 =>
    zeros pk [(17, 3), (52, 12)]
    match pf pk 16 1 with
    | 1 => .ok (.selftestPatrol c (BitVec.ofNat 256 (pf pk 20 32)))
    | 2 => .ok (.selftestLoopback c (BitVec.ofNat 256 (pf pk 20 32)))
    | _ => .error ⟨0x02, 16⟩
  | _ =>
    zeros pk [(18, 2), (26, 2), (32, 32)]
    let dst ← brefAligned pk 20 64
    let n := BitVec.ofNat 32 (pf pk 28 4)
    match pf pk 16 1 with
    | 1 => .ok (.dumpCoreRegs c (BitVec.ofNat 8 (pf pk 17 1)) dst n)
    | 2 => unused pk [(17, 1)]; .ok (.dumpSpill c dst n)
    | 3 => unused pk [(17, 1)]; .ok (.dumpLedger c dst n)
    | _ => .error ⟨0x02, 16⟩

def decSync (v2 : Bool) (c : CmdRef) (op pk : Nat) : Dec Instr := do
  match op with
  | 0x0400 =>
    let t ← tallyField v2 pk
    need (decide (pf pk 20 1 ≤ 1)) 0x12 20
    let sc ← scopeField pk (fun s => decide (s ≤ 4))
    zeros pk [(22, 2), (32, 32)]
    atLeast1 pk 24 8
    let n := BitVec.ofNat 64 (pf pk 24 8)
    if pf pk 20 1 = 0 then .ok (.tallyAdd c t sc n) else .ok (.tallySub c t sc n)
  | 0x0401 =>
    let t ← tallyField v2 pk
    zeros pk [(20, 4), (32, 32)]
    atLeast1 pk 24 8
    .ok (.tallyWait c t (BitVec.ofNat 64 (pf pk 24 8)))
  | 0x0402 =>
    let t ← tallyField v2 pk
    zeros pk [(20, 4), (32, 32)]
    atLeast1 pk 24 8
    .ok (.tallyTake c t (BitVec.ofNat 64 (pf pk 24 8)))
  | 0x0403 =>
    let t ← tallyField v2 pk
    zeros pk [(20, 1), (32, 32)]
    let sc ← scopeField pk (fun s => s == 3 || s == 4)
    atLeast1 pk 24 8
    .ok (.signalRemote c t sc (BitVec.ofNat 16 (pf pk 22 2)) (BitVec.ofNat 64 (pf pk 24 8)))
  | _ => decSignal v2 c pk

def decEpoch (c : CmdRef) (op pk : Nat) : Dec Instr := do
  let h := BitVec.ofNat 16 (pf pk 16 2)
  let slot := BitVec.ofNat 8 (pf pk 18 1)
  match op with
  | 0x0500 =>
    zeros pk [(19, 1), (26, 2), (36, 28)]
    atLeast1 pk 28 4
    .ok (.epochStage c ⟨h, slot, tref pk 20, BitVec.ofNat 32 (pf pk 28 4), BitVec.ofNat 32 (pf pk 32 4)⟩)
  | 0x0501 =>
    need (decide (pf pk 19 1 ≤ 1)) 0x02 19
    zeros pk [(20, 4), (32, 32)]
    let b := BitVec.ofNat 64 (pf pk 24 8)
    if pf pk 19 1 = 0 then .ok (.epochCommit c h slot b) else .ok (.epochCommitParish c h slot b)
  | 0x0502 => zeros pk [(19, 45)]; .ok (.epochPin c h slot)
  | _ => zeros pk [(19, 45)]; .ok (.epochUnpin c h slot)

def decMicroprog (c : CmdRef) (pk : Nat) : Dec Instr := do
  zeros pk [(22, 2), (29, 3), (36, 28)]
  match pf pk 28 1 with
  | 0 => unused pk [(32, 4)]; .ok (.microprogLoad c (bref pk 16) (BitVec.ofNat 32 (pf pk 24 4)))
  | 1 => unused pk [(16, 6), (24, 4)]; .ok (.microprogUnload c (BitVec.ofNat 32 (pf pk 32 4)))
  | _ => .error ⟨0x12, 28⟩

/-- Is the opcode one of Table 09-1? -/
def opcodeDefined (op : Nat) : Bool :=
  [0x0000, 0x0001, 0x0002, 0x0100, 0x0101, 0x0102, 0x0103, 0x0104, 0x0105, 0x0200, 0x0201, 0x0202, 0x0203, 0x0204,
   0x0300, 0x0301, 0x0302, 0x0303, 0x0304, 0x0400, 0x0401, 0x0402, 0x0403, 0x0404, 0x0500, 0x0501, 0x0502, 0x0503,
   0x0600, 0x0601, 0x0602, 0x0603, 0x0604, 0x0605, 0x0700, 0x0701, 0x0F00, 0x0F01].contains op

/-- The version-3 opcode a version-2 code names (Table 08-7). -/
def v2Opcode : Nat → Option Nat
  | 0x00 => some 0x0000 | 0x01 => some 0x0002 | 0x10 => some 0x0100 | 0x11 => some 0x0103 | 0x12 => some 0x0101
  | 0x13 => some 0x0102 | 0x20 => some 0x0200 | 0x21 => some 0x0201 | 0x22 => some 0x0203 | 0x23 => some 0x0204
  | 0x30 => some 0x0300 | 0x31 => some 0x0301 | 0x32 => some 0x0302 | 0x33 => some 0x0303 | 0x40 => some 0x0400
  | 0x41 => some 0x0401 | 0x42 => some 0x0403 | 0x43 => some 0x0404 | _ => none

/-- The command that the parameter bytes of a packet spell under opcode `op` (R263 to R265). -/
def decodeParams (v2 : Bool) (c : CmdRef) (op pk : Nat) : Dec Instr := do
  match op with
  | 0x0000 => zeros pk [(16, 48)]; .ok (.nop c)
  | 0x0001 => return .queueMark c (← decMark pk)
  | 0x0002 => return .fence c (← decFence pk)
  | 0x0100 => return .copy c (← decCopy pk)
  | 0x0101 => return .gather c (← decIdx pk)
  | 0x0102 => return .scatter c (← decIdx pk)
  | 0x0103 => return .zero c (← decZero pk)
  | 0x0104 => return .cellarRead c (← decCellar pk)
  | 0x0105 => return .cellarWrite c (← decCellar pk)
  | 0x0200 => return .matmul c (← decMatmul v2 false pk)
  | 0x0201 => return .matmulAcc c ⟨← decMatmul v2 true pk, tref pk 56⟩
  | 0x0202 => return .anchorScan c (← decScan pk)
  | 0x0203 => return .reduce c (← decReduce v2 pk)
  | 0x0204 => return .elementwise c (← decElem pk)
  | 0x0300 => return .func c (← decFunc v2 pk)
  | 0x0301 => return .softmax c (← decSoftmax v2 pk)
  | 0x0302 => return .norm c (← decNorm v2 pk)
  | 0x0303 => do let (r, st) ← decRowstat v2 pk; return .rowstat c r st
  | 0x0304 => decMicroprog c pk
  | 0x0400 | 0x0401 | 0x0402 | 0x0403 | 0x0404 => decSync v2 c op pk
  | 0x0500 | 0x0501 | 0x0502 | 0x0503 => decEpoch c op pk
  | 0x0700 | 0x0701 | 0x0F00 | 0x0F01 => decFizan c op pk
  | _ => decAdmin c op pk

/-! ### Writing packets

The parameter bytes of a version-3 packet that spell a command, from the same tables. -/

/-- A packet from its fields: byte offset, length in bytes, value. -/
def packFields : List (Nat × Nat × Nat) → Nat
  | [] => 0
  | (o, n, v) :: r => v % 2 ^ (8 * n) * 2 ^ (8 * o) + packFields r

def trefNat (r : Tref) : Nat := r.tile.toNat * 16 + r.seg.toNat
def brefNat (r : Bref) : Nat := r.off.toNat * 16 + r.seg.toNat
def tallyNat (t : TallyRef) : Nat := t.die.toNat * 65536 + t.index.toNat

/-- AMODE and AWORD. -/
def awordNat : AWord → Nat × Nat
  | .default => (0, 0)
  | .explicit a => (1, a.toNat)
  | .scanned r => (2, brefNat r)

/-- The ROUND bit of a CTRL byte, and the SEED. -/
def seedNat : Option (BitVec 64) → Nat × Nat
  | none => (0, 0)
  | some x => (4, x.toNat)

def Rnd.code : Rnd → Nat
  | .ties => 0 | .zero => 1 | .up => 2 | .down => 3 | .away => 4 | .stochastic _ => 7

def VFmt.code : VFmt → Nat
  | .fp64 => 0x01 | .fp32 => 0x02 | .bf16 => 0x03 | .fp16 => 0x04 | .int32 => 0x09

def VOp.code : VOp → Nat
  | .add => 0x01 | .sub => 0x02 | .mul => 0x03 | .fma => 0x04 | .fms => 0x05 | .fnma => 0x06 | .div => 0x07 | .sqrt => 0x08
  | .min => 0x09 | .max => 0x0A | .minnum => 0x0B | .maxnum => 0x0C | .abs => 0x0D | .neg => 0x0E | .copysign => 0x0F
  | .rint => 0x10 | .cvt => 0x11 | .iadd => 0x12 | .isub => 0x13 | .imul => 0x14 | .iadds => 0x15 | .isubs => 0x16
  | .and => 0x17 | .or => 0x18 | .xor => 0x19 | .shl => 0x1A | .shr => 0x1B | .sra => 0x1C | .imin => 0x1D | .imax => 0x1E

def encMatmul (p : MatmulP) : List (Nat × Nat × Nat) :=
  let (m, a) := awordNat p.anchor
  let (r, x) := seedNat p.seed
  [(16, 6, trefNat p.a), (22, 6, trefNat p.b), (28, 6, trefNat p.d), (34, 3, p.aStr.toNat), (37, 3, p.bStr.toNat),
   (40, 2, p.mt.toNat), (42, 2, p.kt.toNat), (44, 2, p.nt.toNat), (46, 1, p.fmtOut.code), (47, 1, m + r), (48, 6, a), (56, 8, x)]

def encRow (p : RowP) (rms : Bool) : List (Nat × Nat × Nat) :=
  let (m, a) := match p.anchor with | none => (0, 0) | some a => (1, a.toNat)
  let (r, x) := seedNat p.seed
  [(16, 6, trefNat p.x), (22, 6, trefNat p.d), (28, 2, p.rowt.toNat), (30, 2, p.colt.toNat), (32, 4, p.n.toNat),
   (36, 4, p.set.toNat), (40, 1, p.fmtOut.code), (41, 1, m + r + 8 * bnat rms), (42, 2, a), (56, 8, x)]

def encSignal (p : SignalP) (add : Bool) : List (Nat × Nat × Nat) :=
  (match p.dest with
    | .seg w => [(16, 6, brefNat w), (32, 1, 0)]
    | .port b a => [(16, 8, a.toNat), (32, 1, 1 + bnat b)]) ++
  [(24, 8, p.value.toNat), (33, 1, p.irqKind.toNat), (34, 2, p.vector.toNat), (36, 1, bnat add)]

def encZero : ZeroP → List (Nat × Nat × Nat)
  | .raw d n => [(16, 6, brefNat d), (28, 4, n.toNat), (32, 1, 1)]
  | .tiles d n layout fmt rows cols anchor =>
    [(16, 6, trefNat d), (28, 4, n.toNat), (32, 1, 2 * bnat layout), (33, 1, (fmt.map Fmt.code).getD 0), (34, 2, rows.toNat),
     (36, 2, cols.toNat), (38, 2, anchor.toNat)]

def encScan (p : ScanP) : List (Nat × Nat × Nat) :=
  [(16, 6, trefNat p.a), (28, 3, p.aStr.toNat), (34, 2, p.aRows.toNat), (36, 2, p.aCols.toNat), (42, 8, p.k.toNat),
   (50, 6, brefNat p.res)] ++
  match p.b with
  | none => [(56, 1, 1)]
  | some (r, st, rows, cols) => [(22, 6, trefNat r), (31, 3, st.toNat), (38, 2, rows.toNat), (40, 2, cols.toNat)]

def encReduce (p : ReduceP) : List (Nat × Nat × Nat) :=
  let (m, a) := awordNat p.anchor
  let (r, x) := seedNat p.seed
  [(16, 6, trefNat p.input), (22, 6, trefNat p.d), (28, 4, p.inStep.toNat), (32, 4, p.tiles.toNat), (36, 2, p.inCount.toNat),
   (38, 1, p.fmtOut.code), (39, 1, m + r), (40, 6, a), (56, 8, x)]

def encElem (p : ElemP) : List (Nat × Nat × Nat) :=
  [(16, 6, trefNat p.x), (22, 6, trefNat p.y), (28, 6, trefNat p.z), (40, 6, trefNat p.d), (46, 4, p.tiles.toNat),
   (50, 1, p.op.code), (51, 1, p.vfmt.code), (52, 1, p.fmtOut.code), (53, 1, p.rnd.code + 8 * bnat p.scalar.isSome),
   (56, 8, (p.scalar.map (·.toNat)).getD 0)]

def encFunc (p : FuncP) : List (Nat × Nat × Nat) :=
  let (r, x) := seedNat p.seed
  [(16, 6, trefNat p.x), (22, 6, trefNat p.d), (28, 4, p.tiles.toNat), (32, 4, p.set.toNat), (36, 1, p.func.toNat),
   (37, 1, p.fmtOut.code), (38, 1, r), (56, 8, x)]

def encTally (t : TallyRef) (op scope : Nat) (n : BitVec 64) : List (Nat × Nat × Nat) :=
  [(16, 4, tallyNat t), (20, 1, op), (21, 1, scope), (24, 8, n.toNat)]

def encPart (p : BitVec 8) (item : Nat) (fs : List (Nat × Nat × Nat)) : List (Nat × Nat × Nat) :=
  (16, 1, p.toNat) :: (17, 1, item) :: fs

/-- Opcode and parameter fields of a packet command (Tables 09-1, 09-7 to 09-20); none for the other rows. -/
def encodeParams : Instr → Option (CmdRef × Nat × List (Nat × Nat × Nat))
  | .nop c => some (c, 0x0000, [])
  | .queueMark c p => some (c, 0x0001, match p.write with
      | none => []
      | some (r, v) => [(16, 1, 1), (20, 6, brefNat r), (32, 8, v.toNat)])
  | .fence c k => some (c, 0x0002, match k with
      | .all => [] | .module m => [(16, 1, 1), (18, 2, m.toNat)] | .extA => [(16, 1, 2)] | .extB => [(16, 1, 3)]
      | .onModule => [(16, 1, 4)])
  | .copy c (.tiles a b n) => some (c, 0x0100, [(16, 6, trefNat a), (22, 6, trefNat b), (28, 4, n.toNat)])
  | .copy c (.raw a b n) => some (c, 0x0100, [(16, 6, brefNat a), (22, 6, brefNat b), (28, 4, n.toNat), (32, 1, 1)])
  | .gather c p => some (c, 0x0101, [(16, 6, brefNat p.idx), (22, 6, trefNat p.base), (28, 4, p.count.toNat)])
  | .scatter c p => some (c, 0x0102, [(16, 6, brefNat p.idx), (22, 6, trefNat p.base), (28, 4, p.count.toNat)])
  | .zero c p => some (c, 0x0103, encZero p)
  | .cellarRead c p => some (c, 0x0104,
      [(16, 6, trefNat p.mem), (28, 4, p.count.toNat), (32, 1, p.volume.toNat), (34, 6, p.ctile.toNat)])
  | .cellarWrite c p => some (c, 0x0105,
      [(16, 6, trefNat p.mem), (28, 4, p.count.toNat), (32, 1, p.volume.toNat), (34, 6, p.ctile.toNat)])
  | .matmul c p => some (c, 0x0200, encMatmul p)
  | .matmulAcc c p => some (c, 0x0201, encMatmul { p.base with seed := none } ++ [(56, 6, trefNat p.c)])
  | .anchorScan c p => some (c, 0x0202, encScan p)
  | .reduce c p => some (c, 0x0203, encReduce p)
  | .elementwise c p => some (c, 0x0204, encElem p)
  | .func c p => some (c, 0x0300, encFunc p)
  | .softmax c p => some (c, 0x0301, encRow p false)
  | .norm c p => some (c, 0x0302, encRow p.row p.rms ++ [(44, 6, trefNat p.gb), (50, 4, p.eps.toNat)])
  | .rowstat c p st => some (c, 0x0303, encRow p false ++ [(54, 1, st.toNat)])
  | .microprogLoad c r n => some (c, 0x0304, [(16, 6, brefNat r), (24, 4, n.toNat)])
  | .microprogUnload c x => some (c, 0x0304, [(28, 1, 1), (32, 4, x.toNat)])
  | .tallyAdd c t sc n => some (c, 0x0400, encTally t 0 sc.toNat n)
  | .tallySub c t sc n => some (c, 0x0400, encTally t 1 sc.toNat n)
  | .tallyWait c t n => some (c, 0x0401, encTally t 0 0 n)
  | .tallyTake c t n => some (c, 0x0402, encTally t 0 0 n)
  | .signalRemote c t sc m n => some (c, 0x0403, (22, 2, m.toNat) :: encTally t 0 sc.toNat n)
  | .signalHost c p => some (c, 0x0404, encSignal p false)
  | .signalHostAdd c p => some (c, 0x0404, encSignal p true)
  | .epochStage c p => some (c, 0x0500, [(16, 2, p.handle.toNat), (18, 1, p.slot.toNat), (20, 6, trefNat p.src),
      (28, 4, p.epoch.toNat), (32, 4, p.tiles.toNat)])
  | .epochCommit c h k b => some (c, 0x0501, [(16, 2, h.toNat), (18, 1, k.toNat), (24, 8, b.toNat)])
  | .epochCommitParish c h k b => some (c, 0x0501, [(16, 2, h.toNat), (18, 1, k.toNat), (19, 1, 1), (24, 8, b.toNat)])
  | .epochPin c h k => some (c, 0x0502, [(16, 2, h.toNat), (18, 1, k.toNat)])
  | .epochUnpin c h k => some (c, 0x0503, [(16, 2, h.toNat), (18, 1, k.toNat)])
  | .ctxCreate c p b a => some (c, 0x0600, [(16, 1, p.toNat), (17, 1, bnat b), (24, 8, a.toNat)])
  | .ctxDestroy c => some (c, 0x0601, [])
  | .ctxDestroyAbortOnly c => some (c, 0x0601, [(16, 1, 1)])
  | .segSet c g d => some (c, 0x0602, [(16, 1, g.toNat), (24, 32, d.toNat)])
  | .segInvalidate c none => some (c, 0x0603, [])
  | .segInvalidate c (some p) => some (c, 0x0603, [(16, 1, 1), (17, 1, p.toNat)])
  | .allotSet c p => some (c, 0x0604, [(16, 4, p.engine.toNat), (20, 4, p.stack.toNat), (24, 4, p.fabric.toNat),
      (28, 4, p.host.toNat), (32, 1, bnat p.carry)])
  | .partSetCores c p m => some (c, 0x0605, encPart p 0x01 [(24, 32, m.toNat)])
  | .partSetCaps c p e k f h pr => some (c, 0x0605, encPart p 0x02
      [(24, 4, e.toNat), (28, 4, k.toNat), (32, 4, f.toNat), (36, 4, h.toNat), (40, 1, pr.toNat)])
  | .partSetKey c p st d k => some (c, 0x0605, encPart p 0x03 [(24, 1, bnat st + 2 * bnat d), (25, 1, k.toNat)])
  | .partSetMode c p b => some (c, 0x0605, encPart p 0x04 [(24, 1, bnat b)])
  | .partSetTimeouts c p x y => some (c, 0x0605, encPart p 0x05 [(24, 8, x.toNat), (32, 8, y.toNat)])
  | .partSetVectors c p b n k => some (c, 0x0605, encPart p 0x06 [(24, 2, b.toNat), (26, 2, n.toNat), (28, 1, k.toNat)])
  | .partSetVolumes c p m => some (c, 0x0605, encPart p 0x07 [(24, 32, m.toNat)])
  | .partSetTalliesGrant c p d f n => some (c, 0x0605, encPart p 0x08 [(24, 1, d.toNat), (26, 2, f.toNat), (28, 2, n.toNat)])
  | .partSetTalliesRevoke c p d f n => some (c, 0x0605, encPart p 0x08
      [(24, 1, d.toNat), (25, 1, 1), (26, 2, f.toNat), (28, 2, n.toNat)])
  | .stepLoad c h r n => some (c, 0x0700, [(16, 2, h.toNat), (20, 6, brefNat r), (28, 4, n.toNat)])
  | .stepUnload c h => some (c, 0x0700, [(16, 2, h.toNat), (18, 1, 1)])
  | .stepRun c p => some (c, 0x0701, [(16, 2, p.handle.toNat), (18, 1, p.slot.toNat), (20, 6, brefNat p.args),
      (26, 2, p.argCount.toNat)])
  | .selftestPatrol c m => some (c, 0x0F00, [(16, 1, 1), (20, 32, m.toNat)])
  | .selftestLoopback c m => some (c, 0x0F00, [(16, 1, 2), (20, 32, m.toNat)])
  | .dumpCoreRegs c n r b => some (c, 0x0F01, [(16, 1, 1), (17, 1, n.toNat), (20, 6, brefNat r), (28, 4, b.toNat)])
  | .dumpSpill c r b => some (c, 0x0F01, [(16, 1, 2), (20, 6, brefNat r), (28, 4, b.toNat)])
  | .dumpLedger c r b => some (c, 0x0F01, [(16, 1, 3), (20, 6, brefNat r), (28, 4, b.toNat)])
  | _ => none

def encodePacket (i : Instr) : Option (CmdRef × Nat × Nat) :=
  (encodeParams i).map fun (c, op, fs) => (c, op, packFields fs)

/-- The opcode table gives no row bits, so no table word spells a command. -/
def decodeTableWord (_nbits _w : Nat) : Option Instr := none

end Sys2Proof
end

