-- ==== Sys2Proof/Machine/Aes.lean ====
section
/-! DEFINITION. AES-256 in XTS mode over one 64-byte sector (R355; the cipher is FIPS 197 and the mode IEEE 1619,
PRESUMED from those standards, log 4). A key pair is 512 bits, Key1 in the low 256. -/

namespace Sys2Proof

def sbox0 : List Nat := [0x63, 0x7c, 0x77, 0x7b, 0xf2, 0x6b, 0x6f, 0xc5, 0x30, 0x1, 0x67, 0x2b, 0xfe, 0xd7, 0xab, 0x76,
  0xca, 0x82, 0xc9, 0x7d, 0xfa, 0x59, 0x47, 0xf0, 0xad, 0xd4, 0xa2, 0xaf, 0x9c, 0xa4, 0x72, 0xc0]
def sbox1 : List Nat := [0xb7, 0xfd, 0x93, 0x26, 0x36, 0x3f, 0xf7, 0xcc, 0x34, 0xa5, 0xe5, 0xf1, 0x71, 0xd8, 0x31, 0x15,
  0x4, 0xc7, 0x23, 0xc3, 0x18, 0x96, 0x5, 0x9a, 0x7, 0x12, 0x80, 0xe2, 0xeb, 0x27, 0xb2, 0x75]
def sbox2 : List Nat := [0x9, 0x83, 0x2c, 0x1a, 0x1b, 0x6e, 0x5a, 0xa0, 0x52, 0x3b, 0xd6, 0xb3, 0x29, 0xe3, 0x2f, 0x84,
  0x53, 0xd1, 0x0, 0xed, 0x20, 0xfc, 0xb1, 0x5b, 0x6a, 0xcb, 0xbe, 0x39, 0x4a, 0x4c, 0x58, 0xcf]
def sbox3 : List Nat := [0xd0, 0xef, 0xaa, 0xfb, 0x43, 0x4d, 0x33, 0x85, 0x45, 0xf9, 0x2, 0x7f, 0x50, 0x3c, 0x9f, 0xa8,
  0x51, 0xa3, 0x40, 0x8f, 0x92, 0x9d, 0x38, 0xf5, 0xbc, 0xb6, 0xda, 0x21, 0x10, 0xff, 0xf3, 0xd2]
def sbox4 : List Nat := [0xcd, 0xc, 0x13, 0xec, 0x5f, 0x97, 0x44, 0x17, 0xc4, 0xa7, 0x7e, 0x3d, 0x64, 0x5d, 0x19, 0x73,
  0x60, 0x81, 0x4f, 0xdc, 0x22, 0x2a, 0x90, 0x88, 0x46, 0xee, 0xb8, 0x14, 0xde, 0x5e, 0xb, 0xdb]
def sbox5 : List Nat := [0xe0, 0x32, 0x3a, 0xa, 0x49, 0x6, 0x24, 0x5c, 0xc2, 0xd3, 0xac, 0x62, 0x91, 0x95, 0xe4, 0x79,
  0xe7, 0xc8, 0x37, 0x6d, 0x8d, 0xd5, 0x4e, 0xa9, 0x6c, 0x56, 0xf4, 0xea, 0x65, 0x7a, 0xae, 0x8]
def sbox6 : List Nat := [0xba, 0x78, 0x25, 0x2e, 0x1c, 0xa6, 0xb4, 0xc6, 0xe8, 0xdd, 0x74, 0x1f, 0x4b, 0xbd, 0x8b, 0x8a,
  0x70, 0x3e, 0xb5, 0x66, 0x48, 0x3, 0xf6, 0xe, 0x61, 0x35, 0x57, 0xb9, 0x86, 0xc1, 0x1d, 0x9e]
def sbox7 : List Nat := [0xe1, 0xf8, 0x98, 0x11, 0x69, 0xd9, 0x8e, 0x94, 0x9b, 0x1e, 0x87, 0xe9, 0xce, 0x55, 0x28, 0xdf,
  0x8c, 0xa1, 0x89, 0xd, 0xbf, 0xe6, 0x42, 0x68, 0x41, 0x99, 0x2d, 0xf, 0xb0, 0x54, 0xbb, 0x16]

/-- The substitution box of FIPS 197. -/
def sbox : List Nat := sbox0 ++ sbox1 ++ sbox2 ++ sbox3 ++ sbox4 ++ sbox5 ++ sbox6 ++ sbox7

def subByte (b : Nat) : Nat := sbox.getD b 0
def invSubByte (b : Nat) : Nat := sbox.idxOf b

/-- Multiply by x in the AES field. -/
def xtime (b : Nat) : Nat := if b < 128 then 2 * b else (2 * b - 256) ^^^ 0x1B

/-- Multiply two field elements, over the bits of the second. -/
def gmul (a : Nat) : Nat → Nat → Nat
  | 0, _ => 0
  | n + 1, b => (if b % 2 = 1 then a else 0) ^^^ gmul (xtime a) n (b / 2)

def xorList (x y : List Nat) : List Nat := List.zipWith (· ^^^ ·) x y

/-- Words 0 to `8 + n - 1` of the key schedule, each of 4 bytes, newest first. -/
def keyWords (key : List Nat) : Nat → List (List Nat)
  | 0 => (List.range 8).reverse.map fun i => (key.drop (4 * i)).take 4
  | n + 1 =>
    let ws := keyWords key n
    let i := 8 + n
    let prev := ws.getD 0 []
    let t :=
      if i % 8 = 0 then xorList ((prev.drop 1 ++ prev.take 1).map subByte) [2 ^ (i / 8 - 1), 0, 0, 0]
      else if i % 8 = 4 then prev.map subByte
      else prev
    xorList (ws.getD 7 []) t :: ws

/-- The 15 round keys of 16 bytes. -/
def roundKeys (key : List Nat) : List (List Nat) :=
  let ws := (keyWords key 52).reverse
  (List.range 15).map fun r => ((ws.drop (4 * r)).take 4).flatten

def shiftRows (b : List Nat) : List Nat := (List.range 16).map fun i => b.getD ((i + 4 * (i % 4)) % 16) 0
def invShiftRows (b : List Nat) : List Nat := (List.range 16).map fun i => b.getD ((i + 16 - 4 * (i % 4)) % 16) 0

/-- One column times a circulant matrix whose first row is `m`. -/
def mixColumn (m : List Nat) (c : List Nat) : List Nat :=
  (List.range 4).map fun r =>
    (List.range 4).foldl (fun acc k => acc ^^^ gmul (c.getD k 0) 8 (m.getD ((k + 4 - r) % 4) 0)) 0

def mixColumns (m : List Nat) (b : List Nat) : List Nat :=
  (List.range 4).flatMap fun i => mixColumn m ((b.drop (4 * i)).take 4)

def aesRounds : List (List Nat) → List Nat → List Nat
  | [], b => b
  | [k], b => xorList (shiftRows (b.map subByte)) k
  | k :: r, b => aesRounds r (xorList (mixColumns [2, 3, 1, 1] (shiftRows (b.map subByte))) k)

/-- AES-256 encryption of a 16-byte block. -/
def aesEncrypt (key b : List Nat) : List Nat :=
  let ks := roundKeys key
  aesRounds (ks.drop 1) (xorList b (ks.getD 0 []))

def aesInvRounds : List (List Nat) → List Nat → List Nat
  | [], b => b
  | [k], b => xorList (invShiftRows b |>.map invSubByte) k
  | k :: r, b => aesInvRounds r (mixColumns [14, 11, 13, 9] (xorList ((invShiftRows b).map invSubByte) k))

/-- AES-256 decryption of a 16-byte block. -/
def aesDecrypt (key b : List Nat) : List Nat :=
  let ks := (roundKeys key).reverse
  aesInvRounds (ks.drop 1) (xorList b (ks.getD 0 []))

/-- The tweak multiplied by x in GF(2^128), as a little-endian number. -/
def tweakNext (t : Nat) : Nat := if t < 2 ^ 127 then 2 * t else (2 * t - 2 ^ 128) ^^^ 0x87

def natBytes (n v : Nat) : List Nat := (leBytes n v).map (·.toNat)
def bytesNat (b : List Nat) : Nat := leNat (b.map (BitVec.ofNat 8))

def xtsBlocks (enc : Bool) (k1 : List Nat) : Nat → Nat → List Nat → List Nat
  | 0, _, _ => []
  | n + 1, t, b =>
    let tb := natBytes 16 t
    let x := xorList (b.take 16) tb
    xorList (if enc then aesEncrypt k1 x else aesDecrypt k1 x) tb ++ xtsBlocks enc k1 n (tweakNext t) (b.drop 16)

/-- Encrypt or decrypt one 64-byte sector under a key pair and a tweak (R355). -/
def xtsSector (enc : Bool) (pair tweak : Nat) (b : List Byte) : List Byte :=
  let k1 := natBytes 32 pair
  let k2 := natBytes 32 (pair / 2 ^ 256)
  let t := bytesNat (aesEncrypt k2 (natBytes 16 tweak))
  (xtsBlocks enc k1 4 t (b.map (·.toNat))).map (BitVec.ofNat 8)

end Sys2Proof
end

