-- ==== Sys2Proof/Machine/Flags.lean ====
section
/-! DEFINITION. Status codes and detail words (R305, Tables 09-5, 09-23, 09-24), the flags of a tile header (Table
02-6), and how a command's flags are folded (R87, R102). -/

namespace Sys2Proof

/-- Status codes (Table 09-23). -/
def Status.code : Status → Nat
  | .ok => 0x0000 | .okTrunc => 0x0001
  | .anchorOverflow => 0x0101 | .tornTile => 0x0102 | .tileCorrupt => 0x0103 | .formatMismatch => 0x0104
  | .segFault => 0x0201 | .segWalkTimeout => 0x0202
  | .allotCap => 0x0301
  | .tallyOverflow => 0x0401 | .tallyUnderflow => 0x0402 | .scopeShort => 0x0403
  | .epochStale => 0x0501 | .epochPostponed => 0x0502
  | .fenced => 0x0601 | .aborted => 0x0602 | .hostLost => 0x0603 | .peerLost => 0x0604
  | .packetNotVisible => 0x0701 | .badOpcode => 0x0702 | .badParam => 0x0703
  | .tierFail => 0x0801
  | .microprogNonmono => 0x0901 | .signature => 0x0902

/-- A status code is a failure unless it is ST_OK or ST_OK_TRUNC (R256, R258, R275). -/
def failing (code : Nat) : Bool := decide (1 < code)

/-- A failure: status code and detail word. -/
abbrev Fail := Nat × Nat

/-- ST_BAD_PARAM with a reason and the byte offset of the field (R271). -/
def fParam (reason off : Nat) : Fail := (Status.badParam.code, reason + off % 256 * 256)

/-- ST_SEG_FAULT (Table 09-24). -/
def fSeg (slot seg reason : Nat) : Fail := (Status.segFault.code, slot * 4096 + seg % 16 * 256 + reason)

/-- ST_SEG_WALK_TIMEOUT. -/
def fWalk (slot seg die : Nat) : Fail := (Status.segWalkTimeout.code, slot * 4096 + seg % 16 * 256 + die % 4)

/-- ST_ALLOT_CAP: class 1 engine time, 2 stack, 3 fabric, 4 host (R273). -/
def fAllot (cls : Nat) : Fail := (Status.allotCap.code, cls * 4096)

/-- ST_FENCED: domain and index. -/
def fFenced (dom idx : Nat) : Fail := (Status.fenced.code, dom * 4096 + idx % 4096)

/-- ST_ABORTED with its cause. -/
def fAbort (cause : Nat) : Fail := (Status.aborted.code, cause)

/-- ST_HOST_LOST: 1 port A, 2 port B, 3 host complex. -/
def fHost (which : Nat) : Fail := (Status.hostLost.code, which * 4096)

/-- ST_PEER_LOST with the module ID. -/
def fPeer (m : Nat) : Fail := (Status.peerLost.code, m)

/-- ST_TALLY_OVERFLOW and ST_TALLY_UNDERFLOW (Table 09-23). -/
def fTally (up : Bool) (die index : Nat) (pair : Bool) : Fail :=
  ((if up then Status.tallyOverflow else Status.tallyUnderflow).code, die * 8192 + bnat pair * 4096 + index % 4096)

/-- A tile failure in an operand slot (Table 02-8). -/
def fTile (slot : Nat) (t : TileFail) : Fail := (t.status.code, t.detail slot)

/-- ST_FORMAT_MISMATCH with a reason of Table 02-9. -/
def fMismatch (slot : Nat) (r : FmtReason) : Fail := (Status.formatMismatch.code, slot * 4096 + r.code)

/-- Reasons of ST_SEG_FAULT (Table 09-24). -/
def rUnpopulated : Nat := 0x01
def rLimit : Nat := 0x02
def rNoRead : Nat := 0x03
def rNoWrite : Nat := 0x04
def rNoExec : Nat := 0x05
def rNoSignal : Nat := 0x06
def rNoSegment : Nat := 0x07
def rTileIndex : Nat := 0x08
def rClass : Nat := 0x09
def rVolume : Nat := 0x0A
def rTally : Nat := 0x0B

/-- Domain codes of ST_FENCED (Table 09-23). -/
def domCore : Nat := 1
def domDie : Nat := 2
def domPart : Nat := 3
def domStack : Nat := 4
def domHost : Nat := 5
def domPort : Nat := 6
def domGuest : Nat := 7
def domBay : Nat := 8
def domDdr : Nat := 9

/-- Header FLAGS of a written tile (Table 02-6). -/
def hdrFlags (layout sat trunc sr : Bool) : Nat := bnat layout + 4 * bnat sat + 8 * bnat trunc + 16 * bnat sr

/-- PROD_UNIT (Table 02-7). -/
def prodUnit (kind core index : Nat) : Nat := kind * 4096 + core % 256 * 16 + index % 16

end Sys2Proof
end

