-- ==== Sys2Proof/Machine/Maps.lean ====
section
/-! DEFINITION. Sparse maps from numbers to data: a list of (key, value) pairs in one canonical form, keys strictly
rising and no entry equal to what an unlisted key reads as. Memory, registers and every large array of the machine
are held so. -/

namespace Sys2Proof

/-- A sparse map. What an unlisted key holds is given at each read and write. -/
abbrev Assoc (α : Type) := List (Nat × α)

/-- The value at key `k`; `d` where nothing is listed. -/
def Assoc.get {α : Type} (d : Nat → α) (m : Assoc α) (k : Nat) : α :=
  match m with
  | [] => d k
  | (j, v) :: r => if k = j then v else if k < j then d k else Assoc.get d r k

/-- Write `v` at key `k`, keeping the canonical form. -/
def Assoc.put {α : Type} [DecidableEq α] (d : Nat → α) (m : Assoc α) (k : Nat) (v : α) : Assoc α :=
  match m with
  | [] => if v = d k then [] else [(k, v)]
  | (j, w) :: r =>
    if k = j then (if v = d k then r else (k, v) :: r)
    else if k < j then (if v = d k then (j, w) :: r else (k, v) :: (j, w) :: r)
    else (j, w) :: Assoc.put d r k v

/-- Is the map in canonical form, all keys at least `lo`? -/
def Assoc.wfFrom {α : Type} [DecidableEq α] (d : Nat → α) (lo : Nat) (m : Assoc α) : Bool :=
  match m with
  | [] => true
  | (j, v) :: r => decide (lo ≤ j) && decide (v ≠ d j) && Assoc.wfFrom d (j + 1) r

def Assoc.wf {α : Type} [DecidableEq α] (d : Nat → α) (m : Assoc α) : Bool := Assoc.wfFrom d 0 m

/-- Add a number to a sorted set of numbers. -/
def setInsert (s : List Nat) (x : Nat) : List Nat :=
  match s with
  | [] => [x]
  | y :: r => if x = y then y :: r else if x < y then x :: y :: r else y :: setInsert r x

/-- Remove a number from a set of numbers. -/
def setErase (s : List Nat) (x : Nat) : List Nat := s.filter (· != x)

end Sys2Proof
end

