-- ==== Sys2Proof/Machine/Registers.lean ====
section
/-! DEFINITION. The registers of the control window (R631, R637, Tables 24-4 to 24-19): the offset of each, the bit
places of its fields as the owning chapter's field map gives them, and one row per register saying how a write acts
on it (R5, R7, R8, R10): the RW, W1C and W1S bits, which of the RW bits are class B or S, the reset value, the reset
domain, the place of its LIVE shadow, and which agents' writes it accepts. A register is known by its offset. -/

namespace Sys2Proof

/-- A field's bits [hi:lo]. -/
structure Fld where
  hi : Nat
  lo : Nat
  deriving DecidableEq, Repr

/-- Reset domains (R635, Table 24-3). -/
inductive Domain where
  | engine | chip | module | host | ddr | port | guest | warden
  deriving DecidableEq, Repr

/-- Whose writes a register accepts. `any`: agents with write access to the control window. `row`: its writes are
commands of their own. -/
inductive Writers where
  | any | reeveWarden | wardenMachine | hostOnly | row | none
  deriving DecidableEq, Repr

/-- One register, or one array of registers: `dims` gives stride and count of each index. `live` is the distance
from the register to its shadow of the value in use. -/
structure RegRow where
  name : String
  base : Nat
  dims : List (Nat × Nat)
  width : Nat
  rw : Nat
  w1c : Nat
  w1s : Nat
  classB : Nat
  classS : Nat
  reset : Nat
  dom : Domain
  live : Option Nat
  writers : Writers
  deriving DecidableEq, Repr

def ID_DEVICE : Nat := 0x0
def ID_DEVICE_VARIANT : Fld := ⟨43, 40⟩
def ID_DEVICE_STEPPING : Fld := ⟨39, 32⟩
def ID_DEVICE_DEVICE : Fld := ⟨31, 16⟩
def ID_DEVICE_VENDOR : Fld := ⟨15, 0⟩
def ID_SERIAL : Nat := 0x8
def ID_SERIAL_SERIAL : Fld := ⟨63, 0⟩
def ID_FW : Nat := 0x10
def ID_FW_FIZAN_MAJOR : Fld := ⟨63, 56⟩
def ID_FW_FIZAN_MINOR : Fld := ⟨55, 48⟩
def ID_FW_WARDEN_MAJOR : Fld := ⟨31, 24⟩
def ID_FW_WARDEN_MINOR : Fld := ⟨23, 16⟩
def ID_FW_REEVE_MAJOR : Fld := ⟨15, 8⟩
def ID_FW_REEVE_MINOR : Fld := ⟨7, 0⟩
def ID_MFG : Nat := 0x18
def ID_MFG_YEAR : Fld := ⟨31, 16⟩
def ID_MFG_WEEK : Fld := ⟨15, 8⟩
def ID_MFG_SITE : Fld := ⟨7, 0⟩
def ID_LAYOUT : Nat := 0x20
def ID_LAYOUT_MAP_VERSION : Fld := ⟨23, 16⟩
def ID_LAYOUT_CHAIN_OFF : Fld := ⟨15, 0⟩
def GLB_STATUS : Nat := 0x8000
def GLB_STATUS_CHAIN_GEN : Fld := ⟨63, 32⟩
def GLB_STATUS_TRIPPED : Fld := ⟨17, 17⟩
def GLB_STATUS_REPLACE : Fld := ⟨16, 16⟩
def GLB_STATUS_WARDEN : Fld := ⟨13, 12⟩
def GLB_STATUS_RSTATE : Fld := ⟨10, 8⟩
def GLB_STATUS_HC_STATE : Fld := ⟨6, 4⟩
def GLB_STATUS_SVC_STATE : Fld := ⟨2, 0⟩
def GLB_SCRATCH (i : Nat) : Nat := 0x8008 + 0x8 * i
def GLB_SCRATCH_VALUE : Fld := ⟨63, 0⟩
def GLB_CFG_REJECT : Nat := 0x8040
def GLB_CFG_REJECT_VALID : Fld := ⟨63, 63⟩
def GLB_CFG_REJECT_OVERRUN : Fld := ⟨62, 62⟩
def GLB_CFG_REJECT_UNIT : Fld := ⟨55, 48⟩
def GLB_CFG_REJECT_AGENT : Fld := ⟨47, 44⟩
def GLB_CFG_REJECT_BELL : Fld := ⟨43, 32⟩
def GLB_CFG_REJECT_REASON : Fld := ⟨31, 28⟩
def GLB_CFG_REJECT_OFFSET : Fld := ⟨25, 3⟩
def GLB_CFG_REJECT_DATA : Nat := 0x8048
def GLB_CFG_REJECT_DATA_DATA : Fld := ⟨63, 0⟩
def GLB_CFG_REJECT_COUNT : Nat := 0x8050
def GLB_CFG_REJECT_COUNT_COUNT : Fld := ⟨31, 0⟩
def EXT_PORT_STATUS (i : Nat) : Nat := 0x10000 + 0x100 * i
def EXT_PORT_STATUS_HOLD_LEFT : Fld := ⟨39, 32⟩
def EXT_PORT_STATUS_CXL_MEM : Fld := ⟨21, 21⟩
def EXT_PORT_STATUS_CXL_CACHE : Fld := ⟨20, 20⟩
def EXT_PORT_STATUS_RESUME_NEEDED : Fld := ⟨19, 19⟩
def EXT_PORT_STATUS_BME : Fld := ⟨18, 18⟩
def EXT_PORT_STATUS_WIDTH : Fld := ⟨16, 12⟩
def EXT_PORT_STATUS_GEN : Fld := ⟨11, 8⟩
def EXT_PORT_STATUS_STATE : Fld := ⟨2, 0⟩
def EXT_PORT_CTL (i : Nat) : Nat := 0x10008 + 0x100 * i
def EXT_PORT_CTL_HOLD_MS : Fld := ⟨23, 16⟩
def EXT_PORT_CTL_RESUME : Fld := ⟨8, 8⟩
def EXT_PORT_CTL_MAX_GEN : Fld := ⟨6, 4⟩
def EXT_PORT_CTL_MODE : Fld := ⟨2, 0⟩
def EXT_BAR4 (i : Nat) : Nat := 0x10010 + 0x100 * i
def EXT_BAR4_BASE : Fld := ⟨47, 30⟩
def EXT_BAR4_LOG2 : Fld := ⟨5, 0⟩
def EXT_RC_APER (i : Nat) : Nat := 0x10018 + 0x100 * i
def EXT_RC_APER_BUS : Fld := ⟨63, 22⟩
def EXT_HOLD (i : Nat) : Nat := 0x10020 + 0x100 * i
def EXT_HOLD_DROPPED : Fld := ⟨63, 32⟩
def EXT_HOLD_HOLDS : Fld := ⟨31, 16⟩
def EXT_IRQ_DROP (i : Nat) : Nat := 0x10028 + 0x100 * i
def EXT_IRQ_DROP_DROPS : Fld := ⟨31, 0⟩
def FLT_CTL : Nat := 0x20000
def FLT_CTL_PATROL_MS : Fld := ⟨31, 24⟩
def FLT_CTL_WDOG_US : Fld := ⟨23, 16⟩
def FLT_CTL_CAPTURE_LARDER : Fld := ⟨13, 13⟩
def FLT_CTL_CAPTURE : Fld := ⟨12, 12⟩
def FLT_CTL_DRAIN_US : Fld := ⟨11, 0⟩
def FLT_CTL_LIVE : Nat := 0x20008
def FLT_STATUS : Nat := 0x20010
def FLT_STATUS_REPLACE : Fld := ⟨31, 31⟩
def FLT_STATUS_LINK : Fld := ⟨6, 6⟩
def FLT_STATUS_WARDEN : Fld := ⟨5, 5⟩
def FLT_STATUS_PHASES : Fld := ⟨4, 4⟩
def FLT_STATUS_SPARES : Fld := ⟨3, 3⟩
def FLT_STATUS_DDR : Fld := ⟨2, 2⟩
def FLT_STATUS_DIE : Fld := ⟨1, 1⟩
def FLT_STATUS_STACK : Fld := ⟨0, 0⟩
def FLT_RESET_REQ : Nat := 0x20018
def FLT_RESET_REQ_RUNG : Fld := ⟨63, 60⟩
def FLT_RESET_REQ_TARGET : Fld := ⟨23, 0⟩
def FLT_RESET_STATUS : Nat := 0x20020
def FLT_RESET_STATUS_LAST_BELL : Fld := ⟨63, 24⟩
def FLT_RESET_STATUS_RUNG : Fld := ⟨23, 20⟩
def FLT_RESET_STATUS_ESCALATED : Fld := ⟨19, 19⟩
def FLT_RESET_STATUS_LOST : Fld := ⟨18, 18⟩
def FLT_RESET_STATUS_BUSY : Fld := ⟨17, 17⟩
def FLT_RESET_STATUS_TARGET : Fld := ⟨16, 0⟩
def RUNG_CFG (i : Nat) : Nat := 0x20040 + 0x8 * i
def RUNG_CFG_WINDOW_S : Fld := ⟨31, 16⟩
def RUNG_CFG_COUNT : Fld := ⟨7, 0⟩
def RUNG_COUNT (i : Nat) : Nat := 0x20060 + 0x8 * i
def RUNG_COUNT_COUNT : Fld := ⟨31, 0⟩
def OWL_CTL : Nat := 0x20100
def OWL_CTL_HOST_EN : Fld := ⟨16, 16⟩
def OWL_CTL_PERIOD_US : Fld := ⟨15, 0⟩
def OWL_BEAT (i : Nat) : Nat := 0x20108 + 0x8 * i
def OWL_BEAT_BEAT : Fld := ⟨31, 0⟩
def OWL_BEAT_HOST : Nat := 0x20128
def OWL_BEAT_HOST_BEAT : Fld := ⟨31, 0⟩
def OWL_STATUS : Nat := 0x20130
def OWL_STATUS_WARDEN : Fld := ⟨5, 5⟩
def OWL_STATUS_HOST : Fld := ⟨4, 4⟩
def OWL_STATUS_REEVE : Fld := ⟨3, 0⟩
def WARDEN_STATUS : Nat := 0x20138
def WARDEN_STATUS_STANDBY_OK : Fld := ⟨2, 2⟩
def WARDEN_STATUS_ACTIVE : Fld := ⟨1, 0⟩
def DIE_PHYS (n e : Nat) : Nat := 0x20200 + 0x20 * n + 0x8 * e
def DIE_PHYS_CORE : Fld := ⟨63, 0⟩
def DIE_SPARE (i : Nat) : Nat := 0x20218 + 0x20 * i
def DIE_SPARE_ENABLED : Fld := ⟨39, 32⟩
def DIE_SPARE_RETIRED : Fld := ⟨23, 16⟩
def DIE_SPARE_SPARES : Fld := ⟨7, 0⟩
def PHASE_STATUS (i : Nat) : Nat := 0x20300 + 0x8 * i
def PHASE_STATUS_CORES_LIMIT : Fld := ⟨47, 40⟩
def PHASE_STATUS_FAILED_MAP : Fld := ⟨31, 8⟩
def PHASE_STATUS_BUILT : Fld := ⟨7, 0⟩
def LEDGER_STATUS : Nat := 0x20400
def LEDGER_STATUS_NEXT_SEQ : Fld := ⟨63, 32⟩
def LEDGER_STATUS_LOST : Fld := ⟨31, 16⟩
def LEDGER_STATUS_MIRROR_STALLED : Fld := ⟨15, 15⟩
def LEDGER_STATUS_HELD : Fld := ⟨12, 0⟩
def LEDGER_SEL : Nat := 0x20408
def LEDGER_SEL_SEQ : Fld := ⟨31, 0⟩
def LEDGER_DATA (i : Nat) : Nat := 0x20440 + 0x8 * i
def CAPTURE_STATUS : Nat := 0x20480
def CAPTURE_STATUS_LAST_BELL : Fld := ⟨63, 24⟩
def CAPTURE_STATUS_SLOTS_USED : Fld := ⟨23, 16⟩
def CAPTURE_STATUS_LAST_SLOT : Fld := ⟨15, 10⟩
def CAPTURE_STATUS_TRUNCATED : Fld := ⟨9, 9⟩
def CAPTURE_STATUS_ABANDONED : Fld := ⟨8, 8⟩
def CAPTURE_STATUS_TRIGGER : Fld := ⟨7, 4⟩
def CAPTURE_STATUS_RUNNING : Fld := ⟨0, 0⟩
def BOOT_STATUS : Nat := 0x30000
def BOOT_STATUS_START_MS : Fld := ⟨63, 48⟩
def BOOT_STATUS_WARM : Fld := ⟨40, 40⟩
def BOOT_STATUS_FAILS : Fld := ⟨30, 16⟩
def BOOT_STATUS_STAGE : Fld := ⟨3, 0⟩
def BOOT_CFG : Nat := 0x30008
def BOOT_CFG_VOLUME : Fld := ⟨15, 8⟩
def BOOT_CFG_SOURCE : Fld := ⟨1, 0⟩
def TRUST_STATUS : Nat := 0x30010
def TRUST_STATUS_MEAS_GEN : Fld := ⟨63, 32⟩
def TRUST_STATUS_SESSIONS : Fld := ⟨10, 8⟩
def TRUST_STATUS_DEBUG_LOCKED : Fld := ⟨0, 0⟩
def TRUST_SVN : Nat := 0x30018
def TRUST_SVN_MIN : Fld := ⟨31, 0⟩
def FW_VERSION (i : Nat) : Nat := 0x30028 + 0x8 * i
def FW_VERSION_SVN : Fld := ⟨39, 32⟩
def FW_VERSION_MAJOR : Fld := ⟨31, 24⟩
def FW_VERSION_MINOR : Fld := ⟨23, 16⟩
def FW_VERSION_PATCH : Fld := ⟨15, 4⟩
def FW_VERSION_PENDING : Fld := ⟨3, 3⟩
def FW_VERSION_INACTIVE_VALID : Fld := ⟨2, 2⟩
def FW_VERSION_BANK : Fld := ⟨0, 0⟩
def FW_UPDATE : Nat := 0x30048
def FW_UPDATE_BYTES : Fld := ⟨63, 32⟩
def FW_UPDATE_COMPONENT : Fld := ⟨19, 16⟩
def FW_UPDATE_STATE : Fld := ⟨2, 0⟩
def SVC_STATUS : Nat := 0x40000
def SVC_STATUS_DRAIN_LEFT_S : Fld := ⟨63, 48⟩
def SVC_STATUS_CAGE_LEDS : Fld := ⟨47, 32⟩
def SVC_STATUS_BAR : Fld := ⟨23, 20⟩
def SVC_STATUS_PORT_CONNECTED : Fld := ⟨16, 16⟩
def SVC_STATUS_LATCH_OPEN : Fld := ⟨15, 15⟩
def SVC_STATUS_LEVER_TOUCH : Fld := ⟨14, 14⟩
def SVC_STATUS_LAST_CAUSE : Fld := ⟨7, 4⟩
def SVC_STATUS_RSTATE : Fld := ⟨2, 0⟩
def SVC_CTL : Nat := 0x40008
def SVC_CTL_DRAIN_S : Fld := ⟨31, 16⟩
def SVC_CTL_FORCE : Fld := ⟨7, 7⟩
def SVC_CTL_PORT_ATTN : Fld := ⟨6, 6⟩
def SVC_CTL_LOCATE : Fld := ⟨5, 5⟩
def SVC_CTL_CANCEL : Fld := ⟨2, 2⟩
def SVC_CTL_RELEASE : Fld := ⟨1, 1⟩
def SVC_CTL_ATTN : Fld := ⟨0, 0⟩
def SVC_IRQ : Nat := 0x40010
def SVC_IRQ_KIND : Fld := ⟨17, 16⟩
def SVC_IRQ_VECTOR : Fld := ⟨15, 0⟩
def SVC_BAY (i : Nat) : Nat := 0x40020 + 0x8 * i
def SVC_BAY_LED : Fld := ⟨7, 4⟩
def SVC_BAY_PRESSED : Fld := ⟨1, 1⟩
def SVC_BAY_SAFE : Fld := ⟨0, 0⟩
def MGMT_STATUS : Nat := 0x50000
def MGMT_STATUS_EID_VDM_B : Fld := ⟨63, 56⟩
def MGMT_STATUS_EID_VDM_A : Fld := ⟨55, 48⟩
def MGMT_STATUS_EID_I3C : Fld := ⟨47, 40⟩
def MGMT_STATUS_I3C_DA : Fld := ⟨39, 33⟩
def MGMT_STATUS_I3C_DA_VALID : Fld := ⟨32, 32⟩
def MGMT_STATUS_ANCHORS : Fld := ⟨7, 4⟩
def MGMT_STATUS_VDM_B_UP : Fld := ⟨2, 2⟩
def MGMT_STATUS_VDM_A_UP : Fld := ⟨1, 1⟩
def MGMT_STATUS_I3C_UP : Fld := ⟨0, 0⟩
def MGMT_CTL : Nat := 0x50008
def MGMT_CTL_EVT_LEDGER : Fld := ⟨8, 8⟩
def MGMT_CTL_VDM_B_EN : Fld := ⟨1, 1⟩
def MGMT_CTL_VDM_A_EN : Fld := ⟨0, 0⟩
def MGMT_KEYS : Nat := 0x50010
def MGMT_KEYS_DATA_KEYS : Fld := ⟨46, 32⟩
def MGMT_KEYS_SET_REVOKED : Fld := ⟨30, 16⟩
def MGMT_KEYS_SET_ENROLLED : Fld := ⟨14, 0⟩
def CORE_STATUS (i : Nat) : Nat := 0x1000000 + 0x10000 * i
def CORE_STATUS_RESIDENT : Fld := ⟨31, 24⟩
def CORE_STATUS_READY : Fld := ⟨23, 16⟩
def CORE_STATUS_ENG_BUSY : Fld := ⟨11, 8⟩
def CORE_STATUS_STATE : Fld := ⟨3, 0⟩
def CORE_CTL (i : Nat) : Nat := 0x1000008 + 0x10000 * i
def CORE_CTL_WAKE : Fld := ⟨8, 8⟩
def CORE_CTL_OFF_REQ : Fld := ⟨4, 4⟩
def CORE_CTL_HOLD : Fld := ⟨0, 0⟩
def CORE_ID (i : Nat) : Nat := 0x1000010 + 0x10000 * i
def CORE_ID_DIE : Fld := ⟨17, 16⟩
def CORE_ID_LOGICAL : Fld := ⟨15, 8⟩
def CORE_ID_FROM_SPARE : Fld := ⟨7, 7⟩
def CORE_ID_PHYS : Fld := ⟨6, 0⟩
def DISP_CTL (i : Nat) : Nat := 0x1000020 + 0x10000 * i
def DISP_CTL_SWITCH : Fld := ⟨9, 0⟩
def DISP_CTL_LIVE (i : Nat) : Nat := 0x1000028 + 0x10000 * i
def DISP_ISSUED (i : Nat) : Nat := 0x1000030 + 0x10000 * i
def DISP_ISSUED_DISP_ISSUED : Fld := ⟨63, 0⟩
def DISP_SWITCHES (i : Nat) : Nat := 0x1000038 + 0x10000 * i
def DISP_SWITCHES_DISP_SWITCHES : Fld := ⟨63, 0⟩
def STALL_STACK (i : Nat) : Nat := 0x1000400 + 0x10000 * i
def STALL_STACK_STALL_STACK : Fld := ⟨63, 0⟩
def STALL_HOST (i : Nat) : Nat := 0x1000408 + 0x10000 * i
def STALL_HOST_STALL_HOST : Fld := ⟨63, 0⟩
def STALL_CELLAR (i : Nat) : Nat := 0x1000410 + 0x10000 * i
def STALL_CELLAR_STALL_CELLAR : Fld := ⟨63, 0⟩
def STALL_FABRIC (i : Nat) : Nat := 0x1000418 + 0x10000 * i
def STALL_FABRIC_STALL_FABRIC : Fld := ⟨63, 0⟩
def STALL_TALLY (i : Nat) : Nat := 0x1000420 + 0x10000 * i
def STALL_TALLY_STALL_TALLY : Fld := ⟨63, 0⟩
def STALL_GUEST (i : Nat) : Nat := 0x1000428 + 0x10000 * i
def STALL_GUEST_STALL_GUEST : Fld := ⟨63, 0⟩
def TIER_FAILS (i : Nat) : Nat := 0x1000430 + 0x10000 * i
def TIER_FAILS_TIER_FAILS : Fld := ⟨31, 0⟩
def PLACE_USE (i : Nat) : Nat := 0x1000438 + 0x10000 * i
def PLACE_USE_RING_SLOTS : Fld := ⟨26, 16⟩
def PLACE_USE_PIN_SLOTS : Fld := ⟨10, 0⟩
def TIER_TMO (i : Nat) : Nat := 0x1000440 + 0x10000 * i
def TIER_TMO_GUEST : Fld := ⟨47, 32⟩
def TIER_TMO_HOST : Fld := ⟨31, 16⟩
def TIER_TMO_STACK : Fld := ⟨15, 0⟩
def TIER_TMO2 (i : Nat) : Nat := 0x1000448 + 0x10000 * i
def TIER_TMO2_TALLY : Fld := ⟨47, 32⟩
def TIER_TMO2_FABRIC : Fld := ⟨31, 16⟩
def TIER_TMO2_CELLAR : Fld := ⟨15, 0⟩
def TIER_TMO_LIVE (i : Nat) : Nat := 0x1000450 + 0x10000 * i
def TIER_TMO2_LIVE (i : Nat) : Nat := 0x1000458 + 0x10000 * i
def STREAM_CTL (i : Nat) : Nat := 0x1000460 + 0x10000 * i
def STREAM_CTL_DEPTH : Fld := ⟨4, 0⟩
def STREAM_CTL_LIVE (i : Nat) : Nat := 0x1000468 + 0x10000 * i
def SEGC_HITS (i : Nat) : Nat := 0x1000800 + 0x10000 * i
def SEGC_HITS_SEGC_HITS : Fld := ⟨63, 0⟩
def SEGC_MISSES (i : Nat) : Nat := 0x1000808 + 0x10000 * i
def SEGC_MISSES_SEGC_MISSES : Fld := ⟨63, 0⟩
def SEGC_USE (i : Nat) : Nat := 0x1000810 + 0x10000 * i
def SEGC_USE_ENTRIES : Fld := ⟨6, 0⟩
def LARDER_ECC (i : Nat) : Nat := 0x1001000 + 0x10000 * i
def LARDER_ECC_CORR_COUNT : Fld := ⟨31, 16⟩
def LARDER_ECC_UNCORR_COUNT : Fld := ⟨15, 8⟩
def LARDER_ECC_POISON_READ : Fld := ⟨2, 2⟩
def LARDER_ECC_UNCORR : Fld := ⟨1, 1⟩
def LARDER_ECC_CORR : Fld := ⟨0, 0⟩
def LARDER_ERR_ADDR (i : Nat) : Nat := 0x1001008 + 0x10000 * i
def LARDER_ERR_ADDR_VALID : Fld := ⟨31, 31⟩
def LARDER_ERR_ADDR_UNCORR : Fld := ⟨30, 30⟩
def LARDER_ERR_ADDR_SECTOR : Fld := ⟨22, 6⟩
def LARDER_ERR_ADDR_WORD : Fld := ⟨5, 3⟩
def LARDER_SCRUB (i : Nat) : Nat := 0x1001010 + 0x10000 * i
def LARDER_SCRUB_WAKE_HOLD_US : Fld := ⟨31, 16⟩
def LARDER_SCRUB_SCRUB_MS : Fld := ⟨15, 0⟩
def LARDER_SCRUB_LIVE (i : Nat) : Nat := 0x1001018 + 0x10000 * i
def CACHE_CTL (i : Nat) : Nat := 0x1001800 + 0x10000 * i
def CACHE_CTL_FLUSH : Fld := ⟨1, 1⟩
def CACHE_CTL_ENABLE : Fld := ⟨0, 0⟩
def CACHE_HITS (i : Nat) : Nat := 0x1001808 + 0x10000 * i
def CACHE_HITS_CACHE_HITS : Fld := ⟨63, 0⟩
def CACHE_MISSES (i : Nat) : Nat := 0x1001810 + 0x10000 * i
def CACHE_MISSES_CACHE_MISSES : Fld := ⟨63, 0⟩
def CACHE_ECC (i : Nat) : Nat := 0x1001818 + 0x10000 * i
def CACHE_ECC_DATA_UNCORR : Fld := ⟨2, 2⟩
def CACHE_ECC_TAG_DIRTY : Fld := ⟨1, 1⟩
def CACHE_ECC_TAG_CLEAN : Fld := ⟨0, 0⟩
def ENG_STATUS (n e : Nat) : Nat := 0x1002000 + 0x10000 * n + 0x100 * e
def ENG_STATUS_CHAIN_STEPS : Fld := ⟨23, 16⟩
def ENG_STATUS_VECTOR_ACTIVE : Fld := ⟨14, 14⟩
def ENG_STATUS_DRAIN_ACTIVE : Fld := ⟨13, 13⟩
def ENG_STATUS_ARRAY_ACTIVE : Fld := ⟨12, 12⟩
def ENG_STATUS_SPILLED : Fld := ⟨11, 11⟩
def ENG_STATUS_SHADOW_FULL : Fld := ⟨10, 10⟩
def ENG_STATUS_H1_LIVE : Fld := ⟨9, 9⟩
def ENG_STATUS_H0_LIVE : Fld := ⟨8, 8⟩
def ENG_STATUS_STATE : Fld := ⟨3, 0⟩
def ENG_CTL (n e : Nat) : Nat := 0x1002008 + 0x10000 * n + 0x100 * e
def ENG_CTL_PATROL_NOW : Fld := ⟨8, 8⟩
def ENG_CTL_SPILL_NOW : Fld := ⟨4, 4⟩
def ENG_CTL_HALT : Fld := ⟨0, 0⟩
def ENG_FLAGS (n e : Nat) : Nat := 0x1002010 + 0x10000 * n + 0x100 * e
def ENG_FLAGS_PATROL_FAIL : Fld := ⟨15, 15⟩
def ENG_FLAGS_CHK_FAIL : Fld := ⟨14, 14⟩
def ENG_FLAGS_V_INEXACT : Fld := ⟨12, 12⟩
def ENG_FLAGS_V_UNDERFLOW : Fld := ⟨11, 11⟩
def ENG_FLAGS_V_OVERFLOW : Fld := ⟨10, 10⟩
def ENG_FLAGS_V_DIVZERO : Fld := ⟨9, 9⟩
def ENG_FLAGS_V_INVALID : Fld := ⟨8, 8⟩
def ENG_FLAGS_NONFINITE : Fld := ⟨4, 4⟩
def ENG_FLAGS_SAT : Fld := ⟨3, 3⟩
def ENG_FLAGS_TRUNC : Fld := ⟨2, 2⟩
def ENG_FLAGS_OVF : Fld := ⟨1, 1⟩
def ENG_ANCHOR (n e : Nat) : Nat := 0x1002018 + 0x10000 * n + 0x100 * e
def ENG_ANCHOR_ANCHOR_H1 : Fld := ⟨31, 16⟩
def ENG_ANCHOR_ANCHOR_H0 : Fld := ⟨15, 0⟩
def ENG_PATROL (n e : Nat) : Nat := 0x1002020 + 0x10000 * n + 0x100 * e
def ENG_PATROL_PASSES : Fld := ⟨63, 32⟩
def ENG_PATROL_DEFERRED : Fld := ⟨31, 24⟩
def ENG_PATROL_LAST_SECTION : Fld := ⟨23, 16⟩
def ENG_PATROL_LAST_FAIL : Fld := ⟨0, 0⟩
def ENG_BUSY (n e : Nat) : Nat := 0x1002028 + 0x10000 * n + 0x100 * e
def ENG_ROW_COUNT (n e : Nat) : Nat := 0x1002030 + 0x10000 * n + 0x100 * e
def ENG_SPILLS (n e : Nat) : Nat := 0x1002038 + 0x10000 * n + 0x100 * e
def ENG_SPILLS_RESTORES : Fld := ⟨31, 16⟩
def ENG_SPILLS_SPILLS : Fld := ⟨15, 0⟩
def ENG_PATROL_WAIT (n e : Nat) : Nat := 0x1002040 + 0x10000 * n + 0x100 * e
def SFU_STATUS (i : Nat) : Nat := 0x1003000 + 0x10000 * i
def SFU_STATUS_SEGS_USED : Fld := ⟨28, 16⟩
def SFU_STATUS_SLOTS_USED : Fld := ⟨14, 8⟩
def SFU_STATUS_SETS : Fld := ⟨7, 3⟩
def SFU_STATUS_RELOADING : Fld := ⟨2, 2⟩
def SFU_STATUS_LOADING : Fld := ⟨1, 1⟩
def SFU_STATUS_BUSY : Fld := ⟨0, 0⟩
def SFU_FLAGS (i : Nat) : Nat := 0x1003008 + 0x10000 * i
def SFU_FLAGS_ECC : Fld := ⟨7, 7⟩
def SFU_FLAGS_SAT : Fld := ⟨5, 5⟩
def SFU_FLAGS_INVALID : Fld := ⟨4, 4⟩
def SFU_FLAGS_DIVZERO : Fld := ⟨3, 3⟩
def SFU_FLAGS_OVERFLOW : Fld := ⟨2, 2⟩
def SFU_FLAGS_UNDERFLOW : Fld := ⟨1, 1⟩
def SFU_FLAGS_INEXACT : Fld := ⟨0, 0⟩
def SFU_ELEMS (i : Nat) : Nat := 0x1003010 + 0x10000 * i
def SFU_ELEMS_SFU_ELEMS : Fld := ⟨63, 0⟩
def SFU_CYCLES (i : Nat) : Nat := 0x1003018 + 0x10000 * i
def SFU_CYCLES_SFU_CYCLES : Fld := ⟨63, 0⟩
def SFU_SET_DIR (n e : Nat) : Nat := 0x1003040 + 0x10000 * n + 0x8 * e
def SFU_SET_DIR_SET_ID : Fld := ⟨63, 32⟩
def SFU_SET_DIR_FIRST_SLOT : Fld := ⟨31, 24⟩
def SFU_SET_DIR_SLOT_COUNT : Fld := ⟨23, 16⟩
def SFU_SET_DIR_SIGNER : Fld := ⟨15, 8⟩
def SFU_SET_DIR_UNLOADING : Fld := ⟨1, 1⟩
def SFU_SET_DIR_VALID : Fld := ⟨0, 0⟩
def RSU_STATUS (i : Nat) : Nat := 0x1003100 + 0x10000 * i
def RSU_STATUS_HERITAGE : Fld := ⟨1, 1⟩
def RSU_STATUS_BUSY : Fld := ⟨0, 0⟩
def RSU_FLAGS (i : Nat) : Nat := 0x1003108 + 0x10000 * i
def RSU_FLAGS_INVALID : Fld := ⟨6, 6⟩
def RSU_FLAGS_NEG_CLAMP : Fld := ⟨5, 5⟩
def RSU_FLAGS_OVF : Fld := ⟨4, 4⟩
def RSU_FLAGS_TRUNC : Fld := ⟨3, 3⟩
def RSU_FLAGS_NONFINITE : Fld := ⟨2, 2⟩
def RSU_FLAGS_EMPTY_ROW : Fld := ⟨1, 1⟩
def RSU_ROWS (i : Nat) : Nat := 0x1003110 + 0x10000 * i
def RSU_ROWS_RSU_ROWS : Fld := ⟨63, 0⟩
def RSU_NEG_CLAMPS (i : Nat) : Nat := 0x1003118 + 0x10000 * i
def RSU_NEG_CLAMPS_RSU_NEG_CLAMPS : Fld := ⟨31, 0⟩
def SQ_DB (i : Nat) : Nat := 0x2000000 + 0x8 * i
def SQ_DB_CQ_CONSUMED : Fld := ⟨63, 32⟩
def SQ_DB_SQ_PRODUCED : Fld := ⟨31, 0⟩
def Q_TABLE_BASE : Nat := 0x2080000
def Q_TABLE_BASE_BASE : Fld := ⟨47, 22⟩
def Q_CMD : Nat := 0x2080008
def Q_CMD_ACTION : Fld := ⟨19, 16⟩
def Q_CMD_QID : Fld := ⟨15, 0⟩
def Q_CMD_STATUS : Nat := 0x2080010
def Q_CMD_STATUS_QID : Fld := ⟨31, 16⟩
def Q_CMD_STATUS_LOST : Fld := ⟨9, 9⟩
def Q_CMD_STATUS_BUSY : Fld := ⟨8, 8⟩
def Q_CMD_STATUS_RESULT : Fld := ⟨2, 0⟩
def Q_SELECT : Nat := 0x2080018
def Q_SELECT_QID : Fld := ⟨15, 0⟩
def Q_STATE : Nat := 0x2080020
def Q_STATE_RETRIES : Fld := ⟨63, 48⟩
def Q_STATE_INFLIGHT : Fld := ⟨40, 32⟩
def Q_STATE_HOME_LIVE : Fld := ⟨9, 8⟩
def Q_STATE_RETRYING : Fld := ⟨5, 5⟩
def Q_STATE_HELD : Fld := ⟨4, 4⟩
def Q_STATE_STATE : Fld := ⟨1, 0⟩
def Q_COUNTS : Nat := 0x2080028
def Q_COUNTS_P : Fld := ⟨63, 32⟩
def Q_COUNTS_F : Fld := ⟨31, 0⟩
def Q_COUNTS2 : Nat := 0x2080030
def Q_COUNTS2_CC : Fld := ⟨63, 32⟩
def Q_COUNTS2_W : Fld := ⟨31, 0⟩
def Q_ERR : Nat := 0x2080038
def Q_ERR_VALUE : Fld := ⟨63, 32⟩
def Q_ERR_CAUSE : Fld := ⟨3, 0⟩
def Q_DB_BAD : Nat := 0x2080040
def Q_DB_BAD_Q_DB_BAD : Fld := ⟨31, 0⟩
def Q_FETCHED (i : Nat) : Nat := 0x2080048 + 0x8 * i
def Q_FETCHED_Q_FETCHED : Fld := ⟨63, 0⟩
def Q_STOPPED_MAP (i : Nat) : Nat := 0x2090000 + 0x8 * i
def Q_STOPPED_MAP_STOPPED : Fld := ⟨63, 0⟩
def BELL_COUNT : Nat := 0x2100000
def BELL_COUNT_BELL_COUNT : Fld := ⟨63, 0⟩
def BELL_SUBNS : Nat := 0x2100008
def BELL_SUBNS_SUBNS : Fld := ⟨23, 0⟩
def BELL_CTL : Nat := 0x2100010
def BELL_CTL_SRC_PREF : Fld := ⟨13, 12⟩
def BELL_CTL_PERIOD : Fld := ⟨6, 0⟩
def BELL_CTL_LIVE : Nat := 0x2100018
def BELL_SYNC : Nat := 0x2100020
def BELL_SYNC_ORIGIN_BAD : Fld := ⟨11, 11⟩
def BELL_SYNC_HOLDOVER_EVT : Fld := ⟨10, 10⟩
def BELL_SYNC_STEPPED : Fld := ⟨9, 9⟩
def BELL_SYNC_JUMPED : Fld := ⟨8, 8⟩
def BELL_SYNC_SOURCE : Fld := ⟨5, 4⟩
def BELL_SYNC_STATE : Fld := ⟨2, 0⟩
def BELL_OFFSET : Nat := 0x2100028
def BELL_OFFSET_OFFSET : Fld := ⟨31, 0⟩
def BELL_ORIGIN : Nat := 0x2100030
def BELL_ORIGIN_ORIGIN : Fld := ⟨63, 0⟩
def EPOCH_SELECT : Nat := 0x2101000
def EPOCH_SELECT_HANDLE : Fld := ⟨15, 0⟩
def EPOCH_STATE : Nat := 0x2101008
def EPOCH_STATE_VALID : Fld := ⟨31, 31⟩
def EPOCH_STATE_PARISH : Fld := ⟨30, 30⟩
def EPOCH_STATE_COORD : Fld := ⟨29, 29⟩
def EPOCH_STATE_PENDING_SLOT : Fld := ⟨19, 18⟩
def EPOCH_STATE_CURRENT_SLOT : Fld := ⟨17, 16⟩
def EPOCH_STATE_SLOT2 : Fld := ⟨8, 6⟩
def EPOCH_STATE_SLOT1 : Fld := ⟨5, 3⟩
def EPOCH_STATE_SLOT0 : Fld := ⟨2, 0⟩
def EPOCH_TARGET : Nat := 0x2101010
def EPOCH_TARGET_TARGET : Fld := ⟨63, 0⟩
def EPOCH_NUM01 : Nat := 0x2101018
def EPOCH_NUM01_SLOT1 : Fld := ⟨63, 32⟩
def EPOCH_NUM01_SLOT0 : Fld := ⟨31, 0⟩
def EPOCH_NUM2 : Nat := 0x2101020
def EPOCH_NUM2_SLOT2 : Fld := ⟨31, 0⟩
def EPOCH_PINS : Nat := 0x2101028
def EPOCH_PINS_SLOT2 : Fld := ⟨47, 32⟩
def EPOCH_PINS_SLOT1 : Fld := ⟨31, 16⟩
def EPOCH_PINS_SLOT0 : Fld := ⟨15, 0⟩
def EPOCH_POSTPONES : Nat := 0x2101030
def EPOCH_POSTPONES_EPOCH_POSTPONES : Fld := ⟨31, 0⟩
def CTX_NEXT (n e : Nat) : Nat := 0x2800000 + 0x80 * n + 0x8 * e
def CTX_NOW (n e : Nat) : Nat := 0x3400000 + 0x80 * n + 0x8 * e
def SEG_CTL : Nat := 0x2110000
def SEG_CTL_WALK_TMO : Fld := ⟨15, 0⟩
def SEG_CTL_LIVE : Nat := 0x2110008
def WALK_DONE (i : Nat) : Nat := 0x2110010 + 0x8 * i
def WALK_DONE_WALK_DONE : Fld := ⟨63, 0⟩
def WALK_FAIL (i : Nat) : Nat := 0x2110030 + 0x8 * i
def WALK_FAIL_WALK_FAIL : Fld := ⟨31, 0⟩
def CTX_COUNT : Nat := 0x2110050
def CTX_COUNT_CTX_COUNT : Fld := ⟨31, 0⟩
def CTX_SELECT : Nat := 0x2110058
def CTX_SELECT_CTX : Fld := ⟨16, 0⟩
def CTX_INFO : Nat := 0x2110060
def CTX_INFO_SEG_VALID : Fld := ⟨63, 48⟩
def CTX_INFO_RESIDENT : Fld := ⟨40, 32⟩
def CTX_INFO_STRANDED : Fld := ⟨11, 11⟩
def CTX_INFO_CARRY : Fld := ⟨10, 10⟩
def CTX_INFO_PART : Fld := ⟨7, 4⟩
def CTX_INFO_STATE : Fld := ⟨2, 0⟩
def CTX_SEGTAB : Nat := 0x2110068
def CTX_SEGTAB_TABLE : Fld := ⟨47, 9⟩
def PART_CORE (n e : Nat) : Nat := 0x2111000 + 0x40 * n + 0x8 * e
def PART_CORE_CORES : Fld := ⟨63, 0⟩
def PART_ATTR (i : Nat) : Nat := 0x2111020 + 0x40 * i
def PART_ATTR_CONTEXTS : Fld := ⟨63, 32⟩
def PART_ATTR_KEY_SLOT : Fld := ⟨15, 12⟩
def PART_ATTR_DDR_ENC : Fld := ⟨9, 9⟩
def PART_ATTR_STACK_ENC : Fld := ⟨8, 8⟩
def PART_ATTR_STRICT_SCOPE : Fld := ⟨4, 4⟩
def PART_ATTR_PRIORITY : Fld := ⟨3, 0⟩
def PART_CAPSA (i : Nat) : Nat := 0x2111028 + 0x40 * i
def PART_CAPSA_STACK : Fld := ⟨63, 32⟩
def PART_CAPSA_ENGINE : Fld := ⟨31, 0⟩
def PART_CAPSB (i : Nat) : Nat := 0x2111030 + 0x40 * i
def PART_CAPSB_HOST : Fld := ⟨63, 32⟩
def PART_CAPSB_FABRIC : Fld := ⟨31, 0⟩
def STK_CFG : Nat := 0x2120000
def STK_CFG_SCRUB_HOURS : Fld := ⟨23, 16⟩
def STK_CFG_NEAR : Fld := ⟨4, 0⟩
def STK_CFG_LIVE : Nat := 0x2120008
def STK_STATUS (i : Nat) : Nat := 0x2120100 + 0x40 * i
def STK_STATUS_ROWS_REPAIRED : Fld := ⟨63, 32⟩
def STK_STATUS_SPARE1_CH : Fld := ⟨23, 20⟩
def STK_STATUS_SPARE0_CH : Fld := ⟨19, 16⟩
def STK_STATUS_SPARE1_USED : Fld := ⟨11, 11⟩
def STK_STATUS_SPARE0_USED : Fld := ⟨10, 10⟩
def STK_STATUS_SPARING : Fld := ⟨9, 9⟩
def STK_STATUS_DEGRADED : Fld := ⟨8, 8⟩
def STK_STATUS_PORT2_UP : Fld := ⟨5, 5⟩
def STK_STATUS_PORT1_UP : Fld := ⟨4, 4⟩
def STK_STATUS_STATE : Fld := ⟨2, 0⟩
def STK_ECC (i : Nat) : Nat := 0x2120108 + 0x40 * i
def STK_ECC_CORR_COUNT : Fld := ⟨63, 32⟩
def STK_ECC_UNCORR_COUNT : Fld := ⟨31, 16⟩
def STK_ECC_TILE_RETRY : Fld := ⟨3, 3⟩
def STK_ECC_POISON_READ : Fld := ⟨2, 2⟩
def STK_ECC_UNCORR : Fld := ⟨1, 1⟩
def STK_ECC_CORR : Fld := ⟨0, 0⟩
def STK_ERR_ADDR (i : Nat) : Nat := 0x2120110 + 0x40 * i
def STK_ERR_ADDR_VALID : Fld := ⟨63, 63⟩
def STK_ERR_ADDR_UNCORR : Fld := ⟨62, 62⟩
def STK_ERR_ADDR_ADDR : Fld := ⟨47, 6⟩
def DDR_QOS : Nat := 0x2120800
def DDR_QOS_CHIP_MIN : Fld := ⟨6, 0⟩
def DDR_QOS_LIVE : Nat := 0x2120808
def DDR_STATUS : Nat := 0x2120810
def DDR_STATUS_PPR_DONE : Fld := ⟨63, 32⟩
def DDR_STATUS_CH_UP : Fld := ⟨23, 16⟩
def DDR_STATUS_SPEED : Fld := ⟨7, 4⟩
def DDR_STATUS_STATE : Fld := ⟨2, 0⟩
def CELLAR_STATUS : Nat := 0x2121000
def CELLAR_STATUS_IN_SYNC : Fld := ⟨35, 32⟩
def CELLAR_STATUS_PRESENT : Fld := ⟨31, 24⟩
def CELLAR_STATUS_REBUILDING : Fld := ⟨23, 16⟩
def CELLAR_STATUS_REPLAYED : Fld := ⟨3, 3⟩
def CELLAR_STATUS_STATE : Fld := ⟨2, 0⟩
def CELLAR_CTL : Nat := 0x2121008
def CELLAR_CTL_ADOPT : Fld := ⟨23, 16⟩
def CELLAR_CTL_SLOW_MS : Fld := ⟨15, 8⟩
def CELLAR_CTL_REBUILD_GBS : Fld := ⟨7, 0⟩
def CELLAR_CTL_LIVE : Nat := 0x2121010
def CELLAR_BAY (i : Nat) : Nat := 0x2121040 + 0x8 * i
def CELLAR_BAY_LIFE_USED : Fld := ⟨63, 48⟩
def CELLAR_BAY_SPARE_PCT : Fld := ⟨47, 40⟩
def CELLAR_BAY_REBUILT_GIB : Fld := ⟨39, 16⟩
def CELLAR_BAY_STATE : Fld := ⟨3, 0⟩
def CELLAR_VOL (i : Nat) : Nat := 0x2122000 + 0x10 * i
def CELLAR_VOL_SIZE : Fld := ⟨31, 0⟩
def CELLAR_APER (i : Nat) : Nat := 0x2122008 + 0x10 * i
def CELLAR_APER_BASE : Fld := ⟨31, 0⟩
def TALLY_SEL : Nat := 0x2130000
def TALLY_SEL_DIE : Fld := ⟨18, 16⟩
def TALLY_SEL_INDEX : Fld := ⟨15, 0⟩
def TALLY_CMD : Nat := 0x2130008
def TALLY_CMD_ACTION : Fld := ⟨3, 0⟩
def TALLY_STATUS : Nat := 0x2130010
def TALLY_STATUS_LOST : Fld := ⟨9, 9⟩
def TALLY_STATUS_BUSY : Fld := ⟨8, 8⟩
def TALLY_STATUS_RESULT : Fld := ⟨2, 0⟩
def TALLY_COUNT_V : Nat := 0x2130018
def TALLY_COUNT_V_VALUE : Fld := ⟨63, 0⟩
def TALLY_BOUND_V : Nat := 0x2130020
def TALLY_BOUND_V_VALUE : Fld := ⟨63, 0⟩
def TALLY_ATTR_V : Nat := 0x2130028
def TALLY_ATTR_V_PEER : Fld := ⟨63, 48⟩
def TALLY_ATTR_V_PAIR_N : Fld := ⟨47, 32⟩
def TALLY_ATTR_V_PARTNER_INDEX : Fld := ⟨31, 16⟩
def TALLY_ATTR_V_PARTNER_DIE : Fld := ⟨15, 13⟩
def TALLY_ATTR_V_PLACED : Fld := ⟨7, 7⟩
def TALLY_ATTR_V_ANY_PEER : Fld := ⟨3, 3⟩
def TALLY_ATTR_V_EXPORT : Fld := ⟨2, 2⟩
def TALLY_ATTR_V_MODE : Fld := ⟨1, 0⟩
def TALLY_SCOPE_V : Nat := 0x2130030
def TALLY_SCOPE_V_MODULE : Fld := ⟨63, 48⟩
def TALLY_SCOPE_V_CORE : Fld := ⟨47, 40⟩
def TALLY_SCOPE_V_ENGINE : Fld := ⟨39, 38⟩
def TALLY_SCOPE_V_LEVEL : Fld := ⟨2, 0⟩
def TALLY_WIN_ERR : Nat := 0x2130038
def TALLY_WIN_ERR_VALID : Fld := ⟨63, 63⟩
def TALLY_WIN_ERR_KIND : Fld := ⟨34, 32⟩
def TALLY_WIN_ERR_DIE : Fld := ⟨18, 16⟩
def TALLY_WIN_ERR_INDEX : Fld := ⟨15, 0⟩
def TALLY_OPS (i : Nat) : Nat := 0x2130040 + 0x8 * i
def TALLY_OPS_OPS : Fld := ⟨63, 0⟩
def TALLY_WAITERS (i : Nat) : Nat := 0x2130068 + 0x8 * i
def TALLY_WAITERS_WAITERS : Fld := ⟨13, 0⟩
def TALLY_FAULTS (i : Nat) : Nat := 0x2130090 + 0x8 * i
def TALLY_FAULTS_FAULTS : Fld := ⟨31, 0⟩
def TW_ADD (n e : Nat) : Nat := 0x2200000 + 0x100000 * n + 0x10 * e
def TW_SUB (n e : Nat) : Nat := 0x2200008 + 0x100000 * n + 0x10 * e
def TW_ADD_H (i : Nat) : Nat := 0x2600000 + 0x10 * i
def TW_SUB_H (i : Nat) : Nat := 0x2600008 + 0x10 * i
def ORD_SVC : Nat := 0x2140000
def ORD_SVC_PREV : Fld := ⟨6, 4⟩
def ORD_SVC_STATE : Fld := ⟨2, 0⟩
def ORD_ERR : Nat := 0x2140008
def ORD_ERR_CW_WIDTH : Fld := ⟨8, 8⟩
def ORD_ERR_EXT_B : Fld := ⟨7, 7⟩
def ORD_ERR_EXT_A : Fld := ⟨6, 6⟩
def ORD_ERR_REMOTE : Fld := ⟨5, 5⟩
def ORD_ERR_GUEST : Fld := ⟨4, 4⟩
def ORD_ERR_CELLAR : Fld := ⟨3, 3⟩
def ORD_ERR_DDR : Fld := ⟨2, 2⟩
def ORD_ERR_STACK : Fld := ⟨1, 1⟩
def ORD_ERR_LARDER : Fld := ⟨0, 0⟩
def ORD_ERR_ADDR : Nat := 0x2140010
def ORD_ERR_ADDR_ADDR : Fld := ⟨63, 0⟩
def ORD_ERR_SRC : Nat := 0x2140018
def ORD_ERR_SRC_VALID : Fld := ⟨31, 31⟩
def ORD_ERR_SRC_CLASS : Fld := ⟨27, 24⟩
def ORD_ERR_SRC_UNIT : Fld := ⟨23, 16⟩
def ORD_ERR_SRC_AGENT : Fld := ⟨15, 12⟩
def ORD_ERR_SRC_ENGINE : Fld := ⟨1, 0⟩
def ORD_IRQ : Nat := 0x2140020
def ORD_IRQ_KIND : Fld := ⟨17, 16⟩
def ORD_IRQ_VECTOR : Fld := ⟨15, 0⟩
def ORD_ERR_COUNT : Nat := 0x2140028
def ORD_ERR_COUNT_COUNT : Fld := ⟨31, 0⟩
def HC_STATUS : Nat := 0x2150000
def HC_STATUS_HARTS_UP : Fld := ⟨15, 8⟩
def HC_STATUS_DIR_UP : Fld := ⟨4, 4⟩
def HC_STATUS_STATE : Fld := ⟨2, 0⟩
def HC_CTL : Nat := 0x2150008
def HC_CTL_READY : Fld := ⟨0, 0⟩
def HC_RESET_INFO : Nat := 0x2150010
def HC_RESET_INFO_LAST_BELL : Fld := ⟨63, 24⟩
def HC_RESET_INFO_CAUSE : Fld := ⟨19, 16⟩
def HC_RESET_INFO_COUNT : Fld := ⟨15, 0⟩
def HC_IRQ_DROP : Nat := 0x2150018
def HC_IRQ_DROP_DROPS : Fld := ⟨31, 0⟩
def HC_L3_WAYMASK (i : Nat) : Nat := 0x2150040 + 0x8 * i
def HC_L3_WAYMASK_MASK : Fld := ⟨23, 0⟩
def MAGPIE_CTL : Nat := 0x21500c0
def MAGPIE_CTL_MODE : Fld := ⟨21, 20⟩
def MAGPIE_CTL_THRESH : Fld := ⟨17, 16⟩
def MAGPIE_CTL_WINDOW : Fld := ⟨9, 0⟩
def MAGPIE_NEAR : Nat := 0x21500c8
def MAGPIE_NEAR_NEAR : Fld := ⟨63, 0⟩
def MAGPIE_FAR : Nat := 0x21500d0
def MAGPIE_FAR_FAR : Fld := ⟨63, 0⟩
def DIR_BACKINV : Nat := 0x21500d8
def DIR_BACKINV_BACKINV : Fld := ⟨63, 0⟩
def WB_DISCARDS : Nat := 0x21500e0
def WB_DISCARDS_DISCARDS : Fld := ⟨63, 0⟩
def KEEP (i : Nat) : Nat := 0x2150100 + 0x8 * i
def KEEP_ENABLE : Fld := ⟨63, 63⟩
def KEEP_SIZE : Fld := ⟨50, 32⟩
def KEEP_BASE : Fld := ⟨17, 0⟩
def KEEP_STATUS : Nat := 0x2150140
def KEEP_STATUS_REJECT : Fld := ⟨8, 8⟩
def KEEP_STATUS_ACTIVE : Fld := ⟨7, 0⟩
def FAB_PORT_STATUS (i : Nat) : Nat := 0x2160000 + 0x100 * i
def FAB_PORT_STATUS_LANES : Fld := ⟨40, 32⟩
def FAB_PORT_STATUS_SPARE_FOR : Fld := ⟨27, 24⟩
def FAB_PORT_STATUS_SPARE_USED : Fld := ⟨23, 23⟩
def FAB_PORT_STATUS_WIDTH : Fld := ⟨19, 16⟩
def FAB_PORT_STATUS_RATE : Fld := ⟨13, 12⟩
def FAB_PORT_STATUS_PROTO : Fld := ⟨9, 8⟩
def FAB_PORT_STATUS_FAULT : Fld := ⟨7, 4⟩
def FAB_PORT_STATUS_STATE : Fld := ⟨2, 0⟩
def FAB_PORT_CTL (i : Nat) : Nat := 0x2160008 + 0x100 * i
def FAB_PORT_CTL_RETRAIN : Fld := ⟨8, 8⟩
def FAB_PORT_CTL_MAX_RATE : Fld := ⟨5, 4⟩
def FAB_PORT_CTL_ENABLE : Fld := ⟨0, 0⟩
def FAB_PORT_PEER (i : Nat) : Nat := 0x2160010 + 0x100 * i
def FAB_PORT_PEER_PEER_ID : Fld := ⟨63, 48⟩
def FAB_PORT_PEER_PEER_PARISH : Fld := ⟨47, 32⟩
def FAB_PORT_PEER_DELAY_NS : Fld := ⟨31, 16⟩
def FAB_PORT_PEER_PEER_PORT : Fld := ⟨2, 0⟩
def FAB_PORT_FEC (i : Nat) : Nat := 0x2160018 + 0x100 * i
def FAB_PORT_FEC_CORR_SYMBOLS : Fld := ⟨63, 32⟩
def FAB_PORT_FEC_UNCORR_CW : Fld := ⟨31, 0⟩
def FAB_PORT_RETRY (i : Nat) : Nat := 0x2160020 + 0x100 * i
def FAB_PORT_RETRY_REPLAYED : Fld := ⟨63, 32⟩
def FAB_PORT_RETRY_RETRAINS : Fld := ⟨31, 16⟩
def FAB_PORT_RETRY_LANE_SWAPS : Fld := ⟨15, 0⟩
def FAB_ID : Nat := 0x2161000
def FAB_ID_PARISH : Fld := ⟨47, 32⟩
def FAB_ID_MODULE : Fld := ⟨15, 0⟩
def FAB_CFG : Nat := 0x2161008
def FAB_CFG_LINK_TMO : Fld := ⟨31, 16⟩
def FAB_CFG_ROUTE_AUTO : Fld := ⟨8, 8⟩
def FAB_CFG_TTL_SLACK : Fld := ⟨7, 0⟩
def FAB_CFG_LIVE : Nat := 0x2161010
def FAB_STATUS : Nat := 0x2161018
def FAB_STATUS_DIAM_HOPS : Fld := ⟨63, 48⟩
def FAB_STATUS_DIAM_RT_US : Fld := ⟨47, 32⟩
def FAB_STATUS_TMO_SHORT : Fld := ⟨5, 5⟩
def FAB_STATUS_TMO_MISMATCH : Fld := ⟨4, 4⟩
def FAB_STATUS_DUP_ID : Fld := ⟨3, 3⟩
def FAB_STATUS_LSR_FULL : Fld := ⟨2, 2⟩
def FAB_STATUS_RECOMPUTING : Fld := ⟨1, 1⟩
def FAB_LOST : Nat := 0x2161020
def FAB_LOST_LOST : Fld := ⟨31, 0⟩
def FAB_TTL_DROPS : Nat := 0x2161028
def FAB_TTL_DROPS_DROPS : Fld := ⟨31, 0⟩
def FAB_COMBINED : Nat := 0x2161030
def FAB_COMBINED_COMBINED : Fld := ⟨63, 0⟩
def FAB_E2E_RETX : Nat := 0x2161038
def FAB_E2E_RETX_RETX : Fld := ⟨63, 0⟩
def FAB_ROUTE_SEL : Nat := 0x2161040
def FAB_ROUTE_SEL_MODULE : Fld := ⟨15, 0⟩
def FAB_ROUTE_DATA : Nat := 0x2161048
def FAB_ROUTE (i : Nat) : Nat := 0x2180000 + 0x8 * i
def FAB_ROUTE_VALID : Fld := ⟨63, 63⟩
def FAB_ROUTE_STATIC : Fld := ⟨62, 62⟩
def FAB_ROUTE_LOST : Fld := ⟨61, 61⟩
def FAB_ROUTE_V2 : Fld := ⟨60, 60⟩
def FAB_ROUTE_HOPS : Fld := ⟨39, 24⟩
def FAB_ROUTE_ALT_VALID : Fld := ⟨7, 7⟩
def FAB_ROUTE_ALT_PORT : Fld := ⟨6, 4⟩
def FAB_ROUTE_PORT : Fld := ⟨2, 0⟩
def FAB_ROUTE_HI (i : Nat) : Nat := 0x21e0000 + 0x8 * i
def DL_LINK_STATUS (i : Nat) : Nat := 0x21c0000 + 0x10 * i
def DL_LINK_STATUS_MODULES_UP : Fld := ⟨47, 40⟩
def DL_LINK_STATUS_MODULES : Fld := ⟨39, 32⟩
def DL_LINK_STATUS_RATE : Fld := ⟨19, 16⟩
def DL_LINK_STATUS_LANES_REPAIRED : Fld := ⟨15, 8⟩
def DL_LINK_STATUS_STATE : Fld := ⟨2, 0⟩
def DL_LINK_ERR (i : Nat) : Nat := 0x21c0008 + 0x10 * i
def DL_LINK_ERR_CRC_ERRORS : Fld := ⟨63, 32⟩
def DL_LINK_ERR_REPLAYS : Fld := ⟨31, 0⟩
def GUEST_STATUS (i : Nat) : Nat := 0x21c1000 + 0x100 * i
def GUEST_STATUS_LINKS : Fld := ⟨25, 24⟩
def GUEST_STATUS_PROTO : Fld := ⟨23, 16⟩
def GUEST_STATUS_HOLD_REASON : Fld := ⟨15, 8⟩
def GUEST_STATUS_STATE : Fld := ⟨2, 0⟩
def GUEST_CTL (i : Nat) : Nat := 0x21c1008 + 0x100 * i
def GUEST_CTL_ACCEPT : Fld := ⟨3, 3⟩
def GUEST_CTL_RESET : Fld := ⟨2, 2⟩
def GUEST_CTL_COHERENT : Fld := ⟨1, 1⟩
def GUEST_CTL_ENABLE : Fld := ⟨0, 0⟩
def GUEST_CTL_LIVE (i : Nat) : Nat := 0x21c1010 + 0x100 * i
def GUEST_BIND (i : Nat) : Nat := 0x21c1018 + 0x100 * i
def GUEST_BIND_CTX : Fld := ⟨48, 32⟩
def GUEST_BIND_PART : Fld := ⟨3, 0⟩
def GUEST_CAP (n e : Nat) : Nat := 0x21c1020 + 0x100 * n + 0x8 * e
def GUEST_CAP_RECORD : Fld := ⟨63, 0⟩
def GUEST_ERR (i : Nat) : Nat := 0x21c1040 + 0x100 * i
def GUEST_ERR_VALID : Fld := ⟨63, 63⟩
def GUEST_ERR_REASON : Fld := ⟨55, 48⟩
def GUEST_ERR_ADDR : Fld := ⟨47, 0⟩
def PWR_CAP : Nat := 0x21d0000
def PWR_CAP_HYST_W : Fld := ⟨24, 16⟩
def PWR_CAP_WATTS : Fld := ⟨12, 0⟩
def PWR_MODE : Nat := 0x21d0008
def PWR_MODE_HOLD : Fld := ⟨31, 16⟩
def PWR_MODE_BOOST_HOST : Fld := ⟨1, 1⟩
def PWR_MODE_BOOST_CORES : Fld := ⟨0, 0⟩
def PWR_MODE_LIVE : Nat := 0x21d0010
def PWR_STATUS : Nat := 0x21d0018
def PWR_STATUS_BOOSTED : Fld := ⟨63, 48⟩
def PWR_STATUS_THERM_OFF : Fld := ⟨40, 32⟩
def PWR_STATUS_CAP_OFF : Fld := ⟨24, 16⟩
def PWR_STATUS_COOLING : Fld := ⟨3, 3⟩
def PWR_STATUS_CAP_UNMET : Fld := ⟨2, 2⟩
def PWR_STATUS_SETTLING : Fld := ⟨1, 1⟩
def PWR_STATUS_OVER : Fld := ⟨0, 0⟩
def PWR_INPUT : Nat := 0x21d0020
def PWR_INPUT_SEQ : Fld := ⟨63, 48⟩
def PWR_INPUT_WATTS : Fld := ⟨44, 32⟩
def PWR_INPUT_CURRENT : Fld := ⟨31, 16⟩
def PWR_INPUT_VOLT_MV : Fld := ⟨15, 0⟩
def PWR_PEAK : Nat := 0x21d0028
def PWR_PEAK_WATTS : Fld := ⟨12, 0⟩
def PWR_ENERGY (i : Nat) : Nat := 0x21d0040 + 0x8 * i
def PWR_ENERGY_UJ : Fld := ⟨63, 0⟩
def RAMP_CTL : Nat := 0x21d0100
def RAMP_CTL_RAMP_US : Fld := ⟨6, 0⟩
def RAMP_CTL_LIVE : Nat := 0x21d0108
def RAMP_WAITS (i : Nat) : Nat := 0x21d0110 + 0x8 * i
def RAMP_WAITS_WAITS : Fld := ⟨63, 0⟩
def THERM_CTL : Nat := 0x21d0200
def THERM_CTL_FLOW_MIN : Fld := ⟨15, 8⟩
def THERM_CTL_WARN_C : Fld := ⟨7, 0⟩
def THERM_IRQ : Nat := 0x21d0208
def THERM_IRQ_KIND : Fld := ⟨17, 16⟩
def THERM_IRQ_VECTOR : Fld := ⟨15, 0⟩
def THERM_STATUS : Nat := 0x21d0210
def THERM_STATUS_TRIPPED : Fld := ⟨63, 63⟩
def THERM_STATUS_TRIP_ISL : Fld := ⟨62, 54⟩
def THERM_STATUS_TRIP_C : Fld := ⟨53, 46⟩
def THERM_STATUS_SENSOR_FAILS : Fld := ⟨39, 32⟩
def THERM_STATUS_HOT_ISL : Fld := ⟨29, 21⟩
def THERM_STATUS_WARN : Fld := ⟨18, 18⟩
def THERM_STATUS_OFF100 : Fld := ⟨17, 17⟩
def THERM_STATUS_HOT_C : Fld := ⟨7, 0⟩
def COOL_STATUS : Nat := 0x21d0218
def COOL_STATUS_FLOW : Fld := ⟨63, 48⟩
def COOL_STATUS_OUTLET : Fld := ⟨47, 32⟩
def COOL_STATUS_INLET : Fld := ⟨31, 16⟩
def ISL_SEL : Nat := 0x21d0300
def ISL_SEL_ISLAND : Fld := ⟨8, 0⟩
def ISL_INFO : Nat := 0x21d0308
def ISL_INFO_FREQ_MHZ : Fld := ⟨63, 48⟩
def ISL_INFO_TEMP_C : Fld := ⟨47, 40⟩
def ISL_INFO_VF_COUNT : Fld := ⟨35, 32⟩
def ISL_INFO_POINT : Fld := ⟨18, 16⟩
def ISL_INFO_KIND : Fld := ⟨11, 8⟩
def ISL_INFO_STATE : Fld := ⟨1, 0⟩
def STILE_FENCES : Nat := 0x21d0310
def STILE_FENCES_FENCES : Fld := ⟨31, 0⟩
def VF_POINT (i : Nat) : Nat := 0x21d0320 + 0x8 * i
def VF_POINT_VALID : Fld := ⟨63, 63⟩
def VF_POINT_FIXED : Fld := ⟨62, 62⟩
def VF_POINT_MV : Fld := ⟨47, 32⟩
def VF_POINT_FREQ_MHZ : Fld := ⟨15, 0⟩

def regTable0 : List RegRow := [
  ⟨"ID_DEVICE", 0x0, [], 64, 0x0, 0x0, 0x0, 0x0, 0x0, 0xb094481e9c, .warden, none, .none⟩,
  ⟨"ID_SERIAL", 0x8, [], 64, 0x0, 0x0, 0x0, 0x0, 0x0, 0x0, .warden, none, .none⟩,
  ⟨"ID_FW", 0x10, [], 64, 0x0, 0x0, 0x0, 0x0, 0x0, 0x300000002040204, .warden, none, .none⟩,
  ⟨"ID_MFG", 0x18, [], 64, 0x0, 0x0, 0x0, 0x0, 0x0, 0x0, .warden, none, .none⟩,
  ⟨"ID_LAYOUT", 0x20, [], 32, 0x0, 0x0, 0x0, 0x0, 0x0, 0x10100, .warden, none, .none⟩,
  ⟨"GLB_STATUS", 0x8000, [], 64, 0x0, 0x0, 0x0, 0x0, 0x0, 0x0, .warden, none, .none⟩,
  ⟨"GLB_SCRATCH", 0x8008, [(0x8, 4)], 64, 0xffffffffffffffff, 0x0, 0x0, 0x0, 0x0, 0x0, .warden, none, .any⟩,
  ⟨"GLB_CFG_REJECT", 0x8040, [], 64, 0x0, 0xc000000000000000, 0x0, 0x0, 0x0, 0x0, .module, none, .any⟩,
  ⟨"GLB_CFG_REJECT_DATA", 0x8048, [], 64, 0x0, 0x0, 0x0, 0x0, 0x0, 0x0, .module, none, .none⟩,
  ⟨"GLB_CFG_REJECT_COUNT", 0x8050, [], 32, 0x0, 0x0, 0x0, 0x0, 0x0, 0x0, .module, none, .none⟩,
  ⟨"EXT_PORT_STATUS", 0x10000, [(0x100, 2)], 64, 0x0, 0x0, 0x0, 0x0, 0x0, 0x0, .module, none, .none⟩,
  ⟨"EXT_PORT_CTL", 0x10008, [(0x100, 2)], 32, 0xff0077, 0x0, 0x0, 0x0, 0x77, 0x640071, .module, none, .any⟩,
  ⟨"EXT_BAR4", 0x10010, [(0x100, 2)], 64, 0xffffc000003f, 0x0, 0x0, 0x0, 0xffffc000003f, 0x1e, .module, none, .any⟩,
  ⟨"EXT_RC_APER", 0x10018, [(0x100, 2)], 64, 0xffffffffffc00000, 0x0, 0x0, 0x0, 0x0, 0x0, .module, none, .any⟩,
  ⟨"EXT_HOLD", 0x10020, [(0x100, 2)], 64, 0x0, 0x0, 0x0, 0x0, 0x0, 0x0, .module, none, .none⟩,
  ⟨"EXT_IRQ_DROP", 0x10028, [(0x100, 2)], 32, 0x0, 0x0, 0x0, 0x0, 0x0, 0x0, .module, none, .none⟩,
  ⟨"FLT_CTL", 0x20000, [], 32, 0xffff3fff, 0x0, 0x0, 0xffff3fff, 0x0, 0xa141064, .module, some 0x8, .any⟩,
  ⟨"FLT_CTL_LIVE", 0x20008, [], 32, 0x0, 0x0, 0x0, 0x0, 0x0, 0xa141064, .module, none, .none⟩,
  ⟨"FLT_STATUS", 0x20010, [], 32, 0x0, 0x0, 0x0, 0x0, 0x0, 0x0, .warden, none, .none⟩,
  ⟨"FLT_RESET_REQ", 0x20018, [], 64, 0x0, 0x0, 0x0, 0x0, 0x0, 0x0, .module, none, .wardenMachine⟩,
  ⟨"FLT_RESET_STATUS", 0x20020, [], 64, 0x0, 0x40000, 0x0, 0x0, 0x0, 0x0, .warden, none, .any⟩,
  ⟨"RUNG_CFG", 0x20040, [(0x8, 4)], 32, 0xffff00ff, 0x0, 0x0, 0x0, 0x0, 0x0, .warden, none, .any⟩]

def regTable1 : List RegRow := [
  ⟨"RUNG_COUNT", 0x20060, [(0x8, 5)], 32, 0x0, 0x0, 0x0, 0x0, 0x0, 0x0, .warden, none, .none⟩,
  ⟨"OWL_CTL", 0x20100, [], 32, 0x1ffff, 0x0, 0x0, 0x0, 0x0, 0x3e8, .warden, none, .any⟩,
  ⟨"OWL_BEAT", 0x20108, [(0x8, 4)], 32, 0x0, 0x0, 0x0, 0x0, 0x0, 0x0, .warden, none, .none⟩,
  ⟨"OWL_BEAT_HOST", 0x20128, [], 32, 0xffffffff, 0x0, 0x0, 0x0, 0x0, 0x0, .warden, none, .hostOnly⟩,
  ⟨"OWL_STATUS", 0x20130, [], 32, 0x0, 0x3f, 0x0, 0x0, 0x0, 0x0, .warden, none, .any⟩,
  ⟨"WARDEN_STATUS", 0x20138, [], 32, 0x0, 0x0, 0x0, 0x0, 0x0, 0x0, .warden, none, .none⟩,
  ⟨"DIE_PHYS", 0x20200, [(0x20, 4), (0x8, 3)], 64, 0x0, 0x0, 0x0, 0x0, 0x0, 0x0, .warden, none, .none⟩,
  ⟨"DIE_SPARE", 0x20218, [(0x20, 4)], 64, 0x0, 0x0, 0x0, 0x0, 0x0, 0x4000000004, .warden, none, .none⟩,
  ⟨"PHASE_STATUS", 0x20300, [(0x8, 19)], 64, 0x0, 0x0, 0x0, 0x0, 0x0, 0x0, .warden, none, .none⟩,
  ⟨"LEDGER_STATUS", 0x20400, [], 64, 0x0, 0x0, 0x0, 0x0, 0x0, 0x0, .warden, none, .none⟩,
  ⟨"LEDGER_SEL", 0x20408, [], 32, 0xffffffff, 0x0, 0x0, 0x0, 0x0, 0x0, .warden, none, .any⟩,
  ⟨"LEDGER_DATA", 0x20440, [(0x8, 8)], 64, 0x0, 0x0, 0x0, 0x0, 0x0, 0x0, .warden, none, .none⟩,
  ⟨"CAPTURE_STATUS", 0x20480, [], 64, 0x0, 0x0, 0x0, 0x0, 0x0, 0x0, .warden, none, .none⟩,
  ⟨"BOOT_STATUS", 0x30000, [], 64, 0x0, 0x0, 0x0, 0x0, 0x0, 0x0, .warden, none, .none⟩,
  ⟨"BOOT_CFG", 0x30008, [], 32, 0xff03, 0x0, 0x0, 0x0, 0x0, 0x0, .warden, none, .wardenMachine⟩,
  ⟨"TRUST_STATUS", 0x30010, [], 64, 0x0, 0x0, 0x0, 0x0, 0x0, 0x0, .warden, none, .none⟩,
  ⟨"TRUST_SVN", 0x30018, [], 64, 0x0, 0x0, 0x0, 0x0, 0x0, 0x0, .warden, none, .none⟩,
  ⟨"FW_VERSION", 0x30028, [(0x8, 4)], 64, 0x0, 0x0, 0x0, 0x0, 0x0, 0x0, .warden, none, .none⟩,
  ⟨"FW_UPDATE", 0x30048, [], 64, 0x0, 0x0, 0x0, 0x0, 0x0, 0x0, .warden, none, .none⟩,
  ⟨"SVC_STATUS", 0x40000, [], 64, 0x0, 0x0, 0x0, 0x0, 0x0, 0x0, .warden, none, .none⟩,
  ⟨"SVC_CTL", 0x40008, [], 32, 0xffff00e0, 0x0, 0x0, 0x0, 0x0, 0x12c0040, .warden, none, .any⟩,
  ⟨"SVC_IRQ", 0x40010, [], 32, 0x3ffff, 0x0, 0x0, 0x0, 0x0, 0x10000, .warden, none, .any⟩]

def regTable2 : List RegRow := [
  ⟨"SVC_BAY", 0x40020, [(0x8, 8)], 32, 0x0, 0x0, 0x0, 0x0, 0x0, 0x0, .warden, none, .none⟩,
  ⟨"MGMT_STATUS", 0x50000, [], 64, 0x0, 0x0, 0x0, 0x0, 0x0, 0x0, .warden, none, .none⟩,
  ⟨"MGMT_CTL", 0x50008, [], 32, 0x103, 0x0, 0x0, 0x0, 0x0, 0x103, .warden, none, .wardenMachine⟩,
  ⟨"MGMT_KEYS", 0x50010, [], 64, 0x0, 0x0, 0x0, 0x0, 0x0, 0x0, .warden, none, .none⟩,
  ⟨"CORE_STATUS", 0x1000000, [(0x10000, 256)], 32, 0x0, 0x0, 0x0, 0x0, 0x0, 0x0, .chip, none, .none⟩,
  ⟨"CORE_CTL", 0x1000008, [(0x10000, 256)], 32, 0x1, 0x0, 0x0, 0x0, 0x0, 0x0, .chip, none, .reeveWarden⟩,
  ⟨"CORE_ID", 0x1000010, [(0x10000, 256)], 32, 0x0, 0x0, 0x0, 0x0, 0x0, 0x0, .chip, none, .none⟩,
  ⟨"DISP_CTL", 0x1000020, [(0x10000, 256)], 32, 0x3ff, 0x0, 0x0, 0x3ff, 0x0, 0x10, .chip, some 0x8, .reeveWarden⟩,
  ⟨"DISP_CTL_LIVE", 0x1000028, [(0x10000, 256)], 32, 0x0, 0x0, 0x0, 0x0, 0x0, 0x10, .chip, none, .none⟩,
  ⟨"DISP_ISSUED", 0x1000030, [(0x10000, 256)], 64, 0x0, 0x0, 0x0, 0x0, 0x0, 0x0, .chip, none, .none⟩,
  ⟨"DISP_SWITCHES", 0x1000038, [(0x10000, 256)], 64, 0x0, 0x0, 0x0, 0x0, 0x0, 0x0, .chip, none, .none⟩,
  ⟨"STALL_STACK", 0x1000400, [(0x10000, 256)], 64, 0x0, 0x0, 0x0, 0x0, 0x0, 0x0, .chip, none, .none⟩,
  ⟨"STALL_HOST", 0x1000408, [(0x10000, 256)], 64, 0x0, 0x0, 0x0, 0x0, 0x0, 0x0, .chip, none, .none⟩,
  ⟨"STALL_CELLAR", 0x1000410, [(0x10000, 256)], 64, 0x0, 0x0, 0x0, 0x0, 0x0, 0x0, .chip, none, .none⟩,
  ⟨"STALL_FABRIC", 0x1000418, [(0x10000, 256)], 64, 0x0, 0x0, 0x0, 0x0, 0x0, 0x0, .chip, none, .none⟩,
  ⟨"STALL_TALLY", 0x1000420, [(0x10000, 256)], 64, 0x0, 0x0, 0x0, 0x0, 0x0, 0x0, .chip, none, .none⟩,
  ⟨"STALL_GUEST", 0x1000428, [(0x10000, 256)], 64, 0x0, 0x0, 0x0, 0x0, 0x0, 0x0, .chip, none, .none⟩,
  ⟨"TIER_FAILS", 0x1000430, [(0x10000, 256)], 32, 0x0, 0x0, 0x0, 0x0, 0x0, 0x0, .chip, none, .none⟩,
  ⟨"PLACE_USE", 0x1000438, [(0x10000, 256)], 32, 0x0, 0x0, 0x0, 0x0, 0x0, 0x0, .chip, none, .none⟩,
  ⟨"TIER_TMO", 0x1000440, [(0x10000, 256)], 64, 0xffffffffffff, 0x0, 0x0, 0xffffffffffff, 0x0, 0x3e803e800c8, .chip, some 0x10, .reeveWarden⟩,
  ⟨"TIER_TMO2", 0x1000448, [(0x10000, 256)], 64, 0xffffffffffff, 0x0, 0x0, 0xffffffffffff, 0x0, 0x3e807d00032, .chip, some 0x10, .reeveWarden⟩,
  ⟨"TIER_TMO_LIVE", 0x1000450, [(0x10000, 256)], 64, 0x0, 0x0, 0x0, 0x0, 0x0, 0x3e803e800c8, .chip, none, .none⟩]

def regTable3 : List RegRow := [
  ⟨"TIER_TMO2_LIVE", 0x1000458, [(0x10000, 256)], 64, 0x0, 0x0, 0x0, 0x0, 0x0, 0x3e807d00032, .chip, none, .none⟩,
  ⟨"STREAM_CTL", 0x1000460, [(0x10000, 256)], 32, 0x1f, 0x0, 0x0, 0x1f, 0x0, 0x4, .chip, some 0x8, .reeveWarden⟩,
  ⟨"STREAM_CTL_LIVE", 0x1000468, [(0x10000, 256)], 32, 0x0, 0x0, 0x0, 0x0, 0x0, 0x4, .chip, none, .none⟩,
  ⟨"SEGC_HITS", 0x1000800, [(0x10000, 256)], 64, 0x0, 0x0, 0x0, 0x0, 0x0, 0x0, .chip, none, .none⟩,
  ⟨"SEGC_MISSES", 0x1000808, [(0x10000, 256)], 64, 0x0, 0x0, 0x0, 0x0, 0x0, 0x0, .chip, none, .none⟩,
  ⟨"SEGC_USE", 0x1000810, [(0x10000, 256)], 32, 0x0, 0x0, 0x0, 0x0, 0x0, 0x0, .chip, none, .none⟩,
  ⟨"LARDER_ECC", 0x1001000, [(0x10000, 256)], 32, 0x0, 0x7, 0x0, 0x0, 0x0, 0x0, .chip, none, .reeveWarden⟩,
  ⟨"LARDER_ERR_ADDR", 0x1001008, [(0x10000, 256)], 64, 0x0, 0x0, 0x0, 0x0, 0x0, 0x0, .chip, none, .none⟩,
  ⟨"LARDER_SCRUB", 0x1001010, [(0x10000, 256)], 32, 0xffffffff, 0x0, 0x0, 0xffffffff, 0x0, 0x640064, .chip, some 0x8, .reeveWarden⟩,
  ⟨"LARDER_SCRUB_LIVE", 0x1001018, [(0x10000, 256)], 32, 0x0, 0x0, 0x0, 0x0, 0x0, 0x640064, .chip, none, .none⟩,
  ⟨"CACHE_CTL", 0x1001800, [(0x10000, 256)], 32, 0x1, 0x0, 0x0, 0x0, 0x1, 0x1, .chip, none, .reeveWarden⟩,
  ⟨"CACHE_HITS", 0x1001808, [(0x10000, 256)], 64, 0x0, 0x0, 0x0, 0x0, 0x0, 0x0, .chip, none, .none⟩,
  ⟨"CACHE_MISSES", 0x1001810, [(0x10000, 256)], 64, 0x0, 0x0, 0x0, 0x0, 0x0, 0x0, .chip, none, .none⟩,
  ⟨"CACHE_ECC", 0x1001818, [(0x10000, 256)], 32, 0x0, 0x7, 0x0, 0x0, 0x0, 0x0, .chip, none, .reeveWarden⟩,
  ⟨"ENG_STATUS", 0x1002000, [(0x10000, 256), (0x100, 4)], 32, 0x0, 0x0, 0x0, 0x0, 0x0, 0x0, .engine, none, .none⟩,
  ⟨"ENG_CTL", 0x1002008, [(0x10000, 256), (0x100, 4)], 32, 0x1, 0x0, 0x0, 0x0, 0x0, 0x0, .engine, none, .reeveWarden⟩,
  ⟨"ENG_FLAGS", 0x1002010, [(0x10000, 256), (0x100, 4)], 32, 0x0, 0xdf1e, 0x0, 0x0, 0x0, 0x0, .engine, none, .reeveWarden⟩,
  ⟨"ENG_ANCHOR", 0x1002018, [(0x10000, 256), (0x100, 4)], 32, 0x0, 0x0, 0x0, 0x0, 0x0, 0x80008000, .engine, none, .none⟩,
  ⟨"ENG_PATROL", 0x1002020, [(0x10000, 256), (0x100, 4)], 64, 0x0, 0x0, 0x0, 0x0, 0x0, 0x0, .chip, none, .none⟩,
  ⟨"ENG_BUSY", 0x1002028, [(0x10000, 256), (0x100, 4)], 64, 0x0, 0x0, 0x0, 0x0, 0x0, 0x0, .chip, none, .none⟩,
  ⟨"ENG_ROW_COUNT", 0x1002030, [(0x10000, 256), (0x100, 4)], 64, 0x0, 0x0, 0x0, 0x0, 0x0, 0x0, .chip, none, .none⟩,
  ⟨"ENG_SPILLS", 0x1002038, [(0x10000, 256), (0x100, 4)], 32, 0x0, 0x0, 0x0, 0x0, 0x0, 0x0, .chip, none, .none⟩]

def regTable4 : List RegRow := [
  ⟨"ENG_PATROL_WAIT", 0x1002040, [(0x10000, 256), (0x100, 4)], 64, 0x0, 0x0, 0x0, 0x0, 0x0, 0x0, .chip, none, .none⟩,
  ⟨"SFU_STATUS", 0x1003000, [(0x10000, 256)], 32, 0x0, 0x0, 0x0, 0x0, 0x0, 0x0, .chip, none, .none⟩,
  ⟨"SFU_FLAGS", 0x1003008, [(0x10000, 256)], 32, 0x0, 0xbf, 0x0, 0x0, 0x0, 0x0, .chip, none, .reeveWarden⟩,
  ⟨"SFU_ELEMS", 0x1003010, [(0x10000, 256)], 64, 0x0, 0x0, 0x0, 0x0, 0x0, 0x0, .chip, none, .none⟩,
  ⟨"SFU_CYCLES", 0x1003018, [(0x10000, 256)], 64, 0x0, 0x0, 0x0, 0x0, 0x0, 0x0, .chip, none, .none⟩,
  ⟨"SFU_SET_DIR", 0x1003040, [(0x10000, 256), (0x8, 16)], 64, 0x0, 0x0, 0x0, 0x0, 0x0, 0x0, .chip, none, .none⟩,
  ⟨"RSU_STATUS", 0x1003100, [(0x10000, 256)], 32, 0x0, 0x0, 0x0, 0x0, 0x0, 0x0, .chip, none, .none⟩,
  ⟨"RSU_FLAGS", 0x1003108, [(0x10000, 256)], 32, 0x0, 0x7e, 0x0, 0x0, 0x0, 0x0, .chip, none, .reeveWarden⟩,
  ⟨"RSU_ROWS", 0x1003110, [(0x10000, 256)], 64, 0x0, 0x0, 0x0, 0x0, 0x0, 0x0, .chip, none, .none⟩,
  ⟨"RSU_NEG_CLAMPS", 0x1003118, [(0x10000, 256)], 32, 0x0, 0x0, 0x0, 0x0, 0x0, 0x0, .chip, none, .none⟩,
  ⟨"SQ_DB", 0x2000000, [(0x8, 65536)], 64, 0xffffffffffffffff, 0x0, 0x0, 0x0, 0x0, 0x0, .chip, none, .row⟩,
  ⟨"Q_TABLE_BASE", 0x2080000, [], 64, 0xffffffc00000, 0x0, 0x0, 0x0, 0xffffffc00000, 0x0, .chip, none, .any⟩,
  ⟨"Q_CMD", 0x2080008, [], 64, 0x0, 0x0, 0x0, 0x0, 0x0, 0x0, .chip, none, .row⟩,
  ⟨"Q_CMD_STATUS", 0x2080010, [], 32, 0x0, 0x200, 0x0, 0x0, 0x0, 0x0, .chip, none, .any⟩,
  ⟨"Q_SELECT", 0x2080018, [], 32, 0xffff, 0x0, 0x0, 0x0, 0x0, 0x0, .chip, none, .any⟩,
  ⟨"Q_STATE", 0x2080020, [], 64, 0x0, 0x0, 0x0, 0x0, 0x0, 0x0, .chip, none, .none⟩,
  ⟨"Q_COUNTS", 0x2080028, [], 64, 0x0, 0x0, 0x0, 0x0, 0x0, 0x0, .chip, none, .none⟩,
  ⟨"Q_COUNTS2", 0x2080030, [], 64, 0x0, 0x0, 0x0, 0x0, 0x0, 0x0, .chip, none, .none⟩,
  ⟨"Q_ERR", 0x2080038, [], 64, 0x0, 0x0, 0x0, 0x0, 0x0, 0x0, .chip, none, .none⟩,
  ⟨"Q_DB_BAD", 0x2080040, [], 32, 0x0, 0x0, 0x0, 0x0, 0x0, 0x0, .chip, none, .none⟩,
  ⟨"Q_FETCHED", 0x2080048, [(0x8, 4)], 64, 0x0, 0x0, 0x0, 0x0, 0x0, 0x0, .chip, none, .none⟩,
  ⟨"Q_STOPPED_MAP", 0x2090000, [(0x8, 1024)], 64, 0x0, 0xffffffffffffffff, 0x0, 0x0, 0x0, 0x0, .chip, none, .any⟩]

def regTable5 : List RegRow := [
  ⟨"BELL_COUNT", 0x2100000, [], 64, 0x0, 0x0, 0x0, 0x0, 0x0, 0x0, .module, none, .none⟩,
  ⟨"BELL_SUBNS", 0x2100008, [], 32, 0x0, 0x0, 0x0, 0x0, 0x0, 0x0, .module, none, .none⟩,
  ⟨"BELL_CTL", 0x2100010, [], 32, 0x307f, 0x0, 0x0, 0x7f, 0x0, 0x8, .module, some 0x8, .any⟩,
  ⟨"BELL_CTL_LIVE", 0x2100018, [], 32, 0x0, 0x0, 0x0, 0x0, 0x0, 0x8, .module, none, .none⟩,
  ⟨"BELL_SYNC", 0x2100020, [], 32, 0x0, 0x700, 0x0, 0x0, 0x0, 0x0, .module, none, .any⟩,
  ⟨"BELL_OFFSET", 0x2100028, [], 32, 0x0, 0x0, 0x0, 0x0, 0x0, 0x0, .module, none, .none⟩,
  ⟨"BELL_ORIGIN", 0x2100030, [], 64, 0xffffffffffffffff, 0x0, 0x0, 0x0, 0xffffffffffffffff, 0x0, .module, none, .any⟩,
  ⟨"EPOCH_SELECT", 0x2101000, [], 32, 0xffff, 0x0, 0x0, 0x0, 0x0, 0x0, .chip, none, .any⟩,
  ⟨"EPOCH_STATE", 0x2101008, [], 64, 0x0, 0x0, 0x0, 0x0, 0x0, 0xf0000, .chip, none, .none⟩,
  ⟨"EPOCH_TARGET", 0x2101010, [], 64, 0x0, 0x0, 0x0, 0x0, 0x0, 0x0, .chip, none, .none⟩,
  ⟨"EPOCH_NUM01", 0x2101018, [], 64, 0x0, 0x0, 0x0, 0x0, 0x0, 0x0, .chip, none, .none⟩,
  ⟨"EPOCH_NUM2", 0x2101020, [], 32, 0x0, 0x0, 0x0, 0x0, 0x0, 0x0, .chip, none, .none⟩,
  ⟨"EPOCH_PINS", 0x2101028, [], 64, 0x0, 0x0, 0x0, 0x0, 0x0, 0x0, .chip, none, .none⟩,
  ⟨"EPOCH_POSTPONES", 0x2101030, [], 32, 0x0, 0x0, 0x0, 0x0, 0x0, 0x0, .chip, none, .none⟩,
  ⟨"CTX_NEXT", 0x2800000, [(0x80, 98304), (0x8, 16)], 64, 0x0, 0x0, 0x0, 0x0, 0x0, 0x0, .chip, none, .row⟩,
  ⟨"CTX_NOW", 0x3400000, [(0x80, 98304), (0x8, 16)], 64, 0x0, 0x0, 0x0, 0x0, 0x0, 0x0, .chip, none, .none⟩,
  ⟨"SEG_CTL", 0x2110000, [], 32, 0xffff, 0x0, 0x0, 0xffff, 0x0, 0x14, .chip, some 0x8, .any⟩,
  ⟨"SEG_CTL_LIVE", 0x2110008, [], 32, 0x0, 0x0, 0x0, 0x0, 0x0, 0x14, .chip, none, .none⟩,
  ⟨"WALK_DONE", 0x2110010, [(0x8, 4)], 64, 0x0, 0x0, 0x0, 0x0, 0x0, 0x0, .chip, none, .none⟩,
  ⟨"WALK_FAIL", 0x2110030, [(0x8, 4)], 32, 0x0, 0x0, 0x0, 0x0, 0x0, 0x0, .chip, none, .none⟩,
  ⟨"CTX_COUNT", 0x2110050, [], 32, 0x0, 0x0, 0x0, 0x0, 0x0, 0x0, .chip, none, .none⟩,
  ⟨"CTX_SELECT", 0x2110058, [], 32, 0x1ffff, 0x0, 0x0, 0x0, 0x0, 0x0, .chip, none, .any⟩]

def regTable6 : List RegRow := [
  ⟨"CTX_INFO", 0x2110060, [], 64, 0x0, 0x0, 0x0, 0x0, 0x0, 0x0, .chip, none, .none⟩,
  ⟨"CTX_SEGTAB", 0x2110068, [], 64, 0x0, 0x0, 0x0, 0x0, 0x0, 0x0, .chip, none, .none⟩,
  ⟨"PART_CORE", 0x2111000, [(0x40, 16), (0x8, 4)], 64, 0x0, 0x0, 0x0, 0x0, 0x0, 0x0, .chip, none, .none⟩,
  ⟨"PART_ATTR", 0x2111020, [(0x40, 16)], 64, 0x0, 0x0, 0x0, 0x0, 0x0, 0x0, .chip, none, .none⟩,
  ⟨"PART_CAPSA", 0x2111028, [(0x40, 16)], 64, 0x0, 0x0, 0x0, 0x0, 0x0, 0xffffffffffffffff, .chip, none, .none⟩,
  ⟨"PART_CAPSB", 0x2111030, [(0x40, 16)], 64, 0x0, 0x0, 0x0, 0x0, 0x0, 0xffffffffffffffff, .chip, none, .none⟩,
  ⟨"STK_CFG", 0x2120000, [], 32, 0xff001f, 0x0, 0x0, 0xff0000, 0x1f, 0x180008, .chip, some 0x8, .any⟩,
  ⟨"STK_CFG_LIVE", 0x2120008, [], 32, 0x0, 0x0, 0x0, 0x0, 0x0, 0x180008, .chip, none, .none⟩,
  ⟨"STK_STATUS", 0x2120100, [(0x40, 12)], 64, 0x0, 0x0, 0x0, 0x0, 0x0, 0x0, .chip, none, .none⟩,
  ⟨"STK_ECC", 0x2120108, [(0x40, 12)], 64, 0x0, 0xf, 0x0, 0x0, 0x0, 0x0, .chip, none, .any⟩,
  ⟨"STK_ERR_ADDR", 0x2120110, [(0x40, 12)], 64, 0x0, 0x0, 0x0, 0x0, 0x0, 0x0, .chip, none, .none⟩,
  ⟨"DDR_QOS", 0x2120800, [], 32, 0x7f, 0x0, 0x0, 0x7f, 0x0, 0x19, .ddr, some 0x8, .any⟩,
  ⟨"DDR_QOS_LIVE", 0x2120808, [], 32, 0x0, 0x0, 0x0, 0x0, 0x0, 0x19, .ddr, none, .none⟩,
  ⟨"DDR_STATUS", 0x2120810, [], 64, 0x0, 0x0, 0x0, 0x0, 0x0, 0x0, .ddr, none, .none⟩,
  ⟨"CELLAR_STATUS", 0x2121000, [], 64, 0x0, 0x8, 0x0, 0x0, 0x0, 0x4, .module, none, .any⟩,
  ⟨"CELLAR_CTL", 0x2121008, [], 32, 0xffff, 0x0, 0x0, 0xffff, 0x0, 0x504, .module, some 0x8, .any⟩,
  ⟨"CELLAR_CTL_LIVE", 0x2121010, [], 32, 0x0, 0x0, 0x0, 0x0, 0x0, 0x504, .module, none, .none⟩,
  ⟨"CELLAR_BAY", 0x2121040, [(0x8, 8)], 64, 0x0, 0x0, 0x0, 0x0, 0x0, 0x0, .module, none, .none⟩,
  ⟨"CELLAR_VOL", 0x2122000, [(0x10, 256)], 64, 0xffffffff, 0x0, 0x0, 0x0, 0xffffffff, 0x0, .module, none, .any⟩,
  ⟨"CELLAR_APER", 0x2122008, [(0x10, 256)], 64, 0xffffffff, 0x0, 0x0, 0xffffffff, 0x0, 0x0, .module, some 0x10000000, .any⟩,
  ⟨"TALLY_SEL", 0x2130000, [], 32, 0x7ffff, 0x0, 0x0, 0x0, 0x0, 0x0, .chip, none, .any⟩,
  ⟨"TALLY_CMD", 0x2130008, [], 32, 0x0, 0x0, 0x0, 0x0, 0x0, 0x0, .chip, none, .row⟩]

def regTable7 : List RegRow := [
  ⟨"TALLY_STATUS", 0x2130010, [], 32, 0x0, 0x200, 0x0, 0x0, 0x0, 0x0, .chip, none, .any⟩,
  ⟨"TALLY_COUNT_V", 0x2130018, [], 64, 0xffffffffffffffff, 0x0, 0x0, 0x0, 0x0, 0x0, .chip, none, .any⟩,
  ⟨"TALLY_BOUND_V", 0x2130020, [], 64, 0xffffffffffffffff, 0x0, 0x0, 0x0, 0x0, 0x0, .chip, none, .any⟩,
  ⟨"TALLY_ATTR_V", 0x2130028, [], 64, 0xffffffffffffe00f, 0x0, 0x0, 0x0, 0x0, 0x0, .chip, none, .any⟩,
  ⟨"TALLY_SCOPE_V", 0x2130030, [], 64, 0x0, 0x0, 0x0, 0x0, 0x0, 0x7, .chip, none, .none⟩,
  ⟨"TALLY_WIN_ERR", 0x2130038, [], 64, 0x0, 0x8000000000000000, 0x0, 0x0, 0x0, 0x0, .chip, none, .any⟩,
  ⟨"TALLY_OPS", 0x2130040, [(0x8, 5)], 64, 0x0, 0x0, 0x0, 0x0, 0x0, 0x0, .chip, none, .none⟩,
  ⟨"TALLY_WAITERS", 0x2130068, [(0x8, 5)], 32, 0x0, 0x0, 0x0, 0x0, 0x0, 0x0, .chip, none, .none⟩,
  ⟨"TALLY_FAULTS", 0x2130090, [(0x8, 5)], 32, 0x0, 0x0, 0x0, 0x0, 0x0, 0x0, .chip, none, .none⟩,
  ⟨"TW_ADD", 0x2200000, [(0x100000, 4), (0x10, 65536)], 64, 0x0, 0x0, 0x0, 0x0, 0x0, 0x0, .chip, none, .row⟩,
  ⟨"TW_SUB", 0x2200008, [(0x100000, 4), (0x10, 65536)], 64, 0x0, 0x0, 0x0, 0x0, 0x0, 0xffffffffffffffff, .chip, none, .row⟩,
  ⟨"TW_ADD_H", 0x2600000, [(0x10, 16384)], 64, 0x0, 0x0, 0x0, 0x0, 0x0, 0x0, .chip, none, .row⟩,
  ⟨"TW_SUB_H", 0x2600008, [(0x10, 16384)], 64, 0x0, 0x0, 0x0, 0x0, 0x0, 0xffffffffffffffff, .chip, none, .row⟩,
  ⟨"ORD_SVC", 0x2140000, [], 32, 0x0, 0x0, 0x0, 0x0, 0x0, 0x0, .chip, none, .none⟩,
  ⟨"ORD_ERR", 0x2140008, [], 32, 0x0, 0x1ff, 0x0, 0x0, 0x0, 0x0, .chip, none, .any⟩,
  ⟨"ORD_ERR_ADDR", 0x2140010, [], 64, 0x0, 0x0, 0x0, 0x0, 0x0, 0x0, .chip, none, .none⟩,
  ⟨"ORD_ERR_SRC", 0x2140018, [], 32, 0x0, 0x80000000, 0x0, 0x0, 0x0, 0x0, .chip, none, .any⟩,
  ⟨"ORD_IRQ", 0x2140020, [], 32, 0x3ffff, 0x0, 0x0, 0x0, 0x0, 0x10000, .chip, none, .any⟩,
  ⟨"ORD_ERR_COUNT", 0x2140028, [], 32, 0x0, 0x0, 0x0, 0x0, 0x0, 0x0, .chip, none, .none⟩,
  ⟨"HC_STATUS", 0x2150000, [], 32, 0x0, 0x0, 0x0, 0x0, 0x0, 0x0, .module, none, .none⟩,
  ⟨"HC_CTL", 0x2150008, [], 32, 0x0, 0x0, 0x1, 0x0, 0x0, 0x0, .host, none, .any⟩,
  ⟨"HC_RESET_INFO", 0x2150010, [], 64, 0x0, 0x0, 0x0, 0x0, 0x0, 0x0, .module, none, .none⟩]

def regTable8 : List RegRow := [
  ⟨"HC_IRQ_DROP", 0x2150018, [], 32, 0x0, 0x0, 0x0, 0x0, 0x0, 0x0, .module, none, .none⟩,
  ⟨"HC_L3_WAYMASK", 0x2150040, [(0x8, 16)], 32, 0xffffff, 0x0, 0x0, 0x0, 0x0, 0xffffff, .host, none, .any⟩,
  ⟨"MAGPIE_CTL", 0x21500c0, [], 32, 0x3303ff, 0x0, 0x0, 0x0, 0x0, 0x20010, .host, none, .any⟩,
  ⟨"MAGPIE_NEAR", 0x21500c8, [], 64, 0x0, 0x0, 0x0, 0x0, 0x0, 0x0, .host, none, .none⟩,
  ⟨"MAGPIE_FAR", 0x21500d0, [], 64, 0x0, 0x0, 0x0, 0x0, 0x0, 0x0, .host, none, .none⟩,
  ⟨"DIR_BACKINV", 0x21500d8, [], 64, 0x0, 0x0, 0x0, 0x0, 0x0, 0x0, .host, none, .none⟩,
  ⟨"WB_DISCARDS", 0x21500e0, [], 64, 0x0, 0x0, 0x0, 0x0, 0x0, 0x0, .host, none, .none⟩,
  ⟨"KEEP", 0x2150100, [(0x8, 8)], 64, 0x8007ffff0003ffff, 0x0, 0x0, 0x0, 0x0, 0x0, .module, none, .wardenMachine⟩,
  ⟨"KEEP_STATUS", 0x2150140, [], 32, 0x0, 0x100, 0x0, 0x0, 0x0, 0x0, .module, none, .any⟩,
  ⟨"FAB_PORT_STATUS", 0x2160000, [(0x100, 8)], 64, 0x0, 0x0, 0x0, 0x0, 0x0, 0x0, .port, none, .none⟩,
  ⟨"FAB_PORT_CTL", 0x2160008, [(0x100, 8)], 32, 0x31, 0x0, 0x0, 0x0, 0x30, 0x31, .port, none, .any⟩,
  ⟨"FAB_PORT_PEER", 0x2160010, [(0x100, 8)], 64, 0x0, 0x0, 0x0, 0x0, 0x0, 0x0, .port, none, .none⟩,
  ⟨"FAB_PORT_FEC", 0x2160018, [(0x100, 8)], 64, 0x0, 0x0, 0x0, 0x0, 0x0, 0x0, .port, none, .none⟩,
  ⟨"FAB_PORT_RETRY", 0x2160020, [(0x100, 8)], 64, 0x0, 0x0, 0x0, 0x0, 0x0, 0x0, .port, none, .none⟩,
  ⟨"FAB_ID", 0x2161000, [], 64, 0xffff0000ffff, 0x0, 0x0, 0x0, 0xffff0000ffff, 0x0, .module, none, .any⟩,
  ⟨"FAB_CFG", 0x2161008, [], 32, 0xffff01ff, 0x0, 0x0, 0xffff01ff, 0x0, 0xc80108, .module, some 0x8, .any⟩,
  ⟨"FAB_CFG_LIVE", 0x2161010, [], 32, 0x0, 0x0, 0x0, 0x0, 0x0, 0xc80108, .module, none, .none⟩,
  ⟨"FAB_STATUS", 0x2161018, [], 64, 0x0, 0x1c, 0x0, 0x0, 0x0, 0x0, .module, none, .any⟩,
  ⟨"FAB_LOST", 0x2161020, [], 32, 0x0, 0x0, 0x0, 0x0, 0x0, 0x0, .module, none, .none⟩,
  ⟨"FAB_TTL_DROPS", 0x2161028, [], 32, 0x0, 0x0, 0x0, 0x0, 0x0, 0x0, .module, none, .none⟩,
  ⟨"FAB_COMBINED", 0x2161030, [], 64, 0x0, 0x0, 0x0, 0x0, 0x0, 0x0, .module, none, .none⟩,
  ⟨"FAB_E2E_RETX", 0x2161038, [], 64, 0x0, 0x0, 0x0, 0x0, 0x0, 0x0, .module, none, .none⟩]

def regTable9 : List RegRow := [
  ⟨"FAB_ROUTE_SEL", 0x2161040, [], 32, 0xffff, 0x0, 0x0, 0x0, 0x0, 0x0, .module, none, .any⟩,
  ⟨"FAB_ROUTE_DATA", 0x2161048, [], 64, 0x0, 0x0, 0x0, 0x0, 0x0, 0x0, .module, none, .row⟩,
  ⟨"FAB_ROUTE", 0x2180000, [(0x8, 32768)], 64, 0xc00000ffff0000f7, 0x2000000000000000, 0x0, 0x0, 0x0, 0x0, .module, none, .any⟩,
  ⟨"FAB_ROUTE_HI", 0x21e0000, [(0x8, 16384)], 64, 0xc00000ffff0000f7, 0x2000000000000000, 0x0, 0x0, 0x0, 0x0, .module, none, .any⟩,
  ⟨"DL_LINK_STATUS", 0x21c0000, [(0x10, 44)], 64, 0x0, 0x0, 0x0, 0x0, 0x0, 0x0, .chip, none, .none⟩,
  ⟨"DL_LINK_ERR", 0x21c0008, [(0x10, 44)], 64, 0x0, 0x0, 0x0, 0x0, 0x0, 0x0, .chip, none, .none⟩,
  ⟨"GUEST_STATUS", 0x21c1000, [(0x100, 2)], 64, 0x0, 0x0, 0x0, 0x0, 0x0, 0x0, .guest, none, .none⟩,
  ⟨"GUEST_CTL", 0x21c1008, [(0x100, 2)], 32, 0x3, 0x0, 0x0, 0x0, 0x2, 0x1, .guest, some 0x8, .any⟩,
  ⟨"GUEST_CTL_LIVE", 0x21c1010, [(0x100, 2)], 32, 0x0, 0x0, 0x0, 0x0, 0x0, 0x1, .guest, none, .none⟩,
  ⟨"GUEST_BIND", 0x21c1018, [(0x100, 2)], 64, 0x1ffff0000000f, 0x0, 0x0, 0x0, 0x1ffff0000000f, 0x0, .guest, none, .any⟩,
  ⟨"GUEST_CAP", 0x21c1020, [(0x100, 2), (0x8, 4)], 64, 0x0, 0x0, 0x0, 0x0, 0x0, 0x0, .guest, none, .none⟩,
  ⟨"GUEST_ERR", 0x21c1040, [(0x100, 2)], 64, 0x0, 0x8000000000000000, 0x0, 0x0, 0x0, 0x0, .guest, none, .any⟩,
  ⟨"PWR_CAP", 0x21d0000, [], 32, 0x1ff1fff, 0x0, 0x0, 0x0, 0x0, 0x640e10, .module, none, .any⟩,
  ⟨"PWR_MODE", 0x21d0008, [], 32, 0xffff0003, 0x0, 0x0, 0xffff0003, 0x0, 0x320000, .module, some 0x8, .any⟩,
  ⟨"PWR_MODE_LIVE", 0x21d0010, [], 32, 0x0, 0x0, 0x0, 0x0, 0x0, 0x320000, .module, none, .none⟩,
  ⟨"PWR_STATUS", 0x21d0018, [], 64, 0x0, 0xc, 0x0, 0x0, 0x0, 0x0, .module, none, .any⟩,
  ⟨"PWR_INPUT", 0x21d0020, [], 64, 0x0, 0x0, 0x0, 0x0, 0x0, 0x0, .warden, none, .none⟩,
  ⟨"PWR_PEAK", 0x21d0028, [], 32, 0x0, 0x0, 0x0, 0x0, 0x0, 0x0, .warden, none, .none⟩,
  ⟨"PWR_ENERGY", 0x21d0040, [(0x8, 12)], 64, 0x0, 0x0, 0x0, 0x0, 0x0, 0x0, .warden, none, .none⟩,
  ⟨"RAMP_CTL", 0x21d0100, [], 32, 0x7f, 0x0, 0x0, 0x7f, 0x0, 0x4, .chip, some 0x8, .any⟩,
  ⟨"RAMP_CTL_LIVE", 0x21d0108, [], 32, 0x0, 0x0, 0x0, 0x0, 0x0, 0x4, .chip, none, .none⟩,
  ⟨"RAMP_WAITS", 0x21d0110, [(0x8, 4)], 64, 0x0, 0x0, 0x0, 0x0, 0x0, 0x0, .chip, none, .none⟩]

def regTable10 : List RegRow := [
  ⟨"THERM_CTL", 0x21d0200, [], 32, 0xffff, 0x0, 0x0, 0x0, 0x0, 0x145f, .module, none, .any⟩,
  ⟨"THERM_IRQ", 0x21d0208, [], 32, 0x3ffff, 0x0, 0x0, 0x0, 0x0, 0x10000, .module, none, .any⟩,
  ⟨"THERM_STATUS", 0x21d0210, [], 64, 0x0, 0x8000000000060000, 0x0, 0x0, 0x0, 0x0, .warden, none, .any⟩,
  ⟨"COOL_STATUS", 0x21d0218, [], 64, 0x0, 0x0, 0x0, 0x0, 0x0, 0x0, .warden, none, .none⟩,
  ⟨"ISL_SEL", 0x21d0300, [], 32, 0x1ff, 0x0, 0x0, 0x0, 0x0, 0x0, .module, none, .any⟩,
  ⟨"ISL_INFO", 0x21d0308, [], 64, 0x0, 0x0, 0x0, 0x0, 0x0, 0x0, .module, none, .none⟩,
  ⟨"STILE_FENCES", 0x21d0310, [], 32, 0x0, 0x0, 0x0, 0x0, 0x0, 0x0, .module, none, .none⟩,
  ⟨"VF_POINT", 0x21d0320, [(0x8, 8)], 64, 0x0, 0x0, 0x0, 0x0, 0x0, 0x0, .module, none, .none⟩]

/-- Every register of the control window. -/
def regTable : List RegRow :=
  regTable0 ++ regTable1 ++ regTable2 ++ regTable3 ++ regTable4 ++ regTable5 ++ regTable6 ++ regTable7 ++ regTable8 ++ regTable9 ++ regTable10

/-- Does an offset fall on an element of an array: which index in each dimension? -/
def dimIndex : List (Nat × Nat) → Nat → Option (List Nat)
  | [], d => if d = 0 then some [] else none
  | (stride, count) :: rest, d =>
    let i := d / stride
    if i < count then (dimIndex rest (d % stride)).map (i :: ·) else none

/-- The index of a register within its row. -/
def RegRow.index (r : RegRow) (off : Nat) : Option (List Nat) :=
  if off < r.base then none else dimIndex r.dims (off - r.base)

/-- The row an offset belongs to (R631); none for a reserved offset. -/
def regRow (off : Nat) : Option RegRow := regTable.find? fun r => (r.index off).isSome

end Sys2Proof
end

