-- ==== Sys2Proof/Machine/PartsChip.lean ====
section
/-! DEFINITION. The chip's own pieces of state (chapters 03 to 14): queues and their commands, contexts and
partitions, allotments and the bell, tallies, cores with their engines, programs and epochs, memory tiers. Plain data;
State.lean gathers them. -/

namespace Sys2Proof.Machine

open Sys2Proof

/-! ### Queues (chapter 08) -/

/-- Table 08-11a. -/
inductive QState where
  | disabled | enabled | stopped | draining
  deriving DecidableEq, Repr

/-- The queue descriptor the module keeps (Table 08-2, R236). -/
structure QDesc where
  sqBase : Nat
  cqBase : Nat
  wbAddr : Nat
  sqLog2 : Nat
  cqLog2 : Nat
  program : Bool
  stopOnFail : Bool
  admin : Bool
  acceptV2 : Bool
  acceptV3 : Bool
  cqV2 : Bool
  /-- Targets of SQ_BASE, CQ_BASE, WB_ADDR: 0 local, 1 port A, 2 port B. -/
  sqTarget : Nat
  cqTarget : Nat
  wbTarget : Nat
  partition : Nat
  homeDie : Nat
  weight : Nat
  inflightMax : Nat
  sqStart : Nat
  cqStart : Nat
  irqVector : Nat
  irqKind : Nat
  errVector : Nat
  holdoff : Nat
  deriving DecidableEq, Repr

/-- One queue pair. -/
structure Queue where
  state : QState
  desc : QDesc
  p : BitVec 32
  f : BitVec 32
  w : BitVec 32
  cc : BitVec 32
  /-- Q_STATE.RETRIES. -/
  retries : Nat
  /-- The retry attempts made for packet F, while it is being retried (R250). -/
  retrying : Option Nat
  homeLive : Nat
  /-- Records held after a CQ_WRITE stop (R259): 128 bits each, and bit 128 the packet's IRQ flag. -/
  held : List Nat
  errCause : Nat
  errValue : Nat
  /-- Failing records since the previous QUEUE_MARK or ENABLE (R275). -/
  markFails : Nat
  /-- A holdoff interval is running; does a record wait for its end (R256)? -/
  holdoffOn : Bool
  irqWaiting : Bool
  /-- Writes to a lost external host are dropped until restart (R515). -/
  hostLost : Bool
  /-- The last doorbell value accepted (R239). -/
  doorbell : BitVec 64
  /-- DISABLE after a CQ_WRITE stop: later records are discarded (R259). -/
  discard : Bool
  deriving DecidableEq, Repr

def QDesc.zero : QDesc :=
  ⟨0, 0, 0, 0, 0, false, false, false, false, false, false, 0, 0, 0, 0, 0, 0, 0, 0, 0, 0, 0, 0, 0⟩

def Queue.reset : Queue :=
  ⟨.disabled, QDesc.zero, 0, 0, 0, 0, 0, none, 0, [], 0, 0, 0, false, false, false, 0, false⟩

/-- A cached segment descriptor: key (tag × 16 + segment) and its 32 bytes as a number (R346, R347). -/
structure CachedDesc where
  key : Nat
  desc : Nat
  deriving DecidableEq, Repr

/-- One thing that a command at work has had from the machine: a failure, a number, or a tile it has checked and read.
The model's own: a command that parks between units of work keeps these, and so resumes where it stopped (R175, R273). -/
structure Heard where
  fail : Option (Nat × Nat)
  num : Nat
  tile : Option (Fmt × Tile)
  deriving DecidableEq, Repr

/-- A command fetched and not yet completed. -/
structure Cmd where
  ref : CmdRef
  irq : Bool
  barrier : Bool
  /-- The decoded command; none for a packet consumed by a failed check. -/
  instr : Option Instr
  /-- The service state at fetch, which rules it until it completes (R424). -/
  svc : Nat
  /-- The core of R268, or of R422. -/
  core : Nat
  fetchBell : Nat
  started : Bool
  /-- Status code and detail, with the bell, SUBNS and nanoseconds at which they were settled. -/
  result : Option (Nat × Nat × Nat × Nat × Nat)
  /-- What a parked command has had so far, oldest first, and the descriptors it has resolved (R297). -/
  heard : List Heard
  descs : List CachedDesc
  deriving DecidableEq, Repr

/-! ### Contexts and partitions (chapters 10, 11) -/

/-- Table 11-1. -/
inductive CtxState where
  | free | active | aborting | destroying
  deriving DecidableEq, Repr

/-- One allotment class of a context (R315, R317). `base` is in granules; the effective allotment, the pool, the debt, the
pool at the last edge and the local balances per core are in the unit charged (engine cycles for engine time, granules
otherwise). -/
structure Budget where
  base : Nat
  eff : Nat
  pool : Nat
  owed : Nat
  start : Nat
  locals : Assoc Int
  /-- What each core's balance was at the last edge, until the core applies the edge's reset (R317). -/
  stale : Assoc Int
  deriving DecidableEq, Repr

def Budget.zero : Budget := ⟨0, 0, 0, 0, 0, [], []⟩

structure Ctx where
  state : CtxState
  part : Nat
  segTable : Nat
  stranded : Bool
  engine : Budget
  stack : Budget
  fabric : Budget
  host : Budget
  carry : Bool
  /-- The cores the context is parked on, per class bit: core × 4 + class. -/
  parked : List Nat
  /-- PARKED bits of the period in progress. -/
  parkedBits : Nat
  /-- The now page and the next page, 128 bytes each, as numbers (R319). -/
  now : Nat
  next : Nat
  deriving DecidableEq, Repr

def Ctx.free : Ctx :=
  ⟨.free, 0, 0, false, .zero, .zero, .zero, .zero, false, [], 0, 0, 0⟩

/-- A tally grant (R354). -/
structure Grant where
  die : Nat
  first : Nat
  count : Nat
  deriving DecidableEq, Repr

/-- The attributes of a partition (R350, Table 11-6). -/
structure Part where
  /-- 256-bit map of logical cores. -/
  cores : Nat
  capEngine : Nat
  capStack : Nat
  capFabric : Nat
  capHost : Nat
  priority : Nat
  keyStack : Bool
  keyDdr : Bool
  keySlot : Nat
  strict : Bool
  vecBase : Nat
  vecCount : Nat
  irqKind : Nat
  /-- 256-bit map of cellar volumes. -/
  volumes : Nat
  grants : List Grant
  tierTmo : Nat
  tierTmo2 : Nat
  deriving DecidableEq, Repr

/-- What a PART_SET or an ALLOT_SET leaves waiting for the bell (R298, R299, R665). -/
inductive Staged where
  | cores (map : Nat)
  | caps (e s f h priority : Nat)
  | mode (strict : Bool)
  | timeouts (t t2 : Nat)
  | vectors (base count kind : Nat)
  | volumes (map : Nat)
  | grant (g : Grant)
  | revoke (die first : Nat)
  /-- A TALLIES command that its checks at fetch refuse: its status and detail at the bell (R665). -/
  | refused (code detail : Nat)
  | allot (p : AllotP)
  /-- A set load completes at the first bell after every target core holds the set (R143). -/
  | setLoad (id : Nat)
  /-- A set unload completes when the last command using the set ends (R144). -/
  | setUnload (id : Nat)
  /-- A SEG_SET or SEG_INVALIDATE completes when no run holds a descriptor of these keys (R297). -/
  | descWait (lo hi : Nat)
  deriving DecidableEq, Repr

/-- A staged item: the partition (or context, for an allotment) and the command that completes at the bell. -/
structure StagedItem where
  target : Nat
  item : Staged
  cmd : CmdRef
  deriving DecidableEq, Repr

/-- A segment walk in flight (R348). -/
structure Walk where
  key : Nat
  die : Nat
  stale : Bool
  waiters : List CmdRef
  deriving DecidableEq, Repr

/-! ### Tallies (chapter 13) -/

/-- An instance of a scope level (R403): level and identifier. -/
inductive ScopeRec where
  | noRec
  | level (l : Nat) (inst : Nat)
  | disjoint
  deriving DecidableEq, Repr

structure Tally where
  count : BitVec 64
  bound : BitVec 64
  attr : BitVec 64
  scope : ScopeRec
  deriving DecidableEq, Repr

def Tally.reset : Tally := ⟨0, 0xFFFFFFFFFFFFFFFF, 0, .noRec⟩

/-- A registered waiter, in registration order (R395). `held` is one that waits at its core because the unit was full.
A step's wait on a ring counter is held at its core: the dispatcher reads the counter when it picks steps. -/
structure Waiter where
  die : Nat
  index : Nat
  take : Bool
  n : Nat
  core : Nat
  owner : CmdRef
  held : Bool
  deriving DecidableEq, Repr

/-! ### Cores and engines (chapters 03, 05, 06) -/

/-- Table 03-10. -/
inductive EngState where
  | idle | busy | patrol | reset | fenced | off | retired
  deriving DecidableEq, Repr

/-- Half of an accumulator file (R74): 2,048 accumulators. -/
structure Half where
  live : Bool
  ovf : Bool
  trunc : Bool
  anchor : BitVec 16
  accs : Assoc Acc
  deriving DecidableEq, Repr

def Half.reset : Half := ⟨false, false, false, 0x8000, []⟩

/-- The chain an engine serves or a spill holds: a step of a run, or a command's own chain (then `handle`, `run` and `step`
are 0, and no program has handle 0), its output block of `m` rows and `n` columns, the next of its `kt` steps, and how many
output tiles have drained. -/
structure Chain where
  cmd : Option CmdRef
  handle : Nat
  run : Nat
  step : Nat
  block : Nat
  k : Nat
  kt : Nat
  m : Nat
  n : Nat
  drained : Nat
  deriving DecidableEq, Repr

/-- What is in flight on an engine: the chain step or whole step, its context and its cycles. -/
structure Flight where
  handle : Nat
  run : Nat
  step : Nat
  ctx : Nat
  cycles : Nat
  deriving DecidableEq, Repr

/-- A tile that an engine holds: which tile it is (whose, and its number), and its checked content. -/
structure HeldTile where
  id : List Nat
  fmt : Fmt
  tile : Tile
  deriving DecidableEq, Repr

/-- One engine (Table 03-1). -/
structure Engine where
  state : EngState
  h0 : Half
  h1 : Half
  chain : Option Chain
  flight : Option Flight
  /-- The weight tiles in the array, those checked into the shadow, and the buffered activation tiles (R70, R71). -/
  held : List HeldTile
  shadow : List HeldTile
  buffers : List HeldTile
  /-- V0–V31, 64 lanes of 64 bits each as one number, and P0–P7. -/
  vregs : Assoc Nat
  pregs : Assoc Nat
  /-- A patrol was asked for (ENG_CTL.PATROL_NOW) or fell due. -/
  patrolDue : Bool
  /-- ENG_CTL.SPILL_NOW waits for the step boundary. -/
  spillDue : Bool
  /-- A command that waits on the patrol (SELFTEST). -/
  patrolFor : Option CmdRef
  /-- When its chain's last step ended, by the counter of draws: which chain has waited longest (R172). -/
  since : Nat
  deriving DecidableEq, Repr

def Engine.reset : Engine := ⟨.idle, .reset, .reset, none, none, [], [], [], [], [], false, false, none, 0⟩

/-- A spilled chain with its halves, and the engine that spilled it (R77, R97). -/
structure Spilled where
  chain : Chain
  h0 : Half
  h1 : Half
  ctx : Nat
  engine : Nat
  deriving DecidableEq, Repr

/-- An error that has struck and that no access has found yet (R147, R191, R371): in the memories of a set, in the tag or in the
data of a line of a core's cache, or in the next transfer of a tile to a stack and, for some, in its resend too. -/
inductive Upset where
  | set (core id : Nat)
  | tag (core line : Nat)
  | data (core line : Nat)
  | transfer (stack : Nat) (again : Bool)
  deriving DecidableEq, Repr

/-- Table 06-3. -/
inductive CoreState where
  | idle | running | parked | turningOff | off | waking | fenced | mappingIn | unassigned
  deriving DecidableEq, Repr

/-- A special-function set held by a core (R142 to R146). -/
structure LoadedSet where
  set : FSet
  firstSlot : Nat
  /-- The core holds its verified copy. -/
  held : Bool
  /-- Usable: a bell has passed since every target core held it (R143), and which bell. -/
  valid : Bool
  since : Nat
  unloading : Bool
  /-- Its core has left the partition; it goes once nothing there uses it (R146). -/
  leaving : Bool
  deriving DecidableEq, Repr

/-- Per-row error record of a larder or stack bank (R182, R369). -/
structure RowErr where
  /-- When corrected errors of the last 24 hours were recorded, in order. -/
  times : List Nat
  uncorr : Nat
  /-- Poisonings after the bank's spares were used up (Table 20-9). -/
  after : Nat
  deriving DecidableEq, Repr

def RowErr.zero : RowErr := ⟨[], 0, 0⟩

/-- A spare being mapped in for a core (R571): the spare, what the core is retired for, and whether the outgoing larder
can be read. -/
structure Mapping where
  phys : Nat
  trigger : Nat
  engine : Nat
  section_ : Nat
  copy : Bool
  deriving DecidableEq, Repr

/-- One logical core (Table 06-1). -/
structure Core where
  state : CoreState
  /-- The physical core that carries the number, and whether it is a spare. -/
  phys : Nat
  fromSpare : Bool
  e0 : Engine
  e1 : Engine
  e2 : Engine
  e3 : Engine
  /-- Contexts resident in the dispatcher (R171). -/
  resident : List Nat
  spilled : List Spilled
  segCache : List CachedDesc
  sets : List LoadedSet
  /-- The partition's sets are being loaded into the core, which has joined it (R146). -/
  joining : Bool
  /-- The sets being reloaded after a memory error (R147). -/
  reload : List Nat
  /-- OFF: did the handshake complete before a fence (R196)? Is the larder array awake (R195)? -/
  wasOff : Bool
  larderAwake : Bool
  /-- Stages 2 to 4 of the turn-off handshake are done, and stage 5 runs (R193); a fence or a mapping found the core in the
  handshake and owes it those stages (R198). -/
  offStage : Bool
  offOwed : Bool
  /-- A turn-off or a wake that waits (Table 06-4). -/
  offPending : Bool
  wakePending : Bool
  /-- A patrol that a SELFTEST asked for has failed. -/
  testFailed : Bool
  mapping : Option Mapping
  rowErrs : Assoc RowErr
  /-- Spare rows used, per bank. -/
  spareRows : Assoc Nat
  /-- Ramp progress in stages: rising, falling (R538); waiting for a place in the window (R540). -/
  rampUp : Option Nat
  rampDown : Option Nat
  rampWait : Bool
  deriving DecidableEq, Repr

def Core.reset (phys : Nat) : Core :=
  ⟨.idle, phys, false, .reset, .reset, .reset, .reset, [], [], [], [], false, [], false, false, false, false, false, false,
   false, none, [], [], none, none, false⟩

/-! ### Programs and epochs (chapters 07, 10) -/

/-- Table 10-4. -/
inductive SlotState where
  | empty | staging | staged | pending | current | former
  deriving DecidableEq, Repr

/-- One epoch slot of a handle (R322). `pins` counts pins per context. -/
structure Slot where
  state : SlotState
  epoch : Nat
  src : Option (Nat × Tref)
  pins : Assoc Nat
  deriving DecidableEq, Repr

def Slot.empty : Slot := ⟨.empty, 0, none, []⟩

/-- A commit in progress (R326, R327). -/
structure Commit where
  slot : Nat
  target : Nat
  wanted : Nat
  prev : SlotState
  /-- This module coordinates a parish commit; which modules still owe a vote; has DECIDE been sent or received? -/
  parish : Bool
  coordinator : Nat
  waiting : List Nat
  decided : Bool
  epoch : Nat
  cmd : Option CmdRef
  deriving DecidableEq, Repr

/-- A tensor entry of a program image (Table 07-19). -/
structure Tensor where
  fmt : Fmt
  role : Nat
  placement : Nat
  layout : Bool
  tiles : Nat
  rows : Nat
  cols : Nat
  home : Tref
  gridCols : Nat
  deriving DecidableEq, Repr

/-- A step entry of a program image (Table 07-20), with the logical core it was placed on. -/
structure PStep where
  op : Nat
  /-- The image's CORE field. -/
  mapIx : Nat
  core : Nat
  operation : Nat
  ctrl : Nat
  fmtOut : Nat
  a : Nat
  b : Nat
  c : Nat
  d : Nat
  firstA : Nat
  firstB : Nat
  firstC : Nat
  firstD : Nat
  dim0 : Nat
  dim1 : Nat
  dim2 : Nat
  subop : Nat
  set : Nat
  vfmt : Nat
  vctrl : Nat
  anchor : Nat
  eps : Nat
  seedScalar : Nat
  deriving DecidableEq, Repr

/-- A stream (Table 07-21, R214): ring slots at the consumer and its two counters. -/
structure Stream where
  producer : Nat
  consumer : Nat
  tensor : Nat
  /-- The depth the image declares, and the depth of the ring. -/
  declared : Nat
  depth : Nat
  /-- 0 within this module; else the consumer's module, or, for a stream that enters this module (`inbound`), the producer's
  (R217). -/
  peer : Nat
  inbound : Bool
  /-- Ring slots in the consumer's larder; none for a stream to another module. -/
  ring : List Nat
  pDie : Nat
  pIndex : Nat
  cDie : Nat
  cIndex : Nat
  /-- Count of the last tile a completed run produced (R223). -/
  settled : Nat
  deriving DecidableEq, Repr

/-- Where placement pinned a tensor tile: tensor, tile, epoch slot (3 for a weight), core, larder slot. -/
structure Pin where
  tensor : Nat
  tile : Nat
  epochSlot : Nat
  core : Nat
  slot : Nat
  deriving DecidableEq, Repr

/-- A staged input: the step, its operand, the tile relative to FIRST, and the larder slot (R221). -/
structure StagedIn where
  step : Nat
  operand : Nat
  tile : Nat
  slot : Nat
  deriving DecidableEq, Repr

/-- An add of a step that is due: to a counter of a module (0: this one), by how many, with the other counter of its pair, the
release's level and the core (R215, R423). -/
structure OwedAdd where
  peer : Nat
  die : Nat
  index : Nat
  n : Nat
  otherDie : Nat
  otherIndex : Nat
  level : Nat
  core : Nat
  deriving DecidableEq, Repr

/-- A run of a program (R218). -/
structure Run where
  id : Nat
  ctx : Nat
  slot : Nat
  args : List Tref
  cmd : CmdRef
  /-- The copy of the now page the run took (R321). -/
  page : Nat
  /-- The descriptors it resolved, which serve it until it ends (R297). -/
  descs : List CachedDesc
  /-- How many units of work each step has done; the inputs in staging slots; the steps that have ended. -/
  progress : Assoc Nat
  staged : List StagedIn
  done : List Nat
  /-- Staged inputs that have been paid for: step, operand, tile (R272). -/
  paid : List (Nat × Nat × Nat)
  /-- When a step became ready, by the counter of draws (R172). -/
  readyAt : Assoc Nat
  /-- Tiles produced on each stream, by the stream's number; on local output streams by 2^40 plus theirs; adds sent to another
  module by 2^32 plus the stream's. -/
  made : Assoc Nat
  /-- Adds of its steps that wait for the writes of its context (R423). -/
  owed : List OwedAdd
  trunc : Bool
  /-- The first failure: status code and detail (R223). -/
  failed : Option (Nat × Nat)
  deriving DecidableEq, Repr

/-- A placed program. -/
structure Program where
  ctx : Nat
  part : Nat
  img : Bref
  len : Nat
  runnable : Bool
  /-- The STEP_LOAD that is still filling the pins (R206 phase 5). -/
  loading : Option CmdRef
  unloading : Option CmdRef
  mapMode : Bool
  tuneMask : Nat
  sets : List Nat
  tensors : List Tensor
  steps : List PStep
  streams : List Stream
  argTensors : List Nat
  pins : List Pin
  /-- The local output stream of each step whose output other cores or modules read (R215): its producer is the step, its
  consumer the copy unit. -/
  locals : List Stream
  /-- The staging slots of each core that fetches inputs, as a stream of the copy unit (R221): its producer and consumer are the
  core's number. -/
  staging : List Stream
  s0 : Slot
  s1 : Slot
  s2 : Slot
  commit : Option Commit
  runs : List Run
  nextRun : Nat
  /-- Anchor words of the operations (R212): operation × 2^32 + run → anchor pattern. -/
  anchors : Assoc Nat
  /-- A re-placement whose fill has parked (R208, R229): what it has had so far. -/
  refill : Option (List Heard)
  deriving DecidableEq, Repr

/-! ### Memory tiers (chapter 12) -/

/-- A stack's base die. -/
structure Stack where
  /-- Channel numbers that the spares have taken; those that failed; those whose copy to a free spare is in progress. -/
  spares : List Nat
  failed : List Nat
  sparing : List Nat
  /-- Corrected sectors per channel within 24 hours, and the rows of each channel with uncorrectable errors: channel, row
  (R368). -/
  chErrs : Assoc RowErr
  badRows : List (Nat × Nat)
  /-- Errors per row, and spare rows used per channel (R369). A row is known by its first sector. -/
  rowErrs : Assoc RowErr
  spareRows : Assoc Nat
  /-- Sectors of failed channels that a whole-sector write has restored (R370), by sector number. -/
  rewritten : List Nat
  deriving DecidableEq, Repr

def Stack.reset : Stack := ⟨[], [], [], [], [], [], [], []⟩

/-- A cellar volume's write that is acknowledged and waits in the write buffer (R382): volume, byte, value. -/
structure BufWrite where
  volume : Nat
  tile : Nat
  deriving DecidableEq, Repr

end Sys2Proof.Machine
end

