-- ==== Sys2Proof/Machine/PartsModule.lean ====
section
/-! DEFINITION. The module's other pieces of state (chapters 15 to 25): the coherence domain, the fabric, guest sites,
external ports, power and heat, faults and repair, boot and trust, the service face and management. Plain data;
State.lean gathers them. What a register's field holds and nothing else needs is kept in the register map. -/

namespace Sys2Proof.Machine

open Sys2Proof

/-! ### The coherence domain (chapter 15) -/

/-- A private cache's line states (R449). -/
inductive LState where
  | m | o | e | s | i
  deriving DecidableEq, Repr

/-- A line in a private cache: its state, its 64 bytes as a number (plus 2^512 where they are poisoned, R180), whether
it had a hit (R446), and its way in a core cache (R184). -/
structure PLine where
  state : LState
  data : Nat
  hit : Bool
  way : Nat
  deriving DecidableEq, Repr

def PLine.none : PLine := ⟨.i, 0, false, 0⟩

/-- A write-back buffer entry (R451, R454): the line, its state before the eviction, and whether a snoop was answered
from it. -/
structure WbLine where
  line : Nat
  was : LState
  data : Nat
  hit : Bool
  snooped : Bool
  deriving DecidableEq, Repr

/-- Requests of Table 15-5. -/
inductive ReqKind where
  | readShared | readUnique | upgrade | zeroUnique
  | atomic (r : AtomicReq)
  | clean | flush | inval
  /-- A write-back or offer, which waits for a busy line among the requests. -/
  | wb
  deriving DecidableEq, Repr

/-- A private cache: lines by line number (address / 64), the outstanding miss, the write-back buffer, and the
tree pseudo-LRU bits per set of a core cache (R186, R187). -/
structure PCache where
  lines : Assoc PLine
  miss : Option Nat
  wb : List WbLine
  plru : Assoc Nat
  /-- Accesses of a core cache that wait until its one miss has filled (R187): address and kind. -/
  waits : List (Nat × ReqKind)
  deriving DecidableEq, Repr

def PCache.empty : PCache := ⟨[], none, [], [], []⟩

/-- A directory entry (R449). `coarse` is the 49-bit vector used beyond four sharers. -/
structure DirEntry where
  state : LState
  owner : Nat
  sharers : List Nat
  coarse : Option Nat
  lastAgent : Nat
  lastTime : Nat
  /-- Is the entry allocated, and the stamp of its last use (R453)? -/
  present : Bool
  stamp : Nat
  deriving DecidableEq, Repr

def DirEntry.none : DirEntry := ⟨.i, 0, [], Option.none, 0, 0, false, 0⟩

/-- An L3 line: its way, data, and the stamp of its last use (R445). -/
structure L3Line where
  way : Nat
  data : Nat
  dirty : Bool
  stamp : Nat
  deriving DecidableEq, Repr

/-- A line that is busy at its home (R450): the request being served, the state to grant and the data to send, the
snoops whose responses are still awaited, and whether the data has reached the requester. -/
structure Busy where
  line : Nat
  addr : Nat
  agent : Nat
  kind : ReqKind
  grant : LState
  data : Option Nat
  snoops : List Nat
  delivered : Bool
  /-- Dirty data has been collected. -/
  dirty : Bool
  deriving DecidableEq, Repr

/-- A snoop or response on its way: snoops carry the holder, responses what it had. -/
structure SnoopMsg where
  line : Nat
  holder : Nat
  shared : Bool
  inval : Bool
  /-- After the holder answered: was data sent, was it dirty, what state was left? -/
  answered : Option (Option Nat × Bool × LState)
  deriving DecidableEq, Repr

structure HostComplex where
  /-- Private caches by agent ID (Table 15-4). -/
  caches : Assoc PCache
  dir : Assoc DirEntry
  busy : List Busy
  /-- Requests, write-backs and offers waiting for a busy line: agent, address, kind. -/
  waiting : List (Nat × Nat × ReqKind)
  snoops : List SnoopMsg
  l3 : Assoc (Option L3Line)
  magpie : Assoc Nat
  /-- Write-backs a home has answered: agent, line, answer (0 TAKEN, 1 DECLINED, 2 DISCARDED). -/
  wbAcks : List (Nat × Nat × Nat)
  /-- Old values returned to atomic requesters: agent, value, swapped. -/
  results : List (Nat × Nat × Bool)
  /-- Pending identities: hart × 256 + identity (R443). -/
  irqs : List Nat
  deriving DecidableEq, Repr

def HostComplex.reset : HostComplex := ⟨[], [], [], [], [], [], [], [], [], []⟩

/-! ### The fabric (chapter 16) -/

/-- One direction pair of a port's link (R468, R469). -/
structure FPort where
  /-- What the peer reported in the last training. -/
  peer : Option PeerInfo
  txSeq : Nat
  rxSeq : Nat
  /-- Sequence numbers of flits sent and not yet acknowledged, oldest first. -/
  replay : List Nat
  /-- Flits in a row that arrived with a wrong CRC; the number that the far end names in its NAKs, and how often in a row. -/
  naksInRow : Nat
  naked : Nat × Nat
  /-- When uncorrectable codewords came, within the last millisecond of the free clock (R471). -/
  uncorr : List Nat
  /-- A cable is in the cage. -/
  cable : Bool
  /-- Payload bytes of the message being received, per traffic class. -/
  partialMsg : Assoc (List Byte)
  /-- Message buffers the far end has returned: class × 2, plus 1 for responses. -/
  credits : Assoc Nat
  /-- The lanes to be used when a training completes, bit per lane. -/
  lanes : Nat
  deriving DecidableEq, Repr

def FPort.reset : FPort := ⟨none, 0, 0, [], 0, (0, 0), [], false, [], [], 0xFF⟩

/-- A routing entry (Table 16-13). -/
structure Route where
  port : Nat
  hops : Nat
  altPort : Nat
  altValid : Bool
  valid : Bool
  static : Bool
  lost : Bool
  v2 : Bool
  deriving DecidableEq, Repr

def Route.none : Route := ⟨0, 0, 0, false, false, false, false, false⟩

/-- A message of the fabric (Table 16-3): its header, what ADDR and ARG carry, and its data. -/
structure FabMsg where
  kind : Nat
  src : Nat
  dest : Nat
  cls : Nat
  seq : Nat
  ttl : Nat
  retx : Bool
  args : List Nat
  bytes : List Byte
  deriving DecidableEq, Repr

/-- An outstanding request in the retransmission pool (R480). -/
structure OutReq where
  dest : Nat
  cls : Nat
  seq : Nat
  kind : Nat
  args : List Nat
  bytes : List Byte
  owner : Barrier
  /-- The operand slot and the segment that a fault is reported in. -/
  slot : Nat
  seg : Nat
  /-- It has left; a request that meets a full pool waits. -/
  sent : Bool
  retx : Bool
  /-- The link timeout it was first transmitted under (R481). -/
  tmo : Nat
  /-- Contributions that this one combines: source and sequence number (R485). -/
  parts : List (Nat × Nat)
  deriving DecidableEq, Repr

/-- A combining slot (R484). -/
structure CollSlot where
  root : Nat
  coll : Nat
  tile : Nat
  count : Nat
  anchor : Nat
  trunc : Bool
  ovf : Bool
  ovfPort : Nat
  accs : List Acc
  /-- The I/O die whose slot it is, and the contributions combined: source and sequence number. -/
  die : Nat
  parts : List (Nat × Nat)
  deriving DecidableEq, Repr

/-- A partial maximum (R486). -/
structure MaxSlot where
  root : Nat
  coll : Nat
  count : Nat
  word : Nat
  bad : Bool
  /-- Where its contributions came from: the finished word goes back there. -/
  parts : List (Nat × Nat)
  deriving DecidableEq, Repr

/-- A collective descriptor (R484): the modules of its tree, and whom it serves here, with the destination of the result:
tiles of a segment in a format and shape, or a word. -/
structure CollDesc where
  root : Nat
  coll : Nat
  expect : Nat
  members : List Nat
  owner : Barrier
  cmd : CmdRef
  core : Nat
  dest : Tref
  word : Bref
  fmt : Fmt
  rows : Nat
  cols : Nat
  deriving DecidableEq, Repr

structure Fabric where
  ports : Assoc FPort
  lsrs : List Lsr
  ownLsrSeq : Nat
  routes : Assoc Route
  outstanding : List OutReq
  /-- Next sequence number sent and expected, by module × 4 + class. -/
  nextSeq : Assoc Nat
  expected : Assoc Nat
  /-- Requests of others that were acknowledged with a fault: module × 4 + class, sequence number, status, detail. -/
  faultAcks : List (Nat × Nat × Nat × Nat)
  descs : List CollDesc
  slots : List CollSlot
  maxSlots : List MaxSlot
  /-- Messages held for want of a usable port (R479). -/
  held : List FabMsg
  deriving DecidableEq, Repr

def Fabric.reset : Fabric := ⟨[], [], 0, [], [], [], [], [], [], [], [], []⟩

/-! ### Guest sites and external ports (chapters 17, 18) -/

/-- A request the module has sent to a guest (R496). -/
structure GuestReq where
  tag : Nat
  owner : Barrier
  slot : Nat
  seg : Nat
  write : Bool
  addr : Nat
  len : Nat
  deriving DecidableEq, Repr

structure Guest where
  /-- The accepted capability record, and the one last offered. -/
  cap : Option GuestCap
  offered : Option GuestCap
  /-- The last accepted IDENTITY (R495); 0 before any. -/
  identity : Nat
  /-- Requests the module has sent and the next tag. -/
  requests : List GuestReq
  nextTag : Nat
  deriving DecidableEq, Repr

def Guest.reset : Guest := ⟨none, none, 0, [], 0⟩

/-- A write held for an external host, or sent to it (R509, R513): the queue it belongs to, its address and bytes, and
which it is: 0 record, 1 writeback word, 2 signal word, 3 MSI-X message; and two that wait behind a held write without being
one of the port: 4 an interrupt, 5 a writeback word for another target (R255, R256). -/
structure ExtWrite where
  queue : Option Nat
  kind : Nat
  addr : Nat
  bytes : List Byte
  /-- The TAG of a record, the IRQ_KIND of a waiting interrupt, the target of a waiting writeback word. -/
  tag : Nat
  deriving DecidableEq, Repr

/-- An MSI-X table entry. -/
structure MsixEntry where
  addr : Nat
  data : Nat
  masked : Bool
  pending : Bool
  deriving DecidableEq, Repr

def MsixEntry.reset : MsixEntry := ⟨0, 0, true, false⟩

/-- A PCIe/CXL port (chapter 18): what its configuration space holds beside the registers, and what it holds back. -/
structure ExtPort where
  l0 : Bool
  memEnable : Bool
  msixEnable : Bool
  functionMask : Bool
  table : Assoc MsixEntry
  holding : Bool
  held : List ExtWrite
  /-- The hold has expired: later writes of its queues are dropped until restart (R515). -/
  lost : Bool
  deriving DecidableEq, Repr

def ExtPort.reset : ExtPort := ⟨false, false, false, false, [], false, [], false⟩

/-! ### Power, faults, repair (chapters 19, 20) -/

/-- A core that the Warden has turned off: its estimate in mW, recorded then (R535), and why: 0 the cap (R533), 1 the
thermal rule (R542), 2 the phase limit (R574). -/
structure OffCore where
  core : Nat
  est : Nat
  cause : Nat
  deriving DecidableEq, Repr

structure Power where
  /-- Cores the Warden has turned off, oldest first. -/
  offs : List OffCore
  /-- Cores whose ramp the cap policy has started and that have not been seen to end it (R534). -/
  moving : List Nat
  /-- Consecutive samples at or below the wake level (R535), and per compute die at 95 °C or less (R542). -/
  quiet : Nat
  quietTherm : Assoc Nat
  /-- Sum and number of samples in the period, for the boost headroom (R530). -/
  sumWatts : Nat
  samples : Nat
  /-- By logical core: the mean draw in mW and the busy cycles over the last 1 ms, as last read (R533). -/
  ests : Assoc Nat
  loads : Assoc Nat
  /-- The cooling rule applies (R546). -/
  cooling : Bool
  /-- Boost points granted at the last edge, by island (R530), and those in force. -/
  granted : Assoc Nat
  points : Assoc Nat
  /-- No boost at the next edge (R543). -/
  noBoost : Bool
  /-- Latest readings by island, and the islands whose sensor gives none (R541). -/
  temps : Assoc Nat
  badSensors : List Nat
  /-- Ramps begun: die and time (R540). -/
  window : List (Nat × Nat)
  deriving DecidableEq, Repr

def Power.reset : Power := ⟨[], [], 0, [], 0, 0, [], [], false, [], [], false, [], [], []⟩

/-- A ledger record (Table 20-2) without its CRC. -/
structure LedgerRec where
  seq : Nat
  kind : Nat
  sev : Nat
  flags : Nat
  bell : Nat
  subns : Nat
  domain : Nat
  count : Nat
  addr : Nat
  data : Nat
  deriving DecidableEq, Repr

/-- A crash capture slot (R578). -/
structure CaptureSlot where
  used : Bool
  pinned : Bool
  trigger : Nat
  absent : Nat
  truncated : Bool
  bell : Nat
  ledgerSeq : Nat
  ledger : List LedgerRec
  regs : Assoc W64
  /-- The queue descriptor table, and the larders where FLT_CTL.CAPTURE_LARDER asked for them. -/
  mem : Assoc Byte
  deriving DecidableEq, Repr

def CaptureSlot.empty : CaptureSlot := ⟨false, false, 0, 0, false, 0, 0, [], [], []⟩

/-- A rung that has run (R559): rung, target, time, and whether it counts. -/
structure RungRun where
  rung : Nat
  target : Nat
  time : Nat
  counts : Bool
  deriving DecidableEq, Repr

structure Faults where
  /-- The SRAM ring, newest first, and the mirror, newest first (R551). -/
  ring : List LedgerRec
  mirror : List LedgerRec
  nextSeq : Nat
  /-- The ring and mirror not yet level: sequence numbers still to be written. -/
  unmirrored : List Nat
  /-- Fenced domains: code × 4096 + index (R556). -/
  fenced : List Nat
  /-- Domains whose drain has not ended. -/
  draining : List Nat
  rungs : List RungRun
  /-- The rungs in progress: rung, target, reached by escalation. -/
  active : List (Nat × Nat × Bool)
  captures : Assoc CaptureSlot
  capturing : Option Nat
  /-- Heartbeats as the owl saw them last, and whether it has seen a first beat (R568). -/
  seen : Assoc Nat
  watch : Assoc Bool
  wardenBeat : Nat
  /-- Domain resets in the last hour, engine resets in 24 hours: key and times. -/
  resets : List (Nat × Nat)
  /-- Physical cores of a die whose last patrol failed or that are retired: die × 68 + phys. -/
  retired : List Nat
  deriving DecidableEq, Repr

def Faults.reset : Faults := ⟨[], [], 1, [], [], [], [], [], [], none, [], [], 0, [], []⟩

/-! ### Boot, trust, service face, management (chapters 21 to 23, 25) -/

/-- One bank of the boot store: the image bytes (R582). -/
structure Bank where
  image : List Byte
  valid : Bool
  /-- The image was activated before, so it is not pending. -/
  used : Bool
  deriving DecidableEq, Repr

def Bank.empty : Bank := ⟨[], false, false⟩

/-- An update in progress (R593): component, length, and bytes received. -/
structure Update where
  comp : Component
  len : Nat
  received : Nat
  verified : Bool
  deriving DecidableEq, Repr

/-- An SPDM session (R590). -/
structure Session where
  id : Nat
  anchored : Bool
  deriving DecidableEq, Repr

/-- A mailbox answer kept for a requester (R625). -/
structure Replay where
  eid : Nat
  tag : Nat
  op : Nat
  status : Nat
  payload : List Byte
  deriving DecidableEq, Repr

/-- A set-signing key slot (R627). -/
structure SetKey where
  key : Nat
  enrolled : Bool
  revoked : Bool
  deriving DecidableEq, Repr

def SetKey.empty : SetKey := ⟨0, false, false⟩

structure Mgmt where
  /-- Was encryption enabled at manufacture: ordering code K is E (R661)? -/
  encFitted : Bool
  /-- Banks by component × 2 + bank; the active bank by component (R582). -/
  banks : Assoc Bank
  activeBank : Assoc Nat
  config : ConfigRec
  update : Option Update
  /-- The activation in progress: component, and the next die or bay to visit. -/
  activating : Option (Component × Nat)
  /-- Which bank's image runs, by component (R584): 0 none, 1 A, 2 B. -/
  runBank : Assoc Nat
  /-- SHA-384 digests of what runs: the Warden firmware, the Reeve firmware by die, the host boot firmware last started
  (Table 21-5); 0 before any. -/
  wardenDigest : Nat
  reeveDigest : Assoc Nat
  hostDigest : Nat
  setKeys : Assoc SetKey
  /-- Data key pairs by slot, 512 bits; 0 for an empty slot. -/
  dataKeys : Assoc (Option Nat)
  /-- Provisioned certificate slots and trust anchors. -/
  certs : Assoc (List Byte)
  anchors : Assoc (List Byte)
  sessions : List Session
  nextSession : Nat
  replays : List Replay
  /-- The rung that a mailbox request has begun and that has not ended: kind and target. -/
  privRung : Option (Nat × Nat)
  eidI3c : Nat
  eidA : Nat
  eidB : Nat
  /-- The I3C dynamic address, when one is assigned (R652). -/
  dynAddr : Option Nat
  receiver : Option (Nat × Binding)
  /-- Unacknowledged events, oldest first: number and content (R623). -/
  events : List (Nat × Nat)
  nextEvent : Nat
  deriving DecidableEq, Repr

/-- The tray side and the face (chapters 22, 25). Moments are in ns of the module's clock. -/
structure Tray where
  mainInput : Bool
  mainOn : Bool
  standby : Bool
  standbyInput : Bool
  prsnt : Bool
  pwrgd : Bool
  cycleReq : Bool
  slotId : Nat
  /-- When the bar, and each bay's LED, last began to show a refusal (Tables 22-1, 22-4). -/
  refusedAt : Option Nat
  bayRefused : List (Nat × Nat)
  /-- When DRAINING ends (R604). -/
  drainEnd : Option Nat
  /-- The last attention request: when, and was it a button press (R603)? -/
  lastAttn : Option (Nat × Bool)
  /-- The cellar journal was written in a hold-up and has not been replayed (R382). -/
  journal : Bool
  /-- What keeps main power off: 0 nothing, 1 a request or a removal, 2 a thermal trip (R545). -/
  hold : Nat
  /-- Sticks: present bays, bays in sync, bays rebuilding, bays carrying a foreign stick, failed bays. -/
  present : Nat
  inSync : Nat
  rebuilding : Nat
  foreign : Nat
  failed : Nat
  retiring : Nat
  /-- The cellar has been formed: six bays have been in sync. -/
  formed : Bool
  deriving DecidableEq, Repr

/-- What the module sends, oldest first. `data` is what the message carries. -/
inductive Out where
  | ext (portB : Bool) (w : ExtWrite)
  | fabric (port : Nat) (m : FabMsg)
  | lsr (port : Nat) (l : Lsr)
  | nak (port seq : Nat)
  | replay (port seq : Nat)
  | guestRsp (g1 : Bool) (tag : Nat) (r : GuestRsp)
  | guestCtl (g1 : Bool) (opcode : Nat)
  | beat (link : Nat)
  | bar (portB : Bool) (bytes : List Byte) (ep : Bool) (unsupported : Bool)
  | dma (portB : Bool) (bytes : List Byte) (ep : Bool)
  | load (bytes : List Byte) (fault : Bool)
  | mailbox (eid tag op status : Nat) (payload : List Byte)
  | service (op tag status : Nat) (payload : List Byte)
  | spdm (code : Nat) (payload : List Byte)
  | pldm (eid code : Nat) (payload : List Byte)
  | event (number content : Nat)
  deriving DecidableEq, Repr

/-- An access from outside the cores' commands that is held while a spare maps in (R197): a write or a read of another module, one of
the remote port, one through a BAR4, one of a guest. -/
inductive HeldAccess where
  | guestRead (g1 : Bool) (tag : BitVec 12) (addr : BitVec 48) (sectors : BitVec 7)
  | guestWrite (g1 : Bool) (tag : BitVec 12) (addr : BitVec 48) (bytes : List (BitVec 8)) (poison : Bool)
  | guestAtomic (g1 : Bool) (tag : BitVec 12) (addr : BitVec 48) (req : AtomicReq)
  | fabWrite (h : MsgHdr) (r : RemoteRef) (bytes : List Byte) (tile : Bool)
  | readReq (h : MsgHdr) (r : RemoteRef) (len : BitVec 16)
  | port (w : Agent) (addr : BitVec 48) (write : Option (List Byte)) (len : BitVec 7)
  | bar4Write (portB : Bool) (off : BitVec 48) (bytes : List Byte)
  | bar4Read (portB : Bool) (off : BitVec 48) (len : BitVec 13)
  deriving DecidableEq, Repr

end Sys2Proof.Machine
end

