-- ==== Sys2Proof/Machine/State.lean ====
section
/-! DEFINITION. The whole state of the module (INVENTORY.md, State), the reasons a step can stop, and the state after
reset. Registers that hold a value and nothing more are kept in `regs`, keyed by control-window offset; every other
piece has its own place. -/

namespace Sys2Proof.Machine

open Sys2Proof

/-- Faults. -/
inductive Fault where
  /-- Raised by no meaning: the manual answers every error with a status, a record, a register or an interrupt, and
  those are next states. Safe. -/
  | unreachable
  deriving DecidableEq, Repr

/-- Refusals. -/
inductive Refusal where
  /-- Raised by an arm of exec whose command has no meaning yet. Safe. -/
  | notModelled (mnemonic : String)
  deriving DecidableEq, Repr

structure State where
  /-- The commands that wait, first in, first out. The model's own. -/
  pending : List Instr
  /-- Counter of draws of the free values. The model's own. -/
  tick : Nat
  /-- Bytes of stacks, DDR5 and larders, by local physical address; poisoned 64-byte sectors, by number. -/
  mem : List Host.Cell
  poison : List Nat
  /-- Bytes of the cellar's volumes, by volume × 2^48 + byte; unreadable sectors; tiles in the write buffer. -/
  cellar : List Host.Cell
  cellarPoison : List Nat
  wbuf : List BufWrite
  /-- Registers of the control window. -/
  regs : Assoc W64
  bell : BitVec 64
  /-- The lock jump since bring-up has taken place (R312). -/
  jumped : Bool
  queues : Assoc Queue
  cmds : List Cmd
  ctxs : Assoc Ctx
  parts : Assoc Part
  staged : List StagedItem
  /-- The Reeve's record of the descriptors SEG_SET wrote, by context × 16 + segment: claims and the encryption map
  follow from it (R342, R356). -/
  segs : Assoc Nat
  dpool : Assoc (List CachedDesc)
  walks : List Walk
  tallies : Assoc Tally
  waiters : List Waiter
  cores : Assoc Core
  progs : Assoc (Option Program)
  /-- Customer sets the Reeve keeps per partition (R146). -/
  partSets : List (Nat × FSet)
  stackDies : Assoc Stack
  hc : HostComplex
  fab : Fabric
  g0 : Guest
  g1 : Guest
  pA : ExtPort
  pB : ExtPort
  power : Power
  faults : Faults
  mgmt : Mgmt
  tray : Tray
  /-- CHAIN_HEAD.GEN; is the capability chain posted? -/
  chainGen : Nat
  chainPosted : Bool
  /-- What the module has sent. -/
  out : List Out
  /-- Accesses from outside the cores' commands that are held: they reach the larder of a core that a spare is replacing
  (R197). -/
  heldPort : List HeldAccess
  /-- Per die, the queue its fetcher serves and the packets of its turn (R247). -/
  turns : Assoc (Nat × Nat)
  /-- When the last Q_CMD action ends, in nanoseconds of the module's clock (R260). -/
  actionEnd : Nat
  /-- The same of the last TALLY_CMD action (R413). -/
  tallyEnd : Nat
  /-- Memory errors that no access has found yet: the model's own field (log 137). -/
  upsets : List Upset
  deriving DecidableEq, Repr

/-! ### Reset values -/

/-- Registers whose reset value depends on their index (Tables 20-4, 20-10, 17-1, R199). -/
def indexedReset (r : RegRow) (idx : List Nat) : Option Nat :=
  match r.name, idx with
  | "RUNG_CFG", [i] => some (if i = 0 then 0x000A0004 else if i = 1 then 0x000A0004 else if i = 2 then 0x003C0003 else 0x0E100002)
  | "PHASE_STATUS", [i] =>
    some (if i < 4 then 0x0000400000000012 else if i = 4 then 0x0A else if i < 17 then 0x04 else 0x06)
  | "DL_LINK_STATUS", [i] =>
    some ((if i < 4 then 24 else if i < 30 then 16 else if i < 34 then 4
           else if i = 36 ∨ i = 39 ∨ i = 41 ∨ i = 43 then 2 else 8) * 2 ^ 32)
  | _, _ => none

/-- The reset value of the register at an offset (R637); 0 for a reserved offset. -/
def regReset (off : Nat) : W64 :=
  match regRow off with
  | none => 0
  | some r =>
    match (r.index off).bind (indexedReset r) with
    | some v => BitVec.ofNat 64 v
    | none => BitVec.ofNat 64 r.reset

/-- A partition after a chip reset (Table 11-6). -/
def Part.reset (p : Nat) : Part where
  cores := if p = 0 then 2 ^ 256 - 1 else 0
  capEngine := 0xFFFFFFFF
  capStack := 0xFFFFFFFF
  capFabric := 0xFFFFFFFF
  capHost := 0xFFFFFFFF
  priority := 0
  keyStack := false
  keyDdr := false
  keySlot := 0
  strict := false
  vecBase := 0
  vecCount := 0
  irqKind := 0
  volumes := 0
  grants := []
  tierTmo := 0x000003E803E800C8
  tierTmo2 := 0x000003E807D00032

/-- The configuration record of a new module: each field as its register resets. -/
def ConfigRec.new : ConfigRec := ⟨0, 0x00C80108, 0x00640E10, 0x00000008, 0, 0, 0, 0⟩

def Mgmt.reset : Mgmt where
  encFitted := true
  banks := []
  activeBank := []
  config := ConfigRec.new
  update := none
  activating := none
  runBank := []
  wardenDigest := 0
  reeveDigest := []
  hostDigest := 0
  setKeys := []
  dataKeys := []
  certs := []
  anchors := []
  sessions := []
  nextSession := 1
  replays := []
  privRung := none
  eidI3c := 0
  eidA := 0
  eidB := 0
  dynAddr := none
  receiver := none
  events := []
  nextEvent := 1

/-- Power applied, module seated, no stick in any bay. -/
def Tray.reset : Tray where
  mainInput := true
  mainOn := true
  standby := true
  standbyInput := true
  prsnt := true
  pwrgd := true
  cycleReq := false
  slotId := 0
  refusedAt := none
  bayRefused := []
  drainEnd := none
  lastAttn := none
  journal := false
  hold := 0
  present := 0
  inSync := 0
  rebuilding := 0
  foreign := 0
  failed := 0
  retiring := 0
  formed := false

/-- The machine right after reset: every register at its reset value, memory with nothing listed, queues disabled,
contexts free, partitions as Table 11-6, every core with its own physical core and idle. -/
def State.reset : State where
  pending := []
  tick := 0
  mem := []
  poison := []
  cellar := []
  cellarPoison := []
  wbuf := []
  regs := []
  bell := 0
  jumped := false
  queues := []
  cmds := []
  ctxs := []
  parts := []
  staged := []
  segs := []
  dpool := []
  walks := []
  tallies := []
  waiters := []
  cores := []
  progs := []
  partSets := []
  stackDies := []
  hc := HostComplex.reset
  fab := Fabric.reset
  g0 := Guest.reset
  g1 := Guest.reset
  pA := ExtPort.reset
  pB := ExtPort.reset
  power := Power.reset
  faults := Faults.reset
  mgmt := Mgmt.reset
  tray := Tray.reset
  chainGen := 0
  chainPosted := false
  out := []
  heldPort := []
  turns := []
  actionEnd := 0
  tallyEnd := 0
  upsets := []

end Sys2Proof.Machine
end

