-- ==== Sys2Proof/Machine/Ops.lean ====
section
/-! DEFINITION. The named operations every meaning is written over: registers and their fields, memory with its
poison, the typed arrays, the clock, the ledger, interrupts and the writes an external host receives, and the life
of a command from start to record. -/

namespace Sys2Proof.Machine

open Sys2Proof

/-- What exec answers. -/
abbrev Ans := Host.Outcome State Fault Refusal

/-! ### Registers (R5, R637) -/

def getReg (s : State) (off : Nat) : Nat := (Assoc.get regReset s.regs off).toNat

def setReg (off v : Nat) (s : State) : State :=
  { s with regs := Assoc.put regReset s.regs off (BitVec.ofNat 64 v) }

def getF (s : State) (off : Nat) (f : Fld) : Nat := bits (getReg s off) f.hi f.lo

def setF (off : Nat) (f : Fld) (v : Nat) (s : State) : State :=
  setReg off (setBits (getReg s off) f.hi f.lo v) s

/-- The largest value of a field. -/
def fldMax (f : Fld) : Nat := 2 ^ (f.hi + 1 - f.lo) - 1

/-- Add to a counter field, wrapping. -/
def incF (off : Nat) (f : Fld) (n : Nat) (s : State) : State := setF off f (getF s off f + n) s

/-- Add to a counter field that saturates. -/
def satF (off : Nat) (f : Fld) (n : Nat) (s : State) : State := setF off f (min (fldMax f) (getF s off f + n)) s

/-- Set bits of a register. -/
def orReg (off v : Nat) (s : State) : State := setReg off (getReg s off ||| v) s

/-- Clear bits of a register. -/
def clearBits (off v : Nat) (s : State) : State :=
  setReg off (getReg s off - (getReg s off &&& v)) s

/-! ### The stack map (R361 to R365) -/

def gib : Nat := 0x40000000

/-- NEAR in force, 0 to 16 (R361). -/
def nearK (s : State) : Nat := min 16 (getF s STK_CFG_LIVE STK_CFG_NEAR)

/-- The fold of R363 over the seven low nibbles of `q`. -/
def weaveHash (q : Nat) : Nat :=
  bits q 3 0 ^^^ bits q 7 4 ^^^ bits q 11 8 ^^^ bits q 15 12 ^^^ bits q 19 16 ^^^ bits q 23 20 ^^^ bits q 27 24

/-- Stack and stack-local offset of a stack address under NEAR `k` (R361 to R363). -/
def stackPlace (k a : Nat) : Nat × Nat :=
  if a < 96 * k * gib then
    let d := a / (24 * k * gib)
    let o := a - d * (24 * k * gib)
    let t := o / 4096
    (3 * d + t % 3, t / 3 * 4096 + o % 4096)
  else
    let w := a - 96 * k * gib
    let q := w / 4096 / 12
    ((w / 4096 % 12 + weaveHash q) % 12, 8 * k * gib + q * 4096 + w % 4096)

def stackTop : Nat := 0x018000000000

def stackOf (s : State) (k : Nat) : Stack := Assoc.get (fun _ => Stack.reset) s.stackDies k
def setStack (k : Nat) (v : Stack) (s : State) : State := { s with stackDies := Assoc.put (fun _ => Stack.reset) s.stackDies k v }

/-- Channel number of a sector in its stack (R365). -/
def sectorChannel (k sec : Nat) : Nat × Nat :=
  let (st, off) := stackPlace k (64 * sec)
  (st, bits (off / 64) 3 0 ^^^ bits (off / 4096) 3 0)

/-- The stack address of a stack-local offset: the inverse of R361 to R363. -/
def stackAddr (s : State) (k off : Nat) : Nat :=
  let n := nearK s
  if off < 8 * n * gib then k / 3 * (24 * n * gib) + (off / 4096 * 3 + k % 3) * 4096 + off % 4096
  else
    let q := (off - 8 * n * gib) / 4096
    let r := (k + 12 - weaveHash q % 12) % 12
    96 * n * gib + (12 * q + r) * 4096 + off % 4096

/-- Where the content of an address lies after the stack map has changed from NEAR `k` (R364). -/
def movedAddr (k : Nat) (s : State) (a : Nat) : Nat :=
  if a < stackTop then (fun p => stackAddr s p.1 p.2) (stackPlace k a) else a

/-- Does the sector lie in a failed channel that no write has restored there (R370)? -/
def channelLost (s : State) (sec : Nat) : Bool :=
  decide (64 * sec < stackTop) && s.stackDies.any (fun e => !e.2.failed.isEmpty) &&
  let (k, c) := sectorChannel (nearK s) sec
  (stackOf s k).failed.contains c && !(stackOf s k).rewritten.contains sec

/-! ### Memory -/

/-- What a byte of memory that nothing has written reads as (DESIGN CHOICE, log 3). -/
def memReset : Nat → Byte := fun _ => 0

def memByte (s : State) (a : Nat) : Byte := Assoc.get memReset s.mem a

def Memory.wf (m : List Host.Cell) : Bool := Assoc.wf memReset m

/-- Store bytes from an address up. -/
def putBytes (d : Nat → Byte) (m : List Host.Cell) (a : Nat) : List Byte → List Host.Cell
  | [] => m
  | b :: r => putBytes d (Assoc.put d m a b) (a + 1) r

/-- Load `n` bytes from an address up. -/
def readMem (s : State) (a n : Nat) : List Byte := (List.range n).map fun i => memByte s (a + i)

/-- The sectors that a store of `n` bytes at `a` covers whole (R180). -/
def wholeSectors (a n : Nat) : List Nat :=
  let first := ceilDiv a 64
  let last := (a + n) / 64
  (List.range (last - first)).map (first + ·)

/-- The sectors that a range touches. -/
def touchedSectors (a n : Nat) : List Nat :=
  if n = 0 then [] else (List.range ((a + n - 1) / 64 + 1 - a / 64)).map (a / 64 + ·)

/-- Note that a sector of a failed channel has been written whole, in a good row (R370). -/
def restoreSector (sec : Nat) (s : State) : State :=
  let k := (sectorChannel (nearK s) sec).1
  if channelLost s sec && Config.goodRow k sec then
    setStack k { stackOf s k with rewritten := setInsert (stackOf s k).rewritten sec } s
  else s

/-- Sectors written whole lose their poison (R180, R370). -/
def clearPoison (secs : List Nat) (s : State) : State :=
  secs.foldl (fun s x => restoreSector x s) { s with poison := s.poison.filter fun x => !secs.contains x }

/-- Store bytes. A sector written whole loses its poison (R180). -/
def writeMem (a : Nat) (bs : List Byte) (s : State) : State :=
  clearPoison (wholeSectors a bs.length) { s with mem := putBytes memReset s.mem a bs }

/-- Does a range touch a poisoned sector? -/
def poisoned (s : State) (a n : Nat) : Bool := (touchedSectors a n).any fun x => s.poison.contains x || channelLost s x

def poisonSector (sec : Nat) (s : State) : State := { s with poison := setInsert s.poison sec }

/-- What the stacks hold stays where it is when the stack map changes, so it is found at other addresses (R364). -/
def remapStacks (k : Nat) (s : State) : State :=
  if nearK s = k then s
  else
    let sector (x : Nat) : Nat := movedAddr k s (64 * x) / 64
    { s with
      mem := s.mem.foldl (fun m c => Assoc.put memReset m (movedAddr k s c.1) c.2) []
      poison := s.poison.foldl (fun p x => setInsert p (sector x)) []
      stackDies := s.stackDies.map fun e => (e.1, { e.2 with rewritten := e.2.rewritten.foldl (fun p x => setInsert p (sector x)) [] }) }

/-- The cellar's volumes: byte `b` of volume `v` (R379). -/
def cellarKey (v b : Nat) : Nat := v * 2 ^ 48 + b

def readCellar (s : State) (v b n : Nat) : List Byte :=
  (List.range n).map fun i => Assoc.get memReset s.cellar (cellarKey v (b + i))

def writeCellar (v b : Nat) (bs : List Byte) (s : State) : State :=
  { s with
    cellar := putBytes memReset s.cellar (cellarKey v b) bs
    cellarPoison := s.cellarPoison.filter fun x => !(wholeSectors (cellarKey v b) bs.length).contains x }

def cellarPoisoned (s : State) (v b n : Nat) : Bool := (touchedSectors (cellarKey v b) n).any s.cellarPoison.contains

/-! ### The typed arrays -/

def queueOf (s : State) (q : Nat) : Queue := Assoc.get (fun _ => Queue.reset) s.queues q
def setQueue (q : Nat) (x : Queue) (s : State) : State := { s with queues := Assoc.put (fun _ => Queue.reset) s.queues q x }

def ctxOf (s : State) (x : Nat) : Ctx := Assoc.get (fun _ => Ctx.free) s.ctxs x
def setCtx (x : Nat) (v : Ctx) (s : State) : State := { s with ctxs := Assoc.put (fun _ => Ctx.free) s.ctxs x v }

def partOf (s : State) (p : Nat) : Part := Assoc.get Part.reset s.parts p
def setPart (p : Nat) (v : Part) (s : State) : State := { s with parts := Assoc.put Part.reset s.parts p v }

/-- A logical core's default: its own physical core (R13). -/
def coreReset (n : Nat) : Core := Core.reset (n % 64)
def coreOf (s : State) (n : Nat) : Core := Assoc.get coreReset s.cores n
def setCore (n : Nat) (v : Core) (s : State) : State := { s with cores := Assoc.put coreReset s.cores n v }

def engineOf (c : Core) (e : Nat) : Engine :=
  match e with | 0 => c.e0 | 1 => c.e1 | 2 => c.e2 | _ => c.e3
def putEngine (c : Core) (e : Nat) (v : Engine) : Core :=
  match e with
  | 0 => { c with e0 := v } | 1 => { c with e1 := v } | 2 => { c with e2 := v } | _ => { c with e3 := v }
def getEng (s : State) (n e : Nat) : Engine := engineOf (coreOf s n) e
def setEng (n e : Nat) (v : Engine) (s : State) : State := setCore n (putEngine (coreOf s n) e v) s

def tallyKey (die index : Nat) : Nat := die * 65536 + index
def tallyOf (s : State) (die index : Nat) : Tally := Assoc.get (fun _ => Tally.reset) s.tallies (tallyKey die index)
def setTally (die index : Nat) (v : Tally) (s : State) : State :=
  { s with tallies := Assoc.put (fun _ => Tally.reset) s.tallies (tallyKey die index) v }

def progOf (s : State) (h : Nat) : Option Program := Assoc.get (fun _ => none) s.progs h
def setProg (h : Nat) (v : Option Program) (s : State) : State :=
  { s with progs := Assoc.put (fun _ => none) s.progs h v }

def fport (s : State) (p : Nat) : FPort := Assoc.get (fun _ => FPort.reset) s.fab.ports p
def setFport (p : Nat) (v : FPort) (s : State) : State :=
  { s with fab := { s.fab with ports := Assoc.put (fun _ => FPort.reset) s.fab.ports p v } }

def routeOf (s : State) (m : Nat) : Route := Assoc.get (fun _ => Route.none) s.fab.routes m
def setRoute (m : Nat) (v : Route) (s : State) : State :=
  { s with fab := { s.fab with routes := Assoc.put (fun _ => Route.none) s.fab.routes m v } }

def guestOf (s : State) (g1 : Bool) : Guest := if g1 then s.g1 else s.g0
def setGuest (g1 : Bool) (v : Guest) (s : State) : State := if g1 then { s with g1 := v } else { s with g0 := v }

def extPort (s : State) (b : Bool) : ExtPort := if b then s.pB else s.pA
def setExt (b : Bool) (v : ExtPort) (s : State) : State := if b then { s with pB := v } else { s with pA := v }

def pcacheOf (s : State) (a : Nat) : PCache := Assoc.get (fun _ => PCache.empty) s.hc.caches a
def setPcache (a : Nat) (v : PCache) (s : State) : State :=
  { s with hc := { s.hc with caches := Assoc.put (fun _ => PCache.empty) s.hc.caches a v } }

def dirOf (s : State) (l : Nat) : DirEntry := Assoc.get (fun _ => DirEntry.none) s.hc.dir l
def setDir (l : Nat) (v : DirEntry) (s : State) : State :=
  { s with hc := { s.hc with dir := Assoc.put (fun _ => DirEntry.none) s.hc.dir l v } }

/-- Send a message out of the module. -/
def emit (m : Out) (s : State) : State := { s with out := s.out ++ [m] }

/-! ### The clock (R306 to R308) -/

def subnsNow (s : State) : Nat := (Config.subns s.tick).toNat % 10000000
def clockNow (s : State) : Nat := (Config.clockNs s.tick).toNat
def bellNow (s : State) : Nat := s.bell.toNat

/-- Move to the next draw of the free values. -/
def advance (s : State) : State := { s with tick := s.tick + 1 }

/-- The period in force, in ns (R306, Table 10-10). -/
def periodNs (s : State) : Nat := max 1 (min 80 (getF s BELL_CTL_LIVE BELL_CTL_PERIOD)) * 125000

/-- This module's ID (R26). -/
def moduleId (s : State) : Nat := getF s FAB_ID FAB_ID_MODULE

/-! ### Fences -/

def fenceCode (dom idx : Nat) : Nat := dom * 4096 + idx
def isFenced (s : State) (dom idx : Nat) : Bool := s.faults.fenced.contains (fenceCode dom idx)

/-! ### The ledger (R551 to R554) -/

/-- The bytes of a record (Table 20-2). -/
def LedgerRec.bytes (r : LedgerRec) : List Byte :=
  let b := leBytes 4 r.seq ++ leBytes 2 r.kind ++ leBytes 1 r.sev ++ leBytes 1 r.flags ++ leBytes 8 r.bell
    ++ leBytes 3 r.subns ++ leBytes 1 0 ++ leBytes 2 r.domain ++ leBytes 2 r.count ++ leBytes 8 r.addr
    ++ leBytes 28 r.data
  b ++ leBytes 4 (crc32c b)

/-- Kinds that never coalesce: RUNG, DOMAIN_RESET, CORE_RETIRED, THERMAL_TRIP (R554). -/
def neverCoalesced (kind : Nat) : Bool := [0x0402, 0x0403, 0x0206, 0x0505].contains kind

/-- Nanoseconds from a record's time stamp to now. -/
def since (s : State) (r : LedgerRec) : Int :=
  ((bellNow s : Int) - r.bell) * periodNs s + subnsNow s - r.subns

/-- Send a PLDM event to the receiver, holding at most 64 (R623). -/
def pldmEvent (content : Nat) (s : State) : State :=
  match s.mgmt.receiver with
  | none => s
  | some _ =>
    let n := s.mgmt.nextEvent
    let held := s.mgmt.events ++ [(n, content)]
    emit (.event n content) { s with mgmt := { s.mgmt with
      events := held.drop (held.length - 64), nextEvent := n + 1 } }

/-- The event of a change of a PLDM sensor (R623): sensor and value, kept apart from the records, which take 512 bits. -/
def sensorEvent (id v : Nat) (s : State) : State := pldmEvent (2 ^ 512 + id * 2 ^ 32 + v) s

/-- A measurement block has changed (R592). -/
def bumpMeas (s : State) : State := incF TRUST_STATUS TRUST_STATUS_MEAS_GEN 1 s

/-- The newest record of a kind, if it may absorb this event (R554). -/
def coalesces (s : State) (kind dom addr : Nat) : Bool :=
  !neverCoalesced kind &&
  match s.faults.ring.find? (·.kind == kind) with
  | none => false
  | some r => r.domain == dom && r.addr == addr && decide (since s r ≤ 1000000000)

def bumpFirst (kind : Nat) : List LedgerRec → List LedgerRec
  | [] => []
  | r :: rest =>
    if r.kind == kind then
      { r with count := min 65535 (r.count + 1), flags := if r.flags % 2 = 1 then r.flags else r.flags + 1 } :: rest
    else r :: bumpFirst kind rest

/-- Write or coalesce a ledger record: kind, class (SEV), FLAGS besides COALESCED, domain, address, DATA. -/
def ledgerF (kind sev flags dom addr data : Nat) (s : State) : State :=
  if coalesces s kind dom addr then
    let ring := bumpFirst kind s.faults.ring
    let seq := ((s.faults.ring.find? (·.kind == kind)).map (·.seq)).getD 0
    advance { s with faults := { s.faults with ring := ring, unmirrored := setInsert s.faults.unmirrored seq } }
  else
    let r : LedgerRec := ⟨s.faults.nextSeq, kind, sev, flags + (if getF s WARDEN_STATUS WARDEN_STATUS_ACTIVE = 1 then 4 else 0),
      bellNow s, subnsNow s, dom, 1, addr, data⟩
    let lost := decide (4096 ≤ s.faults.ring.length) &&
      ((s.faults.ring.getLast?.map fun o => s.faults.unmirrored.contains o.seq).getD false)
    let s1 := { s with faults := { s.faults with
      ring := r :: s.faults.ring.take 4095
      nextSeq := s.faults.nextSeq + 1
      unmirrored := setInsert s.faults.unmirrored r.seq } }
    let s2 := if lost then satF LEDGER_STATUS LEDGER_STATUS_LOST 1 s1 else s1
    let s3 := if (sev = 4 ∨ sev = 5) ∧ getF s MGMT_CTL MGMT_CTL_EVT_LEDGER = 1 then pldmEvent (leNat r.bytes) s2 else s2
    advance s3

def ledger (kind sev dom addr data : Nat) (s : State) : State := ledgerF kind sev 0 dom addr data s

/-- DATA from (byte offset, width, value) fields. -/
def ledgerData (fs : List (Nat × Nat × Nat)) : Nat := (fs.map fun (o, w, v) => v % 2 ^ (8 * w) * 2 ^ (8 * o)).sum

/-! ### Configuration rejects (R634, R642) -/

/-- AGENT and UNIT of a writer (Table 24-25). -/
def agentUnit : Agent → Nat × Nat
  | .host c _ => (0, c.toNat)
  | .portA => (1, 0)
  | .portB => (2, 0)
  | .reeve d => (3, d.toNat)
  | .warden => (4, 0)
  | .mailbox => (5, 0)

/-- A rejected write: 1 BUSY, 2 LIMIT. -/
def cfgReject (w : Agent) (off v reason : Nat) (s : State) : State :=
  let s1 := incF GLB_CFG_REJECT_COUNT GLB_CFG_REJECT_COUNT_COUNT 1 s
  if getF s GLB_CFG_REJECT GLB_CFG_REJECT_VALID = 1 then setF GLB_CFG_REJECT GLB_CFG_REJECT_OVERRUN 1 s1
  else
    let (a, u) := agentUnit w
    setReg GLB_CFG_REJECT (2 ^ 63 + u * 2 ^ 48 + a * 2 ^ 44 + bellNow s % 4096 * 2 ^ 32 + reason * 2 ^ 28 + off / 8 * 8 % 2 ^ 26)
      (setReg GLB_CFG_REJECT_DATA v s1)

/-! ### The local physical map (Table 01-7, R361 to R363) -/

/-- What holds a local physical address. -/
inductive Tgt where
  | stack (k : Nat)
  | ddr
  | larder (n : Nat)
  | cellar (v : Nat)
  | guest (g1 : Bool)
  | control
  | none
  deriving DecidableEq, Repr

def ddrBase : Nat := 0x020000000000
def ddrTop : Nat := 0x028000000000
def larderBase (n : Nat) : Nat := 0x040000000000 + n * 0x100000000
def larderBytes : Nat := 0x600000

def tgtOf (s : State) (a : Nat) : Tgt :=
  if a < stackTop then .stack (stackPlace (nearK s) a).1
  else if ddrBase ≤ a ∧ a < ddrTop then .ddr
  else if 0x040000000000 ≤ a ∧ a < 0x050000000000 then
    let n := (a - 0x040000000000) / 0x100000000
    if a % 0x100000000 < larderBytes ∧ (coreOf s n).state ≠ .unassigned then .larder n else .none
  else if 0x060000000000 ≤ a ∧ a < 0x070000000000 then .cellar ((a - 0x060000000000) / 0x100000000)
  else if 0x070000000000 ≤ a ∧ a < 0x080000000000 then
    if getF s ID_DEVICE ID_DEVICE_VARIANT = 1 then .guest (decide (0x078000000000 ≤ a)) else .none
  else if 0x0F0000000000 ≤ a ∧ a < 0x0F0004000000 then .control
  else .none

/-- The two compute dies a base die is joined to (Table 01-4). -/
def stackPorts (k : Nat) : Nat × Nat := (k / 3, [3, 1, 1, 0, 2, 2, 1, 3, 3, 2, 0, 0].getD k 0)

/-- The lowest bay that is not in sync (R385). -/
def lowestMissing (s : State) : Nat := ((List.range 8).find? fun b => !bitAt s.tray.inSync b).getD 0

/-- Is a stack out of reach: fenced itself, or through both its ports (R17, R374)? -/
def stackFenced (s : State) (k : Nat) : Bool :=
  isFenced s domStack k || (isFenced s domDie (stackPorts k).1 && isFenced s domDie (stackPorts k).2)

/-- The stacks that a change has put out of reach, each with its record STACK_UNREACHABLE (R17). -/
def noteUnreached (before s : State) : State :=
  ((List.range 12).filter fun k => stackFenced s k && !stackFenced before k).foldl
    (fun s k => ledger 0x0307 4 (fenceCode domStack k) 0 (ledgerData [(0, 1, k)]) s) s

/-- The ST_FENCED answer of a target, if it refuses (R196, R374, R378, R385, R496). -/
def refusal (s : State) (write : Bool) : Tgt → Option Fail
  | .stack k => if stackFenced s k then some (fFenced domStack k) else none
  | .ddr => if isFenced s domDdr 0 then some (fFenced domDdr 0) else none
  | .larder n =>
    if isFenced s domDie (n / 64) then some (fFenced domDie (n / 64))
    else if isFenced s domCore n || (coreOf s n).state == .fenced then some (fFenced domCore n) else none
  | .cellar _ =>
    let st := getF s CELLAR_STATUS CELLAR_STATUS_STATE
    if 3 ≤ st ∨ (write ∧ st = 2) then some (fFenced domBay (lowestMissing s)) else none
  | .guest g1 =>
    let g := bnat g1
    if getF s (GUEST_STATUS g) GUEST_STATUS_STATE = 4 then none else some (fFenced domGuest g)
  | .control => none
  | .none => none

/-! ### Interrupts and the writes an external host receives (R443, R509 to R515) -/

/-- Deliver vector V to the host die, or count it dropped (R443). -/
def hostIrq (v : Nat) (s : State) : State :=
  if getF s HC_STATUS HC_STATUS_STATE = 3 ∧ v / 256 % 256 ≤ 95 ∧ v % 256 ≠ 0 then
    { s with hc := { s.hc with irqs := setInsert s.hc.irqs (v % 65536) } }
  else incF HC_IRQ_DROP ⟨31, 0⟩ 1 s

def portIx (b : Bool) : Nat := bnat b

/-- Does the port's mode make it an endpoint (R511)? -/
def endpointMode (s : State) (b : Bool) : Bool :=
  let m := getF s (EXT_PORT_CTL (portIx b)) EXT_PORT_CTL_MODE
  m == 1 || m == 2 || m == 3

/-- A port begins to hold (R513); a host reset also needs RESUME. -/
def beginHold (b : Bool) (hostReset : Bool) (s : State) : State :=
  let i := portIx b
  let x := extPort s b
  let s1 := if hostReset then setF (EXT_PORT_STATUS i) EXT_PORT_STATUS_RESUME_NEEDED 1 s else s
  if x.holding then s1
  else
    let ms := getF s (EXT_PORT_CTL i) EXT_PORT_CTL_HOLD_MS
    let left := if ms = 0 then 1 else min ms 100
    setF (EXT_PORT_STATUS i) EXT_PORT_STATUS_HOLD_LEFT left
      (setF (EXT_PORT_STATUS i) EXT_PORT_STATUS_STATE 4
        (incF (EXT_HOLD i) EXT_HOLD_HOLDS 1 (setExt b { x with holding := true } s1)))

def ExtWrite.isWriteback (w : ExtWrite) : Bool := w.kind == 1 || w.kind == 5
def ExtWrite.isIrq (w : ExtWrite) : Bool := w.kind == 3 || w.kind == 4

/-- Hold a write: a writeback word replaces the one its queue held before (R513). It stands behind the records it counts and before
the queue's interrupts (R255, R256). -/
def holdWrite (held : List ExtWrite) (w : ExtWrite) : List ExtWrite :=
  if w.isWriteback then
    let own (h : ExtWrite) : Bool := h.queue == w.queue
    held.filter (fun h => !(own h && (h.isWriteback || h.isIrq))) ++ [w] ++ held.filter fun h => own h && h.isIrq
  else held ++ [w]

def queueLost (s : State) (q : Option Nat) : Bool :=
  match q with | none => false | some q => (queueOf s q).hostLost

/-- Something waits behind what a port holds. -/
def waitBehind (b : Bool) (w : ExtWrite) (s : State) : State :=
  setExt b { extPort s b with held := holdWrite (extPort s b).held w } s

/-- A write to an external host's memory: sent, held while the port holds, dropped for a lost queue (R509 to R515). -/
def extWrite (b : Bool) (w : ExtWrite) (s : State) : State :=
  if queueLost s w.queue then incF (EXT_HOLD (portIx b)) EXT_HOLD_DROPPED 1 s
  else
    let s1 := if getF s (EXT_PORT_STATUS (portIx b)) EXT_PORT_STATUS_BME = 0 then beginHold b false s else s
    let x := extPort s1 b
    if x.holding then waitBehind b w s1 else emit (.ext b w) s1

/-- The MSI-X message of an entry (R511). -/
def msixSend (b : Bool) (v : Nat) (q : Option Nat) (s : State) : State :=
  let x := extPort s b
  if 2048 ≤ v ∨ !endpointMode s b ∨ !x.msixEnable then incF (EXT_IRQ_DROP (portIx b)) EXT_IRQ_DROP_DROPS 1 s
  else
    let e := Assoc.get (fun _ => MsixEntry.reset) x.table v
    if e.masked || x.functionMask then
      setExt b { x with table := Assoc.put (fun _ => MsixEntry.reset) x.table v { e with pending := true } } s
    else extWrite b ⟨q, 3, e.addr, leBytes 4 e.data, 0⟩ s

/-- Raise VECTOR of IRQ_KIND (Table 08-2). -/
def raiseIrq (kind v : Nat) (q : Option Nat) (s : State) : State :=
  match kind with
  | 1 => hostIrq v s
  | 2 => msixSend false v q s
  | 3 => msixSend true v q s
  | _ => s

/-- An interrupt register: KIND in [17:16], VECTOR in [15:0]. -/
def raiseReg (off : Nat) (s : State) : State :=
  let v := getReg s off
  raiseIrq (bits v 17 16) (bits v 15 0) none s

/-! ### The life of a command (R248 to R259, R268 to R270) -/

/-- Contexts of a partition. -/
def ctxsOf (s : State) (p : Nat) : List (Nat × Ctx) := s.ctxs.filter fun x => x.2.part == p && x.2.state != .free

/-- Is a logical core enabled: assigned, not mapping in, not fenced? -/
def coreUp (s : State) (n : Nat) : Bool :=
  let st := (coreOf s n).state
  !(st == .unassigned || st == .fenced || st == .mappingIn) && !isFenced s domCore n && !isFenced s domDie (n / 64)

/-- The logical cores of a partition that can run commands (R351). -/
def partCores (s : State) (p : Nat) : List Nat :=
  (List.range 256).filter fun n => bitAt (partOf s p).cores n && coreUp s n

/-- Has a run of the program for a context a step on the core that has not ended? -/
def hasReady (n x : Nat) (p : Program) : Bool :=
  p.runs.any fun r => r.ctx == x && (List.range p.steps.length).any fun i =>
    (p.steps.map (·.core)).getD i 256 == n && !r.done.contains i

/-- The resident contexts of a core that have a step to issue (R268). -/
def readyCount (s : State) (n : Nat) : Nat :=
  ((coreOf s n).resident.filter fun x => s.progs.any fun e =>
    match e.2 with | none => false | some p => hasReady n x p).length

def leastCore (s : State) : List Nat → Option Nat
  | [] => none
  | n :: r =>
    match leastCore s r with
    | none => some n
    | some m => if readyCount s m < readyCount s n then some m else some n

/-- The core of a command (R268); in the service states of R422, the lowest usable core of the queue's home die. -/
def chooseCore (s : State) (svc q ctx : Nat) : Option Nat :=
  if svc = 1 then leastCore s (partCores s (ctxOf s ctx).part)
  else
    let d := (queueOf s q).homeLive
    ((List.range 64).map (64 * d + ·)).find? (coreUp s)

def isCmd (c : CmdRef) (e : Cmd) : Bool := e.ref.queue == c.queue && e.ref.index == c.index

/-- The entry of a command; a fresh one where no packet was fetched for it. -/
def cmdOf (s : State) (c : CmdRef) : Cmd :=
  match s.cmds.find? (isCmd c) with
  | some e => e
  | none =>
    let svc := getF s ORD_SVC ORD_SVC_STATE
    ⟨c, false, false, none, svc, (chooseCore s svc c.queue.toNat c.ctx.toNat).getD 256, bellNow s, false, none, [], []⟩

def putCmd (e : Cmd) (s : State) : State :=
  if s.cmds.any (isCmd e.ref) then { s with cmds := s.cmds.map fun x => if isCmd e.ref x then e else x }
  else { s with cmds := s.cmds ++ [e] }

/-- Counter a is before b (R232). -/
def counterBefore (a b : BitVec 32) : Bool := a != b && decide ((b - a).toNat < 2147483648)

/-- Has a command a request that is not yet acknowledged? -/
def owesAck (s : State) (c : CmdRef) : Bool :=
  let own (b : Barrier) : Bool := match b with | .cmd d => d.queue == c.queue && d.index == c.index | _ => false
  s.fab.outstanding.any (fun r => own r.owner) || (s.g0.requests ++ s.g1.requests).any fun r => own r.owner

/-- Is a write at another module or a guest site, of a command that `mine` picks, not yet acknowledged? -/
def writesOwed (s : State) (mine : CmdRef → Bool) : Bool :=
  let own (b : Barrier) : Bool := match b with | .cmd d => mine d | _ => false
  s.fab.outstanding.any (fun r => r.kind == 1 && own r.owner) || (s.g0.requests ++ s.g1.requests).any fun r => r.write && own r.owner

/-- A write that the release of a command waits for (R423, Table 14-3): one of a command that the queue's order places before it,
and in the states of R422 one of its core's agents. -/
def releaseWaitsFor (s : State) (e : Cmd) (d : CmdRef) : Bool :=
  let ordered := (queueOf s e.ref.queue.toNat).desc.program || e.barrier || e.svc != 1
  (ordered && d.queue == e.ref.queue && counterBefore d.index e.ref.index) || (e.svc != 1 && (cmdOf s d).core == e.core)

/-- Do the steps of a context wait with their adds (R423)? -/
def ctxOwes (s : State) (x : Nat) : Bool := writesOwed s fun d => d.ctx.toNat == x

/-- May a command complete: its status is settled, and in NORMAL its writes to other modules are acknowledged (R420). It completes
at the event COMMAND_COMPLETION, which writes its record (R270). -/
def settledAll (s : State) (e : Cmd) : Bool := e.result.isSome && !(e.svc == 1 && owesAck s e.ref)

/-- The fetched commands of a queue that come before a command. -/
def earlierCmds (s : State) (c : CmdRef) : List Cmd :=
  s.cmds.filter fun e => e.ref.queue == c.queue && counterBefore e.ref.index c.index

def isFence : Option Instr → Bool
  | some (.fence ..) => true
  | _ => false

/-- A release (R423). -/
def isRelease : Option Instr → Bool
  | some (.tallyAdd ..) | some (.tallySub ..) | some (.signalRemote ..) => true
  | _ => false

/-- Has a command its turn (R252, R253, R276)? In PROGRAM order the record of every earlier command is written too. -/
def hasPlace (s : State) (e : Cmd) : Bool :=
  let before := earlierCmds s e.ref
  let x := queueOf s e.ref.queue.toNat
  (!(x.desc.program || e.barrier || isFence e.instr) || before.isEmpty) && (!x.desc.program || x.held.isEmpty) &&
  before.all fun x => !(isFence x.instr && x.result.isNone)

/-- May a command start? A release waits for the writes of Table 14-3. -/
def mayStart (s : State) (e : Cmd) : Bool :=
  hasPlace s e && (!isRelease e.instr || !writesOwed s (releaseWaitsFor s e))

/-- A command's result: its status and detail, settled now (R270). -/
def finishCode (c : CmdRef) (code detail : Nat) (s : State) : State :=
  let e := cmdOf s c
  if e.result.isSome then s
  else advance (putCmd { e with started := true, result := some (code, detail % 65536, bellNow s, subnsNow s, clockNow s), heard := [], descs := [] } s)

def finish (c : CmdRef) (st : Status) (detail : Nat) (s : State) : State := finishCode c st.code detail s

def finishFail (c : CmdRef) (f : Fail) (s : State) : State := finishCode c f.1 f.2 s

def markStarted (i : Instr) (c : CmdRef) (s : State) : State :=
  putCmd { cmdOf s c with started := true, instr := some i } s

/-- The partition's fence and its cores, for a command that needs one (R351, R261), and the fence of its core (R91). -/
def noCore (s : State) (e : Cmd) : Option Fail :=
  let p := (ctxOf s e.ref.ctx.toNat).part
  if isFenced s domPart p then some (fFenced domPart p)
  else if 256 ≤ e.core then some (fFenced domPart p)
  else if isFenced s domCore e.core then some (fFenced domCore e.core) else none

/-- A core whose sequencer and dispatcher take new work: neither off, turning off or waking, nor being replaced (R95, R96,
R192, R193, R197). -/
def coreTakesWork (s : State) (n : Nat) : Bool :=
  let st := (coreOf s n).state
  st == .idle || st == .running || st == .parked

/-! ### Segment references (R267, R269, R348) -/

/-- The 25-bit key of a descriptor (R334, R347). -/
def descKey (part ctx seg : Nat) : Nat := (part * 131072 + ctx) * 16 + seg

def Tref.at (slot : Nat) (r : Tref) : Nat × Nat := (slot, r.seg.toNat)
def Bref.at (slot : Nat) (r : Bref) : Nat × Nat := (slot, r.seg.toNat)

/-- The operand slots of a packet command that name a segment, with the segment (Tables 09-4, 09-7 to 09-20). -/
def refsOf : Instr → List (Nat × Nat)
  | .queueMark _ p => match p.write with | some (r, _) => [Bref.at 10 r] | none => []
  | .copy _ (.tiles a b _) => [Tref.at 0 a, Tref.at 8 b]
  | .copy _ (.raw a b _) => [Bref.at 0 a, Bref.at 8 b]
  | .gather _ p => [Tref.at 8 p.base, Bref.at 10 p.idx]
  | .scatter _ p => [Tref.at 0 p.base, Bref.at 10 p.idx]
  | .zero _ (.tiles d ..) => [Tref.at 8 d]
  | .zero _ (.raw d _) => [Bref.at 8 d]
  | .cellarRead _ p => [Tref.at 8 p.mem]
  | .cellarWrite _ p => [Tref.at 0 p.mem]
  | .matmul _ p => [Tref.at 0 p.a, Tref.at 1 p.b, Tref.at 8 p.d]
  | .matmulAcc _ p => [Tref.at 0 p.base.a, Tref.at 1 p.base.b, Tref.at 2 p.c, Tref.at 8 p.base.d]
  | .anchorScan _ p => [Tref.at 0 p.a, Bref.at 9 p.res] ++ (match p.b with | some (r, _) => [Tref.at 1 r] | none => [])
  | .reduce _ p => [Tref.at 0 p.input, Tref.at 8 p.d]
  | .elementwise _ p => [Tref.at 0 p.x, Tref.at 8 p.d] ++ (if p.op.uses.1 && p.scalar.isNone then [Tref.at 1 p.y] else []) ++
      (if p.op.uses.2 then [Tref.at 2 p.z] else [])
  | .func _ p => [Tref.at 0 p.x, Tref.at 8 p.d]
  | .softmax _ p => [Tref.at 0 p.x, Tref.at 8 p.d]
  | .norm _ p => [Tref.at 0 p.row.x, Tref.at 1 p.gb, Tref.at 8 p.row.d]
  | .rowstat _ p _ => [Tref.at 0 p.x, Tref.at 8 p.d]
  | .microprogLoad _ r _ => [Bref.at 10 r]
  | .signalHost _ p | .signalHostAdd _ p => match p.dest with | .seg r => [Bref.at 10 r] | .port .. => []
  | .epochStage _ p => [Tref.at 0 p.src]
  | .stepLoad _ _ r _ => [Bref.at 10 r]
  | .stepRun _ p => if p.argCount = 0 then [] else [Bref.at 10 p.args]
  | .dumpCoreRegs _ _ r _ | .dumpSpill _ r _ | .dumpLedger _ r _ => [Bref.at 10 r]
  | _ => []

/-- Does a walk in flight hold up a reference of a command on its core's die, which its core's cache does not hold
(R348)? -/
def walkFor (s : State) (e : Cmd) (i : Instr) (w : Walk) : Bool :=
  w.die == e.core / 64 && (refsOf i).any fun r =>
    w.key == descKey (ctxOf s e.ref.ctx.toNat).part e.ref.ctx.toNat r.2 &&
    !((coreOf s e.core).segCache.any fun d => d.key == w.key)

/-- The command waits for the walks that hold it up. -/
def waitWalk (i : Instr) (e : Cmd) (s : State) : State :=
  { s with walks := s.walks.map fun w => if walkFor s e i w then { w with waiters := w.waiters ++ [e.ref] } else w }

/-- Is a command under way: staged for a bell, waiting on a tally, a run, a commit or a self-test in progress? -/
def inHand (s : State) (c : CmdRef) : Bool :=
  let same (d : CmdRef) : Bool := d.queue == c.queue && d.index == c.index
  let opt (d : Option CmdRef) : Bool := (d.map same).getD false
  s.staged.any (fun i => same i.cmd) || s.waiters.any (fun w => same w.owner) || s.walks.any (fun w => w.waiters.any same) ||
  s.progs.any (fun e => match e.2 with
    | none => false
    | some p => p.runs.any (fun r => same r.cmd) || opt p.unloading || opt (p.commit.bind (·.cmd))) ||
  s.cores.any (fun e => [e.2.e0, e.2.e1, e.2.e2, e.2.e3].any fun x => opt x.patrolFor)

/-- What every packet command meets before its own effect: its turn, an abort of its context, its partition's cores; a core
that takes no work for the time being holds it up. -/
def runCmd (i : Instr) (c : CmdRef) (needsCore : Bool) (s : State) (body : Cmd → State → State) : State :=
  let e := { cmdOf s c with instr := some i }
  if !mayStart s e || e.result.isSome || inHand s c then s
  else if (ctxOf s c.ctx.toNat).state == .aborting then finishFail c (fAbort 1) s
  else match (if needsCore then noCore s e else none) with
    | some f => finishFail c f s
    | none =>
      if needsCore && !coreTakesWork s e.core then s
      else if s.walks.any (walkFor s e i) then waitWalk i e s else body e (markStarted i c s)

/-- A store of a command is declared failed, or its target answers a fault: the command completes with that status, in
place of a success that is not recorded yet (R345, R430). -/
def failStored (c : CmdRef) (f : Fail) (s : State) : State :=
  if !(s.cmds.any fun e => e.ref.queue == c.queue && e.ref.index == c.index) then s
  else
    let e := cmdOf s c
    match e.result with
    | none => finishFail c f s
    | some r => if !failing r.1 then putCmd { e with result := some (f.1, f.2 % 65536, r.2.2) } s else s

/-! ### Requests to other modules (R472 to R481) -/

/-- Does an entry of the routing table route (R477)? -/
def routes (s : State) (r : Route) : Bool := r.valid && (r.static || getF s FAB_CFG_LIVE FAB_CFG_ROUTE_AUTO == 1)

/-- The answer of a module that cannot be reached. -/
def peerGone (s : State) (m : Nat) : Option Fail :=
  let r := routeOf s m
  if routes s r && !r.lost then none else some (fPeer m)

def portUp (s : State) (p : Nat) : Bool := getF s (FAB_PORT_STATUS p) FAB_PORT_STATUS_STATE == 3

/-- The port a message leaves on: PORT, or the alternate while PORT is not UP (R478, R479). -/
def usablePort (s : State) (m : Nat) : Option Nat :=
  let r := routeOf s m
  if !routes s r then none
  else if portUp s r.port then some r.port
  else if r.altValid && portUp s r.altPort then some r.altPort
  else none

/-- Flits of a message (Table 16-2). -/
def flitsOf (m : FabMsg) : Nat := ceilDiv (32 + m.bytes.length) 240

/-- A message leaves on a port: its flits enter the replay buffer (R469). -/
def transmit (p : Nat) (m : FabMsg) (s : State) : State :=
  let f := fport s p
  let n := flitsOf m
  emit (.fabric p m) (setFport p { f with
    txSeq := (f.txSeq + n) % 4096
    replay := f.replay ++ (List.range n).map fun i => (f.txSeq + i) % 4096 } s)

/-- A message leaves, or is held where its destination has no usable port (R479). -/
def launch (m : FabMsg) (s : State) : State :=
  match usablePort s m.dest with
  | some p => transmit p m s
  | none => { s with fab := { s.fab with held := s.fab.held ++ [m] } }

/-- The TTL a message of this module starts with (R478). -/
def ownTtl (s : State) (dest : Nat) : Nat := (routeOf s dest).hops + getF s FAB_CFG_LIVE FAB_CFG_TTL_SLACK

def ownMsg (s : State) (kind dest cls seq : Nat) (retx : Bool) (args : List Nat) (bs : List Byte) : FabMsg :=
  ⟨kind, moduleId s, dest, cls, seq, ownTtl s dest, retx, args, bs⟩

/-- Bytes that the retransmission pool of 32 MiB holds (R480). -/
def poolUsed (s : State) : Nat := ((s.fab.outstanding.filter (·.sent)).map fun r => 32 + r.bytes.length).sum

def linkTmo (s : State) : Nat := max 10 (min 10000 (getF s FAB_CFG_LIVE FAB_CFG_LINK_TMO))

/-- Send a request of a kind (Table 16-4) and keep it until it is acknowledged; one that finds the pool full waits. A fault
of it is reported in an operand slot and with a segment. -/
def sendReqAt (sl : Nat × Nat) (parts : List (Nat × Nat)) (dest cls kind : Nat) (args : List Nat) (bs : List Byte)
    (owner : Barrier) (s : State) : State :=
  let k := dest * 4 + cls
  let q := Assoc.get (fun _ => 0) s.fab.nextSeq k
  let fits := decide (poolUsed s + 32 + bs.length ≤ 0x2000000) && s.fab.outstanding.all (·.sent)
  let s1 := { s with fab := { s.fab with
    outstanding := s.fab.outstanding ++ [⟨dest, cls, q, kind, args, bs, owner, sl.1, sl.2, fits, false, linkTmo s, parts⟩]
    nextSeq := Assoc.put (fun _ => 0) s.fab.nextSeq k ((q + 1) % 2 ^ 32) } }
  if fits then launch (ownMsg s1 kind dest cls q false args bs) s1 else s1

def sendReq (dest cls kind : Nat) (args : List Nat) (bs : List Byte) (owner : Barrier) (s : State) : State :=
  sendReqAt (11, 0) [] dest cls kind args bs owner s

end Sys2Proof.Machine
end

