-- ==== Sys2Proof/Machine/Operands.lean ====
section
/-! DEFINITION. The operands of commands: segment descriptors and their caches (R339 to R348), the checks of an access
(R344, R345), where a segment's bytes lie, encryption (R355), reading, writing and checking tiles (R46, R54 to R60), and
what is charged for them (R272, R273, R315). -/

namespace Sys2Proof.Machine

open Sys2Proof

/-! ### Segment descriptors -/

/-- A segment as its descriptor gives it (Table 11-2), for a context of partition `part`. -/
structure Seg where
  base : Nat
  module : Nat
  len : Nat
  cls : Nat
  rights : Nat
  flags : Nat
  rseg : Nat
  rctx : Nat
  peer : Nat
  volume : Nat
  part : Nat
  deriving DecidableEq, Repr

def mib2 : Nat := 0x200000

/-- A byte field of a descriptor number. -/
def df (d o n : Nat) : Nat := d / 2 ^ (8 * o) % 2 ^ (8 * n)

def Seg.ofNat (part d : Nat) : Seg where
  base := df d 0 6
  module := df d 6 2
  len := df d 8 4 * mib2
  cls := df d 12 1
  rights := df d 13 1
  flags := df d 14 1
  rseg := df d 15 1
  rctx := df d 16 4
  peer := df d 20 2
  volume := df d 22 1
  part := part

def Seg.valid (g : Seg) : Bool := bitAt g.flags 0
def Seg.exported (g : Seg) : Bool := bitAt g.flags 1
def Seg.anyPeer (g : Seg) : Bool := bitAt g.flags 2

/-- Tiles of a segment (R46). -/
def Seg.tiles (g : Seg) : Nat := (g.len - g.len / 64) / 4096
def Seg.payloadOff (i : Nat) : Nat := 4096 * i
def Seg.headerOff (g : Seg) (i : Nat) : Nat := g.len - g.len / 64 + 64 * i

/-- Target classes (Table 11-3). -/
def clsLarder : Nat := 1
def clsNear : Nat := 2
def clsWoven : Nat := 3
def clsDdr : Nat := 4
def clsCellar : Nat := 5
def clsGuest : Nat := 6
def clsRemote : Nat := 7

/-- Rights bits (R339). -/
def rtRead : Nat := 1
def rtWrite : Nat := 2
def rtExec : Nat := 4
def rtSignal : Nat := 8

/-- The pool set of a key (R347). -/
def poolSet (k : Nat) : Nat := bits k 8 0 ^^^ bits k 17 9 ^^^ bits k 24 18

/-- A read of `n` bytes of local memory shows in its tier where it meets poison (R180, R366). -/
def noteRead (a n : Nat) (s : State) : State :=
  if !poisoned s a n then s
  else match tgtOf s a with
    | .larder m => setF (LARDER_ECC m) LARDER_ECC_POISON_READ 1 s
    | .stack k => setF (STK_ECC k) STK_ECC_POISON_READ 1 s
    | _ => s

/-- A walker's read of a segment table, sound or not. -/
def noteDescRead (ctx seg : Nat) (s : State) : State := noteRead ((ctxOf s ctx).segTable + 32 * seg) 32 s

/-- The descriptor in the segment table, if the walker's read returns it (R348). -/
def descMem (s : State) (ctx seg : Nat) : Option Nat :=
  let a := (ctxOf s ctx).segTable + 32 * seg
  match tgtOf s a with
  | .none => none
  | t => if (refusal s false t).isSome || poisoned s a 32 then none else some (leNat (readMem s a 32))

/-- Put a descriptor at the front of a least-recently-used list of `n`. -/
def touch (n key desc : Nat) (l : List CachedDesc) : List CachedDesc :=
  (⟨key, desc⟩ :: l.filter fun e => e.key != key).take n

def lookup (key : Nat) (l : List CachedDesc) : Option Nat := (l.find? fun e => e.key == key).map (·.desc)

def poolKey (die key : Nat) : Nat := die * 512 + poolSet key

def poolOf (s : State) (die key : Nat) : List CachedDesc := Assoc.get (fun _ => []) s.dpool (poolKey die key)

def putPool (die key : Nat) (l : List CachedDesc) (s : State) : State :=
  { s with dpool := Assoc.put (fun _ => []) s.dpool (poolKey die key) l }

def fillCore (n key desc : Nat) (s : State) : State :=
  let c := coreOf s n
  setCore n { c with segCache := touch 64 key desc c.segCache } s

/-- A failed walk is counted, and the ledger records the table address (R348). -/
def noteWalkFail (die ctx seg : Nat) (s : State) : State :=
  ledger 0x0302 4 (fenceCode domDie die) (moduleId s * 2 ^ 48 + ((ctxOf s ctx).segTable + 32 * seg)) (ledgerData [(0, 1, die)])
    (incF (WALK_FAIL die) WALK_FAIL_WALK_FAIL 1 s)

/-- Resolve a descriptor for a core: its segment cache, its die's pool, the table in memory (R346 to R348). For a command without a
core the table is read. -/
def resolveDesc (core ctx seg : Nat) (s : State) : State × Option Nat :=
  let key := descKey (ctxOf s ctx).part ctx seg
  let die := core / 64
  if 256 ≤ core then (noteDescRead ctx seg s, descMem s ctx seg)
  else match lookup key (coreOf s core).segCache with
  | some d => (incF (SEGC_HITS core) SEGC_HITS_SEGC_HITS 1 (fillCore core key d s), some d)
  | none =>
    let s1 := incF (SEGC_MISSES core) SEGC_MISSES_SEGC_MISSES 1 s
    match lookup key (poolOf s1 die key) with
    | some d => (fillCore core key d (putPool die key (touch 16 key d (poolOf s1 die key)) s1), some d)
    | none =>
      match descMem s1 ctx seg with
      | none => (noteWalkFail die ctx seg (noteDescRead ctx seg s1), none)
      | some d =>
        (incF (WALK_DONE die) WALK_DONE_WALK_DONE 1
          (fillCore core key d (putPool die key (touch 16 key d (poolOf s1 die key)) s1)), some d)

/-! ### Where bytes lie -/

/-- Where a segment offset lies. -/
inductive Place where
  /-- A local physical address, with the key pair its data is encrypted under. -/
  | mem (a : Nat) (pair : Option Nat)
  /-- A byte of a cellar volume. -/
  | vol (v b : Nat)
  /-- Memory outside the module: module ID, or 65538 + guest site. -/
  | far (where_ addr : Nat)
  deriving DecidableEq, Repr

def guestWhere (g1 : Bool) : Nat := 65538 + bnat g1

/-- The key pair a partition's data is encrypted under at a local address (R355). -/
def pairFor (s : State) (part a : Nat) : Option Nat :=
  let p := partOf s part
  let key := (Assoc.get (fun _ => none) s.mgmt.dataKeys p.keySlot).getD 0
  match tgtOf s a with
  | .stack _ => if p.keyStack then some key else none
  | .ddr => if p.keyDdr then some key else none
  | _ => none

/-- The first byte of a volume that its aperture shows, in units of 2 MiB: the value of BASE in use (R381). BASE has no
shadow that software can read; the model keeps one beyond the control window. -/
def aperLive (v : Nat) : Nat := CELLAR_APER v + 0x10000000
def aperBase (s : State) (v : Nat) : Nat := getF s (aperLive v) CELLAR_APER_BASE

/-- The place of an offset of a local segment. -/
def localPlace (s : State) (g : Seg) (o : Nat) : Place :=
  if g.cls = clsCellar then .vol g.volume (aperBase s g.volume * mib2 + (g.base + o) % 0x100000000)
  else if g.cls = clsGuest then .far (guestWhere (decide (0x078000000000 ≤ g.base))) (g.base + o)
  else .mem (g.base + o) (pairFor s g.part (g.base + o))

/-- The target of a REMOTE segment that names this module (R345): the segment it leads to. -/
def selfTarget (s : State) (g : Seg) : Option Seg :=
  (descMem s g.rctx g.rseg).map (Seg.ofNat (ctxOf s g.rctx).part)

def isSelf (s : State) (g : Seg) : Bool := g.cls == clsRemote && g.module == moduleId s

def placeOf (s : State) (g : Seg) (o : Nat) : Place :=
  if g.cls = clsRemote then
    if g.module = moduleId s then
      match selfTarget s g with
      | some t => localPlace s t (g.base + o)
      | none => .far g.module (g.base + o)
    else .far g.module (g.base + o)
  else localPlace s g o

/-- The sectors from the one that holds `a`, decrypted, as bytes. -/
def plainSectors (s : State) (pair first : Nat) : Nat → List Byte
  | 0 => []
  | n + 1 => xtsSector false pair first (readMem s (64 * first) 64) ++ plainSectors s pair (first + 1) n

def sectorsOf (a n : Nat) : Nat := (touchedSectors a n).length

/-- Read bytes at a place. -/
def placeRead (s : State) (p : Place) (n : Nat) : List Byte :=
  match p with
  | .mem a none => readMem s a n
  | .mem a (some k) => slice (plainSectors s k (a / 64) (sectorsOf a n)) (a % 64) n
  | .vol v b => readCellar s v b n
  | .far w a => (List.range n).map fun i => Config.outsideByte w (a + i) s.tick

def placePoison (s : State) (p : Place) (n : Nat) : Bool :=
  match p with
  | .mem a _ => poisoned s a n
  | .vol v b => cellarPoisoned s v b n
  | .far .. => false

/-- Encrypted bytes of a run of sectors. -/
def cipherSectors (pair first : Nat) : Nat → List Byte → List Byte
  | 0, _ => []
  | n + 1, bs => xtsSector true pair first (bs.take 64) ++ cipherSectors pair (first + 1) n (bs.drop 64)

/-- A request to memory outside the module, outstanding until it is answered (R420, R425, R480, R496): a read asks for
`n` bytes, a write carries its bytes. A fault of it is reported in operand slot `sl.1` with segment `sl.2`. -/
def farRequest (sl : Nat × Nat) (where_ addr n : Nat) (write : Option (List Byte)) (owner : Barrier) (s : State) : State :=
  if where_ < 65536 then
    match write with
    | none => sendReqAt sl [] where_ 2 0x02 [addr, n] [] owner s
    | some bs => sendReqAt sl [] where_ 2 0x01 [addr] bs owner s
  else
    let g1 := decide (where_ = 65539)
    let g := guestOf s g1
    setGuest g1 { g with
      requests := g.requests ++ [⟨g.nextTag, owner, sl.1, sl.2, write.isSome, addr, n⟩]
      nextTag := (g.nextTag + 1) % 4096 } s

/-- Write bytes at a place. `sl` names the operand slot and segment a fault of a write elsewhere is reported in. -/
def placeWrite (sl : Nat × Nat) (p : Place) (bs : List Byte) (owner : Barrier) (s : State) : State :=
  match p with
  | .mem a none => writeMem a bs s
  | .mem a (some k) =>
    let n := sectorsOf a bs.length
    let old := plainSectors s k (a / 64) n
    let new := old.take (a % 64) ++ bs ++ old.drop (a % 64 + bs.length)
    clearPoison (wholeSectors a bs.length)
      { s with mem := putBytes memReset s.mem (64 * (a / 64)) (cipherSectors k (a / 64) n new) }
  | .vol v b => writeCellar v b bs s
  | .far w a => farRequest sl w a bs.length (some bs) owner s

/-- Poison the destination sector of a raw copy (R180). -/
def placePoisonWrite (p : Place) (s : State) : State :=
  match p with
  | .mem a _ => poisonSector (a / 64) s
  | _ => s

/-- Write the sector of a raw copy whole and poisoned (R180). A write to another module carries the mark; one to a guest site
carries none (log 128). -/
def placeWriteBad (sl : Nat × Nat) (p : Place) (bs : List Byte) (owner : Barrier) (s : State) : State :=
  match p with
  | .far w a =>
    if w < 65536 then sendReqAt sl [] w 2 0x01 [a, 1] bs owner s else placeWrite sl p bs owner s
  | _ => placePoisonWrite p (placeWrite sl p bs owner s)

/-- The class whose allotment traffic of a segment is charged to: 2 stack, 3 fabric, 4 host, 0 none (Table 09-6, R345). -/
def chargeClass (s : State) (g : Seg) : Nat :=
  let cls := if isSelf s g then ((selfTarget s g).map (·.cls)).getD 0 else g.cls
  if cls = clsNear ∨ cls = clsWoven then 2 else if cls = clsRemote then 3 else if cls = clsDdr then 4 else 0

/-! ### Charging (R272, R315, R316) -/

def budgetOf (x : Ctx) (cls : Nat) : Budget :=
  match cls with | 1 => x.engine | 2 => x.stack | 3 => x.fabric | _ => x.host
def putBudget (x : Ctx) (cls : Nat) (b : Budget) : Ctx :=
  match cls with
  | 1 => { x with engine := b } | 2 => { x with stack := b } | 3 => { x with fabric := b } | _ => { x with host := b }

/-- Units of a granule: 112 engine cycles, or one (R314). -/
def granule (cls : Nat) : Nat := if cls = 1 then 112 else 1

/-- Draw one block for `n` units the local balance does not cover (R315). -/
def drawBlock (cls core n : Nat) (b : Budget) : Budget :=
  let g := granule cls
  let block := min b.pool (max (ceilDiv (b.eff / g) 64 * g) n)
  { b with
    pool := b.pool - block
    locals := Assoc.put (fun _ => (0 : Int)) b.locals core (Assoc.get (fun _ => 0) b.locals core + block) }

def localBal (b : Budget) (core : Nat) : Int := Assoc.get (fun _ => 0) b.locals core

/-- Charge `n` units to a class on a core: from the local balance, after one draw where it does not reach. What is
still uncovered becomes a negative balance, and the context has parked (R316, R317; log 12). -/
def chargeCtx (cls core n : Nat) (x : Ctx) : Ctx :=
  let b := budgetOf x cls
  let b1 := if (n : Int) ≤ localBal b core then b else drawBlock cls core n b
  let b2 := { b1 with locals := Assoc.put (fun _ => (0 : Int)) b1.locals core (localBal b1 core - n) }
  let x1 := putBudget x cls b2
  if localBal b2 core < 0 then
    { x1 with
      parkedBits := x1.parkedBits ||| 2 ^ (cls - 1)
      parked := setInsert x1.parked (core * 4 + (cls - 1)) }
  else x1

def charge (cls ctx core n : Nat) (s : State) : State :=
  if cls = 0 ∨ n = 0 then s else setCtx ctx (chargeCtx cls core n (ctxOf s ctx)) s

/-- Charge a unit of work before it is issued, after a draw where the local balance does not reach; none where the context
parks (R175, R315, R316): a traffic unit is issued only where the balance covers it, a step while any balance is left. -/
def payUnit (cls core n : Nat) (x : Ctx) : Option Ctx :=
  let b := budgetOf x cls
  let b1 := if (n : Int) ≤ localBal b core then b else drawBlock cls core n b
  if (if cls = 1 then 0 < localBal b1 core else (n : Int) ≤ localBal b1 core) then
    some (putBudget x cls { b1 with locals := Assoc.put (fun _ => (0 : Int)) b1.locals core (localBal b1 core - n) })
  else none

/-- Park a context on a core on a class: its local balance is used up and a draw finds the pool empty (R175, R315). -/
def parkCtx (x n cls : Nat) (s : State) : State :=
  let cx := ctxOf s x
  setCtx x { cx with parkedBits := cx.parkedBits ||| 2 ^ (cls - 1), parked := setInsert cx.parked (n * 4 + (cls - 1)) } s

/-! ### A command at work -/

/-- A command that runs: the state it has reached, its first failure, its truncation and vector flags, and the tiles
whose staging it has paid for (R272). -/
structure Work where
  s : State
  c : CmdRef
  core : Nat
  fail : Option Fail
  trunc : Bool
  flags : VFlags
  /-- The ROW flags of R156 to R164, as the row unit reports them. -/
  rowCode : Nat
  seen : List (Nat × Nat)
  /-- The class on which it has parked. -/
  parked : Option Nat
  /-- Does it park where its allotment is spent? -/
  parks : Bool
  /-- What it had before it parked and has not had again yet; what it has had so far, newest first; the descriptors it
  has resolved. -/
  log : List Heard
  heard : List Heard
  descs : List CachedDesc

/-- A command starts, or resumes where it parked. -/
def Work.start (c : CmdRef) (core : Nat) (s : State) : Work :=
  ⟨s, c, core, none, false, {}, 0, [], none, true, (cmdOf s c).heard, [], (cmdOf s c).descs⟩

/-- No more work: it has failed or parked. -/
def Work.failed (w : Work) : Bool := w.fail.isSome || w.parked.isSome

/-- Record a failure; the first stays (R270). -/
def Work.stop (w : Work) (f : Fail) : Work := if w.failed then w else { w with fail := some f }

def Work.ctx (w : Work) : Nat := w.c.ctx.toNat

/-- Change the state. -/
def Work.upd (w : Work) (f : State → State) : Work := { w with s := f w.s }

def Heard.ok : Heard := ⟨none, 0, none⟩

/-- One exchange with the machine: as it was before the command parked, or made now. -/
def Work.hear (w : Work) (f : Work → Work × Heard) : Work × Heard :=
  if w.parked.isSome then (w, .ok)
  else match w.log with
    | a :: r => ({ w with log := r, heard := a :: w.heard, fail := w.fail.orElse fun _ => a.fail }, a)
    | [] =>
      let (w1, a) := f w
      if w1.parked.isSome then (w1, a)
      else
        let a1 := { a with fail := if w.fail.isSome then none else w1.fail }
        ({ w1 with heard := a1 :: w1.heard }, a1)

/-- An effect. -/
def Work.mod (w : Work) (f : State → State) : Work := (w.hear fun w => (w.upd f, .ok)).1

/-- A number that the machine gives. -/
def Work.read (w : Work) (f : State → Nat) : Work × Nat :=
  let (w1, a) := w.hear fun w => (w, { Heard.ok with num := f w.s })
  (w1, a.num)

/-- A check, of which the failure stops the command. -/
def Work.check (w : Work) (f : State → Option Fail) : Work :=
  if w.failed then w
  else (w.hear fun w => (match f w.s with | some e => w.stop e | none => w, .ok)).1

/-- Pay for `n` units of a class, or park. -/
def Work.payNow (w : Work) (cls n : Nat) : Work :=
  if cls = 0 ∨ n = 0 then w
  else if !w.parks then w.upd (Machine.charge cls w.ctx w.core n)
  else match payUnit cls w.core n (ctxOf w.s w.ctx) with
    | some x => w.upd (setCtx w.ctx x)
    | none => { w.upd (parkCtx w.ctx w.core cls) with parked := some cls }

/-- Charge a class for the command. -/
def Work.charge (w : Work) (cls n : Nat) : Work :=
  if w.failed then w else (w.hear fun w => (w.payNow cls n, .ok)).1

/-- Charge the traffic of `n` units on a segment, each as it is issued. -/
def Work.traffic (w : Work) (g : Seg) : Nat → Work
  | 0 => w
  | n + 1 => if w.failed then w else ((w.hear fun w => (w.payNow (chargeClass w.s g) 1, .ok)).1).traffic g n

/-- Resolve the descriptor of a reference in an operand slot, and check VALID, its rights and its class
(R344 checks 1 to 3, R348). -/
def Work.seg (w : Work) (slot seg rights : Nat) (classOk : Nat → Bool) : Work × Nat :=
  let (s1, r) := resolveDesc w.core w.ctx seg w.s
  let w1 := { w with s := s1 }
  match r with
  | none => (w1.stop (fWalk slot seg (w.core / 64)), 0)
  | some d =>
    let g := Seg.ofNat (ctxOf s1 w.ctx).part d
    if !g.valid then (w1.stop (fSeg slot seg rNoSegment), d)
    else if bitAt rights 0 && !bitAt g.rights 0 then (w1.stop (fSeg slot seg rNoRead), d)
    else if bitAt rights 1 && !bitAt g.rights 1 then (w1.stop (fSeg slot seg rNoWrite), d)
    else if bitAt rights 2 && !bitAt g.rights 2 then (w1.stop (fSeg slot seg rNoExec), d)
    else if bitAt rights 3 && !bitAt g.rights 3 then (w1.stop (fSeg slot seg rNoSignal), d)
    else if !classOk g.cls then (w1.stop (fSeg slot seg rClass), d)
    else (w1, d)

/-- Checks 6 and 7 of R344 for a range of bytes of a segment: populated, and the volume granted and large enough. -/
def rangeFault (s : State) (slot seg : Nat) (g : Seg) (o n : Nat) : Option Fail :=
  if g.cls = clsLarder then
    if (coreOf s ((g.base - 0x040000000000) / 0x100000000)).state = .unassigned then some (fSeg slot seg rUnpopulated) else none
  else if g.cls = clsGuest then
    let g1 := decide (0x078000000000 ≤ g.base)
    match (guestOf s g1).cap with
    | none =>
      if getF s ID_DEVICE ID_DEVICE_VARIANT = 1 then none else some (fSeg slot seg rUnpopulated)
    | some c =>
      if getF s (GUEST_STATUS (bnat g1)) GUEST_STATUS_STATE ≠ 4 then none
      else if bitAt c.roles.toNat 0 && decide ((g.base + o + n) % 0x008000000000 ≤ c.size.toNat) then none
      else some (fSeg slot seg rUnpopulated)
  else if g.cls = clsCellar then
    if !bitAt (partOf s g.part).volumes g.volume then some (fSeg slot seg rVolume)
    else if aperBase s g.volume * mib2 + (g.base + o) % 0x100000000 + n
        ≤ getF s (CELLAR_VOL g.volume) CELLAR_VOL_SIZE * mib2 then none
    else some (fSeg slot seg rVolume)
  else none

/-- The checks of Table 11-5a, at the target of a REMOTE access: segment `g.rseg` of context `g.rctx`, from offset `o`
(R345). -/
def exportFault (s : State) (slot seg rights sender : Nat) (g : Seg) (o n : Nat) : Option Fail :=
    let x := (ctxOf s g.rctx).state
    match selfTarget s g with
    | none => some (fSeg slot seg rNoSegment)
    | some t =>
      if x == .free ∨ !t.valid ∨ !t.exported ∨ !(t.anyPeer || t.peer == sender) then some (fSeg slot seg rNoSegment)
      else if t.cls = clsRemote then some (fSeg slot seg rClass)
      else if bitAt rights 0 && !bitAt t.rights 0 then some (fSeg slot seg rNoRead)
      else if bitAt rights 1 && !bitAt t.rights 1 then some (fSeg slot seg rNoWrite)
      else if bitAt rights 2 && !bitAt t.rights 2 then some (fSeg slot seg rNoExec)
      else if bitAt rights 3 && !bitAt t.rights 3 then some (fSeg slot seg rNoSignal)
      else if t.len < g.base + o + n then some (fSeg slot seg rLimit)
      else rangeFault s slot seg t (g.base + o) n

/-- The same for a REMOTE segment that leads back to this module. -/
def selfFault (s : State) (slot seg rights : Nat) (g : Seg) (o n : Nat) : Option Fail :=
  if isSelf s g then exportFault s slot seg rights (moduleId s) g o n else none

/-- The command has resolved a descriptor. -/
def Work.hold (w : Work) (d : CachedDesc) : Work := if w.descs.contains d then w else { w with descs := d :: w.descs }

/-- A reference that has been resolved: the segment, which serves the command until it ends (R297). -/
def Work.ref (w : Work) (seg : Nat) (f : Work → Work × Nat) : Work × Seg :=
  let part := (ctxOf w.s w.ctx).part
  if w.failed then (w, Seg.ofNat part 0)
  else
    let (w1, a) := w.hear fun w => let (w1, d) := f w; (w1, { Heard.ok with num := d })
    (w1.hold ⟨descKey part w.ctx seg, a.num⟩, Seg.ofNat part a.num)

/-- A reference to tiles whose highest index is `last` (R266, R344). -/
def Work.tilesRef (w : Work) (slot : Nat) (r : Tref) (last rights : Nat) (classOk : Nat → Bool := fun _ => true) : Work × Seg :=
  w.ref r.seg.toNat fun w =>
    let (w1, d) := w.seg slot r.seg.toNat rights classOk
    let g := Seg.ofNat (ctxOf w.s w.ctx).part d
    if w1.failed then (w1, d)
    else if g.tiles ≤ last then (w1.stop (fSeg slot r.seg.toNat rTileIndex), d)
    else match rangeFault w1.s slot r.seg.toNat g 0 (g.headerOff last + 64) with
      | some f => (w1.stop f, d)
      | none => match selfFault w1.s slot r.seg.toNat rights g 0 (g.headerOff last + 64) with
        | some f => (w1.stop f, d)
        | none => (w1, d)

/-- A reference to `n` bytes from offset `o` (R344). -/
def Work.bytesRef (w : Work) (slot : Nat) (r : Bref) (n rights : Nat) (classOk : Nat → Bool := fun _ => true) : Work × Seg :=
  w.ref r.seg.toNat fun w =>
    let (w1, d) := w.seg slot r.seg.toNat rights classOk
    let g := Seg.ofNat (ctxOf w.s w.ctx).part d
    if w1.failed then (w1, d)
    else if g.len < r.off.toNat + n then (w1.stop (fSeg slot r.seg.toNat rLimit), d)
    else match rangeFault w1.s slot r.seg.toNat g r.off.toNat n with
      | some f => (w1.stop f, d)
      | none => match selfFault w1.s slot r.seg.toNat rights g r.off.toNat n with
        | some f => (w1.stop f, d)
        | none => (w1, d)

/-- Step 3 of R269: a class charged must have an allotment, and one unit must fit it (R273). -/
def Work.allot (w : Work) (cls unit : Nat) : Work :=
  w.check fun s =>
    let e := (budgetOf (ctxOf s w.ctx) cls).eff
    if cls ≠ 0 ∧ (e = 0 ∨ e < unit) then some (fAllot cls) else none

def Work.allotSeg (w : Work) (g : Seg) : Work := w.allot (chargeClass w.s g) 1

/-- What refuses an access to a place: a fenced target, a module that cannot be reached, an error the other side
answers (R374, R378, R385, R496, R345). -/
def placeFault (s : State) (write : Bool) (slot seg : Nat) (p : Place) : Option Fail :=
  match p with
  | .mem a _ =>
    match tgtOf s a with
    | .none => some (fSeg slot seg rUnpopulated)
    | t => refusal s write t
  | .vol v _ => refusal s write (.cellar v)
  | .far w a =>
    let gone := if w < 65536 then peerGone s w
      else refusal s write (.guest (decide (w = 65539)))
    match gone with
    | some f => some f
    | none =>
      let c := (Config.outsideFault w a s.tick).toNat
      if c = 0 then none else some (fSeg slot seg (if 1 ≤ c ∧ c ≤ 0x0B then c else rUnpopulated))

/-- Set the POISON_READ flag of the tier that holds an address (R180, R366). -/
def notePoisonRead (s : State) (p : Place) : State :=
  match p with
  | .mem a _ =>
    match tgtOf s a with
    | .larder n => setF (LARDER_ECC n) LARDER_ECC_POISON_READ 1 s
    | .stack k => setF (STK_ECC k) STK_ECC_POISON_READ 1 s
    | _ => s
  | _ => s

/-- The global address of a place, for the ledger (R26). -/
def globalAddr (s : State) (p : Place) : Nat :=
  match p with
  | .mem a _ => moduleId s * 2 ^ 48 + a
  | .vol v b => moduleId s * 2 ^ 48 + (0x060000000000 + v * 0x100000000 + b % 0x100000000)
  | .far w a => w % 65536 * 2 ^ 48 + a % 2 ^ 48

/-- The TILE_CORRUPT record of a failed check or transfer (R58, R371, Table 20-3). -/
def ledgerTile (dom slot : Nat) (p : Place) (h : Header) (s : State) : State :=
  ledger 0x0101 2 dom (globalAddr s p)
    (ledgerData [(0, 4, h.gen), (4, 2, h.prodModule), (6, 2, h.prodUnit), (8, 4, h.prodCtx), (12, 4, h.epoch), (16, 1, slot)]) s

def ledgerCorrupt (slot : Nat) (p : Place) (h : Header) (s : State) : State := ledgerTile 0 slot p h s

/-- The state that a second read of a header finds: one of memory outside the module is another draw. -/
def laterRead (s : State) : State := { s with tick := s.tick + 1 }

/-- What a consumer sees of a tile: its header, its payload, its header again (R57), at payload and header places. -/
def viewAt (s : State) (pp ph : Place) : TileView :=
  let hp := placePoison s ph 64
  ⟨Header.ofBytes (placeRead s ph 64), hp, placeRead s pp 4096, placePoison s pp 4096,
    Header.ofBytes (placeRead (laterRead s) ph 64), hp⟩

/-- A larder of a core that is OFF is woken for an access (R195). -/
def wakeLarder (p : Place) (s : State) : State :=
  match p with
  | .mem a _ =>
    (match tgtOf s a with
    | .larder n => if (coreOf s n).state == .off then setCore n { coreOf s n with larderAwake := true } s else s
    | _ => s)
  | _ => s

/-- A command waits, with what it has had so far: for an engine of its core (R72, R93, R97), or for an access that is held
(R197). -/
def Work.await (w : Work) : Work := { w with parked := some 0 }

/-- Is an access held: does it reach the larder of a core that a spare is replacing (R197)? -/
def placeHeld (s : State) (p : Place) : Bool :=
  match p with
  | .mem a _ =>
    (match tgtOf s a with
    | .larder n => (coreOf s n).state == .mappingIn && !isFenced s domCore n && !isFenced s domDie (n / 64)
    | _ => false)
  | _ => false

/-- Keep an access that has to wait for a spare (R197). -/
def holdAccess (i : HeldAccess) (s : State) : State := { s with heldPort := s.heldPort ++ [i] }

/-- Ask for `n` bytes of a place outside the module; its answer is a free value. -/
def Work.ask (w : Work) (slot seg : Nat) (p : Place) (n : Nat) : Work :=
  match p with
  | .far d a => w.upd (farRequest (slot, seg) d a n none (.cmd w.c))
  | _ => w

/-- Check a tile at use and read it (R57 to R59), from its payload and header places. -/
def Work.loadNow (w : Work) (slot seg : Nat) (pp ph : Place) (accepts : Fmt → Bool) : Work × Option (Fmt × Tile) :=
  if placeHeld w.s pp || placeHeld w.s ph then (w.await, none)
  else match (placeFault w.s false slot seg pp).orElse fun _ => placeFault w.s false slot seg ph with
  | some f => (w.stop f, none)
  | none =>
    let s0 := wakeLarder pp (((w.ask slot seg ph 64).ask slot seg pp 4096).ask slot seg ph 64).s
    let v := viewAt s0 pp ph
    match tileCheck accepts v with
    | .ok t => ({ w with s := s0 }, some t)
    | .error e =>
      let s1 := if v.firstPoison then notePoisonRead s0 ph else if v.payloadPoison then notePoisonRead s0 pp else s0
      let s2 := if e = .corrupt then ledgerCorrupt slot pp v.first s1 else s1
      ({ w with s := s2 }.stop (fTile slot e), none)

def Work.loadAt (w : Work) (slot seg : Nat) (pp ph : Place) (accepts : Fmt → Bool) : Work × Option (Fmt × Tile) :=
  if w.failed then (w, none)
  else
    let (w1, a) := w.hear fun w => let (w1, t) := w.loadNow slot seg pp ph accepts; (w1, { Heard.ok with tile := t })
    (w1, a.tile)

/-- The header of a tile at its places, its poison and GEN checked, but no payload (R114, R283). -/
def Work.headerAt (w : Work) (slot seg : Nat) (pp ph : Place) : Work × Header :=
  if w.failed then (w, Header.ofBytes [])
  else
    let (w1, a) := w.hear fun w => if placeHeld w.s ph then (w.await, .ok) else match placeFault w.s false slot seg ph with
      | some f => (w.stop f, .ok)
      | none =>
        let w := (w.ask slot seg ph 64).upd (wakeLarder ph)
        let b := placeRead w.s ph 64
        let w1 :=
          if placePoison w.s ph 64 then
            (w.upd fun s => ledgerCorrupt slot pp (Header.ofBytes b) (notePoisonRead s ph)).stop (fTile slot .corrupt)
          else if (Header.ofBytes b).gen % 2 = 1 then w.stop (fTile slot (.torn false))
          else w
        (w1, { Heard.ok with num := leNat b })
    (w1, Header.ofBytes (leBytes 64 a.num))

/-- The place some bytes on. -/
def Place.shift (o : Nat) : Place → Place
  | .mem a k => .mem (a + o) k
  | .vol v b => .vol v (b + o)
  | .far w a => .far w (a + o)

/-- Store the open value of a tile's GEN, header bytes 8 to 11 (R54 stage 1). -/
def openTile (slot seg : Nat) (ph : Place) (gen : Nat) (own : Barrier) (s : State) : State :=
  placeWrite (slot, seg) (ph.shift 8) (leBytes 4 (genOpen gen)) own s

/-- The error that waits for the next transfer of a tile to the stack of a place (R371). -/
def transferUpset (s : State) (p : Place) : Option (Nat × Bool) :=
  match p with
  | .mem a _ =>
    (match tgtOf s a with
    | .stack k => s.upsets.findSome? fun u => match u with | .transfer j again => if j = k then some (k, again) else none | _ => none
    | _ => none)
  | _ => none

/-- The base die checks a transfer's CRC before it commits the header (R371): at a first mismatch the tile is resent, at a second
the command fails and the tile is sealed INVALID (R60). `put` stores the tile sealed over the open value `o`. -/
def Work.transfer (w : Work) (pp : Place) (t : Tile) (o : Nat) (put : Tile → Work → Work) : Work :=
  match transferUpset w.s pp with
  | none => put (t.sealed o) w
  | some (k, again) =>
    let w1 := w.upd fun s => setF (STK_ECC k) STK_ECC_TILE_RETRY 1 { s with upsets := s.upsets.erase (.transfer k again) }
    if again then
      let bad := (Tile.mk { t.hdr with flags := t.hdr.flags ||| 2 } t.payload).sealed o
      ((put bad w1).upd (ledgerTile (fenceCode domStack k) 8 pp (t.sealed o).hdr)).stop (fTile 8 .corrupt)
    else put (t.sealed o) w1

/-- Write a tile in the three stages of R54 over the destination's own GEN sequence, at its payload and header
places: the open value, the payload, the complete header. -/
def Work.storeAt (w : Work) (slot seg : Nat) (pp ph : Place) (h : Header) (payload : List Byte) : Work :=
  if w.failed then w
  else (w.hear fun w =>
    if placeHeld w.s pp || placeHeld w.s ph then (w.await, .ok)
    else match (placeFault w.s true slot seg pp).orElse fun _ => placeFault w.s true slot seg ph with
    | some f => (w.stop f, .ok)
    | none =>
      let w := (w.ask slot seg ph 64).upd (wakeLarder pp)
      let old := Header.ofBytes (placeRead w.s ph 64)
      let own : Barrier := .cmd w.c
      (w.transfer pp (Tile.mk h payload) (genOpen old.gen) fun t w => w.upd fun s => placeWrite (slot, seg) ph t.hdr.toBytes own (placeWrite (slot, seg) pp payload own
        (openTile slot seg ph old.gen own s)), .ok)).1

/-- Store raw bytes at a place. -/
def Work.storeBytes (w : Work) (slot seg : Nat) (p : Place) (bs : List Byte) : Work :=
  if w.failed then w
  else (w.hear fun w =>
    if placeHeld w.s p then (w.await, .ok)
    else match placeFault w.s true slot seg p with
    | some f => (w.stop f, .ok)
    | none => (w.upd fun s => placeWrite (slot, seg) p bs (.cmd w.c) (wakeLarder p s), .ok)).1

/-- Pay for a tile before it moves (R316); what an access that is refused at once would move is not charged. -/
def Work.payTile (w : Work) (write : Bool) (slot seg : Nat) (g : Seg) (pp : Place) : Work :=
  if w.failed then w
  else (w.hear fun w => (if (placeFault w.s write slot seg pp).isSome then w else w.payNow (chargeClass w.s g) 1, .ok)).1

/-- Charge tile `i` of a segment and write it (R54, R272). The header may carry INVALID (R60). -/
def Work.store (w : Work) (slot seg : Nat) (g : Seg) (i : Nat) (h : Header) (payload : List Byte) : Work :=
  let pp := placeOf w.s g (Seg.payloadOff i)
  (w.payTile true slot seg g pp).storeAt slot seg pp (placeOf w.s g (g.headerOff i)) h payload

/-- Do a numbered piece of work `n` times from `i` up, until one fails. -/
def Work.each (f : Nat → Work → Work) : Nat → Nat → Work → Work
  | 0, _, w => w
  | n + 1, i, w => if w.failed then w else Work.each f n (i + 1) (f i w)

/-- The same, carrying a segment along. -/
def Work.each' (f : Nat → Work → Seg → Work × Seg) : Nat → Nat → Seg → Work → Work × Seg
  | 0, _, g, w => (w, g)
  | n + 1, i, g, w => if w.failed then (w, g) else let (w1, g1) := f i w g; Work.each' f n (i + 1) g1 w1

/-- The header of a result tile of this command (R51): producer kind, and its index. -/
def Work.hdr (w : Work) (f : Fmt) (flags rows cols maxexp kind index epoch : Nat) : Header :=
  Header.result f flags rows cols maxexp (moduleId w.s) (prodUnit kind w.core index) w.ctx epoch (bellNow w.s)

/-- Seal a destination tile invalid (R60, R76). -/
def Work.storeInvalid (w : Work) (slot seg : Nat) (g : Seg) (i : Nat) (h : Header) : Work :=
  let f := w.fail
  { ({ w with fail := none }.store slot seg g i { h with flags := h.flags ||| 2 } (List.replicate 4096 0)) with fail := f }

/-- End a command whose reference has failed. -/
def Work.quit (w : Work) : State := match w.fail with | some f => finishFail w.c f w.s | none => w.s

/-- `n` bytes of data of a command, of which poison fails it with `bad` (R180). -/
def Work.bytes (w : Work) (bad : Fail) (slot seg : Nat) (g : Seg) (o n : Nat) : Work × List Byte :=
  if w.failed then (w, [])
  else
    let (w1, a) := w.hear fun w =>
      let p := placeOf w.s g o
      if placeHeld w.s p then (w.await, .ok)
      else match placeFault w.s false slot seg p with
      | some f => (w.stop f, .ok)
      | none =>
        let w := (w.ask slot seg p n).upd (wakeLarder p)
        if placePoison w.s p n then ((w.upd fun s => notePoisonRead s p).stop bad, .ok)
        else (w, { Heard.ok with num := leNat (placeRead w.s p n) })
    (w1, leBytes n a.num)

/-- Control data of a command, 8 bytes of a byte reference (R180). -/
def Work.word (w : Work) (slot seg : Nat) (g : Seg) (o : Nat) : Work × Nat :=
  let (w1, b) := w.bytes (fTile slot .corrupt) slot seg g o 8
  (w1, leNat b)

end Sys2Proof.Machine
end

