-- ==== Sys2Proof/Machine/TallyOps.lean ====
section
/-! DEFINITION. Tallies as their units apply them (R391 to R412): the checks of Table 13-3 and of counter pairs, scope
records, waiters and how a change of count serves them. -/

namespace Sys2Proof.Machine

open Sys2Proof

/-- ATTR of an entry (Table 13-12). -/
def taMode (a : Nat) : Nat := bits a 1 0
def taExport (a : Nat) : Bool := bitAt a 2
def taAnyPeer (a : Nat) : Bool := bitAt a 3
def taPlaced (a : Nat) : Bool := bitAt a 7
def taPartnerDie (a : Nat) : Nat := bits a 15 13
def taPartnerIndex (a : Nat) : Nat := bits a 31 16
def taPairN (a : Nat) : Nat := bits a 47 32
def taPeer (a : Nat) : Nat := bits a 63 48
def taPair (a : Nat) : Bool := taMode a == 1 || taMode a == 2

/-- Tallies of a die (Table 13-1). -/
def tallyCount (die : Nat) : Nat := if die < 4 then 65536 else 16384

/-- The instance an agent is part of (Table 13-6): module, logical core, engine. -/
def scopeInst (m core e : Nat) : Nat := m * 65536 + core % 256 * 4 + e % 4

/-- Does the instance of the wider level contain the narrower (R403)? -/
def contains_ (wl wi nl ni : Nat) : Bool :=
  decide (nl ≤ wl) &&
  match wl with
  | 0 => wi == ni
  | 1 => wi / 4 == ni / 4
  | 2 => wi / 65536 == ni / 65536
  | _ => true

/-- A release's update of the scope record (R404). -/
def releaseScope (r : ScopeRec) (l i : Nat) : ScopeRec :=
  match r with
  | .noRec => .level l i
  | .disjoint => .disjoint
  | .level rl ri =>
    if rl ≤ l then (if contains_ l i rl ri then .level rl ri else .disjoint)
    else if contains_ rl ri l i then .level l i else .disjoint

/-- Is an acquire by a chip agent short, and what are the recorded level and the acquirer scope (R405)? -/
def shortAcquire (r : ScopeRec) (inst : Nat) : Option (Nat × Nat) :=
  match r with
  | .noRec => none
  | .disjoint => some (6, 4)
  | .level l i =>
    if contains_ l i 0 inst then none
    else some (l, if i / 4 = inst / 4 then 1 else if i / 65536 = inst / 65536 then 2 else if l ≤ 3 then 3 else 4)

/-- A partition's command may name the tally: one of its grants, not placed (R289, R393, R354). -/
def tallyGranted (s : State) (part die i : Nat) : Bool :=
  decide (i < tallyCount die) && !taPlaced (tallyOf s die i).attr.toNat &&
  (partOf s part).grants.any fun g => g.die == die && decide (g.first ≤ i) && decide (i < g.first + g.count)

def incOps (die : Nat) (s : State) : State := incF (TALLY_OPS die) ⟨63, 0⟩ 1 s
def incFaults (die : Nat) (s : State) : State := incF (TALLY_FAULTS die) ⟨31, 0⟩ 1 s

/-- The partner value of an ADD to a pair member, read from the partner (R401). -/
def partnerValue (s : State) (a : Nat) : Except Fail Nat :=
  if taPeer a = moduleId s then .ok (tallyOf s (taPartnerDie a) (taPartnerIndex a)).count.toNat
  else match peerGone s (taPeer a) with
    | some f => .error f
    | none => .ok (leNat ((List.range 8).map fun i =>
        Config.outsideByte (taPeer a) (tallyKey (taPartnerDie a) (taPartnerIndex a) * 8 + i) s.tick))

/-- The checks of ADD (R394, R402). -/
def addFault (die i n v : Nat) (t : Tally) : Option Fail :=
  let a := t.attr.toNat
  if t.bound.toNat < t.count.toNat + n then some (fTally true die i false)
  else if taMode a = 1 ∧ taPairN a + v < t.count.toNat + n then some (fTally true die i true)
  else if taMode a = 2 ∧ v < t.count.toNat + n then some (fTally false die i true)
  else none

/-! ### Waiters -/

/-- Capacity of a unit (R395). -/
def waiterCap (die : Nat) : Nat := if die < 4 then 8192 else 2048

def registered (s : State) (die : Nat) : Nat := (s.waiters.filter fun w => w.die == die && !w.held).length

/-- The partition of a waiter. -/
def waiterPart (s : State) (o : CmdRef) : Nat := (ctxOf s o.ctx.toNat).part

/-- Does a strict partition refuse this acquire (R405)? -/
def strictShort (s : State) (o : CmdRef) (core : Nat) (t : Tally) : Bool :=
  (partOf s (waiterPart s o)).strict && (shortAcquire t.scope (scopeInst (moduleId s) core 0)).isSome

/-- The record of a completed acquire (R289, R405). -/
def acquireDone (o : CmdRef) (core : Nat) (t : Tally) (s : State) : State :=
  match shortAcquire t.scope (scopeInst (moduleId s) core 0) with
  | none => finish o .ok 0 s
  | some (l, a) =>
    if (partOf s (waiterPart s o)).strict then finish o .scopeShort (l * 16 + a) s
    else finish o .ok 0x0403 s

/-- A TAKE takes effect: N subtracted and the record cleared, unless a strict partition refuses it (R394, R404, R405). -/
def takeEffect (die i n core : Nat) (o : CmdRef) (s : State) : State :=
  let t := tallyOf s die i
  let s1 := acquireDone o core t s
  if strictShort s o core t then s1
  else setTally die i { t with count := t.count - BitVec.ofNat 64 n, scope := .noRec } s1

def onTally (die i : Nat) (w : Waiter) : Bool := w.die == die && w.index == i && !w.held

/-- Complete every WAIT_GE the count covers (R396). -/
def serveWaits (die i : Nat) (s : State) : State :=
  let t := tallyOf s die i
  let ready := s.waiters.filter fun w => onTally die i w && !w.take && decide (w.n ≤ t.count.toNat)
  ready.foldl (fun s w => acquireDone w.owner w.core t s)
    { s with waiters := s.waiters.filter fun w => !(onTally die i w && !w.take && decide (w.n ≤ t.count.toNat)) }

/-- Serve the TAKE waiters in the order they registered, up to the first that cannot be served (R396). -/
def serveTakes (die i : Nat) : List Waiter → State → State
  | [], s => s
  | w :: r, s =>
    if w.n ≤ (tallyOf s die i).count.toNat then
      serveTakes die i r (takeEffect die i w.n w.core w.owner { s with waiters := s.waiters.filter (· != w) })
    else s

/-- After a change of COUNT (R396). -/
def serve (die i : Nat) (s : State) : State :=
  let s1 := serveWaits die i s
  serveTakes die i (s1.waiters.filter fun w => onTally die i w && w.take) s1

/-! ### Operations -/

/-- ADD n with partner value v, a release at level l of instance inst. -/
def applyAdd (die i n v l inst : Nat) (s : State) : State × Option Fail :=
  let t := tallyOf s die i
  let s1 := incOps die s
  match addFault die i n v t with
  | some f => (incFaults die s1, some f)
  | none =>
    (serve die i (setTally die i { t with count := t.count + BitVec.ofNat 64 n, scope := releaseScope t.scope l inst } s1), none)

/-- SUB n (R394, R400). -/
def applySub (die i n l inst : Nat) (s : State) : State × Option Fail :=
  let t := tallyOf s die i
  let s1 := incOps die s
  if taPair t.attr.toNat then (incFaults die s1, some (fTally false die i true))
  else if t.count.toNat < n then (incFaults die s1, some (fTally false die i false))
  else
    (serve die i (setTally die i { t with count := t.count - BitVec.ofNat 64 n, scope := releaseScope t.scope l inst } s1), none)

/-- ADD by an agent of the chip, which reads the partner first (R401). -/
def addWithPartner (die i n l inst : Nat) (s : State) : State × Option Fail :=
  let t := tallyOf s die i
  if taPair t.attr.toNat then
    match partnerValue s t.attr.toNat with
    | .error f => (s, some f)
    | .ok v => applyAdd die i n v l inst s
  else applyAdd die i n 0 l inst s

/-- Register a waiter, or hold it at its core while the unit is full (R395). -/
def addWaiter (w : Waiter) (s : State) : State :=
  { s with waiters := s.waiters ++ [{ w with held := decide (waiterCap w.die ≤ registered s w.die) }] }

/-- WAIT_GE N of a command (R394, R396). -/
def applyWait (die i n core : Nat) (o : CmdRef) (s : State) : State × Option Fail :=
  let t := tallyOf s die i
  if t.bound.toNat < n then (incFaults die (incOps die s), some (fParam 0x02 0))
  else if n ≤ t.count.toNat then (acquireDone o core t (incOps die s), none)
  else (addWaiter ⟨die, i, false, n, core, o, false⟩ (incOps die s), none)

/-- TAKE N of a command (R394, R396, R400). -/
def applyTake (die i n core : Nat) (o : CmdRef) (s : State) : State × Option Fail :=
  let t := tallyOf s die i
  let s1 := incOps die s
  if taPair t.attr.toNat then (incFaults die s1, some (fTally false die i true))
  else if t.bound.toNat < n then (incFaults die s1, some (fParam 0x02 0))
  else if n ≤ t.count.toNat ∧ !(s.waiters.any fun w => onTally die i w && w.take) then
    (if strictShort s o core t then takeEffect die i n core o s1 else serve die i (takeEffect die i n core o s1), none)
  else (addWaiter ⟨die, i, true, n, core, o, false⟩ s1, none)

/-- End the waiters that a test picks, each command with a failure (R412). -/
def dropWaiters (p : Waiter → Bool) (f : Fail) (s : State) : State :=
  (s.waiters.filter p).foldl (fun s w => finishFail w.owner f s)
    { s with waiters := s.waiters.filter fun w => !p w }

end Sys2Proof.Machine
end

