-- ==== Sys2Proof/Machine/RunOps.lean ====
section
/-! DEFINITION. How runs and commands end (R218 to R223, R261, R296): the work a run has in the cores, its completion
in order, its failure and what it does to later runs and to the streams, and the end of a command at work. -/

namespace Sys2Proof.Machine

open Sys2Proof

def sameCmd (a b : CmdRef) : Bool := a.queue == b.queue && a.index == b.index

/-! ### Runs -/

/-- Opcodes of a step entry (Tables 07-20, 09-1). -/
def opCopy : Nat := 0x0100
def opZero : Nat := 0x0103
def opMatmul : Nat := 0x0200
def opMatmulAcc : Nat := 0x0201
def opReduce : Nat := 0x0203
def opElem : Nat := 0x0204
def opFunc : Nat := 0x0300
def opSoftmax : Nat := 0x0301
def opNorm : Nat := 0x0302
def opRowstat : Nat := 0x0303

def PStep.isMatmul (p : PStep) : Bool := p.op == opMatmul || p.op == opMatmulAcc
def PStep.isRow (p : PStep) : Bool := p.op == opSoftmax || p.op == opNorm || p.op == opRowstat

def Program.step? (p : Program) (i : Nat) : Option PStep := p.steps[i]?

def runOf (p : Program) (r : Nat) : Option Run := p.runs.find? (·.id == r)

def putRun (p : Program) (r : Run) : Program :=
  { p with runs := p.runs.map fun x => if x.id = r.id then r else x }

def modProg (h : Nat) (f : Program → Program) (s : State) : State :=
  match progOf s h with | none => s | some p => setProg h (some (f p)) s

def flightOf (h r : Nat) (e : Engine) : Bool :=
  match e.flight with | some f => f.handle == h && f.run == r | none => false

def Core.engines (c : Core) : List Engine := [c.e0, c.e1, c.e2, c.e3]

/-- Has the run a step in flight on an engine? -/
def flying (s : State) (h r : Nat) : Bool := s.cores.any fun e => e.2.engines.any (flightOf h r)

def chainOf (h r : Nat) (c : Chain) : Bool := c.cmd.isNone && c.handle == h && c.run == r

def Engine.dropChains (p : Chain → Bool) (e : Engine) : Engine :=
  match e.chain with
  | some c => if p c then { e with chain := none, h0 := .reset, h1 := .reset } else e
  | none => e

/-- Remove some chains, spilled or in an engine, without a drain (R91). -/
def Core.dropChains (p : Chain → Bool) (c : Core) : Core :=
  { c with
    e0 := c.e0.dropChains p
    e1 := c.e1.dropChains p
    e2 := c.e2.dropChains p
    e3 := c.e3.dropChains p
    spilled := c.spilled.filter fun x => !p x.chain }

/-- Remove a run's chains. -/
def dropRun (h r : Nat) (s : State) : State :=
  s.cores.foldl (fun s e => setCore e.1 (e.2.dropChains (chainOf h r)) s) s

/-- Remove a command's chain from its core. -/
def dropCmdChain (c : CmdRef) (n : Nat) (s : State) : State :=
  setCore n ((coreOf s n).dropChains fun x => (x.cmd.map (sameCmd c)).getD false) s

/-- The pins a context holds on a slot by EPOCH_PIN. -/
def Slot.pinsOf (t : Slot) (x : Nat) : Nat := Assoc.get (fun _ => 0) t.pins x
def Slot.setPins (t : Slot) (x n : Nat) : Slot := { t with pins := Assoc.put (fun _ => 0) t.pins x n }

def Program.slot (p : Program) (k : Nat) : Slot :=
  match k with | 0 => p.s0 | 1 => p.s1 | _ => p.s2
def Program.setSlot (p : Program) (k : Nat) (t : Slot) : Program :=
  match k with | 0 => { p with s0 := t } | 1 => { p with s1 := t } | _ => { p with s2 := t }

/-- Is the stream's produced counter, or its consumed counter, in this module (R214)? -/
def Stream.pHere (t : Stream) : Bool := t.peer == 0 || t.inbound
def Stream.cHere (t : Stream) : Bool := !t.inbound

def setCount (d i n : Nat) (s : State) : State := setTally d i { tallyOf s d i with count := BitVec.ofNat 64 n } s

/-- Set the counters of every stream to what completed runs produced (R223 step 4). -/
def resetStreams (p : Program) (s : State) : State :=
  (p.streams ++ p.locals).foldl (fun s t =>
    let s1 := if t.pHere then setCount t.pDie t.pIndex t.settled s else s
    if t.cHere then setCount t.cDie t.cIndex t.settled s1 else s1) s

/-- Tiles that a run has had on stream `j`, on the local output stream of number `l`. -/
def localKey (l : Nat) : Nat := l + 2 ^ 40
def Run.madeOn (r : Run) (j : Nat) : Nat := Assoc.get (fun _ => 0) r.made j

/-- The anchor words of a run that has ended are done with. -/
def Program.dropAnchors (p : Program) (r : Nat) : Program := { p with anchors := p.anchors.filter fun e => e.1 % 2 ^ 32 != r }

/-- The streams after a run that has completed: its tiles are settled. -/
def Program.settle (p : Program) (r : Run) : Program :=
  { p.dropAnchors r.id with
    streams := p.streams.zipIdx.map fun (t, k) => { t with settled := t.settled + r.madeOn k }
    locals := p.locals.zipIdx.map fun (t, k) => { t with settled := t.settled + r.madeOn (localKey k) } }

/-- Release the staging slots of some staged inputs of a run: the copy unit's consumed counter counts them (R221). -/
def dropStaged (h r : Nat) (drop : StagedIn → Bool) (s : State) : State :=
  match progOf s h with
  | none => s
  | some p =>
    match runOf p r with
    | none => s
    | some x =>
      let s1 := p.staging.foldl (fun s t =>
        let n := (x.staged.filter fun y => drop y && t.ring.contains y.slot && (p.step? y.step).any fun q => q.core == t.consumer).length
        setCount t.cDie t.cIndex ((tallyOf s t.cDie t.cIndex).count.toNat + n) s) s
      setProg h (some (putRun p { x with staged := x.staged.filter fun y => !drop y })) s1

/-- Has a context work on a core: a program it loaded, or a run of one, with a step there? -/
def hasWork (s : State) (x n : Nat) : Bool :=
  s.progs.any fun q => match q.2 with
    | none => false
    | some o => (o.ctx == x || o.runs.any fun r => r.ctx == x) && o.steps.any fun t => t.core == n

/-- Take a context off the dispatchers of the cores where it has no work left (R171). -/
def unresident (x : Nat) (s : State) : State :=
  s.cores.foldl (fun s e =>
    if !e.2.resident.contains x || hasWork s x e.1 then s
    else setCore e.1 { coreOf s e.1 with resident := setErase (coreOf s e.1).resident x } s) s

/-- The Reeve places a context on a core's dispatcher, where one of its 64 entries is free (R171). -/
def takeIn (x n : Nat) (s : State) : State :=
  let c := coreOf s n
  if c.resident.contains x || decide (64 ≤ c.resident.length) then s
  else setCore n { c with resident := setInsert c.resident x } s

/-- Held tiles of a program that is gone are held blocks of no step any more. -/
def Engine.forget (h : Nat) (e : Engine) : Engine :=
  let f (l : List HeldTile) : List HeldTile := l.filter fun x => !(x.id.head? != some 0 && (x.id.drop 1).head? == some h)
  { e with held := f e.held, shadow := f e.shadow, buffers := f e.buffers }

def forgetTiles (h : Nat) (s : State) : State :=
  s.cores.foldl (fun s e => setCore e.1 { e.2 with
    e0 := e.2.e0.forget h, e1 := e.2.e1.forget h, e2 := e.2.e2.forget h, e3 := e.2.e3.forget h } s) s

/-- Release a program's pins, slots and tallies (R206, R209). -/
def releaseProg (h : Nat) (p : Program) (s : State) : State :=
  let s1 := forgetTiles h (setProg h none s)
  let s2 := (p.streams ++ p.locals ++ p.staging).foldl (fun s t =>
    let s1 := if t.pHere then setTally t.pDie t.pIndex .reset s else s
    if t.cHere then setTally t.cDie t.cIndex .reset s1 else s1) s1
  (p.ctx :: p.runs.map (·.ctx)).foldl (fun s x => unresident x s) s2

/-- The set a command names. -/
def cmdSet : Option Instr → Option Nat
  | some (.func _ p) => some p.set.toNat
  | some (.softmax _ p) | some (.rowstat _ p _) => some p.set.toNat
  | some (.norm _ p) => some p.row.set.toNat
  | _ => none

/-- Does a run of a partition, or a command at work, use on a core a set that its partition has lost with the core (R146)? -/
def setUsedOn (s : State) (n id : Nat) : Bool :=
  let away (part : Nat) : Bool := !bitAt (partOf s part).cores n
  (s.progs.any fun e => match e.2 with
    | none => false
    | some p => away p.part && p.sets.contains id && !p.runs.isEmpty && p.steps.any fun t => t.core == n) ||
  s.cmds.any fun e => !e.descs.isEmpty && e.core == n && away (ctxOf s e.ref.ctx.toNat).part && cmdSet e.instr == some id

/-- The sets that left with a core go once nothing uses them there (R146). -/
def dropLeft (s : State) : State :=
  s.cores.foldl (fun s e =>
    let gone (l : LoadedSet) : Bool := l.leaving && !setUsedOn s e.1 l.set.setId
    if e.2.sets.any gone then setCore e.1 { e.2 with sets := e.2.sets.filter fun l => !gone l } s else s) s

/-- Does a run of the partition, or a command that has parked, use a set? -/
def setInUse (s : State) (part id : Nat) : Bool :=
  (s.progs.any fun e => match e.2 with
    | none => false
    | some p => p.part == part && p.sets.contains id && !p.runs.isEmpty) ||
  s.cmds.any fun e => !e.descs.isEmpty && (ctxOf s e.ref.ctx.toNat).part == part && cmdSet e.instr == some id

/-- Take a set off the cores of a partition (R144). -/
def dropSet (part id : Nat) (s : State) : State :=
  let s1 := s.cores.foldl (fun s e =>
    if bitAt (partOf s part).cores e.1 then setCore e.1 { e.2 with sets := e.2.sets.filter fun x => x.leaving || x.set.setId != id } s else s) s
  { s1 with partSets := s1.partSets.filter fun x => !(x.1 == part && x.2.setId == id) }

/-- Does a run, or a command that has parked, hold a descriptor whose key lies in a range? -/
def descHeld (s : State) (lo hi : Nat) : Bool :=
  let meets (l : List CachedDesc) : Bool := l.any fun d => decide (lo ≤ d.key) && decide (d.key < hi)
  (s.progs.any fun e => match e.2 with
    | none => false
    | some p => p.runs.any fun r => meets r.descs) || s.cmds.any fun e => meets e.descs

/-- The set unloads and the SEG_SETs that no run holds up any more complete (R144, R297). -/
def sweep (s0 : State) : State :=
  let s := dropLeft s0
  s.staged.foldl (fun s i => match i.item with
    | .setUnload id =>
      if setInUse s i.target id then s
      else bumpMeas (finish i.cmd .ok 0 { dropSet i.target id s with staged := s.staged.filter (· != i) })
    | .descWait lo hi =>
      if descHeld s lo hi then s else finish i.cmd .ok 0 { s with staged := s.staged.filter (· != i) }
    | _ => s) s

/-- Programs a context loaded. -/
def progsOf (s : State) (x : Nat) : List (Nat × Program) :=
  s.progs.filterMap fun e => e.2.bind fun p => if p.ctx = x then some (e.1, p) else none

/-- The last program of a context that is being destroyed or aborted has gone: the context is freed, or runs on
(R296, R338). -/
def endTeardown (x : Nat) (s : State) : State :=
  if !(progsOf s x).isEmpty then s
  else match (ctxOf s x).state with
    | .destroying => setCtx x Ctx.free { s with segs := s.segs.filter fun e => e.1 / 16 != x }
    | .aborting => setCtx x { ctxOf s x with state := .active } s
    | _ => s

/-! ### Commits that end without a switch (R327, R329) -/

/-- Messages of a parish commit: 0 PREPARE, 1 VOTE, 2 DECIDE, 3 ABORT (Table 10-5), as the EPOCH messages of Table 16-4. -/
def sendEpoch (dest op : Nat) (args : List Nat) (s : State) : State := sendReq dest 0 0x08 (op :: args) [] .none s

/-- The modules joined to this one by a cross-module stream of the handle. -/
def Program.peers (p : Program) : List Nat := p.streams.foldl (fun l t => if t.peer = 0 then l else setInsert l t.peer) []

/-- A participant whose slot is STAGING holds its vote: the commit is not PENDING here yet (R327). -/
def Commit.voteHeld (m : Commit) : Bool := m.prev == .staging

/-- The slot returns to what it was and the commit ends (R329). -/
def endCommit (h : Nat) (s : State) : State :=
  modProg h (fun p => match p.commit with
    | none => p
    | some m => { p.setSlot m.slot { p.slot m.slot with state := m.prev } with commit := none }) s

/-- End a commit at this module without a switch: ABORT from its coordinator to every participant, a STALE vote from a participant
that holds its vote, and its status to the command. -/
def failCommit (h : Nat) (f : Fail) (s : State) : State :=
  match (progOf s h).bind fun p => p.commit.map fun m => (p, m) with
  | none => s
  | some (p, m) =>
    let s1 := endCommit h s
    let s2 :=
      if !m.parish || m.decided then s1
      else if m.coordinator = moduleId s then p.peers.foldl (fun s x => sendEpoch x 3 [h] s) s1
      else if m.voteHeld then sendEpoch m.coordinator 1 [h, 1] s1 else s1
    match m.cmd with
    | none => s2
    | some c => finishFail c f s2

/-- The commits of some programs end (Table 10-6). -/
def failCommits (pick : Program → Bool) (f : Fail) (s : State) : State :=
  s.progs.foldl (fun s e => if e.2.any pick then failCommit e.1 f s else s) s

/-- The commit of a command that is aborted ends with it; a parish commit whose DECIDE has gone out switches all the same (R328). -/
def abortCommit (c : CmdRef) (f : Fail) (s : State) : State :=
  match s.progs.findSome? fun e => e.2.bind fun p => p.commit.bind fun m => if m.cmd = some c then some (e.1, m) else none with
  | none => s
  | some (h, m) =>
    if m.parish && m.decided then modProg h (fun p => { p with commit := some { m with cmd := none } }) s else failCommit h f s

/-- The stage of a slot has ended: the vote that was held for it is cast, YES where the slot is STAGED with the epoch of the PREPARE,
otherwise STALE (R327, R329). -/
def castVote (h : Nat) (s : State) : State :=
  match (progOf s h).bind fun p => p.commit.map fun m => (p, m) with
  | none => s
  | some (p, m) =>
    let t := p.slot m.slot
    if !m.voteHeld || t.state == .staging then s
    else if t.state == .staged && t.epoch == m.epoch then
      sendEpoch m.coordinator 1 [h, 0] (modProg h (fun p => { p.setSlot m.slot { t with state := .pending } with
        commit := some { m with prev := .staged } }) s)
    else sendEpoch m.coordinator 1 [h, 1] (modProg h (fun p => { p with commit := none }) s)

def rHandle : Nat := 0x34

/-- An unload whose last run has ended (R209): a commit of the handle ends with it. The unload of a context
being torn down completes with the last. -/
def finishUnload (h : Nat) (s : State) : State :=
  match progOf s h with
  | none => s
  | some p =>
    match p.unloading with
    | some c =>
      if !p.runs.isEmpty then s
      else
        let s1 := releaseProg h p (failCommit h (fParam rHandle 0) s)
        let st := (ctxOf s1 p.ctx).state
        if st == .destroying || st == .aborting then
          let s2 := endTeardown p.ctx s1
          if (progsOf s2 p.ctx).isEmpty then finish c .ok 0 s2 else s2
        else finish c .ok 0 s1
    | none => s

/-- Fix a run's failure, if it has none yet (R223 step 1). -/
def markRun (f : Fail) (r : Run) : Run := { r with failed := r.failed.orElse fun _ => some f }

/-- End a failed run that has nothing in flight: later runs of its context abort, streams reset (R223). -/
def endFailed (h : Nat) (r : Run) (f : Fail) (s : State) : State :=
  match progOf s h with
  | none => s
  | some p =>
    let later (x : Run) : Run := if x.ctx = r.ctx ∧ r.id < x.id then markRun (fAbort 7) x else x
    let p1 := { p.dropAnchors r.id with
      runs := (p.runs.filter (·.id != r.id)).map later }
    finishFail r.cmd f (unresident r.ctx (resetStreams p1 (setProg h (some p1) (dropRun h r.id s))))

/-- End, in order, the failed runs of a program that have nothing in flight. Runs of one context end in their order, so a failed
run ends after the earlier ones of its context (R219). -/
def reapList (h : Nat) : List Nat → State → State
  | [], s => s
  | i :: rest, s =>
    match (progOf s h).bind fun p => (runOf p i).map fun r => (p, r) with
    | some (p, r) =>
      match r.failed with
      | some f =>
        if flying s h i ∨ p.runs.any (fun x => x.ctx == r.ctx && decide (x.id < i)) then reapList h rest s
        else reapList h rest (endFailed h r f (dropStaged h i (fun _ => true) s))
      | none => reapList h rest s
    | none => reapList h rest s

def reap (h : Nat) (s : State) : State :=
  match progOf s h with
  | none => s
  | some p => sweep (finishUnload h (reapList h (p.runs.map (·.id)) s))

/-- A step of the run fails. -/
def failRun (h r : Nat) (f : Fail) (s : State) : State :=
  reap h (modProg h (fun p => match runOf p r with | some x => putRun p (markRun f x) | none => p) s)

/-- Has every step of the run ended? -/
def runDone (p : Program) (r : Run) : Bool := (List.range p.steps.length).all r.done.contains

/-- Complete, in the order of each context, the runs whose steps have all ended and whose adds are made (R219, R222). -/
def completeRuns (h : Nat) : List Nat → State → State
  | [], s => s
  | i :: rest, s =>
    match progOf s h with
    | none => s
    | some p =>
      match runOf p i with
      | none => completeRuns h rest s
      | some r =>
        if r.failed.isSome || !runDone p r || !r.owed.isEmpty || flying s h i || p.runs.any (fun x => x.ctx == r.ctx && decide (x.id < i)) then
          completeRuns h rest s
        else
          let p1 := Program.settle { p with runs := p.runs.filter (·.id != i) } r
          completeRuns h rest (finish r.cmd (if r.trunc then .okTrunc else .ok) 0 (unresident r.ctx (setProg h (some p1) s)))

def checkRuns (h : Nat) (s : State) : State :=
  match progOf s h with
  | none => s
  | some p => let ids := p.runs.map (·.id); sweep (finishUnload h (reapList h ids (completeRuns h ids s)))

/-! ### Aborting commands -/

/-- The run a command started. -/
def runFor (s : State) (c : CmdRef) : Option (Nat × Nat) :=
  s.progs.findSome? fun e => e.2.bind fun p => (p.runs.find? fun r => r.cmd.queue == c.queue && r.cmd.index == c.index).map
    fun r => (e.1, r.id)

/-- Bytes 0 to 31 of a context's page from the values in force (Table 10-3). -/
def pageHead (x : Ctx) : Nat :=
  x.engine.base % 2 ^ 32 + x.stack.base % 2 ^ 32 * 2 ^ 32 + x.fabric.base % 2 ^ 32 * 2 ^ 64 + x.host.base % 2 ^ 32 * 2 ^ 96 +
  bnat x.carry * 2 ^ 128 + x.part * 2 ^ 136

/-- Bytes 0 to 31 of the next page take the values in force (R298). -/
def restoreHead (x : Nat) (s : State) : State :=
  let c := ctxOf s x
  setCtx x { c with next := setBits c.next 255 0 (pageHead c) } s

/-- Take a command's waits away. A withdrawn ALLOT_SET leaves the next page as it was at the last bell (R298). -/
def unwait (c : CmdRef) (s0 : State) : State :=
  let s1 := if s0.staged.any fun i => sameCmd i.cmd c && (match i.item with | .allot _ => true | _ => false) then
    restoreHead c.ctx.toNat s0 else s0
  let s := if (cmdOf s1 c).descs.isEmpty then s1 else dropCmdChain c (cmdOf s1 c).core s1
  { s with
    waiters := s.waiters.filter fun w => !sameCmd w.owner c
    staged := s.staged.filter fun i => !sameCmd i.cmd c
    walks := s.walks.map fun w => { w with waiters := w.waiters.filter fun d => !sameCmd d c } }

/-- The handle that a STEP_LOAD is filling. -/
def loadFor (s : State) (c : CmdRef) : Option (Nat × Program) :=
  s.progs.findSome? fun e => e.2.bind fun p => if (p.loading.map (sameCmd c)).getD false then some (e.1, p) else none

/-- A slot that a parked EPOCH_STAGE was filling is EMPTY (R322). -/
def dropStage (e : Cmd) (s : State) : State :=
  match e.instr with
  | some (.epochStage _ p) =>
    if e.descs.isEmpty then s else castVote p.handle.toNat (modProg p.handle.toNat (fun q =>
      if (q.slot p.slot.toNat).state == .staging then q.setSlot p.slot.toNat .empty else q) s)
  | _ => s

/-! ### The end of a command at work -/

/-- A command that parks keeps what it has had and the descriptors it has resolved (R175, R273, R297). -/
def Work.park (w : Work) : State := putCmd { cmdOf w.s w.c with heard := w.heard.reverse, descs := w.descs } w.s

/-- A command that had parked has ended: what waited for its descriptors and sets goes on (R144, R297). -/
def Work.letGo (w : Work) (s : State) : State := if (cmdOf w.s w.c).descs.isEmpty then s else sweep s

/-- End the command: its failure, or ST_OK_TRUNC, or ST_OK with its detail (R270). It does not end where it parks. -/
def Work.finish (w : Work) (detail : Nat) : State :=
  if w.parked.isSome then w.park
  else match w.fail with
    | some f => w.letGo (finishFail w.c f w.s)
    | none => w.letGo (Machine.finish w.c (if w.trunc then .okTrunc else .ok) (if w.trunc then 0 else detail) w.s)

end Sys2Proof.Machine
end

