-- ==== Sys2Proof/Machine/Control.lean ====
section
/-! DEFINITION. Queue control and synchronisation commands: NOP, QUEUE_MARK and FENCE (R274 to R276), the tally
commands, SIGNAL_REMOTE and SIGNAL_HOST (R289 to R291), and aborting commands. -/

namespace Sys2Proof.Machine

open Sys2Proof

/-! ### NOP, QUEUE_MARK, FENCE -/

/-- NOP does nothing and completes with ST_OK (R274). -/
def execNop (c : CmdRef) (s : State) : Ans :=
  .next (runCmd (.nop c) c false s fun _ s => finish c .ok 0 s)

/-- QUEUE_MARK's own effect, once every earlier record is written (R275). -/
def markEffect (c : CmdRef) (p : MarkP) (s : State) : State :=
  let q := c.queue.toNat
  let n := (queueOf s q).markFails
  let clear (s : State) : State := setQueue q { queueOf s q with markFails := 0 } s
  match p.write with
  | none => clear (finish c .ok (min n 65535) s)
  | some (r, v) =>
    let (w, g) := (Work.start c (cmdOf s c).core s).bytesRef 10 r 8 rtWrite
    if w.failed then clear (w.quit)
    else
      let w1 := w.storeBytes 10 r.seg.toNat (placeOf w.s g r.off.toNat) (leBytes 8 v.toNat)
      if w1.parked.isSome then s else if w1.failed then clear w1.quit else clear (finish c .ok (min n 65535) w1.s)

/-- Are all earlier packets of the queue recorded (R275)? A record removes the command. -/
def markReady (s : State) (c : CmdRef) : Bool := (earlierCmds s c).isEmpty

def execQueueMark (c : CmdRef) (p : MarkP) (s : State) : Ans :=
  .next (runCmd (.queueMark c p) c false s fun _ s => if markReady s c then markEffect c p s else s)

/-- Requests of a queue's commands to a module that are not yet acknowledged. -/
def queueOwes (s : State) (q : Nat) (m : Option Nat) : Bool :=
  s.fab.outstanding.any fun r => (match r.owner with | .cmd d => d.queue.toNat == q | _ => false) &&
    (match m with | none => true | some m => r.dest == m)

def guestOwes (s : State) (q : Nat) : Bool :=
  (s.g0.requests ++ s.g1.requests).any fun r => match r.owner with | .cmd d => d.queue.toNat == q | _ => false

/-- Have the destinations of a FENCE acknowledged every earlier write of its queue (R276)? -/
def fenceReady (s : State) (q : Nat) : FenceKind → Bool
  | .all => !queueOwes s q none && !guestOwes s q && !s.pA.holding && !s.pB.holding
  | .module m => if m.toNat = moduleId s then !guestOwes s q else !queueOwes s q (some m.toNat)
  | .extA => !s.pA.holding
  | .extB => !s.pB.holding
  | .onModule => !guestOwes s q

/-- The status of a FENCE that may complete (R276, R515). -/
def fenceEffect (c : CmdRef) (k : FenceKind) (s : State) : State :=
  let lostA := (k == .extA || k == .all) && s.pA.lost && (queueOf s c.queue.toNat).hostLost
  let lostB := (k == .extB || k == .all) && s.pB.lost && (queueOf s c.queue.toNat).hostLost
  if lostA then finishFail c (fHost 1) s
  else if lostB then finishFail c (fHost 2) s
  else finish c .ok 0 s

def execFence (c : CmdRef) (k : FenceKind) (s : State) : Ans :=
  .next (runCmd (.fence c k) c false s fun _ s =>
    if fenceReady s c.queue.toNat k then fenceEffect c k s else s)

/-! ### Tally commands (R289) -/

/-- The reference check of a tally command: granted to the partition, and its die not fenced (R289, R412). -/
def tallyFault (s : State) (c : CmdRef) (t : TallyRef) : Option Fail :=
  let p := (ctxOf s c.ctx.toNat).part
  if isFenced s domDie t.die.toNat then some (fFenced domDie t.die.toNat)
  else if tallyGranted s p t.die.toNat t.index.toNat then none
  else some (fSeg 11 0 rTally)

/-- The instance a command outside a program releases at and acquires from (R403). -/
def cmdInst (s : State) (e : Cmd) : Nat := scopeInst (moduleId s) e.core 0

/-- Complete a command by the outcome of its tally operation. -/
def finishOp (c : CmdRef) (r : State × Option Fail) : State :=
  match r.2 with
  | some f => finishFail c f r.1
  | none => finish c .ok 0 r.1

def execTallyAdd (c : CmdRef) (t : TallyRef) (scope : BitVec 8) (n : BitVec 64) (s : State) : Ans :=
  .next (runCmd (.tallyAdd c t scope n) c true s fun e s =>
    match tallyFault s c t with
    | some f => finishFail c f s
    | none => finishOp c (addWithPartner t.die.toNat t.index.toNat n.toNat scope.toNat (cmdInst s e) s))

def execTallySub (c : CmdRef) (t : TallyRef) (scope : BitVec 8) (n : BitVec 64) (s : State) : Ans :=
  .next (runCmd (.tallySub c t scope n) c true s fun e s =>
    match tallyFault s c t with
    | some f => finishFail c f s
    | none => finishOp c (applySub t.die.toNat t.index.toNat n.toNat scope.toNat (cmdInst s e) s))

/-- A wait or a take that is not refused completes now or registers (R394 to R396). -/
def waitOp (c : CmdRef) (r : State × Option Fail) : State :=
  match r.2 with
  | some f => finishFail c f r.1
  | none => r.1

def execTallyWait (c : CmdRef) (t : TallyRef) (n : BitVec 64) (s : State) : Ans :=
  .next (runCmd (.tallyWait c t n) c true s fun e s =>
    match tallyFault s c t with
    | some f => finishFail c f s
    | none => waitOp c (applyWait t.die.toNat t.index.toNat n.toNat e.core c s))

def execTallyTake (c : CmdRef) (t : TallyRef) (n : BitVec 64) (s : State) : Ans :=
  .next (runCmd (.tallyTake c t n) c true s fun e s =>
    match tallyFault s c t with
    | some f => finishFail c f s
    | none => waitOp c (applyTake t.die.toNat t.index.toNat n.toNat e.core c s))

/-! ### Signals -/

/-- A remote operation checked at the target's entry (R407). -/
def exportedTo (t : Tally) (m : Nat) : Bool :=
  taExport t.attr.toNat && (taAnyPeer t.attr.toNat || taPeer t.attr.toNat == m)

/-- SIGNAL_REMOTE (R290): an add at module MODULE. To this module itself it is served here (R26). -/
def execSignalRemote (c : CmdRef) (t : TallyRef) (scope : BitVec 8) (module : BitVec 16) (n : BitVec 64) (s : State) : Ans :=
  .next (runCmd (.signalRemote c t scope module n) c true s fun e s =>
    let m := module.toNat
    if m = moduleId s then
      if isFenced s domDie t.die.toNat then finishFail c (fFenced domDie t.die.toNat) s
      else if exportedTo (tallyOf s t.die.toNat t.index.toNat) m ∧ t.index.toNat < tallyCount t.die.toNat then
        finishOp c (addWithPartner t.die.toNat t.index.toNat n.toNat scope.toNat (cmdInst s e) s)
      else finishFail c (fSeg 11 0 rTally) s
    else match peerGone s m with
      | some f => finishFail c f s
      | none => sendReq m 0 0x05 [tallyKey t.die.toNat t.index.toNat, 0, n.toNat, scope.toNat] [] (.cmd c) s)

/-- May the queue's commands raise this vector (R291, R353)? -/
def vectorOk (s : State) (c : CmdRef) (kind v : Nat) : Bool :=
  let q := queueOf s c.queue.toNat
  let p := partOf s (ctxOf s c.ctx.toNat).part
  kind == 0 || q.desc.admin ||
    (kind == p.irqKind && decide (p.vecBase ≤ v) && decide (v < p.vecBase + p.vecCount))

/-- The word of a SIGNAL_HOST in a segment: one 8-byte store, or one read, add and store (R291). It is visible once no request
of it is unanswered. A poisoned word of an ADD is an uncorrectable memory error (R373, Table 09-21, log 146). -/
def signalWork (add : Bool) (c : CmdRef) (p : SignalP) (r : Bref) (e : Cmd) (s : State) : Work :=
  let (w, g) := (Work.start c e.core s).bytesRef 10 r 8 (rtWrite + rtSignal)
  let (w1, old) := if add then w.bytes (fAbort 6) 10 r.seg.toNat g r.off.toNat 8 else (w, [])
  let w2 := w1.storeBytes 10 r.seg.toNat (placeOf w1.s g r.off.toNat) (leBytes 8 (leNat old + p.value.toNat))
  if !w2.failed && owesAck w2.s c then w2.await else w2

/-- SIGNAL_HOST with OP WRITE or ADD (R291): the word, then the interrupt. -/
def signalHost (add : Bool) (c : CmdRef) (p : SignalP) (e : Cmd) (s : State) : State :=
  let q := queueOf s c.queue.toNat
  let kind := p.irqKind.toNat
  let irq (s : State) : State := raiseIrq kind p.vector.toNat (some c.queue.toNat) s
  if !vectorOk s c kind p.vector.toNat then finishFail c (fParam 0x0D 34) s
  else match p.dest with
    | .seg r =>
      let w := signalWork add c p r e s
      if w.failed then w.finish 0 else irq (w.finish 0)
    | .port b a =>
      if q.desc.wbTarget ≠ bnat b + 1 then finishFail c (fParam 0x02 32) s
      else if q.hostLost then finishFail c (fHost (bnat b + 1)) s
      else
        let s1 := extWrite b ⟨none, 2, a.toNat, leBytes 8 p.value.toNat, 0⟩ s
        if (extPort s1 b).holding then s1 else irq (finish c .ok 0 s1)

/-- A SIGNAL_HOST whose word a port held completes, with its interrupt, or is lost (R514, R515). -/
def signalHeld (b lost : Bool) (s : State) (e : Cmd) : State :=
  if !e.started || e.result.isSome then s
  else match e.instr with
    | some (.signalHost c p) =>
      (match p.dest with
      | .port d _ =>
        if d != b then s
        else if lost then finishFail c (fHost (bnat b + 1)) s
        else raiseIrq p.irqKind.toNat p.vector.toNat (some c.queue.toNat) (finish c .ok 0 s)
      | .seg _ => s)
    | _ => s

def execSignalHost (c : CmdRef) (p : SignalP) (s : State) : Ans :=
  .next (runCmd (.signalHost c p) c true s (signalHost false c p))

def execSignalHostAdd (c : CmdRef) (p : SignalP) (s : State) : Ans :=
  .next (runCmd (.signalHostAdd c p) c true s (signalHost true c p))

/-- A SIGNAL_HOST goes on once its word is visible. -/
def signalOn (c : CmdRef) (add : Bool) (p : SignalP) (e : Cmd) (s : State) : State :=
  if e.heard.isEmpty then s else signalHost add c p e s

/-- Complete a started FENCE, QUEUE_MARK or SIGNAL_HOST that no longer waits. -/
def settleOne (s : State) (e : Cmd) : State :=
  if !e.started || e.result.isSome then s
  else match e.instr with
    | some (.fence c k) => if fenceReady s c.queue.toNat k then fenceEffect c k s else s
    | some (.queueMark c p) => if markReady s c then markEffect c p s else s
    | some (.signalHost c p) => signalOn c false p e s
    | some (.signalHostAdd c p) => signalOn c true p e s
    | _ => s

def settle (s : State) : State := s.cmds.foldl settleOne s

/-! ### Aborting commands -/

/-- End one command with ST_ABORTED or ST_FENCED: a run at its next step boundary, everything else now. A STEP_LOAD in
phase 5 releases what it reserved, and its cause is 8 in place of 1 and 3 (Table 07-8). -/
def abortOne (f : Fail) (s : State) (e : Cmd) : State :=
  if e.result.isSome then s
  else match runFor s e.ref with
    | some (h, r) => failRun h r f s
    | none => match loadFor s e.ref with
      | some (h, p) => finishFail e.ref (if f = fAbort 1 ∨ f = fAbort 3 then fAbort 8 else f) (releaseProg h p (unwait e.ref s))
      | none => finishFail e.ref f (dropStage e (unwait e.ref (abortCommit e.ref f s)))

def abortWhere (p : Cmd → Bool) (f : Fail) (s : State) : State :=
  settle (sweep ((s.cmds.filter p).foldl (abortOne f) s))

end Sys2Proof.Machine
end

