-- ==== Sys2Proof/Machine/EngineOps.lean ====
section
/-! DEFINITION. What the dispatcher and the engines share (R74, R77, R172): which engine takes a new chain, spilling and
restoring halves, the flags and counters of an engine. -/

namespace Sys2Proof.Machine

open Sys2Proof

/-! ### Halves, spills, engines -/

def Engine.live (e : Engine) : Bool := e.h0.live || e.h1.live

def liveHalves (e : Engine) : Nat := bnat e.h0.live + bnat e.h1.live

/-- Spill an engine's LIVE halves with its chain (R77). -/
def spillEngine (n e ctx : Nat) (s : State) : State :=
  let c := coreOf s n
  let x := engineOf c e
  match x.chain with
  | none => s
  | some ch =>
    if !x.live then s
    else
      let x1 := { x with chain := none, h0 := .reset, h1 := .reset }
      let c1 := putEngine { c with spilled := c.spilled ++ [⟨ch, x.h0, x.h1, ctx, e⟩] } e x1
      incF (ENG_SPILLS n e) ENG_SPILLS_SPILLS (liveHalves x) (setCore n c1 s)

/-- The context of a chain's run or command. -/
def chainCtx (s : State) (c : Chain) : Nat :=
  match c.cmd with
  | some d => d.ctx.toNat
  | none => (((progOf s c.handle).bind fun p => runOf p c.run).map (·.ctx)).getD 0

def spillOwn (n e : Nat) (s : State) : State :=
  match (getEng s n e).chain with
  | none => s
  | some c => spillEngine n e (chainCtx s c) s

/-- Is the engine free for a step: idle, halted by nobody, with nothing in flight? -/
def engineFree (s : State) (n e : Nat) : Bool :=
  (getEng s n e).state == .idle && (getEng s n e).flight.isNone && getF s (ENG_CTL n e) ENG_CTL_HALT == 0

/-- A core that issues steps: on, and not held. -/
def coreOn (s : State) (n : Nat) : Bool :=
  let st := (coreOf s n).state
  (st == .idle || st == .running || st == .parked) && coreUp s n && getF s (CORE_CTL n) CORE_CTL_HOLD == 0

/-- May a new chain start on the engine (R94)? -/
def takesChain (s : State) (n e : Nat) : Bool := decide (getF s (ENG_PATROL n e) ENG_PATROL_DEFERRED < 10)

def freeEngines (s : State) (n : Nat) : List Nat := (List.range 4).filter fun e => engineFree s n e

/-- The engines that may start a new chain: those idle with no LIVE half; where there is none, those idle whose halves must be
spilled first, the one whose chain has waited longest at the head (R172). -/
def chainEngines (s : State) (n : Nat) : List Nat :=
  let free := (freeEngines s n).filter fun e => takesChain s n e
  match free.filter fun e => !(getEng s n e).live with
  | [] => (free.find? fun e => free.all fun f => decide ((getEng s n e).since ≤ (getEng s n f).since)).toList
  | l => l

/-- Put a spilled chain back into an engine (R77). -/
def restoreChain (n e : Nat) (x : Spilled) (s : State) : State :=
  let c := coreOf s n
  let g := engineOf c e
  let g1 := { g with chain := some x.chain, h0 := x.h0, h1 := x.h1 }
  let s1 := setCore n (putEngine { c with spilled := c.spilled.erase x } e g1) s
  incF (ENG_SPILLS n e) ENG_SPILLS_RESTORES (bnat x.h0.live + bnat x.h1.live) s1

/-! ### Chains of commands -/

def ownsChain (c : CmdRef) (x : Chain) : Bool := (x.cmd.map (sameCmd c)).getD false

/-- The engine of a core that holds a command's chain. -/
def cmdEngine (s : State) (n : Nat) (c : CmdRef) : Option Nat :=
  (List.range 4).find? fun e => ((getEng s n e).chain.map (ownsChain c)).getD false

/-- An engine takes a command's work: a chain, a sum, or lane work of another context finds no LIVE half (R91). -/
def takeEngine (n e ctx : Nat) (chain : Bool) (s : State) : State :=
  match (getEng s n e).chain with
  | none => s
  | some c => if chain || chainCtx s c != ctx then spillEngine n e (chainCtx s c) s else s

/-- The engine of a command's chain, sum or lane work number `i`: the lowest-numbered of those free for the first, and for a
later one, which follows work that ends when it ends, any of them (R172). The halves it holds are spilled first. -/
def Work.newEngine (w : Work) (chain : Bool) (i : Nat) : Work × Nat :=
  let (w1, a) := w.hear fun w =>
    match (if coreOn w.s w.core then if chain then chainEngines w.s w.core else freeEngines w.s w.core else []) with
    | [] => (w.await, .ok)
    | l =>
      let e := l.getD (if i = 0 then 0 else (Config.engineFor w.s.tick i).toNat % l.length) 0
      (w.upd (takeEngine w.core e w.ctx chain), { Heard.ok with num := e })
  (w1, a.num)

/-- Work goes on on the engine it began on, once that is free. -/
def Work.onEngine (w : Work) (e : Nat) : Work :=
  (w.hear fun w =>
    if coreOn w.s w.core && engineFree w.s w.core e then (w.upd (takeEngine w.core e w.ctx true), .ok) else (w.await, .ok)).1

/-- The engine of the next step of a command's chain: the one that holds it, or, where it was spilled meanwhile, one it is
restored to. -/
def Work.sameEngine (w : Work) : Work × Nat :=
  let (w1, a) := w.hear fun w =>
    let n := w.core
    match cmdEngine w.s n w.c with
    | some e => if coreOn w.s n && engineFree w.s n e then (w, { Heard.ok with num := e }) else (w.await, .ok)
    | none =>
      match (coreOf w.s n).spilled.find? fun x => ownsChain w.c x.chain, (if coreOn w.s n then chainEngines w.s n else []) with
      | some x, e :: _ => (w.upd fun s => restoreChain n e x (spillOwn n e s), { Heard.ok with num := e })
      | _, _ => (w.await, .ok)
  (w1, a.num)

/-- Does the dispatcher issue a step of the command to the SFU or the RSU (R193, Table 06-8)? -/
def Work.dispatched (w : Work) : Work :=
  if w.failed then w else (w.hear fun w => if coreOn w.s w.core then (w, .ok) else (w.await, .ok)).1

/-- The tiles of a held block, if the engine's array holds exactly these (R70). -/
def heldTile (s : State) (n e : Nat) (id : List Nat) (k : Nat) : Option (Fmt × Tile) :=
  match (getEng s n e).held[k]? with
  | some x => if x.id = id then some (x.fmt, x.tile) else none
  | none => none

def Work.held (w : Work) (e : Nat) (id : List Nat) (k : Nat) : Work × Option (Fmt × Tile) :=
  if w.failed then (w, none)
  else
    let (w1, a) := w.hear fun w => (w, { Heard.ok with tile := heldTile w.s w.core e id k })
    (w1, a.tile)

/-- A checked block waits in the shadow; it becomes the held block at a row boundary (R71). -/
def fillShadow (n e : Nat) (l : List HeldTile) (s : State) : State := setEng n e { getEng s n e with shadow := l } s
def swapBlock (n e : Nat) (s : State) : State :=
  let g := getEng s n e
  if g.shadow.isEmpty then s else setEng n e { g with held := g.shadow, shadow := [] } s

/-- Set a sticky engine flag. -/
def engFlag (n e : Nat) (f : Fld) (on : Bool) (s : State) : State := if on then setF (ENG_FLAGS n e) f 1 s else s

def vflagsInto (n e : Nat) (v : VFlags) (s : State) : State := orReg (ENG_FLAGS n e) (v.code * 2 ^ 8) s

def addBusy (n e cycles rows : Nat) (s : State) : State :=
  incF (ENG_ROW_COUNT n e) ⟨63, 0⟩ rows (incF (ENG_BUSY n e) ⟨63, 0⟩ cycles s)

/-- A step issued by the core's dispatcher. -/
def noteIssue (n : Nat) (s : State) : State := incF (DISP_ISSUED n) DISP_ISSUED_DISP_ISSUED 1 s

end Sys2Proof.Machine
end

