-- ==== Sys2Proof/Machine/Movement.lean ====
section
/-! DEFINITION. The movement commands: COPY, GATHER, SCATTER, ZERO (R277 to R279), CELLAR_READ and CELLAR_WRITE
(R280), over one move of a tile (R56). -/

namespace Sys2Proof.Machine

open Sys2Proof

/-- Where a tile to be moved lies: the segment its traffic is charged to, and its payload and header places. -/
structure TileAt where
  slot : Nat
  seg : Nat
  charged : Option Seg
  payload : Place
  header : Place

def tileAt (s : State) (slot seg : Nat) (g : Seg) (i : Nat) : TileAt :=
  ⟨slot, seg, some g, placeOf s g (Seg.payloadOff i), placeOf s g (g.headerOff i)⟩

/-- Tile `i` of a cellar volume (R379). -/
def cellarTile (s : State) (slot v i : Nat) : TileAt :=
  let l := getF s (CELLAR_VOL v) CELLAR_VOL_SIZE * mib2
  ⟨slot, 0, none, .vol v (4096 * i), .vol v (l - l / 64 + 64 * i)⟩

/-- Pay for a tile that is read, or written. -/
def Work.pay (w : Work) (write : Bool) (t : TileAt) : Work :=
  match t.charged with | none => w | some g => w.payTile write t.slot t.seg g t.payload

/-- Move one tile under R56: the source is checked before anything is written, and every header byte but GEN and CRC
is carried over. -/
def Work.moveTile (w : Work) (src dst : TileAt) : Work :=
  let (w1, t) := (w.pay false src).loadAt src.slot src.seg src.payload src.header fun _ => true
  match t with
  | none => w1
  | some (_, t) => (w1.pay true dst).storeAt dst.slot dst.seg dst.payload dst.header t.hdr t.payload

/-- Do two ranges of `n` units overlap? -/
def rangesMeet (a b n : Nat) : Bool := decide (a < b + n) && decide (b < a + n)

/-- Copy one raw sector, poison included (R180, R277); each started 4 KiB is charged. -/
def Work.copySector (w : Work) (src dst : Bref) (gs gd : Seg) (i : Nat) : Work :=
  let w1 := if i % 64 = 0 then (w.traffic gs 1).traffic gd 1 else w
  if w1.failed then w1
  else (w1.hear fun w1 =>
    let ps := placeOf w1.s gs (src.off.toNat + 64 * i)
    let pd := placeOf w1.s gd (dst.off.toNat + 64 * i)
    if placeHeld w1.s ps || placeHeld w1.s pd then (w1.await, .ok)
    else match (placeFault w1.s false 0 src.seg.toNat ps).orElse fun _ => placeFault w1.s true 8 dst.seg.toNat pd with
    | some f => (w1.stop f, .ok)
    | none =>
      let bad := placePoison w1.s ps 64
      let noPoison := match pd with | .vol .. => true | _ => false
      let w1 := w1.ask 0 src.seg.toNat ps 64
      (if bad && noPoison then (w1.upd fun s => notePoisonRead s ps).stop (fTile 0 .corrupt)
      else w1.upd fun s =>
        let s1 := wakeLarder pd (wakeLarder ps (if bad then notePoisonRead s ps else s))
        (if bad then placeWriteBad else placeWrite) (8, dst.seg.toNat) pd (placeRead s1 ps 64) (.cmd w1.c) s1, .ok)).1

def copyWork (c : CmdRef) (p : CopyP) (e : Cmd) (s : State) : Work :=
  let w := Work.start c e.core s
  match p with
  | .tiles src dst count =>
    let n := count.toNat
    if src.seg = dst.seg ∧ rangesMeet src.tile.toNat dst.tile.toNat n then w.stop (fParam 0x0C 0)
    else
      let (w1, gs) := w.tilesRef 0 src (src.tile.toNat + n - 1) rtRead
      let (w2, gd) := w1.tilesRef 8 dst (dst.tile.toNat + n - 1) rtWrite
      let w3 := (w2.allotSeg gs).allotSeg gd
      (w3.each (fun i w => w.moveTile (tileAt w.s 0 src.seg.toNat gs (src.tile.toNat + i))
        (tileAt w.s 8 dst.seg.toNat gd (dst.tile.toNat + i))) n 0)
  | .raw src dst count =>
    let n := count.toNat
    if src.seg = dst.seg ∧ rangesMeet src.off.toNat dst.off.toNat (64 * n) then w.stop (fParam 0x0C 0)
    else
      let (w1, gs) := w.bytesRef 0 src (64 * n) rtRead
      let (w2, gd) := w1.bytesRef 8 dst (64 * n) rtWrite
      let w3 := (w2.allotSeg gs).allotSeg gd
      (w3.each (fun i w => w.copySector src dst gs gd i) n 0)

def execCopy (c : CmdRef) (p : CopyP) (s : State) : Ans :=
  .next (runCmd (.copy c p) c true s fun e s => (copyWork c p e s).finish 0)

/-- Entry `i` of an IDX array (R278): a tile reference; each started 4 KiB of entries is charged. -/
def Work.entry (w : Work) (r : Bref) (g : Seg) (i : Nat) : Work × Tref :=
  let w1 := if 8 * i % 4096 = 0 then w.traffic g 1 else w
  let (w2, v) := w1.word 10 r.seg.toNat g (r.off.toNat + 8 * i)
  let t : Tref := ⟨BitVec.ofNat 44 (v / 16), BitVec.ofNat 4 v⟩
  if w2.failed then (w2, t) else if v / 2 ^ 48 ≠ 0 then (w2.stop (fParam 0x01 0), t) else (w2, t)

/-- The tile an entry names, checked when it is read (R273, R278). -/
def Work.named (w : Work) (slot : Nat) (t : Tref) (rights : Nat) : Work × Seg :=
  let (w1, g) := w.tilesRef slot t t.tile.toNat rights
  (w1.allotSeg g, g)

def gatherWork (c : CmdRef) (p : IdxP) (e : Cmd) (s : State) : Work :=
  let n := p.count.toNat
  let (w1, gd) := (Work.start c e.core s).tilesRef 8 p.base (p.base.tile.toNat + n - 1) rtWrite
  let (w2, gi) := w1.bytesRef 10 p.idx (8 * n) rtRead
  let w3 := (w2.allotSeg gd).allotSeg gi
  (w3.each (fun i w =>
    let (w1, t) := w.entry p.idx gi i
    let (w2, gs) := w1.named 0 t rtRead
    w2.moveTile (tileAt w2.s 0 t.seg.toNat gs t.tile.toNat)
      (tileAt w2.s 8 p.base.seg.toNat gd (p.base.tile.toNat + i))) n 0)

def execGather (c : CmdRef) (p : IdxP) (s : State) : Ans :=
  .next (runCmd (.gather c p) c true s fun e s => (gatherWork c p e s).finish 0)

def scatterWork (c : CmdRef) (p : IdxP) (e : Cmd) (s : State) : Work :=
  let n := p.count.toNat
  let (w1, gs) := (Work.start c e.core s).tilesRef 0 p.base (p.base.tile.toNat + n - 1) rtRead
  let (w2, gi) := w1.bytesRef 10 p.idx (8 * n) rtRead
  let w3 := (w2.allotSeg gs).allotSeg gi
  (w3.each (fun i w =>
    let (w1, t) := w.entry p.idx gi i
    let (w2, gd) := w1.named 8 t rtWrite
    w2.moveTile (tileAt w2.s 0 p.base.seg.toNat gs (p.base.tile.toNat + i))
      (tileAt w2.s 8 t.seg.toNat gd t.tile.toNat)) n 0)

def execScatter (c : CmdRef) (p : IdxP) (s : State) : Ans :=
  .next (runCmd (.scatter c p) c true s fun e s => (scatterWork c p e s).finish 0)

/-- The header of a zeroed tile (R279); FMT none seals an empty tile. -/
def Work.zeroHeader (w : Work) (layout : Bool) (fmt : Option Fmt) (rows cols anchor : Nat) : Header :=
  let h := w.hdr (fmt.getD .fp32) (hdrFlags layout false false false) rows cols
    (if fmt = some .acc128 then anchor else 0x8000) 1 0 0
  { h with format := (fmt.map Fmt.code).getD 0 }

def zeroWork (c : CmdRef) (p : ZeroP) (e : Cmd) (s : State) : Work :=
  let w := Work.start c e.core s
  match p with
  | .tiles dst count layout fmt rows cols anchor =>
    let n := count.toNat
    let (w1, g) := w.tilesRef 8 dst (dst.tile.toNat + n - 1) rtWrite
    let h := w1.zeroHeader layout fmt rows.toNat cols.toNat anchor.toNat
    ((w1.allotSeg g).each (fun i w => w.store 8 dst.seg.toNat g (dst.tile.toNat + i) h (List.replicate 4096 0)) n 0)
  | .raw dst count =>
    let n := count.toNat
    let (w1, g) := w.bytesRef 8 dst (64 * n) rtWrite
    ((w1.allotSeg g).each (fun i w =>
      let w1 := if i % 64 = 0 then w.traffic g 1 else w
      w1.storeBytes 8 dst.seg.toNat (placeOf w1.s g (dst.off.toNat + 64 * i)) (List.replicate 64 0)) n 0)

def execZero (c : CmdRef) (p : ZeroP) (s : State) : Ans :=
  .next (runCmd (.zero c p) c true s fun e s => (zeroWork c p e s).finish 0)

/-! ### The cellar (R280, R379 to R382) -/

/-- Tiles of a volume (R379). -/
def volTiles (s : State) (v : Nat) : Nat :=
  let l := getF s (CELLAR_VOL v) CELLAR_VOL_SIZE * mib2
  (l - l / 64) / 4096

/-- Classes MEM may have: not larder and not cellar window. -/
def memClass (c : Nat) : Bool := c != clsLarder && c != clsCellar

/-- The volume is granted to the partition and holds the tiles. -/
def Work.volume (w : Work) (slot : Nat) (p : CellarP) : Work :=
  w.check fun s =>
    let v := p.volume.toNat
    if bitAt (partOf s (ctxOf s w.ctx).part).volumes v ∧ p.ctile.toNat + p.count.toNat ≤ volTiles s v then none
    else some (fSeg slot 0 rVolume)

/-- Tiles that fit the 12 MiB write buffer (Table 12-3). -/
def wbufTiles : Nat := 3024

/-- A tile enters the write buffer; the oldest leave it for the flash as it fills (R382). -/
def buffered (v i : Nat) (s : State) : State :=
  let l := s.wbuf.filter (· != ⟨v, i⟩) ++ [⟨v, i⟩]
  { s with wbuf := l.drop (l.length - wbufTiles) }

def cellarReadWork (c : CmdRef) (p : CellarP) (e : Cmd) (s : State) : Work :=
  let n := p.count.toNat
  let w1 := (Work.start c e.core s).volume 0 p
  let (w2, g) := w1.tilesRef 8 p.mem (p.mem.tile.toNat + n - 1) rtWrite memClass
  ((w2.allotSeg g).each (fun i w => w.moveTile (cellarTile w.s 0 p.volume.toNat (p.ctile.toNat + i))
    (tileAt w.s 8 p.mem.seg.toNat g (p.mem.tile.toNat + i))) n 0)

def execCellarRead (c : CmdRef) (p : CellarP) (s : State) : Ans :=
  .next (runCmd (.cellarRead c p) c true s fun e s => (cellarReadWork c p e s).finish 0)

def cellarWriteWork (c : CmdRef) (p : CellarP) (e : Cmd) (s : State) : Work :=
  let n := p.count.toNat
  let (w1, g) := (Work.start c e.core s).tilesRef 0 p.mem (p.mem.tile.toNat + n - 1) rtRead memClass
  let w2 := (w1.volume 8 p).allotSeg g
  (w2.each (fun i w =>
    let w1 := w.moveTile (tileAt w.s 0 p.mem.seg.toNat g (p.mem.tile.toNat + i))
      (cellarTile w.s 8 p.volume.toNat (p.ctile.toNat + i))
    if w1.failed then w1 else w1.mod (buffered p.volume.toNat (p.ctile.toNat + i))) n 0)

def execCellarWrite (c : CmdRef) (p : CellarP) (s : State) : Ans :=
  .next (runCmd (.cellarWrite c p) c true s fun e s => (cellarWriteWork c p e s).finish 0)

end Sys2Proof.Machine
end

