-- ==== Sys2Proof/Machine/Matrix.lean ====
section
/-! DEFINITION. The matrix array at work (R66 to R80, R101 to R126, R281, R282): one step of a chain, its drain, the
default anchor, over operands that a command or a placed step names. -/

namespace Sys2Proof.Machine

open Sys2Proof

/-- An operand: its slot, a key that tells its tiles from other operands', the number of its first tile, and where
tile `i` lies; where a result tile `i` is written, which is in every ring that a step's output feeds (R215); the shape that
every tile must have, where it is fixed before the step is issued (R65, Table 07-19); and which tile it is, where an engine
may hold it beyond the command (R70). -/
structure Opnd where
  slot : Nat
  key : Nat
  base : Nat
  place : State → Nat → TileAt
  dests : State → Nat → List TileAt
  shape : Option (Nat × Nat)
  id : Option (State → Nat → List Nat)

/-- An operand in a segment of the command's context. -/
def segOpnd (slot : Nat) (r : Tref) (g : Seg) : Opnd :=
  ⟨slot, r.seg.toNat, r.tile.toNat, fun s i => tileAt s slot r.seg.toNat g i,
    fun s i => [tileAt s slot r.seg.toNat g i], none, none⟩

def Opnd.at (o : Opnd) (s : State) (i : Nat) : TileAt := o.place s (o.base + i)

/-- Pay for a tile the first time the command stages it (R272). -/
def Work.stageOf (w : Work) (o : Opnd) (i : Nat) : Work :=
  if w.failed || w.seen.contains (o.key, o.base + i) then w
  else { (w.pay false (o.at w.s i)) with seen := (o.key, o.base + i) :: w.seen }

/-- Stage and check tile `i` of an operand. -/
def Work.take (w : Work) (o : Opnd) (i : Nat) (accepts : Fmt → Bool) : Work × Option (Fmt × Tile) :=
  let w1 := w.stageOf o i
  let t := o.at w1.s i
  match w1.loadAt o.slot t.seg t.payload t.header accepts with
  | (w2, none) => (w2, none)
  | (w2, some (f, x)) =>
    if o.shape.all fun d => x.hdr.rows == d.1 && x.hdr.cols == d.2 then (w2, some (f, x))
    else (w2.stop (fMismatch o.slot .unexpected), none)

/-- Which tile tile `i` of an operand is, for the engine that holds it. -/
def Work.tileId (w : Work) (o : Opnd) (i : Nat) : List Nat :=
  match o.id with
  | some f => f w.s i
  | none => [0, w.c.queue.toNat, w.c.index.toNat, o.key, o.base + i]

/-- The header of tile `i`, without its payload (R114, R281, R283). -/
def Work.peek (w : Work) (o : Opnd) (i : Nat) : Work × Header :=
  let t := o.at w.s i
  w.headerAt o.slot t.seg t.payload t.header

def Work.putAt (h : Header) (payload : List Byte) (w : Work) (t : TileAt) : Work :=
  (w.pay true t).storeAt t.slot t.seg t.payload t.header h payload

/-- Write a result tile, with its copies, and pay for it. -/
def Work.put (w : Work) (o : Opnd) (i : Nat) (h : Header) (payload : List Byte) : Work :=
  (o.dests w.s (o.base + i)).foldl (Work.putAt h payload) w

/-- Seal a destination tile invalid (R60, R76); the failure stays. -/
def Work.void (w : Work) (o : Opnd) (i : Nat) (h : Header) : Work :=
  let f := w.fail
  let w1 := ({ w with fail := none }).put o i { h with flags := h.flags ||| 2 } (List.replicate 4096 0)
  { w1 with fail := f }

/-! ### Anchors (R109 to R116) -/

/-- finite_maxexp of a tile from its header, and from its payload where MAXEXP is 0x7FFF, which is staged for it (R109; DEDUCED,
log 139, beside R283); was it 0x7FFF? -/
def Work.maxexpAt (w : Work) (o : Opnd) (i : Nat) : Work × Int × Bool :=
  let (w1, h) := w.peek o i
  if w1.failed then (w1, -32768, false)
  else if h.maxexp = 0x8000 then (w1, -32768, false)
  else if h.maxexp = 0x7FFF then
    let w2 := w1.stageOf o i
    let t := o.at w2.s i
    let w3 := w2.check fun s => placeFault s false o.slot t.seg t.payload
    match Fmt.ofCode h.format with
    | none => (w3, -32768, true)
    | some f =>
      let (w4, e) := w3.read fun s => (finiteMaxexp f ⟨h, placeRead s t.payload 4096⟩ + 32768).toNat
      (w4, (e : Int) - 32768, true)
  else (w1, maxexpInt h.maxexp, false)

/-- The largest finite_maxexp over a list of tiles, and whether one was non-finite. -/
def Work.maxOver (w : Work) (o : Opnd) : List Nat → Work × Int × Bool
  | [] => (w, -32768, false)
  | i :: r =>
    let (w1, m, nf) := w.maxexpAt o i
    let (w2, m2, nf2) := w1.maxOver o r
    (w2, max m m2, nf || nf2)

/-- The anchor of R109 before R99's range applies. -/
def anchorOf (maxa maxb : Int) (k : Nat) : Int :=
  if maxa = -32768 ∨ maxb = -32768 then -1024 else maxa + maxb + 1 + clog2 k

/-- The anchor in a result word (R116). -/
def wordAnchor (v : Nat) : Int := ofTwos 16 (v % 65536)

/-! ### One chain -/

/-- A matrix operation: its operands, strides and dimensions. `ms` and `ks` are the rows of each block row of A and the
columns of each block column; `i0`, `j0` place the first output block in the whole destination tensor (R125). -/
structure MM where
  a : Opnd
  b : Opnd
  c : Option Opnd
  d : Opnd
  aStr : Nat
  bStr : Nat
  /-- Tiles from one block row to the next in C and in D. -/
  cStr : Nat
  dStr : Nat
  mt : Nat
  kt : Nat
  nt : Nat
  bpb : Nat
  /-- The column of B's grid in which block column 0 begins. -/
  b0 : Nat
  /-- The columns of the last block column's first weight tile, where they are known before the first step. -/
  lastCols : Option Nat
  bFmt : Nat
  /-- The format of the first activation tile, which fixes the class (R67). -/
  fa : Option Fmt
  heldk : Nat
  fp32 : Bool
  ms : List Nat
  ks : List Nat
  out : Fmt
  anchor : Int
  seed : Option Nat
  i0 : Nat
  j0 : Nat

/-- The accumulators of a chain, row by row, and the flags of its two halves (R74). -/
structure ChainAcc where
  m : Nat
  n : Nat
  accs : List Acc
  t0 : Bool
  t1 : Bool
  o0 : Bool
  o1 : Bool

def ChainAcc.zero (m n : Nat) : ChainAcc := ⟨m, n, List.replicate (m * n) Acc.zero, false, false, false, false⟩

def ChainAcc.ovf (x : ChainAcc) : Bool := x.o0 || x.o1

/-! The accumulator file holds a chain's sums as two halves (R74, R75). -/

def halfOf (anchor : Int) (rows0 rows : Nat) (x : ChainAcc) (trunc ovf : Bool) : Half :=
  let cells := (x.accs.drop (rows0 * x.n)).take (rows * x.n)
  { live := true, ovf := ovf, trunc := trunc, anchor := BitVec.ofNat 16 (twos 16 anchor)
    accs := cells.zipIdx.filterMap fun (v, e) => if v = Acc.zero then none else some (e / max 1 x.n * 64 + e % max 1 x.n, v) }

/-- The two halves of a chain; a chain of 32 rows or fewer holds H0 alone. -/
def ChainAcc.halves (x : ChainAcc) (anchor : Int) : Half × Half :=
  (halfOf anchor 0 (min 32 x.m) x x.t0 x.o0, if 32 < x.m then halfOf anchor 32 (x.m - 32) x x.t1 x.o1 else .reset)

def ChainAcc.ofHalves (m n : Nat) (a b : Half) : ChainAcc :=
  ⟨m, n, (List.range (m * n)).map fun e =>
      let r := e / max 1 n
      Assoc.get (fun _ => Acc.zero) (if r < 32 then a.accs else b.accs) (r % 32 * 64 + e % max 1 n),
    a.trunc, b.trunc, a.ovf, b.ovf⟩

/-- Put a chain with its sums into an engine. -/
def putChain (n e : Nat) (c : Chain) (x : ChainAcc) (anchor : Int) (s : State) : State :=
  let h := x.halves anchor
  setEng n e { getEng s n e with chain := some c, h0 := h.1, h1 := h.2 } s

/-- Does a matrix step take this activation format beside weights of format `fb`? The class of the operation fixes K
(R67, R68). -/
def MM.acceptsA (p : MM) (fb f : Fmt) : Bool := heldK f == p.heldk && heldK f != 0 && (f == .fp32) == p.fp32 && pairOk f fb

/-- Does it take this weight format (R67, R281)? -/
def MM.acceptsB (p : MM) (f : Fmt) : Bool := (p.fa.all fun fa => pairOk fa f) && f.code == p.bFmt

/-- Has the block in block column `j` a second tile position: two tiles a block, and a second within B's grid row (R68)? -/
def MM.hasSecond (p : MM) (j : Nat) : Bool := p.bpb == 2 && decide (p.b0 + 2 * j + 1 < p.bStr)

/-- Is the second tile read, beside a first of `cols` columns? In the last block column N may end with the first. -/
def MM.two (p : MM) (j cols : Nat) : Bool := p.hasSecond j && cols == 32

/-- The largest finite_maxexp over the weight tiles of the blocks (k, j) listed: those that R68 reads (R109). -/
def MM.maxBlocks (p : MM) (w : Work) : List (Nat × Nat) → Work × Int × Bool
  | [] => (w, -32768, false)
  | (k, j) :: r =>
    let first := k * p.bStr + j * p.bpb
    let (w1, h) := w.peek p.b first
    let (w2, m, nf) := w1.maxOver p.b (if p.two j h.cols then [first, first + 1] else [first])
    let (w3, m2, nf2) := p.maxBlocks w2 r
    (w3, max m m2, nf || nf2)

def MM.maxWeights (p : MM) (w : Work) : Work × Int × Bool :=
  p.maxBlocks w ((List.range p.kt).flatMap fun k => (List.range p.nt).map fun j => (k, j))

/-- Weight tiles that a step of block column `j` is planned to check (R65, R281). -/
def MM.wt (p : MM) (j : Nat) : Nat :=
  if p.bpb = 2 ∧ (!p.hasSecond j ∨ (j + 1 = p.nt ∧ p.lastCols.any fun c => decide (c < 32))) then 1 else p.bpb

/-- The shape checks of an activation tile (R68, R281). -/
def MM.agreesA (p : MM) (i k : Nat) (f : Fmt) (t : Tile) : Bool :=
  let m := p.ms.getD i 0
  let kk := p.ks.getD k 0
  t.hdr.rows == m && decide (m ≤ 64) && t.hdr.cols == kk && decide (kk ≤ p.heldk) &&
  (i + 1 == p.mt || m == 64) && (k + 1 == p.kt || kk == p.heldk) && (!f.isMx || !t.hdr.layout)

/-- The shape checks of weight tile number `q` of a block: `more` says whether another tile of the block follows. -/
def MM.agreesB (p : MM) (j k : Nat) (more : Bool) (f : Fmt) (t : Tile) : Bool :=
  let lim := if p.bpb = 2 then 32 else 64
  t.hdr.rows == p.ks.getD k 0 && decide (t.hdr.cols ≤ lim) &&
  ((j + 1 == p.nt && !more) || t.hdr.cols == lim) && (!f.isMx || t.hdr.layout)

/-- The tiles of block (k, j), if the engine's array holds them already (R70). -/
def MM.heldBlock (p : MM) (e j k : Nat) (w : Work) : Work × Option (List (Fmt × Tile)) :=
  let at_ := k * p.bStr + j * p.bpb
  match w.held e (w.tileId p.b at_) 0 with
  | (w1, none) => (w1, none)
  | (w1, some (f, t)) =>
    if !p.two j t.hdr.cols then (w1, some [(f, t)])
    else match w1.held e (w1.tileId p.b (at_ + 1)) 1 with
      | (w2, none) => (w2, none)
      | (w2, some x) => (w2, some [(f, t), x])

/-- Read and check the weight tiles of block (k, j) into the shadow of engine `e` (R68, Table 03-3). -/
def MM.loadBlock (p : MM) (e j k : Nat) (w : Work) : Work × List (Fmt × Tile) :=
  let at_ := k * p.bStr + j * p.bpb
  let fill (l : List HeldTile) (w : Work) : Work := w.mod fun s => fillShadow w.core e l s
  match w.take p.b at_ p.acceptsB with
  | (w1, none) => (w1, [])
  | (w1, some (f, t)) =>
    let two := p.two j t.hdr.cols
    let h : HeldTile := ⟨w1.tileId p.b at_, f, t⟩
    if !p.agreesB j k two f t then (w1.stop (fMismatch p.b.slot .unexpected), [])
    else if !two then (fill [h] w1, [(f, t)])
    else match w1.take p.b (at_ + 1) p.acceptsB with
      | (w2, none) => (w2, [])
      | (w2, some (f2, t2)) =>
        if p.agreesB j k false f2 t2 then (fill [h, ⟨w2.tileId p.b (at_ + 1), f2, t2⟩] w2, [(f, t), (f2, t2)])
        else (w2.stop (fMismatch p.b.slot .unexpected), [])

/-- The held block of a step: one that the array holds is not checked again. -/
def MM.block (p : MM) (e j k : Nat) (held : Option (List (Fmt × Tile))) (w : Work) : Work × List (Fmt × Tile) :=
  match held with
  | some l => (w, l)
  | none => p.loadBlock e j k w

/-- Row `r` of an activation tile and column `c` of the weight tiles, as elements. -/
def actRow (f : Fmt) (t : Tile) (p r : Nat) : List MElem :=
  (List.range t.hdr.cols).map fun k => mElem f t.hdr.count p (elemIndex t.hdr.layout t.hdr.rows t.hdr.cols r k)

def weightCol (f : Fmt) (t : Tile) (p c : Nat) : List MElem :=
  (List.range t.hdr.rows).map fun k => mElem f t.hdr.count p (elemIndex t.hdr.layout t.hdr.rows t.hdr.cols k c)

/-- The columns of a held block in order. -/
def blockCols (ws : List (Fmt × Tile)) : List (Fmt × List MElem) :=
  ws.flatMap fun (f, t) => let p := leNat t.payload; (List.range t.hdr.cols).map fun c => (f, weightCol f t p c)

/-- Add one step's products into the accumulators (R70, R101 to R107, R118). -/
def ChainAcc.step (x : ChainAcc) (anchor : Int) (fa : Fmt) (ta : Tile) (cols : List (Fmt × List MElem)) : ChainAcc :=
  let pa := leNat ta.payload
  let rows := (List.range x.m).map fun r => (r, actRow fa ta pa r)
  let cells := rows.flatMap fun (r, row) => cols.map fun (fb, col) => (r, dotContrib anchor fa fb row col)
  let sums := List.zipWith (fun (a : Acc) (c : Nat × Contrib) => (c.1, a.add c.2, c.2.trunc)) x.accs cells
  { x with
    accs := sums.map fun y => y.2.1.1
    t0 := x.t0 || sums.any fun y => decide (y.1 < 32) && y.2.2
    t1 := x.t1 || sums.any fun y => decide (32 ≤ y.1) && y.2.2
    o0 := x.o0 || sums.any fun y => decide (y.1 < 32) && y.2.1.2
    o1 := x.o1 || sums.any fun y => decide (32 ≤ y.1) && y.2.1.2 }

/-- Start a chain from ACC128 block (i, j) of C (R121, R282): tiles of 4 rows. -/
def MM.loadC (p : MM) (o : Opnd) (i j n : Nat) (x : ChainAcc) : Nat → Nat → Work → Work × ChainAcc
  | 0, _, w => (w, x)
  | u + 1, t, w =>
    match w.take o (i * p.cStr + j * 16 + t) (· == .acc128) with
    | (w1, none) => (w1, x)
    | (w1, some (_, c)) =>
      let rows := min 4 (x.m - 4 * t)
      if c.hdr.rows ≠ rows ∨ c.hdr.cols ≠ n ∨ maxexpInt c.hdr.maxexp ≠ p.anchor then (w1.stop (fMismatch o.slot .unexpected), x)
      else
        let pay := leNat c.payload
        let vals := (List.range (rows * n)).map fun e =>
          Acc.ofPattern (elemBits 128 pay (elemIndex c.hdr.layout rows n (e / n) (e % n)))
        let x1 := { x with
          accs := x.accs.take (4 * t * n) ++ vals ++ x.accs.drop ((4 * t + rows) * n)
          t0 := x.t0 || (decide (t < 8) && c.hdr.trunc)
          t1 := x.t1 || (decide (8 ≤ t) && c.hdr.trunc) }
        p.loadC o i j n x1 u (t + 1) w1

/-! ### Cycles (R65, R81, R284) -/

def drainCycles : Fmt → Nat | .fp64 => 2 | .acc128 => 4 | _ => 1

/-- Output tiles of a block of `m` rows. -/
def outTilesOf (out : Fmt) (m : Nat) : Nat := ceilDiv m (rowsPerTile out)

def streamCycles (fp32 : Bool) (m : Nat) : Nat := if fp32 then 6 * m else m

/-- Cycles from a chain's last row to its last seal: the opening of output tiles that streaming does not hide, the latency,
the rows and the seals. -/
def tailCycles (fp32 : Bool) (out : Fmt) (m : Nat) : Nat :=
  let t := outTilesOf out m
  131 + m * drainCycles out + t + (2 * t - streamCycles fp32 m)

/-- Cycles for which a step has rows in the array: one that another follows, until the next one's checks are done
(Table 03-7, and the example of ENG_BUSY after Table 03-19). -/
def arrayCycles (fp32 : Bool) (wt m kt k : Nat) : Nat :=
  if k + 1 = kt then streamCycles fp32 m else max (streamCycles fp32 m) (18 * (wt + 1))

/-- Engine cycles of step `k` of a chain of `kt` steps: the first pays the first checks, the last the latency and the
drain (Tables 03-6, 03-7). `skip`: its weights are already held (R70). -/
def stepCycles (fp32 : Bool) (out : Fmt) (wt cTiles m kt k : Nat) (skip : Bool) : Nat :=
  (if k = 0 then 18 * cTiles + (if skip then 18 else 18 * (wt + 1)) else 0) + arrayCycles fp32 wt m kt k +
    (if k + 1 = kt then tailCycles fp32 out m else 0)

/-- The most cycles of one step of a chain. -/
def mostCycles (fp32 : Bool) (out : Fmt) (wt cTiles m kt : Nat) : Nat :=
  max (stepCycles fp32 out wt cTiles m kt 0 false) (stepCycles fp32 out wt cTiles m kt (kt - 1) false)

/-! ### Failing, draining -/

/-- The header of output tile `t` of a block: its rows and the block's columns. -/
def MM.outRows (p : MM) (m t : Nat) : Nat := min (rowsPerTile p.out) (m - t * rowsPerTile p.out)

def MM.outIndex (p : MM) (i j t : Nat) : Nat := i * p.dStr + j * (64 / rowsPerTile p.out) + t

/-- Seal every destination tile of a chain invalid (R76, R112). -/
def MM.voidBlock (p : MM) (e epoch i j m n : Nat) (w : Work) : Work :=
  (List.range (outTilesOf p.out m)).foldl (fun w t =>
    w.void p.d (p.outIndex i j t) (w.hdr p.out 0 (max 1 (p.outRows m t)) (max 1 n)
      (if p.out = .acc128 then twos 16 p.anchor else 0x8000) 0 e epoch)) w

/-- ST_ANCHOR_OVERFLOW on an engine (Table 04-6). -/
def fOverflow (core e half : Nat) (combine : Bool) : Fail :=
  (Status.anchorOverflow.code, core % 256 * 256 + (if combine then 16 else e % 4 * 64 + half % 2 * 32))

/-- A half overflowed: OVF, the chain's destinations invalid, the failure (R76, R118). A chain that starts from an ACC128
block combines partials (Table 04-6). -/
def MM.overflow (p : MM) (e epoch i j : Nat) (x : ChainAcc) (w : Work) : Work :=
  let w1 := p.voidBlock e epoch i j x.m x.n (w.mod (engFlag w.core e ENG_FLAGS_OVF true))
  w1.stop (fOverflow w.core e (if x.o0 then 0 else 1) p.c.isSome)

/-- Drain output tile `t` of a block (R78 to R80, R122, R125, R663). -/
def MM.drainOne (p : MM) (e epoch i j : Nat) (x : ChainAcc) (t : Nat) (w : Work) : Work :=
  let r0 := t * rowsPerTile p.out
  let rows := p.outRows x.m t
  if w.failed then w
  else if !shapeOk p.out rows x.n x.n then w.stop (fMismatch p.d.slot .shape)
  else
    let accs := (x.accs.drop (r0 * x.n)).take (rows * x.n)
    let coords := (List.range (rows * x.n)).map fun y => (64 * (p.i0 + i) + r0 + y / x.n, 64 * (p.j0 + j) + y % x.n)
    let (pay, sat, mexp) := drainTile p.out p.anchor p.seed coords accs
    let trunc := (decide (r0 < 32) && x.t0) || (decide (32 < r0 + rows) && x.t1)
    let sr := p.seed.isSome && p.out != .acc128
    let w1 := w.put p.d (p.outIndex i j t) (w.hdr p.out (hdrFlags false sat trunc sr) rows x.n mexp 0 e epoch) pay
    w1.mod (engFlag w.core e ENG_FLAGS_SAT sat)

/-- Drain a finished chain of a command, from the engine that holds it; its halves are free then. -/
def MM.drain (p : MM) (epoch i j e : Nat) (x : ChainAcc) (w : Work) : Work :=
  let w1 := (List.range (outTilesOf p.out x.m)).foldl (fun w t =>
    if w.failed then w else let (w1, e) := w.sameEngine; p.drainOne e epoch i j x t w1) w
  let w2 := w1.mod (dropCmdChain w.c w.core)
  if w2.failed then w2
  else { w2 with trunc := w2.trunc || x.t0 || x.t1 }.mod (addBusy w.core e (tailCycles p.fp32 p.out x.m) 0)

/-- The sticky flags that a step's sums set (Table 03-16, R108). -/
def ChainAcc.note (x : ChainAcc) (n e : Nat) (s : State) : State :=
  engFlag n e ENG_FLAGS_NONFINITE (x.accs.any fun a => a.tag != .finite) (engFlag n e ENG_FLAGS_TRUNC (x.t0 || x.t1) s)

/-- A failure of R57 to R59. -/
def tileFailure (f : Fail) : Bool :=
  [Status.tornTile.code, Status.tileCorrupt.code, Status.formatMismatch.code].contains f.1

/-- The weights have failed their check. Where the activation tile fails its own, that is the lower operand slot (R57). -/
def MM.lowerSlot (p : MM) (i k : Nat) (w : Work) : Work :=
  if w.parked.isSome ∨ !w.fail.any tileFailure then w
  else
    let ofClass (f : Fmt) : Bool := heldK f == p.heldk && heldK f != 0 && (f == .fp32) == p.fp32
    match { w with fail := none }.take p.a (i * p.aStr + k) ofClass with
    | (w1, some (fa, ta)) =>
      if p.agreesA i k fa ta then { w1 with fail := w.fail } else w1.stop (fMismatch p.a.slot .unexpected)
    | (w1, none) => w1

/-- Step `k` of chain (i, j) on engine `e`: load, check, swap, add (Table 03-3). `held` is the block, where the array holds it.
The chain's accumulators come in and go out; none before the first step. -/
def MM.chainStep (p : MM) (e epoch i j k : Nat) (held : Option (List (Fmt × Tile))) (x : Option ChainAcc) (w : Work) :
    Work × Option ChainAcc :=
  let bad (w : Work) : Work := w.mod (engFlag w.core e ENG_FLAGS_CHK_FAIL true)
  let (w1, ws) := p.block e j k held w
  let n := (ws.map fun y => y.2.hdr.cols).sum
  let fb := ((ws.head?).map (·.1)).getD .fp32
  if w1.failed then (bad (p.lowerSlot i k w1), x)
  else if (x.map (·.n)).getD n ≠ n then (bad (p.lowerSlot i k (w1.stop (fMismatch p.b.slot .unexpected))), x)
  else match w1.take p.a (i * p.aStr + k) (p.acceptsA fb) with
  | (w2, none) => (bad w2, x)
  | (w2, some (fa, ta)) =>
    if !p.agreesA i k fa ta then (bad (w2.stop (fMismatch p.a.slot .unexpected)), x)
    else
      let m := p.ms.getD i 0
      let (w3, start) := match x, p.c with
        | some x, _ => (w2, x)
        | none, none => (w2, ChainAcc.zero m n)
        | none, some o => p.loadC o i j n (ChainAcc.zero m n) (ceilDiv m 4) 0 w2
      if w3.failed then (bad w3, x)
      else
        let x1 := start.step p.anchor fa ta (blockCols ws)
        let w4 := w3.mod fun s => x1.note w.core e (noteIssue w.core (addBusy w.core e
          (arrayCycles p.fp32 (p.wt j) m p.kt k) (streamCycles p.fp32 m) (swapBlock w.core e s)))
        if x1.ovf then (p.overflow e epoch i j x1 w4, some x1) else (w4, some x1)

/-- Between its steps a command's chain stays in its engine; a chain that fails is cleared without a drain (R75, R91). -/
def MM.keep (p : MM) (e i j k : Nat) (x : Option ChainAcc) (w : Work) : Work :=
  if w.fail.isSome then w.mod (dropCmdChain w.c w.core)
  else match x with
    | none => w
    | some y => w.mod fun s =>
      let s1 := putChain w.core e ⟨some w.c, 0, 0, 0, i * p.nt + j, k + 1, p.kt, y.m, y.n, 0⟩ y p.anchor s
      setEng w.core e { getEng s1 w.core e with since := s1.tick } s1

/-- All the steps of a chain from step `k` on, each charged, then its drain. -/
def MM.chainFrom (p : MM) (epoch i j e : Nat) : Nat → Nat → Option ChainAcc → Work → Work
  | 0, _, none, w => w
  | 0, _, some x, w => if w.failed then w else p.drain epoch i j e x w
  | u + 1, k, x, w =>
    if w.failed then w
    else
      let m := p.ms.getD i 0
      let (w1, e1) := if k = 0 then (w, e) else w.sameEngine
      let (w2, held) := p.heldBlock e1 j k w1
      let w3 := w2.charge 1 (stepCycles p.fp32 p.out (p.wt j) (if p.c.isSome then ceilDiv m 4 else 0) m p.kt k held.isSome)
      if w3.failed then w3
      else
        let (w4, x1) := p.chainStep e1 epoch i j k held x w3
        p.chainFrom epoch i j e1 u (k + 1) x1 (p.keep e1 i j k x1 w4)

/-- Every chain of a command, block by block. -/
def MM.run (p : MM) (epoch : Nat) (w : Work) : Work :=
  w.each (fun b w =>
    let (w1, e) := w.newEngine true b
    p.chainFrom epoch (b / p.nt) (b % p.nt) e p.kt 0 none w1) (p.mt * p.nt) 0

/-- The columns of output block column `j`, from the headers of the first grid row of B. -/
def MM.blockCols (p : MM) (s : State) (j : Nat) : Nat :=
  let cols (h : Nat) : Nat := (Header.ofBytes (placeRead s (p.b.at s (j * p.bpb + h)).header 64)).cols
  if p.two j (cols 0) then cols 0 + cols 1 else cols 0

/-- No window holds the anchor: no step runs, every destination is invalid (R112). An ACC128 header carries the anchor of `p`,
for which the commands give 1,023 (DEDUCED, log 113). -/
def MM.noWindow (p : MM) (epoch : Nat) (w : Work) : Work :=
  let w1 := (List.range (p.mt * p.nt)).foldl (fun w b =>
    p.voidBlock 0 epoch (b / p.nt) (b % p.nt) (p.ms.getD (b / p.nt) 1) (min 64 (p.blockCols w.s (b % p.nt))) w) w
  w1.stop (fOverflow w.core 0 0 false)

/-! ### The commands -/

def strideOr (st n : Nat) : Nat := if st = 0 then n else st

/-- The core of a larder segment (R114). -/
def larderCore (g : Seg) : List Nat := if g.cls = clsLarder then [(g.base - 0x040000000000) / 0x100000000] else []

def manyCores (gs : List Seg) : Bool :=
  match gs.flatMap larderCore with
  | [] => false
  | n :: r => r.any (· != n)

/-- Do tiles `d0` to `d0 + n − 1` meet a grid of `rows` rows of `cols` tiles from `g0` with stride `st`? -/
def gridMeets (d0 n g0 st cols : Nat) : Nat → Bool
  | 0 => false
  | r + 1 => (decide (d0 < g0 + r * st + cols) && decide (g0 + r * st < d0 + n)) || gridMeets d0 n g0 st cols r

/-- A grid tile beyond the segment, found once the grid's extent is known. -/
def Work.within (w : Work) (slot seg : Nat) (g : Seg) (last : Nat) : Work :=
  if w.failed then w else if g.tiles ≤ last then w.stop (fSeg slot seg rTileIndex) else w

/-- Headers of a list of tiles. -/
def Work.peeks (w : Work) (o : Opnd) : List Nat → Work × List Header
  | [] => (w, [])
  | i :: r =>
    let (w1, h) := w.peek o i
    let (w2, hs) := w1.peeks o r
    (w2, h :: hs)

/-- The anchor result word of SCANNED, slot 9. -/
def Work.anchorRef (w : Work) (a : AWord) : Work × Seg :=
  match a with
  | .scanned r => w.bytesRef 9 r 8 rtRead
  | _ => (w, Seg.ofNat 0 0)

def Work.scannedAnchor (w : Work) (r : Bref) (g : Seg) : Work × Int :=
  let (w1, v) := w.word 9 r.seg.toNat g r.off.toNat
  (w1, wordAnchor v)

def gridTiles (st rows cols : Nat) : List Nat := (List.range rows).flatMap fun i => (List.range cols).map fun j => i * st + j

/-- MATMUL, and MATMUL_ACC with its C (R281, R282). -/
def matmulWork (c : CmdRef) (p : MatmulP) (acc : Option Tref) (e : Cmd) (s : State) : Work :=
  let mt := p.mt.toNat
  let kt := p.kt.toNat
  let nt := p.nt.toNat
  let tpb := 64 / rowsPerTile p.fmtOut
  let aStr := strideOr p.aStr.toNat kt
  -- references in slot order
  let (w1, ga) := (Work.start c e.core s).tilesRef 0 p.a (p.a.tile.toNat + (mt - 1) * aStr + kt - 1) rtRead
  let (w2, gb) := w1.tilesRef 1 p.b (p.b.tile.toNat + (kt - 1) * strideOr p.bStr.toNat nt + nt - 1) rtRead
  let (w3, gc) := match acc with
    | none => (w2, gb)
    | some r => w2.tilesRef 2 r (r.tile.toNat + mt * nt * 16 - 1) rtRead
  let (w4, gd) := w3.tilesRef 8 p.d (p.d.tile.toNat + mt * nt * tpb - 1) rtWrite
  let (w5, gw) := w4.anchorRef p.anchor
  let w6 := ((((w5.allot 1 1).allotSeg ga).allotSeg gb).allotSeg gc).allotSeg gd
  let oa := segOpnd 0 p.a ga
  let ob := segOpnd 1 p.b gb
  -- the headers that fix the dimensions
  let (w7, rowHs) := w6.peeks oa ((List.range mt).map fun i => i * aStr)
  let (w8, colHs) := w7.peeks oa (List.range kt)
  let (w9, hb) := w8.peek ob 0
  let bpb := match Fmt.ofCode hb.format with | some f => if twoTileForm f then 2 else 1 | none => 1
  let bStr := strideOr p.bStr.toNat (nt * bpb)
  let fa := ((colHs.head?).bind fun h => Fmt.ofCode h.format)
  let ms := rowHs.map (·.rows)
  let ks := colHs.map (·.cols)
  let fp32 := fa == some .fp32
  let d0 := p.d.tile.toNat
  let dn := mt * nt * tpb
  let onA := p.d.seg == p.a.seg && gridMeets d0 dn p.a.tile.toNat aStr kt mt
  let onB := p.d.seg == p.b.seg && gridMeets d0 dn p.b.tile.toNat bStr (nt * bpb) kt
  let onC := match acc with
    | none => false
    | some r => p.d.seg == r.seg && decide (d0 < r.tile.toNat + mt * nt * 16) && decide (r.tile.toNat < d0 + dn) &&
        !(p.fmtOut == .acc128 && d0 == r.tile.toNat)
  let mm (a : Int) : MM := {
    a := oa, b := ob, c := acc.map fun r => segOpnd 2 r gc, d := segOpnd 8 p.d gd
    aStr := aStr, bStr := bStr, cStr := nt * 16, dStr := nt * tpb, mt := mt, kt := kt, nt := nt, bpb := bpb
    b0 := 0, lastCols := if nt = 1 then some hb.cols else none, bFmt := hb.format
    fa := fa, heldk := (fa.map heldK).getD 64, fp32 := fp32, ms := ms, ks := ks, out := p.fmtOut, anchor := a
    seed := p.seed.map (·.toNat), i0 := 0, j0 := 0 }
  let wt := (mm 0).wt 0
  let maxStep := (ms.map fun m => mostCycles fp32 p.fmtOut wt (if acc.isSome then ceilDiv m 4 else 0) m kt).foldl max 0
  let w10 := (w9.within 1 p.b.seg.toNat gb (p.b.tile.toNat + (kt - 1) * bStr + (nt - 1) * bpb)).allot 1 maxStep
  if w10.failed then w10
  else if onA || onB || onC then (w10.stop (fParam 0x0C 0))
  else if p.anchor = .default ∧ manyCores [ga, gb, gc] then (w10.stop (fParam 0x04 0))
  else
    let (w11, raw) : Work × Int := match p.anchor with
      | .explicit a => (w10, a.toInt)
      | .scanned r => w10.scannedAnchor r gw
      | .default =>
        let (w, maxa, _) := w10.maxOver oa (gridTiles aStr mt kt)
        let (w, maxb, _) := (mm 0).maxWeights w
        (w, anchorOf maxa maxb ks.sum)
    if w11.failed then w11
    else match anchorInRange raw with
      | none => ((mm 1023).noWindow 0 w11)
      | some a => ((mm a).run 0 w11)

def execMatmul (c : CmdRef) (p : MatmulP) (s : State) : Ans :=
  .next (runCmd (.matmul c p) c true s fun e s => (matmulWork c p none e s).finish 0)

def execMatmulAcc (c : CmdRef) (p : MatmulAccP) (s : State) : Ans :=
  .next (runCmd (.matmulAcc c p) c true s fun e s => (matmulWork c p.base (some p.c) e s).finish 0)

/-- The maximum of a grid (R109). A grid of another module is scanned there: a partial word goes to it as COLL_MAX, and the maximum
it combines is a free value (R115, R283, log 127). -/
def Work.scanGrid (w : Work) (slot : Nat) (r : Tref) (g : Seg) (tiles : List Nat) : Work × Int × Bool :=
  if g.cls ≠ clsRemote ∨ isSelf w.s g then w.maxOver (segOpnd slot r g) tiles
  else if w.failed then (w, -32768, false)
  else
    let (w1, a) := w.hear fun w =>
      match placeFault w.s false slot r.seg.toNat (placeOf w.s g 0) with
      | some f => (w.stop f, .ok)
      | none =>
        let partialWord := AnchorScan.word ⟨-1024, -32768, -32768, 0, true, false⟩
        (w.upd (sendReqAt (slot, r.seg.toNat) [] g.module 1 0x07 [moduleId w.s, 0, 1, partialWord] [] (.cmd w.c)),
         { Heard.ok with num := (Config.remoteScan g.module r.tile.toNat w.s.tick).toNat })
    (w1, ofTwos 16 (a.num % 65536), bitAt a.num 16)

/-- ANCHOR_SCAN (R115, R283): headers only, each started 64 of a grid charged. -/
def scanWork (c : CmdRef) (p : ScanP) (e : Cmd) (s : State) : Work :=
  let ar := p.aRows.toNat
  let ac := p.aCols.toNat
  let aStr := strideOr p.aStr.toNat ac
  let (w1, ga) := (Work.start c e.core s).tilesRef 0 p.a (p.a.tile.toNat + (ar - 1) * aStr + ac - 1) rtRead
  let (w2, gb) := match p.b with
    | none => (w1, ga)
    | some (r, st, rows, cols) =>
      w1.tilesRef 1 r (r.tile.toNat + (rows.toNat - 1) * strideOr st.toNat cols.toNat + cols.toNat - 1) rtRead
  let (w3, gw) := w2.bytesRef 9 p.res 8 rtWrite
  let w4 := (w3.allotSeg ga).allotSeg gb
  let pay (w : Work) (g : Seg) (n : Nat) : Work := w.traffic g (ceilDiv n 64)
  let (w5, maxa, nfa) := (pay w4 ga (ar * ac)).scanGrid 0 p.a ga (gridTiles aStr ar ac)
  let (w6, maxb, nfb) : Work × Int × Bool := match p.b with
    | none => (w5, 0, false)
    | some (r, st, rows, cols) =>
      (pay w5 gb (rows.toNat * cols.toNat)).scanGrid 1 r gb
        (gridTiles (strideOr st.toNat cols.toNat) rows.toNat cols.toNat)
  let zero := decide (maxa = -32768) || decide (maxb = -32768)
  let word := AnchorScan.word ⟨anchorOf maxa maxb p.k.toNat, maxa, maxb, clog2 p.k.toNat, zero, nfa || nfb⟩
  w6.storeBytes 9 p.res.seg.toNat (placeOf w6.s gw p.res.off.toNat) (leBytes 8 word)

def execAnchorScan (c : CmdRef) (p : ScanP) (s : State) : Ans :=
  .next (runCmd (.anchorScan c p) c true s fun e s => (scanWork c p e s).finish 0)

end Sys2Proof.Machine
end

