-- ==== Sys2Proof/Machine/Tensor.lean ====
section
/-! DEFINITION. Sums of tiles and lane-by-lane work (R284, R285, R82 to R89, Table 07-22), over operands that a command
or a placed step names. -/

namespace Sys2Proof.Machine

open Sys2Proof

/-- The elements of a tile in row order, whatever its LAYOUT. -/
def Tile.rowMajor (t : Tile) (f : Fmt) : List Val :=
  let n := t.hdr.count
  let p := leNat t.payload
  (List.range n).map fun e => elemVal f n (maxexpInt t.hdr.maxexp) p
    (elemIndex t.hdr.layout t.hdr.rows t.hdr.cols (e / t.hdr.cols) (e % t.hdr.cols))

/-- The accumulators that an ACC128 tile holds, in row order. -/
def Tile.rowAccs (t : Tile) : List Acc :=
  let p := leNat t.payload
  (List.range t.hdr.count).map fun e => Acc.ofPattern (elemBits 128 p
    (elemIndex t.hdr.layout t.hdr.rows t.hdr.cols (e / t.hdr.cols) (e % t.hdr.cols)))

/-! ### REDUCE (R284) -/

/-- A sum of tiles: its inputs, its destination, `t0` the number of its first output tile in the whole destination
(R125). `anchor` none is DEFAULT. -/
structure Red where
  input : Nat → Opnd
  d : Opnd
  tiles : Nat
  count : Nat
  out : Fmt
  anchor : Option Int
  seed : Option Nat
  t0 : Nat

/-- Engine cycles of one output tile of `n` elements. -/
def Red.cycles (p : Red) (n : Nat) : Nat :=
  ceilDiv n 4096 * (18 * p.count + 16) + drainCycles p.out * (n / 4096 * 64 + ceilDiv (n % 4096) 64) + 1

/-- Of these, those in which the drain unit writes. -/
def Red.busy (p : Red) (n : Nat) : Nat := drainCycles p.out * (n / 4096 * 64 + ceilDiv (n % 4096) 64) + 1

def redSlot (i : Nat) : Nat := min i 7

/-- Add one tile into the sums: accumulators with their overflow so far, and truncation. -/
def redAdd (anchor : Int) (f : Fmt) (t : Tile) (x : List (Acc × Bool) × Bool) : List (Acc × Bool) × Bool :=
  if f = .acc128 then
    (List.zipWith (fun (a : Acc × Bool) b => let (c, o) := a.1.combine b; (c, a.2 || o)) x.1 (Tile.rowAccs t),
     x.2 || t.hdr.trunc)
  else
    let cs := (Tile.rowMajor t f).map (valueContrib anchor)
    (List.zipWith (fun (a : Acc × Bool) c => let (r, o) := a.1.add c; (r, a.2 || o)) x.1 cs, x.2 || cs.any (·.trunc))

/-- Does input tile `t` agree with tile `t0` of input 0, and its anchor with the anchor in force? -/
def redAgrees (f0 : Fmt) (t0 : Tile) (anchor : Int) (f : Fmt) (t : Tile) : Bool :=
  f == f0 && t.hdr.rows == t0.hdr.rows && t.hdr.cols == t0.hdr.cols && t.hdr.layout == t0.hdr.layout &&
  (f != .acc128 || maxexpInt t.hdr.maxexp == anchor)

/-- Check and add inputs `i` up to the last. -/
def Red.addFrom (p : Red) (t : Nat) (f0 : Fmt) (t0 : Tile) (anchor : Int) :
    Nat → Nat → Work → List (Acc × Bool) × Bool → Work × (List (Acc × Bool) × Bool)
  | 0, _, w, x => (w, x)
  | u + 1, i, w, x =>
    match w.take (p.input i) t (· == f0) with
    | (w1, none) => (w1, x)
    | (w1, some (f, ti)) =>
      if redAgrees f0 t0 anchor f ti then p.addFrom t f0 t0 anchor u (i + 1) w1 (redAdd anchor f ti x)
      else (w1.stop (fMismatch (p.input i).slot .unexpected), x)

/-- The first element, in storage order, whose sum overflowed. -/
def firstOver (t : Tile) (accs : List (Acc × Bool)) : Nat :=
  let at_ := ((List.range accs.length).filter fun e => (accs.map (·.2)).getD e false).map fun e =>
    elemIndex t.hdr.layout t.hdr.rows t.hdr.cols (e / t.hdr.cols) (e % t.hdr.cols)
  match at_ with | [] => 0 | x :: r => r.foldl min x

/-- One output tile. -/
def Red.tile (p : Red) (e epoch : Nat) (scope : Int) (t : Nat) (w : Work) : Work :=
  match w.take (p.input 0) t fun _ => true with
  | (w1, none) => w1.mod (engFlag w.core e ENG_FLAGS_CHK_FAIL true)
  | (w1, some (f0, t0)) =>
    let rows := t0.hdr.rows
    let cols := t0.hdr.cols
    let n := rows * cols
    let anchor := if f0 = .acc128 then (p.anchor.getD (maxexpInt t0.hdr.maxexp)) else scope
    let hdr (w : Work) (fl mexp : Nat) : Header := w.hdr p.out fl rows cols mexp 0 e epoch
    let open0 : Nat := if p.out = .acc128 then twos 16 anchor else 0x8000
    if !redAgrees f0 t0 anchor f0 t0 then w1.stop (fMismatch (p.input 0).slot .unexpected)
    else if !shapeOk p.out rows cols cols then w1.stop (fMismatch p.d.slot .shape)
    else
      let w2 := w1.charge 1 (p.cycles n)
      let start := redAdd anchor f0 t0 (List.replicate n (Acc.zero, false), false)
      let (w3, accs, trunc) := p.addFrom t f0 t0 anchor (p.count - 1) 1 w2 start
      if w3.failed then (w3.mod (engFlag w.core e ENG_FLAGS_CHK_FAIL true)).void p.d t (hdr w3 0 open0)
      else
        let w4 := w3.mod fun s => engFlag w.core e ENG_FLAGS_NONFINITE (accs.any fun a => a.1.tag != .finite)
          (engFlag w.core e ENG_FLAGS_TRUNC trunc (noteIssue w.core (addBusy w.core e (p.busy n) 0 s)))
        if accs.any (·.2) then
          let half := if 32 ≤ firstOver t0 accs % 4096 / 64 then 1 else 0
          ((w4.mod (engFlag w.core e ENG_FLAGS_OVF true)).void p.d t (hdr w4 0 open0)).stop
            (fOverflow w.core e half (f0 == .acc128))
        else
          let coords := (List.range n).map fun c => (p.t0 + t, c)
          let (pay, sat, mexp) := drainTile p.out anchor p.seed coords (accs.map (·.1))
          let fl := hdrFlags false sat trunc (p.seed.isSome && p.out != .acc128)
          let w5 := w4.put p.d t (hdr w4 fl mexp) pay
          { w5 with trunc := w5.trunc || trunc }.mod (engFlag w.core e ENG_FLAGS_SAT sat)

/-- All the output tiles, on one engine, under the default anchor `scope` where none is given and the inputs are not ACC128. -/
def Red.run (p : Red) (epoch : Nat) (scope : Int) (w : Work) : Work :=
  let (w1, e) := w.newEngine true 0
  w1.each (fun t w => p.tile e epoch scope t (if t = 0 then w else w.onEngine e)) p.tiles 0

/-- No window holds the anchor: every destination is invalid (R112). -/
def Red.noWindow (p : Red) (epoch : Nat) (w : Work) : Work :=
  let w1 := (List.range p.tiles).foldl (fun w t =>
    let (w1, h) := w.peek (p.input 0) t
    w1.void p.d t (w1.hdr p.out 0 (max 1 h.rows) (max 1 h.cols) (if p.out = .acc128 then twos 16 1023 else 0x8000) 0 0 epoch)) w
  w1.stop (fOverflow w.core 0 0 false)

/-- The largest finite_maxexp over every tile of every input. -/
def Red.maxAll (p : Red) : Nat → Work → Work × Int
  | 0, w => (w, -32768)
  | i + 1, w =>
    let (w1, m) := p.maxAll i w
    let (w2, m2, _) := w1.maxOver (p.input i) (List.range p.tiles)
    (w2, max m m2)

/-- Run under a given anchor: R112's range first. -/
def Red.under (p : Red) (epoch : Nat) (raw : Int) (w : Work) : Work :=
  match anchorInRange raw with
  | none => p.noWindow epoch w
  | some a => Red.run { p with anchor := p.anchor.map fun _ => a } epoch a w

def reduceWork (c : CmdRef) (p : ReduceP) (e : Cmd) (s : State) : Work :=
  let n := p.tiles.toNat
  let cnt := p.inCount.toNat
  let first (i : Nat) : Nat := p.input.tile.toNat + i * p.inStep.toNat
  let (w1, gi) := Work.each' (fun i w g =>
      let (w1, g1) := w.tilesRef (redSlot i) p.input (first i + n - 1) rtRead
      (w1, if i = 0 then g1 else g)) cnt 0 (Seg.ofNat 0 0) (Work.start c e.core s)
  let (w2, gd) := w1.tilesRef 8 p.d (p.d.tile.toNat + n - 1) rtWrite
  let (w3, gw) := w2.anchorRef p.anchor
  let red : Red := {
    input := fun i => { segOpnd (redSlot i) p.input gi with base := first i }
    d := segOpnd 8 p.d gd, tiles := n, count := cnt, out := p.fmtOut
    anchor := (match p.anchor with | .explicit a => some a.toInt | _ => none)
    seed := p.seed.map (·.toNat), t0 := 0 }
  let (w4, hs) := w3.peeks (red.input 0) (List.range n)
  let most := (hs.map fun h => red.cycles h.count).foldl max 1
  let w5 := ((w4.allot 1 most).allotSeg gi).allotSeg gd
  let acc := ((hs.head?).map (·.format)) == some Fmt.acc128.code
  let laps := p.d.seg == p.input.seg && (List.range cnt).any fun i => rangesMeet p.d.tile.toNat (first i) n
  if w3.failed then w3
  else if laps then (w3.stop (fParam 0x0C 0))
  else if w5.failed then w5
  else match p.anchor with
    | .explicit a => (red.under 0 a.toInt w5)
    | .scanned r =>
      let (w6, a) := w5.scannedAnchor r gw
      if w6.failed then w6 else (Red.under { red with anchor := some a } 0 a w6)
    | .default =>
      if acc then (red.run 0 0 w5)
      else
        let (w6, m) := red.maxAll cnt w5
        if w6.failed then w6
        else (red.under 0 (anchorOf m 0 cnt) w6)

def execReduce (c : CmdRef) (p : ReduceP) (s : State) : Ans :=
  .next (runCmd (.reduce c p) c true s fun e s => (reduceWork c p e s).finish 0)

/-! ### Lanes (R285, Table 07-22) -/

/-- What a lane-by-lane step does: the operations of Table 09-13, and those of Table 07-22. -/
inductive EOp where
  | v (op : VOp)
  | sel | perm
  | cmpEq | cmpLt | cmpLe | cmpUn
  | redMin | redMax | vsum | vacc
  deriving DecidableEq, Repr

def EOp.ofCode (n : Nat) : Option EOp :=
  match n with
  | 0x20 => some .sel | 0x21 => some .perm | 0x22 => some .cmpEq | 0x23 => some .cmpLt | 0x24 => some .cmpLe
  | 0x25 => some .cmpUn | 0x26 => some .redMin | 0x27 => some .redMax | 0x28 => some .vsum | 0x29 => some .vacc
  | n => (VOp.ofCode n).map .v

def EOp.uses : EOp → Bool × Bool
  | .v op => op.uses
  | .sel => (true, true)
  | .perm | .cmpEq | .cmpLt | .cmpLe | .cmpUn => (true, false)
  | .redMin | .redMax | .vsum | .vacc => (false, false)

/-- Cycles per register, 32-bit and FP64 (Table 03-8). -/
def EOp.rate (fp64 : Bool) : EOp → Nat
  | .v .div | .v .sqrt => if fp64 then 16 else 8
  | .perm => if fp64 then 4 else 2
  | .redMin | .redMax => if fp64 then 7 else 6
  | .vsum => 6
  | .vacc => 1
  | _ => if fp64 then 2 else 1

/-- A lane-by-lane operation. `scalar` gives Y in every lane; `anchor` is VACC's. -/
structure Lanes where
  x : Opnd
  y : Option Opnd
  z : Option Opnd
  scalar : Option Nat
  d : Opnd
  tiles : Nat
  op : EOp
  vfmt : VFmt
  out : Fmt
  rnd : Rnd
  anchor : Int

/-- Bits of a lane that a format uses (R82). -/
def vWidth : VFmt → Nat | .fp64 => 64 | .fp32 | .int32 => 32 | .bf16 | .fp16 => 16

/-- Convert values into lanes, with the flags of the conversions. -/
def intoLanes (f : VFmt) (r : Rnd) (vs : List Val) : List Nat × VFlags :=
  let ls := vs.map (f.into r)
  (ls.map (·.1), (ls.map (·.2)).foldl VFlags.or {})

def foldFlags (l : List (Nat × VFlags)) : List Nat × VFlags := (l.map (·.1), (l.map (·.2)).foldl VFlags.or {})

/-- Groups of 64 consecutive elements. -/
def groups64 (l : List Nat) : List (List Nat) := (List.range (ceilDiv l.length 64)).map fun g => (l.drop (64 * g)).take 64

/-- A comparison of two lanes (Table 03-8): equal and unordered raise invalid for a signalling NaN only, the two orders
for any NaN (IEEE 754-2019). -/
def cmpLane (op : EOp) (x y : Val) : Bool × VFlags :=
  let un := x.isNan || y.isNan
  let quiet := sigFlag [x, y]
  match op with
  | .cmpEq => (!un && vle x y && vle y x || (match x, y with | .fin _ 0 _, .fin _ 0 _ => true | _, _ => false), quiet)
  | .cmpLt => (!un && !vle y x && !(match x, y with | .fin _ 0 _, .fin _ 0 _ => true | _, _ => false), { invalid := un })
  | .cmpLe => (!un && (vle x y || (match x, y with | .fin _ 0 _, .fin _ 0 _ => true | _, _ => false)), { invalid := un })
  | _ => (un, quiet)

def EOp.isCmp : EOp → Bool
  | .cmpEq | .cmpLt | .cmpLe | .cmpUn => true
  | _ => false

/-! The vector unit's registers (R82). Each operation on a group of 64 elements or fewer loads X, Y and Z into V0, V1 and V2 and
leaves its result in V3, under the mask P0 of the lanes that the group fills; the compares write P1 and SEL reads it. Which
registers the unit takes is the model's choice (log 117). -/

/-- The vector and mask registers of an engine: 64 lanes of 64 bits as one number, one bit per lane. -/
structure VFile where
  v : Assoc Nat
  p : Assoc Nat
  deriving DecidableEq, Repr

def VFile.reg (f : VFile) (r : Nat) : Nat := Assoc.get (fun _ => 0) f.v r
def VFile.mask (f : VFile) (r : Nat) : Nat := Assoc.get (fun _ => 0) f.p r
def VFile.putMask (f : VFile) (r m : Nat) : VFile := { f with p := Assoc.put (fun _ => 0) f.p r (m % 2 ^ 64) }

/-- The first `n` lanes of a register. -/
def VFile.lanes (f : VFile) (r n : Nat) : List Nat := (List.range n).map fun i => elemBits 64 (f.reg r) i

/-- Write lanes of a register; a lane that mask P0 leaves out keeps its value. -/
def VFile.write (f : VFile) (r : Nat) (ls : List Nat) : VFile :=
  let old := f.reg r
  let new := packElems 64 ((List.range 64).map fun i => if bitAt (f.mask 0) i then ls.getD i 0 else elemBits 64 old i)
  { f with v := Assoc.put (fun _ => 0) f.v r new }

def maskOf (bs : List Bool) : Nat := ((bs.zipIdx.filter (·.1)).map fun b => 2 ^ b.2).sum

/-- The lanes of V3 that an operation gives from the lanes of V0, V1 and V2, with their flags. `choice` is mask P1. -/
def Lanes.op3 (p : Lanes) (choice : Nat) (xs ys zs : List Nat) : List Nat × VFlags :=
  let f := p.vfmt
  match p.op with
  | .v op => foldFlags ((List.range xs.length).map fun i => vlane op f p.rnd (xs.getD i 0) (ys.getD i 0) (zs.getD i 0))
  | .sel => ((List.range xs.length).map fun i => if bitAt choice i then xs.getD i 0 else ys.getD i 0, {})
  | .perm => foldFlags ((List.range xs.length).map fun i =>
      let k := ofTwos 32 (ys.getD i 0)
      if 0 ≤ k ∧ k ≤ 63 then (xs.getD k.toNat 0, {}) else (0, { invalid := true }))
  | .cmpEq | .cmpLt | .cmpLe | .cmpUn => ((List.range xs.length).map fun i => bnat (bitAt choice i), {})
  | .redMin | .redMax =>
    let mx := p.op == .redMax
    match xs with
    | [] => ([], {})
    | a :: r =>
      let m := r.foldl (fun (m, fl) b =>
          if f = .int32 then (vint (if mx then .imax else .imin) m b, fl)
          else let (v, g) := vlane (if mx then .max else .min) f p.rnd m b 0; (v, fl.or g)) (a, ({} : VFlags))
      (m.1 :: r.map fun _ => 0, m.2)
  | .vsum => let m := vsum64F p.rnd xs; (m.1 :: List.replicate (xs.length - 1) 0, m.2)
  | .vacc => (xs, {})

/-- One group of lanes through the registers: the registers after it, the lanes stored from V3, the flags. -/
def Lanes.group (p : Lanes) (xs ys zs : List Nat) (f : VFile) : VFile × List Nat × VFlags :=
  let n := xs.length
  let f1 := (((f.putMask 0 (2 ^ n - 1)).write 0 xs).write 1 ys).write 2 zs
  let x := f1.lanes 0 n
  let y := f1.lanes 1 n
  let cs := (List.range n).map fun i => cmpLane p.op (p.vfmt.out (x.getD i 0)) (p.vfmt.out (y.getD i 0))
  let f2 := if p.op.isCmp then f1.putMask 1 (maskOf (cs.map (·.1)))
    else if p.op = .sel then f1.putMask 1 (maskOf ((f1.lanes 2 n).map (· != 0))) else f1
  let cf := if p.op.isCmp then (cs.map (·.2)).foldl VFlags.or {} else {}
  let (l, fl) := p.op3 (f2.mask 1) x y (f2.lanes 2 n)
  let f3 := f2.write 3 l
  (f3, f3.lanes 3 n, fl.or cf)

/-- All the lanes of a tile, group by group. -/
def Lanes.groups (p : Lanes) (ys zs : List Nat) : List (List Nat) → Nat → VFile → VFile × List Nat × VFlags
  | [], _, f => (f, [], {})
  | g :: r, k, f =>
    let (f1, l, fl) := p.group g ((ys.drop (64 * k)).take 64) ((zs.drop (64 * k)).take 64) f
    let (f2, l2, fl2) := p.groups ys zs r (k + 1) f1
    (f2, l ++ l2, fl.or fl2)

/-- The result lanes of a tile with their flags. What a register holds beyond the lanes that a group fills is never stored, so
they do not depend on what the registers held. -/
def Lanes.lanes (p : Lanes) (xs ys zs : List Nat) : List Nat × VFlags := (p.groups ys zs (groups64 xs) 0 ⟨[], []⟩).2

/-- What the operation leaves in the registers of an engine. -/
def Lanes.regs (p : Lanes) (n e : Nat) (xs ys zs : List Nat) (s : State) : State :=
  let g := getEng s n e
  let f := (p.groups ys zs (groups64 xs) 0 ⟨g.vregs, g.pregs⟩).1
  setEng n e { g with vregs := f.v, pregs := f.p } s

/-- The vector format of the result lanes. -/
def Lanes.outFmt (p : Lanes) : VFmt := if p.op.isCmp then .int32 else p.vfmt

/-- Fetch an optional operand's tile `t`; its values in row order. Its shape is that of X's tile. -/
def Lanes.other (o : Option Opnd) (t rows cols : Nat) (w : Work) : Work × List Val :=
  match o with
  | none => (w, [])
  | some o =>
    match w.take o t (· != .acc128) with
    | (w1, none) => (w1, [])
    | (w1, some (f, y)) =>
      if y.hdr.rows = rows ∧ y.hdr.cols = cols then (w1, Tile.rowMajor y f)
      else (w1.stop (fMismatch o.slot .unexpected), [])

def Lanes.cycles (p : Lanes) (n : Nat) : Nat :=
  18 * (1 + bnat p.y.isSome + bnat p.z.isSome) + ceilDiv n 64 * p.op.rate (p.vfmt == .fp64) + 1

/-- VACC: each value is added exactly into the element of D at its position, in place. A tile holds at most 256 elements, four
rows of accumulators, so an overflow is in H0: HALF is 0 (DEDUCED, log 118). -/
def Lanes.vaccTile (p : Lanes) (e epoch t : Nat) (x : Tile) (xs : List Nat) (w : Work) : Work :=
  let o := p.d
  match w.take o t (· == .acc128) with
  | (w1, none) => w1
  | (w1, some (_, d)) =>
    if d.hdr.rows ≠ x.hdr.rows ∨ d.hdr.cols ≠ x.hdr.cols ∨ maxexpInt d.hdr.maxexp ≠ p.anchor then
      w1.stop (fMismatch o.slot .unexpected)
    else
      let sums := List.zipWith (fun (a : Acc) v => let c := valueContrib p.anchor (p.vfmt.out v); (a.add c, c.trunc))
        (Tile.rowAccs d) xs
      let trunc := sums.any (·.2)
      let h := w1.hdr .acc128 (hdrFlags false false (d.hdr.trunc || trunc) false) x.hdr.rows x.hdr.cols (twos 16 p.anchor) 0 e epoch
      let w2 := w1.mod fun s => engFlag w.core e ENG_FLAGS_NONFINITE (sums.any fun y => y.1.1.tag != .finite)
        (engFlag w.core e ENG_FLAGS_TRUNC trunc s)
      if sums.any fun y => y.1.2 then
        ((w2.mod (engFlag w.core e ENG_FLAGS_OVF true)).void p.d t h).stop (fOverflow w.core e 0 false)
      else
        let w3 := w2.put p.d t h (leBytes payloadBytes (packElems 128 (sums.map fun y => y.1.1.pattern)))
        { w3 with trunc := w3.trunc || trunc }

/-- One output tile. -/
def Lanes.tile (p : Lanes) (e epoch t : Nat) (w : Work) : Work :=
  match w.take p.x t (· != .acc128) with
  | (w1, none) => w1.mod (engFlag w.core e ENG_FLAGS_CHK_FAIL true)
  | (w1, some (fx, x)) =>
    let rows := x.hdr.rows
    let cols := x.hdr.cols
    let n := rows * cols
    let (w2, yv) := Lanes.other p.y t rows cols w1
    let (w3, zv) := Lanes.other p.z t rows cols w2
    if w3.failed then w3.mod (engFlag w.core e ENG_FLAGS_CHK_FAIL true)
    else if !shapeOk p.out rows cols cols then w3.stop (fMismatch p.d.slot .shape)
    else
      let w4 := (w3.charge 1 (p.cycles n)).mod fun s => noteIssue w.core (addBusy w.core e (ceilDiv n 64 * p.op.rate (p.vfmt == .fp64) + 1) 0 s)
      let (xs, fx1) := intoLanes p.vfmt p.rnd (Tile.rowMajor x fx)
      if p.op = .vacc then
        p.vaccTile e epoch t x xs ({ w4 with flags := w4.flags.or fx1 }.mod fun s => p.regs w.core e xs [] [] (vflagsInto w.core e fx1 s))
      else
        let (ys, fy) := match p.scalar with
          | some v => (List.replicate n (v % 2 ^ (vWidth p.vfmt)), ({} : VFlags))
          | none => intoLanes (if p.op = EOp.perm then .int32 else p.vfmt) p.rnd yv
        let (zs, fz) := intoLanes (if p.op = EOp.sel then .int32 else p.vfmt) p.rnd zv
        let (ls, fl) := p.lanes xs ys zs
        let wr := writeVals p.out (ls.map fun _ => p.rnd) (ls.map p.outFmt.out)
        let fs := (wr.flags.map Rounded.flags).foldl VFlags.or ((((fx1.or fy).or fz)).or fl)
        let stored := (List.range n).map (elemVal p.out n 0 wr.payload)
        let h := w4.hdr p.out (hdrFlags false wr.sat false false) rows cols (maxexpOf stored) 0 e epoch
        let w5 := (w4.mod (p.regs w.core e xs ys zs)).put p.d t h (leBytes payloadBytes wr.payload)
        { w5 with flags := w5.flags.or fs }.mod fun s => vflagsInto w.core e fs (engFlag w.core e ENG_FLAGS_SAT wr.sat s)

def Lanes.run (p : Lanes) (epoch : Nat) (w : Work) : Work :=
  w.each (fun t w => let (w1, e) := w.newEngine false t; p.tile e epoch t w1) p.tiles 0

def elemWork (c : CmdRef) (p : ElemP) (e : Cmd) (s : State) : Work :=
  let n := p.tiles.toNat
  let (useY, useZ) := p.op.uses
  let opt (b : Bool) (slot : Nat) (r : Tref) (w : Work) : Work × Seg :=
    if b then w.tilesRef slot r (r.tile.toNat + n - 1) rtRead else (w, Seg.ofNat 0 0)
  let (w1, gx) := (Work.start c e.core s).tilesRef 0 p.x (p.x.tile.toNat + n - 1) rtRead
  let (w2, gy) := opt (useY && p.scalar.isNone) 1 p.y w1
  let (w3, gz) := opt useZ 2 p.z w2
  let (w4, gd) := w3.tilesRef 8 p.d (p.d.tile.toNat + n - 1) rtWrite
  let l : Lanes := {
    x := segOpnd 0 p.x gx
    y := if useY && p.scalar.isNone then some (segOpnd 1 p.y gy) else none
    z := if useZ then some (segOpnd 2 p.z gz) else none
    scalar := p.scalar.map (·.toNat), d := segOpnd 8 p.d gd, tiles := n
    op := .v p.op, vfmt := p.vfmt, out := p.fmtOut, rnd := p.rnd, anchor := 0 }
  let (w5, hs) := w4.peeks l.x (List.range n)
  let most := (hs.map fun h => l.cycles h.count).foldl max 1
  let w6 := ((((w5.allot 1 most).allotSeg gx).allotSeg gy).allotSeg gz).allotSeg gd
  l.run 0 w6

def execElementwise (c : CmdRef) (p : ElemP) (s : State) : Ans :=
  .next (runCmd (.elementwise c p) c true s fun e s => let w := elemWork c p e s; w.finish w.flags.code)

end Sys2Proof.Machine
end

