-- ==== Sys2Proof/Machine/Functions.lean ====
section
/-! DEFINITION. Special functions and row statistics at work (R127 to R167, R286 to R288): FUNC, SOFTMAX, NORM and
ROWSTAT over operands that a command or a placed step names, and the loading and unloading of sets. -/

namespace Sys2Proof.Machine

open Sys2Proof

/-! ### Sets on a core (R143, R144, R147) -/

/-- How a core answers to a set: absent, still being loaded, or ready. -/
inductive SetAt where
  | absent | waits
  | ready (s : FSet)

/-- The copy of a set that serves a partition's work on a core: its own, or, where the core has left the partition, the one
that is leaving (R146). -/
def setCopy (s : State) (n id : Nat) (left : Bool) : Option LoadedSet :=
  (coreOf s n).sets.find? fun x => x.set.setId == id && x.leaving == left

/-- A set as it answers a command fetched at bell `fetched`, or, without one, a program that is being placed or run. -/
def setAt (s : State) (n id : Nat) (fetched : Option Nat) : SetAt :=
  let c := coreOf s n
  if c.joining || c.reload.contains id then .waits
  else if isShipped id then .ready (shippedSet id)
  else match setCopy s n id false with
    | none => .absent
    | some l =>
      if !l.valid || l.unloading || (fetched.map fun b => decide (b < l.since)).getD false then .absent
      else if l.held then .ready l.set else .waits

/-- The set that a command at work, or a run, of partition `part` has been using; an unload waits for it (R144, R146). -/
def heldSet (s : State) (n part id : Nat) : SetAt :=
  if (coreOf s n).reload.contains id then .waits
  else if isShipped id then .ready (shippedSet id)
  else match setCopy s n id (!bitAt (partOf s part).cores n) with
    | none => .absent
    | some l => .ready l.set

/-- The set of a command: as it found it, if it is at work already. -/
def setFor (s : State) (e : Cmd) (id : Nat) : SetAt :=
  if e.descs.isEmpty then setAt s e.core id (some e.fetchBell) else heldSet s e.core (ctxOf s e.ref.ctx.toNat).part id

/-- An uncorrectable error in the memories of a set: recorded, and the Reeve reloads the set on the core (R147). -/
def setEccError (n id : Nat) (s : State) : State :=
  let s0 := { s with upsets := s.upsets.filter (· != .set n id) }
  let s1 := setF (SFU_FLAGS n) SFU_FLAGS_ECC 1 (setCore n { coreOf s0 n with reload := setInsert (coreOf s0 n).reload id } s0)
  ledger 0x0104 2 (fenceCode domCore n) 0 (ledgerData [(0, 4, id), (4, 1, n)]) s1

/-- A unit of work that evaluates a program of a set: it is issued, and the set's memories are read (R147). -/
def Work.useSet (w : Work) (id : Nat) : Work :=
  if w.failed then w
  else (w.hear fun w =>
    if w.s.upsets.contains (.set w.core id) then ((w.upd (setEccError w.core id)).stop (fAbort 6), .ok) else (w, .ok)).1

def rSetAbsent : Nat := 0x21
def rFuncAbsent : Nat := 0x22

/-- Formats a heritage command takes and gives (R152). -/
def heritageFmt (f : Fmt) : Bool := f == .fp32 || f == .bf16 || f == .fp16

/-- Formats the special-function unit takes: those that convert exactly into the working format (R128). -/
def funcFmt (f : Fmt) : Bool := f != .fp64 && f != .acc128

/-- Formats of row inputs (R154). -/
def rowFmt (f : Fmt) : Bool := f != .fp64 && f != .int32 && f != .acc128

def inFmt (fs : FSet) (base : Fmt → Bool) (f : Fmt) : Bool := base f && (fs.setId != setHeritage || heritageFmt f)

/-! ### FUNC (R286, R153) -/

/-- FUNC: `t0` is the number of its first output tile in the whole destination (R125). -/
structure FnOp where
  x : Opnd
  d : Opnd
  tiles : Nat
  fs : FSet
  func : Nat
  out : Fmt
  seed : Option Nat
  t0 : Nat

/-- The roundings of a result (R123 to R125). -/
def rndsOf (seed : Option Nat) (coords : List (Nat × Nat)) : List Rnd := drainRnds seed coords

def FnOp.tile (p : FnOp) (epoch t : Nat) (w0 : Work) : Work :=
  let w := w0.dispatched.useSet p.fs.setId
  match w.take p.x t (inFmt p.fs funcFmt) with
  | (w1, none) => w1
  | (w1, some (f, x)) =>
    let rows := x.hdr.rows
    let cols := x.hdr.cols
    let n := rows * cols
    if !shapeOk p.out rows cols cols then w1.stop (fMismatch p.d.slot .shape)
    else
      let cyc := ceilDiv n 64 * p.fs.cycles p.func
      let w2 := w1.charge 1 cyc
      let xs := Tile.rowMajor x f
      let ys := xs.map (p.fs.eval p.func)
      let wr := writeVals p.out (rndsOf p.seed ((List.range n).map fun c => (p.t0 + t, c))) ys
      let stored := (List.range n).map (elemVal p.out n 0 wr.payload)
      let fl := ((xs.zip (ys.zip (stored.zip wr.flags))).map fun (a, b, o, r) => funcFlags a b o r).foldl VFlags.or {}
      let h := w2.hdr p.out (hdrFlags false wr.sat false p.seed.isSome) rows cols (maxexpOf stored) 2 0 epoch
      let w3 := w2.put p.d t h (leBytes payloadBytes wr.payload)
      { w3 with flags := w3.flags.or fl }.mod fun s =>
        incF (SFU_CYCLES w.core) SFU_CYCLES_SFU_CYCLES cyc (incF (SFU_ELEMS w.core) SFU_ELEMS_SFU_ELEMS n
          (orReg (SFU_FLAGS w.core) (fl.code + 32 * bnat wr.sat) s))

def FnOp.run (p : FnOp) (epoch : Nat) (w : Work) : Work := w.each (fun t w => p.tile epoch t w) p.tiles 0

def funcWork (c : CmdRef) (p : FuncP) (fs : FSet) (e : Cmd) (s : State) : Work :=
  let n := p.tiles.toNat
  if !fs.has p.func.toNat then (Work.start c e.core s).stop (fParam rFuncAbsent 0)
  else
    let (w1, gx) := (Work.start c e.core s).tilesRef 0 p.x (p.x.tile.toNat + n - 1) rtRead
    let (w2, gd) := w1.tilesRef 8 p.d (p.d.tile.toNat + n - 1) rtWrite
    let op : FnOp := { x := segOpnd 0 p.x gx, d := segOpnd 8 p.d gd, tiles := n, fs := fs, func := p.func.toNat
                       out := p.fmtOut, seed := p.seed.map (·.toNat), t0 := 0 }
    let (w3, hs) := w2.peeks op.x (List.range n)
    let most := (hs.map fun h => ceilDiv h.count 64 * fs.cycles p.func.toNat).foldl max 1
    let w4 := ((w3.allot 1 most).allotSeg gx).allotSeg gd
    if !w4.failed && fs.setId = setHeritage && !heritageFmt p.fmtOut then (w4.stop (fMismatch 8 .unexpected))
    else op.run 0 w4

/-- Run a command that names a set: absent, waiting or ready on its core. -/
def withSet (c : CmdRef) (id : Nat) (body : FSet → Cmd → State → State) (e : Cmd) (s : State) : State :=
  match setFor s e id with
  | .absent => finishFail c (fParam rSetAbsent 0) s
  | .waits => s
  | .ready fs => body fs e s

def execFunc (c : CmdRef) (p : FuncP) (s : State) : Ans :=
  .next (runCmd (.func c p) c true s (withSet c p.set.toNat fun fs e s =>
    let w := funcWork c p fs e s; w.finish w.flags.code))

/-! ### Row commands (R154 to R165, R287) -/

inductive RowKind where
  | softmax
  | norm (rms : Bool) (eps : Nat)
  | stat (mask : Nat)
  deriving DecidableEq, Repr

/-- The functions a row command takes from its set. -/
def RowKind.needs : RowKind → List Nat | .softmax => [0x01] | .norm .. => [0x07] | .stat _ => []

/-- A row command: its grid of X, γ and β, its destination, `r0` the number of its first row in the whole destination
(R125). -/
structure Rows where
  x : Opnd
  xStr : Nat
  gamma : Option Opnd
  beta : Option Opnd
  d : Opnd
  dStr : Nat
  rowt : Nat
  colt : Nat
  n : Nat
  fs : FSet
  kind : RowKind
  out : Fmt
  explicit : Option Int
  seed : Option Nat
  r0 : Nat

/-- Take the tiles of one grid row: one height, LAYOUT 0, widths that sum to N. -/
def Rows.takeRow (p : Rows) (i : Nat) : Nat → Nat → Work → Work × List (Fmt × Tile)
  | 0, _, w => (w, [])
  | u + 1, j, w =>
    match w.take p.x (i * p.xStr + j) (inFmt p.fs rowFmt) with
    | (w1, none) => (w1, [])
    | (w1, some t) => let (w2, ts) := p.takeRow i u (j + 1) w1; (w2, t :: ts)

def rowAgrees (n : Nat) (ts : List (Fmt × Tile)) : Bool :=
  match ts with
  | [] => false
  | (_, t) :: _ => ts.all (fun x => x.2.hdr.rows == t.hdr.rows && !x.2.hdr.layout) && (ts.map fun x => x.2.hdr.cols).sum == n

/-- The elements of γ or β, tile j beside X's tile j. -/
def Rows.takeVec (p : Rows) (o : Opnd) : List (Fmt × Tile) → Nat → Work → Work × List Val
  | [], _, w => (w, [])
  | (_, x) :: r, j, w =>
    match w.take o j (inFmt p.fs rowFmt) with
    | (w1, none) => (w1, [])
    | (w1, some (f, t)) =>
      if t.hdr.rows = 1 ∧ t.hdr.cols = x.hdr.cols then
        let (w2, vs) := p.takeVec o r (j + 1) w1
        (w2, Tile.rowMajor t f ++ vs)
      else (w1.stop (fMismatch o.slot .unexpected), [])

/-- Row `r` of a grid row's tiles. -/
def rowVals (ts : List (List Val × Nat)) (r : Nat) : List Val := ts.flatMap fun (vs, cols) => (vs.drop (r * cols)).take cols

/-- The exact outputs of one row and what it reports; is a NaN among outputs of a row without one? -/
def Rows.one (p : Rows) (gamma beta row : List Val) : List Val × RowFlags × Bool :=
  match p.kind with
  | .softmax => let (o, f) := softmaxRow p.fs row; (o, f, false)
  | .norm rms eps => let (o, f) := normRow p.fs rms p.explicit (lay32.decode eps) row gamma beta; (o, f, false)
  | .stat mask =>
    if p.fs.setId = setHeritage then
      let o := (statBits mask).map (hStat row)
      (o, { nonfinite := row.any Val.nonfinite }, !row.any Val.isNan && o.any Val.isNan)
    else
      let st := rowStats p.explicit row
      let o := (statBits mask).map st.stat
      (o, st.flags, !row.any Val.isNan && o.any Val.isNan)

/-- What a row leaves in the registers of its core (Tables 05-22, 05-23). -/
def noteRow (n : Nat) (f : RowFlags) (invalid : Bool) (s : State) : State :=
  let v := 64 * bnat invalid + 32 * bnat f.negClamp + 16 * bnat f.ovf + 8 * bnat f.trunc + 4 * bnat f.nonfinite + 2 * bnat f.emptyRow
  let s1 := orReg (RSU_FLAGS n) v s
  let s2 := if f.negClamp then incF (RSU_NEG_CLAMPS n) RSU_NEG_CLAMPS_RSU_NEG_CLAMPS 1 s1 else s1
  incF (RSU_ROWS n) RSU_ROWS_RSU_ROWS 1 s2

/-- Element width in bytes of a statistics tile. -/
def statBytes : Fmt → Nat | .fp64 => 8 | .fp32 => 4 | _ => 2

/-- Busy cycles of one grid row of `rows` rows (R166, R132). -/
def Rows.cycles (p : Rows) (i rows : Nat) : Nat :=
  let blk := ceilDiv p.n 64
  18 * p.colt + 2 * blk * rows + (if i + 1 = p.rowt then 32 else 0) +
  match p.kind with
  | .softmax => 2 * p.fs.cycles 0x01 * blk * rows
  | .norm rms _ => 18 * (if rms then 1 else 2) * p.colt + blk * rows
  | .stat mask =>
    if i + 1 = p.rowt then 4 + ceilDiv (rows * (statBits mask).length * statBytes p.out) 256 else 0

/-- The shapes of a grid row's output tiles: columns before each, and its columns. -/
def Rows.outs (p : Rows) (ts : List (Fmt × Tile)) : List (Nat × Nat) :=
  match p.kind with
  | .stat mask => [(0, (statBits mask).length)]
  | _ => (ts.foldl (fun (l, at_) x => (l ++ [(at_, x.2.hdr.cols)], at_ + x.2.hdr.cols)) ([], 0)).1

/-- The seed of a row's roundings: none for a heritage row, whose outputs round to nearest even (R165). -/
def Rows.drawn (p : Rows) : Option Nat := if p.fs.setId = setHeritage then none else p.seed

def Rows.header (p : Rows) (w : Work) (fl rows cols mexp epoch : Nat) : Header :=
  w.hdr p.out fl rows cols mexp 3 0 epoch

/-- Write output tile `j` of a grid row. -/
def Rows.write (p : Rows) (epoch i rows row0 : Nat) (vals : List (List Val)) (trunc : Bool) (j at_ cols : Nat) (w : Work) : Work :=
  if w.failed then w
  else if !shapeOk p.out rows cols cols then w.stop (fMismatch p.d.slot .shape)
  else
    let vs := vals.flatMap fun row => (row.drop at_).take cols
    let coords := (List.range (rows * cols)).map fun e => (row0 + e / cols, at_ + e % cols)
    let wr := writeVals p.out (rndsOf p.drawn coords) vs
    let fl := (wr.flags.map fun r => ({ overflow := r.overflow || r.sat, underflow := r.tiny && r.inexact, inexact := r.inexact } : VFlags)).foldl VFlags.or {}
    let stored := (List.range (rows * cols)).map (elemVal p.out (rows * cols) 0 wr.payload)
    let w1 := w.put p.d (i * p.dStr + j) (p.header w (hdrFlags false wr.sat trunc p.drawn.isSome) rows cols (maxexpOf stored) epoch)
      (leBytes payloadBytes wr.payload)
    { w1 with flags := w1.flags.or fl }

/-- What a row command adds to the special-function unit's counters for one row. -/
def Rows.sfu (p : Rows) (f : RowFlags) (s : State) (core : Nat) : State :=
  match p.kind with
  | .softmax =>
    let blk := ceilDiv p.n 64
    incF (SFU_CYCLES core) SFU_CYCLES_SFU_CYCLES (2 * blk * p.fs.cycles 0x01) (incF (SFU_ELEMS core) SFU_ELEMS_SFU_ELEMS (2 * p.n) s)
  | .norm .. =>
    if f.nonfinite || f.zeroVar then s
    else incF (SFU_CYCLES core) SFU_CYCLES_SFU_CYCLES (p.fs.cycles 0x07) (incF (SFU_ELEMS core) SFU_ELEMS_SFU_ELEMS 1 s)
  | .stat _ => s

/-- One grid row, `row0` the number of its first row; and the number of the next. A placed step writes one tile of the row
at a time (`only`); the row is charged and counted with its first. -/
def Rows.gridRow (p : Rows) (epoch i row0 : Nat) (only : Option Nat) (w : Work) : Work × Nat :=
  let w0 := if p.kind.needs.isEmpty then w.dispatched else w.dispatched.useSet p.fs.setId
  let (w1, ts) := p.takeRow i p.colt 0 w0
  if w1.failed then (w1, row0)
  else if !rowAgrees p.n ts then (w1.stop (fMismatch p.x.slot .unexpected), row0)
  else
    let (w2, gv) := match p.gamma with | none => (w1, []) | some o => p.takeVec o ts 0 w1
    let (w3, bv) := match p.beta with | none => (w2, []) | some o => p.takeVec o ts 0 w2
    if w3.failed then (w3, row0)
    else
      let rows := ((ts.head?).map fun x => x.2.hdr.rows).getD 0
      let first := only.getD 0 == 0
      let w4 := if first then w3.charge 1 (p.cycles i rows) else w3
      let dec := ts.map fun (f, t) => (Tile.rowMajor t f, t.hdr.cols)
      let res := (List.range rows).map fun r => p.one gv bv (rowVals dec r)
      let w5 := if first then w4.mod fun s => res.foldl (fun s x => p.sfu x.2.1 (noteRow w.core x.2.1 x.2.2 s) w.core) s else w4
      let fl := (res.map fun x => x.2.1).foldl RowFlags.or {}
      let trunc := (match p.kind with | .softmax => false | _ => fl.trunc || fl.negClamp)
      let w6 := { w5 with
        trunc := w5.trunc || trunc
        rowCode := w5.rowCode ||| (256 * bnat fl.emptyRow + 512 * bnat fl.zeroVar)
        flags := { w5.flags with invalid := w5.flags.invalid || res.any fun x => x.2.2 } }
      let outs := p.outs ts
      let js := match only with | none => List.range outs.length | some j => [j]
      let w7 :=
        if fl.ovf then
          (js.foldl (fun w j =>
            w.void p.d (i * p.dStr + j) (p.header w 0 rows ((outs.getD j (0, 1)).2) 0x8000 epoch)) w6).stop
            (fOverflow w.core 0 0 false)
        else js.foldl (fun w j =>
          let (at_, cols) := outs.getD j (0, 1)
          p.write epoch i rows row0 (res.map (·.1)) trunc j at_ cols w) w6
      (w7, row0 + rows)

def Rows.runFrom (p : Rows) (epoch : Nat) : Nat → Nat → Nat → Work → Work
  | 0, _, _, w => w
  | u + 1, i, row0, w =>
    if w.failed then w else let (w1, r1) := p.gridRow epoch i row0 none w; p.runFrom epoch u (i + 1) r1 w1

def Rows.run (p : Rows) (epoch : Nat) (w : Work) : Work := p.runFrom epoch p.rowt 0 p.r0 w

/-- The detail word of a row command: the flags of R159 for ROWSTAT, bits 8 and 9 for the others (R162, R164). -/
def RowKind.detail (k : RowKind) (w : Work) : Nat :=
  match k with | .stat _ => w.flags.code | _ => w.rowCode

def rowWork (c : CmdRef) (p : RowP) (kind : RowKind) (gb : Option Tref) (fs : FSet) (e : Cmd) (s : State) : Work :=
  let rt := p.rowt.toNat
  let ct := p.colt.toNat
  let stat := (match kind with | .stat _ => true | _ => false)
  let rms := (match kind with | .norm true _ => true | _ => false)
  let dn := if stat then rt else rt * ct
  if !(kind.needs.all fs.has) then (Work.start c e.core s).stop (fParam rFuncAbsent 0)
  else
    let (w1, gx) := (Work.start c e.core s).tilesRef 0 p.x (p.x.tile.toNat + rt * ct - 1) rtRead
    let (w2, gg) := match gb with
      | none => (w1, Seg.ofNat 0 0)
      | some r => w1.tilesRef 1 r (r.tile.toNat + ct - 1) rtRead
    let (w3, _) := match gb with
      | none => (w2, Seg.ofNat 0 0)
      | some r => if rms then (w2, Seg.ofNat 0 0) else w2.tilesRef 2 r (r.tile.toNat + 2 * ct - 1) rtRead
    let (w4, gd) := w3.tilesRef 8 p.d (p.d.tile.toNat + dn - 1) rtWrite
    let rows : Rows := {
      x := segOpnd 0 p.x gx, xStr := ct
      gamma := gb.map fun r => segOpnd 1 r gg
      beta := if rms then none else gb.map fun r => { segOpnd 2 r gg with base := r.tile.toNat + ct }
      d := segOpnd 8 p.d gd, dStr := if stat then 1 else ct
      rowt := rt, colt := ct, n := p.n.toNat, fs := fs, kind := kind, out := p.fmtOut
      explicit := p.anchor.map (·.toInt), seed := p.seed.map (·.toNat), r0 := 0 }
    let (w5, hs) := w4.peeks rows.x ((List.range rt).map fun i => i * ct)
    let most := ((List.range rt).map fun i => rows.cycles i ((hs.map (·.rows)).getD i 0)).foldl max 1
    let w6 := (((w5.allot 1 most).allotSeg gx).allotSeg gg).allotSeg gd
    if !w6.failed && fs.setId = setHeritage && !heritageFmt p.fmtOut then (w6.stop (fMismatch 8 .unexpected))
    else rows.run 0 w6

/-- The row command at work, then its record. -/
def rowBody (c : CmdRef) (p : RowP) (kind : RowKind) (gb : Option Tref) (fs : FSet) (e : Cmd) (s : State) : State :=
  let w := rowWork c p kind gb fs e s
  w.finish (kind.detail w)

def execSoftmax (c : CmdRef) (p : RowP) (s : State) : Ans :=
  .next (runCmd (.softmax c p) c true s (withSet c p.set.toNat (rowBody c p .softmax none)))

def execNorm (c : CmdRef) (p : NormP) (s : State) : Ans :=
  .next (runCmd (.norm c p) c true s
    (withSet c p.row.set.toNat (rowBody c p.row (.norm p.rms p.eps.toNat) (some p.gb))))

/-- ROWSTAT names SET_ID 0 for the exact statistics, which need no set. -/
def execRowstat (c : CmdRef) (p : RowP) (stats : BitVec 8) (s : State) : Ans :=
  .next (runCmd (.rowstat c p stats) c true s fun e s =>
    if p.set = 0 then rowBody c p (.stat stats.toNat) none (shippedSet setStandard) e s
    else withSet c p.set.toNat (rowBody c p (.stat stats.toNat) none) e s)

/-! ### Loading and unloading sets (R139 to R147, R288) -/

/-- The cores a set is loaded into: the enabled cores of the partition (R143). -/
def targetCores (s : State) (part : Nat) : List Nat := partCores s part

/-- Program slots, segments and constants in use on a core, the shipped sets included (R142). -/
def setUse (s : State) (n : Nat) : Nat × Nat × Nat × Nat :=
  (coreOf s n).sets.foldl (fun (k, a, b, c) l =>
    let (x, y, z) := l.set.load
    (k + 1, a + x, b + y, c + z)) (3, 40, 2560, 1352)

def setFits (s : State) (n : Nat) (fs : FSet) : Bool :=
  let (k, a, b, c) := setUse s n
  let (x, y, z) := fs.load
  decide (k + 1 ≤ 16 ∧ a + x ≤ 64 ∧ b + y ≤ 4096 ∧ c + z ≤ 16384)

/-- The lowest run of free program slots, or the lowest free slot (R142 counts slots; it does not place them). -/
def firstSlot (s : State) (n k : Nat) : Nat :=
  let used (i : Nat) : Bool := i < 40 || (coreOf s n).sets.any fun l => decide (l.firstSlot ≤ i ∧ i < l.firstSlot + l.set.load.1)
  let free (i : Nat) : Bool := i + k ≤ 64 && (List.range k).all fun j => !used (i + j)
  match (List.range 64).find? free with
  | some i => i
  | none => ((List.range 64).find? fun i => !used i).getD 40

def addSet (fs : FSet) (s : State) (n : Nat) : State :=
  let l : LoadedSet := ⟨fs, firstSlot s n fs.load.1, false, false, 0, false, false⟩
  setCore n { coreOf s n with sets := (coreOf s n).sets ++ [l] } s

/-- Check 2 of Table 05-9: the detail word of a failure. -/
def signatureFault (s : State) (fs : FSet) (sig : Nat) : Option Nat :=
  if fs.signer = 0 then
    if Config.ecdsaOk Config.varrynSetKey fs.digest (BitVec.ofNat 768 sig) then none else some 0x01
  else
    let k := Assoc.get (fun _ => SetKey.empty) s.mgmt.setKeys fs.signer
    if k.revoked then some 0x03
    else if !k.enrolled then some 0x02
    else if Config.ecdsaOk (BitVec.ofNat 768 k.key) fs.digest (BitVec.ofNat 768 sig) then none else some 0x01

/-- The loader's checks (Table 05-9), in order, on an image that passed check 1. -/
def loaderFault (s : State) (part : Nat) (fs : FSet) (sig : Nat) : Option Fail :=
  let cores := targetCores s part
  let same (l : LoadedSet) : Bool := l.set.setId == fs.setId && !l.leaving
  let shipped := isShipped fs.setId
  match signatureFault s fs sig with
  | some d => some (Status.signature.code, d)
  | none =>
    if cores.any (fun n => (coreOf s n).sets.any fun l => same l && l.set.digest != fs.digest) ||
        (shipped && fs.digest != Config.shippedDigest fs.setId) then
      some (fParam 0x23 0)
    else if !fs.stepsOk then some (fParam 0x26 0)
    else match fs.nonMono with
      | some (t, g) => some (Status.microprogNonmono.code, t % 256 * 256 + g % 256)
      | none =>
        if !fs.clampsOk then some (fParam 0x27 0)
        else if shipped || (cores.all fun n => setFits s n fs || (coreOf s n).sets.any same) then none
        else some (fParam 0x24 0)

/-- The image of a set, read and checked (Table 05-9). Poison in it is an uncorrectable memory error (Table 09-21, log 146). -/
def setLoadWork (c : CmdRef) (img : Bref) (bytes : BitVec 32) (e : Cmd) (s : State) : Work × FSet :=
  let n := bytes.toNat
  let (w1, g) := (Work.start c e.core s).bytesRef 10 img n rtRead
  let (w2, b) := w1.bytes (fAbort 6) 10 img.seg.toNat g img.off.toNat n
  let fs := parseSet b
  if w2.failed then (w2, fs)
  else if !imageShapeOk b n then (w2.stop (fParam 0x25 0), fs)
  else match loaderFault w2.s (ctxOf w2.s w2.ctx).part fs (leNat (slice b (n - 96) 96)) with
    | some f => (w2.stop f, fs)
    | none => (w2, fs)

/-- Every target core holds the set, valid. One whose unload still waits is loaded too (log 119). -/
def setHeld (s : State) (part : Nat) (fs : FSet) : Bool :=
  isShipped fs.setId ||
  (targetCores s part).all fun k => (coreOf s k).sets.any fun l => l.set.setId == fs.setId && l.valid && !l.leaving

/-- Give the set to the target cores that lack it; the load completes at a bell (R143). -/
def giveSet (c : CmdRef) (part : Nat) (fs : FSet) (s : State) : State :=
  let need := (targetCores s part).filter fun k => !(setCopy s k fs.setId false).isSome
  let s1 := need.foldl (addSet fs) s
  { s1 with staged := s1.staged ++ [⟨part, .setLoad fs.setId, c⟩] }

def setLoadBody (c : CmdRef) (img : Bref) (bytes : BitVec 32) (e : Cmd) (s : State) : State :=
  let (w, fs) := setLoadWork c img bytes e s
  let part := (ctxOf w.s w.ctx).part
  if w.failed || setHeld w.s part fs then w.finish 0 else giveSet c part fs w.s

def execMicroprogLoad (c : CmdRef) (img : Bref) (bytes : BitVec 32) (s : State) : Ans :=
  .next (runCmd (.microprogLoad c img bytes) c true s (setLoadBody c img bytes))

/-- Does an unload of the set wait? It refuses every later command that names the set, an unload too (R144). -/
def unloadWaits (s : State) (part id : Nat) : Bool := s.staged.any fun i => i.target == part && i.item == .setUnload id

/-- R144: refused to later commands at once; freed when nothing uses it. -/
def setUnloadBody (c : CmdRef) (set : BitVec 32) (_ : Cmd) (s : State) : State :=
  let id := set.toNat
  let part := (ctxOf s c.ctx.toNat).part
  if isShipped id then finishFail c (fParam 0x28 0) s
  else if !(s.partSets.any fun x => x.1 == part && x.2.setId == id) || unloadWaits s part id then finishFail c (fParam rSetAbsent 0) s
  else
    let mark (l : LoadedSet) : LoadedSet := if l.set.setId = id ∧ !l.leaving then { l with unloading := true } else l
    let s1 := (targetCores s part).foldl (fun s n => setCore n { coreOf s n with sets := (coreOf s n).sets.map mark } s) s
    sweep { s1 with staged := s1.staged ++ [⟨part, .setUnload id, c⟩] }

def execMicroprogUnload (c : CmdRef) (set : BitVec 32) (s : State) : Ans :=
  .next (runCmd (.microprogUnload c set) c true s (setUnloadBody c set))

/-- The Reeve has loaded or reloaded a core's sets (R143, R146, R147). -/
def execSetLoadComplete (core : BitVec 8) (s : State) : Ans :=
  let n := core.toNat
  let c := coreOf s n
  .next (setCore n { c with joining := false, reload := [], sets := c.sets.map fun l => { l with held := true } } s)

end Sys2Proof.Machine
end

