-- ==== Sys2Proof/Machine/Banks.lean ====
section
/-! DEFINITION. The banks of the boot store, which bank a component runs, and how an activation ends (R582 to R584, R588,
R594). -/

namespace Sys2Proof.Machine

open Sys2Proof

/-! ### Banks and images (R582 to R584) -/

/-- Component IDs of Table 21-1. -/
def Component.id : Component → Nat
  | .warden => 1
  | .reeve => 2
  | .hostBoot => 3
  | .stick => 4

/-- A Warden or Reeve image of the releases that the manual describes: version 2.4 or a later 2.x (R1, Table 21-1). -/
def releaseImage (x : List Byte) : List Byte := slice x 0 8 ++ [2, BitVec.ofNat 8 (max 4 (leNat (slice x 9 1)))] ++ x.drop 10

/-- A bank that no update has written: bank A holds the image of the factory, bank B none. -/
def factoryBank (k : Nat) : Bank :=
  let x := Config.factoryImage (k / 2)
  if k % 2 = 0 then ⟨if k / 2 ≤ 2 then releaseImage x else x, true, true⟩ else Bank.empty

def bankOf (s : State) (c : Component) (b : Nat) : Bank := Assoc.get factoryBank s.mgmt.banks (2 * Component.id c + b)
def setBank (c : Component) (b : Nat) (x : Bank) (s : State) : State :=
  { s with mgmt := { s.mgmt with banks := Assoc.put factoryBank s.mgmt.banks (2 * Component.id c + b) x } }

def activeOf (s : State) (c : Component) : Nat := Assoc.get (fun _ => 0) s.mgmt.activeBank (Component.id c)
def idleBank (s : State) (c : Component) : Nat := 1 - activeOf s c

/-- `n` bytes of an image at an offset, as a number. -/
def imgAt (x : List Byte) (o n : Nat) : Nat := leNat (slice x o n)

/-- The fused minimum SVN of a component. -/
def minSvn (s : State) (c : Component) : Nat := bits (getReg s TRUST_SVN) (8 * Component.id c - 1) (8 * Component.id c - 8)

/-- R583, but for the SVN: header, key and signature. -/
def imageSigned (c : Component) (x : List Byte) : Bool :=
  let n := imgAt x 16 4
  decide (n + 96 ≤ x.length) && imgAt x 0 4 == 0x55465748 && imgAt x 4 2 == Component.id c &&
  Config.sha384 (slice x 64 96) == Config.fwKeyHash &&
  Config.ecdsaOk (BitVec.ofNat 768 (imgAt x 64 96)) (Config.sha384 (x.take n)) (BitVec.ofNat 768 (imgAt x n 96))

/-- Is a bank valid now: signed, and not below the fused minimum? -/
def bankValid (s : State) (c : Component) (b : Nat) : Bool :=
  (bankOf s c b).valid && decide (minSvn s c ≤ imgAt (bankOf s c b).image 12 1)

/-- The bank that a start of a component runs, and whether it is the fallback (R584). -/
def startBank (s : State) (c : Component) : Option (Nat × Bool) :=
  if bankValid s c (activeOf s c) then some (activeOf s c, false)
  else if bankValid s c (idleBank s c) then some (idleBank s c, true)
  else none

def digestOf (s : State) (c : Component) (b : Nat) : Nat := (Config.sha384 (bankOf s c b).image).toNat

def setRun (c : Component) (b : Nat) (s : State) : State :=
  { s with mgmt := { s.mgmt with runBank := Assoc.put (fun _ => 0) s.mgmt.runBank (Component.id c) (b + 1) } }

/-- A FAILS bit of BOOT_STATUS (Table 21-9). -/
def setFail (b : Nat) (on : Bool) (s : State) : State := if on then orReg BOOT_STATUS (2 ^ (16 + b)) s else s

/-- Does Warden firmware run: standby power present, and no halt in the ROM (Table 21-4)? -/
def wardenUp (s : State) : Bool :=
  s.tray.standby && !(getF s BOOT_STATUS BOOT_STATUS_STAGE == 15 && !bitAt (getF s BOOT_STATUS BOOT_STATUS_FAILS) 1)

/-! ### Activations (R594) -/

def fwState (st c bytes : Nat) (s : State) : State :=
  setF FW_UPDATE FW_UPDATE_STATE st (setF FW_UPDATE FW_UPDATE_COMPONENT c (setF FW_UPDATE FW_UPDATE_BYTES bytes s))

/-- The new image runs: the bank record switches. -/
def switched (c : Component) (s : State) : State :=
  let b := idleBank s c
  let s1 := setBank c b { bankOf s c b with used := true } { s with mgmt := { s.mgmt with
    activating := none, activeBank := Assoc.put (fun _ => 0) s.mgmt.activeBank (Component.id c) b } }
  fwState 0 0 (getF s1 FW_UPDATE FW_UPDATE_BYTES) (setRun c b s1)

/-- The activation fails: the bank record keeps the old bank. -/
def activationFails (s : State) : State :=
  setF FW_UPDATE FW_UPDATE_STATE 4 { s with mgmt := { s.mgmt with activating := none } }

/-- A switch changes what attestation measures (R592). -/
def activated (c : Component) (s : State) : State := bumpMeas (switched c s)

/-! ### Reeves (R501, R588) -/

/-- The Reeve of one die starts on the verified image of the active bank, or of the other one (R584). -/
def loadReeve (d : Nat) (s : State) : State :=
  match startBank s .reeve with
  | none => s
  | some (b, fell) => setFail 1 fell { s with mgmt := { s.mgmt with
      reeveDigest := Assoc.put (fun _ => 0) s.mgmt.reeveDigest d (digestOf s .reeve b) } }

/-- A chip reset loads every Reeve. An activation that was still visiting dies completes on all of them at once (R588). -/
def reloadReeves (s : State) : State :=
  let s1 := match s.mgmt.activating with
    | some (.reeve, _) => if bankValid s .reeve (idleBank s .reeve) then switched .reeve s else activationFails s
    | _ => s
  let s2 := match startBank s1 .reeve with | some (b, _) => setRun .reeve b s1 | none => s1
  (List.range 4).foldl (fun s d => if isFenced s domDie d then s else loadReeve d s) s2

/-- The bay of a stick on new firmware has resynchronised. The installation stops where another bay is out of sync (R597,
Table 21-7). -/
def stickBack (b : Nat) (s : State) : State :=
  match s.mgmt.activating with
  | some (.stick, n) => if n = b + 1 ∧ getF s CELLAR_STATUS CELLAR_STATUS_STATE ≠ 0 then activationFails s else s
  | _ => s

end Sys2Proof.Machine
end

