-- ==== Sys2Proof/Machine/Coherent.lean ====
section
/-! DEFINITION. Accesses of the module itself that are coherent with the host-core caches (R235, R434): a read sees the
newest copy of a line, a write reaches every copy. -/

namespace Sys2Proof.Machine

open Sys2Proof

/-- Does a private cache hold the only valid or the newest copy in this state? -/
def ownsData : LState → Bool
  | .m | .o | .e => true
  | .s | .i => false

/-- The newest copy of a line in the host complex, if any copy is newer than or equal to memory's: a private cache's, its write-back
buffer's, one on its way in an answered snoop or to the requester of a busy line, the L3's. -/
def newestCopy (s : State) (l : Nat) : Option Nat :=
  let inCache := s.hc.caches.findSome? fun e =>
    let p := Assoc.get (fun _ => PLine.none) e.2.lines l
    if ownsData p.state then some p.data else none
  let inWb := s.hc.caches.findSome? fun e => (e.2.wb.find? fun w => w.line == l && !w.snooped && ownsData w.was).map (·.data)
  let inSnoop := s.hc.snoops.findSome? fun m => if m.line == l then m.answered.bind (·.1) else none
  let inFlight := s.hc.busy.findSome? fun b => if b.line == l then b.data else none
  (((inCache.orElse fun _ => inWb).orElse fun _ => inSnoop).orElse fun _ => inFlight).orElse fun _ =>
    (Assoc.get (fun _ => none) s.hc.l3 l).map (·.data)

/-- The 64 bytes of a line as a coherent reader sees them. -/
def lineBytes (s : State) (l : Nat) : List Byte :=
  match newestCopy s l with
  | some d => leBytes 64 d
  | none => readMem s (64 * l) 64

/-- A coherent read. -/
def cohRead (s : State) (a n : Nat) : List Byte :=
  let ls := (touchedSectors a n).flatMap (lineBytes s)
  slice ls (a % 64) n

/-- Overlay the bytes of a store on a line's data; a line written whole loses its poison (R180). -/
def patchLine (a : Nat) (bs : List Byte) (l d : Nat) : Nat :=
  leNat ((List.range 64).map fun i =>
    let x := 64 * l + i
    if a ≤ x ∧ x < a + bs.length then bs.getD (x - a) 0 else BitVec.ofNat 8 (d / 2 ^ (8 * i))) +
  (if a ≤ 64 * l ∧ 64 * l + 64 ≤ a + bs.length then 0 else d / 2 ^ 512 * 2 ^ 512)

def overlaps (a n l : Nat) : Bool := decide (64 * l < a + n) && decide (a < 64 * l + 64)

def patchCache (a : Nat) (bs : List Byte) (c : PCache) : PCache :=
  let n := bs.length
  { c with
    lines := c.lines.map fun e => if overlaps a n e.1 then (e.1, { e.2 with data := patchLine a bs e.1 e.2.data }) else e
    wb := c.wb.map fun w => if overlaps a n w.line then { w with data := patchLine a bs w.line w.data } else w }

/-- Is the agent an accelerator core cache? Writes of other agents are not snooped into it (R190). -/
def isCore (a : Nat) : Bool := decide (128 ≤ a ∧ a < 384)

/-- Data of a line that is on its way takes a coherent write too. -/
def patchFlight (a : Nat) (bs : List Byte) (s : State) : State :=
  let n := bs.length
  let snoop (m : SnoopMsg) : SnoopMsg :=
    if overlaps a n m.line then { m with answered := m.answered.map fun x => (x.1.map (patchLine a bs m.line), x.2) } else m
  let busy (b : Busy) : Busy := if overlaps a n b.line then { b with data := b.data.map (patchLine a bs b.line) } else b
  { s with hc := { s.hc with snoops := s.hc.snoops.map snoop, busy := s.hc.busy.map busy } }

/-- A coherent write: it reaches memory, the host cores' caches, the L3, and what is on its way (R190, R235). -/
def cohWrite (a : Nat) (bs : List Byte) (s : State) : State :=
  let s1 := patchFlight a bs (writeMem a bs s)
  { s1 with hc := { s1.hc with
    caches := s1.hc.caches.map fun e => if isCore e.1 then e else (e.1, patchCache a bs e.2)
    l3 := s1.hc.l3.map fun e => if overlaps a bs.length e.1 then
        (e.1, e.2.map fun x => { x with data := patchLine a bs e.1 x.data }) else e } }

/-- Stack memory or host DDR5, and not out of reach: what queue rings and tables may use (R234). -/
def ringReadable (s : State) (a n : Nat) : Bool :=
  match tgtOf s a with
  | .stack k => (refusal s false (.stack k)).isNone && !poisoned s a n
  | .ddr => (refusal s false .ddr).isNone && !poisoned s a n
  | _ => false

def ringWritable (s : State) (a : Nat) : Bool :=
  match tgtOf s a with
  | .stack k => (refusal s true (.stack k)).isNone
  | .ddr => (refusal s true .ddr).isNone
  | _ => false

/-- May a ring, descriptor table or writeback word lie here (R234)? -/
def ringPlace (s : State) (a : Nat) : Bool :=
  match tgtOf s a with
  | .stack _ => true
  | .ddr => true
  | _ => false

end Sys2Proof.Machine
end

