-- ==== Sys2Proof/Machine/RungOps.lean ====
section
/-! DEFINITION. The books of the reset ladder (R558, R559, R565, R575): rungs begun and ended, their registers and
records, the reasons for replacement. -/

namespace Sys2Proof.Machine

open Sys2Proof

/-- Set a replacement reason; a REPLACE record is written as it becomes set (R575). -/
def setReason (b : Nat) (s : State) : State :=
  if bitAt (getReg s FLT_STATUS) b then s
  else
    let was := getReg s FLT_STATUS
    let s1 := ledger 0x0409 5 0 0 (ledgerData [(0, 1, b)]) (orReg FLT_STATUS (2 ^ 31 + 2 ^ b) s)
    if was / 2 ^ 31 = 0 ∧ getF s THERM_STATUS THERM_STATUS_TRIPPED = 0 then sensorEvent 0x41 1 s1 else s1

/-- Domain code and index of a rung's target, for its record. -/
def rungDomain (s : State) (r t : Nat) : Nat :=
  match r with
  | 1 => fenceCode domPart (ctxOf s t).part
  | 2 => fenceCode domCore (t / 4)
  | 3 => fenceCode domPart t
  | _ => 0

/-- A rung begins (R558, R559): its count, its registers, its RUNG record. -/
def beginRung (r t : Nat) (counts esc : Bool) (s : State) : State :=
  let dur := (Config.duration s.tick).toNat
  let trig := (Config.rungTrigger s.tick).toNat
  let lost := (Config.lostStores s.tick).toNat
  let run : RungRun := ⟨r, t, clockNow s, counts⟩
  let s1 := { s with faults := { s.faults with
    rungs := s.faults.rungs ++ [run]
    active := (s.faults.active.filter fun a => !(a.1 == r && a.2.1 == t)) ++ [(r, t, esc)] } }
  let lostBit := getF s1 FLT_RESET_STATUS FLT_RESET_STATUS_LOST
  let word := bellNow s % 2 ^ 40 * 2 ^ 24 + r * 2 ^ 20 + bnat esc * 2 ^ 19 + lostBit * 2 ^ 18 + 2 ^ 17 + t % 2 ^ 17
  let s2 := setReg FLT_RESET_STATUS word (incF (RUNG_COUNT (r - 1)) RUNG_COUNT_COUNT 1 s1)
  ledgerF 0x0402 4 (2 * bnat esc) (rungDomain s r t) 0
    (ledgerData [(0, 1, r), (1, 1, trig), (2, 4, t), (6, 4, dur), (10, 4, lost)]) (advance s2)

/-- A rung ends, or is abandoned for a higher one. -/
def endRung (r t : Nat) (s : State) : State :=
  let act := s.faults.active.filter fun a => !(a.1 == r && a.2.1 == t)
  setF FLT_RESET_STATUS FLT_RESET_STATUS_BUSY (bnat (!act.isEmpty)) { s with faults := { s.faults with active := act } }

/-- A rung abandoned for a higher one is not counted (Table 20-14). -/
def abandonRung (r t : Nat) (s : State) : State :=
  endRung r t { s with faults := { s.faults with
    rungs := s.faults.rungs.map fun x => if x.rung = r ∧ x.target = t then { x with counts := false } else x } }

def underRung (s : State) (r t : Nat) : Bool := s.faults.active.any fun a => a.1 == r && a.2.1 == t

/-- Is a rung due for a target that has had its count of them within the window (R559)? -/
def rungSpent (s : State) (r t : Nat) : Bool :=
  let n := getF s (RUNG_CFG (r - 1)) RUNG_CFG_COUNT
  let w := max 1 (getF s (RUNG_CFG (r - 1)) RUNG_CFG_WINDOW_S) * 1000000000
  let had := (s.faults.rungs.filter fun x => x.rung == r && x.target == t && x.counts && decide (clockNow s < x.time + w)).length
  n != 255 && decide (n ≤ had)

/-- Has a context a step in flight on an engine? -/
def ctxFlying (s : State) (x : Nat) : Bool :=
  s.cores.any fun e => e.2.engines.any fun g => match g.flight with | some f => f.ctx == x | none => false

/-- The context aborts that no step in flight holds up any more complete (R560): the context is ACTIVE again, unless it is
being destroyed. -/
def settleAborts (s : State) : State :=
  s.faults.active.foldl (fun s a =>
    if a.1 = 1 ∧ !ctxFlying s a.2.1 then
      let x := a.2.1
      let s1 := endRung 1 x s
      if (ctxOf s1 x).state == .aborting && (progsOf s1 x).all fun p => p.2.unloading.isNone then
        setCtx x { ctxOf s1 x with state := .active } s1 else s1
    else s) s

/-- Remove what a context's spilled chains hold (R560). -/
def dropSpills (p : Nat → Bool) (s : State) : State :=
  s.cores.foldl (fun s e => setCore e.1 { coreOf s e.1 with spilled := (coreOf s e.1).spilled.filter fun x => !p x.ctx } s) s

end Sys2Proof.Machine
end

