-- ==== Sys2Proof/Machine/Contexts.lean ====
section
/-! DEFINITION. The administration commands: contexts (R295, R296, R333 to R338), segment descriptors and what they claim
(R297, R339 to R342, R349, R356), allotments (R298) and partition attributes (R299, R350 to R354). -/

namespace Sys2Proof.Machine

open Sys2Proof

def rRange : Nat := 0x02
def rState : Nat := 0x10

/-! ### Contexts -/

def maxCtx : Nat := 98303

def inStacks (a n : Nat) : Bool := decide (a + n ≤ stackTop)
def inDdr (a n : Nat) : Bool := decide (ddrBase ≤ a ∧ a + n ≤ ddrTop)

/-- The checks of CTX_CREATE (R295, R336). -/
def createFault (s : State) (x : Nat) (segTable : Nat) : Option Fail :=
  if x = 0 ∨ maxCtx < x then some (fParam 0x43 0)
  else if (ctxOf s x).state ≠ .free then some (fParam rState 0)
  else if segTable % 512 ≠ 0 ∨ !(inStacks segTable 512 || inDdr segTable 512) then some (fParam rRange 24)
  else if s.ctxs.any fun e => e.1 != x && e.2.state != .free && e.2.segTable == segTable then some (fParam rState 0)
  else none

def newCtx (part segTable : Nat) (carry : Bool) : Ctx :=
  let c : Ctx := { Ctx.free with state := .active, part := part, segTable := segTable, carry := carry }
  { c with next := pageHead c }

def createBody (c : CmdRef) (part : Nat) (carry : Bool) (segTable : Nat) (s : State) : State :=
  let x := c.ctx.toNat
  match createFault s x segTable with
  | some f => finishFail c f s
  | none => match refusal s true (tgtOf s segTable) with
    | some f => finishFail c f s
    | none => finish c .ok 0 (setCtx x (newCtx part segTable carry) (writeMem segTable (List.replicate 512 0) s))

def execCtxCreate (c : CmdRef) (part : BitVec 8) (carry : Bool) (segTable : BitVec 64) (s : State) : Ans :=
  .next (runCmd (.ctxCreate c part carry segTable) c false s fun _ s =>
    createBody c part.toNat carry segTable.toNat s)

/-- Remove the descriptors whose keys lie in a range from every core cache and every pool; walks in flight for them
turn stale (R349). -/
def dropDescs (lo hi : Nat) (s : State) : State :=
  let out (k : Nat) : Bool := !(decide (lo ≤ k) && decide (k < hi))
  let s1 := s.cores.foldl (fun s e =>
    setCore e.1 { coreOf s e.1 with segCache := (coreOf s e.1).segCache.filter fun d => out d.key } s) s
  { s1 with
    dpool := (s1.dpool.map fun e => (e.1, e.2.filter fun d => out d.key)).filter fun e => !e.2.isEmpty
    walks := s1.walks.map fun w => if out w.key then w else { w with stale := true } }

/-- The keys of a context's descriptors. -/
def ctxKeys (part x : Nat) : Nat × Nat := (descKey part x 0, descKey part x 16)

/-- Remove a context from every dispatcher. -/
def evictCtx (x : Nat) (s : State) : State :=
  s.cores.foldl (fun s e => setCore e.1 { coreOf s e.1 with resident := setErase (coreOf s e.1).resident x } s) s

/-- Release the pins a context holds on epoch slots by EPOCH_PIN. -/
def unpinAll (x : Nat) (s : State) : State :=
  s.progs.foldl (fun s e => match progOf s e.1 with
    | none => s
    | some p => setProg e.1 (some { p with s0 := p.s0.setPins x 0, s1 := p.s1.setPins x 0, s2 := p.s2.setPins x 0 }) s) s

/-- Mark a program as unloading for a command (R209). -/
def startUnload (h : Nat) (c : CmdRef) (s : State) : State :=
  finishUnload h (modProg h (fun p => { p with runnable := false, unloading := some c }) s)

/-- What CTX_DESTROY does at once (R296): every other command of the context ends with ST_ABORTED, cause 1; its pins, its
cached descriptors and walks, its place in the dispatchers and its spilled chains go. -/
def tearDown (c : CmdRef) (full : Bool) (s : State) : State :=
  let x := c.ctx.toNat
  let cx := ctxOf s x
  let s1 := setCtx x { cx with state := if full then .destroying else .aborting } (beginRung 1 x false false s)
  let s2 := abortWhere (fun e => e.ref.ctx.toNat == x && !sameCmd e.ref c) (fAbort 1) s1
  let (lo, hi) := ctxKeys cx.part x
  let s3 := dropDescs lo hi (unpinAll x s2)
  dropSpills (· == x) (evictCtx x { s3 with walks := s3.walks.filter fun w => !(decide (lo ≤ w.key) && decide (w.key < hi)) })

/-- CTX_DESTROY (R296): `full` frees the ID, otherwise the context remains (ABORT_ONLY). It completes once the context's
programs are unloaded (R338). -/
def destroyBody (c : CmdRef) (full : Bool) (s : State) : State :=
  let x := c.ctx.toNat
  if (ctxOf s x).state == .free then finishFail c (fParam rState 0) s
  else
    let s3 := tearDown c full s
    let mine := progsOf s3 x
    settleAborts (if mine.isEmpty then finish c .ok 0 (endTeardown x s3)
      else mine.foldl (fun s e => startUnload e.1 c s) s3)

def execCtxDestroy (c : CmdRef) (s : State) : Ans :=
  .next (runCmd (.ctxDestroy c) c false s fun _ s => destroyBody c true s)

def execCtxDestroyAbortOnly (c : CmdRef) (s : State) : Ans :=
  .next (runCmd (.ctxDestroyAbortOnly c) c false s fun _ s => destroyBody c false s)

/-! ### Larder slots and claims (R202, R342) -/

def slotsPerGranule : Nat := 504

/-- Larder slots a program uses on a core: pins, rings, staging. -/
def Program.slotsOn (p : Program) (n : Nat) : List Nat :=
  (p.pins.filterMap fun x => if x.core = n then some x.slot else none) ++
  ((p.streams ++ p.locals).flatMap fun t => if (p.step? t.consumer).any (fun x => x.core == n) then t.ring else []) ++
  (p.staging.flatMap fun t => if t.consumer = n then t.ring else [])

def slotsUsed (s : State) (n : Nat) : List Nat :=
  s.progs.flatMap fun e => match e.2 with | none => [] | some p => p.slotsOn n

/-- The granules of a core that a LARDER segment covers. -/
def granulesOf (g : Seg) : List (Nat × Nat) :=
  let n := (g.base - 0x040000000000) / 0x100000000
  (List.range (g.len / mib2)).map fun i => (n, g.base % 0x100000000 / mib2 + i)

/-- The valid segments on record, with their partitions. -/
def recordedSegs (s : State) : List (Nat × Seg) :=
  s.segs.filterMap fun e =>
    let g := Seg.ofNat (ctxOf s (e.1 / 16)).part e.2
    if g.valid then some (e.1, g) else none

/-- The partitions that claim a granule. -/
def claimants (s : State) (n k : Nat) : List Nat :=
  (recordedSegs s).filterMap fun (_, g) => if g.cls = clsLarder ∧ (granulesOf g).contains (n, k) then some g.part else none

/-- Does a partition encrypt a class (R356)? -/
def encrypts (s : State) (part cls : Nat) : Bool :=
  if cls = clsNear ∨ cls = clsWoven then (partOf s part).keyStack else if cls = clsDdr then (partOf s part).keyDdr else false

/-- The byte ranges, stack addresses or DDR5 addresses, that a segment's encryption would own, and those another partition
owns already. -/
def encClash (s : State) (g : Seg) : Bool :=
  let covers (c : Nat) : Bool := c == clsNear || c == clsWoven || c == clsDdr
  covers g.cls && (recordedSegs s).any fun (_, o) =>
    o.part != g.part && covers o.cls && encrypts s o.part o.cls && decide (o.base < g.base + g.len) && decide (g.base < o.base + o.len)

/-! ### SEG_SET -/

/-- The first nonzero byte of a number of `n` bytes. -/
def firstByte (d : Nat) : Nat → Nat → Option Nat
  | 0, _ => none
  | n + 1, o => if df d o 1 ≠ 0 then some o else firstByte d n (o + 1)

/-- RESERVED of R341: the byte of DESC at fault. -/
def segDescReserved (d : Nat) : Option Nat :=
  if !bitAt (df d 14 1) 0 then firstByte d 32 0
  else
    let cls := df d 12 1
    let remote := cls == clsRemote
    if df d 0 8 % mib2 ≠ 0 then some 0
    else if !remote && df d 6 2 != 0 then some 6
    else if 16 ≤ df d 13 1 then some 13
    else if 8 ≤ df d 14 1 then some 14
    else if !remote ∧ df d 15 1 ≠ 0 then some 15
    else if !remote && df d 16 4 != 0 then some 16
    else if !(bitAt (df d 14 1) 1 && !bitAt (df d 14 1) 2) && df d 20 2 != 0 then some 20
    else if cls != clsCellar && df d 22 1 != 0 then some 22
    else firstByte d 9 23

/-- Does the range of a descriptor lie where its class says (Table 11-3)? -/
def segRangeOk (s : State) (g : Seg) : Bool :=
  let top := g.base + g.len
  let k := nearK s
  match g.cls with
  | 1 => decide (0x040000000000 ≤ g.base ∧ g.base < 0x050000000000) && decide (g.base % 0x100000000 + g.len ≤ larderBytes) &&
      bitAt (partOf s g.part).cores ((g.base - 0x040000000000) / 0x100000000)
  | 2 => k != 0 && decide (top ≤ 96 * k * gib) && g.base / (24 * k * gib) == (top - 1) / (24 * k * gib)
  | 3 => decide (96 * k * gib ≤ g.base ∧ top ≤ stackTop)
  | 4 => decide (ddrBase ≤ g.base ∧ top ≤ ddrTop)
  | 5 =>
    let lo := 0x060000000000 + g.volume * 0x100000000
    decide (lo ≤ g.base ∧ top ≤ lo + 0x100000000) && bitAt (partOf s g.part).volumes g.volume
  | 6 =>
    getF s ID_DEVICE ID_DEVICE_VARIANT == 1 && decide (0x070000000000 ≤ g.base ∧ top ≤ 0x080000000000) &&
      (g.base - 0x070000000000) / 0x008000000000 == (top - 1 - 0x070000000000) / 0x008000000000
  | 7 => g.module != moduleId s
  | _ => false

/-- RANGE of R341: the byte of DESC at fault. -/
def segDescRange (s : State) (g : Seg) : Option Nat :=
  if g.cls = 0 ∨ 7 < g.cls then some 12
  else if g.len = 0 ∨ 786432 * mib2 < g.len then some 8
  else if g.cls = clsRemote ∧ 15 < g.rseg then some 15
  else if segRangeOk s g then none
  else if g.cls = clsRemote then some 6 else some 0

/-- STATE of R341: a granule claimed by another partition or holding placement slots, or storage another partition owns. -/
def segDescState (s : State) (g : Seg) : Bool :=
  (g.cls == clsLarder && (granulesOf g).any fun (n, k) =>
    (claimants s n k).any (· != g.part) || (slotsUsed s n).any fun x => x / slotsPerGranule == k) ||
  encClash s g

/-- The checks of SEG_SET (R341). -/
def segDescFault (s : State) (part d : Nat) : Option Fail :=
  match segDescReserved d with
  | some o => some (fParam 0x01 (24 + o))
  | none =>
    let g := Seg.ofNat part d
    if !g.valid then none
    else match segDescRange s g with
      | some o => some (fParam rRange (24 + o))
      | none => if segDescState s g then some (fParam rState 24) else none

/-- Complete a change of descriptors once no run holds one of the old ones (R297). -/
def awaitDescs (c : CmdRef) (lo hi : Nat) (s : State) : State :=
  sweep { s with staged := s.staged ++ [⟨0, .descWait lo hi, c⟩] }

def segSetBody (c : CmdRef) (seg d : Nat) (s : State) : State :=
  let x := c.ctx.toNat
  let cx := ctxOf s x
  let a := cx.segTable + 32 * seg
  match segDescFault s cx.part d with
  | some f => finishFail c f s
  | none => match refusal s true (tgtOf s a) with
    | some f => finishFail c f s
    | none =>
      let s1 := writeMem a (leBytes 32 d) { s with segs := Assoc.put (fun _ => 0) s.segs (x * 16 + seg) d }
      let k := descKey cx.part x seg
      awaitDescs c k (k + 1) (dropDescs k (k + 1) s1)

def execSegSet (c : CmdRef) (seg : BitVec 8) (desc : BitVec 256) (s : State) : Ans :=
  .next (runCmd (.segSet c seg desc) c false s fun _ s => segSetBody c seg.toNat desc.toNat s)

/-- SEG_INVALIDATE (R297): the context's tag, or every tag of a partition. -/
def execSegInvalidate (c : CmdRef) (wholePart : Option (BitVec 8)) (s : State) : Ans :=
  .next (runCmd (.segInvalidate c wholePart) c false s fun _ s =>
    let (lo, hi) := match wholePart with
      | some p => (descKey p.toNat 0 0, descKey (p.toNat + 1) 0 0)
      | none => ctxKeys (ctxOf s c.ctx.toNat).part c.ctx.toNat
    awaitDescs c lo hi (dropDescs lo hi s))

/-! ### Allotments -/

def stage (target : Nat) (i : Staged) (c : CmdRef) (s : State) : State :=
  { s with staged := s.staged ++ [⟨target, i, c⟩] }

/-- ALLOT_SET writes the next page at once and takes effect at the bell (R298, R319). -/
def allotBody (c : CmdRef) (p : AllotP) (s : State) : State :=
  let x := c.ctx.toNat
  let cx := ctxOf s x
  let head := p.engine.toNat + p.stack.toNat * 2 ^ 32 + p.fabric.toNat * 2 ^ 64 + p.host.toNat * 2 ^ 96 +
    bnat p.carry * 2 ^ 128 + cx.part * 2 ^ 136
  stage x (.allot p) c (setCtx x { cx with next := setBits cx.next 255 0 head } s)

def execAllotSet (c : CmdRef) (p : AllotP) (s : State) : Ans :=
  .next (runCmd (.allotSet c p) c false s fun _ s => allotBody c p s)

/-! ### Partition attributes -/

/-- The core map of a partition as the commands fetched so far leave it at the bell (Table 09-19). -/
def coresAtBell (s : State) (p : Nat) : Nat :=
  s.staged.foldl (fun m i => match i.item with
    | .cores c => if i.target = p then c else m
    | _ => m) (partOf s p).cores

/-- CORES: no core of another partition (R299), no removed core with claimed granules (R352). -/
def coresFault (s : State) (p map : Nat) : Bool :=
  (List.range 256).any fun n =>
    (bitAt map n && (List.range 16).any fun q => q != p && bitAt (coresAtBell s q) n) ||
    (!bitAt map n && bitAt (partOf s p).cores n && (List.range 3).any fun k => (claimants s n k).contains p)

def execPartSetCores (c : CmdRef) (part : BitVec 8) (map : BitVec 256) (s : State) : Ans :=
  .next (runCmd (.partSetCores c part map) c false s fun _ s =>
    if coresFault s part.toNat map.toNat then finishFail c (fParam rState 0) s
    else stage part.toNat (.cores map.toNat) c s)

def execPartSetCaps (c : CmdRef) (part : BitVec 8) (engine stack fabric host : BitVec 32) (priority : BitVec 8) (s : State) :
    Ans :=
  .next (runCmd (.partSetCaps c part engine stack fabric host priority) c false s fun _ s =>
    stage part.toNat (.caps engine.toNat stack.toNat fabric.toNat host.toNat priority.toNat) c s)

/-- KEY takes effect at once, in a partition without contexts (R299); a module coded N refuses it (R661). -/
def execPartSetKey (c : CmdRef) (part : BitVec 8) (stack ddr : Bool) (slot : BitVec 8) (s : State) : Ans :=
  .next (runCmd (.partSetKey c part stack ddr slot) c false s fun _ s =>
    if !s.mgmt.encFitted || !(ctxsOf s part.toNat).isEmpty then finishFail c (fParam rState 0) s
    else finish c .ok 0 (setPart part.toNat { partOf s part.toNat with keyStack := stack, keyDdr := ddr, keySlot := slot.toNat } s))

def execPartSetMode (c : CmdRef) (part : BitVec 8) (strict : Bool) (s : State) : Ans :=
  .next (runCmd (.partSetMode c part strict) c false s fun _ s => stage part.toNat (.mode strict) c s)

/-- The pending values show in the registers of the partition's cores at once (R9); they take effect at the bell (R225). -/
def pendTimeouts (p t t2 : Nat) (s : State) : State :=
  ((List.range 256).filter fun n => bitAt (partOf s p).cores n).foldl
    (fun s n => setReg (TIER_TMO2 n) t2 (setReg (TIER_TMO n) t s)) s

def execPartSetTimeouts (c : CmdRef) (part : BitVec 8) (tmo tmo2 : BitVec 64) (s : State) : Ans :=
  .next (runCmd (.partSetTimeouts c part tmo tmo2) c false s fun _ s =>
    stage part.toNat (.timeouts tmo.toNat tmo2.toNat) c (pendTimeouts part.toNat tmo.toNat tmo2.toNat s))

def execPartSetVectors (c : CmdRef) (part : BitVec 8) (base count : BitVec 16) (kind : BitVec 8) (s : State) : Ans :=
  .next (runCmd (.partSetVectors c part base count kind) c false s fun _ s =>
    stage part.toNat (.vectors base.toNat count.toNat kind.toNat) c s)

def execPartSetVolumes (c : CmdRef) (part : BitVec 8) (map : BitVec 256) (s : State) : Ans :=
  .next (runCmd (.partSetVolumes c part map) c false s fun _ s => stage part.toNat (.volumes map.toNat) c s)

/-- The tally grants of a partition as the TALLIES commands fetched so far leave them at the bell (R665). -/
def grantsAtBell (s : State) (p : Nat) : List Grant :=
  s.staged.foldl (fun l i =>
    if i.target ≠ p then l
    else match i.item with
      | .grant g => l ++ [g]
      | .revoke d f => l.filter fun g => !(g.die == d && g.first == f)
      | _ => l) (partOf s p).grants

/-- Does the range hold a tally that placement has reserved, or one of another partition's grants (R354)? -/
def grantClash (s : State) (p : Nat) (g : Grant) : Bool :=
  (s.tallies.any fun e => e.1 / 65536 == g.die && decide (g.first ≤ e.1 % 65536) && decide (e.1 % 65536 < g.first + g.count) &&
    taPlaced e.2.attr.toNat) ||
  (List.range 16).any fun q => q != p && (grantsAtBell s q).any fun o =>
    o.die == g.die && decide (o.first < g.first + g.count) && decide (g.first < o.first + o.count)

/-- The checks of a grant (R665): its range, an overlap, a ninth grant on the die. -/
def grantFault (s : State) (p : Nat) (g : Grant) : Option Fail :=
  if 4 < g.die ∨ tallyCount g.die < g.first + g.count then some (fParam rRange 24)
  else if g.count = 0 then some (fParam rRange 28)
  else if grantClash s p g ∨ 8 ≤ ((grantsAtBell s p).filter fun o => o.die == g.die).length then some (fParam rState 0)
  else none

/-- The checks of a revoke (R665). -/
def revokeFault (s : State) (p die first count : Nat) : Option Fail :=
  if 4 < die then some (fParam rRange 24)
  else if count ≠ 0 then some (fParam 0x01 28)
  else if !((grantsAtBell s p).any fun g => g.die == die && g.first == first) then some (fParam rState 0)
  else none

/-- A TALLIES command is checked at fetch and completes at the bell, in fetch order (R354, R665). -/
def stageTallies (p : Nat) (i : Staged) (f : Option Fail) (c : CmdRef) (s : State) : State :=
  stage p (match f with | some f => .refused f.1 f.2 | none => i) c s

def execPartSetTalliesGrant (c : CmdRef) (part : BitVec 8) (die : BitVec 8) (first count : BitVec 16) (s : State) : Ans :=
  .next (runCmd (.partSetTalliesGrant c part die first count) c false s fun _ s =>
    let g : Grant := ⟨die.toNat, first.toNat, count.toNat⟩
    stageTallies part.toNat (.grant g) (grantFault s part.toNat g) c s)

def execPartSetTalliesRevoke (c : CmdRef) (part : BitVec 8) (die : BitVec 8) (first count : BitVec 16) (s : State) : Ans :=
  .next (runCmd (.partSetTalliesRevoke c part die first count) c false s fun _ s =>
    stageTallies part.toNat (.revoke die.toNat first.toNat)
      (revokeFault s part.toNat die.toNat first.toNat count.toNat) c s)

end Sys2Proof.Machine
end

