-- ==== Sys2Proof/Machine/Coherence.lean ====
section
/-! DEFINITION. The coherence domain (R444 to R463): homes with their directory, L3 and magpie; the requests, snoops,
responses and write-backs of Table 15-5; the core cache (R184 to R190); base-die atomics (R372, R373); keep-ranges. -/

namespace Sys2Proof.Machine

open Sys2Proof

/-! ### Homes, agents and classes -/

/-- Slice × 4096 + set of a line (R444). -/
def homeIx (l : Nat) : Nat :=
  let a := 64 * l
  let h := bits a 22 6 ^^^ bits a 39 23 ^^^ bits a 47 40
  bits h 4 0 * 4096 + bits h 16 5

/-- Is there such an agent (Table 15-4)? -/
def agentOk (a : Nat) : Bool := decide (a < 96) || decide (128 ≤ a ∧ a < 388)

/-- Is an agent there: a host core or a core cache; the device of a root port whose link is up (R517); a guest that is READY, whose
record says COHERENT and that may cache (R498)? -/
def agentLive (s : State) (a : Nat) : Bool :=
  agentOk a && (decide (a < 384) ||
    (if a < 386 then getF s (EXT_PORT_CTL (a - 384)) EXT_PORT_CTL_MODE == 4 && getF s (EXT_PORT_STATUS (a - 384)) EXT_PORT_STATUS_STATE == 3
     else getF s (GUEST_STATUS (a - 386)) GUEST_STATUS_STATE == 4 && getF s (GUEST_CTL (a - 386)) GUEST_CTL_COHERENT == 1 &&
       (guestOf s (a == 387)).cap.any fun c => bitAt c.roles.toNat 2))

/-- The requester class of an agent (Table 15-3). -/
def classOf (a : Nat) : Nat :=
  if a < 96 then a / 8 else if a < 384 then 12 else if a = 384 then 13 else if a = 385 then 14 else 15

/-- Group of a host core, or three times the die of a core cache. -/
def spot (a : Nat) : Nat := if a < 96 then a / 8 else (a - 128) / 64 * 3

def ringDist (g h : Nat) : Nat := let d := max g h - min g h; min d (12 - d)

/-- Hop distance from a requester to a sharer (Table 15-6). -/
def hopDist (r x : Nat) : Nat :=
  if r ≥ 384 ∨ x ≥ 384 then 0
  else if r < 96 ∧ x < 96 then ringDist (spot r) (spot x)
  else if r ≥ 128 ∧ x ≥ 128 then (if spot r = spot x then 1 else 3)
  else ringDist (spot r) (spot x) + 4

/-- The nearest of a list of sharers; a tie goes to the lowest agent ID. -/
def nearest (r : Nat) : List Nat → Option Nat
  | [] => none
  | x :: rest =>
    match nearest r rest with
    | none => some x
    | some y => if hopDist r y < hopDist r x ∨ (hopDist r y = hopDist r x ∧ y < x) then some y else some x

/-- May a line be cached: stacks and host DDR5 only (R448)? -/
def inDomain (l : Nat) : Bool := decide (64 * l < stackTop) || decide (ddrBase ≤ 64 * l ∧ 64 * l < ddrTop)

/-! ### Private caches and memory -/

def plineOf (s : State) (a l : Nat) : PLine := Assoc.get (fun _ => PLine.none) (pcacheOf s a).lines l

def setPline (a l : Nat) (v : PLine) (s : State) : State :=
  let c := pcacheOf s a
  setPcache a { c with lines := Assoc.put (fun _ => PLine.none) c.lines l v } s

def dropLine (a l : Nat) (s : State) : State := setPline a l .none s

/-- A line at its point of coherence. -/
def memLine (s : State) (l : Nat) : Nat :=
  leNat (readMem s (64 * l) 64) + (if poisoned s (64 * l) 64 then 2 ^ 512 else 0)

/-- Write a line to its point of coherence. -/
def putLine (l d : Nat) (s : State) : State :=
  if 2 ^ 512 ≤ d then poisonSector l s else writeMem (64 * l) (leBytes 64 d) s

def LState.dirty : LState → Bool
  | .m | .o => true
  | _ => false

/-! ### The L3 (R445, R446) -/

def l3Of (s : State) (l : Nat) : Option L3Line := Assoc.get (fun _ => none) s.hc.l3 l

def setL3 (l : Nat) (v : Option L3Line) (s : State) : State :=
  { s with hc := { s.hc with l3 := Assoc.put (fun _ => none) s.hc.l3 l v } }

/-- The L3 lines of a set, with their line numbers. -/
def l3Set (s : State) (ix : Nat) : List (Nat × L3Line) :=
  s.hc.l3.filterMap fun e => match e.2 with | none => none | some v => if homeIx e.1 = ix then some (e.1, v) else none

def oldest : List (Nat × L3Line) → Option (Nat × L3Line)
  | [] => none
  | x :: r => match oldest r with | none => some x | some y => if y.2.stamp < x.2.stamp then some y else some x

/-- Let a line go from the L3; dirty data reaches its point of coherence. -/
def l3Evict (l : Nat) (s : State) : State :=
  match l3Of s l with
  | none => s
  | some v => setL3 l none (if v.dirty then putLine l v.data s else s)

/-- Allocate a line for a class: an invalid way the mask allows first, else the least recently used of them. A mask of 0
allocates nothing, and dirty data goes to the point of coherence. -/
def l3Alloc (cls l d : Nat) (dirty : Bool) (s : State) : State :=
  match l3Of s l with
  | some v => advance (setL3 l (some { v with data := d, dirty := v.dirty || dirty, stamp := s.tick }) s)
  | none =>
    let ways := (List.range 24).filter fun w => bitAt (getF s (HC_L3_WAYMASK cls) HC_L3_WAYMASK_MASK) w
    let here := l3Set s (homeIx l)
    match ways.find? fun w => !here.any fun e => e.2.way == w with
    | some w => advance (setL3 l (some ⟨w, d, dirty, s.tick⟩) s)
    | none =>
      match oldest (here.filter fun e => ways.contains e.2.way) with
      | some v => advance (setL3 l (some ⟨v.2.way, d, dirty, s.tick⟩) (l3Evict v.1 s))
      | none => if dirty then putLine l d s else s

/-! ### The directory (R449, R453) -/

/-- Every agent a directory entry may stand for. -/
def DirEntry.all (d : DirEntry) : List Nat :=
  let own := match d.state with | .m | .o | .e => [d.owner] | _ => []
  let shr := match d.coarse with
    | Option.none => d.sharers
    | some v => (List.range 49).flatMap fun g => if bitAt v g then (List.range 8).map (8 * g + ·) else []
  own ++ (shr.filter fun a => agentOk a && !own.contains a)

/-- Add a sharer: beyond four, the coarse vector. -/
def DirEntry.share (d : DirEntry) (a : Nat) : DirEntry :=
  let orBit (v g : Nat) : Nat := if bitAt v g then v else v + 2 ^ g
  match d.coarse with
  | some v => { d with coarse := some (orBit v (a / 8)) }
  | Option.none =>
    let l := setInsert d.sharers a
    if l.length ≤ 4 then { d with sharers := l }
    else { d with sharers := [], coarse := some (l.foldl (fun v x => orBit v (x / 8)) 0) }

/-- Remove an agent. A coarse vector keeps standing for its group. -/
def DirEntry.drop (d : DirEntry) (a : Nat) : DirEntry :=
  let d1 := { d with sharers := setErase d.sharers a }
  match d.state with
  | .m | .e => if d.owner = a then { d1 with state := .i } else d1
  | .o => if d.owner = a then { d1 with state := if d1.sharers.isEmpty && d1.coarse.isNone then .i else .s } else d1
  | .s => { d1 with state := if d1.sharers.isEmpty && d1.coarse.isNone then .i else .s }
  | .i => d1

/-- Does the directory list an agent as holding the line? -/
def DirEntry.lists (d : DirEntry) (a : Nat) : Bool := d.present && d.all.contains a

def busyOf (s : State) (l : Nat) : Option Busy := s.hc.busy.find? (·.line == l)

def setBusy (b : Busy) (s : State) : State :=
  { s with hc := { s.hc with busy := (s.hc.busy.filter fun x => x.line != b.line) ++ [b] } }

def freeLine (l : Nat) (s : State) : State :=
  { s with hc := { s.hc with busy := s.hc.busy.filter (·.line != l), snoops := s.hc.snoops.filter (·.line != l) } }

/-- Take a holder's line away: its cache's copy, or the write-back buffer's. -/
def takeBack (l a : Nat) (s : State) : State :=
  let p := plineOf s a l
  let dirtyData := if p.state.dirty then some p.data else
    ((pcacheOf s a).wb.find? fun w => w.line == l && !w.snooped && w.was.dirty).map (·.data)
  let c := pcacheOf s a
  let s1 := setPcache a { c with
    lines := Assoc.put (fun _ => PLine.none) c.lines l .none
    wb := c.wb.map fun w => if w.line = l then { w with snooped := true } else w } s
  match dirtyData with
  | some d => l3Alloc (classOf a) l d true s1
  | none => s1

def olderEntry : List (Nat × DirEntry) → Option (Nat × DirEntry)
  | [] => none
  | x :: r => match olderEntry r with | none => some x | some y => if y.2.stamp < x.2.stamp then some y else some x

def dirSet (s : State) (ix : Nat) : List (Nat × DirEntry) := s.hc.dir.filter fun e => e.2.present && homeIx e.1 == ix

/-- Make an entry for a line, evicting the least recently used entry of a full set that is not busy. None: every entry
is busy, and the request waits. -/
def dirEnsure (l : Nat) (s : State) : Option State :=
  if (dirOf s l).present then some (advance (setDir l { dirOf s l with stamp := s.tick } s))
  else
    let here := dirSet s (homeIx l)
    let fresh (s : State) : State := advance (setDir l { DirEntry.none with present := true, stamp := s.tick } s)
    if here.length < 48 then some (fresh s)
    else match olderEntry (here.filter fun e => (busyOf s e.1).isNone) with
      | none => none
      | some (v, d) =>
        let s1 := d.all.foldl (fun s a => takeBack v a s) s
        some (fresh (incF DIR_BACKINV DIR_BACKINV_BACKINV 1 (setDir v .none s1)))

/-! ### The magpie (R456, R458) -/

def magpieOf (s : State) (l : Nat) : Nat := Assoc.get (fun _ => 0) s.hc.magpie (homeIx l)

def magpieUpdate (agent l : Nat) (s : State) : State :=
  let d := dirOf s l
  let w := max 1 (getF s MAGPIE_CTL MAGPIE_CTL_WINDOW) * 125
  let now := clockNow s
  let n := magpieOf s l
  let n1 := if d.present && d.lastTime != 0 && d.lastAgent != agent && decide (now - d.lastTime < w) then min 3 (n + 1) else n - 1
  let s1 := { s with hc := { s.hc with magpie := Assoc.put (fun _ => 0) s.hc.magpie (homeIx l) n1 } }
  advance (if d.present then setDir l { d with lastAgent := agent, lastTime := max 1 now } s1 else s1)

def atomicNear (s : State) (l : Nat) : Bool :=
  match getF s MAGPIE_CTL MAGPIE_CTL_MODE with
  | 1 => true
  | 2 => false
  | _ => decide (getF s MAGPIE_CTL MAGPIE_CTL_THRESH ≤ magpieOf s l)

/-! ### Atomic operations (R372, R455) -/

def atSize (r : AtomicReq) : Nat := if r.wide then 8 else 4

/-- A word as a signed number of `w` bits. -/
def signedOf (w v : Nat) : Int := if 2 ^ (w - 1) ≤ v then (v : Int) - 2 ^ w else v

/-- The new value, and whether a CAS swaps (Table 12-2). -/
def atApply (r : AtomicReq) (old : Nat) : Nat × Bool :=
  let w := 8 * atSize r
  let v := r.value.toNat % 2 ^ w
  match r.op with
  | .add => ((old + v) % 2 ^ w, true)
  | .and => (old &&& v, true)
  | .or => (old ||| v, true)
  | .xor => (old ^^^ v, true)
  | .smin => (if signedOf w v < signedOf w old then v else old, true)
  | .smax => (if signedOf w old < signedOf w v then v else old, true)
  | .umin => (min old v, true)
  | .umax => (max old v, true)
  | .swap => (v, true)
  | .cas e => if old = e.toNat % 2 ^ w then (v, true) else (old, false)

def atomicAligned (addr : Nat) (r : AtomicReq) : Bool := addr % atSize r == 0

/-- Apply an atomic to a line's data: new data, old word, swapped. -/
def lineAtomic (addr : Nat) (r : AtomicReq) (d : Nat) : Nat × Nat × Bool :=
  let o := addr % 64 * 8
  let w := 8 * atSize r
  let old := bits d (o + w - 1) o
  let (n, sw) := atApply r old
  (setBits d (o + w - 1) o n, old, sw)

def result (agent old : Nat) (sw : Bool) (s : State) : State :=
  { s with hc := { s.hc with results := s.hc.results ++ [(agent, old, sw)] } }

/-- The place of a stack address, with the key pair of the partition that owns it encrypted (R356, R373). -/
def ownerPlace (s : State) (a : Nat) : Place :=
  match recordedSegs s |>.find? fun (_, g) =>
      (g.cls == clsNear || g.cls == clsWoven) && decide (g.base ≤ a ∧ a < g.base + g.len) && encrypts s g.part g.cls with
  | some (_, g) => .mem a (pairFor s g.part a)
  | none => .mem a none

/-- A base die's read-modify-write. A poisoned sector returns its poison and is not written (R373). -/
def baseAtomic (agent addr : Nat) (r : AtomicReq) (s : State) : State :=
  let p := ownerPlace s addr
  let old := leNat (placeRead s p (atSize r))
  let (n, sw) := atApply r old
  if placePoison s p (atSize r) then result agent old false (notePoisonRead s p)
  else result agent old sw (placeWrite (0, 0) p (leBytes (atSize r) n) .none s)

def execBaseDieAtomic (addr : BitVec 48) (req : AtomicReq) (s : State) : Ans :=
  let a := addr.toNat
  match tgtOf s a with
  | .stack k => if atomicAligned a req ∧ (refusal s true (.stack k)).isNone then .next (baseAtomic 511 a req s) else .next s
  | _ => .next s

/-! ### Serving a request (R450 to R456) -/

def ReqKind.unique : ReqKind → Bool
  | .readUnique | .upgrade | .zeroUnique | .atomic _ => true
  | _ => false

/-- The data of a line where no private cache supplies it: the L3's copy, else the point of coherence's. -/
def homeData (s : State) (l : Nat) : Nat := ((l3Of s l).map (·.data)).getD (memLine s l)

/-- The home's own read of a line, where neither a holder nor the L3 supplies it (R366). -/
def noteHome (b : Busy) (s : State) : State :=
  if b.data.isSome || (l3Of s b.line).isSome then s else noteRead (64 * b.line) 64 s

/-- An L3 line that supplies a read becomes the newest of its set (R445). -/
def touchL3 (b : Busy) (s : State) : State :=
  match b.data, l3Of s b.line with
  | none, some v => advance (setL3 b.line (some { v with stamp := s.tick }) s)
  | _, _ => s

def addSnoop (l a : Nat) (shared inval : Bool) (s : State) : State :=
  { s with hc := { s.hc with snoops := s.hc.snoops ++ [⟨l, a, shared, inval, none⟩] } }

/-- Move the home's own copy of a line to its point of coherence (CleanReq, FlushReq), or discard it (InvalReq). -/
def l3Clean (k : ReqKind) (l : Nat) (s : State) : State :=
  match k, l3Of s l with
  | .clean, some v => setL3 l (some { v with dirty := false }) (if v.dirty then putLine l v.data s else s)
  | .flush, _ => l3Evict l s
  | .inval, _ => setL3 l none s
  | _, _ => s

/-- The requester's own copy under a cache-block operation. -/
def ownCopy (k : ReqKind) (a l : Nat) (s : State) : State :=
  let p := plineOf s a l
  match k with
  | .clean =>
    let s1 := if p.state.dirty then putLine l p.data s else s
    (match p.state with
    | .m => setDir l { dirOf s1 l with state := .e } (setPline a l { p with state := .e } s1)
    | .o => setDir l { ((dirOf s1 l).share a) with state := .s } (setPline a l { p with state := .s } s1)
    | _ => s1)
  | .flush => setDir l ((dirOf s l).drop a) (dropLine a l (if p.state.dirty then putLine l p.data s else s))
  | .inval => setDir l ((dirOf s l).drop a) (dropLine a l s)
  | _ => s

/-- The directory once the requester's grant is settled (R452). -/
def grantDir (b : Busy) (s : State) : State :=
  let d := dirOf s b.line
  setDir b.line (match b.grant with
    | .m | .e => { d with state := b.grant, owner := b.agent, sharers := [], coarse := none }
    | _ => { (d.share b.agent) with state := if d.state = .o then .o else .s }) s

/-- A near atomic, once every holder has answered (R456). -/
def nearAtomic (b : Busy) (r : AtomicReq) (addr : Nat) (s : State) : State :=
  let s0 := incF MAGPIE_NEAR MAGPIE_NEAR_NEAR 1 s
  let l3 := l3Of s0 b.line
  match tgtOf s0 addr with
  | .stack _ =>
    let s1 := if b.dirty then putLine b.line (b.data.getD 0) s0
      else match l3 with | some v => if v.dirty then putLine b.line v.data s0 else s0 | none => s0
    baseAtomic b.agent addr r (setL3 b.line none s1)
  | _ =>
    let d := if b.dirty then b.data.getD 0 else homeData s0 b.line
    let (n, old, sw) := lineAtomic addr r d
    result b.agent old sw (l3Alloc (classOf b.agent) b.line (if 2 ^ 512 ≤ d then d else n) true s0)

/-- Every snoop of a busy line has been answered: settle the grant, or finish a request that needs no CompAck. -/
def settled (addr : Nat) (b : Busy) (s : State) : State :=
  match b.kind with
  | .clean | .flush =>
    let s1 := if b.dirty then putLine b.line (b.data.getD 0) s else s
    freeLine b.line s1
  | .inval => freeLine b.line s
  | .atomic r =>
    if b.grant = .i then freeLine b.line (nearAtomic b r addr s)
    else
      let d := b.data.getD (homeData s b.line)
      let b1 := { b with data := some d, grant := .m }
      setBusy b1 (grantDir b1 (setL3 b.line none (noteHome b s)))
  | .readShared =>
    let lone := b.grant = .e && (l3Of s b.line).isNone
    let b1 := { b with data := some (b.data.getD (homeData s b.line)), grant := if lone then .e else .s }
    setBusy b1 (grantDir b1 (touchL3 b (noteHome b s)))
  | .wb => s
  | .zeroUnique =>
    let b1 := { b with data := some 0, grant := .m }
    setBusy b1 (grantDir b1 (setL3 b.line none s))
  | .readUnique | .upgrade =>
    let l3Dirty := ((l3Of s b.line).map (·.dirty)).getD false
    let b1 := { b with
      data := some (b.data.getD (homeData s b.line)), grant := if b.dirty || l3Dirty then .m else .e }
    setBusy b1 (grantDir b1 (setL3 b.line none (noteHome b s)))

/-! ### Write-backs and offers taken up (R446, R454) -/

def answerWb (a l code : Nat) (s : State) : State :=
  { s with hc := { s.hc with wbAcks := s.hc.wbAcks ++ [(a, l, code)] } }

/-- The home takes up a write-back or offer. -/
def takeUp (a l : Nat) (w : WbLine) (s : State) : State :=
  if s.hc.wbAcks.any (fun x => x.1 == a && x.2.1 == l) then s
  else if !(dirOf s l).lists a ∨ w.snooped then answerWb a l 2 (incF WB_DISCARDS WB_DISCARDS_DISCARDS 1 s)
  else
    let s1 := setDir l ((dirOf s l).drop a) s
    if w.was.dirty then answerWb a l 0 (l3Alloc (classOf a) l w.data true s1)
    else if w.hit ∧ getF s (HC_L3_WAYMASK (classOf a)) HC_L3_WAYMASK_MASK ≠ 0 then
      answerWb a l 0 (l3Alloc (classOf a) l w.data false s1)
    else answerWb a l 1 s1

/-- The write-back or offer of an agent that waits in its buffer for the home. -/
def ownBuffer (a l : Nat) (s : State) : Option WbLine := (pcacheOf s a).wb.find? fun w => w.line == l && !w.snooped

/-- Accept a request for a line that is not busy. None: it must wait. What the agent gave back of the line before comes first. -/
def accept (agent addr : Nat) (k : ReqKind) (s0 : State) : Option State :=
  let l := addr / 64
  let s := match ownBuffer agent l s0 with | some w => takeUp agent l w s0 | none => s0
  if k = .wb then some (match (pcacheOf s agent).wb.find? (·.line == l) with | some w => takeUp agent l w s | none => s) else
  let s0 := if k.unique then magpieUpdate agent l s else s
  let near := match k with | .atomic _ => atomicNear s0 l | _ => false
  let needs := !near && (k.unique || k == .readShared)
  let own := (plineOf s0 agent l).state
  let start (s : State) : State :=
    let d := dirOf s l
    let others := if d.present then d.all.filter (· != agent) else []
    let owner := match d.state with | .m | .o | .e => if d.owner = agent then none else some d.owner | _ => none
    let supplier := owner.orElse fun _ => nearest agent others
    let ownD := if own = .i then none else some (plineOf s agent l).data
    let b : Busy := ⟨l, addr, agent, k, (if near then .i else if others.isEmpty then .e else .s),
      (if k.unique ∧ !near then ownD else none), [], false, own.dirty && k.unique && !near⟩
    let go (shared unique inval : List Nat) (s : State) : State :=
      let all := shared ++ unique ++ inval
      let s1 := shared.foldl (fun s a => addSnoop l a true false s) s
      let s2 := unique.foldl (fun s a => addSnoop l a false false s) s1
      let s3 := inval.foldl (fun s a => addSnoop l a false true s) s2
      let b1 := { b with snoops := all }
      if all.isEmpty then settled addr b1 s3 else setBusy b1 s3
    match k with
    | .readShared =>
      (match owner, d.coarse with
      | some o, _ => go [o] [] [] s
      | none, some _ => go others [] [] s
      | none, none => go ((nearest agent others).map (fun a => [a]) |>.getD []) [] [] s)
    | .readUnique | .upgrade =>
      if own ≠ .i then go [] [] others s
      else (match d.coarse with
        | some _ => go [] others [] s
        | none => match supplier with
          | some x => go [] [x] (others.filter (· != x)) s
          | none => go [] [] [] s)
    | .zeroUnique => go [] [] others s
    | .atomic _ =>
      if near then go [] [] others (if own = .i then s else takeBack l agent (setDir l ((dirOf s l).drop agent) s))
      else if own ≠ .i then go [] [] others s
      else (match supplier with
        | some x => go [] [x] (others.filter (· != x)) s
        | none => go [] [] [] s)
    | .clean =>
      let s1 := l3Clean k l (ownCopy k agent l s)
      (match owner with
      | some o => if d.state = .e then go [] [] [] s1 else go [o] [] [] s1
      | none => go [] [] [] s1)
    | .flush | .inval => go [] [] others (l3Clean k l (ownCopy k agent l s))
    | .wb => s
  -- the entry records the requester and the time, and is the newest of its set (R453, R458)
  let mark (t : State) : State :=
    if k.unique && !(dirOf s l).present then setDir l { dirOf t l with lastAgent := agent, lastTime := max 1 (clockNow s) } t else t
  if needs then (dirEnsure l s0).map fun t => start (mark t)
  else if (dirOf s0 l).present then some (start (advance (setDir l { dirOf s0 l with stamp := s0.tick } s0)))
  else some (start s0)

/-- Take up the waiting requests whose line is no longer busy, in arrival order. -/
def pumpList : List (Nat × Nat × ReqKind) → State → State
  | [], s => s
  | (a, addr, k) :: r, s =>
    let s1 := match busyOf s (addr / 64) with
      | none => (match accept a addr k s with
        | some t => { t with hc := { t.hc with waiting := t.hc.waiting.erase (a, addr, k) } }
        | none => s)
      | some _ => s
    pumpList r s1

def pump (s : State) : State := pumpList s.hc.waiting s

/-- A request reaches its home. -/
def request (agent addr : Nat) (k : ReqKind) (s : State) : State :=
  if getF s HC_STATUS HC_STATUS_DIR_UP = 0 ∨ !agentLive s agent ∨ !inDomain (addr / 64) then s
  else
    let wait := { s with hc := { s.hc with waiting := s.hc.waiting ++ [(agent, addr, k)] } }
    let ahead := s.hc.waiting.any fun w => w.2.1 / 64 == addr / 64
    if ahead || (busyOf s (addr / 64)).isSome then wait else (accept agent addr k s).getD wait

/-! ### The core cache (R184 to R188) -/

/-- Set of a core cache (R185). -/
def coreSet (l : Nat) : Nat :=
  let a := 64 * l
  bits a 14 6 ^^^ bits a 23 15 ^^^ bits a 32 24 ^^^ bits a 41 33 ^^^ bits a 47 42

/-- Point the tree's three bits on the way to `w` away from it (PRESUMED: the usual seven-bit tree). -/
def plruTouch (v w : Nat) : Nat :=
  let put (v i b : Nat) : Nat := setBits v i i b
  let b2 := w / 4 % 2
  let b1 := w / 2 % 2
  let b0 := w % 2
  put (put (put v 0 (1 - b2)) (1 + b2) (1 - b1)) (3 + 2 * b2 + b1) (1 - b0)

def plruVictim (v : Nat) : Nat :=
  let b2 := bits v 0 0
  let b1 := bits v (1 + b2) (1 + b2)
  let b0 := bits v (3 + 2 * b2 + b1) (3 + 2 * b2 + b1)
  4 * b2 + 2 * b1 + b0

def touchWay (a l w : Nat) (s : State) : State :=
  let c := pcacheOf s a
  let k := coreSet l
  setPcache a { c with plru := Assoc.put (fun _ => 0) c.plru k (plruTouch (Assoc.get (fun _ => 0) c.plru k) w) } s

/-- The lines of a core cache's set. -/
def coreWays (c : PCache) (k : Nat) : List (Nat × PLine) := c.lines.filter fun e => coreSet e.1 == k && e.2.state != .i

/-- Move a line to the write-back buffer. -/
def toBuffer (a l : Nat) (s : State) : State :=
  let c := pcacheOf s a
  let p := plineOf s a l
  setPcache a { c with
    lines := Assoc.put (fun _ => PLine.none) c.lines l .none
    wb := c.wb ++ [⟨l, p.state, p.data, p.hit, false⟩] } s

/-- Room for a line: none where the victim's eviction must wait for the buffer. -/
def wayFor (a l : Nat) (s : State) : Option (State × Nat) :=
  if !isCore a then some (s, 0)
  else
    let c := pcacheOf s a
    let k := coreSet l
    let here := coreWays c k
    match here.find? (fun e => e.1 == l), (List.range 8).find? fun w => !here.any fun e => e.2.way == w with
    | some e, _ => some (s, e.2.way)
    | none, some w => some (s, w)
    | none, none =>
      let w := plruVictim (Assoc.get (fun _ => 0) c.plru k)
      match here.find? fun e => e.2.way == w with
      | some v => if c.wb.length < 4 then some (toBuffer a v.1 s, w) else none
      | none => some (s, w)

/-- Is a core cache caching (R461, Table 06-6)? -/
def coreCaches (s : State) (n : Nat) : Bool :=
  getF s (CACHE_CTL n) CACHE_CTL_ENABLE == 1 && getF s HC_STATUS HC_STATUS_DIR_UP == 1

/-- An access of an agent to a line it holds: a hit. -/
def hitLine (a l : Nat) (s : State) : State :=
  let p := plineOf s a l
  let s1 := setPline a l { p with hit := true } s
  if isCore a then touchWay a l p.way (incF (CACHE_HITS (a - 128)) CACHE_HITS_CACHE_HITS 1 s1) else s1

/-- A miss of an agent: a core cache has one miss slot (R187), and an access that finds it taken waits. -/
def missLine (a addr : Nat) (k : ReqKind) (s : State) : State :=
  let c := pcacheOf s a
  if !isCore a then request a addr k s
  else if !coreCaches s (a - 128) then s
  else if c.miss.isSome then setPcache a { c with waits := c.waits ++ [(addr, k)] } s
  else request a addr k (setPcache a { c with miss := some (addr / 64) }
    (incF (CACHE_MISSES (a - 128)) CACHE_MISSES_CACHE_MISSES 1 s))

/-- What a sequencer is working on (log 130): the step in flight on the core's lowest busy engine, else a step of the core that has
begun and not ended, else a command that has begun and waits there. It fails. -/
def failCurrent (n : Nat) (f : Fail) (s : State) : State :=
  let begun := s.progs.findSome? fun e => e.2.bind fun p => (p.runs.find? fun r => r.failed.isNone &&
    p.steps.zipIdx.any fun (t, i) => t.core == n && !r.done.contains i && decide (0 < Assoc.get (fun _ => 0) r.progress i)).map
      fun r => (e.1, r.id)
  match (coreOf s n).engines.findSome? (·.flight), begun with
  | some x, _ => failRun x.handle x.run f s
  | none, some (h, r) => failRun h r f s
  | none, none =>
    match s.cmds.find? fun e => e.core == n && !e.descs.isEmpty && e.result.isNone with
    | some e => sweep (finishFail e.ref f (unwait e.ref s))
    | none => s

/-- A tag parity error on a clean line costs the line, which the access fetches again. One on a dirty line and an uncorrectable data
error lose it: its home keeps the last written-back value, the current step fails, and the ledger records it (R191). -/
def cacheError (n l : Nat) (tag : Bool) (s0 : State) : State :=
  let a := 128 + n
  let s := { s0 with upsets := s0.upsets.filter fun u => u != .tag n l && u != .data n l }
  let dirty := (plineOf s a l).state.dirty
  if tag && !dirty then setF (CACHE_ECC n) CACHE_ECC_TAG_CLEAN 1 (dropLine a l s)
  else
    let s1 := setF (CACHE_ECC n) (if tag then CACHE_ECC_TAG_DIRTY else CACHE_ECC_DATA_UNCORR) 1 (dropLine a l s)
    failCurrent n (fAbort 6) (ledger 0x0105 2 (fenceCode domCore n) (moduleId s1 * 2 ^ 48 + 64 * l)
      (ledgerData [(0, 1, n), (1, 1, getReg s1 (CACHE_ECC n) % 8)]) s1)

/-- The check of a core cache's line as its sequencer reaches it: false where the access ends there. Poison in the sequencer's own
data fails the step too (R180). -/
def checkLine (a l : Nat) (s : State) : State × Bool :=
  let n := a - 128
  if !isCore a ∨ (plineOf s a l).state = .i then (s, true)
  else if s.upsets.contains (.tag n l) then (cacheError n l true s, !(plineOf s a l).state.dirty)
  else if s.upsets.contains (.data n l) then (cacheError n l false s, false)
  else if 2 ^ 512 ≤ (plineOf s a l).data then (failCurrent n (fAbort 6) s, false)
  else (s, true)

/-- A read or write of an agent: served by its own cache where it can be, else a request. -/
def access (a addr : Nat) (k : ReqKind) (s0 : State) : State :=
  let l := addr / 64
  let (s, ok) := checkLine a l s0
  if !agentLive s0 a ∨ !inDomain l then s0
  else if isCore a ∧ (pcacheOf s0 a).miss = some l then
    setPcache a { pcacheOf s0 a with waits := (pcacheOf s0 a).waits ++ [(addr, k)] } s0
  else if !ok then s
  else match k, (plineOf s a l).state with
    | _, .i => missLine a addr k s
    | .readShared, _ => hitLine a l s
    | .readUnique, .m | .readUnique, .e | .upgrade, .m | .upgrade, .e => hitLine a l s
    | .readUnique, _ => missLine a addr .upgrade s
    | .zeroUnique, .m | .zeroUnique, .e => hitLine a l (setPline a l { plineOf s a l with state := .m, data := 0 } s)
    | _, _ => missLine a addr k s

def execReadShared (agent : BitVec 9) (addr : BitVec 48) (s : State) : Ans :=
  .next (access agent.toNat addr.toNat .readShared s)

def execReadUnique (agent : BitVec 9) (addr : BitVec 48) (s : State) : Ans :=
  .next (access agent.toNat addr.toNat .readUnique s)

def execUpgrade (agent : BitVec 9) (addr : BitVec 48) (s : State) : Ans :=
  .next (access agent.toNat addr.toNat .upgrade s)

def execZeroUnique (agent : BitVec 9) (addr : BitVec 48) (s : State) : Ans :=
  .next (access agent.toNat addr.toNat .zeroUnique s)

/-- A misaligned atomic faults at the requester and never reaches the home (R455). -/
def execAtomic (agent : BitVec 9) (addr : BitVec 48) (req : AtomicReq) (s : State) : Ans :=
  if atomicAligned addr.toNat req then .next (request agent.toNat addr.toNat (.atomic req) s) else .next s

def execCleanReq (agent : BitVec 9) (addr : BitVec 48) (s : State) : Ans := .next (request agent.toNat addr.toNat .clean s)
def execFlushReq (agent : BitVec 9) (addr : BitVec 48) (s : State) : Ans := .next (request agent.toNat addr.toNat .flush s)
def execInvalReq (agent : BitVec 9) (addr : BitVec 48) (s : State) : Ans := .next (request agent.toNat addr.toNat .inval s)

/-! ### Snoops and responses (R454) -/

/-- What a holder answers to a snoop, and the state it is left with. A snoop that hits the write-back buffer is answered
from it once. -/
def answerSnoop (m : SnoopMsg) (clean : Bool) (s : State) : State :=
  let a := m.holder
  let p := plineOf s a m.line
  let put (x : Option Nat × Bool × LState) (s : State) : State :=
    { s with hc := { s.hc with snoops := s.hc.snoops.map fun y =>
        if y.line = m.line ∧ y.holder = a then { y with answered := some x } else y } }
  if p.state ≠ .i then
    let data := if m.inval ∧ !p.state.dirty then none else some p.data
    let left := if !m.shared then LState.i else if clean then .s else match p.state with | .m | .o => .o | _ => .s
    put (data, p.state.dirty, left) (if left = .i then dropLine a m.line s else setPline a m.line { p with state := left } s)
  else match (pcacheOf s a).wb.find? fun w => w.line == m.line && !w.snooped with
    | some w =>
      let c := pcacheOf s a
      let data := if m.inval ∧ !w.was.dirty then none else some w.data
      put (data, w.was.dirty, .i) (setPcache a { c with
        wb := c.wb.map fun x => if x.line = m.line then { x with snooped := true } else x } s)
    | none => put (none, false, .i) s

/-- Answer the snoop of a kind that waits at a holder. -/
def snoopRow (holder addr : Nat) (ok : SnoopMsg → Bool) (s : State) : State :=
  let l := addr / 64
  match s.hc.snoops.find? fun m => m.line == l && m.holder == holder && m.answered.isNone && ok m with
  | none => s
  | some m => answerSnoop m ((busyOf s l).any fun b => b.kind == .clean) s

def execSnpShared (holder : BitVec 9) (addr : BitVec 48) (s : State) : Ans :=
  .next (snoopRow holder.toNat addr.toNat (fun m => m.shared) s)
def execSnpUnique (holder : BitVec 9) (addr : BitVec 48) (s : State) : Ans :=
  .next (snoopRow holder.toNat addr.toNat (fun m => !m.shared && !m.inval) s)
def execSnpInval (holder : BitVec 9) (addr : BitVec 48) (s : State) : Ans :=
  .next (snoopRow holder.toNat addr.toNat (fun m => m.inval) s)

/-- The directory after a holder's response. -/
def respDir (m : SnoopMsg) (left : LState) (s : State) : State :=
  let d := dirOf s m.line
  setDir m.line (match left with
    | .i => d.drop m.holder
    | .o => { d with state := .o, owner := m.holder }
    | .s => if d.owner = m.holder ∧ d.state ≠ .s then { (d.share m.holder) with state := .s } else d
    | _ => d) s

/-- A response reaches the home: directory, data, and the end of the snooping (R450, R452, R454). -/
def snpRespAt (l addr : Nat) (m : SnoopMsg) (b : Busy) (x : Option Nat × Bool × LState) (s : State) : State :=
  let (data, dirty, left) := x
  let s1 := respDir m left { s with hc := { s.hc with snoops := s.hc.snoops.erase m } }
  let fromBuffer := m.shared && left == LState.i && dirty
  let s2 := if fromBuffer ∧ b.kind = ReqKind.readShared then l3Alloc (classOf m.holder) l (data.getD 0) true s1 else s1
  let b1 := { b with
    snoops := setErase b.snoops m.holder
    data := if dirty || b.data.isNone then (data.orElse fun _ => b.data) else b.data
    dirty := b.dirty || dirty
    grant := if b.kind = ReqKind.readShared ∧ (left ≠ LState.i ∨ fromBuffer) then .s else b.grant }
  if b1.snoops.isEmpty then
    -- sharers that have all let the line go leave the requester alone with it
    let alone := b.kind == ReqKind.readShared && (dirOf s2 l).all.isEmpty
    pump (settled addr { b1 with grant := if alone ∧ !fromBuffer then .e else b1.grant } s2)
  else setBusy b1 s2

def execSnpResp (holder : BitVec 9) (addr : BitVec 48) (s : State) : Ans :=
  let l := addr.toNat / 64
  match s.hc.snoops.find? fun m => m.line == l && m.holder == holder.toNat && m.answered.isSome, busyOf s l with
  | some m, some b =>
    (match m.answered with
    | some x => .next (snpRespAt l b.addr m b x s)
    | none => .next s)
  | _, _ => .next s

/-- Data reaches the requester, which installs the line in the state granted. -/
def installLine (b : Busy) (d : Nat) (s : State) : State :=
  match wayFor b.agent b.line s with
  | none => s
  | some (s1, w) =>
    let (st, d1, s2) := match b.kind with
      | .atomic r =>
        let (n, old, sw) := lineAtomic b.addr r d
        (LState.m, (if 2 ^ 512 ≤ d then d else n), result b.agent old sw (incF MAGPIE_FAR MAGPIE_FAR_FAR 1 s1))
      | _ => (b.grant, d, s1)
    let s3 := setPline b.agent b.line ⟨st, d1, false, w⟩ s2
    let s4 := if isCore b.agent then touchWay b.agent b.line w s3 else s3
    let s5 := setBusy { b with delivered := true } s4
    -- a sequencer that reads poison fails its step (R180)
    if isCore b.agent ∧ 2 ^ 512 ≤ d1 then failCurrent (b.agent - 128) (fAbort 6) s5 else s5

def execData (agent : BitVec 9) (addr : BitVec 48) (s : State) : Ans :=
  match busyOf s (addr.toNat / 64) with
  | some b =>
    (match b.data with
    | some d => if b.agent = agent.toNat ∧ b.snoops.isEmpty ∧ !b.delivered then .next (installLine b d s) else .next s
    | none => .next s)
  | none => .next s

def execCompAck (agent : BitVec 9) (addr : BitVec 48) (s : State) : Ans :=
  match busyOf s (addr.toNat / 64) with
  | some b => if b.agent = agent.toNat ∧ b.delivered then .next (pump (freeLine b.line s)) else .next s
  | none => .next s

/-- Does an agent's request for a line still wait for its grant or its data? -/
def asking (s : State) (a l : Nat) : Bool :=
  (s.hc.waiting.any fun w => w.1 == a && w.2.1 / 64 == l) || (busyOf s l).any fun b => b.agent == a && !b.delivered

/-- The miss slot is released once its line has been granted and delivered, or the cache no longer caches; the accesses that waited
for it go on in their order, and a next miss takes the slot (R187). -/
def execCacheMissFill (core : BitVec 8) (s : State) : Ans :=
  let a := 128 + core.toNat
  let c := pcacheOf s a
  match c.miss with
  | none => .next s
  | some l =>
    if asking s a l ∧ coreCaches s core.toNat then .next s
    else .next (c.waits.foldl (fun s x => access a x.1 x.2 s) (setPcache a { c with miss := none, waits := [] } s))

/-- ZERO_LINE: as cbo.zero where the core caches the address; an uncached address faults the step, and every address is uncached
while the cache is disabled or the directory is down (R188, R199, R461). -/
def execZeroLine (core : BitVec 8) (addr : BitVec 48) (s : State) : Ans :=
  let n := core.toNat
  if inDomain (addr.toNat / 64) ∧ coreCaches s n then .next (access (128 + n) addr.toNat .zeroUnique s)
  else .next (failCurrent n (fParam rRange 0) s)

/-! ### Write-backs and offers (R446, R451, R454) -/

/-- A victim moves to its cache's write-back buffer: 16 entries in an L2, 4 in a core cache. -/
def evictLine (a l : Nat) (dirty : Bool) (s : State) : State :=
  let p := plineOf s a l
  if p.state = .i ∨ p.state.dirty ≠ dirty ∨ (if isCore a then 4 else 16) ≤ (pcacheOf s a).wb.length then s else toBuffer a l s

/-- A line leaves its cache for the write-back buffer, and its home takes it up in its turn (R450, R451). -/
def wbRow (agent addr : Nat) (dirty : Bool) (s : State) : State :=
  let l := addr / 64
  if getF s HC_STATUS HC_STATUS_DIR_UP = 0 then s
  else
    let s1 := evictLine agent l dirty s
    match (pcacheOf s1 agent).wb.find? fun w => w.line == l && w.was.dirty == dirty with
    | none => s1
    | some w =>
      let x := (agent, 64 * l, ReqKind.wb)
      if (busyOf s1 l).isNone && !s1.hc.waiting.any (fun y => y.2.1 / 64 == l) then takeUp agent l w s1
      else if s1.hc.waiting.contains x then s1
      else { s1 with hc := { s1.hc with waiting := s1.hc.waiting ++ [x] } }

def execWbDirty (agent : BitVec 9) (addr : BitVec 48) (s : State) : Ans := .next (wbRow agent.toNat addr.toNat true s)
def execWbClean (agent : BitVec 9) (addr : BitVec 48) (s : State) : Ans := .next (wbRow agent.toNat addr.toNat false s)

/-- WBAck frees the buffer entry. -/
def execWbAck (agent : BitVec 9) (addr : BitVec 48) (s : State) : Ans :=
  let a := agent.toNat
  let l := addr.toNat / 64
  match s.hc.wbAcks.find? fun x => x.1 == a && x.2.1 == l with
  | none => .next s
  | some x =>
    let c := pcacheOf s a
    .next (setPcache a { c with wb := c.wb.filter (·.line != l) } { s with hc := { s.hc with wbAcks := s.hc.wbAcks.erase x } })

/-! ### Core caches written back whole (R193, R199, R461) -/

/-- A core cache writes every dirty line and invalidates. `direct`: straight to the points of coherence. -/
def flushCore (direct : Bool) (n : Nat) (s : State) : State :=
  let a := 128 + n
  let c := pcacheOf s a
  let dirty := (c.lines.filterMap fun e => if e.2.state.dirty then some (e.1, e.2.data) else none) ++
    (c.wb.filterMap fun w => if w.was.dirty ∧ !w.snooped then some (w.line, w.data) else none)
  let gone := (c.lines.map (·.1)) ++ c.wb.map (·.line)
  let s1 := dirty.foldl (fun s e => if direct then putLine e.1 e.2 s else l3Alloc 12 e.1 e.2 true s) s
  let s2 := gone.foldl (fun s l => setDir l ((dirOf s l).drop a) s) s1
  setPcache a { c with lines := [], wb := [] }
    { s2 with hc := { s2.hc with wbAcks := s2.hc.wbAcks.filter (·.1 != a) } }

def execCacheFlush (core : BitVec 8) (s : State) : Ans :=
  .next (flushCore (getF s HC_STATUS HC_STATUS_DIR_UP == 0) core.toNat s)

/-! ### Coherent input-output (R446) -/

/-- A coherent write of a port or a guest: every private copy goes but those of accelerator core caches, into which such a write is
not snooped (R190), and the line is allocated in the L3. -/
def ioLine (cls l a : Nat) (bs : List Byte) (s : State) : State :=
  let d := (newestCopy s l).getD (memLine s l)
  let holders := (dirOf s l).all.filter fun x => !isCore x
  let whole := decide (a ≤ 64 * l ∧ 64 * l + 64 ≤ a + bs.length)
  let s0 := if whole || (newestCopy s l).isSome then s else noteRead (64 * l) 64 s
  let s1 := holders.foldl (fun s x => takeBack l x s) s0
  let s2 := if (dirOf s l).present then setDir l (holders.foldl DirEntry.drop (dirOf s1 l)) s1 else s1
  l3Alloc cls l (patchLine a bs l d) true (patchFlight a bs s2)

def ioWrite (cls a : Nat) (bs : List Byte) (s : State) : State :=
  if getF s HC_STATUS HC_STATUS_DIR_UP = 0 then writeMem a bs s
  else (touchedSectors a bs.length).foldl (fun s l => ioLine cls l a bs s) s

/-! ### Keep-ranges (R459, Table 15-9) -/

def keepBase (v : Nat) : Nat := bits v 17 0
def keepSize (v : Nat) : Nat := bits v 50 32

def keepOverlaps (s : State) (k v : Nat) : Bool :=
  (List.range 8).any fun j => j != k && bitAt (getReg s (KEEP j)) 63 &&
    decide (keepBase v < keepBase (getReg s (KEEP j)) + keepSize (getReg s (KEEP j))) &&
    decide (keepBase (getReg s (KEEP j)) < keepBase v + keepSize v)

/-- R464: the Warden, and host cores in machine mode. -/
def mayKeep : Agent → Bool
  | .warden => true
  | .host _ m => m
  | _ => false

def keepMask : Nat := 0x8007FFFF0003FFFF

def execKeepWrite (w : Agent) (k : BitVec 3) (value : BitVec 64) (s : State) : Ans :=
  let v := value.toNat &&& keepMask
  if !mayKeep w then .next s
  else if bitAt v 63 ∧ (262144 < keepBase v + keepSize v ∨ keepSize v = 0 ∨ keepOverlaps s k.toNat v) then
    .next (cfgReject w (KEEP k.toNat) value.toNat 2 (setF KEEP_STATUS KEEP_STATUS_REJECT 1 s))
  else .next (setReg (KEEP k.toNat) v s)

/-- Is a DDR5 address in an enabled keep-range? -/
def kept (s : State) (a : Nat) : Bool :=
  (List.range 8).any fun k =>
    let v := getReg s (KEEP k)
    bitAt v 63 && decide (keepBase v ≤ (a - ddrBase) / mib2 ∧ (a - ddrBase) / mib2 < keepBase v + keepSize v)

end Sys2Proof.Machine
end

