-- ==== Sys2Proof/Machine/Links.lean ====
section
/-! DEFINITION. The die links (Tables 17-1, 17-2) and what a training of the package leaves in their registers and in those
of the stacks. -/

namespace Sys2Proof.Machine

open Sys2Proof

/-! ### Links (Table 17-1) -/

/-- Modules built into a link. -/
def linkModules (i : Nat) : Nat := bits (getReg State.reset (DL_LINK_STATUS i)) 39 32

/-- A die of the package: 0 to 3 compute dies, 4 H, 5 to 16 base dies, 17 and 18 X0 and X1, 19 and 20 G0 and G1
(Table 17-2). -/
def linkEnds (i : Nat) : Nat × Nat :=
  if i < 4 then (i, (i + 1) % 4)
  else if i = 4 then (0, 2)
  else if i = 5 then (1, 3)
  else if i < 30 then
    let m := (i - 6) / 2
    (if i % 2 = 0 then (stackPorts m).1 else (stackPorts m).2, 5 + m)
  else if i < 34 then (i - 30, 4)
  else [(0, 17), (3, 17), (4, 17), (1, 18), (2, 18), (4, 18), (1, 19), (4, 19), (3, 20), (4, 20)].getD (i - 34) (4, 4)

/-- The links of a die. -/
def linksOf (die : Nat) : List Nat := (List.range 44).filter fun i => (linkEnds i).1 == die || (linkEnds i).2 == die

def linkState (s : State) (i : Nat) : Nat := getF s (DL_LINK_STATUS i) DL_LINK_STATUS_STATE

/-- A stile of a link falls silent; a link that is DOWN, FENCED or ABSENT has none. -/
def fenceLink (i : Nat) (s : State) : State :=
  if linkState s i = 0 ∨ linkState s i = 4 ∨ linkState s i = 5 then s
  else setF (DL_LINK_STATUS i) DL_LINK_STATUS_STATE 4 (setF (DL_LINK_STATUS i) DL_LINK_STATUS_MODULES_UP 0
    (incF STILE_FENCES STILE_FENCES_FENCES 1 s))

def raiseLink (i : Nat) (s : State) : State :=
  setF (DL_LINK_STATUS i) DL_LINK_STATUS_STATE 2 (setF (DL_LINK_STATUS i) DL_LINK_STATUS_MODULES_UP (linkModules i)
    (setF (DL_LINK_STATUS i) DL_LINK_STATUS_RATE 2 s))

/-- A die of the package that is fenced: 0 to 3 compute dies, 5 to 16 base dies, 19 and 20 guest sites. -/
def dieDown (s : State) (d : Nat) : Bool :=
  if d < 4 then isFenced s domDie d
  else if 5 ≤ d ∧ d < 17 then isFenced s domStack (d - 5)
  else if d = 19 ∨ d = 20 then isFenced s domGuest (d - 19) || getF s (GUEST_STATUS (d - 19)) GUEST_STATUS_STATE == 0
  else false

/-- The other end of a link of a die. -/
def farEnd (d i : Nat) : Nat := if (linkEnds i).1 = d then (linkEnds i).2 else (linkEnds i).1

/-- The fenced links of a die that returns are trained, but for those whose other end is not there. -/
def returnLinks (d : Nat) (s : State) : State :=
  (linksOf d).foldl (fun s i => if linkState s i = 4 ∧ !dieDown s (farEnd d i) then raiseLink i s else s) s

/-- Are all the links of a die fenced? -/
def dieSilent (s : State) (d : Nat) : Bool := (linksOf d).all fun i => linkState s i == 0 || linkState s i == 4 || linkState s i == 5

/-- Every link whose two ends are there is trained (R490). -/
def trainLinks (s : State) : State :=
  (List.range 44).foldl (fun s i => if dieDown s (linkEnds i).1 || dieDown s (linkEnds i).2 then s else raiseLink i s) s

/-- STK_STATUS of a trained stack: READY, with the spares in use (Table 12-9). The ports follow the dies (View). -/
def trainStack (k : Nat) (s : State) : State :=
  if isFenced s domStack k then setF (STK_STATUS k) STK_STATUS_STATE 3 s
  else
    let x := stackOf s k
    let use (i : Nat) (used ch : Fld) (s : State) : State :=
      match x.spares[i]? with
      | some c => setF (STK_STATUS k) used 1 (setF (STK_STATUS k) ch c s)
      | none => s
    setF (STK_STATUS k) STK_STATUS_STATE 2 (setF (STK_STATUS k) STK_STATUS_DEGRADED (bnat (!x.failed.isEmpty))
      (use 0 STK_STATUS_SPARE0_USED STK_STATUS_SPARE0_CH (use 1 STK_STATUS_SPARE1_USED STK_STATUS_SPARE1_CH s)))

/-- Links and stacks after a chip reset or a start. A copy to a spare channel starts again from its beginning (Table
12-6). -/
def trainPackage (s : State) : State :=
  (List.range 12).foldl (fun s k =>
    let s1 := trainStack k s
    if !(stackOf s1 k).sparing.isEmpty then setF (STK_STATUS k) STK_STATUS_SPARING 1 s1 else s1) (trainLinks s)

end Sys2Proof.Machine
end

