-- ==== Sys2Proof/Machine/Queues.lean ====
section
/-! DEFINITION. Queues (chapter 08): enabling and its checks, doorbells, fetching and retrying packets, completion
records with their writeback word and interrupts, stops and restarts. -/

namespace Sys2Proof.Machine

open Sys2Proof

/-! ### Descriptors (R236 to R238) -/

/-- A descriptor's 64 bytes as a number (Table 08-2). -/
def QDesc.ofNat (d : Nat) : QDesc where
  sqBase := df d 0 8
  cqBase := df d 8 8
  wbAddr := df d 16 8
  sqLog2 := df d 24 1
  cqLog2 := df d 25 1
  program := bitAt (df d 26 1) 0
  stopOnFail := bitAt (df d 26 1) 1
  admin := bitAt (df d 26 1) 2
  acceptV2 := bitAt (df d 26 1) 3
  acceptV3 := bitAt (df d 26 1) 4
  cqV2 := bitAt (df d 26 1) 5
  sqTarget := bits (df d 27 1) 1 0
  cqTarget := bits (df d 27 1) 3 2
  wbTarget := bits (df d 27 1) 5 4
  partition := df d 28 1 % 16
  homeDie := df d 29 1 % 4
  weight := df d 30 1
  inflightMax := if df d 31 1 = 0 then 256 else df d 31 1
  sqStart := df d 32 4
  cqStart := df d 36 4
  irqVector := df d 40 2
  irqKind := df d 42 1
  errVector := df d 44 2
  holdoff := df d 46 2

/-- The reserved bytes and bits of a descriptor are 0. -/
def descReserved (d : Nat) : Bool :=
  df d 26 1 / 64 == 0 && df d 27 1 / 64 == 0 && df d 28 1 / 16 == 0 && df d 29 1 / 4 == 0 && df d 43 1 == 0 && df d 48 16 == 0

/-- A base and the last byte of its ring, for its target (R233, R234). -/
def ringOk (s : State) (target base bytes align : Nat) : Bool :=
  base % align == 0 && decide (target < 3) && (target != 0 || (ringPlace s base && ringPlace s (base + bytes - 1)))

def kindOk (s : State) (k : Nat) : Bool :=
  decide (k < 2) || (k == 2 && endpointMode s false) || (k == 3 && endpointMode s true)

/-- The enabled queues of a doorbell block agree with a queue to be enabled (R241). -/
def blockOk (s : State) (q : Nat) (d : QDesc) : Bool :=
  s.queues.all fun e => e.1 / 512 != q / 512 || e.1 == q || e.2.state == .disabled ||
    (e.2.desc.admin == d.admin && (d.admin || e.2.desc.partition == d.partition))

/-- The checks of R238. -/
def descOk (s : State) (q raw : Nat) : Bool :=
  let d := QDesc.ofNat raw
  descReserved raw &&
  decide (6 ≤ d.sqLog2 ∧ d.sqLog2 ≤ 16) && decide (6 ≤ d.cqLog2 ∧ d.cqLog2 ≤ 16) && decide (1 ≤ d.weight ∧ d.weight ≤ 16) &&
  (d.acceptV2 || d.acceptV3) &&
  ringOk s d.sqTarget d.sqBase (64 * 2 ^ d.sqLog2) 4096 && ringOk s d.cqTarget d.cqBase (16 * 2 ^ d.cqLog2) 4096 &&
  ringOk s d.wbTarget d.wbAddr 8 8 && kindOk s d.irqKind && !isFenced s domDie d.homeDie && blockOk s q d

/-! ### Q_CMD (R257 to R260) -/

/-- Record the outcome of an action. -/
def qResult (q res : Nat) (s : State) : State :=
  setF Q_CMD_STATUS Q_CMD_STATUS_QID q (setF Q_CMD_STATUS Q_CMD_STATUS_RESULT res s)

def qBadState : Nat := 1
def qDescInvalid : Nat := 2
def qDescRead : Nat := 3

/-- ENABLE (R236, R238, Table 08-12). -/
def queueEnable (q : Nat) (s : State) : State :=
  let a := getF s Q_TABLE_BASE Q_TABLE_BASE_BASE * 2 ^ 22 + 64 * q
  if (queueOf s q).state ≠ .disabled then qResult q qBadState s
  else if !ringReadable s a 64 then qResult q qDescRead (noteRead a 64 s)
  else
    let raw := leNat (cohRead s a 64)
    if !descOk s q raw then qResult q qDescInvalid s
    else
      let d := QDesc.ofNat raw
      qResult q 0 (setQueue q { Queue.reset with
        state := .enabled
        desc := d
        p := BitVec.ofNat 32 d.sqStart
        f := BitVec.ofNat 32 d.sqStart
        w := BitVec.ofNat 32 d.cqStart
        cc := BitVec.ofNat 32 d.cqStart
        homeLive := d.homeDie
        doorbell := (queueOf s q).doorbell } s)

def execQEnable (queue : BitVec 16) (s : State) : Ans := .next (queueEnable queue.toNat s)

/-- A queue that drains: fetching and retrying end, held records are discarded (R257, R259, R261). -/
def drainQueue (x : Queue) : Queue :=
  { x with
    state := .draining
    retrying := none
    discard := x.discard || x.errCause == 4
    held := []
    errCause := 0
    errValue := 0 }

def queueDisable (q : Nat) (s : State) : State :=
  let x := queueOf s q
  if x.state = .enabled ∨ x.state = .stopped then qResult q 0 (setQueue q (drainQueue x) s)
  else qResult q qBadState s

def execQDisable (queue : BitVec 16) (s : State) : Ans := .next (queueDisable queue.toNat s)

def queueDisableAbort (q : Nat) (s : State) : State :=
  let x := queueOf s q
  if x.state = .disabled then qResult q qBadState s
  else abortWhere (fun e => e.ref.queue.toNat == q) (fAbort 5) (qResult q 0 (setQueue q (drainQueue x) s))

def execQDisableAbort (queue : BitVec 16) (s : State) : Ans := .next (queueDisableAbort queue.toNat s)

/-! ### Stops (R258) -/

/-- Stop an enabled queue with a cause of Table 08-11. `first` and `last` are TAGs for the ledger. -/
def queueStop (q cause value first last : Nat) (s : State) : State :=
  let x := queueOf s q
  if x.state ≠ .enabled then s
  else
    let s1 := setQueue q { x with state := .stopped, retrying := none, errCause := cause, errValue := value } s
    let s2 := orReg (Q_STOPPED_MAP (q / 64)) (2 ^ (q % 64)) s1
    let s3 := if cause = 1 ∨ cause = 4 ∨ cause = 6 then
        ledger 0x0303 4 0 0 (ledgerData [(0, 2, q), (2, 1, cause), (4, 4, first), (8, 4, last)]) s2
      else s2
    raiseIrq (if x.desc.irqKind = 0 then 1 else x.desc.irqKind) x.desc.errVector (some q) s3

/-! ### Doorbells (R239, R240) -/

def badDoorbell (s : State) : State := incF Q_DB_BAD Q_DB_BAD_Q_DB_BAD 1 s

/-- Is counter a at or after b (R232)? -/
def atOrAfter (a b : BitVec 32) : Bool := decide ((a - b).toNat < 2147483648)

/-- A failed check: an ENABLED queue stops, a STOPPED one only counts it. -/
def failedDoorbell (q cause value : Nat) (s : State) : State :=
  if (queueOf s q).state = .enabled then queueStop q cause value 0 0 s else badDoorbell s

def doorbell (q : Nat) (v : BitVec 64) (s : State) : State :=
  let x := queueOf s q
  let sp := v.setWidth 32
  let cc := (v >>> 32).setWidth 32
  if x.state = .disabled ∨ x.state = .draining then badDoorbell s
  else if !atOrAfter sp x.p then badDoorbell s
  else if 2 ^ x.desc.sqLog2 < (sp - x.f).toNat then failedDoorbell q 2 sp.toNat s
  else if !(atOrAfter cc x.cc && atOrAfter x.w cc) then failedDoorbell q 3 cc.toNat s
  else setQueue q { x with p := sp, cc := cc, doorbell := v } s

def execSqDoorbell (queue : BitVec 16) (value : BitVec 64) (s : State) : Ans := .next (doorbell queue.toNat value s)

/-! ### Records (R254 to R256) -/

def tagOfRec (r : Nat) : Nat := r % 2 ^ 32
def codeOfRec (r : Nat) : Nat := r / 2 ^ 32 % 65536

/-- The record of a completed command, with its packet's IRQ flag as bit 128 (Tables 08-9, 08-10a): status, detail, and the bell,
SUBNS and nanoseconds of completion. -/
def recordOf (x : Queue) (tag : Nat) (irq : Bool) (r : Nat × Nat × Nat × Nat × Nat) : Nat :=
  let time := if x.desc.cqV2 then r.2.2.2.2 else r.2.2.1 % 2 ^ 40 * 2 ^ 24 + r.2.2.2.1
  tag % 2 ^ 32 + r.1 % 65536 * 2 ^ 32 + r.2.1 % 65536 * 2 ^ 48 + time * 2 ^ 64 + bnat irq * 2 ^ 128

/-- Write bytes for a queue at an address of a target; none if a local write fails. -/
def queueWrite (q target a kind tag : Nat) (bs : List Byte) (s : State) : Option State :=
  if target = 0 then (if ringWritable s a then some (cohWrite a bs s) else none)
  else some (extWrite (decide (target = 2)) ⟨some q, kind, a, bs, tag⟩ s)

def portHolds (s : State) (target : Nat) : Bool :=
  (target == 1 && s.pA.holding) || (target == 2 && s.pB.holding)

/-- The port that holds the records or the writeback words of a queue, if one does. -/
def holdsBack (s : State) (x : Queue) : Option Bool :=
  ([x.desc.cqTarget, x.desc.wbTarget].find? (portHolds s)).map (· == 2)

/-- Raise an interrupt of a queue, after its held writeback word (R256). A message of the holding port is itself held in order. -/
def irqBehind (q kind vector : Nat) (s : State) : State :=
  match holdsBack s (queueOf s q) with
  | none => raiseIrq kind vector (some q) s
  | some b => if kind = bnat b + 2 then raiseIrq kind vector (some q) s else waitBehind b ⟨some q, 4, vector, [], kind⟩ s

/-- The completion interrupt, after the writeback word (R256). -/
def completionIrq (q : Nat) (s : State) : State :=
  let x := queueOf s q
  if x.desc.irqKind = 0 then s else irqBehind q x.desc.irqKind x.desc.irqVector s

/-- Write a writeback word, behind the records it counts where the other port holds them (R255). -/
def writeBack (q : Nat) (word : List Byte) (s : State) : Option State :=
  let x := queueOf s q
  match holdsBack s x with
  | some b => if x.desc.wbTarget = bnat b + 1 then queueWrite q x.desc.wbTarget x.desc.wbAddr 1 0 word s
    else some (waitBehind b ⟨some q, 5, x.desc.wbAddr, word, x.desc.wbTarget⟩ s)
  | none => queueWrite q x.desc.wbTarget x.desc.wbAddr 1 0 word s

/-- Pass on what a port has held. -/
def sendHeld (b : Bool) (w : ExtWrite) (s : State) : State :=
  if w.kind = 4 then (match w.queue with | some q => irqBehind q w.tag w.addr s | none => s)
  else if w.kind = 5 then (match w.queue with
    | some q => (queueWrite q w.tag w.addr 1 0 w.bytes s).getD (queueStop q 4 0 0 0 s)
    | none => s)
  else emit (.ext b w) s

/-- Ask for a completion interrupt: at once, or at the end of the holdoff interval. -/
def askIrq (q : Nat) (s : State) : State :=
  let x := queueOf s q
  if x.desc.holdoff = 0 then completionIrq q s
  else if x.holdoffOn then setQueue q { x with irqWaiting := true } s
  else completionIrq q (setQueue q { x with holdoffOn := true } s)

/-- The record of a packet that did not become visible, which stops its queue itself (R251). -/
def unseen (code : Nat) : Bool := code == Status.packetNotVisible.code

/-- Write a record that has its position: record, writeback word, interrupt, and the stops of R258. -/
def postRecord (q r : Nat) (s : State) : State :=
  let x := queueOf s q
  let tag := tagOfRec r
  let failed := failing (codeOfRec r)
  let a := x.desc.cqBase + 16 * (x.w.toNat % 2 ^ x.desc.cqLog2)
  if x.discard then s
  else if !x.held.isEmpty ∨ (x.state = .stopped ∧ x.errCause = 4) then setQueue q { x with held := x.held ++ [r] } s
  else match queueWrite q x.desc.cqTarget a 0 tag (leBytes 16 r) s with
    | none => queueStop q 4 0 tag 0 (setQueue q { x with held := [r], discard := x.state == .draining } s)
    | some s1 =>
      if x.hostLost then s1
      else
        let w := x.w + 1
        let s2 := setQueue q { queueOf s1 q with w := w, markFails := x.markFails + bnat failed } s1
        let word := x.f.toNat + w.toNat * 2 ^ 32
        match writeBack q (leBytes 8 word) s2 with
        | none => queueStop q 4 0 tag 0 s2
        | some s3 =>
          let s4 := if bitAt r 128 || failed then askIrq q s3 else s3
          if x.desc.stopOnFail && failed && !unseen (codeOfRec r) then queueStop q 5 tag 0 0 s4 else s4

/-- Does the queue's replay buffer of a holding port still have room for a record (R513)? -/
def holdRoom (s : State) (q : Nat) : Bool :=
  let bytes (e : ExtPort) : Nat := ((e.held.filter fun w => w.queue == some q).map (·.bytes.length)).sum
  decide (bytes s.pA + 32 ≤ 65536) && decide (bytes s.pB + 32 ≤ 65536)

/-- May a command complete: its last effect is visible, and in PROGRAM order every earlier command has completed (R252)? A full
replay buffer delays it (R513). -/
def recordReady (s : State) (e : Cmd) : Bool :=
  settledAll s e && holdRoom s e.ref.queue.toNat &&
  (!(queueOf s e.ref.queue.toNat).desc.program || (earlierCmds s e.ref).isEmpty)

def dropCmd (c : CmdRef) (s : State) : State := { s with cmds := s.cmds.filter fun e => !isCmd c e }

/-- When a command completes: now, or at the check that failed its packet (R255). -/
def completedAt (s : State) (e : Cmd) (r : Nat × Nat × Nat × Nat × Nat) : Nat × Nat × Nat × Nat × Nat :=
  if e.instr.isSome then (r.1, r.2.1, bellNow s, subnsNow s, clockNow s) else r

/-- After the record of packet k that did not become visible: F is k + 1, and the queue stops with cause NOT_VISIBLE (R251). -/
def endRetry (q : Nat) (k : BitVec 32) (s : State) : State :=
  queueStop q 1 k.toNat k.toNat 0 (setQueue q { queueOf s q with f := k + 1, retrying := none } s)

/-- A command completes: its record (R255, R270). -/
def completeCmd (e : Cmd) (s : State) : State :=
  match e.result with
  | none => s
  | some r =>
    let q := e.ref.queue.toNat
    let s1 := postRecord q (recordOf (queueOf s q) e.ref.index.toNat e.irq (completedAt s e r)) (dropCmd e.ref s)
    settle (if e.instr.isNone && unseen r.1 then endRetry q e.ref.index s1 else s1)

def completeReady (e : Cmd) (s : State) : State := if recordReady s e then completeCmd e s else s

def execCommandCompletion (queue : BitVec 16) (index : BitVec 32) (s : State) : Ans :=
  .next (match s.cmds.find? fun e => e.ref.queue == queue && e.ref.index == index with
    | none => s
    | some e => completeReady e s)

/-- The end of a holdoff interval (R256). -/
def execIrqHoldoffExpiry (queue : BitVec 16) (s : State) : Ans :=
  let q := queue.toNat
  let x := queueOf s q
  .next (if x.irqWaiting then completionIrq q (setQueue q { x with irqWaiting := false } s)
    else setQueue q { x with holdoffOn := false } s)

/-- RESTART (Table 08-12): held records first, then fetching resumes. -/
def queueRestart (q : Nat) (s : State) : State :=
  let x := queueOf s q
  if x.state ≠ .stopped then qResult q qBadState s
  else
    let s1 := setQueue q { x with state := .enabled, errCause := 0, errValue := 0, hostLost := false, held := [] } s
    qResult q 0 (x.held.foldl (fun s r => postRecord q r s) s1)

def execQRestart (queue : BitVec 16) (s : State) : Ans := .next (queueRestart queue.toNat s)

/-- A draining queue with nothing in flight is DISABLED (R257). -/
def execQueueDrained (queue : BitVec 16) (s : State) : Ans :=
  let q := queue.toNat
  let x := queueOf s q
  .next (if x.state = .draining ∧ s.cmds.all fun e => e.ref.queue != queue then
      setQueue q { x with state := .disabled, discard := false, hostLost := false } s
    else s)

/-! ### Fetching (R247 to R251) -/

/-- Commands fetched and not yet completed: a packet that failed a check completed at once (R249). -/
def queueCmds (s : State) (q : Nat) : Nat := (s.cmds.filter fun e => e.ref.queue.toNat == q && e.instr.isSome).length

/-- The commands a die holds (R247). -/
def heldBy (s : State) (d : Nat) (e : Cmd) : Bool := (queueOf s e.ref.queue.toNat).homeLive == d && e.instr.isSome

def dieCmds (s : State) (d : Nat) : Nat := (s.cmds.filter (heldBy s d)).length

/-- Is the queue eligible for a fetch (R247, R422, R513)? -/
def eligible (s : State) (q : Nat) : Bool :=
  let x := queueOf s q
  x.state == .enabled && x.f != x.p && decide ((x.f - x.cc).toNat < 2 ^ x.desc.cqLog2) &&
  decide (queueCmds s q < x.desc.inflightMax) && decide (dieCmds s x.homeLive < 16384) &&
  (getF s ORD_SVC ORD_SVC_STATE == 1 || x.desc.admin) &&
  !portHolds s x.desc.sqTarget && !portHolds s x.desc.cqTarget

/-- The queue a die's fetcher serves, and the packets it has fetched in that turn; before the first, queue 0 comes next. -/
def turnOf (s : State) (d : Nat) : Nat × Nat := Assoc.get (fun _ => (65535, 16)) s.turns d

/-- May the fetcher begin with a packet of the queue: it is eligible, and none of its packets is being retried (R250)? -/
def fetchable (s : State) (q : Nat) : Bool := eligible s q && (queueOf s q).retrying.isNone

/-- Does the fetcher of its home die serve the queue next: it has had fewer than WEIGHT packets in its turn, or that turn is over
and it is the next in round-robin order of queue number (R247)? -/
def hasTurn (s : State) (q : Nat) : Bool :=
  let d := (queueOf s q).homeLive
  let (now, n) := turnOf s d
  let goesOn := fetchable s now && (queueOf s now).homeLive == d && decide (n < (queueOf s now).desc.weight)
  let dist (c : Nat) : Nat := (c + 65535 - now) % 65536
  if goesOn then q == now
  else s.queues.all fun e => e.2.homeLive != d || !fetchable s e.1 || decide (dist q ≤ dist e.1)

/-- One packet more in the turn of a queue; a turn of its own begins where it had none or the last is over. -/
def takeTurn (q : Nat) (s : State) : State :=
  let d := (queueOf s q).homeLive
  let (now, n) := turnOf s d
  let k := if now = q ∧ n < (queueOf s q).desc.weight then n + 1 else 1
  { s with turns := Assoc.put (fun _ => (65535, 16)) s.turns d (q, k) }

/-- The 64 bytes of packet F, as the fetcher reads them; an external host answers `ext`. -/
def packetRead (s : State) (x : Queue) (ext : Option (BitVec 512)) : Option Nat :=
  if x.desc.sqTarget = 0 then
    let a := x.desc.sqBase + 64 * (x.f.toNat % 2 ^ x.desc.sqLog2)
    if ringReadable s a 64 then some (leNat (cohRead s a 64)) else none
  else ext.map (·.toNat)

/-- The fetcher's read of a packet that lies in a poisoned sector shows in the stack that holds it (R366). -/
def notePacket (x : Queue) (s : State) : State :=
  if x.desc.sqTarget = 0 then noteRead (x.desc.sqBase + 64 * (x.f.toNat % 2 ^ x.desc.sqLog2)) 64 s else s

/-- HCRC (R245). -/
def packetCrc (pk : Nat) : Nat :=
  let b := leBytes 64 pk
  crc32c (b.take 12 ++ List.replicate 4 0 ++ b.drop 16)

/-- Why a packet is not visible yet (Table 08-10), or its 64 bytes. -/
def packetVisible (x : Queue) : Option Nat → Except Nat Nat
  | none => .error (2 ^ 13)
  | some pk =>
    if pf pk 4 4 ≠ x.f.toNat then .error (2 ^ 15)
    else if pf pk 12 4 ≠ packetCrc pk then .error (2 ^ 14)
    else .ok pk

/-- CTX names a context still to be created (CTX_CREATE). -/
def createsCtx (op : Nat) : Bool := op == 0x0600

/-- CTX_CREATE and PART_SET: the partition of the context that CTX names plays no part (chapter 09, administration). -/
def actsApart (op : Nat) : Bool := createsCtx op || op == 0x0605

/-- Checks 3 to 8 of Table 08-8: the failure, or the version-3 opcode. -/
def packetChecks (s : State) (x : Queue) (pk : Nat) : Except Fail Nat :=
  let ver := pf pk 3 1
  let bad (r : Nat) : Except Fail Nat := .error (Status.badParam.code, r)
  if !((ver == 2 && x.desc.acceptV2) || (ver == 3 && x.desc.acceptV3)) then bad 0x40
  else
    let v2 := ver == 2
    let flags := if v2 then pf pk 1 1 else pf pk 2 1
    let rsv := v2 && (pf pk 2 1 != 0 || pf pk 10 2 != 0)
    if flags / 4 ≠ 0 ∨ rsv then bad 0x41
    else
      let written := if v2 then pf pk 0 1 else pf pk 0 2
      let op := if v2 then v2Opcode written else if opcodeDefined written then some written else none
      match op with
      | none => .error (Status.badOpcode.code, written)
      | some op =>
        let ctx := if v2 then pf pk 8 2 else pf pk 8 4
        let st := (ctxOf s ctx).state
        let exists_ := decide (1 ≤ ctx) && decide (ctx ≤ 98303) && st != .free && st != .destroying
        if op / 256 = 6 ∧ !x.desc.admin then bad 0x42
        else if !createsCtx op && !exists_ then bad 0x43
        else if !x.desc.admin && (ctxOf s ctx).part != x.desc.partition then bad 0x44
        else .ok op

/-- The command of a packet, or the failure that consumes it. -/
def packetCommand (s : State) (x : Queue) (c : CmdRef) (pk : Nat) : Except Fail Instr :=
  match packetChecks s x pk with
  | .error f => .error f
  | .ok op =>
    match decodeParams (pf pk 3 1 == 2) c op pk with
    | .error e => .error (fParam e.reason e.off)
    | .ok i =>
      let y := ctxOf s c.ctx.toNat
      if !createsCtx op && y.state == .aborting then .error (fAbort 1)
      else if !actsApart op && (isFenced s domPart y.part || (getF s ORD_SVC ORD_SVC_STATE == 1 && (partCores s y.part).isEmpty)) then
        .error (fFenced domPart y.part)
      else .ok i

/-- Consume packet F: F advances and the command joins those in flight, or has already failed. -/
def consume (q pk : Nat) (s : State) : State :=
  let x := queueOf s q
  let v2 := pf pk 3 1 == 2
  let c : CmdRef := ⟨BitVec.ofNat 16 q, x.f, BitVec.ofNat 32 (if v2 then pf pk 8 2 else pf pk 8 4)⟩
  let svc := getF s ORD_SVC ORD_SVC_STATE
  let flags := if v2 then pf pk 1 1 else pf pk 2 1
  let e : Cmd := ⟨c, bitAt flags 0, bitAt flags 1, none, svc, (chooseCore s svc q c.ctx.toNat).getD 256, bellNow s, false, none, [], []⟩
  let s1 := incF (Q_FETCHED x.homeLive) Q_FETCHED_Q_FETCHED 1 (setQueue q { x with f := x.f + 1, retrying := none } s)
  match packetCommand s x c pk with
  | .ok i => putCmd { e with instr := some i } s1
  | .error f =>
    let e1 := { e with started := true, result := some (f.1, f.2, bellNow s, subnsNow s, clockNow s) }
    advance (completeReady e1 (putCmd e1 s1))

def execPacketFetch (queue : BitVec 16) (ext : Option (BitVec 512)) (s : State) : Ans :=
  let q := queue.toNat
  let x := queueOf s q
  .next (if !fetchable s q || !hasTurn s q then s
    else match packetVisible x (packetRead s x ext) with
      | .ok pk => consume q pk (takeTurn q s)
      | .error _ => setQueue q { x with retrying := some 0 } (takeTurn q (notePacket x s)))

/-- Retry 64 has failed: the packet completes, and in PROGRAM order its record waits for those before it (R251, R252). -/
def notVisible (q why : Nat) (s : State) : State :=
  let x := queueOf s q
  let e : Cmd := ⟨⟨BitVec.ofNat 16 q, x.f, 0⟩, false, false, none, getF s ORD_SVC ORD_SVC_STATE, 256, bellNow s, true,
    some (Status.packetNotVisible.code, why + 64, bellNow s, subnsNow s, clockNow s), [], []⟩
  advance (completeReady e (putCmd e (setQueue q { x with retrying := some 64 } s)))

def execPacketRetry (queue : BitVec 16) (ext : Option (BitVec 512)) (s : State) : Ans :=
  let q := queue.toNat
  let x := queueOf s q
  .next (match x.retrying with
    | none => s
    | some n =>
      if x.state ≠ .enabled ∨ 63 < n ∨ portHolds s x.desc.sqTarget ∨ portHolds s x.desc.cqTarget then s
      else
        let x1 := { x with retries := min 65535 (x.retries + 1) }
        match packetVisible x (packetRead s x ext) with
        | .ok pk => consume q pk (setQueue q x1 s)
        | .error why =>
          let s1 := notePacket x s
          if 63 ≤ n then notVisible q why (setQueue q x1 s1)
          else setQueue q { x1 with retrying := some (n + 1) } s1)

end Sys2Proof.Machine
end

