-- ==== Sys2Proof/Machine/Image.lean ====
section
/-! DEFINITION. The Fizan program image (R210 to R213, Tables 07-18 to 07-22): its entries as read from its bytes, and
what STEP_LOAD checks of them before anything is placed. -/

namespace Sys2Proof.Machine

open Sys2Proof

/-- A stream entry of the image (Table 07-21). -/
structure StreamEntry where
  producer : Nat
  consumer : Nat
  tensor : Nat
  depth : Nat
  peer : Nat
  deriving DecidableEq, Repr

/-- The entries of an image. -/
structure Image where
  mapMode : Bool
  tune : Nat
  sets : List Nat
  tensors : List Tensor
  steps : List PStep
  streams : List StreamEntry
  args : List Nat
  deriving DecidableEq, Repr

/-! ### The header (Table 07-18) -/

/-- The five tables: offset, bytes per entry, entries. -/
def imgTables (b : List Byte) : List (Nat × Nat × Nat) :=
  [(field b 28 4, 4, field b 12 2), (field b 32 4, 32, field b 14 2), (field b 36 4, 64, field b 16 4),
   (field b 40 4, 16, field b 20 4), (field b 44 4, 2, field b 24 2)]

/-- A table is aligned and inside the image; one with entries is clear of the header. -/
def tableOk (len : Nat) (t : Nat × Nat × Nat) : Bool :=
  t.1 % 8 == 0 && decide (t.1 + t.2.1 * t.2.2 ≤ len) && (t.2.2 == 0 || decide (64 ≤ t.1))

/-- Do two tables share a byte? -/
def tablesMeet (x y : Nat × Nat × Nat) : Bool :=
  decide (x.1 < y.1 + y.2.1 * y.2.2) && decide (y.1 < x.1 + x.2.1 * x.2.2)

/-- Are the five tables in order (R210)? -/
def tablesOk (len : Nat) (ts : List (Nat × Nat × Nat)) : Bool :=
  ts.all (tableOk len) && ts.zipIdx.all fun (x, i) => (ts.drop (i + 1)).all fun y => !tablesMeet x y

def headerOk (b : List Byte) (len : Nat) : Bool :=
  field b 0 4 == 0x4E415A46 && decide (field b 6 1 ≤ 1) && field b 8 4 == len &&
  decide (field b 12 2 ≤ 16) && decide (1 ≤ field b 14 2) && decide (1 ≤ field b 16 4 ∧ field b 16 4 ≤ 1048576) &&
  decide (field b 20 4 ≤ 1048576) && decide (field b 24 2 ≤ 1024) && decide (1 ≤ field b 26 2) &&
  field b 48 12 == 0 && tablesOk len (imgTables b) &&
  crc32c (b.take 60 ++ List.replicate 4 0 ++ b.drop 64) == field b 60 4

/-! ### Tensors (Table 07-19) -/

def roleWeight : Nat := 0
def roleInternal : Nat := 1
def roleInput : Nat := 2
def roleOutput : Nat := 3
def roleEpoch : Nat := 4

def tensorAt (b : List Byte) (o : Nat) : Option Tensor :=
  let h := field b (o + 12) 6
  match Fmt.ofCode (field b o 1) with
  | none => none
  | some f =>
    let role := field b (o + 1) 1
    if decide (role ≤ 4) && (if role = roleWeight then decide (field b (o + 2) 1 ≤ 2) else field b (o + 2) 1 == 0 && h == 0) &&
        decide (field b (o + 3) 1 ≤ 1) && decide (1 ≤ field b (o + 4) 4) && field b (o + 18) 2 == 0 &&
        decide (1 ≤ field b (o + 20) 4) && field b (o + 24) 8 == 0 then
      some ⟨f, role, field b (o + 2) 1, field b (o + 3) 1 == 1, field b (o + 4) 4, field b (o + 8) 2, field b (o + 10) 2,
        ⟨BitVec.ofNat 44 (h / 16), BitVec.ofNat 4 h⟩, field b (o + 20) 4⟩
    else none

/-! ### Steps (Table 07-20) -/

def stepAt (b : List Byte) (o : Nat) : PStep where
  op := field b o 2
  mapIx := field b (o + 2) 2
  core := 0
  operation := field b (o + 4) 2
  ctrl := field b (o + 6) 1
  fmtOut := field b (o + 7) 1
  a := field b (o + 8) 2
  b := field b (o + 10) 2
  c := field b (o + 12) 2
  d := field b (o + 14) 2
  firstA := field b (o + 16) 4
  firstB := field b (o + 20) 4
  firstC := field b (o + 24) 4
  firstD := field b (o + 28) 4
  dim0 := field b (o + 32) 4
  dim1 := field b (o + 36) 4
  dim2 := field b (o + 40) 4
  subop := field b (o + 44) 1
  set := field b (o + 45) 1
  vfmt := field b (o + 46) 1
  vctrl := field b (o + 47) 1
  anchor := field b (o + 48) 2
  eps := field b (o + 52) 4
  seedScalar := field b (o + 56) 8

def PStep.round (p : PStep) : Bool := bitAt p.ctrl 2
def PStep.explicit (p : PStep) : Bool := p.ctrl % 4 == 1
def PStep.exact (p : PStep) : Bool := bitAt p.ctrl 7
def PStep.tuned (p : PStep) : Bool := bitAt p.vctrl 7
def PStep.scalared (p : PStep) : Bool := bitAt p.vctrl 3
def PStep.eop (p : PStep) : Option EOp := if p.op = opElem then EOp.ofCode p.subop else none

/-- The operands a step has: A, B, C, D. -/
def PStep.uses (p : PStep) : Bool × Bool × Bool × Bool :=
  if p.op = opMatmul then (true, true, false, true)
  else if p.op = opMatmulAcc then (true, true, true, true)
  else if p.op = opElem then
    match p.eop with
    | some e => (true, e.uses.1 && !p.tuned && !p.scalared, e.uses.2, true)
    | none => (true, false, false, true)
  else if p.op = opNorm then (true, false, true, true)
  else if p.op = opZero then (false, false, false, true)
  else (true, false, false, true)

/-- Weight tiles per block of a tensor (R281). -/
def blockTiles (t : Tensor) : Nat := if twoTileForm t.fmt then 2 else 1

/-- The tiles of one operand grid: rows, columns, stride. -/
def gridSpan (rows cols stride : Nat) : List Nat := (List.range rows).flatMap fun i => (List.range cols).map fun j => i * stride + j

/-- Output tiles of a matrix block. -/
def PStep.tpb (p : PStep) : Nat := 64 / rowsPerTile ((Fmt.ofCode p.fmtOut).getD .fp32)

/-- The tiles a step touches of operand A, B, C or D (0 to 3), relative to FIRST, with the tensor's stride. -/
def PStep.tilesOf (p : PStep) (ts : List Tensor) (k : Nat) : List Nat :=
  let get (i : Nat) : Option Tensor := ts[i]?
  let gc (i : Nat) : Nat := ((get i).map (·.gridCols)).getD 1
  let (ua, ub, uc, ud) := p.uses
  let none' : List Nat := []
  if p.isMatmul then
    match k with
    | 0 => gridSpan p.dim0 p.dim1 (gc p.a)
    | 1 =>
      let cols := p.dim2 * ((get p.b).map blockTiles).getD 1
      -- the last block's second position lies beyond a grid of odd width (R68)
      gridSpan p.dim1 (if p.firstB % gc p.b + cols = gc p.b + 1 ∧ cols % 2 = 0 then cols - 1 else cols) (gc p.b)
    | 2 => if uc then gridSpan p.dim0 (p.dim2 * 16) (gc p.c) else none'
    | _ => gridSpan p.dim0 (p.dim2 * p.tpb) (gc p.d)
  else if p.op = opReduce then
    match k with
    | 0 => (List.range p.dim1).flatMap fun i => (List.range p.dim0).map fun t => i * p.dim2 + t
    | 3 => List.range p.dim0
    | _ => none'
  else if p.isRow then
    match k with
    | 0 => gridSpan p.dim0 p.dim1 (gc p.a)
    | 2 => if uc then List.range (if p.subop = 1 then p.dim1 else 2 * p.dim1) else none'
    | 3 => if p.op = opRowstat then List.range p.dim0 else gridSpan p.dim0 p.dim1 (gc p.d)
    | _ => none'
  else
    match k with
    | 0 => if ua then List.range p.dim0 else none'
    | 1 => if ub then List.range p.dim0 else none'
    | 2 => if uc then List.range p.dim0 else none'
    | _ => if ud then List.range p.dim0 else none'

def PStep.tensorOf (p : PStep) (k : Nat) : Nat := match k with | 0 => p.a | 1 => p.b | 2 => p.c | _ => p.d
def PStep.firstOf (p : PStep) (k : Nat) : Nat := match k with | 0 => p.firstA | 1 => p.firstB | 2 => p.firstC | _ => p.firstD

/-- Is an operand present exactly where the operation has it, inside its tensor, in a role that allows it? -/
def operandOk (ts : List Tensor) (p : PStep) (k : Nat) : Bool :=
  let (ua, ub, uc, ud) := p.uses
  let used := (match k with | 0 => ua | 1 => ub | 2 => uc | _ => ud)
  if !used then p.tensorOf k == 0xFFFF
  else match ts[p.tensorOf k]? with
    | none => false
    | some t =>
      (p.tilesOf ts k).all (fun i => decide (p.firstOf k + i < t.tiles)) &&
      (if k = 3 then t.role == roleInternal || t.role == roleOutput
       else t.role != roleOutput)

def dimsOk (p : PStep) : Bool :=
  let u16 (n : Nat) : Bool := decide (1 ≤ n ∧ n ≤ 65535)
  if p.isMatmul then u16 p.dim0 && u16 p.dim1 && u16 p.dim2
  else if p.op = opReduce then decide (1 ≤ p.dim0) && decide (2 ≤ p.dim1 ∧ p.dim1 ≤ 65535)
  else if p.isRow then u16 p.dim0 && u16 p.dim1 && decide (1 ≤ p.dim2 ∧ p.dim2 ≤ 1048576)
  else decide (1 ≤ p.dim0) && p.dim1 == 0 && p.dim2 == 0

/-- SUBOP, VFMT and VCTRL agree (Tables 07-20, 07-22, R285). -/
def elemOk (tune : Nat) (p : PStep) : Bool :=
  match p.eop, VFmt.ofCode p.vfmt with
  | some e, some v =>
    (match e with
     | .v op => op == .cvt || op.isInt == (v == .int32)
     | .vsum => v == .fp64
     | _ => true) &&
    (Rnd.ofCode (p.vctrl % 8)).isSome && !(p.tuned && p.scalared) && (e.uses.1 || (!p.tuned && !p.scalared)) &&
    (if p.tuned then bitAt tune (bits p.vctrl 6 4) else bits p.vctrl 6 4 == 0) &&
    (match e with
     | .cmpEq | .cmpLt | .cmpLe | .cmpUn => p.fmtOut == Fmt.int32.code
     | .vacc => p.fmtOut == Fmt.acc128.code
     | _ => p.fmtOut != Fmt.acc128.code)
  | _, _ => false

/-- The output format a step's operation accepts. -/
def outOk (p : PStep) : Bool :=
  let f := Fmt.ofCode p.fmtOut
  if p.op = opCopy then p.fmtOut == 0
    else if p.op = opRowstat then f == some .fp64 || f == some .fp32 || f == some .bf16 || f == some .fp16
  else if p.op = opFunc ∨ p.op = opSoftmax ∨ p.op = opNorm then f.isSome && f != some .acc128
  else f.isSome

def stepOps : List Nat := [opCopy, opZero, opMatmul, opMatmulAcc, opReduce, opElem, opFunc, opSoftmax, opNorm, opRowstat]

/-- A step entry obeys Table 07-20. -/
def stepOk (mapMode : Bool) (tune sets ops : Nat) (ts : List Tensor) (b : List Byte) (o : Nat) : Bool :=
  let p := stepAt b o
  let rounds := p.op == opMatmul || p.op == opReduce || p.op == opFunc || p.isRow
  let anchored := p.isMatmul || p.op == opReduce || p.op == opNorm || p.op == opRowstat || p.eop == some .vacc
  stepOps.contains p.op && (mapMode || p.mapIx == 0) && decide (p.operation < ops) &&
  bits p.ctrl 6 3 == 0 && decide (p.ctrl % 4 ≤ 1) && (rounds || !p.round) && (anchored || !p.explicit) && outOk p &&
  (List.range 4).all (operandOk ts p) && dimsOk p &&
  (if p.op = opElem then elemOk tune p
   else p.vfmt == 0 && p.vctrl == 0 &&
     (if p.op = opFunc then true else if p.op = opNorm then decide (p.subop ≤ 1)
      else if p.op = opRowstat then p.subop != 0 && !bitAt p.subop 7 else p.subop == 0)) &&
  (if p.op = opFunc ∨ p.op = opSoftmax ∨ p.op = opNorm then decide (p.set < sets)
   else if p.op = opRowstat then p.set == 0xFF || decide (p.set < sets) else p.set == 0xFF) &&
  (if p.explicit then decide (-1024 ≤ ofTwos 16 p.anchor ∧ ofTwos 16 p.anchor ≤ 1023) else p.anchor == 0) &&
  field b (o + 50) 2 == 0 && (if p.op = opNorm then epsOk p.eps else p.eps == 0) &&
  (p.round || p.scalared || p.seedScalar == 0)

/-- Every step of an operation carries one CTRL, FMT_OUT and ANCHOR (R213). -/
def operationsAgree (ps : List PStep) : Bool :=
  ps.all fun p => ps.all fun q =>
    p.operation != q.operation || (p.ctrl == q.ctrl && p.fmtOut == q.fmtOut && p.anchor == q.anchor)

/-! ### Streams and arguments -/

def streamAt (b : List Byte) (o : Nat) : StreamEntry :=
  ⟨field b o 4, field b (o + 4) 4, field b (o + 8) 2, field b (o + 10) 2, field b (o + 12) 2⟩

def isInternal (ts : List Tensor) (i : Nat) : Bool := (ts[i]?).any fun t => t.role == roleInternal

def streamOk (ts : List Tensor) (ps : List PStep) (b : List Byte) (o : Nat) : Bool :=
  let t := streamAt b o
  isInternal ts t.tensor && field b (o + 14) 2 == 0 && (ps[t.producer]?).any (fun p => p.d == t.tensor) &&
  (t.peer != 0 || (ps[t.consumer]?).any fun p => p.a == t.tensor || p.b == t.tensor || p.c == t.tensor)

/-- Each writer of an INTERNAL tensor has a stream to each reader (R211). -/
def streamsCover (ts : List Tensor) (ps : List PStep) (ss : List StreamEntry) : Bool :=
  ps.zipIdx.all fun (p, i) => !isInternal ts p.d || ps.zipIdx.all fun (q, j) =>
    !(q.a == p.d || q.b == p.d || q.c == p.d) || ss.any fun t => t.producer == i && t.consumer == j && t.tensor == p.d && t.peer == 0

def argsOk (ts : List Tensor) (args : List Nat) : Bool :=
  let bound (i : Nat) : Bool := (ts[i]?).any fun t => t.role == roleInput || t.role == roleOutput
  args.all bound && (ts.zipIdx.all fun (_, i) => !bound i || args.contains i)

/-- Read an image of `len` bytes; none where it breaks R210 to R213 or a table of the section. -/
def readImage (b : List Byte) (len : Nat) : Option Image :=
  if !headerOk b len then none
  else
    let mapMode := field b 6 1 == 1
    let tune := field b 7 1
    let sets := (List.range (field b 12 2)).map fun i => field b (field b 28 4 + 4 * i) 4
    let ts := (List.range (field b 14 2)).filterMap fun i => tensorAt b (field b 32 4 + 32 * i)
    let at_ (i : Nat) : Nat := field b 36 4 + 64 * i
    let ps := (List.range (field b 16 4)).map fun i => stepAt b (at_ i)
    let ss := (List.range (field b 20 4)).map fun i => streamAt b (field b 40 4 + 16 * i)
    let args := (List.range (field b 24 2)).map fun i => field b (field b 44 4 + 2 * i) 2
    if ts.length == field b 14 2 && decide ((ts.filter fun t => t.role == roleEpoch).length ≤ 1) &&
        (List.range (field b 16 4)).all (fun i => stepOk mapMode tune sets.length (field b 26 2) ts b (at_ i)) &&
        operationsAgree ps && (List.range (field b 20 4)).all (fun i => streamOk ts ps b (field b 40 4 + 16 * i)) &&
        streamsCover ts ps ss && argsOk ts args then
      some ⟨mapMode, tune, sets, ts, ps, ss, args⟩
    else none

/-- Major version 3 and a minor version the module offers (Table 07-3). -/
def versionOk (b : List Byte) (minor : Nat) : Bool := field b 4 1 == 3 && decide (field b 5 1 ≤ minor)

end Sys2Proof.Machine
end

