-- ==== Sys2Proof/Machine/Programs.lean ====
section
/-! DEFINITION. Placing programs (R200 to R209): STEP_LOAD with its phases of Table 07-2, the choice of cores, pins, rings,
staging slots and stream counters, re-placement (R229), unloading, and STEP_RUN (R218, R300). -/

namespace Sys2Proof.Machine

open Sys2Proof

def rRoom : Nat := 0x30
def rCoreMap : Nat := 0x31
def rVersion : Nat := 0x32
def rHome : Nat := 0x33
def rDepth : Nat := 0x35
def rSlotEpoch : Nat := 0x36
def rImage : Nat := 0x37

/-! ### Slots and tallies -/

/-- Larder slots of a core (R202). -/
def larderSlots : Nat := 1512

/-- Payload and header of a larder slot (R202). -/
def slotPayload (core slot : Nat) : Nat :=
  larderBase core + slot / slotsPerGranule * mib2 + 4096 * (slot % slotsPerGranule)
def slotHeader (core slot : Nat) : Nat :=
  larderBase core + slot / slotsPerGranule * mib2 + 2064384 + 64 * (slot % slotsPerGranule)

/-- A tile in a placement slot: no segment, nothing charged. -/
def slotTile (opSlot core slot : Nat) : TileAt :=
  ⟨opSlot, 0, none, .mem (slotPayload core slot) none, .mem (slotHeader core slot) none⟩

/-- Operand slot of a tensor (R203). -/
def tensorSlot (t : Nat) : Nat := min t 15

/-- Is a slot of a core free for placement: in no claimed granule, in no program's use? -/
def slotFree (s : State) (n x : Nat) : Bool :=
  (claimants s n (x / slotsPerGranule)).isEmpty && !(slotsUsed s n).contains x

def freeSlots (s : State) (n : Nat) : List Nat :=
  let open_ := (List.range 3).filter fun k => (claimants s n k).isEmpty
  let used := slotsUsed s n
  (open_.flatMap fun k => (List.range slotsPerGranule).map (k * slotsPerGranule + ·)).filter fun x => !used.contains x

/-- May placement take a tally: granted to no partition, placed for no stream (R354, R393)? -/
def tallyFree (s : State) (die i : Nat) : Bool :=
  !taPlaced (tallyOf s die i).attr.toNat &&
  (List.range 16).all fun p => !(partOf s p).grants.any fun g => g.die == die && decide (g.first ≤ i) && decide (i < g.first + g.count)

/-- The lowest tally a test accepts, from `i` up. -/
def lowestTally (p : Nat → Bool) : Nat → Nat → Option Nat
  | 0, _ => none
  | u + 1, i => if p i then some i else lowestTally p u (i + 1)

/-- Are there `m` tallies from `i` up that a test accepts? -/
def talliesLeft (p : Nat → Bool) : Nat → Nat → Nat → Bool
  | _, _, 0 => true
  | 0, _, _ + 1 => false
  | u + 1, i, m + 1 => talliesLeft p u (i + 1) (if p i then m else m + 1)

/-! ### Counting and choosing (Table 07-2 phases 2 and 3) -/

/-- The pins a step needs on its core: tensor, tile, epoch slot (3 for a weight). -/
def pinsWanted (ts : List Tensor) (p : PStep) : List (Nat × Nat × Nat) :=
  (List.range 4).flatMap fun k =>
    match ts[p.tensorOf k]? with
    | none => []
    | some t =>
      let tiles := (p.tilesOf ts k).map (p.firstOf k + ·)
      if t.role = roleWeight ∧ t.placement = 0 then tiles.map fun i => (p.tensorOf k, i, 3)
      else if t.role = roleEpoch then [0, 1, 2].flatMap fun e => tiles.map fun i => (p.tensorOf k, i, e)
      else []

/-- Does a step read what its copy unit must fetch first: NEAR or WOVEN weights, or arguments (R221)? -/
def PStep.stages (p : PStep) (ts : List Tensor) : Bool :=
  [0, 1, 2].any fun k => match ts[p.tensorOf k]? with
    | none => false
    | some t => (t.role == roleWeight && t.placement != 0) || t.role == roleInput

/-- Table 07-4: the depth of a ring between cores; none for a producer not yet placed, or in another module's part. -/
def ringDepth (declared : Nat) (pc : Option Nat) (cc : Nat) : Nat :=
  max declared (match pc with
    | none => 4
    | some a => if a / 64 = cc / 64 then 2 else 4)

def dedup3 (l : List (Nat × Nat × Nat)) : List (Nat × Nat × Nat) :=
  l.foldl (fun r x => if r.contains x then r else r ++ [x]) []

/-- The streams that enter this module: each INTERNAL tensor that a step reads and no step here writes comes from another
module's part of the graph, whose image declares the stream (R217). Its module and its depth are free values. -/
def inboundOf (h : Nat) (img : Image) : List StreamEntry :=
  img.steps.zipIdx.flatMap fun (q, i) =>
    ([q.a, q.b, q.c].foldl setInsert []).filterMap fun t =>
      if isInternal img.tensors t ∧ !(img.steps.any fun p => p.d == t) then
        some ⟨0, i, t, (Config.inboundDepth h t).toNat, (Config.inboundPeer h t).toNat⟩
      else none

/-- Does a stream leave its producer's core? A consumer not placed yet may. -/
def leaves (cores : List Nat) (t : StreamEntry) : Bool := t.peer != 0 || cores[t.consumer]? != cores[t.producer]?

/-- The local output streams (R215): one for each step whose output leaves its core, as deep as the deepest stream it feeds. -/
def localsOf (img : Image) (cores : List Nat) : List (Nat × Nat) :=
  (List.range img.steps.length).filterMap fun i =>
    let l := img.streams.filter fun t => t.producer == i
    if l.any (leaves cores) then some (i, l.foldl (fun d t => max d t.depth) 2) else none

def stagesOn (img : Image) (cores : List Nat) (n : Nat) : Bool :=
  (img.steps.zip cores).any fun x => x.2 == n && PStep.stages x.1 img.tensors

/-- The slots that the steps assigned so far need on a core. -/
def wantedOn (h : Nat) (img : Image) (cores : List Nat) (n : Nat) : Nat :=
  let here := (img.steps.zip cores).filter fun x => x.2 == n
  (dedup3 (here.flatMap fun x => pinsWanted img.tensors x.1)).length +
  (img.streams.map fun t => if t.peer = 0 ∧ cores[t.consumer]? = some n then
    ringDepth t.depth cores[t.producer]? n else 0).sum +
  ((inboundOf h img).map fun t => if cores[t.consumer]? = some n then max 8 t.depth else 0).sum +
  ((localsOf img cores).map fun l => if cores[l.1]? = some n then l.2 else 0).sum +
  (if stagesOn img cores n then 32 else 0)

/-- The tallies that they need on a die: P on the consumer's, C on the producer's; both for a local or a staging stream. -/
def talliesOn (h : Nat) (img : Image) (cores : List Nat) (d : Nat) : Nat :=
  let on (i : Nat) : Nat := if (cores[i]?).any fun n => n / 64 == d then 1 else 0
  (img.streams.map fun t => on t.producer + (if t.peer = 0 then on t.consumer else 0)).sum +
  ((inboundOf h img).map fun t => on t.consumer).sum +
  ((localsOf img cores).map fun l => 2 * on l.1).sum +
  2 * ((cores.foldl setInsert []).filter fun n => n / 64 == d && stagesOn img cores n).length

/-- May a core take the next step: slots, a dispatcher entry, its die's tallies (R205)? -/
def coreTakes (s : State) (h ctx : Nat) (img : Image) (cores : List Nat) (n : Nat) : Bool :=
  decide (wantedOn h img (cores ++ [n]) n ≤ (freeSlots s n).length) &&
  ((coreOf s n).resident.contains ctx || decide ((coreOf s n).resident.length < 64)) &&
  talliesLeft (tallyFree s (n / 64)) (tallyCount (n / 64)) 0 (talliesOn h img (cores ++ [n]) (n / 64))

/-- The die whose near stacks hold the home of a NEAR tensor that a step reads. -/
def nearDie (s : State) (homes : List (Option Seg)) (ts : List Tensor) (p : PStep) : Option Nat :=
  [0, 1, 2].findSome? fun k => match ts[p.tensorOf k]?, homes.getD (p.tensorOf k) none with
    | some t, some g => if t.role = roleWeight ∧ g.cls = clsNear then some (g.base / (24 * (max 1 (nearK s)) * gib)) else none
    | _, _ => none

/-- Is the step bound to a die by a tensor declared NEAR (R200)? -/
def boundDie (s : State) (homes : List (Option Seg)) (ts : List Tensor) (p : PStep) : Option Nat :=
  if [0, 1, 2].any fun k => (ts[p.tensorOf k]?).any fun t => t.role == roleWeight && t.placement == 1 then
    nearDie s homes ts p else none

/-- AUTO (R205): each step goes to the first core with room, dies in ring order from the start die. -/
def autoCores (s : State) (h ctx : Nat) (img : Image) (homes : List (Option Seg)) (order : List Nat) :
    List PStep → List Nat → Option (List Nat)
  | [], cores => some cores
  | p :: r, cores =>
    let ok (n : Nat) : Bool := (match boundDie s homes img.tensors p with | none => true | some d => n / 64 == d) &&
      coreTakes s h ctx img cores n
    match order.find? ok with
    | none => none
    | some n => autoCores s h ctx img homes order r (cores ++ [n])

/-- Cores of a partition with the dies in ring order from `d`. -/
def ringOrder (d : Nat) (cores : List Nat) : List Nat :=
  (List.range 4).flatMap fun i => cores.filter fun n => n / 64 == (d + i) % 4

def chooseCores (s : State) (h ctx part : Nat) (img : Image) (homes : List (Option Seg)) : Except Nat (List Nat) :=
  let en := partCores s part
  if img.mapMode then
    match img.steps.mapM fun p => en[p.mapIx]? with
    | some l => .ok l
    | none => .error rCoreMap
  else
    let d := ((img.steps.head?).bind (nearDie s homes img.tensors)).getD ((en.head?.getD 0) / 64)
    match autoCores s h ctx img homes (ringOrder d en) img.steps [] with
    | some l => .ok l
    | none => .error rRoom

/-! ### Reserving (phase 4) -/

/-- A placement being built: slots taken, pins, the ring of each stream, of each local output stream and of each core's
staging. -/
structure Lay where
  used : List (Nat × Nat)
  pins : List Pin
  rings : List (List Nat)
  locals : List (List Nat)
  staging : List (Nat × List Nat)

/-- Take `k` slots of a core. -/
def Lay.take (l : Lay) (s : State) (n k : Nat) : Option (List Nat × Lay) :=
  if k = 0 then some ([], l)
  else
    let free := ((freeSlots s n).filter fun x => !l.used.contains (n, x)).take k
    if free.length < k then none else some (free, { l with used := l.used ++ free.map fun x => (n, x) })

def layPins (s : State) (img : Image) (cores : List Nat) (l : Lay) (n : Nat) : Option Lay :=
  let want := dedup3 (((img.steps.zip cores).filter fun x => x.2 == n).flatMap fun x => pinsWanted img.tensors x.1)
  match l.take s n want.length with
  | none => none
  | some (xs, l1) => some { l1 with pins := l1.pins ++ (want.zip xs).map fun ((t, i, e), x) => ⟨t, i, e, n, x⟩ }

def layRing (s : State) (cores : List Nat) (inbound : Bool) (l : Lay) (t : StreamEntry) : Option Lay :=
  let n := cores.getD t.consumer 0
  let deep := if inbound then max 8 t.depth else if t.peer ≠ 0 then 0 else ringDepth t.depth cores[t.producer]? n
  match l.take s n deep with
  | none => none
  | some (xs, l1) => some { l1 with rings := l1.rings ++ [xs] }

def layLocal (s : State) (cores : List Nat) (l : Lay) (x : Nat × Nat) : Option Lay :=
  match l.take s (cores.getD x.1 0) x.2 with
  | none => none
  | some (xs, l1) => some { l1 with locals := l1.locals ++ [xs] }

def layStaging (s : State) (img : Image) (cores : List Nat) (l : Lay) (n : Nat) : Option Lay :=
  if stagesOn img cores n then
    match l.take s n 32 with
    | none => none
    | some (xs, l1) => some { l1 with staging := l1.staging ++ [(n, xs)] }
  else some l

def coresUsed (cores : List Nat) : List Nat := cores.foldl setInsert []

def layOut (s : State) (h ctx : Nat) (img : Image) (cores : List Nat) : Option Lay :=
  let ns := coresUsed cores
  if ns.all fun n => (coreOf s n).resident.contains ctx || decide ((coreOf s n).resident.length < 64) then do
    let l1 ← ns.foldlM (layPins s img cores) ⟨[], [], [], [], []⟩
    let l2 ← img.streams.foldlM (layRing s cores false) l1
    let l3 ← (inboundOf h img).foldlM (layRing s cores true) l2
    let l4 ← (localsOf img cores).foldlM (layLocal s cores) l3
    ns.foldlM (layStaging s img cores) l4
  else none

/-- ATTR of a placed member of a counter pair (Table 13-12): mode 1 produced, 2 consumed; `exp` where another module adds to
it. -/
def memberAttr (mode exp pdie pidx n peer : Nat) : BitVec 64 :=
  BitVec.ofNat 64 (mode + exp * 4 + 128 + pdie * 2 ^ 13 + pidx * 2 ^ 16 + n * 2 ^ 32 + peer * 2 ^ 48)

/-- Take the lowest free tally of a die for a member whose partner is `pdie`, `pidx` of module `peer`. -/
def takeTally (die mode exp pdie pidx n peer : Nat) (s : State) : Option (State × Nat) :=
  (lowestTally (tallyFree s die) (tallyCount die) 0).map fun i =>
    (setTally die i { Tally.reset with attr := memberAttr mode exp pdie pidx n peer } s, i)

/-- Take both members of a pair: P on die `pd`, C on die `cd` (R214, R399). -/
def takePair (pd cd n : Nat) (s : State) : Option (State × Nat × Nat) := do
  let m := moduleId s
  let (s1, pi) ← takeTally pd 1 0 cd 0 n m s
  let (s2, ci) ← takeTally cd 2 0 pd pi n m s1
  pure (setTally pd pi { Tally.reset with attr := memberAttr 1 0 cd ci n m } s2, pi, ci)

/-- The counters of a stream: P on the consumer's die, C on the producer's (R214), as a pair of N (R399). Of a stream to
another module C is here; of one that enters this module, P. -/
def addStream (h : Nat) (cores : List Nat) (inbound : Bool) (x : State × List Stream) (t : StreamEntry × List Nat × Nat) :
    Option (State × List Stream) := do
  let (s, l) := x
  let (e, ring, j) := t
  let pd := cores.getD e.producer 0 / 64
  let cd := cores.getD e.consumer 0 / 64
  let k := Config.peerTally e.peer h j
  let kd := k / 65536 % 8
  let ki := k % 65536
  if inbound then
    let (s1, pi) ← takeTally cd 1 1 kd ki ring.length e.peer s
    pure (s1, l ++ [⟨e.producer, e.consumer, e.tensor, e.depth, ring.length, e.peer, true, ring, cd, pi, kd, ki, 0⟩])
  else if e.peer ≠ 0 then
    let n := max e.depth 8
    let (s1, ci) ← takeTally pd 2 1 kd ki n e.peer s
    pure (s1, l ++ [⟨e.producer, e.consumer, e.tensor, e.depth, n, e.peer, false, [], kd, ki, pd, ci, 0⟩])
  else
    let (s1, pi, ci) ← takePair cd pd ring.length s
    pure (s1, l ++ [⟨e.producer, e.consumer, e.tensor, e.depth, ring.length, 0, false, ring, cd, pi, pd, ci, 0⟩])

/-- A stream within one core: of the output of step `p` to the copy unit, or of the copy unit to its staging slots. -/
def addOwn (die p tensor : Nat) (ring : List Nat) (x : State × List Stream) : Option (State × List Stream) := do
  let (s1, pi, ci) ← takePair die die ring.length x.1
  pure (s1, x.2 ++ [⟨p, p, tensor, ring.length, ring.length, 0, false, ring, die, pi, die, ci, 0⟩])

/-- The streams of a program that has been laid out: those of its image, those that enter this module, the local output
streams, the staging streams. -/
def reserveStreams (h : Nat) (img : Image) (cores : List Nat) (l : Lay) (s : State) :
    Option (State × List Stream × List Stream × List Stream) := do
  let ents := (img.streams.map fun e => (e, false)) ++ ((inboundOf h img).map fun e => (e, true))
  let (s1, streams) ← (ents.zip l.rings).zipIdx.foldlM (fun x (t, j) => addStream h cores t.1.2 x (t.1.1, t.2, j)) (s, [])
  let (s2, locals) ← ((localsOf img cores).zip l.locals).foldlM (fun x (t, ring) =>
    addOwn (cores.getD t.1 0 / 64) t.1 (((img.steps[t.1]?).map (·.d)).getD 0) ring x) (s1, [])
  let (s3, staging) ← l.staging.foldlM (fun x t => addOwn (t.1 / 64) t.1 0xFFFF t.2 x) (s2, [])
  pure (s3, streams, locals, staging)

/-! ### Filling (phase 5) -/

/-- The tile of a tensor in its home. -/
def homeTile (s : State) (t : Nat) (tn : Tensor) (g : Seg) (i : Nat) : TileAt :=
  tileAt s (tensorSlot t) tn.home.seg.toNat g (tn.home.tile.toNat + i)

/-- Fill the weight pins from their homes (R203), charged to the stack allotment on the receiving core (R208). -/
def fillPins (ts : List Tensor) (homes : List (Option Seg)) : List Pin → Work → Work
  | [], w => w
  | p :: r, w =>
    if w.failed then w
    else if p.epochSlot ≠ 3 then fillPins ts homes r w
    else match ts[p.tensor]?, homes.getD p.tensor none with
      | some tn, some g =>
        fillPins ts homes r
          (Work.moveTile { w with core := p.core } (homeTile w.s p.tensor tn g p.tile) (slotTile (tensorSlot p.tensor) p.core p.slot))
      | _, _ => fillPins ts homes r w

/-! ### Checking (phase 1) -/

/-- The homes of the weight tensors: near or woven segments with read rights, of the class declared (R200). -/
def findHomes : List (Tensor × Nat) → Work → Work × List (Option Seg)
  | [], w => (w, [])
  | (t, i) :: r, w =>
    if w.failed then (w, [])
    else if t.role ≠ roleWeight then
      let (w1, l) := findHomes r w
      (w1, none :: l)
    else
      let (s1, d) := resolveDesc w.core w.ctx t.home.seg.toNat w.s
      let g := Seg.ofNat (ctxOf s1 w.ctx).part (d.getD 0)
      let cls := (match t.placement with | 1 => g.cls == clsNear | 2 => g.cls == clsWoven | _ => g.cls == clsNear || g.cls == clsWoven)
      let w1 := { w with s := s1 }.hold ⟨descKey (ctxOf s1 w.ctx).part w.ctx t.home.seg.toNat, d.getD 0⟩
      if d.isNone then (w1.stop (fWalk (tensorSlot i) t.home.seg.toNat (w.core / 64)), [])
      else if !g.valid || !bitAt g.rights 0 || !cls then (w1.stop (fParam rHome 0), [])
      else if g.tiles < t.home.tile.toNat + t.tiles then (w1.stop (fParam rHome 0), [])
      else
        let (w2, l) := findHomes r w1
        (w2, some g :: l)

/-- Has a core a set, loaded or on its way? -/
def setUsable (s : State) (core id : Nat) : Bool :=
  match setAt s core id none with
  | .absent => false
  | _ => true

/-- Is a set usable in a partition: on each of its cores (R143)? -/
def setUsableIn (s : State) (part id : Nat) : Bool := (partCores s part).all fun n => setUsable s n id

/-- The checks of an image once it has been read: sets and depth, and that peers have loaded their part (R143, R216, R217). -/
def imageFault (s : State) (part h : Nat) (img : Image) : Option Fail :=
  if img.streams.any fun t => decide (256 < t.depth) then some (fParam rDepth 0)
  else if !(img.sets.all (setUsableIn s part)) then some (fParam rSetAbsent 0)
  else if img.streams.any fun t => t.peer != 0 && ((peerGone s t.peer).isSome || !Config.peerLoaded t.peer h s.tick) then
    some (fParam rHome 0)
  else none

/-- Phases 2 to 4 for a checked image: the program with what it reserves, not runnable yet, or the failure. -/
def place (h ctx : Nat) (prog : Bref) (len : Nat) (img : Image) (homes : List (Option Seg)) (w : Work) : Work × Option Program :=
  let part := (ctxOf w.s ctx).part
  match chooseCores w.s h ctx part img homes with
  | .error r => (w.stop (fParam r 0), none)
  | .ok cores =>
    match layOut w.s h ctx img cores with
    | none => (w.stop (fParam rRoom 0), none)
    | some l =>
      match reserveStreams h img cores l w.s with
      | none => (w.stop (fParam rRoom 0), none)
      | some (s1, streams, locals, staging) =>
        let plain := !img.tensors.any fun t => t.role == roleEpoch
        let p : Program := {
          ctx := ctx, part := part, img := prog, len := len, runnable := false, loading := some w.c, unloading := none
          mapMode := img.mapMode, tuneMask := img.tune, sets := img.sets, tensors := img.tensors
          steps := (img.steps.zip cores).map fun x => { x.1 with core := x.2 }
          streams := streams, argTensors := img.args, pins := l.pins, locals := locals, staging := staging
          s0 := if plain then { Slot.empty with state := .current } else .empty
          s1 := .empty, s2 := .empty, commit := none, runs := [], nextRun := 0, anchors := [], refill := none }
        ({ w with s := setProg h (some p) ((coresUsed cores).foldl (fun s n => takeIn ctx n s) s1) }, some p)

/-- Phases 5 and 6: the pins are filled and the program becomes runnable; where a tile fails everything is released (R206),
and where the allotment is spent the load parks with what it has reserved (R208). -/
def fill (h : Nat) (p : Program) (homes : List (Option Seg)) (w : Work) : Work × Option Program :=
  let w1 := fillPins p.tensors homes p.pins { w with heard := [] }
  if w1.parked.isSome then (w1, none)
  else if w1.failed then (w1.upd (releaseProg h p), none)
  else (w1.upd (modProg h fun p => { p with runnable := true, loading := none, refill := none }), some p)

/-- The homes of a load that resumes, under the descriptors it resolved. -/
def heldHomes (s : State) (e : Cmd) (p : Program) : List (Option Seg) :=
  p.tensors.map fun t =>
    if t.role ≠ roleWeight then none
    else (lookup (descKey p.part p.ctx t.home.seg.toNat) e.descs).map fun d => Seg.ofNat (ctxOf s p.ctx).part d

/-- A program that could not be placed again after its partition's reset (R229). -/
def Program.lost (p : Program) : Bool := !p.runnable && p.loading.isNone && p.unloading.isNone && p.refill.isNone

/-- May a load of a partition take a handle: it names no program, or a lost one of the partition, loaded again (R229)? -/
def handleFree (s : State) (part h : Nat) : Bool := (progOf s h).all fun p => p.lost && p.part == part

def dropLost (h : Nat) (s : State) : State :=
  match progOf s h with
  | none => s
  | some p => if p.lost then releaseProg h p s else s

def loadWork (c : CmdRef) (handle : BitVec 16) (prog : Bref) (len : BitVec 32) (e : Cmd) (s : State) : Work × Nat :=
  let h := handle.toNat
  let n := len.toNat
  let used (x : Work × Option Program) : Work × Nat :=
    (x.1, (x.2.map fun p => (coresUsed (p.steps.map (·.core))).length).getD 0)
  match (progOf s h).bind fun p => if p.loading = some c then some p else none with
  | some p => used (fill h p (heldHomes s e p) (Work.start c e.core s))
  | none =>
  if h = 0 then ((Work.start c e.core s).stop (fParam rHandle 16), 0)
  else
    let (w1, g) := (Work.start c e.core s).bytesRef 10 prog n rtExec
    let (w2, b) := w1.bytes (fTile 10 .corrupt) 10 prog.seg.toNat g prog.off.toNat n
    if w2.failed then (w2, 0)
    else if !versionOk b 0 then (w2.stop (fParam rVersion 0), 0)
    else match readImage b n with
      | none => (w2.stop (fParam rImage 0), 0)
      | some img =>
        match imageFault w2.s (ctxOf w2.s w2.ctx).part h img with
        | some f => (w2.stop f, 0)
        | none =>
          let (w3, homes) := findHomes img.tensors.zipIdx w2
          if w3.failed then (w3, 0)
          else if !handleFree w3.s (ctxOf w3.s w3.ctx).part h then (w3.stop (fParam rHandle 0), 0)
          else
            match place h w3.ctx prog n img homes (w3.upd (dropLost h)) with
            | (w4, none) => (w4, 0)
            | (w4, some p) => used (fill h p homes w4)

/-- The placement at work, then its record: the detail is the number of cores used. -/
def loadBody (c : CmdRef) (handle : BitVec 16) (prog : Bref) (len : BitVec 32) (e : Cmd) (s : State) : State :=
  let (w, d) := loadWork c handle prog len e s
  w.finish d

def execStepLoad (c : CmdRef) (handle : BitVec 16) (prog : Bref) (len : BitVec 32) (s : State) : Ans :=
  .next (runCmd (.stepLoad c handle prog len) c true s (loadBody c handle prog len))

/-- STEP_LOAD with UNLOAD (R209). -/
def unloadBody (c : CmdRef) (h : Nat) (s : State) : State :=
  match progOf s h with
  | none => finishFail c (fParam rHandle 0) s
  | some p =>
    if p.loading.isSome ∨ p.unloading.isSome ∨ p.part ≠ (ctxOf s c.ctx.toNat).part then finishFail c (fParam rHandle 0) s
    else startUnload h c s

def execStepUnload (c : CmdRef) (handle : BitVec 16) (s : State) : Ans :=
  .next (runCmd (.stepUnload c handle) c false s fun _ s => unloadBody c handle.toNat s)

/-! ### Re-placement (R229) -/

/-- The image a placed program came from. -/
def Program.image (p : Program) : Image :=
  ⟨p.mapMode, p.tuneMask, p.sets, p.tensors, p.steps, (p.streams.filter fun t => !t.inbound).map fun t => ⟨t.producer, t.consumer, t.tensor, t.declared, t.peer⟩,
    p.argTensors⟩

/-- Write one pin of an epoch slot from its source tile, with the slot's epoch number (R203, R292). -/
def Work.stagePin (epoch : Nat) (src dst : TileAt) (w : Work) : Work :=
  let (w1, t) := (w.pay false src).loadAt src.slot src.seg src.payload src.header fun _ => true
  match t with
  | none => w1
  | some (_, t) => w1.storeAt dst.slot dst.seg dst.payload dst.header { t.hdr with epoch := epoch } t.payload

/-- Write the pins of one epoch slot from tiles `src` on of the command's context. -/
def stagePins (k epoch : Nat) (src : Tref) (g : Seg) : List Pin → Work → Work
  | [], w => w
  | p :: r, w =>
    if w.failed then w
    else if p.epochSlot ≠ k then stagePins k epoch src g r w
    else
      let from_ := tileAt w.s 0 src.seg.toNat g (src.tile.toNat + p.tile)
      stagePins k epoch src g r (Work.stagePin epoch from_ (slotTile 8 p.core p.slot) { w with core := p.core })

/-- Stage an epoch slot again from the source it was staged from (R324). -/
def restage (old : Program) (pins : List Pin) (k : Nat) (w : Work) : Work :=
  match (old.slot k).src with
  | none => w
  | some (ctx, src) =>
    let wc := { w with c := { w.c with ctx := BitVec.ofNat 32 ctx } }
    let (w1, g) := wc.tilesRef 0 src src.tile.toNat rtRead
    stagePins k (old.slot k).epoch src g pins w1

/-- The slots a re-placement restores: a slot named by a commit that ended is staged again. -/
def Slot.restored (t : Slot) : Slot :=
  match t.state with
  | .staging | .empty => .empty
  | .pending => { t with state := .staged, pins := [] }
  | _ => { t with pins := [] }

/-- The command a re-placement works as: the Reeve's own, of the context that loaded the program. -/
def Program.reeveCmd (p : Program) : CmdRef := ⟨0, 0, BitVec.ofNat 32 p.ctx⟩

def replaceWork (p : Program) (log : List Heard) (s : State) : Work :=
  { Work.start p.reeveCmd (((partCores s p.part).head?).getD 0) s with log := log }

/-- A program that could not be placed again: it holds its handle, not runnable, and the ledger has the handle with the reason
(R229). Its context stays parked in that none of its steps is issued; software may unload it or load it again. -/
def loseProg (h : Nat) (p : Program) (f : Option Fail) (s : State) : State :=
  let reason := (f.map fun f => f.2 % 256).getD rRoom
  let s1 := match progOf s h with | some q => releaseProg h q s | none => s
  ledger 0x0408 4 (domPart * 4096 + p.part) 0 (ledgerData [(0, 2, h), (2, 1, reason), (4, 4, p.ctx)])
    (setProg h (some { p with
      runnable := false, loading := none, refill := none, pins := [], streams := [], locals := [], staging := [], runs := []
      commit := none }) s1)

/-- Fill a re-placed program from what it has had so far; where the allotment is spent it goes on at the bell (R208), and then
its epoch slots are staged again (R324). -/
def refillFrom (h : Nat) (log : List Heard) (s : State) : State :=
  match progOf s h with
  | none => s
  | some p =>
    let (w1, homes) := findHomes p.tensors.zipIdx (replaceWork p log s)
    if w1.failed then loseProg h p w1.fail w1.s
    else match fill h p homes w1 with
      | (w2, some _) => ([0, 1, 2].foldl (fun w k => restage p p.pins k w) { w2 with parks := false }).s
      | (w2, none) =>
        if w2.parked.isSome then modProg h (fun q => { q with refill := some w2.heard.reverse }) w2.s
        else loseProg h p w2.fail w2.s

/-- Place again a program that has been released; one that does not fit is lost. -/
def placeOld (h : Nat) (old : Program) (s : State) : State :=
  let (w1, homes) := findHomes old.tensors.zipIdx (replaceWork old [] s)
  if w1.failed then loseProg h old w1.fail w1.s
  else match place h old.ctx old.img old.len old.image homes w1 with
    | (w2, none) => loseProg h old w2.fail w2.s
    | (w2, some _) => refillFrom h [] (modProg h (fun p => { p with
        loading := none, refill := some [], s0 := old.s0.restored, s1 := old.s1.restored, s2 := old.s2.restored }) w2.s)

/-- The re-placements whose fills have parked go on (R208, R229). -/
def refillAll (s : State) : State :=
  s.progs.foldl (fun s e => match (progOf s e.1).bind (·.refill) with
    | some log => refillFrom e.1 log s
    | none => s) s

/-- Re-place the programs of a partition after its reset (R229): all are released, then each is placed afresh. -/
def replaceAll (part : Nat) (s : State) : State :=
  let olds := s.progs.filterMap fun e => e.2.bind fun p => if p.part = part ∧ p.loading = none then some (e.1, p) else none
  let s1 := olds.foldl (fun s e => releaseProg e.1 e.2 s) s
  olds.foldl (fun s e => placeOld e.1 e.2 s) s1

/-! ### STEP_RUN (R218, R300) -/

/-- The current slot of a handle. -/
def Program.current (p : Program) : Option Nat :=
  [0, 1, 2].find? fun k => (p.slot k).state == .current

/-- Does a slot hold pins (R323)? -/
def Slot.holds (t : Slot) : Bool :=
  match t.state with
  | .staged | .pending | .current | .former => true
  | _ => false

/-- Read the ARGS entries (R300): none for a broken one. -/
def Work.args (w : Work) (r : Bref) (g : Seg) : Nat → Nat → Work × List Tref
  | 0, _ => (w, [])
  | n + 1, i =>
    let (w1, t) := w.word 10 r.seg.toNat g (r.off.toNat + 8 * i)
    if w1.failed then (w1, [])
    else if t / 2 ^ 48 ≠ 0 then (w1.stop (fParam 0x01 0), [])
    else
      let (w2, l) := w1.args r g n (i + 1)
      (w2, ⟨BitVec.ofNat 44 (t / 16), BitVec.ofNat 4 t⟩ :: l)

/-- Does a step add into a tensor in place (Table 07-22)? -/
def Program.addsInto (p : Program) (t : Nat) : Bool := p.steps.any fun q => q.eop == some .vacc && q.d == t

/-- Check that each bound tensor lies in its segment, with the right its role needs; one that VACC adds into is read too. -/
def Work.bind (w : Work) (p : Program) : List (Nat × Tref) → Work
  | [] => w
  | (t, r) :: rest =>
    if w.failed then w
    else match p.tensors[t]? with
      | none => w.bind p rest
      | some tn =>
        let (w1, g) := w.tilesRef (tensorSlot t) r (r.tile.toNat + tn.tiles - 1) (if tn.role ≠ roleOutput then rtRead else if p.addsInto t then rtRead + rtWrite else rtWrite)
        Work.bind (w1.allotSeg g) p rest

/-- The descriptors of a run, as its cores hold them now (R297): its arguments under its own context, the homes under
the program's. -/
def captureDescs (s : State) (p : Program) (ctx : Nat) (args : List Tref) : List CachedDesc :=
  let one (x seg : Nat) : CachedDesc :=
    let k := descKey (ctxOf s x).part x seg
    ⟨k, ((lookup k (poolOf s 0 k)).orElse fun _ => descMem s x seg).getD 0⟩
  args.map (fun r => one ctx r.seg.toNat) ++
  p.tensors.filterMap fun t => if t.role = roleWeight then some (one p.ctx t.home.seg.toNat) else none

/-- Does a step charge engine time? -/
def PStep.charges (p : PStep) : Bool := p.op != opCopy && p.op != opZero

def runWork (c : CmdRef) (p : RunP) (pr : Program) (e : Cmd) (s : State) : Work × List Tref :=
  let n := p.argCount.toNat
  let (w1, g) := if n = 0 then (Work.start c e.core s, Seg.ofNat 0 0)
    else (Work.start c e.core s).bytesRef 10 p.args (8 * n) rtRead
  let (w2, args) := w1.args p.args g n 0
  (if pr.steps.any PStep.charges then (w2.bind pr (pr.argTensors.zip args)).allot 1 1
    else w2.bind pr (pr.argTensors.zip args), args)

/-- The run begins: its record, with the now page and the descriptors it keeps, and its context resident on the program's
cores where their dispatchers have room; elsewhere it stays parked until they have (R171). -/
def beginRun (c : CmdRef) (h k : Nat) (pr : Program) (args : List Tref) (now : Nat) (s : State) : State :=
  let x := c.ctx.toNat
  let r : Run := ⟨pr.nextRun, x, k, args, c, now, captureDescs s pr x args, [], [], [], [], [], [], [], false, none⟩
  let s1 := putCmd { cmdOf s c with heard := [], descs := [] }
    (setProg h (some { pr with runs := pr.runs ++ [r], nextRun := pr.nextRun + 1 }) s)
  (coresUsed (pr.steps.map (·.core))).foldl (fun s n => takeIn x n s) s1

/-- The checks of STEP_RUN on the program and its slot: the failure, or the slot the run takes. -/
def runSlot (s : State) (c : CmdRef) (p : RunP) (pr : Program) : Except Fail Nat :=
  if !pr.runnable || pr.part != (ctxOf s c.ctx.toNat).part then .error (fParam rHandle 0)
  else if 2 < p.slot.toNat ∧ p.slot.toNat ≠ 0xFF then .error (fParam 0x11 18)
  else match (if p.slot.toNat = 0xFF then pr.current else some p.slot.toNat) with
    | none => .error (fParam rSlotEpoch 0)
    | some k =>
      if !(pr.slot k).holds then .error (fParam rSlotEpoch 0)
      else if p.argCount.toNat ≠ pr.argTensors.length then .error (fParam 0x02 26)
      else if !pr.sets.all (setUsableIn s pr.part) then .error (fParam rSetAbsent 0)
      else .ok k

def runBody (c : CmdRef) (p : RunP) (e : Cmd) (s : State) : State :=
  match progOf s p.handle.toNat with
  | none => finishFail c (fParam rHandle 0) s
  | some pr =>
    match runSlot s c p pr with
    | .error f => finishFail c f s
    | .ok k =>
      let (w, args) := runWork c p pr e s
      if w.failed then w.finish 0 else beginRun c p.handle.toNat k pr args (ctxOf s c.ctx.toNat).now w.s

def execStepRun (c : CmdRef) (p : RunP) (s : State) : Ans :=
  .next (runCmd (.stepRun c p) c true s (runBody c p))

end Sys2Proof.Machine
end

