-- ==== Sys2Proof/Machine/Epochs.lean ====
section
/-! DEFINITION. Epoch slots (R292 to R294, R322 to R330): staging, commits within a module and across a parish with the
messages of Table 10-5, pins. The switch itself is the bell's (Bell.lean). -/

namespace Sys2Proof.Machine

open Sys2Proof

def rSlot : Nat := 0x11

/-- ST_EPOCH_STALE with its slot. -/
def fStale (slot : Nat) : Fail := (Status.epochStale.code, slot % 4)

/-- The epoch-carried tensor of a program. -/
def Program.epochTensor (p : Program) : Option Tensor := p.tensors.find? fun t => t.role == roleEpoch

/-- Pins on a slot: runs and EPOCH_PIN together. -/
def Program.pinCount (p : Program) (k : Nat) : Nat :=
  (p.runs.filter fun r => r.slot == k).length + ((p.slot k).pins.map (·.2)).sum

def modSlot (h k : Nat) (f : Slot → Slot) (s : State) : State := modProg h (fun p => p.setSlot k (f (p.slot k))) s

/-- A program that a command of a context may name. -/
def handleOf (s : State) (c : CmdRef) (h : Nat) : Option Program :=
  (progOf s h).bind fun p => if p.runnable && p.part == (ctxOf s c.ctx.toNat).part then some p else none

/-! ### EPOCH_STAGE -/

/-- The checks of EPOCH_STAGE on the program and the slot. -/
def stageFault (c : CmdRef) (p : StageP) (s : State) : Option Fail :=
  match handleOf s c p.handle.toNat with
  | none => some (fParam rHandle 0)
  | some pr =>
    let k := p.slot.toNat
    let others := [0, 1, 2].any fun j => j != k && (pr.slot j).state != .empty && (pr.slot j).epoch == p.epoch.toNat
    let st := (pr.slot k).state
    if 2 < k then some (fParam rSlot 18)
    else if (pr.epochTensor.map (·.tiles)) ≠ some p.tiles.toNat then some (fParam rRange 32)
    else if others then some (fParam rRange 28)
    else if st == .current || st == .pending || st == .staging || pr.pinCount k != 0 then some (fParam rSlot 0)
    else none

/-- The source checked, every pin of the slot written; the slot is STAGED, or EMPTY where that failed, and STAGING while the
command is parked. -/
def stageWork (c : CmdRef) (p : StageP) (e : Cmd) (s : State) : Work :=
  let k := p.slot.toNat
  let put (t : Slot) (w : Work) : Work := w.upd (modSlot p.handle.toNat k fun _ => t)
  let (w1, g) := (Work.start c e.core s).tilesRef 0 p.src (p.src.tile.toNat + p.tiles.toNat - 1) rtRead
  if w1.failed then w1
  else
    let w2 := stagePins k p.epoch.toNat p.src g (((progOf s p.handle.toNat).map (·.pins)).getD []) w1
    if w2.parked.isSome then put { (((progOf s p.handle.toNat).map (Program.slot · k)).getD .empty) with state := .staging } w2
    else (put (if w2.failed then .empty else ⟨.staged, p.epoch.toNat, some (c.ctx.toNat, p.src), []⟩) w2).upd (castVote p.handle.toNat)

def stageBody (c : CmdRef) (p : StageP) (e : Cmd) (s : State) : State :=
  match (if e.descs.isEmpty then stageFault c p s else if (progOf s p.handle.toNat).isNone then some (fParam rHandle 0) else none) with
  | some f => finishFail c f s
  | none => (stageWork c p e s).finish 0

def execEpochStage (c : CmdRef) (p : StageP) (s : State) : Ans :=
  .next (runCmd (.epochStage c p) c true s (stageBody c p))

/-! ### Commits (R326 to R329) -/

/-- The first bell whose edge lies at least 20 µs ahead (R326). -/
def firstBell (s : State) : Nat := bellNow s + (if subnsNow s + 20000 ≤ periodNs s then 1 else 2)

/-- The link timeout in force, in ns (R481). -/
def linkTmoNs (s : State) : Nat := linkTmo s * 1000

/-- The first bell, `b` or later, whose deadline lies ahead (R327, R328). -/
def deadlineBell (s : State) (b : Nat) : Nat := max b (bellNow s + (subnsNow s + linkTmoNs s) / periodNs s + 1)

/-- The coordinator has every vote: b′ is fixed, DECIDE goes out, and each postponement is counted and recorded (R328). -/
def notePostpones (h : Nat) : Nat → Nat → State → State
  | 0, _, s => s
  | n + 1, b, s => notePostpones h n (b + 1)
      (ledger 0x0502 0 0 0 (ledgerData [(0, 2, h), (8, 8, b + 1)])
        (incF EPOCH_POSTPONES EPOCH_POSTPONES_EPOCH_POSTPONES 1 s))

def decideCommit (h : Nat) (s : State) : State :=
  match (progOf s h).bind fun p => p.commit.map fun m => (p, m) with
  | none => s
  | some (p, m) =>
    let b := deadlineBell s m.target
    let s1 := notePostpones h (b - m.target) m.target s
    let s2 := modProg h (fun p => { p with commit := some { m with target := b, decided := true, waiting := [] } }) s1
    p.peers.foldl (fun s x => sendEpoch x 2 [h, b] s) s2

/-- Is the bell LOCKED or in HOLDOVER? -/
def bellSteady (s : State) : Bool :=
  let t := getF s BELL_SYNC BELL_SYNC_STATE
  t == 2 || t == 3

def commitBody (c : CmdRef) (h k bell : Nat) (parish : Bool) (s : State) : State :=
  match handleOf s c h with
  | none => finishFail c (fParam rHandle 0) s
  | some p =>
    let t := p.slot k
    if 2 < k then finishFail c (fParam rSlot 18) s
    else if p.commit.isSome ∨ (parish ∧ !bellSteady s) then finishFail c (fParam rState 0) s
    else if t.state ≠ .staged ∧ t.state ≠ .former then finishFail c (fStale k) s
    else if !parish then
      modProg h (fun p => { p.setSlot k { t with state := .pending } with
        commit := some ⟨k, max bell (firstBell s), bell, t.state, false, moduleId s, [], true, t.epoch, some c⟩ }) s
    else match p.peers.findSome? (peerGone s) with
      | some f => finishFail c f s
      | none =>
        let s1 := modProg h (fun p => { p.setSlot k { t with state := .pending } with
          commit := some ⟨k, max bell (bellNow s + 1), bell, t.state, true, moduleId s, p.peers, false, t.epoch, some c⟩ }) s
        let s2 := p.peers.foldl (fun s x =>
          sendEpoch x 0 [h, k, t.epoch, bell, getF s BELL_CTL_LIVE BELL_CTL_PERIOD] s) s1
        if p.peers.isEmpty then decideCommit h s2 else s2

def execEpochCommit (c : CmdRef) (handle : BitVec 16) (slot : BitVec 8) (bell : BitVec 64) (s : State) : Ans :=
  .next (runCmd (.epochCommit c handle slot bell) c false s fun _ s =>
    commitBody c handle.toNat slot.toNat bell.toNat false s)

def execEpochCommitParish (c : CmdRef) (handle : BitVec 16) (slot : BitVec 8) (bell : BitVec 64) (s : State) : Ans :=
  .next (runCmd (.epochCommitParish c handle slot bell) c false s fun _ s =>
    commitBody c handle.toNat slot.toNat bell.toNat true s)

/-! ### The parish messages -/

/-- What a participant votes on a PREPARE at once: none where it votes YES, now or once its stage has ended (R327, R329). -/
def voteNo (s : State) (p : Option Program) (k epoch period : Nat) : Option VoteKind :=
  if !bellSteady s ∨ period ≠ getF s BELL_CTL_LIVE BELL_CTL_PERIOD then some .busy
  else match p with
    | none => some .stale
    | some p =>
      let t := p.slot k
      if t.state == .staging then none
      else if t.state == .empty || t.state == .current || t.epoch != epoch then some .stale else none

def voteNum : VoteKind → Nat | .yes => 0 | .stale => 1 | .busy => 2

/-- A commit that this module already takes part in meets the PREPARE of another: the lower module ID goes on, and a vote held for
the higher is BUSY (R329). One that is decided switches first (log 147). -/
def meetCommit (h src : Nat) (s : State) : State × Bool :=
  match (progOf s h).bind (·.commit) with
  | none => (s, true)
  | some m =>
    if m.coordinator = src then (endCommit h s, true)
    else if m.coordinator < src ∨ m.decided then (s, false)
    else if m.coordinator = moduleId s then (failCommit h (fParam rState 0) s, true)
    else (endCommit h (if m.voteHeld then sendEpoch m.coordinator 1 [h, voteNum .busy] s else s), true)

/-- PREPARE reaches a participant (R327, R329). -/
def prepared (src h k epoch bell period : Nat) (s : State) : State :=
  let reply (v : VoteKind) (s : State) : State := sendEpoch src 1 [h, voteNum v] s
  let (s1, go) := meetCommit h src s
  if !go then reply .busy s1
  else match voteNo s1 (progOf s1 h) k epoch period with
    | some v => reply v s1
    | none =>
      let part (p : Program) : Program := { p with
        commit := some ⟨k, bell, bell, (p.slot k).state, true, src, [], false, epoch, none⟩ }
      if (progOf s1 h).any fun p => (p.slot k).state == .staging then modProg h part s1
      else reply .yes (modProg h (fun p => part (p.setSlot k { p.slot k with state := .pending })) s1)

/-- A VOTE reaches the coordinator (R327 to R329). -/
def voted (src h : Nat) (kind : VoteKind) (s : State) : State :=
  match (progOf s h).bind (·.commit) with
  | none => s
  | some m =>
    if !m.parish || m.coordinator != moduleId s || m.decided || !m.waiting.contains src then s
    else match kind with
      | .stale => failCommit h (fStale m.slot) s
      | .busy => failCommit h (fParam rState 0) s
      | .yes =>
        let left := m.waiting.filter (· != src)
        let s1 := modProg h (fun p => { p with commit := some { m with waiting := left } }) s
        if left.isEmpty then decideCommit h s1 else s1

/-- DECIDE reaches a participant (R328). -/
def decided (h bell : Nat) (s : State) : State :=
  modProg h (fun p => match p.commit with
    | some m => if m.parish then { p with commit := some { m with target := bell, decided := true } } else p
    | none => p) s

/-- ABORT reaches a participant (R329). -/
def aborted (h : Nat) (s : State) : State :=
  match (progOf s h).bind (·.commit) with
  | some m => if m.parish && m.coordinator != moduleId s && !m.decided then endCommit h s else s
  | none => s

/-- The deadline of the target passes with a vote missing: the next bell is the target (R327, R328). -/
def execCommitDeadline (handle : BitVec 16) (s : State) : Ans :=
  let h := handle.toNat
  .next (match (progOf s h).bind (·.commit) with
    | some m =>
      if m.parish && m.coordinator == moduleId s && !m.decided then
        notePostpones h 1 m.target (modProg h (fun p => { p with commit := some { m with target := m.target + 1 } }) s)
      else s
    | none => s)

/-- A participant is declared lost before it has voted (R329). -/
def commitsLost (m : Nat) (s : State) : State :=
  s.progs.foldl (fun s e => match (progOf s e.1).bind (·.commit) with
    | some x => if x.parish && x.coordinator == moduleId s && !x.decided && x.waiting.contains m then failCommit e.1 (fPeer m) s else s
    | none => s) s

/-- The slot of a commit becomes CURRENT, the old current slot FORMER. -/
def Program.switch (p : Program) (k : Nat) : Program :=
  let old (j : Nat) (p : Program) : Program :=
    if (p.slot j).state == .current then p.setSlot j { p.slot j with state := .former } else p
  let p1 := old 2 (old 1 (old 0 p))
  { p1.setSlot k { p1.slot k with state := .current } with commit := none }

/-- This module rejoins the parish of a coordinator that had lost it: it takes the coordinator's current slot (R330). -/
def rejoin (m : Nat) (s : State) : State :=
  s.progs.foldl (fun s e => match (progOf s e.1).bind (·.commit) with
    | some x =>
      if !x.parish || x.coordinator != m || x.coordinator == moduleId s || x.voteHeld || x.decided then s
      else if Config.rejoinSwitched m e.1 s.tick then modProg e.1 (·.switch x.slot) (advance s) else endCommit e.1 (advance s)
    | none => s) s

/-- The switch of a handle at an edge whose count is `b` (R326, R328): the pending slot becomes CURRENT, the old current
slot FORMER, and the coordinator's command completes. -/
def switchAt (b h : Nat) (s : State) : State :=
  match (progOf s h).bind fun p => p.commit.map fun m => (p, m) with
  | none => s
  | some (p, m) =>
    if !m.decided || b < m.target then s
    else
      let s1 := setProg h (some (p.switch m.slot)) s
      match m.cmd with
      | none => s1
      | some c => if b = m.wanted then finish c .ok 0 s1 else finish c .epochPostponed (b % 65536) s1

def switchEpochs (b : Nat) (s : State) : State := s.progs.foldl (fun s e => switchAt b e.1 s) s

/-! ### Pins (R294) -/

def pinBody (c : CmdRef) (h k : Nat) (s : State) : State :=
  match handleOf s c h with
  | none => finishFail c (fParam rHandle 0) s
  | some p =>
    let x := c.ctx.toNat
    if 2 < k ∧ k ≠ 0xFF then finishFail c (fParam rSlot 18) s
    else match (if k = 0xFF then p.current else some k) with
      | none => finishFail c (fStale 3) s
      | some k =>
        let held := ([0, 1, 2].map fun j => (p.slot j).pinsOf x).sum
        if !(p.slot k).holds then finishFail c (fStale k) s
        else if 255 ≤ held then finishFail c (fParam rRange 0) s
        else finish c .ok k (modSlot h k (fun t => t.setPins x (t.pinsOf x + 1)) s)

def execEpochPin (c : CmdRef) (handle : BitVec 16) (slot : BitVec 8) (s : State) : Ans :=
  .next (runCmd (.epochPin c handle slot) c false s fun _ s => pinBody c handle.toNat slot.toNat s)

def unpinBody (c : CmdRef) (h k : Nat) (s : State) : State :=
  match handleOf s c h with
  | none => finishFail c (fParam rHandle 0) s
  | some p =>
    let x := c.ctx.toNat
    if 2 < k then finishFail c (fParam rSlot 18) s
    else if !(p.slot k).holds then finishFail c (fStale k) s
    else if (p.slot k).pinsOf x = 0 then finishFail c (fParam rSlot 0) s
    else finish c .ok k (modSlot h k (fun t => t.setPins x (t.pinsOf x - 1)) s)

def execEpochUnpin (c : CmdRef) (handle : BitVec 16) (slot : BitVec 8) (s : State) : Ans :=
  .next (runCmd (.epochUnpin c handle slot) c false s fun _ s => unpinBody c handle.toNat slot.toNat s)

end Sys2Proof.Machine
end

