-- ==== Sys2Proof/Machine/StepOps.lean ====
section
/-! DEFINITION. Placed steps as their cores run them (R171 to R175, R212 to R221): where a step's operands lie, its units
of work, when a unit is ready, what it does, and how streams advance. A unit is one step of a chain, one output tile, or
one grid row. -/

namespace Sys2Proof.Machine

open Sys2Proof

/-- A step of a run of a program. -/
structure At where
  h : Nat
  pr : Program
  r : Run
  i : Nat
  p : PStep

def atOf (s : State) (h r i : Nat) : Option At :=
  (progOf s h).bind fun pr => (runOf pr r).bind fun x => (pr.step? i).map fun p => ⟨h, pr, x, i, p⟩

def At.ts (a : At) : List Tensor := a.pr.tensors
def At.tensor (a : At) (k : Nat) : Option Tensor := a.ts[a.p.tensorOf k]?
def At.done (a : At) : Nat := Assoc.get (fun _ => 0) a.r.progress a.i

/-- Change the run of a step. -/
def modRun (h r : Nat) (f : Run → Run) (s : State) : State :=
  modProg h (fun p => match runOf p r with | some x => putRun p (f x) | none => p) s

/-! ### Units -/

def gridCols (ts : List Tensor) (i : Nat) : Nat := ((ts[i]?).map (·.gridCols)).getD 1

def PStep.units (p : PStep) : Nat :=
  if p.isMatmul then p.dim0 * p.dim2 * p.dim1
  else if p.op = opSoftmax ∨ p.op = opNorm then p.dim0 * p.dim1
  else p.dim0

def PStep.bpb (p : PStep) (ts : List Tensor) : Nat := ((ts[p.b]?).map blockTiles).getD 1

/-- The weight tiles of block (kk, j) that a step of a chain reads (R68). -/
def PStep.blockTiles (p : PStep) (ts : List Tensor) (kk j : Nat) : List Nat :=
  let first := kk * gridCols ts p.b + j * p.bpb ts
  let two := p.bpb ts == 2 && decide (p.firstB % gridCols ts p.b + 2 * j + 1 < gridCols ts p.b) &&
    ((ts[p.b]?).map (·.cols)) == some 32
  if two then [first, first + 1] else [first]

/-- The tiles of operand A, B or C (0 to 2) that unit `u` reads, relative to FIRST. -/
def PStep.unitTiles (p : PStep) (ts : List Tensor) (u k : Nat) : List Nat :=
  let (ua, ub, uc, _) := p.uses
  if p.isMatmul then
    let b := u / p.dim1
    let kk := u % p.dim1
    match k with
    | 0 => [b / p.dim2 * gridCols ts p.a + kk]
    | 1 => p.blockTiles ts kk (b % p.dim2)
    | _ => if uc && kk == 0 then (List.range 16).map fun t => b / p.dim2 * gridCols ts p.c + b % p.dim2 * 16 + t else []
  else if p.op = opReduce then
    if k = 0 then (List.range p.dim1).map fun i => i * p.dim2 + u else []
  else if p.isRow then
    match k with
    | 0 => (List.range p.dim1).map fun j => (if p.op = opRowstat then u else u / p.dim1) * gridCols ts p.a + j
    | 2 => p.tilesOf ts 2
    | _ => []
  else
    match k with
    | 0 => if ua then [u] else []
    | 1 => if ub then [u] else []
    | _ => if uc then [u] else []

/-! ### Streams (R214 to R217) -/

/-- A stream of the program with its number. -/
abbrev Numbered := Stream × Nat

/-- Tiles a stream carries in one run: those its producer writes, or, for one that enters this module, those its consumer
reads. -/
def Program.perRun (pr : Program) (t : Stream) : Nat :=
  if t.inbound then
    match pr.step? t.consumer with
    | some p => ([0, 1, 2].flatMap fun k => if p.tensorOf k = t.tensor then (p.tilesOf pr.tensors k).map (· + 1) else []).foldl max 0
    | none => 0
  else match pr.step? t.producer with
    | some p => (p.tilesOf pr.tensors 3).length
    | none => 0

/-- The streams that bring an INTERNAL tensor to the step. -/
def At.inStreams (a : At) (tensor : Nat) : List Numbered :=
  a.pr.streams.zipIdx.filter fun x => x.1.consumer == a.i && x.1.tensor == tensor && (x.1.peer == 0 || x.1.inbound)

/-- The stream that brings tile `x` of operand `k`, and which of the stream's tiles in the run it is. Where several steps write
the tensor, each is a stream's producer (R211), and the tile comes from the one whose part of D holds it. -/
def At.inStream (a : At) (k x : Nat) : Option (Numbered × Nat) :=
  match a.inStreams (a.p.tensorOf k) with
  | [] => none
  | [q] => some (q, x)
  | l =>
    let i := a.p.firstOf k + x
    l.findSome? fun q => (a.pr.step? q.1.producer).bind fun p =>
      if p.firstD ≤ i ∧ i < p.firstD + a.pr.perRun q.1 then some (q, i - p.firstD) else none

/-- Does unit `u` read tile `y` of a stream? -/
def At.reads (a : At) (q : Numbered) (y u : Nat) : Bool :=
  [0, 1, 2].any fun k => a.p.tensorOf k == q.1.tensor && (a.p.unitTiles a.ts u k).any fun x => a.inStream k x == some (q, y)

/-- The leading tiles of a stream's that no unit from `u` on reads. -/
def At.released (a : At) (q : Numbered) (u : Nat) : Nat :=
  let n := a.pr.perRun q.1
  ((List.range n).find? fun y => (List.range (a.p.units - u)).any fun v => a.reads q y (u + v)).getD n

def stepCore (pr : Program) (i : Nat) : Nat := ((pr.step? i).map (·.core)).getD 0

/-- Does the producer write a stream's ring itself? It has no local output stream then: every step that reads its output is on
its own core (R64, R215). -/
def direct (pr : Program) (t : Stream) : Bool := !(pr.locals.any fun l => l.producer == t.producer && l.tensor == t.tensor)

/-- The streams a step's output feeds. -/
def outOf (pr : Program) (i tensor : Nat) : List Numbered :=
  pr.streams.zipIdx.filter fun x => x.1.producer == i && x.1.tensor == tensor && !x.1.inbound

def At.outDirect (a : At) : List Numbered := (outOf a.pr a.i a.p.d).filter fun x => direct a.pr x.1
/-- The local output stream of a step, which its core's copy unit empties. -/
def At.outLocal (a : At) : List Numbered := a.pr.locals.zipIdx.filter fun x => x.1.producer == a.i && x.1.tensor == a.p.d

def cntP (s : State) (t : Stream) : Nat := (tallyOf s t.pDie t.pIndex).count.toNat
def cntC (s : State) (t : Stream) : Nat := (tallyOf s t.cDie t.cIndex).count.toNat

/-- Tiles put on a stream over the life of the program, or taken from one whose C is elsewhere, by the key its runs count them
under. -/
def Program.put (pr : Program) (t : Stream) (key : Nat) : Nat := t.settled + (pr.runs.map fun r => r.madeOn key).sum

/-- Adds to a counter of this module that are still due (R423). -/
def Program.owedOn (pr : Program) (die i : Nat) : Nat :=
  (pr.runs.map fun r => ((r.owed.filter fun x => x.peer == 0 && x.die == die && x.index == i).map (·.n)).sum).sum

/-- The stream number of the run's first tile, seen from its consumer. -/
def At.base (a : At) (s : State) (q : Numbered) : Nat :=
  (if q.1.inbound then a.pr.put q.1 q.2 else cntC s q.1 + a.pr.owedOn q.1.cDie q.1.cIndex) - a.released q a.done

/-- Has a stream room for one more tile (R215)? -/
def hasRoom (s : State) (pr : Program) (t : Stream) (key : Nat) : Bool := decide (pr.put t key < cntC s t + t.depth)

/-- The slot of tile `k` at the consumer. -/
def ringTile (pr : Program) (opSlot h : Nat) (t : Stream) (j k : Nat) : TileAt :=
  if t.cHere && !t.pHere then
    let x := Config.peerSlot t.peer h j (k % t.depth)
    let core := x / larderSlots % 256
    ⟨opSlot, 0, none, .far t.peer (slotPayload core (x % larderSlots)), .far t.peer (slotHeader core (x % larderSlots))⟩
  else slotTile opSlot (stepCore pr t.consumer) (t.ring.getD (k % max 1 t.ring.length) 0)

/-- Release level of a stream's adds (R403, Table 13-6): within a core, between cores. -/
def streamLevel (pr : Program) (t : Stream) : Nat :=
  if t.peer = 0 ∧ stepCore pr t.producer = stepCore pr t.consumer then 1 else 2

/-- Count `n` tiles of a run under a key. -/
def countMade (h r key n : Nat) (s : State) : State :=
  modRun h r (fun x => { x with made := Assoc.put (fun _ => 0) x.made key (x.madeOn key + n) }) s

/-- Send an add to a counter of another module (R217). -/
def sendAdd (cmd : CmdRef) (peer die index n : Nat) (s : State) : State := sendReq peer 0 0x05 [tallyKey die index, 0, n, 3] [] (.cmd cmd) s

/-- An add of a step's is made. -/
def OwedAdd.apply (cmd : CmdRef) (x : OwedAdd) (s : State) : State × Option Fail :=
  if x.peer ≠ 0 then (sendAdd cmd x.peer x.die x.index x.n s, none)
  else applyAdd x.die x.index x.n (tallyOf s x.otherDie x.otherIndex).count.toNat x.level (scopeInst (moduleId s) x.core 0) s

/-- An add of a step's is a release: it waits while its context has writes that are not acknowledged (R423). -/
def releaseAdd (h r : Nat) (x : OwedAdd) (s : State) : State × Option Fail :=
  match (progOf s h).bind fun p => runOf p r with
  | none => (s, none)
  | some y => if ctxOwes s y.ctx then (modRun h r (fun y => { y with owed := y.owed ++ [x] }) s, none) else x.apply y.cmd s

/-- Add 1 to P of a stream within this module, for a tile a run put there (R215, R401). -/
def addP (pr : Program) (h r core key : Nat) (t : Stream) (s : State) : State × Option Fail :=
  let s1 := countMade h r key 1 s
  if t.peer ≠ 0 then (s1, none)
  else releaseAdd h r ⟨0, t.pDie, t.pIndex, 1, t.cDie, t.cIndex, streamLevel pr t, core⟩ s1

/-- Adds to counters, one after another until one fails. -/
def addAll {α : Type} (f : α → State → State × Option Fail) : List α → State → State × Option Fail
  | [], s => (s, none)
  | x :: r, s =>
    match f x s with
    | (s1, some e) => (s1, some e)
    | (s1, none) => addAll f r s1

/-- The producer's adds after its tile is written. -/
def At.produce (a : At) (s : State) : State × Option Fail :=
  addAll (fun (x : Stream × Nat) s => addP a.pr a.h a.r.id a.p.core x.2 x.1 s)
    (a.outDirect ++ a.outLocal.map fun x => (x.1, localKey x.2)) s

/-- The consumer adds the tiles it has read for the last time to C (R215), in the producer's module where that is another. -/
def At.consume (a : At) (u : Nat) (q : Numbered) (s : State) : State × Option Fail :=
  let k := a.released q (u + 1) - a.released q u
  if k = 0 then (s, none)
  else
    let s1 := if q.1.inbound then countMade a.h a.r.id q.2 k s else s
    releaseAdd a.h a.r.id ⟨if q.1.inbound then q.1.peer else 0, q.1.cDie, q.1.cIndex, k, q.1.pDie, q.1.pIndex, streamLevel a.pr q.1,
      a.p.core⟩ s1

def At.inAll (a : At) : List Numbered := ([a.p.a, a.p.b, a.p.c].foldl setInsert []).flatMap a.inStreams

/-- The adds of a run that waited are made, in their order, once its context owes no writes. -/
def flushOwed (h r : Nat) (s : State) : State :=
  match (progOf s h).bind fun p => runOf p r with
  | none => s
  | some y =>
    if y.owed.isEmpty || ctxOwes s y.ctx then s
    else match addAll (OwedAdd.apply y.cmd) y.owed (modRun h r (fun y => { y with owed := [] }) s) with
      | (s1, some f) => failRun h r f s1
      | (s1, none) => checkRuns h s1

/-- Adds to the produced counters of other modules go out once the context's writes are acknowledged (R217, R423). The adds
already sent are kept in `made` under the stream's number plus 2^32. -/
def flushPeer (h r : Nat) (s : State) : State :=
  match (progOf s h).bind fun pr => (runOf pr r).map fun x => (pr, x) with
  | none => s
  | some (pr, _) =>
    pr.streams.zipIdx.foldl (fun s (t, j) =>
      match (progOf s h).bind fun pr => runOf pr r with
      | none => s
      | some x =>
        let made := x.madeOn j
        let sent := x.madeOn (j + 2 ^ 32)
        if t.peer = 0 ∨ t.inbound ∨ made ≤ sent ∨ ctxOwes s x.ctx then s
        else sendAdd x.cmd t.peer t.pDie t.pIndex (made - sent) (countMade h r (j + 2 ^ 32) (made - sent) s)) s

/-- What the end of a context's writes lets go: the adds of its runs. -/
def flushRuns (x : Nat) (s : State) : State :=
  s.progs.foldl (fun s e => match e.2 with
    | none => s
    | some p => (p.runs.filter (·.ctx == x)).foldl (fun s r => flushPeer e.1 r.id (flushOwed e.1 r.id s)) s) s

def flushOwner (b : Barrier) (s : State) : State := match b with | .cmd c => flushRuns c.ctx.toNat s | _ => s

/-! ### The copy unit moves local output tiles into the rings they feed (R215) -/

/-- One tile of local stream `l` of a program, if one waits and every ring it feeds has room; none where there is nothing to
move. -/
def moveOne (h l : Nat) (s : State) : Option State :=
  match (progOf s h).bind fun pr => (pr.locals[l]?).map fun t => (pr, t) with
  | none => none
  | some (pr, t) =>
    let n := stepCore pr t.producer
    let away := outOf pr t.producer t.tensor
    let moved (r : Run) : Nat := ((away.head?).map fun x => r.madeOn x.2).getD 0
    match pr.runs.find? fun r => decide (moved r < r.madeOn (localKey l)) with
    | none => none
    | some r =>
      if r.failed.isSome || !coreOn s n || !(away.all fun x => hasRoom s pr x.1 x.2) then none
      else
        let slot := tensorSlot t.tensor
        let src := ringTile pr slot h t l (cntC s t)
        let w := { Work.start r.cmd n s with parks := false }
        let (w1, x) := w.loadAt src.slot src.seg src.payload src.header fun _ => true
        let w2 := match x with
          | none => w1
          | some (_, x) => away.foldl (fun w (q : Numbered) => w.putAt x.hdr x.payload (ringTile pr slot h q.1 q.2 (pr.put q.1 q.2))) w1
        if w2.parked.isSome then none
        else match w2.fail with
        | some f => some (failRun h r.id f w2.s)
        | none =>
          let (s1, f) := addAll (fun (q : Numbered) => addP pr h r.id n q.2 q.1) away w2.s
          match f with
          | some f => some (failRun h r.id f s1)
          | none =>
            match applyAdd t.cDie t.cIndex 1 (cntP s1 t) 1 (scopeInst (moduleId s) n 0) s1 with
            | (s2, some f) => some (failRun h r.id f s2)
            | (s2, none) => some (flushPeer h r.id s2)

def moveTiles (h l : Nat) : Nat → State → State
  | 0, s => s
  | u + 1, s => match moveOne h l s with | none => s | some s1 => moveTiles h l u s1

/-- Everything that a program's copy units can move now. -/
def moveOut (h : Nat) (s : State) : State :=
  match progOf s h with
  | none => s
  | some pr => (List.range pr.locals.length).foldl (fun s l => moveTiles h l 256 s) s

def moveOutAll (s : State) : State := s.progs.foldl (fun s e => moveOut e.1 s) s

/-! ### Operands (R212) -/

/-- A segment as the run resolved it (R297). -/
def At.seg (a : At) (s : State) (ctx seg : Nat) : Seg :=
  let part := (ctxOf s ctx).part
  Seg.ofNat part ((lookup (descKey part ctx seg) a.r.descs).getD 0)

def At.arg (a : At) (tensor : Nat) : Tref :=
  (a.pr.argTensors.zip a.r.args).findSome? (fun x => if x.1 = tensor then some x.2 else none) |>.getD ⟨0, 0⟩

def At.pin (a : At) (tensor tile e : Nat) : Nat :=
  ((a.pr.pins.find? fun x => x.tensor == tensor && x.tile == tile && x.epochSlot == e && x.core == a.p.core).map (·.slot)).getD 0

/-- The segment an operand lies in outside the core's own slots: a home or an argument; none for a pin or a ring. -/
def At.outer (a : At) (s : State) (k : Nat) : Option (Seg × Tref) :=
  let t := a.p.tensorOf k
  match a.tensor k with
  | none => none
  | some tn =>
    if tn.role = roleWeight ∧ tn.placement ≠ 0 then some (a.seg s a.pr.ctx tn.home.seg.toNat, tn.home)
    else if tn.role = roleInput ∨ tn.role = roleOutput then
      let r := a.arg t
      some (a.seg s a.r.ctx r.seg.toNat, r)
    else none

/-- Has the copy unit an operand's tile in a staging slot (R221)? -/
def At.stagedSlot (a : At) (k x : Nat) : Option Nat :=
  (a.r.staged.find? fun y => y.step == a.i && y.operand == k && y.tile == x).map (·.slot)

/-- Where tile `x` of operand `k` lies outside the core; it has been paid for once (R272). -/
def At.source (a : At) (k x : Nat) (g : Seg) (r : Tref) (s : State) : TileAt :=
  let p := tileAt s (tensorSlot (a.p.tensorOf k)) r.seg.toNat g (r.tile.toNat + a.p.firstOf k + x)
  if k ≠ 3 ∧ a.r.paid.contains (a.i, k, x) then { p with charged := none } else p

/-- Tile `x`, relative to FIRST, of operand `k`. A staged input is read in its staging slot; a tile of a unit that reads more
tiles than the slots hold comes as the unit reaches it. -/
def At.tile (a : At) (k x : Nat) (s : State) : TileAt :=
  let t := a.p.tensorOf k
  let sl := tensorSlot t
  let i := a.p.firstOf k + x
  match a.outer s k with
  | some (g, r) =>
    match (if k = 3 then none else a.stagedSlot k x) with
    | some y => slotTile sl a.p.core y
    | none => a.source k x g r s
  | none =>
    match a.tensor k with
    | none => slotTile sl a.p.core 0
    | some tn =>
      if tn.role = roleWeight then slotTile sl a.p.core (a.pin t i 3)
      else if tn.role = roleEpoch then slotTile sl a.p.core (a.pin t i a.r.slot)
      else if k = 3 then
        match a.outDirect, a.outLocal with
        | (q, j) :: _, _ => ringTile a.pr sl a.h q j (a.pr.put q j)
        | [], (q, j) :: _ => ringTile a.pr sl a.h q j (a.pr.put q (localKey j))
        | [], [] => slotTile sl a.p.core 0
      else match a.inStream k x with
        | some ((q, j), y) => ringTile a.pr sl a.h q j (a.base s (q, j) + y)
        | none => slotTile sl a.p.core 0

/-- Where an output tile goes: its segment, or its local output stream, or else the rings of its own core that it feeds; nowhere
for a tensor that nothing reads. -/
def At.dests (a : At) (x : Nat) (s : State) : List TileAt :=
  match a.tensor 3 with
  | none => []
  | some tn =>
    let sl := tensorSlot a.p.d
    if tn.role = roleInternal then
      (a.outDirect.map fun (q, j) => ringTile a.pr sl a.h q j (a.pr.put q j)) ++
      a.outLocal.map fun (q, j) => ringTile a.pr sl a.h q j (a.pr.put q (localKey j))
    else [a.tile 3 x s]

/-- Does the step use an engine, rather than the SFU, the RSU or the copy unit? -/
def PStep.onEngine (p : PStep) : Bool := p.isMatmul || p.op == opReduce || p.op == opElem

/-- The shape every tile of an operand must have (R65): of an engine step's A and B; C follows from those two. -/
def At.shape (a : At) (k : Nat) : Option (Nat × Nat) :=
  if a.p.onEngine ∧ k < 3 ∧ !(k = 2 ∧ a.p.isMatmul) then (a.tensor k).map fun t => (t.rows, t.cols) else none

/-- Which tile of the program an engine holds: a pin outlives the run (R70). -/
def At.tileId (a : At) (k x : Nat) : List Nat :=
  let t := a.p.tensorOf k
  let i := a.p.firstOf k + x
  match a.tensor k with
  | some tn =>
    if tn.role = roleWeight ∧ tn.placement = 0 then [1, a.h, t, i, 3, 0]
    else if tn.role = roleEpoch then [1, a.h, t, i, a.r.slot, (a.pr.slot a.r.slot).epoch]
    else [2, a.h, a.r.id, t, i]
  | none => [2, a.h, a.r.id, t, i]

def At.opnd (a : At) (k : Nat) : Opnd :=
  ⟨tensorSlot (a.p.tensorOf k), 16 * k, 0, fun s x => a.tile k x s, fun s x => a.dests x s, a.shape k, some fun _ x => a.tileId k x⟩

/-! ### What a unit does: its parameters -/

def At.seed (a : At) : Option Nat := if a.p.round then some a.p.seedScalar else none

def At.out (a : At) : Fmt := (Fmt.ofCode a.p.fmtOut).getD .fp32

def At.epoch (a : At) : Nat := (a.pr.slot a.r.slot).epoch

def At.fmt (a : At) (k : Nat) : Fmt := ((a.tensor k).map (·.fmt)).getD .fp32
def At.rowsOf (a : At) (k : Nat) : Nat := ((a.tensor k).map (·.rows)).getD 64
def At.colsOf (a : At) (k : Nat) : Nat := ((a.tensor k).map (·.cols)).getD 64

def At.mm (a : At) (anchor : Int) : MM :=
  let fa := a.fmt 0
  let gb := gridCols a.ts a.p.b
  let gd := gridCols a.ts a.p.d
  { a := a.opnd 0, b := a.opnd 1, c := if a.p.op = opMatmulAcc then some (a.opnd 2) else none, d := a.opnd 3
    aStr := gridCols a.ts a.p.a, bStr := gb, cStr := gridCols a.ts a.p.c, dStr := gd
    mt := a.p.dim0, kt := a.p.dim1, nt := a.p.dim2, bpb := a.p.bpb a.ts, b0 := a.p.firstB % max 1 gb
    lastCols := some (a.colsOf 1), bFmt := (a.fmt 1).code, fa := some fa
    heldk := heldK fa, fp32 := fa == .fp32
    ms := List.replicate a.p.dim0 (a.rowsOf 0), ks := List.replicate a.p.dim1 (a.colsOf 0)
    out := a.out, anchor := anchor, seed := a.seed
    i0 := a.p.firstD / max 1 gd, j0 := a.p.firstD % max 1 gd / max 1 a.p.tpb }

/-! ### Anchors (R109, R110, R112, R212, R213) -/

def operationKey (op run : Nat) : Nat := op * 2 ^ 32 + run

/-- A REDUCE over ACC128 tiles takes the anchors that its inputs carry (R284). -/
def At.carries (a : At) : Bool := a.p.op == opReduce && a.fmt 0 == .acc128

/-- Does the step add under its operation's anchor? -/
def At.scoped (a : At) : Bool := a.p.isMatmul || (a.p.op == opReduce && !a.carries) || a.p.eop == some .vacc

/-- Does a row step that is declared exact have its explicit anchor compared with the default (R213)? -/
def At.rowExact (a : At) : Bool := (a.p.op == opNorm || a.p.op == opRowstat) && a.p.explicit && a.p.exact

/-- Does the step need the operation's scan? -/
def At.scans (a : At) : Bool := (a.scoped && (!a.p.explicit || a.p.exact)) || a.rowExact

/-- The steps that share the operation of a step, and so its reduction scope. -/
def At.peers (a : At) : List At :=
  a.pr.steps.zipIdx.filterMap fun (q, j) =>
    let b : At := { a with i := j, p := q }
    if q.operation = a.p.operation ∧ (b.scoped || b.rowExact) then some b else none

/-- The reduction length of a step's scope: the columns of the A tensor; the inputs of a sum; the values that the operation adds
into one element; the columns of a row. -/
def At.scopeK (a : At) : Nat :=
  if a.p.isMatmul then gridCols a.ts a.p.a * a.colsOf 0
  else if a.p.op = opReduce then a.p.dim1
  else if a.p.op = opElem then
    let into (q : PStep) : Bool := q.operation == a.p.operation && q.eop == some .vacc && q.d == a.p.d &&
      decide (q.firstD ≤ a.p.firstD) && decide (a.p.firstD < q.firstD + q.dim0)
    (a.pr.steps.filter into).length
  else a.p.dim2

/-- The maxima of operands a and b over the steps of an operation (R109, R110). -/
def scanMax : List At → Work → Work × Int × Int
  | [], w => (w, -32768, -32768)
  | a :: r, w =>
    let (w1, x, _) := w.maxOver (a.opnd 0) (a.p.tilesOf a.ts 0)
    let (w2, y, _) : Work × Int × Bool := if a.p.isMatmul then (a.mm 0).maxWeights w1 else (w1, 0, false)
    let (w3, x2, y2) := scanMax r w2
    (w3, max x x2, max y y2)

/-- Has the operation's scan been made for the run? -/
def At.scanned (a : At) : Bool :=
  a.pr.anchors.any fun e => e.1 == operationKey a.p.operation a.r.id

def At.scanWord (a : At) : Int :=
  ofTwos 32 (((a.pr.anchors.find? fun e => e.1 == operationKey a.p.operation a.r.id).map (·.2)).getD 0)

/-- Make the scan, unless it has been made. -/
def At.scan (a : At) (w : Work) : Work × Int :=
  if a.scanned then (w, a.scanWord)
  else
    let (w1, maxa, maxb) := scanMax a.peers w
    let x := anchorOf maxa maxb ((a.peers.map At.scopeK).foldl max 1)
    let note (p : Program) : Program :=
      { p with anchors := (p.anchors.filter fun e => e.1 != operationKey a.p.operation a.r.id) ++
        [(operationKey a.p.operation a.r.id, twos 32 x)] }
    (w1.mod (modProg a.h note), x)

/-- The anchor a unit uses: the failure of R213 where a declared-exact operation's explicit anchor is too low; none where
no window holds it (R112). -/
def At.anchor (a : At) (w : Work) : Work × Option Int :=
  let (w1, d) := if a.scans then a.scan w else (w, 0)
  if a.p.explicit then
    let x := ofTwos 16 a.p.anchor
    if a.p.exact && a.scans && decide (x < d) then (w1.stop (fParam 0x03 0), some x) else (w1, some x)
  else if a.scoped then (w1, anchorInRange d)
  else (w1, some 0)

/-! ### Ready (R171, R172, R175, R219, R221) -/

/-- The operands that the copy unit must fetch first (R221): those outside the larders. -/
def At.stagedOps (a : At) (s : State) : List Nat :=
  [0, 1, 2].filter fun k => match a.outer s k with
    | none => false
    | some (g, _) => g.cls != clsLarder

/-- The staged tiles that unit `u` reads: operand and tile. -/
def At.needs (a : At) (s : State) (u : Nat) : List (Nat × Nat) :=
  (a.stagedOps s).flatMap fun k => (a.p.unitTiles a.ts u k).map fun x => (k, x)

/-- The first 32 tiles that the step's next units need staged. -/
def At.wanted (a : At) (s : State) : List (Nat × Nat) :=
  (((List.range (min 32 (a.p.units - a.done))).flatMap fun v => a.needs s (a.done + v)).foldl
    (fun l x => if l.contains x then l else l ++ [x]) []).take 32

/-- Are the tiles of the next unit in staging slots, as many as these hold? -/
def At.fetched (a : At) (s : State) : Bool := ((a.needs s a.done).take 32).all fun x => (a.stagedSlot x.1 x.2).isSome

/-- Tiles of a stream that a list of units needs are in the ring. -/
def At.arrived (a : At) (s : State) (us : List Nat) : Bool :=
  [0, 1, 2].all fun k => match a.tensor k with
    | none => true
    | some tn => tn.role != roleInternal || us.all fun u => (a.p.unitTiles a.ts u k).all fun x =>
        match a.inStream k x with
        | none => false
        | some (q, y) => decide (a.base s q + y < cntP s q.1)

/-- Does the unit end with an output tile? The steps of a chain drain on their own. -/
def PStep.puts (p : PStep) : Bool := !p.isMatmul

def At.room (a : At) (s : State) : Bool :=
  (a.outDirect.all fun q => hasRoom s a.pr q.1 q.2) && a.outLocal.all fun q => hasRoom s a.pr q.1 (localKey q.2)

def isParked (s : State) (ctx core cls : Nat) : Bool := (ctxOf s ctx).parked.contains (core * 4 + (cls - 1))

def At.set (a : At) (s : State) : SetAt :=
  if a.p.set = 0xFF then .ready (shippedSet setStandard) else heldSet s a.p.core a.pr.part (a.pr.sets.getD a.p.set 0)

/-- Is it the run's turn? Runs of one context enter the streams in order (R219); those of another context, whose place the
manual does not give, follow when the streams are theirs (log 120). -/
def At.turn (a : At) : Bool :=
  (a.pr.runs.all fun x => !decide (x.id < a.r.id) || x.done.contains a.i) &&
  (a.pr.streams.isEmpty || a.pr.runs.all fun x => x.ctx == a.r.ctx || decide (a.r.id < x.id))

/-- Has the step, at work in its program, all that it needs from its streams: its turn, its tiles, room for its output
(R215, R219)? -/
def At.streamed (a : At) (s : State) : Bool :=
  a.turn && (if a.scans && !a.scanned then a.peers.all fun b => b.arrived s (List.range b.p.units) else a.arrived s [a.done]) &&
  (!a.p.puts || a.room s)

/-- Is a step at work: its run has not failed, and it has units left? -/
def At.open_ (a : At) : Bool := a.r.failed.isNone && !a.r.done.contains a.i && decide (a.done < a.p.units)

/-- Everything a unit needs but an engine (R172). -/
def At.ready (a : At) (s : State) : Bool :=
  a.open_ && (coreOf s a.p.core).resident.contains a.r.ctx && !isParked s a.r.ctx a.p.core 1 &&
  a.streamed s && a.fetched s && (match a.set s with | .waits => false | _ => true)

/-- Is an input of a step missing: a tile that has to be staged (`tile`, by its segment and place), a tile of a stream, or room on
one (`counter`: is it another module's, which, and the die of the counter)? A step that makes its operation's scan misses the
tiles of all its steps. -/
def At.missing (a : At) (s : State) (tile : Seg → TileAt → Bool) (counter : Bool → Nat → Nat → Bool) : Bool :=
  let staged := (a.needs s a.done).any fun (k, x) => (a.stagedSlot k x).isNone && match a.outer s k with
    | none => false
    | some (g, r) =>
      tile g (a.source k x g r s)
  let late (b : At) (u : Nat) : Bool := [0, 1, 2].any fun k => (b.p.unitTiles b.ts u k).any fun x => match b.inStream k x with
    | none => false
    | some (q, y) => decide (cntP s q.1 ≤ b.base s q + y) && counter q.1.inbound q.1.peer q.1.pDie
  let tiles := if a.scans && !a.scanned then a.peers.any fun b => (List.range b.p.units).any (late b) else late a a.done
  let full (q : Stream) (key : Nat) : Bool := !hasRoom s a.pr q key && counter (q.peer != 0) q.peer q.cDie
  a.open_ && (staged || (a.turn && (tiles || (a.p.puts &&
    ((a.outDirect.any fun q => full q.1 q.2) || a.outLocal.any fun q => full q.1 (localKey q.2))))))

/-- Is the held block of the next step of the step's chain in engine `e` already (R70)? -/
def At.skips (a : At) (s : State) (e : Nat) : Bool :=
  a.p.isMatmul && ((a.mm 0).heldBlock e (a.done / a.p.dim1 % a.p.dim2) (a.done % a.p.dim1) (Work.start a.r.cmd a.p.core s)).2.isSome

/-- Engine cycles of the next unit on engine `e` (R65): by the shapes of the step's tensors (Table 07-19), and by what the engine
holds. -/
def At.cycles (a : At) (s : State) (e : Nat) : Nat :=
  let u := a.done
  let n := a.rowsOf 0 * a.colsOf 0
  if a.p.isMatmul then
    stepCycles (a.fmt 0 == .fp32) a.out ((a.mm 0).wt (u / a.p.dim1 % a.p.dim2))
      (if a.p.op = opMatmulAcc then ceilDiv (a.rowsOf 0) 4 else 0) (a.rowsOf 0) a.p.dim1 (u % a.p.dim1) (a.skips s e)
  else if a.p.op = opReduce then ceilDiv n 4096 * (18 * a.p.dim1 + 16) + drainCycles a.out * ceilDiv n 64 + 1
  else if a.p.op = opElem then
    18 * (1 + bnat a.p.uses.2.1 + bnat a.p.uses.2.2.1) +
      ceilDiv n 64 * ((a.p.eop.map (EOp.rate (VFmt.ofCode a.p.vfmt == some .fp64))).getD 1) + 1
  else 0

/-- Cycles of the context's steps in flight on a core. -/
def flightCycles (s : State) (n ctx : Nat) : Nat :=
  ((coreOf s n).engines.map fun e => match e.flight with
    | some f => if f.ctx = ctx then f.cycles else 0
    | none => 0).sum

/-- R175: nothing of the context in flight on the core, or its remaining allotment covers what is and the new step. -/
def allotCovers (s : State) (n ctx cycles : Nat) : Bool :=
  let b := (ctxOf s ctx).engine
  let busy := (coreOf s n).engines.any fun e => match e.flight with | some f => f.ctx == ctx | none => false
  !busy || decide ((flightCycles s n ctx + cycles : Nat) ≤ localBal b n + (b.pool : Nat))

/-- The steps of a core, of every run at work there, in the order of their runs and numbers (R220). -/
def stepsOn (s : State) (n : Nat) : List At :=
  s.progs.flatMap fun e => match e.2 with
    | none => []
    | some pr => pr.runs.flatMap fun r => pr.steps.zipIdx.filterMap fun (p, i) =>
        if p.core = n then some ⟨e.1, pr, r, i, p⟩ else none

/-- Those that are ready. A core takes no step of a partition it has left, nor one before it holds every set of a partition it
has joined (R146). -/
def readyList (s : State) (n : Nat) : List At :=
  if (coreOf s n).joining then [] else (stepsOn s n).filter fun a => bitAt (partOf s a.pr.part).cores n && a.ready s

/-- Record since when each step of a core has been ready (R172). -/
def noteReady (n : Nat) (s : State) : State :=
  let now := s.tick
  (stepsOn s n).foldl (fun s' a =>
    let was := a.r.readyAt.any fun e => e.1 == a.i
    if a.ready s = was then s'
    else modRun a.h a.r.id (fun r => { r with readyAt :=
      (r.readyAt.filter fun e => e.1 != a.i) ++ if was then [] else [(a.i, now)] }) s') (advance s)

def prioOf (s : State) (a : At) : Nat := (partOf s a.pr.part).priority

def At.since (a : At) : Nat := Assoc.get (fun _ => 2 ^ 64) a.r.readyAt a.i

/-- Is `a` chosen before `b` (R172): by its partition's priority, by when it became ready, by its context? Of steps alike in all
three, which the rule leaves open, the earlier in its program goes first (log 121). -/
def At.before (s : State) (a b : At) : Bool :=
  if prioOf s a ≠ prioOf s b then decide (prioOf s b < prioOf s a)
  else if a.since ≠ b.since then decide (a.since < b.since)
  else if a.r.ctx ≠ b.r.ctx then decide (a.r.ctx < b.r.ctx)
  else if a.r.id ≠ b.r.id then decide (a.r.id < b.r.id)
  else decide (a.i ≤ b.i)

def bestOf (s : State) : List At → Option At
  | [] => none
  | a :: r => match bestOf s r with
    | none => some a
    | some b => if a.before s b then some a else some b

/-! ### A step waits for tiles its engine has still to seal (R73) -/

/-- The output tiles that a chain of a placed step has not sealed yet. -/
def stepOuts (s : State) (c : Chain) : List Place :=
  match atOf s c.handle c.run c.step with
  | none => []
  | some b =>
    if b.p.isMatmul then
      ((List.range (outTilesOf b.out c.m)).drop c.drained).flatMap fun t =>
        (b.dests ((b.mm 0).outIndex (c.block / b.p.dim2) (c.block % b.p.dim2) t) s).map (·.payload)
    else []

/-- Those of a command's chain. -/
def cmdOuts (s : State) (d : CmdRef) (c : Chain) : List Place :=
  let e := cmdOf s d
  let of (p : MatmulP) : List Place :=
    let part := (ctxOf s d.ctx.toNat).part
    match lookup (descKey part d.ctx.toNat p.d.seg.toNat) e.descs with
    | none => []
    | some x =>
      let tpb := 64 / rowsPerTile p.fmtOut
      let nt := max 1 p.nt.toNat
      ((List.range (outTilesOf p.fmtOut c.m)).drop c.drained).map fun t =>
        (tileAt s 8 p.d.seg.toNat (Seg.ofNat part x) (p.d.tile.toNat + c.block / nt * (nt * tpb) + c.block % nt * tpb + t)).payload
  match e.instr with
  | some (.matmul _ p) => of p
  | some (.matmulAcc _ p) => of p.base
  | _ => []

def chainOuts (s : State) (c : Chain) : List Place :=
  match c.cmd with
  | some d => cmdOuts s d c
  | none => stepOuts s c

/-- Does the next unit read a tile that an earlier chain of engine `e` has not sealed? -/
def At.unsealed (a : At) (s : State) (e : Nat) : Bool :=
  let c := coreOf s a.p.core
  let chains := ((engineOf c e).chain.toList ++ (c.spilled.filter fun x => x.engine == e).map (·.chain)).filter fun x =>
    !(chainOf a.h a.r.id x && x.step == a.i && x.block == a.done / max 1 a.p.dim1)
  match chains.flatMap (chainOuts s) with
  | [] => false
  | outs => [0, 1, 2].any fun k => (a.p.unitTiles a.ts a.done k).any fun x => outs.contains (a.tile k x s).payload

/-! ### What a unit does -/

/-- The next step of the step's chain on engine `e`. A LIVE half keeps its anchor (R75). -/
def At.runChain (a : At) (e : Nat) (anchor : Int) (w : Work) : Work :=
  let mm := a.mm anchor
  let u := a.done
  let b := u / a.p.dim1
  let k := u % a.p.dim1
  let x := getEng w.s w.core e
  let own := x.chain.filter fun c => chainOf a.h a.r.id c && c.step == a.i
  if own.isSome ∧ ofTwos 16 x.h0.anchor.toNat ≠ anchor then w.stop (fParam 0x03 0)
  else
    let start := own.map fun c => ChainAcc.ofHalves c.m c.n x.h0 x.h1
    let (w1, held) := mm.heldBlock e (b % a.p.dim2) k w
    let (w2, acc) := mm.chainStep e a.epoch (b / a.p.dim2) (b % a.p.dim2) k held start w1
    match acc with
    | none => w2
    | some y =>
      if w2.failed then w2
      else w2.mod (putChain w.core e ⟨none, a.h, a.r.id, a.i, b, k + 1, a.p.dim1, y.m, y.n, 0⟩ y anchor)

/-- COPY within a program: every header byte but GEN and CRC is carried over (R56). -/
def At.copyUnit (a : At) (u : Nat) (w : Work) : Work :=
  let src := a.tile 0 u w.s
  let (w1, t) := (w.pay false src).loadAt src.slot src.seg src.payload src.header fun _ => true
  match t with
  | none => w1
  | some (_, t) => (a.dests u w1.s).foldl (Work.putAt t.hdr t.payload) w1

/-- ZERO within a program: tiles of zeros of FMT_OUT in the tensor's shape (R279). -/
def At.zeroUnit (a : At) (u : Nat) (w : Work) : Work :=
  match a.tensor 3 with
  | none => w
  | some t =>
    if !shapeOk a.out t.rows t.cols t.cols then w.stop (fMismatch (tensorSlot a.p.d) .shape)
    else
      let anchor := if a.out = .acc128 then a.p.anchor else 0x8000
      w.put (a.opnd 3) u (w.hdr a.out (hdrFlags t.layout false false false) t.rows t.cols anchor 1 0 a.epoch) (List.replicate 4096 0)

/-- SUBOP lanes: Y from a tuning word of the run's page, or from the entry (R212, R321). -/
def At.scalar (a : At) : Option Nat :=
  if a.p.tuned then some (df a.r.page (64 + 8 * bits a.p.vctrl 6 4) 8)
  else if a.p.scalared then some a.p.seedScalar else none

def At.lanes (a : At) (anchor : Int) : Option Lanes :=
  match a.p.eop, VFmt.ofCode a.p.vfmt, Rnd.ofCode (a.p.vctrl % 8) with
  | some op, some v, some r =>
    some { x := a.opnd 0, y := if a.p.uses.2.1 then some (a.opnd 1) else none, z := if a.p.uses.2.2.1 then some (a.opnd 2) else none
           scalar := a.scalar, d := a.opnd 3, tiles := a.p.dim0, op := op, vfmt := v, out := a.out, rnd := r, anchor := anchor }
  | _, _, _ => none

def At.red (a : At) (anchor : Option Int) : Red where
  input := fun i => { a.opnd 0 with base := i * a.p.dim2 }
  d := a.opnd 3
  tiles := a.p.dim0
  count := a.p.dim1
  out := a.out
  anchor := anchor
  seed := a.seed
  t0 := a.p.firstD

def At.rowKind (a : At) : RowKind :=
  if a.p.op = opSoftmax then .softmax
  else if a.p.op = opNorm then .norm (a.p.subop == 1) a.p.eps
  else .stat a.p.subop

def At.rows (a : At) (fs : FSet) : Rows :=
  let c := a.opnd 2
  { x := a.opnd 0, xStr := gridCols a.ts a.p.a
    gamma := if a.p.op = opNorm then some c else none
    beta := if a.p.op = opNorm ∧ a.p.subop ≠ 1 then some { c with base := a.p.dim1 } else none
    d := a.opnd 3, dStr := if a.p.op = opRowstat then 1 else gridCols a.ts a.p.d
    rowt := a.p.dim0, colt := a.p.dim1, n := a.p.dim2, fs := fs, kind := a.rowKind, out := a.out
    explicit := if a.p.explicit then some (ofTwos 16 a.p.anchor) else none, seed := a.seed, r0 := 0 }

/-- Rows of the destination tensor before a grid row of the step. -/
def At.row0 (a : At) (i : Nat) : Nat :=
  let rows := ((a.tensor 0).map (·.rows)).getD 0
  (a.p.firstD / max 1 (if a.p.op = opRowstat then 1 else gridCols a.ts a.p.d) + i) * rows

/-- A special function or row unit, once its set is known. -/
def At.fnUnit (a : At) (fs : FSet) (u : Nat) (w : Work) : Work :=
  if a.p.op = opFunc then
    if !fs.has a.p.subop then w.stop (fParam rFuncAbsent 0)
    else FnOp.tile { x := a.opnd 0, d := a.opnd 3, tiles := a.p.dim0, fs := fs, func := a.p.subop, out := a.out, seed := a.seed,
                     t0 := a.p.firstD } a.epoch u w
  else
    let rs := a.rows fs
    if !(rs.kind.needs.all fs.has) then w.stop (fParam rFuncAbsent 0)
    else
      let i := if a.p.op = opRowstat then u else u / max 1 a.p.dim1
      (rs.gridRow a.epoch i (a.row0 i) (if a.p.op = opRowstat then none else some (u % max 1 a.p.dim1)) w).1

/-- No window holds the anchor: the step seals its destination tiles invalid and fails (R112). -/
def At.noWindow (a : At) (w : Work) : Work :=
  if a.p.isMatmul then (a.mm 1023).noWindow a.epoch w
  else if a.p.op = opReduce then (a.red (some 1023)).noWindow a.epoch w
  else
    let w1 := (List.range a.p.dim0).foldl (fun w t => w.void (a.opnd 3) t
      (w.hdr a.out 0 (max 1 (a.rowsOf 0)) (max 1 (a.colsOf 0)) (twos 16 1023) 0 0 a.epoch)) w
    w1.stop (fOverflow w.core 0 0 false)

/-- Does the step drain accumulators (R79)? -/
def At.drains (a : At) : Bool := a.p.isMatmul || a.p.op == opReduce

/-- One unit of a step, on engine `e` of its core. -/
def At.unit (a : At) (e : Nat) (w : Work) : Work :=
  let u := a.done
  if a.drains ∧ (a.tensor 3).any (·.layout) then w.stop (fParam 0x07 0)
  else
    let (w1, anc) := a.anchor w
    if w1.failed then w1
    else match anc with
      | none => a.noWindow w1
      | some anchor =>
        if a.p.isMatmul then a.runChain e anchor (w1.charge 1 (a.cycles w1.s e))
        else if a.p.op = opReduce then
          (a.red (if a.carries ∧ !a.p.explicit then none else some anchor)).tile e a.epoch anchor u w1
        else if a.p.op = opElem then
          match a.lanes anchor with
          | some l => l.tile e a.epoch u w1
          | none => w1.stop (fParam 0x12 0)
        else if a.p.op = opCopy then a.copyUnit u w1
        else if a.p.op = opZero then a.zeroUnit u w1
        else match a.set w1.s with
          | .absent => w1.stop (fParam rSetAbsent 0)
          | .waits => w1
          | .ready fs => a.fnUnit fs u w1

/-! ### After a unit -/

/-- Mark the step ended. -/
def endStep (a : At) (s : State) : State :=
  modRun a.h a.r.id (fun r => { r with done := setInsert r.done a.i }) s

/-- The staging slots of a unit's tiles are released, but for those that the next units want; its tiles have been paid for. -/
def At.unstage (a : At) (u : Nat) (s : State) : State :=
  match atOf s a.h a.r.id a.i with
  | none => s
  | some b =>
    let keep := b.wanted s
    dropStaged a.h a.r.id (fun y => y.step == a.i && !keep.contains (y.operand, y.tile))
      (modRun a.h a.r.id (fun r => { r with
        paid := (a.needs s u).foldl (fun l x => if l.contains (a.i, x.1, x.2) then l else l ++ [(a.i, x.1, x.2)]) r.paid }) s)

/-- A unit is over: its last-read tiles are released, its output counts and moves on, its step may end. -/
def afterUnit (h r i : Nat) (s : State) : State :=
  match atOf s h r i with
  | none => s
  | some a =>
    let u := a.done
    let s1 := a.unstage u (modRun h r (fun x => { x with
      progress := Assoc.put (fun _ => 0) x.progress i (u + 1), readyAt := x.readyAt.filter fun e => e.1 != i }) s)
    let (s2, f) := addAll (a.consume u) a.inAll s1
    let (s3, g) := if a.p.puts ∧ f.isNone then a.produce s2 else (s2, none)
    match f.orElse fun _ => g with
    | some f => failRun h r f s3
    | none =>
      let s4 := moveOut h (flushPeer h r s3)
      if u + 1 = a.p.units && !a.p.isMatmul then checkRuns h (endStep a s4) else s4

/-- Stalled cycles of a step are counted under their cause (R224); how many is a matter of time. -/
def noteStall (reg : Nat) (s0 : State) : State :=
  let s := advance s0
  incF reg ⟨63, 0⟩ (Config.stallCycles reg s.tick).toNat s

/-- The counter of the stream a step waits on: another module's counters count as FABRIC_LATE, this module's as TALLY_WAIT
(Table 07-5). -/
def At.streamStall (a : At) (s : State) : State :=
  let outs := outOf a.pr a.i a.p.d
  if a.inAll.any (fun q => q.1.inbound) || outs.any (fun q => q.1.peer != 0) then noteStall (STALL_FABRIC a.p.core) s
  else if a.inAll.isEmpty && outs.isEmpty then s
  else noteStall (STALL_TALLY a.p.core) s

/-- Issue one unit of a step on an engine of its core (R172, R174). Where its traffic is not covered the context parks, and
the unit is issued when it is (R316); where an access is held, it is issued when that is served (R197). -/
def issueUnit (a : At) (e : Nat) (s : State) : State :=
  let cyc := a.cycles s e
  let w := a.unit e (Work.start a.r.cmd a.p.core (a.streamStall s))
  let s1 := modRun a.h a.r.id (fun r => { r with trunc := r.trunc || w.trunc }) w.s
  match w.parked, w.fail with
  | some k, _ => if k = 0 then s else parkCtx a.r.ctx a.p.core k s
  | none, some f => failRun a.h a.r.id f s1
  | none, none =>
    if a.p.onEngine then
      setEng a.p.core e { getEng s1 a.p.core e with
        state := .busy, flight := some ⟨a.h, a.r.id, a.i, a.r.ctx, cyc⟩ } s1
    else afterUnit a.h a.r.id a.i (noteIssue a.p.core s1)

end Sys2Proof.Machine
end

