-- ==== Sys2Proof/Machine/Ladder.lean ====
section
/-! DEFINITION. The reset ladder and what it needs (R556 to R566, R570 to R573, R578): fences, capture, retirement of
cores, the five rungs with their escalation, and the host-complex reset (R461). -/

namespace Sys2Proof.Machine

open Sys2Proof

/-! ### Registers of a reset domain (R635) -/

def isDomain (ds : List Domain) (off : Nat) : Bool :=
  match regRow (off % 0x10000000) with | some r => ds.contains r.dom | none => false

def resetRegs (ds : List Domain) (s : State) : State := { s with regs := s.regs.filter fun e => !isDomain ds e.1 }

/-- Registers of one engine's reset domain. -/
def resetEngRegs (n e : Nat) (s : State) : State :=
  [0x1002000, 0x1002008, 0x1002010, 0x1002018].foldl (fun s b =>
    let off := b + 0x10000 * n + 0x100 * e
    setReg off (regReset off).toNat s) s

/-! ### Service state -/

def setSvc (v : Nat) (s : State) : State :=
  let old := getF s ORD_SVC ORD_SVC_STATE
  if old = v then s else sensorEvent 0x42 v (setF ORD_SVC ORD_SVC_STATE v (setF ORD_SVC ORD_SVC_PREV old s))

/-! ### Crash capture (R578, R579) -/

def captureOf (s : State) (k : Nat) : CaptureSlot := Assoc.get (fun _ => CaptureSlot.empty) s.faults.captures k
def setCapture (k : Nat) (v : CaptureSlot) (s : State) : State :=
  { s with faults := { s.faults with captures := Assoc.put (fun _ => CaptureSlot.empty) s.faults.captures k v } }

/-- The next slot in rotation that is not pinned. -/
def nextCapture (s : State) : Option Nat :=
  let last := getF s CAPTURE_STATUS CAPTURE_STATUS_LAST_SLOT
  let from_ := if getF s CAPTURE_STATUS CAPTURE_STATUS_SLOTS_USED = 0 then 0 else last + 1
  ((List.range 64).map fun i => (from_ + i) % 64).find? fun k => !(captureOf s k).pinned

/-- Can the cellar take a capture or a mirror write (R387, R578)? -/
def cellarUp (s : State) : Bool := s.tray.mainOn && decide (getF s CELLAR_STATUS CELLAR_STATUS_STATE < 3)

/-- A capture begins: its slot and CAPTURE_STATUS. -/
def beginCapture (trig : Nat) (s : State) : State :=
  match nextCapture s with
  | none => s
  | some k =>
    let word := bellNow s % 2 ^ 40 * 2 ^ 24 + getF s CAPTURE_STATUS CAPTURE_STATUS_SLOTS_USED * 2 ^ 16 + k * 2 ^ 10 + trig * 2 ^ 4 + 1
    setReg CAPTURE_STATUS word { s with faults := { s.faults with capturing := some k } }

/-- Memory that a capture takes (Table 20-13). -/
def captureMem (s : State) : List Host.Cell :=
  let t := getReg s Q_TABLE_BASE
  s.mem.filter fun c => decide (t ≤ c.1 ∧ c.1 < t + 0x400000) ||
    (getF s FLT_CTL_LIVE FLT_CTL_CAPTURE_LARDER == 1 && decide (0x040000000000 ≤ c.1 ∧ c.1 < 0x050000000000))

/-- The capture in progress is written, whole or cut off, or given up. -/
def endCapture (absent : Nat) (truncated abandoned : Bool) (s : State) : State :=
  match s.faults.capturing with
  | none => s
  | some k =>
    let trig := getF s CAPTURE_STATUS CAPTURE_STATUS_TRIGGER
    let s0 := { s with faults := { s.faults with capturing := none } }
    let old := captureOf s0 k
    let s1 := if abandoned then s0 else
      setCapture k ⟨true, old.pinned, trig, absent, truncated, bellNow s0, s0.faults.nextSeq, s0.faults.ring, s0.regs, captureMem s0⟩ s0
    let used := (s1.faults.captures.filter fun e => e.2.used).length
    let s2 := setF CAPTURE_STATUS CAPTURE_STATUS_RUNNING 0 (setF CAPTURE_STATUS CAPTURE_STATUS_TRUNCATED (bnat truncated)
      (setF CAPTURE_STATUS CAPTURE_STATUS_ABANDONED (bnat abandoned) (setF CAPTURE_STATUS CAPTURE_STATUS_SLOTS_USED used s1)))
    ledger 0x040A 0 0 0 (ledgerData [(0, 1, k), (1, 1, trig), (2, 1, bnat truncated + 2 * bnat abandoned)]) s2

/-- The capture with which a chip reset or a power cycle begins. -/
def rungCapture (trig : Nat) (s : State) : State :=
  if getF s FLT_CTL_LIVE FLT_CTL_CAPTURE = 0 then s
  else
    let absent := (Config.absentBlocks s.tick).toNat
    endCapture absent false (!cellarUp s) (beginCapture trig (advance s))

/-- A capture asked for completes when the Warden has read every source: with nothing begun, it begins and completes. -/
def execCrashCapture (trigger : BitVec 8) (absent : BitVec 64) (s : State) : Ans :=
  let s1 := if s.faults.capturing.isNone then beginCapture (trigger.toNat % 16) s else s
  .next (endCapture absent.toNat false (!cellarUp s1) s1)

/-- 200 ms have passed (R578). -/
def execCaptureCutoff (s : State) : Ans :=
  .next (endCapture (Config.absentBlocks s.tick).toNat true false (advance s))

/-! ### The capability chain's generation (R520) -/

def bumpChain (s : State) : State := { s with chainGen := s.chainGen + 2 }

/-! ### Fences (R556, R557) -/

def raiseFence (dom idx : Nat) (s : State) : State :=
  { s with faults := { s.faults with fenced := setInsert s.faults.fenced (fenceCode dom idx) } }

def liftFence (dom idx : Nat) (s : State) : State :=
  { s with faults := { s.faults with
    fenced := setErase s.faults.fenced (fenceCode dom idx)
    draining := setErase s.faults.draining (fenceCode dom idx) } }

def fencedLedger (dom idx answered discarded : Nat) (s : State) : State :=
  ledger 0x0401 4 (fenceCode dom idx) 0 (ledgerData [(0, 4, answered), (4, 4, discarded)]) s

/-- The partition that a logical core belongs to. -/
def partOfCore (s : State) (n : Nat) : Option Nat := (List.range 16).find? fun p => bitAt (partOf s p).cores n

/-- Fail the steps in flight on a core and drop what is held there. -/
def failCore (n : Nat) (f : Fail) (s : State) : State :=
  let flights := (coreOf s n).engines.filterMap (·.flight)
  let clear (e : Engine) : Engine := { e with flight := none }
  let c := coreOf s n
  let s1 := setCore n { c with e0 := clear c.e0, e1 := clear c.e1, e2 := clear c.e2, e3 := clear c.e3 } s
  flights.foldl (fun s x => failRun x.handle x.run f s) s1

/-! ### Clearing engines (R91, Table 20-5) -/

/-- An engine after a reset. Table 03-11 has its state become RESET and then IDLE, which one event covers; an engine that is
gated, fenced or retired stays so: that it does is the model's choice (DESIGN CHOICE, log 122). -/
def Engine.cleared (e : Engine) : Engine :=
  match e.state with
  | .off => { Engine.reset with state := .off }
  | .fenced => { Engine.reset with state := .fenced }
  | .retired => { Engine.reset with state := .retired }
  | _ => .reset

/-- End the commands and runs an engine serves: the run of the chain it holds and of its step in flight, and a self-test
that waits for its patrol. -/
def endServed (old : Engine) (f : Fail) (s : State) : State :=
  let s1 := match old.patrolFor with | some c => finishFail c f s | none => s
  let s2 := match old.flight with | some x => failRun x.handle x.run f s1 | none => s1
  match old.chain with
  | some c =>
    (match c.cmd with
    | some d => if inHand s2 d then abortWhere (fun e => sameCmd e.ref d) f s2 else s2
    | none => failRun c.handle c.run f s2)
  | none => s2

/-- The tile that the store of a step in flight had opened when its engine was reset: its GEN stays odd (R54, R63). Whether a
store was under way is a matter of time, so a free value says it. -/
def tornOutput (x : Flight) (s : State) : State :=
  match atOf s x.handle x.run x.step with
  | none => s
  | some a =>
    if !a.p.puts || !Config.storeCut s.tick then s
    else (a.dests a.done s).foldl (fun s t =>
      let h := Header.ofBytes (placeRead s t.header 64)
      openTile t.slot t.seg t.header h.gen (.cmd a.r.cmd) s) s

/-- Clear one engine (R91). -/
def clearEngine (n e : Nat) (f : Fail) (s : State) : State :=
  let old := getEng s n e
  let s1 := match old.flight with | some x => tornOutput x s | none => s
  endServed old f (resetEngRegs n e (setEng n e old.cleared s1))

/-! ### Rung 5: the module power cycle (R564) -/

/-- Does R545 keep the module down: a trip, and a sensor that still reads more than 80 °C? -/
def tooHot (s : State) : Bool := s.tray.hold == 2 && s.power.temps.any fun e => decide (80 < e.2)

/-- The capture, then CYCLE_REQ# where there is a main input to remove (R564, R650). Asked for after a trip or a power off,
it is what lets the module start again (R545); a removal that has come to SAFE is left as it is. -/
def moduleCycle (counts esc : Bool) (s : State) : State :=
  if underRung s 5 0 then s
  else
    let s1 := rungCapture 2 (beginRung 5 0 counts esc s)
    let keep := tooHot s || decide (4 ≤ getF s SVC_STATUS SVC_STATUS_RSTATE)
    { s1 with tray := { s1.tray with cycleReq := s1.tray.mainInput, hold := if keep then s1.tray.hold else 0 } }

def execModulePowerCycle (s : State) : Ans := .next (moduleCycle true false s)

/-! ### Rung 4: the chip reset (R563) -/

/-- Post the records of every command that has a result, where the ring is reachable. -/
def postAll (s : State) : State := s.cmds.foldl (fun s e => match s.cmds.find? (isCmd e.ref) with
  | some x => completeCmd x s
  | none => s) s

/-- Cores after a chip reset: idle, empty, their repairs kept. -/
def Core.afterReset (c : Core) (n : Nat) : Core :=
  { coreReset n with
    state := if c.state == .unassigned then .unassigned else .idle
    phys := c.phys
    fromSpare := c.fromSpare
    rowErrs := c.rowErrs
    spareRows := c.spareRows }

/-- Larders are cleared to zero with no poison. -/
def clearLarders (s : State) : State :=
  let out (a : Nat) : Bool := decide (a < 0x040000000000) || decide (0x050000000000 ≤ a)
  { s with
    mem := s.mem.filter fun c => out c.1
    poison := s.poison.filter fun x => out (64 * x) }

/-- Tallies restored under R392, with the record of each unit's nonzero counts. -/
def restoreTallies (units : List Nat) (s : State) : State :=
  let s1 := units.foldl (fun s d =>
    let n := (s.tallies.filter fun e => e.1 / 65536 == d && e.2.count != 0).length
    ledger 0x0407 0 (fenceCode domDie d) 0 (ledgerData [(0, 1, d), (4, 4, n)]) s) s
  { s1 with tallies := s1.tallies.filter fun e => !units.contains (e.1 / 65536) }

/-- Which fences a chip reset ends: those of cores, dies, partitions and stacks, unless the domain is held fenced beyond
its repeat limit. -/
def chipFence (s : State) (code : Nat) : Bool :=
  let d := code / 4096
  d == domCore || d == domPart || (d == domDie && getF s FLT_STATUS FLT_STATUS_DIE == 0) ||
  (d == domStack && getF s FLT_STATUS FLT_STATUS_STACK == 0)

def chipResetEffects (s : State) : State :=
  let s0 := s.cores.foldl (fun s e => setCore e.1 (e.2.afterReset e.1) s) s
  let s1 := { s0 with faults := { s0.faults with draining := [] } }
  -- every command in flight completes, and its record is written wherever its ring is reachable
  let s2 := postAll (abortWhere (fun _ => true) (fAbort 4) (failCommits (fun _ => true) (fAbort 4) s1))
  let s3 := restoreTallies [0, 1, 2, 3, 4] (clearLarders s2)
  let s4 := remapStacks (nearK s3) (resetRegs [.engine, .chip] s3)
  let s5 := { s4 with
    cmds := []
    heldPort := [], turns := [], actionEnd := 0, tallyEnd := 0, upsets := []
    queues := []
    ctxs := []
    parts := []
    staged := []
    segs := []
    dpool := []
    walks := []
    waiters := []
    progs := []
    partSets := []
    pA := { s4.pA with held := [] }
    pB := { s4.pB with held := [] }
    faults := { s4.faults with fenced := s4.faults.fenced.filter fun c => !chipFence s4 c }
    hc := { s4.hc with caches := s4.hc.caches.filter fun e => !isCore e.1 } }
  setReg Q_TABLE_BASE 0 s5

def chipReset (counts esc : Bool) (s : State) : State :=
  if counts ∧ rungSpent s 4 0 then moduleCycle true true s
  else
    let s1 := setSvc 3 (beginRung 4 0 counts esc s)
    let s2 := chipResetEffects (rungCapture 1 s1)
    let act := s2.faults.active.filter fun a => a.1 < 4
    let s3 := act.foldl (fun s a => abandonRung a.1 a.2.1 s) s2
    -- ORD_SVC has been reset with the chip: RECOVERY ends in NORMAL
    setSvc 1 (setF ORD_SVC ORD_SVC_STATE 3 (endRung 4 0 { bumpChain (bumpMeas (reloadReeves (trainPackage s3))) with chainPosted := true }))

def execChipReset (s : State) : Ans := .next (chipReset true false s)

/-! ### Rung 3: the partition reset (R562) -/

/-- A core when its partition has been reset: engines clear, no resident context or spilled chain of the partition, its
fence lifted (R196, R557). -/
def resetCore (p n : Nat) (s : State) : State :=
  let s0 := [0, 1, 2, 3].foldl (fun s e => clearEngine n e (fAbort 3) s) s
  let c := coreOf s0 n
  let mine (x : Nat) : Bool := (ctxOf s0 x).part == p
  let idle (e : Engine) : Engine := if e.state == .fenced then { e with state := if c.wasOff then .off else .idle } else e
  let lifted := c.state == .fenced && !isFenced s0 domDie (n / 64)
  let c1 := { c with
    resident := c.resident.filter fun x => !mine x
    spilled := c.spilled.filter fun x => !mine x.ctx
    offOwed := c.offOwed && !lifted
    state := if lifted then (if c.wasOff then .off else .idle) else c.state }
  let c2 := if lifted then { c1 with e0 := idle c.e0, e1 := idle c.e1, e2 := idle c.e2, e3 := idle c.e3 } else c1
  let s1 := setCore n c2 s0
  if lifted then
    let s2 := liftFence domCore n s1
    { s2 with faults := { s2.faults with resets := (s2.faults.resets.filter fun e => e.1 != 0x1000 + n) ++ [(0x1000 + n, clockNow s2)] } }
  else s1

def coresOfPart (s : State) (p : Nat) : List Nat := (List.range 256).filter fun n => bitAt (partOf s p).cores n

def partitionResetNow (p : Nat) (s : State) : State :=
  let mine (s : State) (e : Cmd) : Bool := (ctxOf s e.ref.ctx.toNat).part == p
  -- flights first, so that the runs end under the reset's cause
  let cs := (coresOfPart s p).filter fun n => s.cores.any fun e => e.1 == n
  let s1 := cs.foldl (fun s n => resetCore p n s) s
  let s2 := failCommits (·.part == p) (fAbort 3) s1
  let s3 := abortWhere (mine s2) (fAbort 3) s2
  let s4 := liftFence domPart p s3
  settleAborts (replaceAll p s4)

/-- Is a spare being mapped in on a core of the partition (Table 20-14)? -/
def partMapping (s : State) (p : Nat) : Bool := (coresOfPart s p).any fun n => (coreOf s n).state == .mappingIn

def partitionReset (p : Nat) (counts esc : Bool) (s : State) : State :=
  if counts ∧ rungSpent s 3 p then chipReset true true s
  else
    let low := s.faults.active.filter fun a =>
      (a.1 == 2 && partOfCore s (a.2.1 / 4) == some p) || (a.1 == 1 && (ctxOf s a.2.1).part == p)
    let s1 := low.foldl (fun s a => abandonRung a.1 a.2.1 s) (beginRung 3 p counts esc s)
    if partMapping s1 p then s1 else endRung 3 p (partitionResetNow p s1)

def execPartitionReset (p : BitVec 4) (s : State) : Ans := .next (partitionReset p.toNat true false s)

/-- The partition resets that waited for a spare to be mapped in. -/
def resumeResets (s : State) : State :=
  s.faults.active.foldl (fun s a =>
    if a.1 = 3 ∧ !partMapping s a.2.1 then endRung 3 a.2.1 (partitionResetNow a.2.1 s) else s) s

/-- The partition of a core, or the chip where no partition has it, takes a reset. -/
def resetPartOf (n : Nat) (counts esc : Bool) (s : State) : State :=
  match partOfCore s n with
  | some p => partitionReset p counts esc s
  | none => s

/-! ### Retirement (R570 to R573) -/

/-- What carries a physical core of a die: 0 ENABLED, 1 SPARE, 2 RETIRED (Table 20-19). -/
def physState (s : State) (d k : Nat) : Nat :=
  if s.faults.retired.contains (d * 68 + k) then 2
  else if (List.range 64).any fun i => (coreOf s (64 * d + i)).phys == k && (coreOf s (64 * d + i)).state != .unassigned then 0
  else 1

/-- The lowest-numbered unused spare of a die whose last patrol passed. -/
def freeSpare (s : State) (d : Nat) : Option Nat :=
  (List.range 68).find? fun k => physState s d k == 1 &&
    !((List.range 64).any fun i => ((coreOf s (64 * d + i)).mapping.map (·.phys)) == some k)

def retiredLedger (n old new trigger engine sec : Nat) (s : State) : State :=
  ledger 0x0206 4 (fenceCode domCore n) 0
    (ledgerData [(0, 1, n), (1, 1, old), (2, 1, new), (3, 1, trigger), (4, 1, engine), (5, 1, sec)]) s

/-- The engines of a retired core are RETIRED, each from its step boundary on (Table 03-10). -/
def retireEngines (c : Core) : Core :=
  let f (e : Engine) : Engine := if e.flight.isSome then e else { e with state := .retired, patrolDue := false }
  { c with e0 := f c.e0, e1 := f c.e1, e2 := f c.e2, e3 := f c.e3 }

/-- The larder of a core without the contents and the poison of its array: they cannot be read, or belong to no core. -/
def dropLarder (n : Nat) (s : State) : State :=
  let lo := larderBase n
  let out (a : Nat) : Bool := decide (a < lo) || decide (lo + 0x100000000 ≤ a)
  { s with mem := s.mem.filter (fun x => out x.1), poison := s.poison.filter fun x => out (64 * x) }

/-- Retire the core of a logical number: a spare begins to map in, or the number is left without a core (R571, R572). -/
def retireCore (n trigger engine sec : Nat) (s : State) : State :=
  let c := coreOf s n
  let d := n / 64
  if c.state == .unassigned ∨ c.mapping.isSome then s
  else match freeSpare s d with
    | some k =>
      let readable := c.state != .fenced && !isFenced s domCore n && !isFenced s domDie d
      setCore n { retireEngines c with
        state := .mappingIn, mapping := some ⟨k, trigger, engine, sec, readable⟩
        wasOff := c.state == .off || (c.wasOff && (c.state == .mappingIn || c.state == .fenced)), offOwed := c.state == .turningOff, offStage := false } s
    | none =>
      let s1 := failCore n (fAbort 3) s
      let s2 := setCore n { retireEngines (coreReset n) with state := .unassigned, phys := c.phys } s1
      let s3 := { s2 with faults := { s2.faults with retired := setInsert s2.faults.retired (d * 68 + c.phys) } }
      let s5 := retiredLedger n c.phys 0xFF trigger engine sec (setReason 3 (dropLarder n s3))
      resetPartOf n false false (bumpChain s5)

/-- The spare takes the number (R571). It waits for the steps in flight on the outgoing core. Nothing else that software sees
changes (R14): the registers of the block stay, and a core that was OFF is OFF. A larder that cannot be read is lost: the
spare's is empty until re-placement fills it from the homes. -/
def mapIn (n : Nat) (s : State) : State :=
  let c := coreOf s n
  match c.mapping with
  | none => s
  | some m =>
    if c.state ≠ .mappingIn ∨ c.engines.any (·.flight.isSome) then s
    else
      let s1 := [0, 1, 2, 3].foldl (fun s e => spillOwn n e s) s
      let s2 := flushCore (getF s1 HC_STATUS HC_STATUS_DIR_UP == 0) n s1
      let c2 := coreOf s2 n
      let fresh : Engine := if c2.wasOff then { Engine.reset with state := .off } else .reset
      let s3 := setCore n { c2 with
        state := if c2.wasOff then .off else .idle
        phys := m.phys, fromSpare := decide (64 ≤ m.phys), mapping := none
        e0 := fresh, e1 := fresh, e2 := fresh, e3 := fresh
        larderAwake := false, offPending := false, wakePending := false, offOwed := false
        testFailed := false, rowErrs := [], spareRows := [], rampUp := none, rampDown := none, rampWait := false } s2
      let s4 := liftFence domCore n { s3 with faults := { s3.faults with
        retired := setInsert s3.faults.retired (n / 64 * 68 + c.phys) } }
      let s5 := retiredLedger n c.phys m.phys m.trigger m.engine m.section_ (bumpChain s4)
      resumeResets (if m.copy then s5 else resetPartOf n false false (dropLarder n s5))

/-- The hourly patrol of an unused spare, or that of a spare being woken for a core (R571, R573). -/
def sparePatrol (d k : Nat) (failed : BitVec 4) (s : State) : State :=
  if 68 ≤ k ∨ physState s d k ≠ 1 ∨ failed = 0 then s
  else
    let s1 := ledger 0x0207 4 (fenceCode domDie d) 0 (ledgerData [(0, 1, k), (1, 1, failed.toNat)])
      { s with faults := { s.faults with retired := setInsert s.faults.retired (d * 68 + k) } }
    match (List.range 64).find? fun i => ((coreOf s1 (64 * d + i)).mapping.map (·.phys)) == some k with
    | none => s1
    | some i =>
      let n := 64 * d + i
      let c := coreOf s1 n
      match c.mapping with
      | some m => retireCore n m.trigger m.engine m.section_ (setCore n { c with mapping := none } s1)
      | none => s1

/-! ### Rung 2: the engine reset (R91, R561) -/

/-- Note an engine reset of a core; true when it is the eighth within 24 hours (Table 20-9). -/
def noteEngineReset (n : Nat) (s : State) : State × Bool :=
  let now := clockNow s
  let day := 86400000000000
  let rs := s.faults.resets.filter fun e => !(e.1 == 0x2000 + n && decide (e.2 + day ≤ now))
  let rs1 := rs ++ [(0x2000 + n, now)]
  ({ s with faults := { s.faults with resets := rs1 } }, decide (8 ≤ (rs1.filter fun e => e.1 == 0x2000 + n).length))

def engineReset (n e : Nat) (counts esc : Bool) (s : State) : State :=
  let t := 4 * n + e
  if counts ∧ rungSpent s 2 t then resetPartOf n true true s
  else
    let s1 := clearEngine n e (fAbort 2) (beginRung 2 t counts esc s)
    let (s2, eighth) := noteEngineReset n s1
    let s3 := settleAborts (endRung 2 t s2)
    if eighth then retireCore n 4 e 0 s3 else s3

def execEngineReset (core : BitVec 8) (engine : BitVec 2) (s : State) : Ans :=
  .next (engineReset core.toNat engine.toNat true false s)

/-- A unit of a core is found hung (R561): units 0 to 3 are the engines, the others are the SFU, the RSU, the copy unit and
the sequencer. -/
def execStepWatchdog (core : BitVec 8) (unit : BitVec 3) (s : State) : Ans :=
  let n := core.toNat
  if unit.toNat < 4 then
    (if (getEng s n unit.toNat).flight.isSome then .next (engineReset n unit.toNat true false s) else .next s)
  else .next (resetPartOf n true false s)

/-! ### Rung 1: the context abort (R560) -/

/-- Engines that still hold a step of a context. -/
def holdersOf (s : State) (x : Nat) : List (Nat × Nat) :=
  s.cores.flatMap fun e => e.2.engines.zipIdx.filterMap fun (g, i) =>
    match g.flight with | some f => if f.ctx = x then some (e.1, i) else none | none => none

def abortContext (x : Nat) (s : State) : State :=
  let s1 := if (ctxOf s x).state == .active then setCtx x { ctxOf s x with state := .aborting } s else s
  dropSpills (· == x) (abortWhere (fun e => e.ref.ctx.toNat == x) (fAbort 1) s1)

def contextAbort (x : Nat) (counts : Bool) (s : State) : State :=
  if (ctxOf s x).state == .free then s
  else if counts ∧ rungSpent s 1 x then
    (holdersOf s x).foldl (fun s p => engineReset p.1 p.2 true true s) (abortContext x s)
  else settleAborts (abortContext x (beginRung 1 x counts false s))

def execContextAbort (ctx : BitVec 32) (s : State) : Ans := .next (contextAbort ctx.toNat true s)

/-! ### Bounds and requests (R559, R565) -/

/-- A rung has not completed within its bound: the next rung is taken at once. -/
def escalate (r t : Nat) (s : State) : State :=
  if !underRung s r t then s
  else
    let s1 := endRung r t s
    match r with
    | 1 =>
      let hs := holdersOf s1 t
      let s2 := hs.foldl (fun s p => engineReset p.1 p.2 true true s) s1
      if (ctxOf s2 t).state == .aborting ∧ !ctxFlying s2 t then setCtx t { ctxOf s2 t with state := .active } s2 else s2
    | 2 => resetPartOf (t / 4) true true s1
    | 3 => chipReset true true s1
    | 4 => moduleCycle true true s1
    | _ => s

/-- Rung and target as FLT_RESET_REQ codes them. -/
def rungCode : RungRef → Nat × Nat
  | .context x => (1, x.toNat)
  | .engine c e => (2, 4 * c.toNat + e.toNat)
  | .partition p => (3, p.toNat)
  | .chip => (4, 0)
  | .module => (5, 0)

def execRungBoundExpiry (r : RungRef) (s : State) : Ans :=
  let (k, t) := rungCode r
  .next (escalate k t s)

/-- A requested rung. A target already under a rung sets LOST. -/
def requestRung (r t : Nat) (s : State) : State :=
  if underRung s r t ∨ (r < 5 ∧ underRung s 5 0) then setF FLT_RESET_STATUS FLT_RESET_STATUS_LOST 1 s
  else match r with
    | 1 => contextAbort t false s
    | 2 => engineReset (t / 4) (t % 4) false false s
    | 3 => partitionReset t false false s
    | 4 => chipReset false false s
    | 5 => moduleCycle false false s
    | _ => s

/-- Is the target of a rung one that exists? -/
def rungTargetOk (r t : Nat) : Bool :=
  match r with
  | 1 => decide (t ≤ maxCtx)
  | 2 => decide (t < 1024)
  | 3 => decide (t < 16)
  | 4 => t == 0
  | 5 => t == 0
  | _ => false

def execFltResetReq (w : Agent) (value : BitVec 64) (s : State) : Ans :=
  let ok : Bool := match w with | .warden => true | .host _ m => m | _ => false
  let r := bits value.toNat 63 60
  let t := bits value.toNat 23 0
  if ok ∧ rungTargetOk r t then .next (requestRung r t s) else .next s

/-! ### Domain resets (R566) -/

/-- The times of a domain's resets within the hour before `now`. -/
def resetsInHour (s : State) (dom idx now : Nat) : Nat :=
  (s.faults.resets.filter fun e => e.1 == 0x10000 + fenceCode dom idx && decide (now < e.2 + 3600000000000)).length

/-- The DOMAIN_RESET record. -/
def resetLedger (dom idx n : Nat) (s : State) : State :=
  let trig := (Config.rungTrigger s.tick).toNat
  let dur := (Config.duration s.tick).toNat
  ledger 0x0403 4 (fenceCode dom idx) 0 (ledgerData [(0, 1, dom), (1, 1, trig), (2, 4, dur), (6, 1, min 255 n)]) (advance s)

/-- A domain reset is counted; the answer says whether the domain is beyond its repeat limit in the hour. -/
def countReset (dom idx limit : Nat) (s : State) : State × Bool :=
  let now := clockNow s
  let had := resetsInHour s dom idx now
  ({ s with faults := { s.faults with resets := s.faults.resets ++ [(0x10000 + fenceCode dom idx, now)] } },
   limit != 0 && decide (limit ≤ had))

/-- A domain reset with its record. -/
def domainReset (dom idx limit : Nat) (s : State) : State × Bool :=
  let (s1, beyond) := countReset dom idx limit s
  (resetLedger dom idx (resetsInHour s1 dom idx (clockNow s)) s1, beyond)

/-! ### The host complex (R461, R462, R589) -/

/-- The atomics that wait at a home, whose data has not reached their requesters: they are not executed, and the steps of core caches
that made them fail. -/
def lostAtomics (s : State) : List Nat :=
  (s.hc.waiting.filterMap fun w => match w.2.2 with | .atomic _ => some w.1 | _ => none) ++
  (s.hc.busy.filterMap fun b => match b.kind with | .atomic _ => if b.delivered then none else some b.agent | _ => none)

/-- Dirty data of core caches that is on its way reaches its points of coherence with theirs (Table 15-8, log 148). -/
def saveFlight (s : State) : State :=
  let s1 := s.hc.snoops.foldl (fun s m => match m.answered with
    | some (some d, true, _) => if isCore m.holder then putLine m.line d s else s
    | _ => s) s
  s.hc.busy.foldl (fun s b => match b.data with
    | some d => if b.dirty && isCore b.agent && !b.delivered then putLine b.line d s else s
    | none => s) s1

def hostComplexReset (cause : Nat) (s : State) : State :=
  let lost := (lostAtomics s).filter isCore
  let s0 := setF HC_STATUS HC_STATUS_STATE 1 (setF HC_STATUS HC_STATUS_DIR_UP 0 (setF HC_STATUS HC_STATUS_HARTS_UP 0 s))
  let s1 := (List.range 256).foldl (fun s n => flushCore true n s) (saveFlight s0)
  let s2 := lost.foldl (fun s a => failCurrent (a - 128) (fHost 3) s) { s1 with hc := HostComplex.reset }
  let s3 := resetRegs [.host] s2
  let n := min 65535 (getF s3 HC_RESET_INFO HC_RESET_INFO_COUNT + 1)
  let s4 := setReg HC_RESET_INFO (bellNow s3 % 2 ^ 40 * 2 ^ 24 + cause % 16 * 2 ^ 16 + n) s3
  (domainReset domHost 0 0 s4).1

def execHostComplexReset (cause : BitVec 4) (s : State) : Ans := .next (hostComplexReset cause.toNat s)

/-- Zero DDR5 outside the enabled keep-ranges (R459). -/
def zeroDdr (s : State) : State :=
  let keepIt (a : Nat) : Bool := decide (a < ddrBase) || decide (ddrTop ≤ a) || kept s a
  { s with
    mem := s.mem.filter fun c => keepIt c.1
    poison := s.poison.filter fun x => keepIt (64 * x) }

/-- HC_CTL.READY (R461). -/
def execHcReady (s : State) : Ans :=
  let s1 := setF HC_CTL HC_CTL_READY 1 s
  if getF s HC_STATUS HC_STATUS_STATE = 2 then .next (setF HC_STATUS HC_STATUS_STATE 3 s1) else .next s1

end Sys2Proof.Machine
end

