-- ==== Sys2Proof/Machine/CoreOps.lean ====
section
/-! DEFINITION. Cores turned off, woken and moved (R192 to R198, R228), their ramps (R538 to R540), and the rows of a
larder or a stack that repeat errors (R182). -/

namespace Sys2Proof.Machine

open Sys2Proof

/-! ### The ramp governor (R538 to R540) -/

/-- Ramps of a die that began within the last 4 µs. -/
def rampsBegun (s : State) (d : Nat) : Nat :=
  (s.power.window.filter fun w => w.1 == d && decide (clockNow s < w.2 + 4000)).length

def noteRamp (d : Nat) (s : State) : State :=
  { s with power := { s.power with
    window := (s.power.window.filter fun w => decide (clockNow s < w.2 + 4000)) ++ [(d, clockNow s)] } }

/-- Begin a rise or a fall from a stage. -/
def beginRamp (n : Nat) (rise : Bool) (s : State) : State :=
  let c := coreOf s n
  let c1 := if rise then { c with rampUp := some 1, rampDown := none, rampWait := false }
    else { c with rampDown := some 1, rampUp := none, rampWait := false }
  noteRamp (n / 64) (setCore n c1 s)

/-- Ask for a ramp: it begins where the die's window has a place; else the core waits and is counted. -/
def askRamp (n : Nat) (rise : Bool) (s : State) : State :=
  if rampsBegun s (n / 64) < 8 then beginRamp n rise s
  else
    let c := coreOf s n
    incF (RAMP_WAITS (n / 64)) RAMP_WAITS_WAITS 1
      (setCore n (if rise then { c with rampUp := some 0, rampDown := none, rampWait := true }
        else { c with rampDown := some 0, rampUp := none, rampWait := true }) s)

/-! ### Moving a program off a core that is turned off (R228) -/

/-- Copy a tile slot of one larder to another, poison included. -/
def copySlot (n x m y : Nat) (s : State) : State :=
  let move (from_ to_ len : Nat) (s0 : State) : State :=
    let s := wakeLarder (.mem to_ none) (wakeLarder (.mem from_ none) s0)
    let bs := readMem s from_ len
    let bad := (List.range (len / 64)).filter fun i => s.poison.contains (from_ / 64 + i)
    bad.foldl (fun s i => poisonSector (to_ / 64 + i) s) (writeMem to_ bs s)
  move (slotHeader n x) (slotHeader m y) 64 (move (slotPayload n x) (slotPayload m y) 4096 s)

def mapSlot (l : List (Nat × Nat)) (x : Nat) : Nat := ((l.find? fun e => e.1 == x).map (·.2)).getD x

/-- A program with its steps, pins, rings and staging slots of core `n` moved to core `m`. -/
def Program.moved (p : Program) (n m : Nat) (l : List (Nat × Nat)) : Program :=
  let here (t : Stream) : Bool := (p.step? t.consumer).any fun x => x.core == n
  let ring (t : Stream) : Stream := { t with ring := t.ring.map (mapSlot l) }
  let move (t : Stream) : Stream := if t.cHere && !t.pHere then t else if here t then ring t else t
  let slot (y : StagedIn) : StagedIn :=
    if (p.step? y.step).any (fun x => x.core == n) then { y with slot := mapSlot l y.slot } else y
  let slots (r : Run) : Run := { r with staged := r.staged.map slot }
  { p with
    steps := p.steps.map fun t => if t.core = n then { t with core := m } else t
    pins := p.pins.map fun x => if x.core = n then { x with core := m, slot := mapSlot l x.slot } else x
    staging := p.staging.map fun t => if t.consumer = n then { ring t with producer := m, consumer := m } else t
    streams := p.streams.map move
    locals := p.locals.map move
    runs := p.runs.map slots }

/-- Give a counter of a stream a tally of another die, with its count (R228); none where the die has none. -/
def moveTally (die index to_ : Nat) (s : State) : Option (State × Nat) :=
  if die = to_ then some (s, index)
  else (lowestTally (tallyFree s to_) (tallyCount to_) 0).map fun i =>
    (setTally die index .reset (setTally to_ i (tallyOf s die index) s), i)

/-- Point the partner field of a member at its partner's tally. -/
def repoint (die index pdie pidx : Nat) (s : State) : State :=
  let t := tallyOf s die index
  setTally die index { t with attr := BitVec.ofNat 64 (setBits (setBits t.attr.toNat 15 13 pdie) 31 16 pidx) } s

/-- The counters of a stream go to die `pd` and die `cd`, each where it lies in this module. -/
def Stream.repointed (t : Stream) (pd cd : Nat) (s : State) : Option (State × Stream) := do
  let (s1, pi) ← if t.pHere then moveTally t.pDie t.pIndex pd s else pure (s, t.pIndex)
  let (s2, ci) ← if t.cHere then moveTally t.cDie t.cIndex cd s1 else pure (s1, t.cIndex)
  let u := { t with
    pDie := if t.pHere then pd else t.pDie, pIndex := pi
    cDie := if t.cHere then cd else t.cDie, cIndex := ci }
  let s3 := if u.pHere then repoint u.pDie u.pIndex u.cDie u.cIndex s2 else s2
  pure (if u.cHere then repoint u.cDie u.cIndex u.pDie u.pIndex s3 else s3, u)

/-- An add that waits follows its counter to where a move has put it. -/
def OwedAdd.follow (l : List (Stream × Stream)) (x : OwedAdd) : OwedAdd :=
  if x.peer ≠ 0 then x
  else match l.find? fun e => (e.1.pDie, e.1.pIndex) == (x.die, x.index) with
    | some (_, u) => { x with die := u.pDie, index := u.pIndex, otherDie := u.cDie, otherIndex := u.cIndex }
    | none => match l.find? fun e => (e.1.cDie, e.1.cIndex) == (x.die, x.index) with
      | some (_, u) => { x with die := u.cDie, index := u.cIndex, otherDie := u.pDie, otherIndex := u.pIndex }
      | none => x

/-- Repoint the counters of every stream of a program after a move: P on its consumer's die, C on its producer's (R214). -/
def Program.repoint (p : Program) (s : State) : Option (State × Program) := do
  let go (own : Bool) (x : State × List Stream) (t : Stream) : Option (State × List Stream) := do
    let core (i : Nat) : Nat := if own then i else ((p.step? i).map (·.core)).getD 0
    let (s1, u) ← t.repointed (if t.pHere then core t.consumer / 64 else t.pDie) (if t.cHere then core t.producer / 64 else t.cDie) x.1
    pure (s1, x.2 ++ [u])
  let (s1, a) ← p.streams.foldlM (go false) (s, [])
  let (s2, b) ← p.locals.foldlM (go false) (s1, [])
  let (s3, c) ← p.staging.foldlM (go true) (s2, [])
  let follow (r : Run) : Run := { r with owed := r.owed.map (OwedAdd.follow ((p.streams ++ p.locals).zip (a ++ b))) }
  pure (s3, { p with streams := a, locals := b, staging := c, runs := p.runs.map follow })

/-- Move one program's work from core `n` to core `m`. -/
def moveProg (h n m : Nat) (s : State) : State :=
  match progOf s h with
  | none => s
  | some p =>
    let old := p.slotsOn n
    let l := old.zip ((freeSlots s m).take old.length)
    match (p.moved n m l).repoint s with
    | none => s
    | some (s0, q) =>
      let s2 := setProg h (some q) (l.foldl (fun s e => copySlot n e.1 m e.2 s) s0)
      let cn := coreOf s2 n
      let mine (x : Spilled) : Bool := x.chain.cmd.isNone && x.chain.handle == h
      let s3 := setCore n { cn with spilled := cn.spilled.filter fun x => !mine x } s2
      let cm := coreOf s3 m
      (p.ctx :: p.runs.map (·.ctx)).foldl (fun s x => takeIn x m s)
        (setCore m { cm with spilled := cm.spilled ++ cn.spilled.filter mine } s3)

/-- A core of the partition, other than `n`, with room for what the program holds on `n` and for its contexts. -/
def moveTarget (s : State) (p : Program) (n : Nat) : Option Nat :=
  (partCores s p.part).find? fun m => m != n && coreOn s m && decide ((p.slotsOn n).length ≤ (freeSlots s m).length) &&
    decide (((p.ctx :: p.runs.map (·.ctx)).foldl setInsert (coreOf s m).resident).length ≤ 64) && p.sets.all (setUsable s m)

/-- Move what can be moved off a core that has been turned off; its resident contexts are those that still have work
there. -/
def moveContexts (n : Nat) (s : State) : State :=
  let s1 := s.progs.foldl (fun s e => match progOf s e.1 with
    | none => s
    | some p =>
      if !p.steps.any (fun t => t.core == n) then s
      else match moveTarget s p n with
        | some m => moveProg e.1 n m s
        | none => s) s
  let c := coreOf s1 n
  setCore n { c with resident := c.resident.filter fun x => hasWork s1 x n } s1

/-! ### Turning off and waking (R193, R194, R198) -/

/-- Begin the wake (R194): power, then the ramp, then the patrols. -/
def beginWake (n : Nat) (s : State) : State :=
  let c := coreOf s n
  askRamp n true (setCore n { c with state := .waking, wakePending := false, larderAwake := false } s)

def setEngines (n : Nat) (f : Engine → Engine) (s : State) : State :=
  let c := coreOf s n
  setCore n { c with e0 := f c.e0, e1 := f c.e1, e2 := f c.e2, e3 := f c.e3 } s

/-- The handshake is complete: the core is gated. -/
def finishOff (n : Nat) (s : State) : State :=
  let s1 := setEngines n (fun e => { e with state := .off, patrolDue := false, spillDue := false }) s
  let c := coreOf s1 n
  let s2 := moveContexts n (setCore n { c with
    state := .off, wasOff := true, offStage := false, rampDown := none, rampUp := none, rampWait := false } s1)
  if (coreOf s2 n).wakePending then beginWake n s2 else s2

/-- Writes that a core's commands and runs still have outstanding at other modules and guest sites. -/
def storesOwed (s : State) (n : Nat) : Bool :=
  let mine (b : Barrier) : Bool := match b with
    | .cmd d => (s.cmds.find? fun e => sameCmd e.ref d).any fun e => e.core == n
    | _ => false
  s.fab.outstanding.any (fun q => q.kind == 1 && mine q.owner) ||
  [false, true].any fun g => (guestOf s g).requests.any fun q => q.write && mine q.owner

/-- The handshake goes on once nothing is in flight, no patrol runs and the core's stores have drained: halves are spilled, the
core cache writes back, and the activity ramps down (stages 2 to 5, Table 15-9). A fall already under way is that of stage 5. -/
def offProgress (n : Nat) (s : State) : State :=
  let c := coreOf s n
  if c.state ≠ .turningOff ∨ c.offStage ∨ c.engines.any (fun e => e.flight.isSome || e.state == .patrol) ∨ storesOwed s n then s
  else
    let s1 := [0, 1, 2, 3].foldl (fun s e => spillOwn n e s) s
    let s2 := flushCore (getF s1 HC_STATUS HC_STATUS_DIR_UP == 0) n s1
    let s3 := setCore n { coreOf s2 n with offStage := true } s2
    if c.rampDown.isSome then s3 else askRamp n false s3

/-- A core fenced in its handshake: stages 3 and 4 of an engine that has nothing in flight (R198). -/
def owedSpill (n e : Nat) (s : State) : State :=
  if (coreOf s n).offOwed ∧ (getEng s n e).flight.isNone then spillOwn n e s else s

/-- A request to turn a core off (R193, Table 06-8). `cap` marks one of the cap policy. -/
def turnOff (n : Nat) (s : State) : State :=
  let c := coreOf s n
  match c.state with
  | .off | .fenced | .mappingIn | .unassigned | .turningOff => s
  | .waking => setCore n { c with offPending := true } s
  | .idle | .running | .parked => offProgress n (setCore n { c with state := .turningOff, wakePending := false } s)

/-- A request to wake a core: ignored unless it is OFF or TURNING_OFF (Table 06-8). -/
def wakeCore (n : Nat) (s : State) : State :=
  let c := coreOf s n
  match c.state with
  | .off => beginWake n s
  | .turningOff => setCore n { c with wakePending := true } s
  | _ => s

/-- All four patrols of a wake have passed: the core is on. -/
def wokenCheck (n : Nat) (s : State) : State :=
  let c := coreOf s n
  if c.state ≠ .waking ∨ c.rampUp.isSome ∨ c.engines.any (fun e => e.state == .patrol || e.state == .off) then s
  else
    let s1 := setCore n { c with state := .idle, wasOff := false, offPending := false } s
    if c.offPending then turnOff n s1 else s1

/-- A stage of a ramp passes (R538, R539). -/
def rampStage (n : Nat) (s : State) : State :=
  let c := coreOf s n
  if c.rampWait then s
  else match c.rampUp, c.rampDown with
    | some k, _ =>
      if k < 8 then setCore n { c with rampUp := some (k + 1) } s
      else
        let s1 := setCore n { c with rampUp := none } s
        if c.state = .waking then setEngines n (fun e => { e with state := .patrol }) s1 else s1
    | none, some k =>
      if k < 8 then setCore n { c with rampDown := some (k + 1) } s
      else
        let s1 := setCore n { c with rampDown := none } s
        if c.state ≠ .turningOff then s1 else if c.offStage then finishOff n s1 else offProgress n s1
    | none, none => offProgress n s

def execRampStage (core : BitVec 8) (s : State) : Ans := .next (rampStage core.toNat s)

/-- A waiting core gets its place; a core whose activity changes asks for one (R540). -/
def execRampStart (core : BitVec 8) (rise : Bool) (s : State) : Ans :=
  let n := core.toNat
  let c := coreOf s n
  if c.rampWait then .next (beginRamp n c.rampUp.isSome s)
  else if (c.state = .idle ∨ c.state = .running ∨ c.state = .parked) ∧ c.rampUp.isNone ∧ c.rampDown.isNone then
    .next (askRamp n rise s)
  else .next s

/-- A step that issues during a fall ends it: the core rises from that stage (R539). -/
def stopFall (n : Nat) (s : State) : State :=
  let c := coreOf s n
  match c.rampDown with
  | some k => if c.state = .turningOff then s else setCore n { c with rampDown := none, rampUp := some (max 1 (8 - k)), rampWait := false } s
  | none => s

/-! ### The rows (R199) -/

def isReeveWarden : Agent → Bool
  | .reeve _ | .warden => true
  | _ => false

def execCoreHold (w : Agent) (core : BitVec 8) (on : Bool) (s : State) : Ans :=
  if isReeveWarden w then .next (setF (CORE_CTL core.toNat) CORE_CTL_HOLD (bnat on) s) else .next s

def execOffReq (core : BitVec 8) (s : State) : Ans := .next (turnOff core.toNat s)

/-- A WAKE removes the core from the Warden's list of cores turned off (R537), and restarts the count of R535. -/
def execWake (core : BitVec 8) (s : State) : Ans :=
  let n := core.toNat
  .next (wakeCore n { s with power := { s.power with offs := s.power.offs.filter fun e => e.core != n, quiet := 0 } })

def execWakeHoldExpiry (core : BitVec 8) (s : State) : Ans :=
  let c := coreOf s core.toNat
  if c.state = .off then .next (setCore core.toNat { c with larderAwake := false } s) else .next s

/-! ### Rows that repeat errors (R182, R369) -/

def dayNs : Nat := 86400000000000

/-- A record after one more error: the corrected errors of the last 24 hours stay in it. -/
def RowErr.note (r : RowErr) (uncorr : Bool) (now : Nat) : RowErr :=
  if uncorr then { r with uncorr := r.uncorr + 1 }
  else { r with times := (r.times.filter fun t => decide (now < t + dayNs)) ++ [now] }

/-- Is a row due for a spare: two uncorrectable errors, or 16 corrected within 24 hours? -/
def RowErr.worn (r : RowErr) : Bool := decide (2 ≤ r.uncorr) || decide (16 ≤ r.times.length)

/-- One sector's error in a larder (R179, R182). -/
def larderError (n sec : Nat) (uncorr : Bool) (s : State) : State :=
  let word := (Config.errWord s.tick).toNat
  let a := larderBase n + 64 * sec
  let s0 := advance s
  let s1 := setReg (LARDER_ERR_ADDR n) (2 ^ 31 + bnat uncorr * 2 ^ 30 + sec * 64 + word * 8) s0
  let was := s.poison.contains (a / 64)
  let s2 :=
    if uncorr then
      let s2 := setF (LARDER_ECC n) LARDER_ECC_UNCORR 1 (poisonSector (a / 64) s1)
      if was then s2 else ledger 0x0102 2 (fenceCode domCore n) (moduleId s * 2 ^ 48 + a) (ledgerData [(0, 1, 1)])
        (satF (LARDER_ECC n) LARDER_ECC_UNCORR_COUNT 1 s2)
    else satF (LARDER_ECC n) LARDER_ECC_CORR_COUNT 1 (setF (LARDER_ECC n) LARDER_ECC_CORR 1 s1)
  let bank := sec % 64
  let row := sec / 64
  let key := row * 64 + bank
  let c := coreOf s2 n
  let used := Assoc.get (fun _ => 0) c.spareRows bank
  let r := (Assoc.get (fun _ => RowErr.zero) c.rowErrs key).note uncorr (clockNow s2)
  if r.worn ∧ used < 16 then
    ledger 0x0201 1 (fenceCode domCore n) (moduleId s * 2 ^ 48 + (larderBase n + row * 4096 + bank * 64))
      (ledgerData [(0, 1, 1), (1, 1, bank), (2, 1, 15 - used)])
      (setCore n { c with
        rowErrs := Assoc.put (fun _ => RowErr.zero) c.rowErrs key .zero
        spareRows := Assoc.put (fun _ => 0) c.spareRows bank (used + 1) } s2)
  else
    let r1 := if used = 16 ∧ uncorr then { r with after := r.after + 1 } else r
    -- a worn row of a bank without spares is only recorded, once for each time it wears out
    let r2 := if r.worn then { r1 with times := [], uncorr := 0 } else r1
    let note (s : State) : State := ledger 0x0201 1 (fenceCode domCore n)
      (moduleId s * 2 ^ 48 + (larderBase n + row * 4096 + bank * 64)) (ledgerData [(0, 1, 1), (1, 1, bank)]) s
    let s3 := setCore n { c with rowErrs := Assoc.put (fun _ => RowErr.zero) c.rowErrs key r2 } (if r.worn then note s2 else s2)
    if 2 ≤ r1.after then retireCore n 3 0 0 s3 else s3

/-- One scrub pass: the sectors in which errors were found, and whether each was uncorrectable. The scrub goes on while
the core is off. -/
def execLarderScrub (core : BitVec 8) (found : List (BitVec 17 × Bool)) (s : State) : Ans :=
  let n := core.toNat
  if (coreOf s n).state = .unassigned ∨ (coreOf s n).state = .mappingIn then .next s
  else .next (found.foldl (fun s f => if f.1.toNat < 98304 then larderError n f.1.toNat f.2 s else s) s)

end Sys2Proof.Machine
end

