-- ==== Sys2Proof/Machine/Power.lean ====
section
/-! DEFINITION. The power cap, boost and heat (R528 to R546): which cores the Warden turns off and wakes, boost grants, and
what readings of power, junctions and coolant do. -/

namespace Sys2Proof.Machine

open Sys2Proof

/-! ### Islands (Table 19-1) -/

/-- The island of a physical core. -/
def coreIsland (s : State) (n : Nat) : Nat := 68 * (n / 64) + (coreOf s n).phys

/-- The die an island lies on: 0 to 3 compute dies, 4 to 15 base dies, 16 host die, 17 and 18 I/O dies, 19 and 20 guests. -/
def islandDie (i : Nat) : Nat :=
  if i < 272 then i / 68
  else if i < 276 then i - 272
  else if i < 288 then i - 272
  else if i < 302 then 16
  else if i < 306 then 17 + i % 2
  else 19 + i % 2

/-- Points above the fixed one (R528): only core islands and host core groups have any. -/
def boostCount (i : Nat) : Nat := if i < 272 ∨ (288 ≤ i ∧ i < 300) then (Config.boostPoints i).toNat else 0

/-! ### The order in which cores are turned off (R533) -/

/-- The sort key of a core: no partition first, then ascending priority and partition number, least busy, highest number. -/
def offKey (s : State) (n : Nat) : Nat :=
  let busy := Assoc.get (fun _ => 0) s.power.loads n % 2 ^ 32
  let place := match partOfCore s n with
    | none => 0
    | some p => (256 + (partOf s p).priority % 256) * 16 + p
  (place * 2 ^ 32 + busy) * 256 + (255 - n)

/-- Insert by ascending key. -/
def insertKey (s : State) (n : Nat) : List Nat → List Nat
  | [] => [n]
  | m :: r => if offKey s n < offKey s m then n :: m :: r else m :: insertKey s n r

def sortOff (s : State) : List Nat → List Nat
  | [] => []
  | n :: r => insertKey s n (sortOff s r)

def inOffs (s : State) (n : Nat) : Bool := s.power.offs.any fun o => o.core == n

/-- Cores the Warden may choose: on or waking, and not chosen already. -/
def offChoice (s : State) (n : Nat) : Bool :=
  let st := (coreOf s n).state
  (st == .idle || st == .running || st == .parked || st == .waking) && !inOffs s n && coreUp s n

def offCandidates (s : State) (p : Nat → Bool) : List Nat :=
  sortOff s ((List.range 256).filter fun n => p n && offChoice s n)

def estOf (s : State) (n : Nat) : Nat := Assoc.get (fun _ => 0) s.power.ests n

/-- The Warden turns a core off for a cause. -/
def takeOff (cause n : Nat) (s : State) : State :=
  turnOff n { s with power := { s.power with
    offs := s.power.offs ++ [⟨n, estOf s n, cause⟩]
    moving := if cause = 0 then setInsert s.power.moving n else s.power.moving } }

/-- Turn cores off, in order, until their estimates reach the excess (in mW). -/
def takeExcess (excess : Nat) : List Nat → State → State
  | [], s => s
  | n :: r, s => if excess = 0 then s else takeExcess (excess - estOf s n) r (takeOff 0 n s)

/-! ### Waking (R535, R542) -/

/-- HOLD in force. -/
def holdSamples (s : State) : Nat := max 1 (min 1000 (getF s PWR_MODE_LIVE PWR_MODE_HOLD))

/-- Cores of a die that are on or on their way. -/
def coresOn (s : State) (d : Nat) : Nat :=
  ((List.range 64).filter fun i =>
    let st := (coreOf s (64 * d + i)).state
    st == .idle || st == .running || st == .parked || st == .waking).length

/-- CORES_LIMIT of a compute die (R574). -/
def coresLimit (s : State) (d : Nat) : Nat := getF s (PHASE_STATUS d) PHASE_STATUS_CORES_LIMIT

/-- May the Warden wake the core now, apart from the power it would draw? -/
def wakeAllowed (s : State) (o : OffCore) : Bool :=
  let d := o.core / 64
  (o.cause != 1 || decide (holdSamples s ≤ Assoc.get (fun _ => 0) s.power.quietTherm d)) &&
  decide (coresOn s d < coresLimit s d)

def wakeOne (o : OffCore) (s : State) : State :=
  let s1 := wakeCore o.core { s with power := { s.power with offs := s.power.offs.filter fun x => x.core != o.core } }
  { s1 with power := { s1.power with
    quiet := 0
    moving := if o.cause = 0 then setInsert s1.power.moving o.core else s1.power.moving } }

/-- Wake cores, newest off first, while their estimates fit in the room (mW). -/
def wakeRoom (room : Nat) : List OffCore → State → State
  | [], s => s
  | o :: r, s =>
    let st := (coreOf s o.core).state
    if st ≠ .off ∧ st ≠ .turningOff ∨ !wakeAllowed s o then wakeRoom room r s
    else if o.est ≤ room then wakeRoom (room - o.est) r (wakeOne o s)
    else s

/-! ### The 100 µs sample (R532 to R535) -/

/-- PWR_CAP.WATTS and HYST_W as they act, and the effective cap. -/
def capWatts (s : State) : Nat := max 1200 (min 4000 (getF s PWR_CAP PWR_CAP_WATTS))
def hystWatts (s : State) : Nat := max 20 (min 400 (getF s PWR_CAP PWR_CAP_HYST_W))
def effectiveCap (s : State) : Nat := if s.power.cooling then min 1200 (capWatts s) else capWatts s

/-- Is a core in a ramp, or on its way to one? -/
def inRamp (s : State) (n : Nat) : Bool :=
  let c := coreOf s n
  c.state == .turningOff || (c.state == .waking && c.rampUp.isSome)

/-- The registers a sample sets (Table 19-7). -/
def sampleRegs (watts mv current : Nat) (s : State) : State :=
  let seq := getF s PWR_INPUT PWR_INPUT_SEQ + 1
  let s1 := setReg PWR_INPUT (seq % 65536 * 2 ^ 48 + watts % 8192 * 2 ^ 32 + current % 65536 * 65536 + mv % 65536) s
  let s2 := setF PWR_PEAK PWR_PEAK_WATTS (max watts (getF s1 PWR_PEAK PWR_PEAK_WATTS)) s1
  let draw (k : Nat) : Nat := if k = 11 then 100 * watts else (Config.drawnUj s.tick k).toNat
  advance ((List.range 12).foldl (fun t k => incF (PWR_ENERGY k) PWR_ENERGY_UJ (draw k) t) s2)

/-- The readings of every core's energy and busy counters that come with a sample. -/
def noteEstimates (es : List (BitVec 8 × BitVec 16 × BitVec 32)) (s : State) : State :=
  es.foldl (fun s e => { s with power := { s.power with
    ests := Assoc.put (fun _ => 0) s.power.ests e.1.toNat e.2.1.toNat
    loads := Assoc.put (fun _ => 0) s.power.loads e.1.toNat e.2.2.toNat } }) s

/-- The policy's action on a sample that is not skipped. -/
def capAction (watts : Nat) (s : State) : State :=
  let cap := effectiveCap s
  if cap < watts then
    takeExcess (1000 * (watts - cap)) (offCandidates s fun _ => true) { s with power := { s.power with quiet := 0 } }
  else if watts + hystWatts s ≤ cap then
    let s1 := { s with power := { s.power with quiet := s.power.quiet + 1 } }
    if holdSamples s1 ≤ s1.power.quiet then wakeRoom (1000 * (cap - hystWatts s - watts)) s1.power.offs.reverse s1 else s1
  else { s with power := { s.power with quiet := 0 } }

def powerSample (watts mv current : Nat) (es : List (BitVec 8 × BitVec 16 × BitVec 32)) (s : State) : State :=
  let s1 := noteEstimates es (sampleRegs watts mv current s)
  let s2 := setF PWR_STATUS PWR_STATUS_OVER (bnat (decide (effectiveCap s1 < watts))) { s1 with power := { s1.power with
    sumWatts := s1.power.sumWatts + watts, samples := s1.power.samples + 1 } }
  let skip := !s2.power.moving.isEmpty
  let s3 := setF PWR_STATUS PWR_STATUS_SETTLING (bnat skip) { s2 with power := { s2.power with
    moving := s2.power.moving.filter (inRamp s2) } }
  if skip then { s3 with power := { s3.power with quiet := 0 } } else capAction watts s3

def execPowerSample (watts : BitVec 13) (milliVolt : BitVec 16) (current : BitVec 16)
    (estimates : List (BitVec 8 × BitVec 16 × BitVec 32)) (s : State) : Ans :=
  .next (powerSample watts.toNat milliVolt.toNat current.toNat estimates s)

/-- Samples have exceeded the effective cap for 10 ms with no core left to turn off (R536). -/
def execCapUnmet (s : State) : Ans :=
  if getF s PWR_STATUS PWR_STATUS_OVER = 0 ∨ !(offCandidates s fun _ => true).isEmpty then .next s
  else .next (raiseReg THERM_IRQ (ledger 0x0503 5 0 0 (ledgerData [(0, 2, getF s PWR_INPUT PWR_INPUT_WATTS)])
    (setF PWR_STATUS PWR_STATUS_CAP_UNMET 1 s)))

/-- A read of PWR_PEAK returns it and clears it. -/
def execPwrPeak (s : State) : Ans :=
  .next (setF PWR_PEAK PWR_PEAK_WATTS 0 (emit (.load (leBytes 4 (getReg s PWR_PEAK)) false) s))

/-! ### Heat (R541 to R543, R546) -/

def warnC (s : State) : Nat := max 70 (min 99 (getF s THERM_CTL THERM_CTL_WARN_C))

/-- One sensor's reading, or its failure. -/
def noteReading (s : State) (r : SensorReading) : State :=
  let i := r.island.toNat
  match r.celsius with
  | some c => { s with power := { s.power with
      temps := Assoc.put (fun _ => 0) s.power.temps i c.toNat
      badSensors := setErase s.power.badSensors i } }
  | none =>
    if s.power.badSensors.contains i then s
    else ledger 0x0504 0 0 0 (ledgerData [(0, 2, i)]) (satF THERM_STATUS THERM_STATUS_SENSOR_FAILS 1
      { s with power := { s.power with
        temps := Assoc.put (fun _ => 0) s.power.temps i 0
        badSensors := setInsert s.power.badSensors i } })

/-- The hottest of the valid readings: island and °C. -/
def hottest : List SensorReading → Option (Nat × Nat)
  | [] => none
  | r :: rest =>
    match r.celsius, hottest rest with
    | none, h => h
    | some c, none => some (r.island.toNat, c.toNat)
    | some c, some h => if h.2 ≤ c.toNat then some (r.island.toNat, c.toNat) else some h

/-- Does a valid reading of die `d` reach `c`? -/
def dieReaches (rs : List SensorReading) (d c : Nat) : Bool :=
  rs.any fun r => islandDie r.island.toNat == d && (match r.celsius with | some x => decide (c ≤ x.toNat) | none => false)

/-- The thermal rule on one compute die (R542). -/
def thermalDie (rs : List SensorReading) (s : State) (d : Nat) : State :=
  let q := Assoc.get (fun _ => 0) s.power.quietTherm d
  let put (n : Nat) (s : State) : State := { s with power := { s.power with quietTherm := Assoc.put (fun _ => 0) s.power.quietTherm d n } }
  if dieReaches rs d 100 then
    ((offCandidates s fun n => n / 64 == d).take 16).foldl (fun s n => takeOff 1 n s)
      (setF THERM_STATUS THERM_STATUS_OFF100 1 (put 0 s))
  else if dieReaches rs d 96 then put 0 s
  else put (q + 1) s

def thermalSample (rs : List SensorReading) (loads : List (BitVec 8 × BitVec 32)) (s : State) : State :=
  let s1 := rs.foldl noteReading { s with power := { s.power with
    loads := loads.foldl (fun m e => Assoc.put (fun _ => 0) m e.1.toNat e.2.toNat) s.power.loads } }
  let s2 := match hottest rs with
    | some (i, c) => setF THERM_STATUS THERM_STATUS_HOT_ISL i (setF THERM_STATUS THERM_STATUS_HOT_C c s1)
    | none => s1
  let other := (List.range 21).any fun d => decide (4 ≤ d) && dieReaches rs d 100
  let s3 := if (List.range 21).any (fun d => dieReaches rs d (warnC s)) then
    raiseReg THERM_IRQ (setF THERM_STATUS THERM_STATUS_WARN 1 s2) else s2
  [0, 1, 2, 3].foldl (thermalDie rs) { s3 with power := { s3.power with noBoost := s3.power.noBoost || other } }

/-- The hottest valid reading held of a die. -/
def dieTemp (s : State) (d : Nat) : Nat := (s.power.temps.filter fun e => islandDie e.1 == d).foldl (fun m e => max m e.2) 0

/-- Temperature sensors that crossed their warning threshold, either way (R621, R623). -/
def crossings (before s : State) : State :=
  (List.range 21).foldl (fun s d =>
    let hot (x : State) : Bool := decide (warnC s ≤ dieTemp x d)
    if hot before == hot s then s else sensorEvent (0x10 + d) (dieTemp s d) s) s

def execThermalSample (readings : List SensorReading) (loads : List (BitVec 8 × BitVec 32)) (s : State) : Ans :=
  .next (crossings s (thermalSample readings loads s))

/-- Coolant readings; `held` says that the condition, or its absence, has lasted as long as R546 asks. -/
def execCoolantSample (inlet outlet : BitVec 12) (flow : BitVec 12) (held : Bool) (s : State) : Ans :=
  let bad := decide (flow.toNat < 10 * getF s THERM_CTL THERM_CTL_FLOW_MIN) || decide (450 < inlet.toNat)
  let s1 := setReg COOL_STATUS (flow.toNat * 2 ^ 48 + outlet.toNat * 2 ^ 32 + inlet.toNat * 65536) s
  let note (b : Bool) (s : State) : State :=
    ledger 0x0506 0 0 0 (ledgerData [(0, 1, bnat b), (2, 2, flow.toNat), (4, 2, inlet.toNat)])
      { s with power := { s.power with cooling := b } }
  if held ∧ bad ∧ !s.power.cooling then .next (note true (setF PWR_STATUS PWR_STATUS_COOLING 1 s1))
  else if held ∧ !bad ∧ s.power.cooling then .next (note false s1)
  else .next s1

/-! ### Boost (R529 to R531) -/

/-- The highest point of an island, at most `k`, whose added power fits in the headroom. -/
def bestPoint (s : State) (i room : Nat) : Nat → Nat
  | 0 => 0
  | k + 1 => if (Config.boostWatts s.tick i (k + 1)).toNat ≤ room then k + 1 else bestPoint s i room k

/-- Does a sensor on the island's die read at or above the warning level? -/
def dieWarm (s : State) (i : Nat) : Bool := s.power.temps.any fun e => islandDie e.1 == islandDie i && decide (warnC s ≤ e.2)

/-- Grant points to islands in order, from the headroom that is left. -/
def grantPoints (room : Nat) : List Nat → State → State
  | [], s => s
  | i :: r, s =>
    let k := if dieWarm s i then 0 else bestPoint s i room (boostCount i)
    let used := if k = 0 then 0 else (Config.boostWatts s.tick i k).toNat
    grantPoints (room - used) r { s with power := { s.power with granted := Assoc.put (fun _ => 0) s.power.granted i k } }

/-- The islands eligible for boost, in the order of R530. -/
def boostOrder (s : State) : List Nat :=
  let running := (List.range 256).filter fun n => offChoice s n && (coreOf s n).engines.any (·.flight.isSome)
  let cores := if getF s PWR_MODE_LIVE PWR_MODE_BOOST_CORES = 1 then (sortOff s running).reverse.map (coreIsland s) else []
  let groups := if getF s PWR_MODE_LIVE PWR_MODE_BOOST_HOST = 1 ∧ getF s HC_STATUS HC_STATUS_STATE = 3 then
    (List.range 12).map (288 + ·) else []
  cores ++ groups

/-- The grants of an edge; host core groups change point within 1 µs, cores at their next step boundary (R531). -/
def grantBoost (s : State) : State :=
  let mean := s.power.sumWatts / max 1 s.power.samples
  let room := capWatts s - hystWatts s - mean
  let s1 := { s with power := { s.power with granted := [], sumWatts := 0, samples := 0, noBoost := false } }
  let s2 := advance (if s.power.noBoost then s1 else grantPoints room (boostOrder s) s1)
  (List.range 12).foldl (fun s g =>
    let i := 288 + g
    { s with power := { s.power with points := Assoc.put (fun _ => 0) s.power.points i (Assoc.get (fun _ => 0) s.power.granted i) } }) s2

/-- A core island takes the point granted at the edge (R531). -/
def execBoostPointChange (core : BitVec 8) (s : State) : Ans :=
  let i := coreIsland s core.toNat
  .next { s with power := { s.power with
    points := Assoc.put (fun _ => 0) s.power.points i (Assoc.get (fun _ => 0) s.power.granted i) } }

end Sys2Proof.Machine
end

