-- ==== Sys2Proof/Machine/Bell.lean ====
section
/-! DEFINITION. The bell (R306 to R321, R331): its edge, discipline, class B values, the items staged for it, context pages,
allotment refill, and what waits for it. -/

namespace Sys2Proof.Machine

open Sys2Proof

/-! ### Class B registers (R8, R10) -/

/-- Replace the bits of a mask. -/
def mergeBits (old new mask : Nat) : Nat := old - (old &&& mask) + (new &&& mask)

/-- One class B register takes effect. -/
def latchReg (r : RegRow) (d off : Nat) (s : State) : State :=
  setReg (off + d) (mergeBits (getReg s (off + d)) (getReg s off) r.classB) s

/-- The registers of a row that may differ from their LIVE shadow. -/
def latchRow (s : State) (r : RegRow) : State :=
  match r.live with
  | none => s
  | some d =>
    if r.classB = 0 then s
    else (s.regs.map (·.1)).foldl (fun s k =>
      let s1 := if (r.index k).isSome then latchReg r d k s else s
      if d ≤ k ∧ (r.index (k - d)).isSome then latchReg r d (k - d) s1 else s1) s

def latchAll (s : State) : State := regTable.foldl latchRow s

/-! ### Items staged for the bell (R298, R299) -/

def rOverCap : Nat := 0x0E

/-- A core's timeouts become its partition's (R225). -/
def putTimeouts (n t t2 : Nat) (s : State) : State :=
  setReg (TIER_TMO2_LIVE n) t2 (setReg (TIER_TMO2 n) t2 (setReg (TIER_TMO_LIVE n) t (setReg (TIER_TMO n) t s)))

/-- The sets a partition is still loading (R146). -/
def loadingSets (s : State) (p : Nat) : List FSet :=
  s.staged.filterMap fun i => match i.item with
    | .setLoad id => if i.target = p then
        s.cores.findSome? fun e => (e.2.sets.find? fun l => l.set.setId == id).map (·.set) else none
    | _ => none

/-- A core joins a partition: the sets that the partition holds, which the Reeve has still to load, those it is loading, and the
partition's timeouts (R146, R225). Sets that are leaving the core stay until nothing uses them. -/
def joinCore (p : Nat) (s : State) (n : Nat) : State :=
  let pt := partOf s p
  let held := (s.partSets.filter fun x => x.1 == p).map (·.2)
  let c0 := coreOf s n
  let s0 := setCore n { c0 with sets := c0.sets.filter (·.leaving) } s
  let s1 := held.foldl (fun s f => addSet f s n) s0
  let c1 := coreOf s1 n
  let usable (l : LoadedSet) : LoadedSet :=
    if l.leaving then l else { l with valid := true, unloading := unloadWaits s p l.set.setId }
  let s2 := setCore n { c1 with sets := c1.sets.map usable, joining := !held.isEmpty } s1
  let new := (loadingSets s2 p).filter fun f => !held.any fun g => g.setId == f.setId
  putTimeouts n pt.tierTmo pt.tierTmo2 (new.foldl (fun s f => addSet f s n) s2)

/-- A core leaves: the partition's sets leave it, each once nothing there uses it, and what can move moves (R146, R228). -/
def leaveCore (s : State) (n : Nat) : State :=
  let c := coreOf s n
  moveContexts n (setCore n { c with sets := c.sets.map fun l => { l with leaving := true }, joining := false } s)

def applyCores (p map : Nat) (s : State) : State :=
  let old := (partOf s p).cores
  let gone := (List.range 256).filter fun n => bitAt old n && !bitAt map n
  let new := (List.range 256).filter fun n => bitAt map n && !bitAt old n
  let s1 := gone.foldl leaveCore (setPart p { partOf s p with cores := map } s)
  sweep (new.foldl (joinCore p) s1)

/-- An item of a partition takes effect, and its command completes. -/
def applyItem (i : StagedItem) (s : State) : State :=
  let p := i.target
  let pt := partOf s p
  let ok (v : Part) : State := finish i.cmd .ok 0 (setPart p v s)
  match i.item with
  | .cores m => finish i.cmd .ok 0 (applyCores p m s)
  | .caps e st f h pr => ok { pt with capEngine := e, capStack := st, capFabric := f, capHost := h, priority := pr }
  | .mode b => ok { pt with strict := b }
  | .timeouts t t2 =>
    finish i.cmd .ok 0 ((coresOfPart s p).foldl (fun s n => putTimeouts n t t2 s) (setPart p { pt with tierTmo := t, tierTmo2 := t2 } s))
  | .vectors b c k => ok { pt with vecBase := b, vecCount := c, irqKind := k }
  | .volumes m => ok { pt with volumes := m }
  | .grant g => ok { pt with grants := pt.grants ++ [g] }
  | .refused code detail => finishFail i.cmd (code, detail) s
  | .revoke d f =>
    let gone := pt.grants.filter fun g => g.die == d && g.first == f
    let waits (w : Waiter) : Bool := waiterPart s w.owner == p && gone.any fun g =>
      g.die == w.die && decide (g.first ≤ w.index) && decide (w.index < g.first + g.count)
    dropWaiters waits (fSeg 11 0 rTally) (ok { pt with grants := pt.grants.filter fun g => !(g.die == d && g.first == f) })
  | _ => s

/-- Items of partitions that take effect at a bell. -/
def isPartItem (i : StagedItem) : Bool :=
  match i.item with
  | .cores _ | .caps .. | .mode _ | .timeouts .. | .vectors .. | .volumes _ | .grant _ | .revoke .. | .refused .. => true
  | _ => false

def isAllot (i : StagedItem) : Bool := match i.item with | .allot _ => true | _ => false

/-- An ALLOT_SET meets the caps in force from this bell (R298). -/
def applyAllot (i : StagedItem) (s : State) : State :=
  match i.item with
  | .allot a =>
    let x := i.target
    let cx := ctxOf s x
    let p := partOf s cx.part
    if p.capEngine < a.engine.toNat ∨ p.capStack < a.stack.toNat ∨ p.capFabric < a.fabric.toNat ∨ p.capHost < a.host.toNat then
      finishFail i.cmd (fParam rOverCap 0) (restoreHead x s)
    else
      finish i.cmd .ok 0 (restoreHead x (setCtx x { cx with
        engine := { cx.engine with base := a.engine.toNat }
        stack := { cx.stack with base := a.stack.toNat }
        fabric := { cx.fabric with base := a.fabric.toNat }
        host := { cx.host with base := a.host.toNat }
        carry := a.carry } s))
  | _ => s

def applyStaged (s : State) : State :=
  let items := s.staged
  let s0 := { s with staged := s.staged.filter fun i => !isPartItem i && !isAllot i }
  let s1 := (items.filter isPartItem).foldl (fun s i => applyItem i s) s0
  (items.filter isAllot).foldl (fun s i => applyAllot i s) s1

/-- Set loads whose every target core holds the set complete (R143). -/
def completeLoads (s : State) : State :=
  s.staged.foldl (fun s i => match i.item with
    | .setLoad id =>
      let cores := targetCores s i.target
      let mine (l : LoadedSet) : Bool := l.set.setId == id && !l.leaving
      let heldBy (n : Nat) : Bool := (coreOf s n).sets.any fun l => mine l && l.held
      if !cores.all heldBy then s
      else
        let set := cores.findSome? fun n => ((coreOf s n).sets.find? mine).map (·.set)
        let usable (l : LoadedSet) : LoadedSet := if mine l ∧ !l.valid then { l with valid := true, since := bellNow s } else l
        let s1 := cores.foldl (fun s n => setCore n { coreOf s n with sets := (coreOf s n).sets.map usable } s) s
        let known := s1.partSets.any fun x => x.1 == i.target && x.2.setId == id
        let s2 := { s1 with
          staged := s1.staged.filter (· != i)
          partSets := match set with | some f => if known then s1.partSets else s1.partSets ++ [(i.target, f)] | none => s1.partSets }
        bumpMeas (finish i.cmd .ok 0 s2)
    | _ => s) s

/-! ### Allotments at the edge (R317, R318) -/

def capOfClass (p : Part) (k : Nat) : Nat :=
  match k with | 1 => p.capEngine | 2 => p.capStack | 3 => p.capFabric | _ => p.capHost

/-- The allotments of a partition's contexts in a class, each at most its cap, summed. -/
def totalBase (s : State) (p k : Nat) : Nat :=
  ((ctxsOf s p).map fun e => min (budgetOf e.2 k).base (capOfClass (partOf s p) k)).sum

/-- Is a class of a partition scaled (R318)? -/
def scaled (s : State) (p k : Nat) : Bool := decide (capOfClass (partOf s p) k < totalBase s p k)

/-- The effective allotment of a context in a class, in granules (R318). -/
def effective (s : State) (x : Ctx) (k : Nat) : Nat :=
  let cap := capOfClass (partOf s x.part) k
  let base := min (budgetOf x k).base cap
  if scaled s x.part k then base * cap / totalBase s x.part k else base

/-- What a core's local balance holds, apart from what the last edge has already counted (R317). -/
def freshBal (b : Budget) (n : Nat) : Int := localBal b n - Assoc.get (fun _ => 0) b.stale n

/-- The fresh balances of every core. -/
def freshBals (b : Budget) : List Int := (((b.locals ++ b.stale).map (·.1)).foldl setInsert []).map (freshBal b)

/-- Unspent units and debt of the period that ends (R317). -/
def unspentOf (b : Budget) : Nat := b.pool + ((freshBals b).map (·.toNat)).sum
def debtOf (b : Budget) : Nat := ((freshBals b).map fun x => (-x).toNat).sum

/-- A budget after the edge, given its new effective allotment in units, and whether it carries (R317). The cores apply the
reset of their local balances a little later. -/
def refill (e : Nat) (carry : Bool) (b : Budget) : Budget :=
  let kept := if carry then min (unspentOf b) e else 0
  let due := debtOf b + b.owed
  { b with eff := e, pool := e + kept - due, owed := due - (e + kept), start := e + kept - due, stale := b.locals }

/-- SPENT of the period just ended, in granules, 32 bits (R317, R319). -/
def spentOf (k : Nat) (b : Budget) : Nat := ceilDiv (b.start + debtOf b - unspentOf b) (granule k) % 2 ^ 32

/-- The bits of the parked entries, by class. -/
def parkedMask (l : List Nat) : Nat := l.foldl (fun m e => m ||| 2 ^ (e % 4)) 0

/-- A context at the edge: pages, budgets, and the cores it is still parked on (R317, R318, R320). `s` is the state whose
caps and allotments apply. -/
def edgeCtx (s : State) (x : Ctx) : Ctx :=
  let e (k : Nat) : Nat := effective s x k * granule k
  let spent := spentOf 1 x.engine + spentOf 2 x.stack * 2 ^ 32 + spentOf 3 x.fabric * 2 ^ 64 + spentOf 4 x.host * 2 ^ 96
  let scaledBits := ([1, 2, 3, 4].map fun k => if scaled s x.part k then 2 ^ (k - 1) else 0).sum
  let now := setBits (setBits x.next 383 256 spent) 511 384 (x.parkedBits + scaledBits * 256)
  let y := { x with
    engine := refill (e 1) x.carry x.engine
    stack := refill (e 2) x.carry x.stack
    fabric := refill (e 3) x.carry x.fabric
    host := refill (e 4) x.carry x.host
    now := now
    next := setBits now 511 256 0 }
  let still := x.parked.filter fun c => (budgetOf y (c % 4 + 1)).pool == 0
  { y with parked := still, parkedBits := parkedMask still }

def edgeCtxs (s : State) : State :=
  s.ctxs.foldl (fun t c => setCtx c.1 (edgeCtx s c.2) t) s

/-! ### The count (R307, R312) -/

/-- The count of an edge, and the lock jump. -/
def nextCount (schedule : Nat) (s : State) : State :=
  let step (s : State) : State := { s with bell := s.bell + 1 }
  if getF s BELL_SYNC BELL_SYNC_STATE ≠ 1 ∨ s.jumped then step s
  else if schedule ≤ bellNow s then step (setF BELL_SYNC BELL_SYNC_ORIGIN_BAD 1 s)
  else
    let s1 := setF BELL_SYNC BELL_SYNC_ORIGIN_BAD 0 (setF BELL_SYNC BELL_SYNC_JUMPED 1 (setF BELL_SYNC BELL_SYNC_STEPPED 1 s))
    { s1 with bell := BitVec.ofNat 64 schedule, jumped := true }

/-- A change of discipline state, with its ledger record (R311). -/
def setDiscipline (st : Nat) (s : State) : State :=
  let old := getF s BELL_SYNC BELL_SYNC_STATE
  if old = st then s
  else ledger 0x0501 0 0 0 (ledgerData [(0, 1, old), (1, 1, st), (4, 4, getF s BELL_OFFSET ⟨31, 0⟩)])
    (setF BELL_SYNC BELL_SYNC_STATE st s)

/-- The edge's offset from the reference; beyond 10 µs a LOCKED unit acquires again (R311). -/
def measureOffset (s : State) : State :=
  let st := getF s BELL_SYNC BELL_SYNC_STATE
  if st = 0 then s
  else
    let o := Config.bellOffset s.tick
    let s1 := setReg BELL_OFFSET o.toNat (advance s)
    if st = 2 ∧ 10000 < o.toInt.natAbs then setDiscipline 1 s1 else s1

/-- The errors that strike by this edge. -/
def strike (s : State) : State :=
  let of (x : BitVec 2 × BitVec 8 × BitVec 42) : List Upset :=
    match x.1.toNat with
    | 0 => [.set x.2.1.toNat x.2.2.toNat]
    | 1 => [.tag x.2.1.toNat x.2.2.toNat]
    | 2 => [.data x.2.1.toNat x.2.2.toNat]
    | _ => [.transfer (x.2.1.toNat % 12) (x.2.2.toNat % 2 == 1)]
  { advance s with upsets := s.upsets ++ (Config.upsets s.tick).flatMap of }

/-- The edge: count, class B values, staged items, pages and pools, loads, the fills of re-placed programs that had parked
(R229), switches, boost, and what strikes the memories. -/
def bellEdge (schedule : Nat) (s : State) : State :=
  let s1 := applyStaged (latchAll (measureOffset (advance (nextCount schedule s))))
  strike (settle (grantBoost (switchEpochs (bellNow s1) (refillAll (completeLoads (edgeCtxs s1))))))

def execBellEdge (schedule : BitVec 64) (s : State) : Ans := .next (bellEdge schedule.toNat s)

/-- A core applies the edge's reset of its local balances (R317): what it charged since stays. -/
def resetLocal (n : Nat) (b : Budget) : Budget :=
  { b with
    locals := Assoc.put (fun _ => (0 : Int)) b.locals n (freshBal b n)
    stale := Assoc.put (fun _ => (0 : Int)) b.stale n 0 }

def execLocalBalanceReset (core : BitVec 8) (s : State) : Ans :=
  let n := core.toNat
  .next (s.ctxs.foldl (fun s c =>
    let x := ctxOf s c.1
    setCtx c.1 { x with engine := resetLocal n x.engine, stack := resetLocal n x.stack, fabric := resetLocal n x.fabric,
                        host := resetLocal n x.host } s) s)

/-! ### Discipline (R310 to R313) -/

/-- A source becomes valid: 1 1PPS with 10 MHz, 2 1PPS, 3 PTP; SRC_PREF may shut it out (R310, R311). -/
def execBellSourceValid (source : BitVec 3) (s : State) : Ans :=
  let k := source.toNat
  let pref := getF s BELL_CTL BELL_CTL_SRC_PREF
  let allowed := pref == 0 || (pref == 1 && (k == 1 || k == 2)) || (pref == 2 && k == 3)
  let cur := getF s BELL_SYNC BELL_SYNC_SOURCE
  if k = 0 ∨ 3 < k ∨ !allowed then .next s
  else
    let s1 := if cur = 0 ∨ k < cur then setF BELL_SYNC BELL_SYNC_SOURCE k s else s
    let st := getF s BELL_SYNC BELL_SYNC_STATE
    .next (if st = 0 ∨ st = 3 then setDiscipline 1 s1 else s1)

/-- The offset has stayed within 100 ns for 1 s: only a unit on its schedule can lock (R311, R312). -/
def execBellLocked (s : State) : Ans :=
  if getF s BELL_SYNC BELL_SYNC_STATE = 1 ∧ s.jumped then .next (setDiscipline 2 s) else .next s

/-- The source has been invalid for 2 s after LOCKED (R311, R653). -/
def execBellHoldover (s : State) : Ans :=
  if getF s BELL_SYNC BELL_SYNC_STATE = 2 then
    .next (setDiscipline 3 (setF BELL_SYNC BELL_SYNC_SOURCE 0 (setF BELL_SYNC BELL_SYNC_HOLDOVER_EVT 1 s)))
  else .next s

/-! ### Context pages (R319) -/

/-- A store to the next page: only an aligned 8-byte store to bytes 64 to 127 of a context in use has an effect. -/
def execCtxPageStore (ctx : BitVec 32) (off : BitVec 7) (bytes : BitVec 4) (value : BitVec 64) (s : State) : Ans :=
  let x := ctx.toNat
  let c := ctxOf s x
  let o := off.toNat
  if x = 0 ∨ c.state = .free ∨ bytes ≠ 8 ∨ o % 8 ≠ 0 ∨ o < 64 then .next s
  else .next (setCtx x { c with next := setBits c.next (8 * o + 63) (8 * o) value.toNat } s)

end Sys2Proof.Machine
end

