-- ==== Sys2Proof/Machine/Tiers.lean ====
section
/-! DEFINITION. The memory tiers below the larders (R361 to R389) and the stores that are declared failed (R429, R430):
stack errors, sparing and fences, the DDR5 controller, the cellar's window, sticks and bays. -/

namespace Sys2Proof.Machine

open Sys2Proof

/-- The 8 bytes or more a load returns, or its access fault. -/
def loadAnswer (bs : List Byte) (fault : Bool) (s : State) : State := emit (.load bs fault) s

/-! ### Stacks (R361 to R370) -/

/-- Channel of a sector of a stack, by the sector's stack-local number (R365). -/
def localChannel (sec : Nat) : Nat := bits sec 3 0 ^^^ bits (sec / 64) 3 0

/-- Is each of the two spares in use, or being filled? -/
def Stack.unfree (x : Stack) : Bool := decide (2 ≤ x.spares.length + x.sparing.length)

/-- A channel starts being copied into a free spare (R368). -/
def startSparing (k c : Nat) (s : State) : State :=
  let x := stackOf s k
  if x.sparing.contains c ∨ x.unfree then s
  else setF (STK_STATUS k) STK_STATUS_SPARING 1 (setStack k { x with sparing := x.sparing ++ [c] } s)

/-- Is a channel past its limits: 1,000 corrected sectors in 24 hours, or uncorrectable errors in 4 rows (R368)? -/
def channelWorn (x : Stack) (c : Nat) : Bool :=
  decide (1000 ≤ (Assoc.get (fun _ => RowErr.zero) x.chErrs c).times.length) || decide (4 ≤ (x.badRows.filter fun r => r.1 == c).length)

/-- A worn row gets a spare row of its channel; once they are used, it is only recorded (R369, R182, log 144). -/
def repairRow (k c row : Nat) (s : State) : State :=
  let x := stackOf s k
  let used := Assoc.get (fun _ => 0) x.spareRows c
  let all := (Config.stackSpareRows k c).toNat
  let note (left : Nat) : State → State := ledger 0x0201 1 (fenceCode domStack k)
    (moduleId s * 2 ^ 48 + stackAddr s k (64 * row)) (ledgerData [(0, 1, 2), (1, 1, c), (2, 1, left)])
  let y := { x with rowErrs := Assoc.put (fun _ => RowErr.zero) x.rowErrs row .zero }
  if !(Assoc.get (fun _ => RowErr.zero) x.rowErrs row).worn then s
  else if all ≤ used then note 0 (setStack k y s)
  else note (all - used - 1) (incF (STK_STATUS k) STK_STATUS_ROWS_REPAIRED 1 (setStack k { y with
    spareRows := Assoc.put (fun _ => 0) x.spareRows c (used + 1) } s))

/-- An error of one sector, found by the scrub or on a read (R366, R368, R369). -/
def stackError (k sec : Nat) (uncorr : Bool) (s : State) : State :=
  let a := stackAddr s k (64 * sec)
  let s1 := setReg (STK_ERR_ADDR k) (2 ^ 63 + bnat uncorr * 2 ^ 62 + a) s
  let s2 :=
    if uncorr then
      let was := s.poison.contains (a / 64)
      let s2 := setF (STK_ECC k) STK_ECC_UNCORR 1 (poisonSector (a / 64) s1)
      if was then s2 else ledger 0x0102 2 (fenceCode domStack k) (moduleId s * 2 ^ 48 + a) (ledgerData [(0, 1, 2)])
        (satF (STK_ECC k) STK_ECC_UNCORR_COUNT 1 s2)
    else satF (STK_ECC k) STK_ECC_CORR_COUNT 1 (setF (STK_ECC k) STK_ECC_CORR 1 s1)
  let c := localChannel sec
  let row := (Config.stackRow k sec).toNat
  let x := stackOf s2 k
  let now := clockNow s2
  let note (m : Assoc RowErr) (key : Nat) : Assoc RowErr :=
    Assoc.put (fun _ => RowErr.zero) m key ((Assoc.get (fun _ => RowErr.zero) m key).note uncorr now)
  let y := { x with
    chErrs := note x.chErrs c
    rowErrs := note x.rowErrs row
    badRows := if uncorr ∧ !x.badRows.contains (c, row) then x.badRows ++ [(c, row)] else x.badRows }
  let s3 := repairRow k c row (setStack k y s2)
  if channelWorn y c then startSparing k c s3 else s3

/-- One pass of a base die's scrub (R367); a fenced stack is not scrubbed. -/
def execStackScrub (stack : BitVec 4) (found : List (BitVec 31 × Bool)) (s : State) : Ans :=
  let k := stack.toNat
  if 12 ≤ k ∨ isFenced s domStack k then .next s
  else .next (advance (found.foldl (fun s f => stackError k f.1.toNat f.2 s) s))

/-- The copy that began first ends: the spare takes the channel's number (R368). A fence has stopped it, and it starts again. -/
def execChannelSpareDone (stack : BitVec 4) (s : State) : Ans :=
  let k := stack.toNat
  let x := stackOf s k
  match x.sparing with
  | [] => .next s
  | c :: rest =>
    if isFenced s domStack k then .next s
    else
      let i := x.spares.length
      let s1 := setStack k { x with
        sparing := rest
        spares := x.spares ++ [c]
        chErrs := Assoc.put (fun _ => RowErr.zero) x.chErrs c .zero
        badRows := x.badRows.filter fun r => r.1 != c
        spareRows := Assoc.put (fun _ => 0) x.spareRows c 0 } s
      let s2 := setF (STK_STATUS k) STK_STATUS_SPARING (bnat !rest.isEmpty) s1
      let s3 := if i = 0 then setF (STK_STATUS k) STK_STATUS_SPARE0_CH c (setF (STK_STATUS k) STK_STATUS_SPARE0_USED 1 s2)
        else setF (STK_STATUS k) STK_STATUS_SPARE1_CH c (setF (STK_STATUS k) STK_STATUS_SPARE1_USED 1 s2)
      .next (ledger 0x0202 1 (fenceCode domStack k) 0 (ledgerData [(0, 1, k), (1, 1, c), (2, 1, i)]) s3)

/-- A channel fails: with both spares in use the stack is degraded (R370); before that the channel is spared, and one that is
being copied goes on being copied. -/
def execChannelFail (stack : BitVec 4) (channel : BitVec 4) (s : State) : Ans :=
  let k := stack.toNat
  let c := channel.toNat
  let x := stackOf s k
  if 12 ≤ k ∨ x.failed.contains c ∨ x.sparing.contains c then .next s
  else if !x.unfree then .next (startSparing k c s)
  else
    let s1 := setF (STK_STATUS k) STK_STATUS_DEGRADED 1 (setStack k { x with failed := x.failed ++ [c] } s)
    .next (setReason 0 (ledger 0x0203 4 (fenceCode domStack k) 0 (ledgerData [(0, 1, k), (1, 1, c)]) s1))

/-- A base die falls silent, or its stack needs retraining (R374). Beyond the repeat limit it stays fenced (Table 20-6). -/
def fenceStack (k : Nat) (s : State) : State :=
  if 12 ≤ k ∨ isFenced s domStack k then s
  else
    let s1 := fencedLedger domStack k 0 0 (raiseFence domStack k ((linksOf (5 + k)).foldl (fun s i => fenceLink i s) s))
    let (s2, beyond) := domainReset domStack k 4 s1
    if beyond then setReason 0 (setF (STK_STATUS k) STK_STATUS_STATE 3 s2) else setF (STK_STATUS k) STK_STATUS_STATE 4 s2

def execStackFence (stack : BitVec 4) (s : State) : Ans := .next (fenceStack stack.toNat s)

/-- The stack is trained, its contents kept, and its accesses resume. -/
def execStackReady (stack : BitVec 4) (s : State) : Ans :=
  let k := stack.toNat
  let st := getF s (STK_STATUS k) STK_STATUS_STATE
  if 12 ≤ k ∨ st = 2 ∨ st = 3 then .next s
  else .next (settle (liftFence domStack k (setF (STK_STATUS k) STK_STATUS_STATE 2 (returnLinks (5 + k) s))))

/-! ### Host DDR5 (R377, R378) -/

/-- The controller resets: the tier is fenced, its registers reset, its contents outside keep-ranges are lost (R378,
Table 20-6). -/
def ddrReset (s : State) : State :=
  if isFenced s domDdr 0 then s
  else
    let s1 := setF DDR_STATUS DDR_STATUS_STATE 3 (resetRegs [.ddr] (zeroDdr (fencedLedger domDdr 0 0 0 (raiseFence domDdr 0 s))))
    let (s2, beyond) := domainReset domDdr 0 2 s1
    if beyond then setReason 2 s2 else s2

def execDdrControllerReset (s : State) : Ans := .next (ddrReset s)

/-- The controller is READY: `speed` is true at DDR5-6400. -/
def execDdrReady (speed : Bool) (s : State) : Ans :=
  let st := getF s DDR_STATUS DDR_STATUS_STATE
  if st = 2 ∨ bitAt (getReg s FLT_STATUS) 2 then .next s
  else .next (settle (liftFence domDdr 0 (setF DDR_STATUS DDR_STATUS_SPEED (1 + bnat speed)
    (setF DDR_STATUS DDR_STATUS_CH_UP 0xFF (setF DDR_STATUS DDR_STATUS_STATE 2 s)))))

/-- A post-package repair of a row (R377). -/
def execDdrRepair (channel : BitVec 3) (row : BitVec 48) (hard : Bool) (s : State) : Ans :=
  .next (ledger 0x0204 1 (fenceCode domDdr 0) (moduleId s * 2 ^ 48 + row.toNat) (ledgerData [(0, 1, channel.toNat), (1, 1, bnat hard)])
    (incF DDR_STATUS DDR_STATUS_PPR_DONE 1 s))

/-! ### The cellar's window (R381, R382) -/

/-- The status of an access through an aperture, or where it lands. -/
def windowPlace (s : State) (a : Nat) (write : Bool) : Except Fail (Nat × Nat) :=
  let v := (a - 0x060000000000) / 0x100000000
  let b := aperBase s v * mib2 + a % 0x100000000
  match refusal s write (.cellar v) with
  | some f => .error f
  | none => if getF s (CELLAR_VOL v) CELLAR_VOL_SIZE * mib2 < b + 8 then .error (fSeg 0 0 rVolume) else .ok (v, b)

/-- An aligned 8-byte access to an aperture by a host core. A refused read, or one of a poisoned sector, takes an access
fault; a refused write is dropped (R430). -/
def execCellarWindowAccess (addr : BitVec 48) (write : Option (BitVec 64)) (s : State) : Ans :=
  let a := addr.toNat
  if a % 8 ≠ 0 ∨ a < 0x060000000000 ∨ 0x070000000000 ≤ a then .next (loadAnswer [] true s)
  else match windowPlace s a write.isSome, write with
    | .error _, some _ => .next s
    | .error _, none => .next (loadAnswer [] true s)
    | .ok (v, b), some x => .next (buffered v (b / 4096) (writeCellar v b (leBytes 8 x.toNat) s))
    | .ok (v, b), none =>
      if cellarPoisoned s v b 8 then .next (loadAnswer [] true s) else .next (loadAnswer (readCellar s v b 8) false s)

/-! ### The translation layer (R383, R384) -/

/-- Poison a tile of a volume: its payload and its header. -/
def poisonVolTile (v i : Nat) (s : State) : State :=
  let l := getF s (CELLAR_VOL v) CELLAR_VOL_SIZE * mib2
  let secs := touchedSectors (cellarKey v (4096 * i)) 4096 ++ touchedSectors (cellarKey v (l - l / 64 + 64 * i)) 64
  { s with cellarPoison := secs.foldl setInsert s.cellarPoison }

/-- A late or uncorrectable chunk: `good` chunks of its stripe can be read. With six the tile is rebuilt and nothing shows;
with fewer it is lost. -/
def execSlowChunkRead (volume : BitVec 8) (tile : BitVec 48) (good : BitVec 4) (s : State) : Ans :=
  let v := volume.toNat
  let i := tile.toNat
  if 6 ≤ good.toNat ∨ volTiles s v ≤ i then .next s
  else .next (ledger 0x0103 2 0 0 (ledgerData [(0, 1, v), (8, 8, i)]) (poisonVolTile v i s))

/-- Moving data wears the stick: LIFE_USED may rise. -/
def wearStick (b : Nat) (s : State) : State :=
  advance (setF (CELLAR_BAY b) CELLAR_BAY_LIFE_USED
    (max (getF s (CELLAR_BAY b) CELLAR_BAY_LIFE_USED) (Config.lifeUsed s.tick).toNat) s)

/-- A stick of the cellar whose data is in use. -/
def isMember (s : State) (b : Nat) : Bool := bitAt s.tray.inSync b || bitAt s.tray.rebuilding b

/-- A block read 50,000 times is moved: no access sees it. -/
def execReadDisturbRelocate (bay : BitVec 3) (_block : BitVec 32) (s : State) : Ans :=
  if isMember s bay.toNat then .next (wearStick bay.toNat s) else .next s

/-- Data 90 days old is rewritten: no access sees it. -/
def execRetentionRewrite (bay : BitVec 3) (_block : BitVec 32) (s : State) : Ans :=
  if isMember s bay.toNat then .next (wearStick bay.toNat s) else .next s

/-! ### Bays (R385, R386) -/

/-- States of a bay (Table 12-15). -/
def bayEmpty : Nat := 0
def bayMember : Nat := 1
def bayRebuilding : Nat := 2
def bayForeign : Nat := 3
def bayFailed : Nat := 4
def bayRetiring : Nat := 5

def setBit (m b : Nat) (on : Bool) : Nat := if bitAt m b == on then m else if on then m + 2 ^ b else m - 2 ^ b

def popcount8 (m : Nat) : Nat := ((List.range 8).filter fun b => bitAt m b).length

/-- The cellar's state by its bays (Table 12-4): FORMING until six bays have once been in sync. -/
def cellarState (t : Tray) : Nat :=
  let n := popcount8 t.inSync
  if 8 ≤ n then 0 else if n = 7 then 1 else if n = 6 then 2 else if t.formed then 3 else 4

/-- CELLAR_STATUS follows the bays. -/
def showCellar (s : State) : State :=
  let t := { s.tray with formed := s.tray.formed || decide (6 ≤ popcount8 s.tray.inSync) }
  setF CELLAR_STATUS CELLAR_STATUS_STATE (cellarState t) (setF CELLAR_STATUS CELLAR_STATUS_IN_SYNC (popcount8 t.inSync)
    (setF CELLAR_STATUS CELLAR_STATUS_PRESENT t.present (setF CELLAR_STATUS CELLAR_STATUS_REBUILDING t.rebuilding
      { s with tray := t })))

/-- A bay takes a state. -/
def setBay (b st : Nat) (s : State) : State :=
  let t := s.tray
  let s := if st = bayEmpty then setF (SVC_BAY b) SVC_BAY_SAFE 0 s else s
  let t1 := { t with
    present := setBit t.present b (st != bayEmpty)
    inSync := setBit t.inSync b (st == bayMember || (st == bayRetiring && bitAt t.inSync b))
    rebuilding := setBit t.rebuilding b (st == bayRebuilding)
    foreign := setBit t.foreign b (st == bayForeign)
    failed := setBit t.failed b (st == bayFailed)
    retiring := setBit t.retiring b (st == bayRetiring) }
  ledger 0x0209 0 (fenceCode domBay b) 0 (ledgerData [(0, 1, b), (1, 1, st)])
    (showCellar (setF (CELLAR_BAY b) CELLAR_BAY_STATE st { s with tray := t1 }))

/-- What a stick reports of its own wear. -/
def showStick (b : Nat) (s : State) : State :=
  advance (setF (CELLAR_BAY b) CELLAR_BAY_LIFE_USED (Config.lifeUsed s.tick).toNat
    (setF (CELLAR_BAY b) CELLAR_BAY_SPARE_PCT (Config.sparePct s.tick).toNat s))

def execBadBlockRetire (bay : BitVec 3) (_block : BitVec 32) (sparePct : BitVec 8) (s : State) : Ans :=
  let b := bay.toNat
  if !isMember s b then .next s
  else
    let s1 := setF (CELLAR_BAY b) CELLAR_BAY_SPARE_PCT sparePct.toNat s
    if sparePct.toNat < 2 ∧ bitAt s.tray.inSync b ∧ !bitAt s.tray.retiring b then .next (setBay b bayRetiring s1) else .next s1

/-- A stick is inserted (R386): a member resynchronises, a blank one is adopted and rebuilt, another cellar's waits. -/
def execStickInsert (bay : BitVec 3) (kind : StickKind) (s : State) : Ans :=
  let b := bay.toNat
  if bitAt s.tray.present b then .next s
  else match kind with
    | .member | .blank => .next (setBay b bayRebuilding (setF (CELLAR_BAY b) CELLAR_BAY_REBUILT_GIB 0 (showStick b s)))
    | .foreign => .next (setBay b bayForeign (showStick b s))

def execStickRemove (bay : BitVec 3) (s : State) : Ans :=
  let b := bay.toNat
  if !bitAt s.tray.present b then .next s
  else .next (setBay b bayEmpty (setReg (CELLAR_BAY b) 0 s))

/-- The last stripe of a rebuild is written: the bay is in sync (R386). -/
def execRebuildComplete (bay : BitVec 3) (s : State) : Ans :=
  let b := bay.toNat
  if !bitAt s.tray.rebuilding b then .next s
  else .next (stickBack b (setBay b bayMember
    (setF (CELLAR_BAY b) CELLAR_BAY_REBUILT_GIB (Config.rebuiltGib s.tick).toNat (advance s))))

/-- CELLAR_CTL.ADOPT: foreign sticks are erased and rebuilt; other bays ignore their bit. -/
def adoptBays (bays : Nat) (s : State) : State :=
  (List.range 8).foldl (fun s b =>
    if bitAt bays b && bitAt s.tray.foreign b then setBay b bayRebuilding (setF (CELLAR_BAY b) CELLAR_BAY_REBUILT_GIB 0 s) else s) s

def execAdopt (bays : BitVec 8) (s : State) : Ans := .next (adoptBays bays.toNat s)

/-- A stick fails (Table 20-6). -/
def execStickFailure (bay : BitVec 3) (s : State) : Ans :=
  let b := bay.toNat
  if !bitAt s.tray.present b ∨ bitAt s.tray.failed b then .next s else .next (setBay b bayFailed s)

/-! ### Stores declared failed (R429, R430) -/

/-- ORD_ERR bit and the status of a failed store (Table 14-4). -/
def storeFail (s : State) : StoreTarget → Nat × Fail
  | .larder n => (0, if isFenced s domDie (n.toNat / 64) then fFenced domDie (n.toNat / 64) else fFenced domCore n.toNat)
  | .stack k => (1, fFenced domStack k.toNat)
  | .ddr => (2, fFenced domDdr 0)
  | .cellar => (3, fFenced domBay (lowestMissing s))
  | .guest g1 => (4, fFenced domGuest (bnat g1))
  | .remote m => (5, fPeer m.toNat)
  | .extA => (6, fHost 1)
  | .extB => (7, fHost 2)

/-- The address ORD_ERR_ADDR records: a bus address for an external host, else global. -/
def storeAddr (s : State) (t : StoreTarget) (a : Nat) : Nat :=
  match t with
  | .extA | .extB => a
  | .remote m => m.toNat * 2 ^ 48 + a % 2 ^ 48
  | _ => moduleId s * 2 ^ 48 + a % 2 ^ 48

/-- Who waits on a failed store, or on a request that a target has refused, gets its status (R430, R472). -/
def failOwner (f : Fail) (c : CmdRef) (s : State) : State :=
  match s.progs.findSome? fun e => e.2.bind fun p => (p.runs.find? fun r => sameCmd r.cmd c).map fun r => (e.1, r.id) with
  | some (h, r) => failRun h r f s
  | none => failStored c f (unwait c s)

def failBarrier (f : Fail) (b : Barrier) (s : State) : State :=
  match b with
  | .cmd c => failOwner f c s
  | .step h r _ => failRun h.toNat r.toNat f s
  | .none => s

/-- Is a store's target among the destinations of a FENCE (R276)? -/
def fenceCovers (s : State) (k : FenceKind) (t : StoreTarget) : Bool :=
  match k, t with
  | .all, _ => true
  | .module m, .remote n => m == n && m.toNat != moduleId s
  | .module _, .extA | .module _, .extB => false
  | .module m, _ => m.toNat == moduleId s
  | .extA, .extA | .extB, .extB => true
  | .extA, _ | .extB, _ => false
  | .onModule, .remote _ | .onModule, .extA | .onModule, .extB => false
  | .onModule, _ => true

/-- The barriers of queues that wait for a store of command `d`: FENCEs whose destinations it is of, and releases (R276, R430). -/
def waitsOn (s : State) (t : StoreTarget) (d : CmdRef) (e : Cmd) : Bool :=
  e.result.isNone && hasPlace s e && (match e.instr with
    | some (.fence _ k) => d.queue == e.ref.queue && counterBefore d.index e.ref.index && fenceCovers s k t
    | i => isRelease i && releaseWaitsFor s e d)

def failWaiting (t : StoreTarget) (f : Fail) (b : Barrier) (s : State) : State :=
  match b with
  | .cmd d => (s.cmds.filter (waitsOn s t d)).foldl (fun s e => finishFail e.ref f s) s
  | _ => s

/-- A store is declared failed (R429, R430). `agent` holds AGENT in bits [11:8] and UNIT in bits [7:0] (Table 14-12). -/
def storeFailed (t : StoreTarget) (a agent engine : Nat) (b : Barrier) (s : State) : State :=
  let (bit, f) := storeFail s t
  let src := 2 ^ 31 + bit * 2 ^ 24 + agent % 256 * 2 ^ 16 + agent / 256 % 16 * 2 ^ 12 + engine % 4
  let at_ := storeAddr s t a
  let was := bitAt (getReg s ORD_ERR) bit
  let s1 := incF ORD_ERR_COUNT ORD_ERR_COUNT_COUNT 1 (orReg ORD_ERR (2 ^ bit) s)
  let s2 := if getF s ORD_ERR_SRC ORD_ERR_SRC_VALID = 1 then s1 else setReg ORD_ERR_SRC src (setReg ORD_ERR_ADDR at_ s1)
  let s3 := ledger 0x0306 4 (if bit < 5 then f.2 else 0) at_ (ledgerData [(0, 1, bit), (1, 4, src)]) s2
  let s4 := if was then s3 else raiseReg ORD_IRQ s3
  settle (failBarrier f b (failWaiting t f b s4))

def execStoreDeclaredFailed (target : StoreTarget) (addr : BitVec 64) (agent : BitVec 16) (engine : BitVec 2)
    (barrier : Barrier) (s : State) : Ans :=
  .next (storeFailed target addr.toNat agent.toNat engine.toNat barrier s)

/-! ### Poisoned data of another module or a guest (R58, R180) -/

/-- The destination of the sector at `a` that a raw copy has asked for. -/
def rawDest (s : State) (o : Barrier) (slot a : Nat) : Option Place :=
  match o with
  | .cmd c =>
    let x := c.ctx.toNat
    let seg (k : Nat) : Option Seg := (descMem s x k).map (Seg.ofNat (ctxOf s x).part)
    (match (cmdOf s c).instr with
    | some (.copy _ (.raw src dst _)) =>
      if slot = 0 then
        (seg src.seg.toNat).bind fun gs => (seg dst.seg.toNat).map fun gd =>
          placeOf s gd (dst.off.toNat + (a - gs.base - src.off.toNat))
      else none
    | _ => none)
  | _ => none

/-- Poisoned data reaches its requester: the destination sector of a raw copy is poisoned, where it can be; any other command that
reads it fails as corrupt, and the ledger records it. -/
def poisonedData (o : Barrier) (slot : Nat) (src : Place) (s : State) : State :=
  let a := match src with | .far _ a => a | _ => 0
  match rawDest s o slot a with
  | some (.mem d k) => placePoisonWrite (.mem d k) s
  | some (.far ..) => s
  | _ => failBarrier (fTile slot .corrupt) o (ledgerCorrupt slot src (Header.ofBytes []) s)

end Sys2Proof.Machine
end

