-- ==== Sys2Proof/Machine/Dies.lean ====
section
/-! DEFINITION. Die links, and one compute die lost while the others run (R490 to R494, R500, R501), with the coherence
agents that are lost with a die or a guest. -/

namespace Sys2Proof.Machine

open Sys2Proof

/-! ### Links (R493) -/

/-- An end of a link with nothing to send sends a BEAT (R493). -/
def execBeat (link : BitVec 6) (s : State) : Ans :=
  let st := linkState s link.toNat
  if link.toNat < 44 ∧ (st = 2 ∨ st = 3) then .next (emit (.beat link.toNat) s) else .next s

/-- A lane is repaired onto a redundant lane, or its module is dropped (R493), which is a reason for replacement
(Table 20-16). -/
def execDieLinkRepair (link : BitVec 6) (lane : BitVec 8) (dropped : Bool) (s : State) : Ans :=
  let i := link.toNat
  let x := DL_LINK_STATUS i
  if 44 ≤ i then .next s
  else
    let s1 := if dropped then
        setReason 6 (setF x DL_LINK_STATUS_STATE 3 (setF x DL_LINK_STATUS_MODULES_UP (getF s x DL_LINK_STATUS_MODULES_UP - 1) s))
      else satF x DL_LINK_STATUS_LANES_REPAIRED 1 s
    .next (ledger 0x0205 1 0 0 (ledgerData [(0, 1, 2), (1, 1, i), (2, 1, lane.toNat), (3, 1, bnat dropped)]) s1)

/-! ### Lost coherence agents (R498, Table 17-7) -/

/-- Drop an agent from every directory entry. -/
def dropFromDirs (a : Nat) (s : State) : State :=
  s.hc.dir.foldl (fun s e => setDir e.1 ((dirOf s e.1).drop a) s) s

/-- An agent's copies are lost: homes take them as invalid and keep the last written-back values; snoops of it are answered
so, and its own requests end. -/
def loseAgent (a : Nat) (s : State) : State :=
  let s1 := dropFromDirs a (setPcache a .empty s)
  let s2 := { s1 with hc := { s1.hc with waiting := s1.hc.waiting.filter fun w => w.2.1 != a } }
  let s3 := (s2.hc.busy.filter (·.agent == a)).foldl (fun s b => freeLine b.line s) s2
  let s4 := { s3 with hc := { s3.hc with snoops := s3.hc.snoops.filter fun m => (busyOf s3 m.line).isSome } }
  pump ((s4.hc.snoops.filter (·.holder == a)).foldl (fun s m => match busyOf s m.line with
    | some b => snpRespAt m.line b.addr m b (none, false, .i) s
    | none => s) s4)

/-! ### A compute die is lost (R500) -/

/-- The next unfenced die in ring order. -/
def nextDie (s : State) (d : Nat) : Nat :=
  ((List.range 3).map fun i => (d + i + 1) % 4).find? (fun x => !isFenced s domDie x) |>.getD d

/-- The pool die of a partition: that of its lowest enabled core (R315). -/
def poolDie (s : State) (p : Nat) : Nat :=
  match (coresOfPart s p).find? fun n => (coreOf s n).state != .unassigned && !isFenced s domDie (n / 64) with
  | some n => n / 64
  | none => if isFenced s domDie (p % 4) then nextDie s (p % 4) else p % 4

/-- Pools that cannot be read start from 0. -/
def zeroPools (x : Ctx) : Ctx :=
  { x with
    engine := { x.engine with pool := 0 }, stack := { x.stack with pool := 0 }
    fabric := { x.fabric with pool := 0 }, host := { x.host with pool := 0 } }

/-- A core becomes FENCED with its die. -/
def fenceCoreState (n : Nat) (s : State) : State :=
  let c := coreOf s n
  if c.state == .unassigned then s
  else
    let f (e : Engine) : Engine := { e with state := .fenced, flight := none, patrolFor := none }
    let s1 := setCore n { c with
      state := .fenced, wasOff := (c.wasOff && c.state == .mappingIn) || c.state == .off, offStage := false, offOwed := false
      e0 := f c.e0, e1 := f c.e1, e2 := f c.e2, e3 := f c.e3
      rampUp := none, rampDown := none, rampWait := false, offPending := false, wakePending := false } s
    { s1 with power := { s1.power with
      offs := s1.power.offs.filter fun o => o.core != n
      moving := s1.power.moving.filter (· != n) } }

/-- Runs with a step on the die that has not ended. -/
def runsOn (s : State) (d : Nat) : List (Nat × Nat) :=
  s.progs.flatMap fun e => match e.2 with
    | none => []
    | some p => (p.runs.filter fun r => r.failed.isNone && p.steps.zipIdx.any fun (x, i) => x.core / 64 == d && !r.done.contains i).map fun r => (e.1, r.id)

def ownsRun (s : State) (c : CmdRef) : Bool :=
  s.progs.any fun e => match e.2 with | none => false | some p => p.runs.any fun r => sameCmd r.cmd c

/-- Commands that wait for a self-test's patrol on a core. -/
def patrolCmds (c : Core) : List CmdRef := c.engines.filterMap (·.patrolFor)

/-- A partition whose commands or contexts the loss touches. -/
def partsOn (s : State) (d : Nat) : List Nat :=
  (List.range 16).filter fun p => (coresOfPart s p).any fun n => n / 64 == d

/-- The registers of a die that its reset returns to their reset values (R635): its core blocks and its counters. -/
def dieReg (d off : Nat) : Bool :=
  (decide (0x1000000 + 0x400000 * d ≤ off) && decide (off < 0x1400000 + 0x400000 * d)) ||
  [TALLY_OPS d, TALLY_WAITERS d, TALLY_FAULTS d, WALK_DONE d, WALK_FAIL d, RAMP_WAITS d].contains off

end Sys2Proof.Machine
end

