-- ==== Sys2Proof/Machine/Guests.lean ====
section
/-! DEFINITION. Guest sites (R495 to R499): negotiation, the guest as target and as initiator, its fence and its reset. -/

namespace Sys2Proof.Machine

open Sys2Proof

/-- States of a site (Table 17-10). -/
def gsAbsent : Nat := 0
def gsTraining : Nat := 1
def gsNegotiating : Nat := 2
def gsHeld : Nat := 3
def gsReady : Nat := 4
def gsFenced : Nat := 5
def gsDisabled : Nat := 6

def isP (s : State) : Bool := getF s ID_DEVICE ID_DEVICE_VARIANT == 1
def siteState (s : State) (g : Nat) : Nat := getF s (GUEST_STATUS g) GUEST_STATUS_STATE
def setSite (g st : Nat) (s : State) : State := setF (GUEST_STATUS g) GUEST_STATUS_STATE st s

/-- The compute link and the host link of a site. -/
def guestLinks (g : Nat) : List Nat := [40 + 2 * g, 41 + 2 * g]

/-- Those of them whose other end is not fenced. -/
def reachable (g : Nat) (s : State) : List Nat := (guestLinks g).filter fun i => !dieDown s (linkEnds i).1

/-- GUEST_STATUS.LINKS. -/
def showLinks (g : Nat) (s : State) : State :=
  let up (i : Nat) : Nat := bnat (linkState s i == 2 || linkState s i == 3)
  setF (GUEST_STATUS g) GUEST_STATUS_LINKS (up (40 + 2 * g) + 2 * up (41 + 2 * g)) s

def roleTarget (c : GuestCap) : Bool := bitAt c.roles.toNat 0
def roleInitiator (c : GuestCap) : Bool := bitAt c.roles.toNat 1
def roleCoherent (c : GuestCap) : Bool := bitAt c.roles.toNat 2
def roleIrq (c : GuestCap) : Bool := bitAt c.roles.toNat 3

/-- Why a record is not accepted: HOLD_REASON, 0 for none (R495). -/
def holdReason (x : Guest) (c : GuestCap) : Nat :=
  let v := c.proto.toNat
  if v ≠ 2 ∧ v ≠ 3 then 1
  else if c.size.toNat % 0x200000 ≠ 0 ∨ 0x008000000000 < c.size.toNat then 2
  else if 60 < c.powerW.toNat then 3
  else if (roleCoherent c && !roleInitiator c) || (v == 2 && (roleCoherent c || roleIrq c)) then 4
  else if x.identity ≠ 0 ∧ x.identity ≠ c.identity.toNat then 5
  else 0

/-- The first 32 bytes of a record (Table 17-5), which GUEST_CAP shows. -/
def capHead (c : GuestCap) : Nat :=
  c.vendor.toNat + c.device.toNat * 2 ^ 16 + c.proto.toNat * 2 ^ 32 + c.roles.toNat * 2 ^ 40 + c.kind.toNat * 2 ^ 48 +
    c.size.toNat * 2 ^ 64 + c.outstanding.toNat * 2 ^ 128 + c.latencyUs.toNat * 2 ^ 144 + c.powerW.toNat * 2 ^ 160

/-- What attestation measures of a site (Table 21-5). -/
def siteId (s : State) (g1 : Bool) : Nat :=
  if siteState s (bnat g1) = gsAbsent ∨ siteState s (bnat g1) = gsHeld then 0 else (guestOf s g1).identity

/-- MEAS_GEN follows what is measured of a site, given what it was before (R592). -/
def noteSite (g1 : Bool) (was : Nat) (s : State) : State := if siteId s g1 = was then s else bumpMeas s

/-- An accepted record makes the site READY. -/
def acceptCap (g1 : Bool) (c : GuestCap) (s : State) : State :=
  let g := bnat g1
  let cfg := if g1 then { s.mgmt.config with identity1 := c.identity } else { s.mgmt.config with identity0 := c.identity }
  let s0 := bumpMeas { s with mgmt := { s.mgmt with config := cfg } }
  let s1 := setGuest g1 { guestOf s g1 with cap := some c, identity := c.identity.toNat } s0
  let s2 := (List.range 4).foldl (fun s w => setReg (GUEST_CAP g w) (capHead c / 2 ^ (64 * w) % 2 ^ 64) s) s1
  setF (GUEST_STATUS g) GUEST_STATUS_PROTO c.proto.toNat (setF (GUEST_STATUS g) GUEST_STATUS_HOLD_REASON 0
    (setSite g gsReady (bumpChain (showLinks g ((reachable g s2).foldl (fun s i => raiseLink i s) (liftFence domGuest g s2))))))

/-- CAP after link training: answered with CAP_ACK, accepted or HELD. -/
def execCap (g1 : Bool) (r : GuestCap) (s : State) : Ans :=
  let g := bnat g1
  let st := siteState s g
  if !isP s ∨ st = gsHeld ∨ st = gsReady ∨ st = gsDisabled ∨ getF s (GUEST_CTL g) GUEST_CTL_ENABLE = 0 then .next s
  else
    let x := guestOf s g1
    let s1 := emit (.guestCtl g1 1) (setGuest g1 { x with offered := some r } s)
    let why := holdReason x r
    .next (if why = 0 then acceptCap g1 r s1
      else noteSite g1 (siteId s g1) (setF (GUEST_STATUS g) GUEST_STATUS_HOLD_REASON why (setSite g gsHeld s1)))

/-- GUEST_CTL.ACCEPT: a changed IDENTITY is accepted. -/
def guestAccept (g1 : Bool) (s : State) : State :=
  let g := bnat g1
  match (guestOf s g1).offered with
  | some c =>
    if siteState s g = gsHeld ∧ getF s (GUEST_STATUS g) GUEST_STATUS_HOLD_REASON = 5 then acceptCap g1 c s else s
  | none => s

def execGuestAccept (g1 : Bool) (s : State) : Ans := .next (guestAccept g1 s)

/-- What a site that stops leaves: its requests answered as fenced, its lines lost (R430, R496, R498). -/
def stopSite (g1 : Bool) (s : State) : State :=
  let f := fFenced domGuest (bnat g1)
  let x := guestOf s g1
  let s1 := setGuest g1 { x with requests := [], cap := none } s
  let s2 := x.requests.foldl (fun s r =>
    if r.write then storeFailed (.guest g1) r.addr (256 + (match r.owner with | .cmd c => (cmdOf s c).core | _ => 0)) 0 r.owner s
    else failBarrier f r.owner s) s1
  let s2 := x.requests.foldl (fun s r => flushOwner r.owner s) s2
  settle (if s2.hc.caches.any (fun e => e.1 == 386 + bnat g1) then loseAgent (386 + bnat g1) s2 else s2)

/-- A site is fenced; its domain reset begins, and beyond four an hour it is DISABLED (Table 20-6). -/
def guestFence (g1 : Bool) (s : State) : State :=
  let g := bnat g1
  if !isP s ∨ isFenced s domGuest g ∨ siteState s g = gsDisabled then s
  else
    let s1 := stopSite g1 (fencedLedger domGuest g 0 0 (raiseFence domGuest g s))
    let (s2, beyond) := domainReset domGuest g 4 s1
    setSite g (if beyond then gsDisabled else gsFenced) s2

/-- A snoop of a coherent guest has not been answered within 2 µs (R498). -/
def execGuestSnoopTimeout (g1 : Bool) (addr : BitVec 48) (s : State) : Ans :=
  if s.hc.snoops.any fun m => m.holder == 386 + bnat g1 && m.line == addr.toNat / 64 then .next (guestFence g1 s) else .next s

/-- GUEST_CTL.RESET: RESET_NOTE, both links retrained, negotiation again; the site's registers take their reset values
(R499, R635). -/
def guestReset (g1 : Bool) (s : State) : State :=
  let g := bnat g1
  if !isP s ∨ siteState s g = gsDisabled then s
  else
    let s1 := emit (.guestCtl g1 4) (stopSite g1 s)
    let offs := [GUEST_STATUS g, GUEST_CTL g, GUEST_CTL_LIVE g, GUEST_BIND g, GUEST_ERR g] ++ (List.range 4).map (GUEST_CAP g)
    let s2 := offs.foldl (fun s o => setReg o (regReset o).toNat s) s1
    let (s3, beyond) := domainReset domGuest g 4 s2
    noteSite g1 (siteId s g1) <| if beyond then setSite g gsDisabled s3
    else setSite g gsTraining ((reachable g s3).foldl (fun s i => setF (DL_LINK_STATUS i) DL_LINK_STATUS_STATE 1 s) s3)

def execGuestReset (g1 : Bool) (s : State) : Ans := .next (guestReset g1 s)

/-- GUEST_CTL.ENABLE. -/
def guestEnable (g1 on : Bool) (s : State) : State :=
  let g := bnat g1
  let s1 := setF (GUEST_CTL g) GUEST_CTL_ENABLE (bnat on) s
  if !isP s then s1
  else if on then (if siteState s g = gsDisabled then setSite g gsTraining s1 else s1)
  else noteSite g1 (siteId s g1) (setSite g gsDisabled (stopSite g1 s1))

/-! ### The guest as target (R496) -/

/-- A guest answers: DONE, data, or ERR with its reason, UNPOPULATED for one outside Table 09-24. -/
def execGuestResponse (g1 : Bool) (tag : BitVec 12) (r : GuestRsp) (s : State) : Ans :=
  let x := guestOf s g1
  match x.requests.find? (·.tag == tag.toNat) with
  | none => .next s
  | some q =>
    let s1 := setGuest g1 { x with requests := x.requests.erase q } s
    let s2 := match r with
      | .done => flushOwner q.owner s1
      | .doneData _ poison => if poison then poisonedData q.owner q.slot (.far (guestWhere g1) q.addr) s1 else s1
      | .err c => failBarrier (fSeg q.slot q.seg (if 1 ≤ c.toNat ∧ c.toNat ≤ rTally then c.toNat else rUnpopulated)) q.owner s1
    .next (settle s2)

/-! ### The guest as initiator (R497) -/

/-- The context a site acts under, if it is bound. -/
def boundCtx (s : State) (g : Nat) : Option (Nat × Nat) :=
  let x := getF s (GUEST_BIND g) GUEST_BIND_CTX
  let p := getF s (GUEST_BIND g) GUEST_BIND_PART
  if x ≠ 0 ∧ (ctxOf s x).state == .active ∧ (ctxOf s x).part = p then some (x, p) else none

/-- May the site make requests at all? -/
def mayInitiate (s : State) (g1 : Bool) : Bool :=
  siteState s (bnat g1) == gsReady && (match (guestOf s g1).cap with | some c => roleInitiator c | none => false)

/-- An ERR response, and the first refused request in GUEST_ERR. -/
def guestRefuse (g1 : Bool) (tag : BitVec 12) (addr reason : Nat) (s : State) : State :=
  let e := GUEST_ERR (bnat g1)
  let s1 := if getF s e GUEST_ERR_VALID = 1 then s else setReg e (2 ^ 63 + reason % 256 * 2 ^ 48 + addr % 2 ^ 48) s
  emit (.guestRsp g1 tag.toNat (.err (BitVec.ofNat 8 reason))) s1

/-- The segment of the bound context that holds an address. -/
def guestSeg (s : State) (x p a : Nat) : Option Seg :=
  ((List.range 16).filterMap fun i => (descMem s x i).map (Seg.ofNat p)).find? fun g =>
    g.valid && g.cls != clsRemote && decide (g.base ≤ a) && decide (a < g.base + g.len)

/-- Where a request lands, or the reason it is refused (R344). -/
def guestPlace (s : State) (x p a n rights : Nat) (write : Bool) : Except Nat Place :=
  match guestSeg s x p a with
  | none => .error rNoSegment
  | some g =>
    if bitAt rights 0 && !bitAt g.rights 0 then .error rNoRead
    else if bitAt rights 1 && !bitAt g.rights 1 then .error rNoWrite
    else if g.base + g.len < a + n then .error rLimit
    else match rangeFault s 0 0 g (a - g.base) n with
      | some f => .error (f.2 % 256)
      | none =>
        let pl := localPlace s g (a - g.base)
        if (placeFault s write 0 0 pl).isSome then .error rUnpopulated else .ok pl

/-- A request of the guest: `act` is carried out where the checks allow it. One that reaches the larder of a core that a spare is
replacing is held as `held` (R197). -/
def guestRequest (g1 : Bool) (tag : BitVec 12) (a n rights : Nat) (write : Bool) (held : HeldAccess) (act : Place → State → State)
    (s : State) : State :=
  if !mayInitiate s g1 then s
  else match boundCtx s (bnat g1) with
    | none => guestRefuse g1 tag a rNoSegment s
    | some (x, p) => match guestPlace s x p a n rights write with
      | .error r => guestRefuse g1 tag a r s
      | .ok pl => if placeHeld s pl then holdAccess held s else act pl (wakeLarder pl s)

def execGuestRead (g1 : Bool) (tag : BitVec 12) (addr : BitVec 48) (sectors : BitVec 7) (s : State) : Ans :=
  let n := 64 * sectors.toNat
  .next (guestRequest g1 tag addr.toNat n rtRead false (.guestRead g1 tag addr sectors) (fun pl s =>
    let bad := placePoison s pl n
    emit (.guestRsp g1 tag.toNat (.doneData (placeRead s pl n) bad)) (if bad then notePoisonRead s pl else s)) s)

/-- Poison the sectors of a place. -/
def poisonPlace (pl : Place) (n : Nat) (s : State) : State :=
  match pl with
  | .mem a _ => (touchedSectors a n).foldl (fun s x => poisonSector x s) s
  | _ => s

def execGuestWrite (g1 : Bool) (tag : BitVec 12) (addr : BitVec 48) (bytes : List (BitVec 8)) (poison : Bool) (s : State) : Ans :=
  .next (guestRequest g1 tag addr.toNat bytes.length rtWrite true (.guestWrite g1 tag addr bytes poison) (fun pl s =>
    let s1 := placeWrite (0, 0) pl bytes .none s
    emit (.guestRsp g1 tag.toNat .done) (if poison then poisonPlace pl bytes.length s1 else s1)) s)

/-- An atomic of the guest: the old value comes back. A poisoned word returns its poison and is not written (R373). -/
def execGuestAtomic (g1 : Bool) (tag : BitVec 12) (addr : BitVec 48) (req : AtomicReq) (s : State) : Ans :=
  let n := atSize req
  .next (guestRequest g1 tag addr.toNat n (rtRead + rtWrite) true (.guestAtomic g1 tag addr req) (fun pl s =>
    if addr.toNat % n ≠ 0 then guestRefuse g1 tag addr.toNat rLimit s
    else
      let old := placeRead s pl n
      if placePoison s pl n then emit (.guestRsp g1 tag.toNat (.doneData old true)) (notePoisonRead s pl)
      else emit (.guestRsp g1 tag.toNat (.doneData old false))
        (placeWrite (0, 0) pl (leBytes n (atApply req (leNat old)).1) .none s)) s)

/-- ADD or SUB on a tally granted to the partition, a release at SYSTEM. -/
def execGuestTallyOp (g1 : Bool) (tag : BitVec 12) (op : TallyOpKind) (t : TallyRef) (n : BitVec 64) (s : State) : Ans :=
  let die := t.die.toNat
  let i := t.index.toNat
  if !mayInitiate s g1 then .next s
  else match boundCtx s (bnat g1) with
    | none => .next (guestRefuse g1 tag 0 rNoSegment s)
    | some (_, p) =>
      if !tallyGranted s p die i ∨ isFenced s domDie die then .next (guestRefuse g1 tag 0 rTally s)
      else
        let inst := scopeInst (moduleId s) 0 0
        let (s1, f) := match op with
          | .add => addWithPartner die i n.toNat 4 inst s
          | .sub => applySub die i n.toNat 4 inst s
        .next (settle (match f with
          | some _ => guestRefuse g1 tag 0 rTally s1
          | none => emit (.guestRsp g1 tag.toNat .done) s1))

/-- An interrupt in the partition's vector range, with its IRQ_KIND (R353). -/
def execGuestIrq (g1 : Bool) (tag : BitVec 12) (vector : BitVec 16) (s : State) : Ans :=
  let v := vector.toNat
  if !mayInitiate s g1 then .next s
  else match boundCtx s (bnat g1) with
    | none => .next (guestRefuse g1 tag 0 rNoSegment s)
    | some (_, p) =>
      let q := partOf s p
      let may : Bool := match (guestOf s g1).cap with | some c => roleIrq c | none => false
      if may ∧ q.vecBase ≤ v ∧ v < q.vecBase + q.vecCount then
        .next (emit (.guestRsp g1 tag.toNat .done) (raiseIrq q.irqKind v none s))
      else .next (guestRefuse g1 tag 0 rNoSignal s)

end Sys2Proof.Machine
end

