-- ==== Sys2Proof/Machine/ExtPorts.lean ====
section
/-! DEFINITION. The external-host ports (R504 to R517): link training, held writes, BAR4, MSI-X, and the attached device of
a root port. -/

namespace Sys2Proof.Machine

open Sys2Proof

/-! ### Links (R504) -/

def portMode (s : State) (b : Bool) : Nat := getF s (EXT_PORT_CTL (portIx b)) EXT_PORT_CTL_MODE
def extState (s : State) (b : Bool) : Nat := getF s (EXT_PORT_STATUS (portIx b)) EXT_PORT_STATUS_STATE
def setExtState (b : Bool) (st : Nat) (s : State) : State := setF (EXT_PORT_STATUS (portIx b)) EXT_PORT_STATUS_STATE st s

/-- What the external host has enabled in the function: Bus Master Enable, Memory Space Enable, MSI-X Enable. -/
def enableFunction (b on : Bool) (s : State) : State :=
  setF (EXT_PORT_STATUS (portIx b)) EXT_PORT_STATUS_BME (bnat on)
    (setExt b { extPort s b with memEnable := on, msixEnable := on } s)

/-- A link trains at a generation and width; a lower generation or a narrower width puts the port in FAULT. -/
def execExtLinkUp (portB : Bool) (gen : BitVec 4) (width : BitVec 5) (s : State) : Ans :=
  let i := portIx portB
  let m := portMode s portB
  let x := EXT_PORT_STATUS i
  if m = 0 ∨ 5 ≤ m then .next s
  else
    let g := getF s (EXT_PORT_CTL i) EXT_PORT_CTL_MAX_GEN
    let top := if g = 5 ∨ g = 6 then g else 7
    let ge := min top gen.toNat
    if ge < 5 ∨ (width.toNat ≠ 8 ∧ width.toNat ≠ 16) then
      .next (setF x EXT_PORT_STATUS_GEN 0 (setF x EXT_PORT_STATUS_WIDTH 0 (setExtState portB 5 s)))
    else
      let s1 := setF x EXT_PORT_STATUS_GEN ge (setF x EXT_PORT_STATUS_WIDTH width.toNat
        (setF x EXT_PORT_STATUS_CXL_CACHE (bnat (m == 2)) (setF x EXT_PORT_STATUS_CXL_MEM (bnat (m == 2 || m == 3))
          (setExt portB { extPort s portB with l0 := true } s))))
      if (extPort s portB).holding then .next s1
      else .next (enableFunction portB true (setExtState portB 3 s1))

/-! ### Holding (R513 to R515) -/

/-- What a host reset does to the function's configuration. -/
def resetFunction (b : Bool) (s : State) : State :=
  enableFunction b false (setExt b { extPort s b with functionMask := false, table := [] } s)

def execExtHoldBegin (portB : Bool) (cause : HoldCause) (s : State) : Ans :=
  if !endpointMode s portB then .next s
  else match cause with
    | .linkDown => .next (beginHold portB false (setExt portB { extPort s portB with l0 := false } s))
    | .hostReset => .next (beginHold portB true (resetFunction portB s))
    | .bmeClear => .next (beginHold portB false (setF (EXT_PORT_STATUS (portIx portB)) EXT_PORT_STATUS_BME 0 s))

/-- The port holds no more. -/
def stopHolding (b : Bool) (s : State) : State :=
  let x := EXT_PORT_STATUS (portIx b)
  let p := extPort s b
  setF x EXT_PORT_STATUS_HOLD_LEFT 0 (setF x EXT_PORT_STATUS_RESUME_NEEDED 0
    (setExtState b (if p.l0 then 3 else 1) (setExt b { p with holding := false, held := [] } s)))

/-- The held writes are sent, in order, once the three conditions hold (R514). -/
def tryRelease (b : Bool) (s : State) : State :=
  let x := EXT_PORT_STATUS (portIx b)
  let p := extPort s b
  if !p.holding || !p.l0 || getF s x EXT_PORT_STATUS_BME == 0 || getF s x EXT_PORT_STATUS_RESUME_NEEDED == 1 then s
  else
    let s1 := p.held.foldl (fun s w => sendHeld b w s) (stopHolding b s)
    settle (s1.cmds.foldl (signalHeld b false) s1)

def execExtHoldEnd (portB : Bool) (l0 bme : Bool) (s : State) : Ans :=
  let s1 := setExt portB { extPort s portB with l0 := l0 } s
  .next (if !endpointMode s portB then s else tryRelease portB (enableFunction portB bme s1))

/-- EXT_PORT_CTL.RESUME (R514). -/
def resumePort (b : Bool) (s : State) : State :=
  if (extPort s b).holding then tryRelease b (setF (EXT_PORT_STATUS (portIx b)) EXT_PORT_STATUS_RESUME_NEEDED 0 s) else s

def execResume (portB : Bool) (s : State) : Ans := .next (resumePort portB s)

/-- Queues with a dropped record. -/
def lostQueues (held : List ExtWrite) : List Nat :=
  held.foldl (fun l w => match w.queue with | some q => if w.kind = 0 then setInsert l q else l | none => l) []

/-- A queue whose records were dropped stops; W is that of the last record delivered (R515). -/
def loseQueue (held : List ExtWrite) (q : Nat) (s : State) : State :=
  let mine := held.filter fun w => w.queue == some q && w.kind == 0
  let x := queueOf s q
  let first := (mine.head?.map (·.tag)).getD 0
  let last := (mine.getLast?.map (·.tag)).getD 0
  let s1 := queueStop q 6 first first last s
  setQueue q { queueOf s1 q with w := x.w - BitVec.ofNat 32 mine.length, hostLost := true } s1

/-- The hold has lasted HOLD_MS: every held write is dropped (R515). -/
def execExtHoldExpiry (portB : Bool) (s : State) : Ans :=
  let p := extPort s portB
  if !p.holding then .next s
  else
    let writes := p.held.filter fun w => decide (w.kind < 4)
    let s1 := incF (EXT_HOLD (portIx portB)) EXT_HOLD_DROPPED writes.length (stopHolding portB s)
    let s2 := setExt portB { extPort s1 portB with lost := true } s1
    let s3 := (lostQueues p.held).foldl (fun s q => loseQueue p.held q s) s2
    let s4 := s3.cmds.foldl (signalHeld portB true) s3
    match writes.head? with
    | none => .next (settle s4)
    | some w => .next (storeFailed (if portB then .extB else .extA) w.addr (3 * 256) 0 .none s4)

/-! ### MSI-X (R511) -/

/-- An entry is unmasked: one message for all that are pending. -/
def execMsixUnmask (portB : Bool) (entry : BitVec 11) (s : State) : Ans :=
  let x := extPort s portB
  let e := Assoc.get (fun _ => MsixEntry.reset) x.table entry.toNat
  let e1 := { e with masked := false, pending := e.pending && x.functionMask }
  let s1 := setExt portB { x with table := Assoc.put (fun _ => MsixEntry.reset) x.table entry.toNat e1 } s
  .next (if e.pending && !x.functionMask then msixSend portB entry.toNat none s1 else s1)

/-! ### BAR4 (R507, R508) -/

/-- The local address of a BAR4 offset; none outside the BAR, or while Memory Space Enable is 0 (R506). -/
def bar4Addr (s : State) (b : Bool) (off n : Nat) : Option Nat :=
  let r := EXT_BAR4 (portIx b)
  let size := 2 ^ max 30 (min 41 (getF s r EXT_BAR4_LOG2))
  if endpointMode s b && (extPort s b).memEnable && decide (off + n ≤ size) then some (getF s r EXT_BAR4_BASE * gib + off) else none

/-- The class of a port at a home (Table 15-4). -/
def portClass (b : Bool) : Nat := 13 + bnat b

/-- Read from outside the package: coherent in the stacks and DDR5, uncached elsewhere; poison marked. None where nothing
answers. -/
def outsideRead (s : State) (a n : Nat) : Option (List Byte × Bool) :=
  let t := tgtOf s a
  if (refusal s false t).isSome then none
  else match t with
    | .stack _ | .ddr => some (cohRead s a n, poisoned s a n)
    | .larder _ => some (readMem s a n, poisoned s a n)
    | .cellar _ => (match windowPlace s a false with
        | .ok (v, b) => some (readCellar s v b n, cellarPoisoned s v b n)
        | .error _ => none)
    | .guest g1 => some (placeRead s (.far (guestWhere g1) a) n, false)
    | .control | .none => none

/-- Write from outside the package. -/
def outsideWrite (cls a : Nat) (bs : List Byte) (s : State) : State :=
  let t := tgtOf s a
  if (refusal s true t).isSome then s
  else match t with
    | .stack _ | .ddr => ioWrite cls a bs s
    | .larder _ => writeMem a bs (wakeLarder (.mem a none) s)
    | .cellar _ => (match windowPlace s a true with
        | .ok (v, b) => buffered v (b / 4096) (writeCellar v b bs s)
        | .error _ => s)
    | .guest g1 => farRequest (0, 0) (guestWhere g1) a bs.length (some bs) .none s
    | .control | .none => s

def execBar4Write (portB : Bool) (off : BitVec 48) (bytes : List (BitVec 8)) (s : State) : Ans :=
  match bar4Addr s portB off.toNat bytes.length with
  | some a =>
    if placeHeld s (.mem a none) then .next (holdAccess (.bar4Write portB off bytes) s)
    else .next (outsideWrite (portClass portB) a bytes s)
  | none => .next s

def execBar4Read (portB : Bool) (off : BitVec 48) (len : BitVec 13) (s : State) : Ans :=
  let n := len.toNat
  if (bar4Addr s portB off.toNat n).any fun a => placeHeld s (.mem a none) then
    .next (holdAccess (.bar4Read portB off len) s)
  else match (bar4Addr s portB off.toNat n).bind fun a => (outsideRead s a n).map fun x => (a, x) with
  | some (a, bs, bad) =>
    .next (emit (.bar portB bs bad false) (wakeLarder (.mem a none) (if bad then notePoisonRead s (.mem a none) else s)))
  | none => .next (emit (.bar portB [] false true) s)

/-! ### The attached device of a root port (R512, R516, R517) -/

/-- The hart whose supervisor interrupt file the IOMMU sends a write of the device to: an aligned write of 4 bytes that its tables,
which the manual does not hold, take for an MSI (R512). -/
def msiHart (b : Bool) (a : Nat) (bs : List Byte) (s : State) : Option Nat :=
  if bs.length = 4 ∧ a % 4 = 0 then (Config.iommuMsi (bnat b) a s.tick).map (·.toNat) else none

/-- An MSI of the device: its data is the identity, dropped and counted as R443 says. -/
def deviceMsi (hart : Nat) (bs : List Byte) (s : State) : State :=
  let id := leNat bs
  advance (hostIrq (256 * hart + if id < 256 then id else 0) s)

/-- DMA of the attached device: through the IOMMU, coherent, to host DDR5 and the stacks only, or to an interrupt file (R512). -/
def execRootDeviceDma (portB : Bool) (addr : BitVec 48) (write : Option (List (BitVec 8))) (len : BitVec 13) (iommuOk : Bool)
    (s : State) : Ans :=
  let a := addr.toNat
  let up : Bool := portMode s portB == 4 && extState s portB == 3 && iommuOk
  let reach : Bool := up && (match tgtOf s a with | .stack _ => true | .ddr => true | _ => false)
  match if up then write.bind fun bs => (msiHart portB a bs s).map fun h => (h, bs) else none with
  | some (h, bs) => .next (deviceMsi h bs s)
  | none =>
  if !reach then .next (if write.isSome then s else emit (.dma portB [] false) s)
  else match write with
    | some bs => .next (outsideWrite (portClass portB) a bs s)
    | none => match outsideRead s a len.toNat with
      | some (bs, bad) => .next (emit (.dma portB bs bad) s)
      | none => .next (emit (.dma portB [] false) s)

/-- An attached device has not answered a snoop within 2 µs: its link is disabled and its copies are invalid (R517). -/
def execRootSnoopTimeout (portB : Bool) (s : State) : Ans :=
  let a := 384 + bnat portB
  let bit := 6 + bnat portB
  if s.hc.snoops.any fun m => m.holder == a then
    let s1 := loseAgent a (setExtState portB 0 (setExt portB { extPort s portB with l0 := false } s))
    .next (if bitAt (getReg s1 ORD_ERR) bit then s1 else raiseReg ORD_IRQ (orReg ORD_ERR (2 ^ bit) s1))
  else .next s

end Sys2Proof.Machine
end

