-- ==== Sys2Proof/Machine/DieLoss.lean ====
section
/-! DEFINITION. One compute die lost while the others run, and its return (R500, R501). -/

namespace Sys2Proof.Machine

open Sys2Proof

/-- The sites show their links, and one that no link reaches is fenced (R499, Table 17-7). -/
def sitesSilent (s : State) : State :=
  if isP s then [false, true].foldl (fun s g1 =>
    let s1 := showLinks (bnat g1) s
    if siteState s1 (bnat g1) = gsReady ∧ dieSilent s1 (19 + bnat g1) then guestFence g1 s1 else s1) s
  else s

/-- Die Cd is reset or loses its clock. -/
def dieFence (d : Nat) (s : State) : State :=
  if isFenced s domDie d then s
  else
    let f := fFenced domDie d
    let homes := (List.range 16).filter fun p => poolDie s p == d
    let cores := (List.range 64).map (64 * d + ·)
    let s1 := sitesSilent ((linksOf d).foldl (fun s i => fenceLink i s) (raiseFence domDie d s))
    let s2 := fencedLedger domDie d 0 0 s1
    -- runs with steps there, waiters at its tally unit, waiters of its cores, commands it holds
    let s3 := (runsOn s2 d).foldl (fun s r => failRun r.1 r.2 f s) s2
    let tests := cores.flatMap fun n => patrolCmds (coreOf s3 n)
    let s4 := tests.foldl (fun s c => finishFail c f s) (cores.foldl (fun s n => fenceCoreState n s) s3)
    let s5 := dropWaiters (fun w => w.die == d) f s4
    let s6 := (s5.waiters.filter fun w => w.core / 64 == d && decide (w.core < 256)).foldl
      (fun s w => dropWaiters (fun x => x == w) (fFenced domCore w.core) s) s5
    let s7 := abortWhere (fun e => e.result.isNone &&
      (heldBy s6 d e || (decide (e.core < 256) && e.core / 64 == d && !ownsRun s6 e.ref))) f s6
    -- walks, descriptor pool, coherence agents, queues, pools
    let s8 := { s7 with walks := s7.walks.filter (·.die != d), dpool := s7.dpool.filter fun e => e.1 / 512 != d }
    let s9 := cores.foldl (fun s n => if (s.hc.caches.any fun e => e.1 == 128 + n) then loseAgent (128 + n) s else s) s8
    let s10 := s9.queues.foldl (fun s e =>
      if (queueOf s e.1).homeLive = d then setQueue e.1 { queueOf s e.1 with homeLive := nextDie s d, retrying := (queueOf s e.1).retrying.filter (63 < ·) } s else s) s9
    let s11 := s10.ctxs.foldl (fun s e => if homes.contains e.2.part then setCtx e.1 (zeroPools (ctxOf s e.1)) s else s) s10
    let s12 := noteUnreached s s11
    let s13 := (partsOn s12 d).foldl (fun s p => partitionReset p false false s) s12
    let (s14, beyond) := countReset domDie d 2 s13
    settle (bumpMeas (if beyond then setReason 1 s14 else s14))

/-- Does a die stay fenced: beyond its repeat limit, with two resets or more in the hour before the last one, or never
trained (Table 21-4)? -/
def dieStuck (s : State) (d : Nat) : Bool :=
  match (s.faults.resets.filter fun e => e.1 == 0x10000 + fenceCode domDie d).getLast? with
  | none => true
  | some l => decide (2 < resetsInHour s domDie d l.2)

/-- A core of a die that has returned: IDLE (R501), or OFF where its turn-off handshake had completed before the fence (R196);
FENCED while a fence of its own still holds it; being replaced again where that was stopped (R198). Its sets are still to be
reloaded. -/
def returnCore (n : Nat) (s : State) : State :=
  let c := coreOf s n
  if c.state == .unassigned then s
  else
    let r := Core.afterReset c n
    let as (st : CoreState) (es : EngState) : Core := { r with
      state := st, e0 := { r.e0 with state := es }, e1 := { r.e1 with state := es }, e2 := { r.e2 with state := es }
      e3 := { r.e3 with state := es }, wasOff := c.wasOff, mapping := c.mapping }
    let r1 :=
      if isFenced s domCore n then as .fenced .fenced
      else if c.mapping.isSome then as .mappingIn .retired
      else if c.wasOff then as .off .off else { r with wasOff := false }
    let s1 := setCore n r1 s
    match partOfCore s1 n with
    | some p => joinCore p s1 n
    | none => s1

/-- Cd's links retrain, its tallies are restored, its Reeve starts from the active bank, its cores become IDLE (R501,
Table 21-7). -/
def execDieReturn (die : BitVec 2) (s : State) : Ans :=
  let d := die.toNat
  if !isFenced s domDie d ∨ dieStuck s d then .next s
  else
    let s1 := sitesSilent (returnLinks d s)
    let s2 := loadReeve d <| liftFence domDie d (restoreTallies [d] { s1 with regs := s1.regs.filter fun e => !dieReg d e.1 })
    let s3 := (List.range 64).foldl (fun s i => returnCore (64 * d + i) s) s2
    let s4 := resetLedger domDie d (resetsInHour s3 domDie d (clockNow s3)) s3
    .next (settle (bumpMeas (ledger 0x0406 4 (fenceCode domDie d) 0 (ledgerData [(0, 1, d)]) s4)))

end Sys2Proof.Machine
end

