-- ==== Sys2Proof/Machine/Fabric.lean ====
section
/-! DEFINITION. The fabric below its messages (R465 to R483): training, flits and their replay, lanes, link-state records,
routes, retransmission, and destinations that are declared lost. -/

namespace Sys2Proof.Machine

open Sys2Proof

/-- States of a port (Table 16-8). -/
def ptDisabled : Nat := 0
def ptDown : Nat := 1
def ptTraining : Nat := 2
def ptUp : Nat := 3
def ptRetraining : Nat := 4
def ptFault : Nat := 5

def portState (s : State) (p : Nat) : Nat := getF s (FAB_PORT_STATUS p) FAB_PORT_STATUS_STATE
def setPortState (p st : Nat) (s : State) : State := setF (FAB_PORT_STATUS p) FAB_PORT_STATUS_STATE st s

/-! ### Declared lost (R481) -/

/-- Requests that waited for the pool leave while they fit (R480). -/
def sendWaiting (s : State) : State :=
  (s.fab.outstanding.filter fun r => !r.sent).foldl (fun s r =>
    if poolUsed s + 32 + r.bytes.length ≤ 0x2000000 then
      launch (ownMsg s r.kind r.dest r.cls r.seq false r.args r.bytes)
        { s with fab := { s.fab with outstanding := s.fab.outstanding.map fun x =>
          if x = r then { x with sent := true, tmo := linkTmo s } else x } }
    else s) s

/-- A request fails: a write is a store declared failed (R429). -/
def failReq (f : Fail) (r : OutReq) (s : State) : State :=
  if r.kind = 1 then
    let core := match r.owner with | .cmd c => (cmdOf s c).core | _ => 0
    storeFailed (.remote (BitVec.ofNat 16 r.dest)) (r.args.headD 0) (256 + core) 0 r.owner s
  else failBarrier f r.owner s

/-- Does a step wait on a module: for a tile of its, or of a stream to or from it (R227)? -/
def At.awaits (a : At) (s : State) (m : Nat) : Bool :=
  let there (p : Place) : Bool := match p with | .far w _ => w == m | _ => false
  a.missing s (fun _ t => there t.payload || there t.header) fun far peer _ => far && peer == m

/-- The runs with a step that waits on a lost module fail, and with ST_PEER_LOST (R227). -/
def runsLost (m : Nat) (s : State) : State :=
  s.progs.foldl (fun s e => match progOf s e.1 with
    | none => s
    | some p => p.runs.foldl (fun s r =>
        if p.steps.zipIdx.any fun x => (atOf s e.1 r.id x.2).any (·.awaits s m) then failRun e.1 r.id (fPeer m) s
        else s) s) s

/-- The slots of a collective are freed (R485). -/
def freeColl (root coll : Nat) (s : State) : State :=
  { s with fab := { s.fab with
    slots := s.fab.slots.filter fun x => !(x.root == root && x.coll == coll)
    maxSlots := s.fab.maxSlots.filter fun x => !(x.root == root && x.coll == coll) } }

/-- A collective rooted here ends with a failure: its step ends, ABORT goes through the tree, and its slots are freed (R485). -/
def abortColl (d : CollDesc) (f : Fail) (gone : List Nat) (s : State) : State :=
  (d.members.filter fun x => x != d.root && !gone.contains x).foldl (fun s x => sendEpoch x 3 [d.root, d.coll] s)
    (failBarrier f d.owner (freeColl d.root d.coll s))

/-- The collectives rooted here whose tree holds a lost module (R485). -/
def collsLost (m : Nat) (s : State) : State :=
  (s.fab.descs.filter fun d => d.root == moduleId s && d.members.contains m).foldl (fun s d => abortColl d (fPeer m) [m] s) s

/-- A destination is declared lost. -/
def declareLost (m : Nat) (s : State) : State :=
  let gone := s.fab.outstanding.filter (·.dest == m)
  let was := (routeOf s m).lost
  let s1 := setRoute m { routeOf s m with lost := true } { s with fab := { s.fab with
    outstanding := s.fab.outstanding.filter (·.dest != m)
    held := s.fab.held.filter (·.dest != m) } }
  let s2 := if was then s1 else ledger 0x0304 4 0 0 (ledgerData [(0, 2, m)]) (incF FAB_LOST FAB_LOST_LOST 1 s1)
  let s3 := gone.foldl (fun s r => flushOwner r.owner s) (gone.foldl (fun s r => failReq (fPeer m) r s) s2)
  settle (sendWaiting (collsLost m (runsLost m (commitsLost m s3))))

/-- The link timeout of a request to the destination passes without its ACK. -/
def execLinkTimeout (dest : BitVec 16) (cls : BitVec 2) (s : State) : Ans :=
  .next (if s.fab.outstanding.any fun r => r.dest == dest.toNat && r.cls == cls.toNat && r.sent then declareLost dest.toNat s else s)

/-- Unacknowledged requests leave again, in order, ahead of newer ones (R480). -/
def retransmit (pick : OutReq → Bool) (s : State) : State :=
  (s.fab.outstanding.filter fun r => r.sent && pick r).foldl (fun s r =>
    launch (ownMsg s r.kind r.dest r.cls r.seq true r.args r.bytes) (incF FAB_E2E_RETX FAB_E2E_RETX_RETX 1 s))
    { s with fab := { s.fab with outstanding := s.fab.outstanding.map fun r => if r.sent && pick r then { r with retx := true } else r } }

def execE2eRetransmit (dest : BitVec 16) (cls : BitVec 2) (s : State) : Ans :=
  .next (retransmit (fun r => r.dest == dest.toNat && r.cls == cls.toNat) s)

/-! ### Link-state records (R476) -/

/-- The record of this module: its UP ports' peers. -/
def ownLsr (s : State) : Lsr where
  origin := BitVec.ofNat 16 (moduleId s)
  serial := BitVec.ofNat 64 (getReg s ID_SERIAL)
  seq := BitVec.ofNat 32 s.fab.ownLsrSeq
  linkTmo := BitVec.ofNat 16 (linkTmo s)
  peers := ((List.range 8).filter (portUp s)).map fun p =>
    (BitVec.ofNat 16 (getF s (FAB_PORT_PEER p) FAB_PORT_PEER_PEER_ID), getF s (FAB_PORT_STATUS p) FAB_PORT_STATUS_PROTO == 2,
      BitVec.ofNat 16 (getF s (FAB_PORT_PEER p) FAB_PORT_PEER_DELAY_NS))

/-- Send a record on every UP port whose peer is no version-2 module (R487). -/
def flood (l : Lsr) (s : State) : State :=
  ((List.range 8).filter fun p => portUp s p && getF s (FAB_PORT_STATUS p) FAB_PORT_STATUS_PROTO != 2).foldl
    (fun s p => emit (.lsr p l) s) s

def recomputing (s : State) : State := setF FAB_STATUS FAB_STATUS_RECOMPUTING 1 s

/-- The module floods its own record; the table is to be computed anew where it changed. -/
def floodOwn (s : State) : State :=
  let s1 := { s with fab := { s.fab with ownLsrSeq := (s.fab.ownLsrSeq + 1) % 2 ^ 32 } }
  flood (ownLsr s1) s1

def execLsrRefresh (s : State) : Ans := .next (floodOwn s)

/-- A newer record takes the place of the older; a new serial resets what is expected of its origin (R480), and LOST clears
(R481); epoch slots follow a coordinator that comes back (R330). -/
def keepLsr (l : Lsr) (s : State) : State :=
  let m := l.origin.toNat
  let old := s.fab.lsrs.find? (·.origin == l.origin)
  let fresh := match old with | some o => o.serial != l.serial | none => false
  let changed := match old with | some o => o.peers != l.peers | none => true
  let f := s.fab
  let s1 := { s with fab := { f with
    lsrs := (f.lsrs.filter (·.origin != l.origin)) ++ [l]
    expected := if fresh then f.expected.filter fun e => e.1 / 4 != m else f.expected
    faultAcks := if fresh then f.faultAcks.filter fun e => e.1 / 4 != m else f.faultAcks } }
  let s2 := setRoute m { routeOf s1 m with lost := false } (if (routeOf s1 m).lost then rejoin m s1 else s1)
  let s3 := if l.linkTmo.toNat = linkTmo s then s2 else setF FAB_STATUS FAB_STATUS_TMO_MISMATCH 1 s2
  flood l (if changed then recomputing s3 else s3)

def execLsr (l : Lsr) (s : State) : Ans :=
  let old := s.fab.lsrs.find? (·.origin == l.origin)
  .next (
    if l.origin.toNat = moduleId s then
      if l.serial.toNat = getReg s ID_SERIAL then s
      else ledger 0x0305 4 0 0 (ledgerData [(0, 8, l.serial.toNat)]) (setF FAB_STATUS FAB_STATUS_DUP_ID 1 s)
    else match old with
      | some o => if l.seq.toNat ≤ o.seq.toNat then s else keepLsr l s
      | none => if 65536 ≤ s.fab.lsrs.length then setF FAB_STATUS FAB_STATUS_LSR_FULL 1 s else keepLsr l s)

def execLsrExpiry (origin : BitVec 16) (s : State) : Ans :=
  .next (if s.fab.lsrs.any (·.origin == origin) then
    recomputing { s with fab := { s.fab with lsrs := s.fab.lsrs.filter (·.origin != origin) } } else s)

/-! ### Routes (R477 to R479, R482) -/

/-- What each record, and this module's own, reports: origin, and peer, version 2, delay. -/
def topology (s : State) : List (Nat × List (Nat × Bool × Nat)) :=
  (ownLsr s :: s.fab.lsrs).map fun l => (l.origin.toNat, l.peers.map fun p => (p.1.toNat, p.2.1, p.2.2.toNat))

def reported (t : List (Nat × List (Nat × Bool × Nat))) (m : Nat) : List (Nat × Bool × Nat) := ((t.find? (·.1 == m)).map (·.2)).getD []

/-- The adjacencies of a module that both ends report; a version-2 peer sends no record. -/
def adjacent (t : List (Nat × List (Nat × Bool × Nat))) (m : Nat) : List (Nat × Bool × Nat) :=
  (reported t m).filter fun p => p.2.1 || (reported t p.1).any (·.1 == m)

/-- Breadth first from a frontier: module, hops, the sum of 300 ns + delay over the path, is it of version 2? -/
def spread (t : List (Nat × List (Nat × Bool × Nat))) : Nat → List (Nat × Nat × Nat × Bool) → List (Nat × Nat × Nat × Bool) →
    List (Nat × Nat × Nat × Bool)
  | 0, _, seen => seen
  | n + 1, front, seen =>
    let new := front.foldl (fun acc (m, h, d, v2) =>
      if v2 then acc
      else (adjacent t m).foldl (fun acc p =>
        if seen.any (·.1 == p.1) || acc.any (·.1 == p.1) then acc else acc ++ [(p.1, h + 1, d + 300 + p.2.2, p.2.1)]) acc) []
    if new.isEmpty then seen else spread t n new (seen ++ new)

def distances (t : List (Nat × List (Nat × Bool × Nat))) (m : Nat) (v2 : Bool) : List (Nat × Nat × Nat × Bool) :=
  spread t (t.length + 1) [(m, 0, 0, v2)] [(m, 0, 0, v2)]

def distTo (l : List (Nat × Nat × Nat × Bool)) (m : Nat) : Option (Nat × Nat × Bool) := (l.find? (·.1 == m)).map (·.2)

/-- UP ports, with the delay of the cable and the distances from the neighbour. -/
def neighbours (s : State) (t : List (Nat × List (Nat × Bool × Nat))) : List (Nat × Nat × List (Nat × Nat × Nat × Bool)) :=
  ((List.range 8).filter (portUp s)).filterMap fun p =>
    let n := getF s (FAB_PORT_PEER p) FAB_PORT_PEER_PEER_ID
    if (adjacent t (moduleId s)).any (·.1 == n) then
      some (p, getF s (FAB_PORT_PEER p) FAB_PORT_PEER_DELAY_NS,
        distances t n (getF s (FAB_PORT_STATUS p) FAB_PORT_STATUS_PROTO == 2))
    else none

/-- Port, hops, path sum and version of the best of the neighbours: least hops, then the lowest port. -/
def bestPort (m : Nat) : List (Nat × Nat × List (Nat × Nat × Nat × Bool)) → Option (Nat × Nat × Nat × Bool)
  | [] => none
  | (p, dl, ds) :: r =>
    let rest := bestPort m r
    match distTo ds m with
    | none => rest
    | some (h, d, v2) => match rest with
      | some (_, hr, _, _) => if hr < h + 1 then rest else some (p, h + 1, d + 300 + dl, v2)
      | none => some (p, h + 1, d + 300 + dl, v2)

/-- The lowest other port whose neighbour is nearer to the destination than over this module. -/
def altPort (me m port hops : Nat) (ns : List (Nat × Nat × List (Nat × Nat × Nat × Bool))) : Option Nat :=
  (ns.find? fun (p, _, ds) => p != port && (match distTo ds m, distTo ds me with
    | some (h, _, _), some (b, _, _) => decide (h < b + hops)
    | some _, none => true
    | none, _ => false)).map (·.1)

/-- The computed entry of a destination, with the path's sum, and its version. -/
def computed (s : State) (ns : List (Nat × Nat × List (Nat × Nat × Nat × Bool))) (m : Nat) : Route × Nat × Bool :=
  let lost := (routeOf s m).lost
  if m = moduleId s then ({ Route.none with valid := true }, 0, false)
  else match bestPort m ns with
    | none => ({ Route.none with lost := lost }, 0, false)
    | some (p, h, d, v2) =>
      let a := altPort (moduleId s) m p h ns
      (⟨p, h, a.getD 0, a.isSome, true, false, lost, v2⟩, d, v2)

/-- Held messages go out on the new routes, or are discarded where there is none (R479). -/
def releaseHeld (s : State) : State :=
  let h := s.fab.held
  h.foldl (fun s m => if routes s (routeOf s m.dest) then launch m s else s) { s with fab := { s.fab with held := [] } }

/-- The longest valid route: its hops, and the largest sum of such a path (R482). -/
def longest (l : List (Route × Nat × Bool)) : Nat × Nat :=
  l.foldl (fun (h, d) (r, x, _) => if !r.valid then (h, d) else if h < r.hops then (r.hops, x) else if r.hops = h then (h, max d x) else (h, d)) (0, 0)

/-- The table from the records (R477), and what follows from its change. -/
def routeCompute (s : State) : State :=
  let t := topology s
  let ns := neighbours s t
  let near := ns.flatMap fun (_, _, ds) => ds.map (·.1)
  let all := (s.fab.routes.map (·.1) ++ near ++ t.map (·.1)).foldl setInsert [moduleId s]
  let new := (all.filter fun m => !(routeOf s m).static).map fun m => (m, computed s ns m)
  let s1 := new.foldl (fun s e => setRoute e.1 e.2.1 s) s
  let gone := (new.filter fun e => (routeOf s e.1).valid && !e.2.1.valid).map (·.1)
  let moved := (new.filter fun e => e.2.1.valid && ((routeOf s e.1).port != e.2.1.port || (routeOf s e.1).hops != e.2.1.hops)).map (·.1)
  let s2 := retransmit (fun r => moved.contains r.dest) s1
  let s3 := gone.foldl (fun s m => declareLost m s) (releaseHeld s2)
  let (h, d) := longest (all.map fun m => (routeOf s3 m, ((new.find? (·.1 == m)).map (·.2.2.1)).getD 0, false))
  let us := min 65535 (ceilDiv (2 * d + 2000) 1000)
  let bound := if t.length ≤ 1024 then 100 else 1000
  let short := if h = 0 then 0 else bnat (decide (linkTmo s < us + bound))
  let bad := s.fab.lsrs.any fun l => l.linkTmo.toNat != linkTmo s
  let s4 := setF FAB_STATUS FAB_STATUS_RECOMPUTING 0 (setF FAB_STATUS FAB_STATUS_TMO_SHORT short
    (setF FAB_STATUS FAB_STATUS_DIAM_HOPS h (setF FAB_STATUS FAB_STATUS_DIAM_RT_US (if h = 0 then 0 else us) s3)))
  settle (if bad then setF FAB_STATUS FAB_STATUS_TMO_MISMATCH 1 s4 else s4)

def execRouteCompute (s : State) : Ans := .next (routeCompute s)

/-- The module an entry register names: FAB_ROUTE_SEL names it for FAB_ROUTE_DATA (R632). -/
def routeWord (r : Route) : Nat :=
  r.port % 8 + r.altPort % 8 * 16 + bnat r.altValid * 128 + r.hops % 65536 * 2 ^ 24 + bnat r.v2 * 2 ^ 60 + bnat r.lost * 2 ^ 61 +
    bnat r.static * 2 ^ 62 + bnat r.valid * 2 ^ 63

/-- A write of an entry (Table 16-13): STATIC 1 installs the fields, STATIC 0 returns it to computation; LOST 1 clears. -/
def writeRoute (m v : Nat) (s : State) : State :=
  let old := routeOf s m
  let lost := old.lost && !bitAt v 61
  let new : Route :=
    if bitAt v 62 then ⟨bits v 2 0, bits v 39 24, bits v 6 4, bitAt v 7, bitAt v 63, true, lost, old.v2⟩
    else { old with static := false, lost := lost }
  let s1 := setRoute m new s
  let moved := new.port != old.port || new.hops != old.hops
  releaseHeld (if moved then retransmit (fun r => r.dest == m) s1 else s1)

def execFabRouteData (_w : Agent) (value : BitVec 64) (s : State) : Ans :=
  .next (writeRoute (getF s FAB_ROUTE_SEL FAB_ROUTE_SEL_MODULE) value.toNat s)

/-! ### Ports (R466 to R471, R475) -/

/-- A port has left UP: it takes no traffic, and entries fall back on their alternates (R471, R479). -/
def leaveUp (p : Nat) (s : State) : State :=
  let away := (s.fab.routes.filter fun e => e.2.port == p && e.2.altValid && portUp s e.2.altPort).map (·.1)
  recomputing (floodOwn (retransmit (fun r => away.contains r.dest) s))

/-- A cable is found, or the port is enabled: it trains, unless it is DISABLED or the module has no ID (R466, R475). -/
def execPortTrain (port : BitVec 3) (peer : PeerInfo) (s : State) : Ans :=
  let p := port.toNat
  let st := portState s p
  if getF s (FAB_PORT_CTL p) FAB_PORT_CTL_ENABLE = 0 ∨ moduleId s = 0 ∨ moduleId s = 0xFFFF ∨ 
      (st ≠ ptDown ∧ st ≠ ptFault ∧ st ≠ ptDisabled ∧ !(st == ptTraining && (fport s p).peer.isNone)) then .next s
  else
    .next (setF (FAB_PORT_STATUS p) FAB_PORT_STATUS_FAULT 0 (setPortState p ptTraining
      (setFport p { fport s p with peer := some peer, lanes := 0xFF, cable := true } s)))

/-- The highest rate both ends support, MAX_RATE allows and every lane accepted (R466, R487). -/
def chosenRate (s : State) (p : Nat) (i : PeerInfo) : Nat :=
  let m := getF s (FAB_PORT_CTL p) FAB_PORT_CTL_MAX_RATE
  let top := min (min (if m = 0 then 3 else m) i.maxRate.toNat) (if i.version.toNat = 2 then 2 else 3)
  ([3, 2, 1].find? fun r => decide (r ≤ top) && bitAt i.goodRates.toNat r).getD 0

/-- Why the port may not come up (R475, R466): FAULT's code, 0 for none. -/
def trainFault (s : State) (p : Nat) (i : PeerInfo) : Nat :=
  if i.module.toNat = moduleId s then 1
  else if i.parish.toNat ≠ getF s FAB_ID FAB_ID_PARISH then 2
  else if i.version.toNat ≠ 2 ∧ i.version.toNat ≠ 3 then 3
  else if chosenRate s p i = 0 then 4
  else 0

def portFault (p code : Nat) (s : State) : State :=
  setF (FAB_PORT_STATUS p) FAB_PORT_STATUS_FAULT code (setF (FAB_PORT_STATUS p) FAB_PORT_STATUS_WIDTH 0
    (setF (FAB_PORT_STATUS p) FAB_PORT_STATUS_RATE 0 (setF (FAB_PORT_STATUS p) FAB_PORT_STATUS_LANES 0 (setPortState p ptFault s))))

def popLanes (m : Nat) : Nat := ((List.range 9).filter fun l => bitAt m l).length

/-- A port comes UP: its status, and a new record (R476). A training from DOWN starts the link afresh. -/
def portRise (p : Nat) (i : PeerInfo) (fresh : Bool) (s : State) : State :=
  let lanes := (fport s p).lanes
  let x := FAB_PORT_STATUS p
  let s1 := if fresh then
      setF (FAB_PORT_PEER p) FAB_PORT_PEER_PEER_ID i.module.toNat (setF (FAB_PORT_PEER p) FAB_PORT_PEER_PEER_PARISH i.parish.toNat
        (setF (FAB_PORT_PEER p) FAB_PORT_PEER_PEER_PORT i.port.toNat
          (setF x FAB_PORT_STATUS_SPARE_USED 0 (setF x FAB_PORT_STATUS_SPARE_FOR 0 (setF x FAB_PORT_STATUS_RATE (chosenRate s p i)
            (setF x FAB_PORT_STATUS_PROTO i.version.toNat
              (setFport p { fport s p with txSeq := 0, rxSeq := 0, replay := [], naksInRow := 0, naked := (0, 0), uncorr := [], partialMsg := [], credits := [] } s)))))))
    else s
  let s2 := setF (FAB_PORT_PEER p) FAB_PORT_PEER_DELAY_NS i.delayNs.toNat (liftFence domPort p s1)
  recomputing (floodOwn (setPortState p ptUp (setF x FAB_PORT_STATUS_WIDTH (popLanes lanes) (setF x FAB_PORT_STATUS_LANES lanes s2))))

def execTrainingComplete (port : BitVec 3) (s : State) : Ans :=
  let p := port.toNat
  let st := portState s p
  match (fport s p).peer with
  | none => .next s
  | some i =>
    if st = ptTraining then
      let f := trainFault s p i
      .next (if f = 0 then portRise p i true s else portFault p f s)
    else if st = ptRetraining then .next (portRise p i false s)
    else .next s

/-- A retrain over the good lanes: eight of them, else the four lowest at half the rate, else FAULT (R471). -/
def portRetrain (p good : Nat) (s : State) : State :=
  if portState s p ≠ ptUp then s
  else
    let ls := (List.range 9).filter fun l => bitAt good l
    let use := if 8 ≤ ls.length then ls.take 8 else ls.take 4
    let s1 := incF (FAB_PORT_RETRY p) FAB_PORT_RETRY_RETRAINS 1 s
    if ls.length < 4 then leaveUp p (portFault p 5 s1)
    else leaveUp p (setPortState p ptRetraining (setF (FAB_PORT_STATUS p) FAB_PORT_STATUS_WIDTH 0
      (setF (FAB_PORT_STATUS p) FAB_PORT_STATUS_LANES 0
        (setFport p { fport s1 p with lanes := (use.map (2 ^ ·)).sum, naksInRow := 0, naked := (0, 0), uncorr := [] } s1))))

def execPortRetrain (port : BitVec 3) (goodLanes : BitVec 9) (s : State) : Ans := .next (portRetrain port.toNat goodLanes.toNat s)

/-- A lane is replaced by lane 8, or the port retrains where that is in use (R470, R471). -/
def execLaneSwap (port : BitVec 3) (lane : BitVec 4) (s : State) : Ans :=
  let p := port.toNat
  let l := lane.toNat
  let x := FAB_PORT_STATUS p
  let lanes := getF s x FAB_PORT_STATUS_LANES
  if portState s p ≠ ptUp ∨ 8 < l ∨ !bitAt lanes l then .next s
  else if getF s x FAB_PORT_STATUS_SPARE_USED = 1 then .next (portRetrain p (lanes - 2 ^ l) s)
  else
    let now := lanes - 2 ^ l + 256
    .next (ledger 0x0205 1 (fenceCode domPort p) 0 (ledgerData [(0, 1, 1), (1, 1, p), (2, 1, l)])
      (incF (FAB_PORT_RETRY p) FAB_PORT_RETRY_LANE_SWAPS 1
        (setF x FAB_PORT_STATUS_SPARE_USED 1 (setF x FAB_PORT_STATUS_SPARE_FOR l (setF x FAB_PORT_STATUS_LANES now
          (setFport p { fport s p with lanes := now } s))))))

/-- FAB_PORT_CTLp.ENABLE: 0 takes the port to DISABLED, 1 lets it train. -/
def enablePort (p : Nat) (on : Bool) (s : State) : State :=
  let st := portState s p
  let s1 := setF (FAB_PORT_CTL p) FAB_PORT_CTL_ENABLE (bnat on) s
  if on then (if st = ptDisabled then setPortState p ptDown s1 else s1)
  else
    let x := FAB_PORT_STATUS p
    let s2 := setF x FAB_PORT_STATUS_WIDTH 0 (setF x FAB_PORT_STATUS_RATE 0 (setF x FAB_PORT_STATUS_LANES 0 (setPortState p ptDisabled s1)))
    if st = ptUp then leaveUp p s2 else s2

/-! ### Flits (R468, R469) -/

/-- A port retrains over the lanes in use where its link fails too often (R471). -/
def retrainIf (b : Bool) (p : Nat) (s : State) : State :=
  if b then portRetrain p (getF s (FAB_PORT_STATUS p) FAB_PORT_STATUS_LANES) s else s

/-- Replay every flit after a sequence number, go-back-N (R469); a flit that is refused 16 times in a row makes the port retrain. -/
def replayFrom (p q : Nat) (s : State) : State :=
  let f := fport s p
  let left := f.replay.filter fun x => decide (0 < (x + 4096 - q) % 4096) && decide ((x + 4096 - q) % 4096 ≤ 2048)
  let times := if f.naked.1 = q then f.naked.2 + 1 else 1
  retrainIf (decide (16 ≤ times)) p (left.foldl (fun s x => emit (.replay p x) s)
    (incF (FAB_PORT_RETRY p) FAB_PORT_RETRY_REPLAYED left.length (setFport p { f with replay := left, naked := (q, times) } s)))

def execFlitNak (port : BitVec 3) (seq : BitVec 12) (s : State) : Ans :=
  .next (if portUp s port.toNat then replayFrom port.toNat seq.toNat s else s)

/-- The bytes that a good flit adds to its message; a message of a reserved kind is discarded and counted (R472). -/
def flitPayload (p w0 : Nat) (payload : List Byte) (s : State) : State :=
  let f := fport s p
  let c := bits w0 13 12
  let have_ := if bitAt w0 14 then [] else Assoc.get (fun _ => []) f.partialMsg c
  let whole := have_ ++ payload
  if bitAt w0 15 then
    let kind := leNat (whole.take 1)
    let s1 := setFport p { f with partialMsg := Assoc.put (fun _ => []) f.partialMsg c [] } s
    if kind = 0 ∨ 9 < kind then incF FAB_TTL_DROPS FAB_TTL_DROPS_DROPS 1 s1 else s1
  else setFport p { f with partialMsg := Assoc.put (fun _ => []) f.partialMsg c whole } s

/-- What a good flit brings of the other direction: acknowledgement, NAK, returned buffers. -/
def flitAcks (p ackw credits : Nat) (s : State) : State :=
  let f := fport s p
  let q := bits ackw 11 0
  let f1 := { f with credits := (List.range 4).foldl (fun l c =>
    let b := bits credits (8 * c + 7) (8 * c)
    Assoc.put (fun _ => 0) (Assoc.put (fun _ => 0) l (2 * c) (Assoc.get (fun _ => 0) l (2 * c) + b % 16))
      (2 * c + 1) (Assoc.get (fun _ => 0) (Assoc.put (fun _ => 0) l (2 * c) (Assoc.get (fun _ => 0) l (2 * c) + b % 16)) (2 * c + 1) + b / 16)) f.credits }
  let left := f.replay.filter fun x => decide (0 < (x + 4096 - q) % 4096) && decide ((x + 4096 - q) % 4096 ≤ 2048)
  if bitAt ackw 13 then replayFrom p q (setFport p f1 s)
  else if bitAt ackw 12 then setFport p { f1 with replay := left, naked := (0, 0) } s
  else setFport p f1 s

/-- A flit with a wrong CRC: it is refused. After 16 in a row, or more than 100 in a millisecond, the port retrains (R469, R471). -/
def badFlit (p : Nat) (s : State) : State :=
  let f := fport s p
  let now := clockNow s
  let recent := (f.uncorr.filter fun t => decide (now < t + 1000000)) ++ [now]
  retrainIf (decide (16 ≤ f.naksInRow + 1) || decide (100 < recent.length)) p
    (emit (.nak p ((f.rxSeq + 4095) % 4096)) (incF (FAB_PORT_FEC p) FAB_PORT_FEC_UNCORR_CW 1
      (setFport p { f with naksInRow := f.naksInRow + 1, uncorr := recent } (advance s))))

/-- A flit arrives: FEC has corrected `corrected` symbols; a wrong CRC, or a flit out of turn, is answered with a NAK. -/
def flitReceive (p : Nat) (flit : List Byte) (corrected : Nat) (s : State) : State :=
  if !portUp s p then s
  else
    let f := fport s p
    let s1 := incF (FAB_PORT_FEC p) FAB_PORT_FEC_CORR_SYMBOLS corrected s
    let good := leNat (slice flit 252 4) = crc32c (flit.take 252)
    let w0 := leNat (flit.take 2)
    let last := (f.rxSeq + 4095) % 4096
    if !good then badFlit p s1
    else if bits w0 11 0 ≠ f.rxSeq then
      if (f.rxSeq + 4096 - bits w0 11 0) % 4096 ≤ 2048 then s1 else emit (.nak p last) s1
    else
      let s2 := setFport p { f with rxSeq := (f.rxSeq + 1) % 4096, naksInRow := 0 } s1
      flitAcks p (leNat (slice flit 2 2)) (leNat (slice flit 4 4)) (flitPayload p w0 (slice flit 8 240) s2)

def execFlitReceive (port : BitVec 3) (flit : BitVec 2048) (corrected : BitVec 16) (s : State) : Ans :=
  .next (flitReceive port.toNat (leBytes 256 flit.toNat) corrected.toNat s)

end Sys2Proof.Machine
end

