-- ==== Sys2Proof/Machine/Outage.lean ====
section
/-! DEFINITION. Main power lost (R544, R605, R647), fences named by an event (R556), the owl and the two Wardens (R567 to
R569), supply phases (R574), and the mirror of the ledger (R551). -/

namespace Sys2Proof.Machine

open Sys2Proof

/-! ### The removal state (Table 22-2) -/

def rsInService : Nat := 0
def rsArmed : Nat := 1
def rsDraining : Nat := 2
def rsQuiescing : Nat := 3
def rsSafe : Nat := 4
def rsReleased : Nat := 5

def rstate (s : State) : Nat := getF s SVC_STATUS SVC_STATUS_RSTATE

/-- A change of RSTATE: its PLDM event, and SVC_IRQ on entering ARMED and DRAINING (R603, R623). -/
def setRstate (v : Nat) (s : State) : State :=
  if rstate s = v then s
  else
    let s1 := sensorEvent 0x40 v (setF SVC_STATUS SVC_STATUS_RSTATE v { s with tray := { s.tray with drainEnd := none } })
    if v = rsArmed ∨ v = rsDraining then raiseReg SVC_IRQ s1 else s1

def setCause (c : Nat) (s : State) : State := setF SVC_STATUS SVC_STATUS_LAST_CAUSE c s

/-! ### Quiescing (R605) -/

/-- Does an activation hold QUIESCING up (Table 22-6)? -/
def activationRuns (s : State) : Bool :=
  match s.mgmt.activating with | some (.warden, _) | some (.reeve, _) => true | _ => false

/-- Stage 1: every enabled queue receives the DISABLE action. -/
def quiesceQueues (s : State) : State :=
  s.queues.foldl (fun s e => if (queueOf s e.1).state = .enabled then setQueue e.1 (drainQueue (queueOf s e.1)) s else s) s

/-- The stage that waited for an activation. -/
def resumeQuiesce (s : State) : State := if rstate s = rsQuiescing ∧ !activationRuns s then quiesceQueues s else s

def beginQuiesce (s : State) : State := resumeQuiesce (setRstate rsQuiescing s)

/-! ### Main power -/

/-- What the loss of main power leaves: the Wardens, the boot store, the cellar's NAND, the repairs that the module keeps.
Stack, DDR5 and larder contents are gone, commands with them, and no record is written (R544, R609, Table 14-5). -/
def dropMain (journal : Bool) (s : State) : State :=
  let s1 := (s.faults.active.filter fun a => decide (a.1 < 5)).foldl (fun s a => abandonRung a.1 a.2.1 s) s
  let s2 := if s1.faults.capturing.isSome then
      setF CAPTURE_STATUS CAPTURE_STATUS_RUNNING 0 (setF CAPTURE_STATUS CAPTURE_STATUS_ABANDONED 1 s1) else s1
  let s3 := resetRegs [.engine, .chip, .module, .host, .ddr, .port, .guest] s2
  { s3 with
    mem := [], poison := [], wbuf := [], bell := 0, jumped := false
    queues := [], cmds := [], ctxs := [], parts := [], staged := [], segs := [], dpool := [], walks := [], tallies := []
    waiters := [], progs := [], partSets := [], heldPort := [], turns := [], actionEnd := 0, tallyEnd := 0, upsets := []
    cores := (s3.cores.map fun e => (e.1, e.2.afterReset e.1)).filter fun e => e.2 != coreReset e.1
    stackDies := (s3.stackDies.map fun e => (e.1, { e.2 with rewritten := [], sparing := [] })).filter fun e => e.2 != Stack.reset
    hc := HostComplex.reset
    fab := { Fabric.reset with ports := (s3.fab.ports.map fun e => (e.1, { FPort.reset with cable := e.2.cable })).filter fun e => e.2 != FPort.reset }
    g0 := Guest.reset, g1 := Guest.reset, pA := ExtPort.reset, pB := ExtPort.reset
    power := { Power.reset with temps := s3.power.temps, badSensors := s3.power.badSensors }
    faults := { s3.faults with fenced := [], draining := [], watch := [] }
    mgmt := { s3.mgmt with activating := none, reeveDigest := [] }
    chainGen := 0, chainPosted := false
    tray := { s3.tray with mainOn := false, pwrgd := false, cycleReq := false, journal := s3.tray.journal || journal, drainEnd := none } }

/-- The main power stages go off, if they were on. The cellar controller writes its journal in the hold-up, unless it was
sealed before (R382, R605). -/
def powerDown (journal : Bool) (s : State) : State := if s.tray.mainOn then dropMain journal s else s

/-- A comparator trips at 110 °C (R544, R545). -/
def thermalTrip (isl c : Nat) (s : State) : State :=
  if c < 110 ∨ !s.tray.mainOn then s
  else
    let s1 := setF THERM_STATUS THERM_STATUS_TRIPPED 1 (setF THERM_STATUS THERM_STATUS_TRIP_ISL isl
      (setF THERM_STATUS THERM_STATUS_TRIP_C c s))
    let s2 := sensorEvent 0x41 2 (ledger 0x0505 5 0 0 (ledgerData [(0, 2, isl), (2, 1, c)]) s1)
    let s3 := if rstate s2 = rsInService ∨ rsSafe ≤ rstate s2 then s2 else setCause 4 (setRstate rsInService s2)
    let s4 := powerDown true s3
    { s4 with tray := { s4.tray with hold := 2 } }

def execThermalTrip (r : BitVec 9) (celsius : BitVec 8) (s : State) : Ans := .next (thermalTrip r.toNat celsius.toNat s)

/-! ### Standby power (R645) -/

/-- Standby power is lost: registers of the Warden domain reset, the ledger's ring and all the Wardens hold in memory are
gone; the boot store, the key store, the mirror and the captures are not (R551, R581, R627). -/
def standbyLost (s : State) : State :=
  let s1 := resetRegs [.warden] (powerDown true s)
  { s1 with
    faults := { s1.faults with
      ring := [], unmirrored := [], rungs := [], active := [], seen := [], watch := [], wardenBeat := 0, resets := [] }
    mgmt := { s1.mgmt with
      update := none, activating := none, wardenDigest := 0, sessions := [], nextSession := 1, replays := [], privRung := none
      eidI3c := 0, eidA := 0, eidB := 0, dynAddr := none, receiver := none, events := [], nextEvent := 1 }
    tray := { s1.tray with
      standby := false, refusedAt := none, bayRefused := [], drainEnd := none, lastAttn := none, hold := 0 } }

/-- The main input crosses a threshold (R647). A module that is SAFE has nothing to write (Table 22-6). With the standby
input gone as well, standby power ends with the hold-up. -/
def mainLost (s : State) : State :=
  let s1 := powerDown true s
  let s2 := { s1 with tray := { s1.tray with mainInput := false, cycleReq := false } }
  if s2.tray.standbyInput then s2 else standbyLost s2

def execMainInputLoss (s : State) : Ans := .next (mainLost s)

/-- The standby input falls: standby power is fed from main, or lost where main is out of range. -/
def standbyInputLost (mainOk : Bool) (s : State) : State :=
  let s1 := { s with tray := { s.tray with standbyInput := false } }
  if mainOk then s1 else mainLost s1

def execStandbyInputLoss (mainInRange : Bool) (s : State) : Ans := .next (standbyInputLost mainInRange s)

/-- PRSNT# goes high: the tray removes main, then standby (R649). -/
def execPrsntDeassert (s : State) : Ans :=
  .next (standbyInputLost false (mainLost { s with tray := { s.tray with prsnt := false } }))

/-- Main power has not been removed within 2 s of CYCLE_REQ#: the Warden switches the stages off itself, and the warm start
follows (R564). -/
def execCycleReqTimeout (s : State) : Ans :=
  if underRung s 5 0 ∧ s.tray.mainOn then .next (powerDown true { s with tray := { s.tray with cycleReq := false } }) else .next s

/-- A cage rail is switched off on overcurrent: the port enters DOWN (R655). -/
def execCageOvercurrent (port : BitVec 3) (s : State) : Ans :=
  let p := port.toNat
  let st := portState s p
  if st = ptDisabled then .next s
  else
    let x := FAB_PORT_STATUS p
    let s1 := setF x FAB_PORT_STATUS_WIDTH 0 (setF x FAB_PORT_STATUS_RATE 0 (setF x FAB_PORT_STATUS_LANES 0 (setPortState p ptDown s)))
    .next (if st = ptUp then leaveUp p s1 else s1)

/-! ### Fences (R556) -/

/-- A core fenced on its own: refusals at once, its steps in flight drain. Fenced again within 10 s of the partition reset
that followed its last fence, it is retired (Table 20-9). -/
def coreFence (n : Nat) (s : State) : State :=
  let c := coreOf s n
  if c.state == .unassigned ∨ c.state == .fenced ∨ isFenced s domCore n then s
  else
    let again := s.faults.resets.any fun e => e.1 == 0x1000 + n && decide (clockNow s < e.2 + 10000000000)
    let f (e : Engine) : Engine := if e.flight.isSome then e else { e with state := .fenced, patrolFor := none }
    let tests := patrolCmds c
    let s1 := setCore n { c with
      state := .fenced, wasOff := (c.wasOff && c.state == .mappingIn) || c.state == .off, mapping := none
      offOwed := c.offOwed || c.state == .turningOff, offStage := false
      e0 := f c.e0, e1 := f c.e1, e2 := f c.e2, e3 := f c.e3
      rampUp := none, rampDown := none, rampWait := false, offPending := false, wakePending := false } (raiseFence domCore n s)
    let s2 := { s1 with
      power := { s1.power with offs := s1.power.offs.filter fun o => o.core != n, moving := s1.power.moving.filter (· != n) }
      faults := { s1.faults with draining := setInsert s1.faults.draining (fenceCode domCore n) } }
    let s3 := tests.foldl (fun s c => finishFail c (fFenced domCore n) s) s2
    let s4 := [0, 1, 2, 3].foldl (fun s e => owedSpill n e s) s3
    if again then retireCore n 5 0 0 s4 else s4

/-- A domain whose own chapter gives it no reset at the fence: refusals now, its drain to come. -/
def plainFence (dom idx : Nat) (s : State) : State :=
  if isFenced s dom idx then s
  else
    let s1 := raiseFence dom idx s
    { s1 with faults := { s1.faults with draining := setInsert s1.faults.draining (fenceCode dom idx) } }

/-- A port fenced: it takes no traffic and retrains (R471). -/
def portFence (p : Nat) (s : State) : State :=
  if isFenced s domPort p then s else portRetrain p (fport s p).lanes (plainFence domPort p s)

def fenceDomain (d : DomainRef) (s : State) : State :=
  match d with
  | .core n => coreFence n.toNat s
  | .die d => dieFence d.toNat s
  | .partition p => plainFence domPart p.toNat s
  | .stack k => fenceStack k.toNat s
  | .hostComplex => setF HC_STATUS HC_STATUS_DIR_UP 0 (plainFence domHost 0 s)
  | .port p => portFence p.toNat s
  | .guest g1 => guestFence g1 s
  | .bay b => if bitAt s.tray.present b.toNat && !bitAt s.tray.failed b.toNat then setBay b.toNat bayFailed s else s
  | .ddr => ddrReset s

/-- Domain code and index (Table 09-23). -/
def domainCode : DomainRef → Nat × Nat
  | .core n => (domCore, n.toNat)
  | .die d => (domDie, d.toNat)
  | .partition p => (domPart, p.toNat)
  | .stack k => (domStack, k.toNat)
  | .hostComplex => (domHost, 0)
  | .port p => (domPort, p.toNat)
  | .guest g1 => (domGuest, bnat g1)
  | .bay b => (domBay, b.toNat)
  | .ddr => (domDdr, 0)

/-- Runs with a step on a core that has not ended. -/
def openOn (s : State) (n : Nat) : List (Nat × Nat) :=
  s.progs.flatMap fun e => match e.2 with
    | none => []
    | some p => (p.runs.filter fun r => r.failed.isNone && p.steps.zipIdx.any fun (x, i) => x.core == n && !r.done.contains i).map
        fun r => (e.1, r.id)

/-- What a domain still holds is answered: the steps, waiters and commands of a core, the commands of a partition. -/
def answerRest (d : DomainRef) (s : State) : State :=
  match d with
  | .core n =>
    let n := n.toNat
    let f := fFenced domCore n
    -- every run that still has a step to do there, part-done ones of the SFU and the RSU among them (R167)
    let s0 := (openOn s n).foldl (fun s r => failRun r.1 r.2 f s) (failCore n f s)
    let s1 := setCore n { coreOf s0 n with offOwed := false } s0
    let c := coreOf s1 n
    let g (e : Engine) : Engine := { e with state := .fenced }
    let s2 := setCore n { c with e0 := g c.e0, e1 := g c.e1, e2 := g c.e2, e3 := g c.e3 } s1
    let s3 := dropWaiters (fun w => w.core == n) f s2
    abortWhere (fun e => e.core == n && e.result.isNone && !ownsRun s3 e.ref) f s3
  | .partition p => abortWhere (fun e => (ctxOf s e.ref.ctx.toNat).part == p.toNat && e.result.isNone) (fFenced domPart p.toNat) s
  | _ => s

/-- The drain limit passes: what is left is answered ST_FENCED, and the FENCED record is written. -/
def drainExpiry (d : DomainRef) (answered discarded : Nat) (s : State) : State :=
  let (dom, idx) := domainCode d
  if !s.faults.draining.contains (fenceCode dom idx) then s
  else
    let s1 := { s with faults := { s.faults with draining := setErase s.faults.draining (fenceCode dom idx) } }
    settle (fencedLedger dom idx answered discarded (answerRest d s1))

def execDrainLimitExpiry (d : DomainRef) (answered discarded : BitVec 32) (s : State) : Ans :=
  .next (drainExpiry d answered.toNat discarded.toNat s)

/-! ### Heartbeats (R567, R568) -/

/-- Each Reeve that runs and the active Warden count a beat. -/
def execHeartbeat (s : State) : Ans :=
  let alive := if s.tray.mainOn then (List.range 4).filter fun d => !isFenced s domDie d else []
  let s1 := alive.foldl (fun s d => incF (OWL_BEAT d) OWL_BEAT_BEAT 1 s) s
  .next { s1 with faults := { s1.faults with wardenBeat := s1.faults.wardenBeat + 1 } }

def seenOf (s : State) (k : Nat) : Nat := Assoc.get (fun _ => 0) s.faults.seen k
def watched (s : State) (k : Nat) : Bool := Assoc.get (fun _ => false) s.faults.watch k

def noteBeat (k v : Nat) (on : Bool) (s : State) : State :=
  { s with faults := { s.faults with
    seen := Assoc.put (fun _ => 0) s.faults.seen k v
    watch := Assoc.put (fun _ => false) s.faults.watch k on } }

def missLedger (k : Nat) (s : State) : State :=
  ledger 0x0404 4 (if k < 4 then fenceCode domDie k else if k = 4 then fenceCode domHost 0 else 0) 0
    (ledgerData [(0, 1, k), (4, 4, seenOf s k)]) s

/-- The owl's look at one agent: `up` says whether it is watched at all, `v` is its counter, `act` what a miss does. The
watch begins with the first beat. -/
def lookAt (k v : Nat) (up : Bool) (act : State → State) (s : State) : State :=
  if !up then noteBeat k v false s
  else if v ≠ seenOf s k then noteBeat k v true s
  else if watched s k then act (missLedger k (noteBeat k v false s))
  else s

/-! ### Two Wardens (R569) -/

/-- The standby becomes the active Warden. -/
def swapWarden (s : State) : State :=
  let now := 1 - getF s WARDEN_STATUS WARDEN_STATUS_ACTIVE
  ledger 0x0405 4 0 0 (ledgerData [(0, 1, now)]) (setF WARDEN_STATUS WARDEN_STATUS_ACTIVE now s)

/-- The standby Warden's check: with the counter unchanged since its last check it takes over. The failed Warden is no
standby until it has passed its own checks. Rungs in progress stay in progress, started again under the new Warden. -/
def wardenTakeover (s : State) : State :=
  if getF s WARDEN_STATUS WARDEN_STATUS_STANDBY_OK = 0 then s
  else if s.faults.wardenBeat ≠ seenOf s 5 then noteBeat 5 s.faults.wardenBeat true s
  else
    let s1 := missLedger 5 (setF WARDEN_STATUS WARDEN_STATUS_STANDBY_OK 0 (setF OWL_STATUS OWL_STATUS_WARDEN 1 s))
    let s2 := swapWarden (setReason 5 s1)
    { s2 with mgmt := { s2.mgmt with activating := match s2.mgmt.activating with | some (.warden, _) => none | x => x } }

def execWardenTakeover (s : State) : Ans := .next (wardenTakeover s)

/-- A replacement reason that ends (R569): REPLACE falls with the last. -/
def clearReason (b : Nat) (s : State) : State :=
  if !bitAt (getReg s FLT_STATUS) b then s
  else
    let s1 := clearBits FLT_STATUS (2 ^ b) s
    if getReg s1 FLT_STATUS % 2 ^ 7 = 0 then
      sensorEvent 0x41 (if getF s1 THERM_STATUS THERM_STATUS_TRIPPED = 1 then 2 else 0) (clearBits FLT_STATUS (2 ^ 31) s1) else s1

def execWardenResetDone (ok : Bool) (s : State) : Ans :=
  .next (if ok then clearReason 5 (setF WARDEN_STATUS WARDEN_STATUS_STANDBY_OK 1 s) else s)

/-! ### Supply phases (R574) -/

def phaseBuilt (i : Nat) : Nat := if i < 4 then 18 else if i = 4 then 10 else if i < 17 then 4 else 6
def phaseRequired (i : Nat) : Nat := if i < 4 then 16 else if i = 4 then 8 else if i < 17 then 2 else 4

def phasesFailed (s : State) (i : Nat) : Nat :=
  ((List.range (phaseBuilt i)).filter fun k => bitAt (getF s (PHASE_STATUS i) PHASE_STATUS_FAILED_MAP) k).length

/-- The domain of a supply's die, where Table 09-23 has one. -/
def supplyCode (i : Nat) : Nat :=
  if i < 4 then fenceCode domDie i else if i = 4 then fenceCode domHost 0 else if i < 17 then fenceCode domStack (i - 5) else 0

def supplyFence (i : Nat) (s : State) : State :=
  if i = 4 then fenceDomain .hostComplex s else if 5 ≤ i ∧ i < 17 then fenceStack (i - 5) s else s

/-- Keep no more cores of a die on than its supply carries. -/
def limitCores (d limit : Nat) (s : State) : State :=
  let s1 := setF (PHASE_STATUS d) PHASE_STATUS_CORES_LIMIT limit s
  ((offCandidates s1 fun n => n / 64 == d).take (coresOn s1 d - limit)).foldl (fun s n => takeOff 2 n s) s1

def PhaseCause.code : PhaseCause → Nat
  | .overcurrent => 1
  | .overtemperature => 2
  | .driver => 3

def phaseFault (i k cause : Nat) (s : State) : State :=
  let map := getF s (PHASE_STATUS i) PHASE_STATUS_FAILED_MAP
  if 19 ≤ i ∨ phaseBuilt i ≤ k ∨ bitAt map k then s
  else
    let s1 := setF (PHASE_STATUS i) PHASE_STATUS_FAILED_MAP (map + 2 ^ k) s
    let working := phaseBuilt i - phasesFailed s1 i
    let s2 := ledger 0x0208 (if phaseRequired i ≤ working then 1 else 4) (supplyCode i) 0
      (ledgerData [(0, 1, i), (1, 1, k), (2, 1, cause)]) s1
    if phaseRequired i ≤ working then s2
    else if i < 4 then limitCores i (64 * working / phaseRequired i) s2
    else
      let s3 := setReason 4 s2
      if working + 1 < phaseRequired i then supplyFence i s3 else s3

def execPhaseFault (supply phase : BitVec 5) (cause : PhaseCause) (s : State) : Ans :=
  .next (phaseFault supply.toNat phase.toNat (PhaseCause.code cause) s)

/-! ### The mirror (R551, R554) -/

/-- The oldest record that the mirror lacks, or holds an earlier copy of, is copied while the cellar takes writes. -/
def mirrorOne (s : State) : State :=
  match s.faults.unmirrored with
  | [] => s
  | q :: rest =>
    let s1 := { s with faults := { s.faults with unmirrored := rest } }
    match s.faults.ring.find? (·.seq == q) with
    | none => s1
    | some r =>
      let m := s.faults.mirror
      let m1 := if m.any (·.seq == q) then m.map fun x => if x.seq == q then r else x else (r :: m).take 1048576
      { s1 with faults := { s1.faults with mirror := m1 } }

def execLedgerMirrorWrite (s : State) : Ans := if cellarUp s then .next (mirrorOne s) else .next s

end Sys2Proof.Machine
end

