-- ==== Sys2Proof/Machine/RegStore.lean ====
section
/-! DEFINITION. A value stored into a register under its access codes and update classes (R5, R7 to R10, R634, R636):
which blocks are idle, which limits hold, what is rejected. -/

namespace Sys2Proof.Machine

open Sys2Proof

/-! ### Is a register served (R636)? -/

/-- Registers of a domain that is unpowered, resetting or fenced are not. A guest site's registers are served while the
site is fenced, since its reset is asked for through them (R499). -/
def regServed (s : State) (r : RegRow) (off : Nat) : Bool :=
  match r.dom with
  | .warden => true
  | .engine | .chip => s.tray.mainOn && !(List.range 4).any fun d => dieReg d off && isFenced s domDie d
  | .module | .guest => s.tray.mainOn
  | .host => s.tray.mainOn && decide (2 ≤ getF s HC_STATUS HC_STATUS_STATE)
  | .ddr => s.tray.mainOn && !isFenced s domDdr 0
  | .port => s.tray.mainOn && !(List.range 8).any fun p => isFenced s domPort p &&
      decide (0x2160000 + 0x100 * p ≤ off ∧ off < 0x2160100 + 0x100 * p)

/-! ### Who may write -/

/-- Which agents a register accepts (R464, R565, R600, R630, R633): a host core in machine mode where it asks for that. -/
def mayWrite (w : Agent) : Writers → Bool
  | .any => true
  | .reeveWarden => isReeveWarden w
  | .wardenMachine => match w with | .warden | .mailbox => true | .host _ m => m | _ => false
  | .hostOnly => match w with | .host _ _ => true | _ => false
  | .row => true
  | .none => false

/-! ### Class S: idle blocks and limits -/

/-- Is a segment of the stacks recorded? -/
def stackSegs (s : State) : Bool := (recordedSegs s).any fun e => e.2.cls == clsNear || e.2.cls == clsWoven

/-- Is a volume granted to a partition (R380)? -/
def volGranted (s : State) (v : Nat) : Bool := (List.range 16).any fun p => bitAt (partOf s p).volumes v

/-- Is the block of a register with class S fields idle? A core cache is, when its core has no step in flight and it has no
miss outstanding. -/
def blockIdle (s : State) (name : String) (i : Nat) : Bool :=
  match name with
  | "CACHE_CTL" => !(coreOf s i).engines.any (·.flight.isSome) && (pcacheOf s (128 + i)).miss.isNone
  | "Q_TABLE_BASE" => s.queues.all fun e => e.2.state == .disabled
  | "BELL_ORIGIN" => !s.jumped
  | "STK_CFG" => !stackSegs s
  | "CELLAR_VOL" => !volGranted s i
  | "FAB_PORT_CTL" => [ptDisabled, ptDown, ptFault].contains (portState s i)
  | "FAB_ID" => !(List.range 8).any fun p => [ptTraining, ptUp, ptRetraining].contains (portState s p)
  | "GUEST_CTL" | "GUEST_BIND" => siteState s i != gsReady
  | "EXT_PORT_CTL" => extState s (i == 1) == 0 || extState s (i == 1) == 5
  | "EXT_BAR4" => !(extPort s (i == 1)).memEnable
  | _ => true

/-- Sizes of all volumes but one. -/
def otherVols (s : State) (v : Nat) : Nat :=
  ((List.range 256).filter (· != v)).foldl (fun n j => n + getF s (CELLAR_VOL j) CELLAR_VOL_SIZE) 0

/-- The BAR4 window of a CXL memory mode lies within the stacks (R510). -/
def hdmOk (mode bar : Nat) : Bool :=
  let lg := max 30 (min 41 (bits bar 5 0))
  !(mode == 2 || mode == 3) || decide (bits bar 47 30 * 2 ^ 30 + 2 ^ lg ≤ stackTop)

/-- Does a value of a register keep the limits that chapters state (R380, R510)? -/
def limitOk (s : State) (name : String) (i v : Nat) : Bool :=
  match name with
  | "CELLAR_VOL" => decide (otherVols s i + bits v 31 0 ≤ 20971520)
  | "EXT_PORT_CTL" => hdmOk (bits v 2 0) (getReg s (EXT_BAR4 i))
  | "EXT_BAR4" => hdmOk (getF s (EXT_PORT_CTL i) EXT_PORT_CTL_MODE) v
  | _ => true

/-! ### The store -/

/-- Store a value: RW bits take it, class S bits only where the block is idle and no limit breaks, W1C bits clear, W1S bits
set. Class L bits reach the shadow of the value in use at once, class B bits at the next bell. -/
def storeReg (w : Agent) (r : RegRow) (off v : Nat) (s : State) : State :=
  let i := ((r.index off).getD []).headD 0
  let old := getReg s off
  let want := mergeBits old v r.rw
  let hit := (want &&& r.classS) != (old &&& r.classS)
  let busy := hit && !blockIdle s r.name i
  let limit := hit && !busy && !limitOk s r.name i want
  let kept := if busy || limit then mergeBits want old r.classS else want
  let new := (kept - (kept &&& (v &&& r.w1c))) ||| (v &&& r.w1s)
  let s1 := setReg off new s
  let s2 := match r.live with
    | some d => setReg (off + d) (mergeBits (getReg s1 (off + d)) new (r.rw - (r.rw &&& r.classB))) s1
    | none => s1
  if busy then cfgReject w off v 1 s2 else if limit then cfgReject w off v 2 s2 else s2

/-- What follows from a stored value: the stacks' contents under a new map (R364), a volume that
shrinks loses its bytes (R380), a link held down (Table 18-1), the
configuration record (R600), records that a VALID bit clears as a whole. -/
def afterStore (r : RegRow) (off v : Nat) (old s : State) : State :=
  let i := ((r.index off).getD []).headD 0
  match r.name with
  | "STK_CFG" => remapStacks (nearK old) s
  | "CELLAR_VOL" =>
    let top := getF s off CELLAR_VOL_SIZE * mib2
    if getReg old off = getReg s off then s
    else { s with
      cellar := s.cellar.filter fun c => c.1 / 2 ^ 48 != i || decide (c.1 % 2 ^ 48 < top)
      cellarPoison := s.cellarPoison.filter fun x => 64 * x / 2 ^ 48 != i || decide (64 * x % 2 ^ 48 < top) }
  | "EXT_PORT_CTL" =>
    let m := getF s off EXT_PORT_CTL_MODE
    if (m = 0 ∨ 5 ≤ m) ∧ getF old off EXT_PORT_CTL_MODE ≠ m then setExtState (i == 1) 0 s else s
  | "BOOT_CFG" => { s with mgmt := { s.mgmt with config := { s.mgmt.config with bootCfg := BitVec.ofNat 32 (getReg s off) } } }
  | "TALLY_WIN_ERR" | "GUEST_ERR" => if bitAt v 63 then setReg off 0 s else s
  | "GLB_CFG_REJECT" => if bitAt v 63 then setReg GLB_CFG_REJECT 0 (setReg GLB_CFG_REJECT_DATA 0 s) else s
  | "THERM_STATUS" =>
    if bitAt v 63 ∧ getF old THERM_STATUS THERM_STATUS_TRIPPED = 1 then
      sensorEvent 0x41 (getF s FLT_STATUS FLT_STATUS_REPLACE) s else s
  | _ => s

/-- Store and what follows. -/
def putValue (w : Agent) (off v : Nat) (s : State) : State :=
  match regRow off with
  | none => s
  | some r => afterStore r off v s (storeReg w r off v s)

end Sys2Proof.Machine
end

