-- ==== Sys2Proof/Machine/Boot.lean ====
section
/-! DEFINITION. The boot store, cold and warm starts, host boot, attestation and firmware update (R582 to R598). -/

namespace Sys2Proof.Machine

open Sys2Proof

def setStage (v : Nat) (s : State) : State := setF BOOT_STATUS BOOT_STATUS_STAGE v s

/-! ### Steps of a start (Table 21-3) -/

/-- The configuration record goes into its registers. -/
def loadConfig (s : State) : State :=
  let c := s.mgmt.config
  [(FAB_ID, c.fabId.toNat), (FAB_CFG, c.fabCfg.toNat), (PWR_CAP, c.pwrCap.toNat), (BELL_CTL, c.bellCtl.toNat),
   (BELL_ORIGIN, c.bellOrigin.toNat), (BOOT_CFG, c.bootCfg.toNat)].foldl (fun s x => putValue .warden x.1 x.2 s) s

/-- The journal is replayed, and the loss of power recorded (R382, R609). A capture that the loss cut short is recorded as
abandoned (R578). -/
def replayJournal (s : State) : State :=
  let s1 := if s.tray.journal then
      ledger 0x0507 5 0 0 (ledgerData [(0, 4, (Config.journalBytes s.tick).toNat)]) (setF CELLAR_STATUS CELLAR_STATUS_REPLAYED 1
        (advance { s with tray := { s.tray with journal := false } }))
    else s
  endCapture 0 false true s1

/-- Sticks found. A stick of this cellar that was being rebuilt goes on being rebuilt; failed and retiring bays stay so. -/
def startCellar (bays : Nat) (s : State) : State :=
  let t := s.tray
  let again := t.rebuilding &&& bays
  let bad := t.failed &&& bays
  let s1 := showCellar { s with tray := { t with
    present := bays, rebuilding := again, failed := bad, retiring := t.retiring &&& bays, foreign := 0
    inSync := bays - (bays &&& (again ||| bad)) } }
  let st (b : Nat) : Nat := if !bitAt bays b then bayEmpty else if bitAt bad b then bayFailed else if bitAt again b then bayRebuilding
    else if bitAt t.retiring b then bayRetiring else bayMember
  let s2 := (List.range 8).foldl (fun s b =>
    let s1 := setF (CELLAR_BAY b) CELLAR_BAY_STATE (st b) s
    if bitAt bays b then showStick b s1 else s1) s1
  setFail 6 (decide (3 ≤ getF s2 CELLAR_STATUS CELLAR_STATUS_STATE)) s2

/-- Enabled ports wait for their links (R466). -/
def startPorts (cables : Nat) (s : State) : State :=
  (List.range 8).foldl (fun s p =>
    let s1 := setFport p { fport s p with cable := bitAt cables p } s
    if getF s1 (FAB_PORT_CTL p) FAB_PORT_CTL_ENABLE = 1 then setPortState p ptDown s1 else s1) s

/-- Guest sites train on the variant that has them; each IDENTITY is compared with the configuration record's (R495). -/
def startGuests (s : State) : State :=
  if !isP s then s
  else
    let s1 := { s with
      g0 := { s.g0 with identity := s.mgmt.config.identity0.toNat }, g1 := { s.g1 with identity := s.mgmt.config.identity1.toNat } }
    setSite 0 gsTraining (setSite 1 gsTraining s1)

/-- Stacks and DDR5 train and are written with zeros (Tables 21-3, 21-4). -/
def startMemory (found : Nat) (ddr fast : Bool) (s : State) : State :=
  let bad := (List.range 12).filter fun k => !bitAt found k
  let s1 := bad.foldl (fun s k => setReason 0 (raiseFence domStack k s)) s
  let s2 := setFail 4 (!bad.isEmpty) s1
  if ddr then
    setF DDR_STATUS DDR_STATUS_STATE 2 (setF DDR_STATUS DDR_STATUS_CH_UP 0xFF (setF DDR_STATUS DDR_STATUS_SPEED (1 + bnat fast) s2))
  else setFail 5 true (setReason 2 (raiseFence domDdr 0 s2))

/-- Compute dies: the Reeve firmware is loaded into those that trained. Two ring neighbours that did not put their stacks out of
reach (R17). -/
def startDies (dies : Nat) (s : State) : State :=
  noteUnreached s <| (List.range 4).foldl (fun s d =>
    if bitAt dies d then
      loadReeve d s
    else
      let s1 := setFail 3 true (setReason 1 (raiseFence domDie d s))
      ((List.range 64).map (64 * d + ·)).foldl (fun s n => fenceCoreState n s) s1) s

/-- A start ends the removal state and the power cycle that it belongs to. -/
def serveAgain (s : State) : State :=
  let cut := decide (rsArmed ≤ rstate s ∧ rstate s ≤ rsQuiescing)
  let s1 := if cut then setCause 5 s else s
  endRung 5 0 (setRstate rsInService { s1 with tray := { s1.tray with hold := 0, cycleReq := false } })

/-- From the main-supplies row of Table 21-3. With no valid Reeve firmware it halts after the I/O stage. -/
def bringUp (warm : Bool) (r : StartReport) (s : State) : State :=
  let s0 := dropMain false s
  let s1 := serveAgain { s0 with tray := { s0.tray with mainInput := true, mainOn := true, pwrgd := true } }
  let s2 := setF BOOT_STATUS BOOT_STATUS_WARM (bnat warm) s1
  let s3 := startPorts r.ports.toNat (startCellar r.bays.toNat (replayJournal (loadConfig s2)))
  match startBank s3 .reeve with
  | none => setStage 15 (setFail 1 true s3)
  | some (b, fell) =>
    let s4 := setRun .reeve b (setFail 1 fell s3)
    let s5 := startDies r.dies.toNat (startMemory r.stackMap.toNat r.ddr r.ddr6400 s4)
    let s6 := trainPackage (startGuests s5)
    let s7 := setSvc 1 (bumpMeas { s6 with chainGen := 2, chainPosted := true })
    setStage 7 (setF BOOT_STATUS BOOT_STATUS_START_MS (r.ms.toNat / 10) s7)

/-- The Wardens start (R585). -/
def startWardens (r : StartReport) (s : State) : Option State :=
  match startBank s .warden with
  | none => none
  | some (b, fell) =>
    if !r.wardenX0 ∧ !r.wardenX1 then none
    else
      let both := r.wardenX0 && r.wardenX1
      let s1 := setRun .warden b (setFail 0 fell { s with mgmt := { s.mgmt with wardenDigest := digestOf s .warden b } })
      let s2 := setF WARDEN_STATUS WARDEN_STATUS_ACTIVE (bnat (!r.wardenX0)) (setF WARDEN_STATUS WARDEN_STATUS_STANDBY_OK (bnat both) s1)
      some (if both then clearReason 5 s2 else setReason 5 s2)

/-- A cold start: standby power becomes good, or the bring-up that State.reset stands in is carried to its end. The ledger
goes on after the highest number in the mirror (R551). -/
def coldStart (r : StartReport) (s : State) : State :=
  if s.tray.standby ∧ (getF s ORD_SVC ORD_SVC_STATE ≠ 0 ∨ getF s BOOT_STATUS BOOT_STATUS_STAGE ≠ 0) then s
  else
    let next := (s.faults.mirror.foldl (fun m x => max m x.seq) 0) + 1
    let s1 := { s with
      tray := { s.tray with standby := true, standbyInput := true, prsnt := true }
      faults := { s.faults with nextSeq := max next (if s.tray.standby then s.faults.nextSeq else 0) } }
    let s2 := setReg BOOT_STATUS 0 s1
    match startWardens r s2 with
    | none => setStage 15 s2
    | some s3 => bringUp false r (setStage 1 s3)

def execColdStart (r : StartReport) (s : State) : Ans := .next (coldStart r s)

/-- A warm start: main power returns, standby power having stayed good. Nothing starts while something keeps main power off,
or with no Warden firmware running. -/
def warmStart (r : StartReport) (s : State) : State :=
  if !s.tray.standby ∨ s.tray.mainOn ∨ s.tray.hold ≠ 0 ∨ rsSafe ≤ rstate s ∨ Assoc.get (fun _ => 0) s.mgmt.runBank 1 = 0 then s
  else
    let keep := getReg s BOOT_STATUS &&& 2 ^ 16
    bringUp true r (setReg BOOT_STATUS (keep + 1) s)

def execWarmStart (r : StartReport) (s : State) : Ans := .next (warmStart r s)

/-! ### The host complex boots (R461, R584, R589, R597) -/

/-- A new host boot firmware comes into use: the bank record follows it. -/
def takeHostBank (s : State) : State :=
  match s.mgmt.activating with
  | some (.hostBoot, _) =>
    let b := idleBank s .hostBoot
    if bankValid s .hostBoot b then
      let s1 := setBank .hostBoot b { bankOf s .hostBoot b with used := true } { s with mgmt := { s.mgmt with
        activating := none, activeBank := Assoc.put (fun _ => 0) s.mgmt.activeBank 3 b } }
      setF FW_UPDATE FW_UPDATE_STATE 0 (setF FW_UPDATE FW_UPDATE_COMPONENT 0 s1)
    else setF FW_UPDATE FW_UPDATE_STATE 4 { s with mgmt := { s.mgmt with activating := none } }
  | _ => s

/-- Boot firmware runs, unless the module has none, the source is nowhere, or the DDR5 is not there (Table 21-4). -/
def hostBoot (s : State) : State :=
  let st := getF s HC_STATUS HC_STATUS_STATE
  if st = 2 ∨ st = 3 ∨ !s.tray.mainOn then s
  else if getF s BOOT_CFG BOOT_CFG_SOURCE = 3 then setF HC_STATUS HC_STATUS_STATE 0 s
  else if isFenced s domDdr 0 then s
  else
    let s1 := takeHostBank s
    match startBank s1 .hostBoot with
    | none => setF HC_STATUS HC_STATUS_STATE 0 (setFail 2 true s1)
    | some (b, fell) =>
      let s2 := setRun .hostBoot b (setFail 2 fell (bumpMeas { s1 with mgmt := { s1.mgmt with hostDigest := digestOf s1 .hostBoot b } }))
      let s3 := if getF s2 BOOT_STATUS BOOT_STATUS_STAGE = 7 then setStage 8 s2 else s2
      setF HC_STATUS HC_STATUS_STATE 2 (setF HC_STATUS HC_STATUS_DIR_UP 1 (setF HC_STATUS HC_STATUS_HARTS_UP 96
        (zeroDdr (liftFence domHost 0 s3))))

def execHostBoot (s : State) : Ans := .next (hostBoot s)

/-! ### Firmware update (R593, R594). PLDM answers: 0 success, 1 refused, 2 verification failed -/

def pldmAnswer (code : Nat) (s : State) : State := emit (.pldm 0 code []) s

/-- Bytes of a bank of a component (Table 21-1). -/
def bankBytes : Component → Nat
  | .warden => 8 * 2 ^ 20
  | .reeve | .hostBoot => 16 * 2 ^ 20
  | .stick => 4 * 2 ^ 20

/-- Is an update refused as busy: one runs already, or a cold start is in progress, the ROM halt apart (Table 21-7)? -/
def updateBusy (s : State) : Bool :=
  s.mgmt.update.isSome || s.mgmt.activating.isSome ||
  (getF s ORD_SVC ORD_SVC_STATE == 0 && s.tray.mainOn && getF s BOOT_STATUS BOOT_STATUS_STAGE != 15)

def requestUpdate (c : Component) (len : Nat) (s : State) : State :=
  if updateBusy s ∨ bankBytes c < len then pldmAnswer 1 s
  else
    let s1 := setBank c (idleBank s c) Bank.empty { s with mgmt := { s.mgmt with update := some ⟨c, len, 0, false⟩ } }
    pldmAnswer 0 (fwState 1 (Component.id c) 0 s1)

def execRequestUpdate (c : Component) (imageLen : BitVec 32) (s : State) : Ans := .next (requestUpdate c imageLen.toNat s)

/-- Write bytes over an image at an offset, which grows with zeros where it is short. -/
def patchBytes (x : List Byte) (o : Nat) (bs : List Byte) : List Byte :=
  (x ++ List.replicate (o - x.length) 0).take o ++ bs ++ x.drop (o + bs.length)

def firmwareData (off : Nat) (bs : List Byte) (s : State) : State :=
  match s.mgmt.update with
  | some u =>
    if u.verified ∨ 4096 < bs.length ∨ u.len < off + bs.length then pldmAnswer 1 s
    else
      let b := idleBank s u.comp
      let x := bankOf s u.comp b
      let s1 := setBank u.comp b { x with image := patchBytes x.image off bs } { s with mgmt := { s.mgmt with
        update := some { u with received := u.received + bs.length } } }
      pldmAnswer 0 (fwState 1 (Component.id u.comp) (u.received + bs.length) s1)
  | none => pldmAnswer 1 s

def execRequestFirmwareData (off : BitVec 32) (bytes : List (BitVec 8)) (s : State) : Ans := .next (firmwareData off.toNat bytes s)

def verifyComplete (s : State) : State :=
  match s.mgmt.update with
  | some u =>
    let b := idleBank s u.comp
    let x := bankOf s u.comp b
    if imageSigned u.comp x.image ∧ minSvn s u.comp ≤ imgAt x.image 12 1 then
      pldmAnswer 0 (fwState 2 (Component.id u.comp) u.received (setBank u.comp b { x with valid := true, used := false }
        { s with mgmt := { s.mgmt with update := some { u with verified := true } } }))
    else pldmAnswer 2 (fwState 4 (Component.id u.comp) u.received { s with mgmt := { s.mgmt with update := none } })
  | none => pldmAnswer 1 s

def execVerifyComplete (s : State) : Ans := .next (verifyComplete s)

/-- A cancel leaves the inactive bank invalid and the active bank untouched. -/
def cancelUpdate (s : State) : State :=
  match s.mgmt.update with
  | some u =>
    pldmAnswer 0 (fwState 0 0 0 (setBank u.comp (idleBank s u.comp) Bank.empty { s with mgmt := { s.mgmt with update := none } }))
  | none => pldmAnswer 1 s

def execCancelUpdate (s : State) : Ans := .next (cancelUpdate s)

/-- ActivateFirmware: of the update just verified, or of a valid other bank, which rolls a component back (R598). -/
def activate (c : Component) (s : State) : State :=
  let mine : Bool := match s.mgmt.update with | some u => u.verified && u.comp == c | none => true
  if !mine ∨ s.mgmt.activating.isSome ∨ !bankValid s c (idleBank s c) then pldmAnswer 1 s
  else pldmAnswer 0 (setF FW_UPDATE FW_UPDATE_STATE 3 (setF FW_UPDATE FW_UPDATE_COMPONENT (Component.id c)
    { s with mgmt := { s.mgmt with update := none, activating := some (c, 0) } }))

def execActivateFirmware (c : Component) (s : State) : Ans := .next (activate c s)

/-! ### Activations (R595 to R597) -/

/-- The standby takes over on the new bank, and the former active Warden becomes the standby (R595). -/
def wardenActivation (ok : Bool) (s : State) : State :=
  match s.mgmt.activating with
  | some (.warden, _) =>
    if ok ∧ getF s WARDEN_STATUS WARDEN_STATUS_STANDBY_OK = 1 then
      let s1 := swapWarden s
      activated .warden { s1 with mgmt := { s1.mgmt with wardenDigest := digestOf s1 .warden (idleBank s1 .warden) } }
    else activationFails s
  | _ => s

def execWardenActivation (ok : Bool) (s : State) : Ans := .next (resumeQuiesce (wardenActivation ok s))

/-- What a Reeve waits for before it restarts (R596). -/
def reeveBusy (s : State) (d : Nat) : Bool :=
  let loading := s.cmds.any fun e => e.core / 64 == d && decide (e.core < 256) && e.result.isNone &&
    match e.instr with | some (.stepLoad ..) => true | _ => false
  let mapping := (List.range 64).any fun i => (coreOf s (64 * d + i)).state == .mappingIn
  let resetting := s.faults.active.any fun a => a.1 == 3 && (partsOn s d).contains a.2.1
  let switching := s.progs.any fun e => match e.2 with
    | some p => (match p.commit with | some m => decide (m.target ≤ bellNow s + 2) | none => false)
    | none => false
  loading || mapping || resetting || switching

/-- The next die that an activation visits, from `n`: fenced dies are skipped. -/
def nextVisit (s : State) (n : Nat) : Option Nat := (List.range 4).find? fun d => decide (n ≤ d) && !isFenced s domDie d

def reeveActivation (d : Nat) (ok : Bool) (s : State) : State :=
  match s.mgmt.activating with
  | some (.reeve, n) =>
    if nextVisit s n ≠ some d ∨ reeveBusy s d then s
    else if !ok then activationFails s
    else
      let b := idleBank s .reeve
      let s1 := bumpMeas { s with
        mgmt := { s.mgmt with
          activating := some (.reeve, d + 1)
          reeveDigest := Assoc.put (fun _ => 0) s.mgmt.reeveDigest d (digestOf s .reeve b) }
        faults := { s.faults with watch := Assoc.put (fun _ => false) s.faults.watch d false } }
      if (nextVisit s1 (d + 1)).isSome then s1 else bumpChain (activated .reeve s1)
  | _ => s

def execReeveActivation (die : BitVec 2) (ok : Bool) (s : State) : Ans := .next (resumeQuiesce (reeveActivation die.toNat ok s))

/-- Stick firmware goes on one bay, while the cellar is NORMAL; the bay then resynchronises (R597). -/
def stickInstall (b : Nat) (ok : Bool) (s : State) : State :=
  match s.mgmt.activating with
  | some (.stick, n) =>
    let next (m : Nat) : Option Nat := (List.range 8).find? fun x => decide (m ≤ x) && bitAt s.tray.present x && !bitAt s.tray.failed x
    if next n ≠ some b ∨ getF s CELLAR_STATUS CELLAR_STATUS_STATE ≠ 0 then s
    else if !ok then activationFails (setBay b bayFailed s)
    else
      let s1 := setBay b bayRebuilding s
      if (next (b + 1)).isSome then { s1 with mgmt := { s1.mgmt with activating := some (.stick, b + 1) } }
      else activated .stick s1
  | _ => s

def execStickFwInstall (bay : BitVec 3) (ok : Bool) (s : State) : Ans := .next (stickInstall bay.toNat ok s)

/-! ### Attestation (R590 to R592) -/

/-- Sets loaded on any core, one per image, in ascending SET_ID. -/
def loadedSets (s : State) : List FSet :=
  let all := s.cores.flatMap fun e => (e.2.sets.filter fun l => l.held).map (·.set)
  let put (l : List FSet) (f : FSet) : List FSet :=
    if l.any fun g => g.setId == f.setId && g.digest == f.digest then l
    else (l.filter fun g => decide (g.setId ≤ f.setId)) ++ [f] ++ l.filter fun g => decide (f.setId < g.setId)
  all.foldl put []

/-- The partitions that hold a set. -/
def setHolders (s : State) (f : FSet) : Nat :=
  ((List.range 16).filter fun p => s.partSets.any fun x => x.1 == p && x.2.setId == f.setId && x.2.digest == f.digest).foldl
    (fun m p => m + 2 ^ p) 0

def manifest (s : State) : List Byte :=
  (loadedSets s).flatMap fun f => leBytes 4 f.setId ++ leBytes 1 f.signer ++ leBytes 1 0 ++ leBytes 2 (setHolders s f) ++ leBytes 48 f.digest.toNat

def reeveOf (s : State) (d : Nat) : Nat := if isFenced s domDie d then 0 else Assoc.get (fun _ => 0) s.mgmt.reeveDigest d

/-- Byte 16 of the ENCRYPTION record (Table 18-6): both kinds enabled at manufacture, or neither. -/
def encByte (s : State) : Nat := if s.mgmt.encFitted then 3 else 0

/-- Content of a measurement block (Table 21-5); none for an index it does not list. -/
def measBlock (s : State) (i : Nat) : Option (List Byte) :=
  let active := [Component.warden, .reeve, .hostBoot, .stick].foldl (fun m c => m + activeOf s c * 2 ^ (Component.id c - 1)) 0
  match i with
  | 0x01 => some (Config.romVersion ++ leBytes 48 Config.fwKeyHash.toNat)
  | 0x02 => some (leBytes 48 s.mgmt.wardenDigest)
  | 0x03 => some (leBytes 48 (((List.range 4).find? fun d => !isFenced s domDie d).map (reeveOf s) |>.getD 0))
  | 0x04 => some ((List.range 4).flatMap fun d => leBytes 48 (reeveOf s d))
  | 0x05 => some (leBytes 48 s.mgmt.hostDigest)
  | 0x06 => some (leBytes 8 (getReg s TRUST_SVN) ++ leBytes 1 (getF s TRUST_STATUS TRUST_STATUS_DEBUG_LOCKED) ++ leBytes 1 (encByte s) ++ leBytes 1 active)
  | 0x10 => some (manifest s)
  | 0x20 => some (leBytes 48 (siteId s false))
  | 0x21 => some (leBytes 48 (siteId s true))
  | _ => none

def measIndexes : List Nat := [0x01, 0x02, 0x03, 0x04, 0x05, 0x06, 0x10, 0x20, 0x21]

/-- One block: index, length, content. -/
def measEntry (s : State) (i : Nat) : List Byte :=
  match measBlock s i with | some b => leBytes 1 i ++ leBytes 2 b.length ++ b | none => []

/-- GET_MEASUREMENTS: index 0 asks for the number of blocks, 0xFF for all. The answer carries the MEAS_GEN that it is drawn
from, then the blocks, then the signature (R592). -/
def execGetMeasurements (index : BitVec 8) (s : State) : Ans :=
  let i := index.toNat
  let gen := leBytes 4 (getF s TRUST_STATUS TRUST_STATUS_MEAS_GEN)
  let sig := Config.spdmAnswer s.tick
  if i = 0 then .next (emit (.spdm 0 (gen ++ leBytes 1 measIndexes.length ++ sig)) (advance s))
  else if i = 0xFF then .next (emit (.spdm 0 (gen ++ measIndexes.flatMap (measEntry s) ++ sig)) (advance s))
  else match measBlock s i with
    | some _ => .next (emit (.spdm 0 (gen ++ measEntry s i ++ sig)) (advance s))
    | none => .next (emit (.spdm 1 []) s)

/-- The chain of a certificate slot; empty where none is provisioned. -/
def certOf (s : State) (k : Nat) : List Byte := if k = 0 then Config.deviceChain else Assoc.get (fun _ => []) s.mgmt.certs k

def setSessions (l : List Session) (s : State) : State :=
  setF TRUST_STATUS TRUST_STATUS_SESSIONS l.length { s with mgmt := { s.mgmt with sessions := l } }

/-- The other SPDM requests (R590). Code 1 is an error answer: an empty slot, four sessions open, no such session. -/
def spdmAnswer (k : SpdmKind) (s : State) : State :=
  match k with
  | .getCertificate slot =>
    if slot.toNat ≠ 0 ∧ (certOf s slot.toNat).isEmpty then emit (.spdm 1 []) s else emit (.spdm 0 (certOf s slot.toNat)) s
  | .challenge slot _ =>
    if slot.toNat ≠ 0 ∧ (certOf s slot.toNat).isEmpty then emit (.spdm 1 []) s
    else emit (.spdm 0 (Config.spdmAnswer s.tick)) (advance s)
  | .keyExchange anchored =>
    if 4 ≤ s.mgmt.sessions.length then emit (.spdm 1 []) s
    else
      let n := s.mgmt.nextSession
      let s1 := setSessions (s.mgmt.sessions ++ [⟨n, anchored⟩]) { s with mgmt := { s.mgmt with nextSession := (n + 1) % 2 ^ 32 } }
      emit (.spdm 0 (leBytes 4 n ++ Config.spdmAnswer s.tick)) (advance s1)
  | .endSession id =>
    if s.mgmt.sessions.any fun x => x.id == id.toNat then
      emit (.spdm 0 []) (setSessions (s.mgmt.sessions.filter fun x => x.id != id.toNat) s)
    else emit (.spdm 1 []) s

def execSpdmRequest (k : SpdmKind) (s : State) : Ans := .next (spdmAnswer k s)

end Sys2Proof.Machine
end

