-- ==== Sys2Proof/Machine/Engines.lean ====
section
/-! DEFINITION. The dispatcher's and the engines' own events (R77, R78, R91 to R97, R172 to R176, R220, R221, R225): issue,
step boundaries, drains, spills and restores, patrols, staging fetches and tier timeouts. -/

namespace Sys2Proof.Machine

open Sys2Proof

/-! ### Issue (R172 to R175) -/

/-- The step whose chain an engine holds, if a next step of that chain is to be issued. -/
def chainStep? (s : State) (c : Chain) : Option At :=
  if c.cmd.isSome then none
  else match atOf s c.handle c.run c.step with
    | some a => if c.k < c.kt then some a else none
    | none => none

/-- Issue a chosen step on an engine, after `prep`, if its allotment allows (R175) and no tile that it reads waits for its seal
(R73): it parks, waits, or runs. -/
def tryIssue (a : At) (e : Nat) (prep : State → State) (s : State) : State :=
  let n := a.p.core
  let b := (ctxOf s a.r.ctx).engine
  if a.p.op ≠ opCopy ∧ a.p.op ≠ opZero ∧ localBal b n ≤ 0 ∧ b.pool = 0 then parkCtx a.r.ctx n 1 s
  else if a.p.onEngine ∧ (!allotCovers s n a.r.ctx (a.cycles s e) || a.unsealed s e) then s
  else issueUnit a e (prep (stopFall n s))

/-- The spilled chain of a step, on its core. -/
def spilledOf (s : State) (a : At) : Option Spilled :=
  (coreOf s a.p.core).spilled.find? fun x => chainOf a.h a.r.id x.chain && x.chain.step == a.i

/-- Does an engine of the core hold a chain of the step? -/
def onEngineNow (s : State) (a : At) : Bool :=
  (coreOf s a.p.core).engines.any fun e => (e.chain.map fun c => chainOf a.h a.r.id c && c.step == a.i).getD false ||
    (e.flight.map fun f => f.handle == a.h && f.run == a.r.id && f.step == a.i).getD false

/-- A ready step that starts or resumes a chain, or is no chain at all, in the order of R172. -/
def freshStep (s : State) (n : Nat) (ok : At → Bool) : Option At :=
  bestOf s ((readyList s n).filter fun a => !onEngineNow s a && ok a &&
    (match spilledOf s a with | some x => decide (x.chain.k < x.chain.kt) | none => true))

/-- Start a fresh step on an engine, whose own halves are spilled first. -/
def startFresh (a : At) (n e : Nat) (s : State) : State :=
  let prep (s : State) : State :=
    if !a.p.onEngine then s
    else
      let s1 := spillOwn n e s
      match spilledOf s1 a with
      | some x => restoreChain n e x s1
      | none => s1
  tryIssue a e prep s

/-- What the dispatcher of a core sees when it chooses: the contexts that the Reeve has placed there while an entry was free
(R171), the tiles the copy unit has moved, and which steps have become ready. -/
def atChoice (n : Nat) (s : State) : State :=
  noteReady n (moveOutAll ((stepsOn s n).foldl (fun s a => takeIn a.r.ctx n s) s))

/-- Is the engine the one that a new chain goes to (R172)? -/
def newChainHere (s : State) (n e : Nat) : Bool := (chainEngines s n).head? == some e

def execStepIssue (core : BitVec 8) (engine : BitVec 2) (s0 : State) : Ans :=
  let n := core.toNat
  let e := engine.toNat
  let s := atChoice n s0
  if !coreOn s n then .next s
  else
    let own := if engineFree s n e ∧ (getEng s n e).live then
        ((getEng s n e).chain.bind (chainStep? s)).filter fun a => a.ready s else none
    match own with
    | some a => .next (tryIssue a e id s)
    | none =>
      match freshStep s n fun a => !a.p.onEngine || newChainHere s n e with
      | some a => .next (startFresh a n e s)
      | none => .next s

/-- Two stalled chains of different contexts: the switch of R173. -/
def execStallSwitch (core : BitVec 8) (engine : BitVec 2) (s0 : State) : Ans :=
  let n := core.toNat
  let e := engine.toNat
  let s := atChoice n s0
  let g := getEng s n e
  if getF s (DISP_CTL_LIVE n) DISP_CTL_SWITCH = 0 ∨ !coreOn s n ∨ !engineFree s n e ∨ !g.live ∨ !takesChain s n e then .next s
  else match g.chain.bind (chainStep? s) with
    | none => .next s
    | some a =>
      if a.ready s then .next s
      else match freshStep s n fun b => b.p.onEngine && b.r.ctx != a.r.ctx with
        | some b =>
          let s1 := startFresh b n e s
          -- a switch is counted when the step has been issued on the engine
          .next (if (getEng s1 n e).flight.isSome then incF (DISP_SWITCHES n) DISP_SWITCHES_DISP_SWITCHES 1 s1 else s1)
        | none => .next s

/-! ### The end of a step (R174) -/

/-- What waits for an engine's step boundary: SPILL_NOW, and a turn-off of its core. -/
def atBoundary (n e : Nat) (s : State) : State :=
  let g := getEng s n e
  let s1 := if g.spillDue ∧ g.flight.isNone then
      let s1 := spillOwn n e s
      setEng n e { getEng s1 n e with spillDue := false } s1 else s
  offProgress n (owedSpill n e s1)

/-- The state of an engine after its step: IDLE, unless its core has been fenced or is being retired (Table 03-11). -/
def endState (s : State) (n : Nat) (g : Engine) : EngState :=
  if isFenced s domCore n ∨ isFenced s domDie (n / 64) ∨ (coreOf s n).state = .fenced then .fenced
  else if (coreOf s n).state = .mappingIn then .retired
  else if g.state = .busy then .idle else g.state

def execStepBoundary (core : BitVec 8) (engine : BitVec 2) (s0 : State) : Ans :=
  let n := core.toNat
  let e := engine.toNat
  let s := advance s0
  let g := getEng s n e
  match g.flight with
  | none => .next s0
  | some f =>
    let st := endState s n g
    let s1 := setEng n e { g with flight := none, state := st, since := s.tick } s
    let failed := (((progOf s1 f.handle).bind fun p => runOf p f.run).map fun r => r.failed.isSome).getD true
    -- a step that ends on a fenced core is answered with ST_FENCED
    let s2 := if failed then reap f.handle s1
      else if st = .fenced then failRun f.handle f.run (fFenced domCore n) s1
      else afterUnit f.handle f.run f.step s1
    .next (atBoundary n e (settleAborts s2))

/-! ### Drains (R78, R215) -/

/-- Write the output tiles of a finished chain for which the streams have room. -/
def drainTiles (n e h r i : Nat) (x : ChainAcc) (anchor : Int) : Nat → State → State
  | 0, s => s
  | k + 1, s =>
    match atOf s h r i, (getEng s n e).chain with
    | some a, some c =>
      if outTilesOf a.out c.m ≤ c.drained ∨ !a.room s then s
      else
        let w := (a.mm anchor).drainOne e a.epoch (c.block / a.p.dim2) (c.block % a.p.dim2) x c.drained (Work.start a.r.cmd n s)
        match w.parked, w.fail with
        | some k, _ => if k = 0 then s else parkCtx a.r.ctx n k s
        | none, some f => failRun h r f w.s
        | none, none =>
          let s1 := setEng n e { getEng w.s n e with chain := some { c with drained := c.drained + 1 } } w.s
          match a.produce s1 with
          | (s2, some f) => failRun h r f s2
          | (s2, none) => drainTiles n e h r i x anchor k (moveOut h (flushPeer h r s2))
    | _, _ => s

/-- A whole chain has drained: its halves are free, and the step ends with its last chain. -/
def endDrain (n e h r i : Nat) (s : State) : State :=
  match atOf s h r i, (getEng s n e).chain with
  | some a, some c =>
    if c.drained < outTilesOf a.out c.m then s
    else
      let g := getEng s n e
      let trunc := g.h0.trunc || g.h1.trunc
      let s1 := modRun h r (fun y => { y with trunc := y.trunc || trunc })
        (addBusy n e (tailCycles (a.mm 0).fp32 a.out c.m) 0 (setEng n e { g with chain := none, h0 := .reset, h1 := .reset } s))
      if a.done = a.p.units then checkRuns h (endStep a s1) else s1
  | _, _ => s

/-- The drain of a placed step's chain. A command's chain drains as the command runs. -/
def execDrain (core : BitVec 8) (engine : BitVec 2) (s : State) : Ans :=
  let n := core.toNat
  let e := engine.toNat
  let g := getEng s n e
  match g.chain with
  | none => .next s
  | some c =>
    if c.cmd.isSome ∨ !g.live ∨ g.flight.isSome ∨ c.k < c.kt ∨ (g.state ≠ .idle ∧ g.state ≠ .busy) then .next s
    else match atOf s c.handle c.run c.step with
      | none => .next s
      | some _ =>
        let x := ChainAcc.ofHalves c.m c.n g.h0 g.h1
        let anchor := ofTwos 16 g.h0.anchor.toNat
        .next (endDrain n e c.handle c.run c.step (drainTiles n e c.handle c.run c.step x anchor 16 s))

/-! ### Spills, restores and the control bits (R77, R97) -/

def execSpill (core : BitVec 8) (engine : BitVec 2) (s : State) : Ans :=
  if (getEng s core.toNat engine.toNat).flight.isSome then .next s
  else .next (spillOwn core.toNat engine.toNat s)

/-- A spilled chain of a placed step whose next step is ready, or which only waits to be drained, returns to a free engine. A
command's chain returns as the command goes on. -/
def execRestore (core : BitVec 8) (engine : BitVec 2) (s : State) : Ans :=
  let n := core.toNat
  let e := engine.toNat
  if !coreOn s n ∨ !engineFree s n e ∨ (getEng s n e).live ∨ (getEng s n e).chain.isSome then .next s
  else
    let due (x : Spilled) : Bool := x.chain.cmd.isNone && match atOf s x.chain.handle x.chain.run x.chain.step with
      | some a => a.r.failed.isNone && (decide (x.chain.kt ≤ x.chain.k) || a.ready s)
      | none => false
    match (coreOf s n).spilled.find? due with
    | some x => .next (restoreChain n e x s)
    | none => .next s

def execEngHalt (w : Agent) (core : BitVec 8) (engine : BitVec 2) (on : Bool) (s : State) : Ans :=
  if isReeveWarden w then .next (setF (ENG_CTL core.toNat engine.toNat) ENG_CTL_HALT (bnat on) s) else .next s

def spillNow (n e : Nat) (s : State) : State :=
  let g := getEng s n e
  if g.flight.isSome then setEng n e { g with spillDue := true } s else spillOwn n e s

def execSpillNow (w : Agent) (core : BitVec 8) (engine : BitVec 2) (s : State) : Ans :=
  if isReeveWarden w then .next (spillNow core.toNat engine.toNat s) else .next s

/-! ### The patrol (R92 to R96, R576) -/

/-- May a patrol start now (R93)? -/
def patrolFree (s : State) (n e : Nat) : Bool :=
  let st := (coreOf s n).state
  (getEng s n e).state == .idle && (getEng s n e).flight.isNone && !(getEng s n e).live &&
  (st == .idle || st == .running || st == .parked)

def beginPatrol (n e : Nat) (s : State) : State :=
  setEng n e { getEng s n e with state := .patrol, patrolDue := false } s

def askPatrol (n e : Nat) (s : State) : State :=
  if patrolFree s n e then beginPatrol n e s else setEng n e { getEng s n e with patrolDue := true } s

def execPatrolNow (w : Agent) (core : BitVec 8) (engine : BitVec 2) (s : State) : Ans :=
  if isReeveWarden w then .next (askPatrol core.toNat engine.toNat s) else .next s

/-- The interval expires: the patrol starts, or a deferral is counted (R94). Only cores that are on are due (R576). -/
def execPatrolDue (core : BitVec 8) (engine : BitVec 2) (s : State) : Ans :=
  let n := core.toNat
  let e := engine.toNat
  let st := (coreOf s n).state
  if st ≠ .idle ∧ st ≠ .running ∧ st ≠ .parked then .next s
  else if patrolFree s n e then .next (beginPatrol n e s)
  else if (getEng s n e).state = .patrol then .next s
  else .next (satF (ENG_PATROL n e) ENG_PATROL_DEFERRED 1 (setEng n e { getEng s n e with patrolDue := true } s))

def execPatrolStart (core : BitVec 8) (engine : BitVec 2) (s : State) : Ans :=
  let n := core.toNat
  let e := engine.toNat
  if patrolFree s n e ∧ (getEng s n e).patrolDue then .next (beginPatrol n e s) else .next s

/-- The cores a self-test names. -/
def testedCores (s : State) (c : CmdRef) : List Nat :=
  match (cmdOf s c).instr with
  | some (.selftestPatrol _ m) => (List.range 256).filter fun n => bitAt m.toNat n
  | _ => []

/-- A self-test completes when every named core has finished (R301). -/
def selftestDone (c : CmdRef) (s : State) : State :=
  let waits (e : Engine) : Bool := match e.patrolFor with | some d => sameCmd c d | none => false
  if s.cores.any fun e => e.2.engines.any waits then s
  else
    let cs := testedCores s c
    let bad := cs.filter fun n => (coreOf s n).testFailed
    finish c .ok bad.length (bad.foldl (fun s n => setCore n { coreOf s n with testFailed := false } s) s)

/-- A step that was ready had to wait for the patrol where no other engine was free (R93): for how many of its 3,500 cycles is a
matter of time. -/
def notePatrolWait (n e : Nat) (s : State) : State :=
  if (readyList s n).any (fun a => a.p.onEngine && !onEngineNow s a) && (freeEngines s n).isEmpty then
    let s1 := advance s
    incF (ENG_PATROL_WAIT n e) ⟨63, 0⟩ (min 3500 (Config.patrolWait s1.tick).toNat) s1
  else s

def execPatrolComplete (core : BitVec 8) (engine : BitVec 2) (failed : BitVec 4) (s : State) : Ans :=
  let n := core.toNat
  let e := engine.toNat
  let g := getEng s n e
  if g.state ≠ .patrol then .next s
  else
    let s1 := setEng n e { g with state := .idle, patrolFor := none } (notePatrolWait n e s)
    let s2 :=
      if failed = 0 then
        setF (ENG_PATROL n e) ENG_PATROL_DEFERRED 0 (setF (ENG_PATROL n e) ENG_PATROL_LAST_FAIL 0
          (incF (ENG_PATROL n e) ENG_PATROL_PASSES 1 s1))
      else
        let s2 := setF (ENG_PATROL n e) ENG_PATROL_LAST_SECTION failed.toNat (setF (ENG_PATROL n e) ENG_PATROL_LAST_FAIL 1
          (engFlag n e ENG_FLAGS_PATROL_FAIL true s1))
        let s3 := if g.patrolFor.isSome then setCore n { coreOf s2 n with testFailed := true } s2 else s2
        retireCore n (if g.patrolFor.isSome then 2 else 1) e failed.toNat s3
    let s3 := match g.patrolFor with | some c => selftestDone c s2 | none => s2
    .next (offProgress n (wokenCheck n s3))

/-! ### Allotment draws (R315) -/

/-- A draw of a core from a context's pool; where the pool is empty and the local balance used up, the context parks. -/
def execAllotDraw (core : BitVec 8) (ctx : BitVec 32) (cls : BitVec 2) (s : State) : Ans :=
  let n := core.toNat
  let x := ctx.toNat
  let k := cls.toNat + 1
  if (ctxOf s x).state = .free then .next s
  else
    let b := budgetOf (ctxOf s x) k
    if b.pool = 0 ∧ localBal b n ≤ 0 then .next (parkCtx x n k s)
    else .next (setCtx x (putBudget (ctxOf s x) k (drawBlock k n 0 b)) s)

/-! ### Staging (R221) -/

/-- The steps of a program on a core that are still to run, in the order of its runs and of the program: the copy unit fetches
the inputs of the first STREAM_CTL.DEPTH. -/
def stepsAhead (s : State) (h n : Nat) : List (Nat × Nat) :=
  match progOf s h with
  | none => []
  | some p => (p.runs.filter (·.failed.isNone)).flatMap fun r =>
      (List.range p.steps.length).filterMap fun i =>
        if (p.step? i).any (fun t => t.core == n) && !r.done.contains i then some (r.id, i) else none

/-- STREAM_CTL.DEPTH in use: 0 acts as 1, and a value above 16 as 16 (R231). -/
def fetchDepth (s : State) (n : Nat) : Nat := min 16 (max 1 (getF s (STREAM_CTL_LIVE n) STREAM_CTL_DEPTH))

/-- The copy unit's staging stream of a program on a core. -/
def Program.stagingOf (p : Program) (n : Nat) : Option Stream := p.staging.find? fun t => t.consumer == n

/-- Staging slots of a stream that hold no input. -/
def Program.freeStaging (p : Program) (t : Stream) : List Nat :=
  t.ring.filter fun x => !p.runs.any fun r => r.staged.any fun y => y.slot == x && (p.step? y.step).any fun q => q.core == t.consumer

/-- Under which stalled cycles a late fetch from a segment counts (Table 07-5). -/
def stallReg (n : Nat) (g : Seg) : Nat :=
  if g.cls = clsDdr then STALL_HOST n else if g.cls = clsCellar then STALL_CELLAR n else if g.cls = clsGuest then STALL_GUEST n
  else if g.cls = clsRemote then STALL_FABRIC n else STALL_STACK n

/-- Fetch tile `x` of operand `k` into a staging slot, paid for and checked as it is moved (R56, R57, R272), and add 1 to the
produced counter of the staging stream. False where the fetch has to wait. -/
def At.fetchTile (a : At) (t : Stream) (k x slot : Nat) (s : State) : State × Bool :=
  match a.outer s k with
  | none => (s, false)
  | some (g, r) =>
    let n := a.p.core
    let w := (Work.start a.r.cmd n s).moveTile (a.source k x g r s) (slotTile (tensorSlot (a.p.tensorOf k)) n slot)
    match w.parked, w.fail with
    | some c, _ => (if c = 0 then s else parkCtx a.r.ctx n c s, false)
    | none, some f => (failRun a.h a.r.id f w.s, false)
    | none, none =>
      let note (y : Run) : Run := { y with
        staged := y.staged ++ [⟨a.i, k, x, slot⟩]
        paid := if y.paid.contains (a.i, k, x) then y.paid else y.paid ++ [(a.i, k, x)] }
      let s1 := modRun a.h a.r.id note (noteStall (stallReg n g) w.s)
      match applyAdd t.pDie t.pIndex 1 (cntC s1 t) 1 (scopeInst (moduleId s1) n 0) s1 with
      | (s2, some f) => (failRun a.h a.r.id f s2, false)
      | (s2, none) => (s2, true)

/-- Fetch a list of tiles into a list of slots, until one has to wait. -/
def At.fetchAll (a : At) (t : Stream) : List (Nat × Nat) → List Nat → State → State
  | (k, x) :: l, y :: m, s =>
    match a.fetchTile t k x y s with
    | (s1, true) => a.fetchAll t l m s1
    | (s1, false) => s1
  | _, _, s => s

/-- Inputs of later steps give their slots up to a step that is short of them (log 124). -/
def yieldSlots (h need : Nat) (t : Stream) (later : List (Nat × Nat)) (s : State) : State :=
  later.foldr (fun x s => match progOf s h with
    | none => s
    | some p => if need ≤ (p.freeStaging t).length then s else dropStaged h x.1 (fun y => y.step == x.2) s) s

/-- The copy unit has fetched the inputs of a step's next units: those of one of the next DEPTH steps of its program, and no
fetch passes a wait of its step on a ring counter. -/
def execStagingFetchDone (core : BitVec 8) (handle : BitVec 16) (run : BitVec 32) (step : BitVec 20) (s : State) : Ans :=
  let h := handle.toNat
  let n := core.toNat
  let ahead := stepsAhead s h n
  match atOf s h run.toNat step.toNat with
  | none => .next s
  | some a =>
    match a.pr.stagingOf n with
    | none => .next s
    | some t =>
      if a.p.core ≠ n ∨ !a.open_ ∨ !coreOn s n ∨ !a.turn ∨ !a.arrived s [a.done] ∨
          !(ahead.take (fetchDepth s n)).contains (a.r.id, a.i) then .next s
      else
        let want := (a.wanted s).filter fun x => (a.stagedSlot x.1 x.2).isNone
        let s1 := yieldSlots h want.length t ((ahead.dropWhile fun x => x != (a.r.id, a.i)).drop 1) s
        match progOf s1 h with
        | none => .next s1
        | some p => .next (a.fetchAll t want (p.freeStaging t) s1)

/-! ### Tier timeouts (R225 to R227) -/

/-- ST_TIER_FAIL: cause, unit and core (Table 07-7), its record and its count (R226). -/
def tierFail (n cause unit ctx h : Nat) (s : State) : State :=
  let d := cause * 4096 + unit * 256 + n
  let s1 := incF (TIER_FAILS n) TIER_FAILS_TIER_FAILS 1 s
  if cause = 5 then s1
  else ledger 0x0301 4 (fenceCode domCore n) 0 (ledgerData [(0, 2, d), (4, 4, ctx), (8, 2, h)]) s1

/-- Cause codes of Table 07-7. -/
def causeOf (g : Seg) : Nat :=
  if g.cls = clsDdr then 2 else if g.cls = clsCellar then 3 else if g.cls = clsRemote then 4 else if g.cls = clsGuest then 6 else 1

/-- Is `u` the port by which a peer module is reached? -/
def peerUnit (s : State) (m u : Nat) : Bool :=
  let r := routeOf s m
  r.port == u || (r.altValid && r.altPort == u)

/-- Is `u` a unit that a tile at a place is late from: its stack, any channel or bay of those it is spread over (R375), its port,
its guest site? -/
def placeUnit (s : State) (p : Place) (u : Nat) : Bool :=
  match p with
  | .mem a _ =>
    (match tgtOf s a with
    | .stack k => k == u
    | _ => decide (u < 8))
  | .vol _ _ => decide (u < 8)
  | .far w _ => if w < 65536 then peerUnit s w u else w == guestWhere (u == 1) && decide (u < 2)

/-- Is an input of a step missing for a cause, from a unit? -/
def At.misses (a : At) (s : State) (cause unit : Nat) : Bool :=
  a.missing s (fun g t => cause == causeOf g && (placeUnit s t.payload unit || placeUnit s t.header unit))
    fun far peer die => if far then cause == 4 && peerUnit s peer unit else cause == 5 && die == unit

/-- Does a command wait for an input of a cause, from a unit: a tally (R388), the answer of a module or a guest to a read, or,
where it has begun and parked, data of a tier that its segments lie in? -/
def cmdMisses (s : State) (c : CmdRef) (cause unit : Nat) : Bool :=
  match cause with
  | 5 => s.waiters.any fun w => sameCmd w.owner c && w.die == unit
  | _ => decide (unit < 12) && (cmdOf s c).descs.any fun d =>
      let g := Seg.ofNat 0 d.desc
      causeOf g == cause && g.cls != clsLarder && (if cause = 4 then peerUnit s g.module unit
        else if cause = 6 then decide (0x078000000000 ≤ g.base) == (unit == 1) && decide (unit < 2)
        else cause == 1 || decide (unit < 8))

/-- An input's timer passes. A command that waits on a tally is timed in the same way (R388). TIER_TMO2.TALLY 0 removes the
tally timeout. -/
def execTierTimeout (core : BitVec 8) (cause unit : BitVec 4) (who : Stalled) (s : State) : Ans :=
  let n := core.toNat
  let k := cause.toNat
  let u := unit.toNat
  let f : Fail := (Status.tierFail.code, k * 4096 + u * 256 + n)
  let off := k = 5 ∧ getF s (TIER_TMO2_LIVE n) TIER_TMO2_TALLY = 0
  if k = 0 ∨ 6 < k ∨ off then .next s
  else match who with
    | .step h r i =>
      (match atOf s h.toNat r.toNat i.toNat with
      | some a =>
        if a.p.core ≠ n ∨ !a.misses s k u then .next s
        else
          let reg := [STALL_STACK n, STALL_HOST n, STALL_CELLAR n, STALL_FABRIC n, STALL_TALLY n, STALL_GUEST n].getD (k - 1) (STALL_STACK n)
          .next (failRun h.toNat a.r.id f (tierFail n k u a.r.ctx h.toNat (noteStall reg s)))
      | none => .next s)
    | .cmd c =>
      if (cmdOf s c).result.isSome ∨ !inHand s c ∨ !cmdMisses s c k u then .next s
      else .next (finishFail c f (unwait c (tierFail n k u c.ctx.toNat 0 s)))

end Sys2Proof.Machine
end

