-- ==== Sys2Proof/Machine/Face.lean ====
section
/-! DEFINITION. What a person does at the module: removal, the lever, bay buttons, cables (R601 to R613). -/

namespace Sys2Proof.Machine

open Sys2Proof

/-! ### Attention (R602, R603, R608) -/

/-- An attention request acts on the removal state. -/
def attend (s : State) : State :=
  if rstate s = rsInService then
    (if s.tray.mainOn then setRstate rsArmed s
     else setRstate rsSafe { s with tray := { s.tray with hold := max 1 s.tray.hold } })
  else if rstate s = rsArmed ∨ rstate s = rsDraining then setCause 1 (setRstate rsInService s)
  else if rstate s = rsSafe then
    setRstate rsInService { s with tray := { s.tray with hold := if s.tray.hold = 2 then 2 else 0 } }
  else s

/-- An attention request. A press of the button within 500 ms of another request, or another within 500 ms of a press, is the
same request. -/
def attention (button : Bool) (s : State) : State :=
  let s1 := advance s
  let now := clockNow s1
  let same : Bool := match s.tray.lastAttn with
    | some (t, b) => (b || button) && decide (now < t + 500000000)
    | none => false
  if same then s1 else attend { s1 with tray := { s1.tray with lastAttn := some (now, button) } }

/-- The controls are served by the Warden: with no Warden firmware running they do nothing. -/
def onWarden (f : State → State) (s : State) : Ans := if wardenUp s then .next (f s) else .next s

/-- Each way of asking: a short press is none, and the service port needs PORT_ATTN (R603). -/
def attentionFrom (src : AttnSource) (s : State) : State :=
  match src with
  | .button ms => if ms.toNat < 50 then s else attention true s
  | .register => attention false s
  | .servicePort => if getF s SVC_CTL SVC_CTL_PORT_ATTN = 1 then attention false s else s
  | .mailbox => attention false s

def execAttentionRequest (src : AttnSource) (s : State) : Ans := onWarden (attentionFrom src) s

/-- 5 s in ARMED have passed. -/
def execArmedExpiry (s : State) : Ans :=
  if rstate s ≠ rsArmed then .next s
  else
    let s1 := setRstate rsDraining (advance s)
    let left := max 1 (getF s1 SVC_CTL SVC_CTL_DRAIN_S) * 1000000000
    .next { s1 with tray := { s1.tray with drainEnd := some (clockNow s1 + left) } }

/-- The bar begins to show a refusal. -/
def refuseBar (cause : Nat) (s : State) : State :=
  let s1 := advance s
  setCause cause { s1 with tray := { s1.tray with refusedAt := some (clockNow s1) } }

/-- DRAIN_S has passed without RELEASE (R604). -/
def execDrainDeadline (s : State) : Ans :=
  if rstate s ≠ rsDraining then .next s
  else if getF s SVC_CTL SVC_CTL_FORCE = 1 then .next (beginQuiesce s)
  else .next (refuseBar 2 (setRstate rsInService s))

/-- SVC_CTL.RELEASE. -/
def release (s : State) : State := if rstate s = rsDraining then beginQuiesce s else s

def execRelease (s : State) : Ans := .next (release s)

/-- SVC_CTL.CANCEL. -/
def cancelRemoval (s : State) : State :=
  if rstate s = rsArmed ∨ rstate s = rsDraining then setCause 1 (setRstate rsInService s) else s

def execCancel (s : State) : Ans := .next (cancelRemoval s)

/-! ### QUIESCING to SAFE (R605) -/

/-- Commands that still run 1 s after the queues were disabled. -/
def execQuiesceAbortTimeout (s : State) : Ans :=
  if rstate s = rsQuiescing ∧ !activationRuns s then .next (settle (abortWhere (fun _ => true) (fAbort 5) s)) else .next s

/-- Have stages 1 and 2 ended, with no rung or activation in progress? -/
def quiesced (s : State) : Bool :=
  rstate s == rsQuiescing && !activationRuns s && s.faults.active.isEmpty && s.cmds.all (fun e => e.result.isSome) &&
  !s.progs.any fun e => match e.2 with
    | some p => (match p.commit with | some m => m.parish && !m.voteHeld | none => false)
    | none => false

/-- Stage 4: fabric ports DISABLED, external links disabled. -/
def dropLinks (s : State) : State :=
  let s1 := (List.range 8).foldl (fun s p =>
    let was := portState s p
    let s1 := setPortState p ptDisabled s
    if was = ptUp then leaveUp p s1 else s1) s
  setExtState false 0 (setExtState true 0 (enableFunction false false (enableFunction true false s1)))

/-- Stage 5: the mirror is brought up to date. -/
def mirrorAll (s : State) : State :=
  if cellarUp s then s.faults.unmirrored.foldl (fun s _ => mirrorOne s) s else s

/-- Stages 3 to 6. The last records are posted, the host complex is held in reset, the journal is sealed with nothing to
replay, the stages go off. -/
def execSafeEntry (s : State) : Ans :=
  if !quiesced s then .next s
  else
    let s1 := setF HC_STATUS HC_STATUS_STATE 0 (postAll s)
    let s2 := powerDown false (mirrorAll (dropLinks s1))
    .next (setRstate rsSafe { s2 with tray := { s2.tray with hold := 1 } })

/-! ### The lever (R606, R607) -/

/-- A touch is registered after 200 ms. -/
def leverTouched (ms : Nat) (s : State) : State :=
  if ms < 200 then s
  else if rstate s = rsSafe then setRstate rsReleased (setF SVC_STATUS SVC_STATUS_LATCH_OPEN 1 s)
  else refuseBar 3 s

def execLeverTouch (ms : BitVec 16) (s : State) : Ans := onWarden (leverTouched ms.toNat) s

def execLeverPushHome (s : State) : Ans :=
  if rstate s = rsReleased then .next (setRstate rsSafe (setF SVC_STATUS SVC_STATUS_LATCH_OPEN 0 s)) else .next s

/-! ### Bays and cables (R611 to R613) -/

/-- A bay leaves sync with its stick in place. -/
def leaveSync (b : Nat) (s : State) : State :=
  showCellar { s with tray := { s.tray with inSync := setBit s.tray.inSync b false, rebuilding := setBit s.tray.rebuilding b false } }

/-- A press: granted when the cellar stays at least DEGRADED without the stick; a second press while SAFE is 1 cancels, and the
bay resynchronises. -/
def bayButton (b : Nat) (s : State) : State :=
  let x := SVC_BAY b
  if !bitAt s.tray.present b then s
  else if getF s x SVC_BAY_SAFE = 1 then setBay b bayRebuilding (setF x SVC_BAY_SAFE 0 s)
  else if s.tray.mainOn ∧ (getF s CELLAR_STATUS CELLAR_STATUS_STATE = 0 ∨ !bitAt s.tray.inSync b) then
    setF x SVC_BAY_SAFE 1 (leaveSync b s)
  else
    let s1 := advance s
    { s1 with tray := { s1.tray with bayRefused := (s1.tray.bayRefused.filter fun e => e.1 != b) ++ [(b, clockNow s1)] } }

def execBayButton (bay : BitVec 3) (s : State) : Ans := onWarden (bayButton bay.toNat) s

/-- A cable inserted starts training on an enabled port; one pulled takes the port out of UP. -/
def cableEvent (p : Nat) (inserted : Bool) (s : State) : State :=
  let st := portState s p
  let s1 := setFport p { fport s p with cable := inserted, peer := if inserted then (fport s p).peer else none } s
  if !s.tray.mainOn then s1
  else if inserted then
    (if (st = ptDown ∨ st = ptFault) ∧ getF s (FAB_PORT_CTL p) FAB_PORT_CTL_ENABLE = 1 ∧ moduleId s ≠ 0 ∧ moduleId s ≠ 0xFFFF then
      setF (FAB_PORT_STATUS p) FAB_PORT_STATUS_FAULT 0 (setPortState p ptTraining (setFport p { fport s1 p with peer := none, lanes := 0xFF } s1))
     else s1)
  else if st = ptDisabled then s1
  else
    let x := FAB_PORT_STATUS p
    let s2 := setF x FAB_PORT_STATUS_FAULT 0 (setF x FAB_PORT_STATUS_WIDTH 0 (setF x FAB_PORT_STATUS_RATE 0
      (setF x FAB_PORT_STATUS_LANES 0 (setPortState p ptDown s1))))
    if st = ptUp then leaveUp p s2 else s2

def execCableEvent (port : BitVec 3) (inserted : Bool) (s : State) : Ans := .next (cableEvent port.toNat inserted s)

end Sys2Proof.Machine
end

