-- ==== Sys2Proof/Machine/Walks.lean ====
section
/-! DEFINITION. Descriptor walks (R348, R349), the tally window and the tally configuration registers (R395, R410, R413). -/

namespace Sys2Proof.Machine

open Sys2Proof

/-! ### Walks (R348, R349) -/

/-- Commands of the context on the die that the walk of a key holds up. -/
def walkWaiters (s : State) (w : Walk) : List CmdRef :=
  (s.cmds.filter fun e => e.result.isNone && !inHand s e.ref && decide (e.core < 256) &&
    (match e.instr with | some i => walkFor s e i w | none => false)).map (·.ref)

def isWalk (die key : Nat) (w : Walk) : Bool := w.die == die && w.key == key

/-- The slot of a command's first reference to a segment. -/
def slotOfSeg (e : Cmd) (seg : Nat) : Nat :=
  match e.instr with
  | some i => (((refsOf i).find? fun r => r.2 == seg).map (·.1)).getD 0
  | none => 0

/-- A walk fails: nothing is installed, and its waiters complete with ST_SEG_WALK_TIMEOUT. -/
def failWalk (die ctx seg : Nat) (w : Walk) (s : State) : State :=
  let s2 := noteWalkFail die ctx seg { s with walks := s.walks.filter (· != w) }
  w.waiters.foldl (fun t c => finishFail c (fWalk (slotOfSeg (cmdOf s c) seg) seg die) t) s2

/-- A walk's read returns its descriptor: into the pool and the caches of the cores that asked. -/
def installWalk (die key d : Nat) (w : Walk) (s : State) : State :=
  let s1 := { s with walks := s.walks.filter (· != w) }
  let s2 := incF (WALK_DONE die) WALK_DONE_WALK_DONE 1 (putPool die key (touch 16 key d (poolOf s1 die key)) s1)
  w.waiters.foldl (fun t c => if (cmdOf s c).core < 256 then fillCore (cmdOf s c).core key d t else t) s2

/-- Is the walk one of the 32 its die's walkers carry, in arrival order? -/
def walking (s : State) (w : Walk) : Bool := (((s.walks.filter fun x => x.die == w.die).take 32).contains w)

/-- A lookup that misses takes a walker, or the read of a walk in flight returns. -/
def descriptorWalk (die ctx seg : Nat) (s : State) : State :=
  let cx := ctxOf s ctx
  let key := descKey cx.part ctx seg
  if cx.state = .free then s
  else match s.walks.find? (isWalk die key) with
    | none =>
      if (lookup key (poolOf s die key)).isSome then s
      else
        let w : Walk := ⟨key, die, false, []⟩
        { s with walks := s.walks ++ [{ w with waiters := walkWaiters s w }] }
    | some w =>
      if !walking s w then s
      else if w.stale then
        { s with walks :=
          if w.waiters.isEmpty then s.walks.filter (· != w) else s.walks.map fun x => if x = w then { x with stale := false } else x }
      else match descMem s ctx seg with
        | some d => installWalk die key d w s
        | none => failWalk die ctx seg w (noteDescRead ctx seg s)

def execDescriptorWalk (die : BitVec 2) (ctx : BitVec 32) (seg : BitVec 4) (s : State) : Ans :=
  .next (descriptorWalk die.toNat ctx.toNat seg.toNat s)

/-- WALK_TMO has passed since the miss arrived. -/
def execWalkTimeout (die : BitVec 2) (ctx : BitVec 32) (seg : BitVec 4) (s : State) : Ans :=
  let d := die.toNat
  let x := ctx.toNat
  .next (match s.walks.find? (isWalk d (descKey (ctxOf s x).part x seg.toNat)) with
    | none => s
    | some w => failWalk d x seg.toNat w s)

/-! ### The tally window (R408, R410) -/

/-- Record a window fault. -/
def windowFault (kind die i : Nat) (s : State) : State :=
  setReg TALLY_WIN_ERR (2 ^ 63 + kind * 2 ^ 32 + die * 65536 + i) s

/-- KIND of TALLY_WIN_ERR for a failed operation. -/
def windowKind (f : Fail) : Nat :=
  if f.1 = Status.peerLost.code then 5
  else if bitAt f.2 12 then 3
  else if f.1 = Status.tallyOverflow.code then 1
  else 2

/-- The outcome of a window write; a partner module that is lost also counts as a fault of the die. -/
def windowDone (die i : Nat) (r : State × Option Fail) : State :=
  match r.2 with
  | none => settle r.1
  | some f => windowFault (windowKind f) die i (if windowKind f = 5 then incFaults die r.1 else r.1)

/-- Is there such a tally, in a die that is not fenced? -/
def windowTally (s : State) (die i : Nat) : Bool := decide (die < 5) && decide (i < tallyCount die) && !isFenced s domDie die

/-- A write of TW_ADD; a write of 0 does nothing and makes no release (Table 13-15). -/
def execTwAdd (t : TallyRef) (value : BitVec 64) (s : State) : Ans :=
  let d := t.die.toNat
  let i := t.index.toNat
  if windowTally s d i && value != 0 then .next (windowDone d i (addWithPartner d i value.toNat 4 0 s)) else .next s

/-- A write of TW_SUB; a write of 0 does nothing and makes no release (Table 13-15). -/
def execTwSub (t : TallyRef) (value : BitVec 64) (s : State) : Ans :=
  let d := t.die.toNat
  let i := t.index.toNat
  if windowTally s d i && value != 0 then .next (windowDone d i (applySub d i value.toNat 4 0 s)) else .next s

/-! ### The configuration registers (R413) -/

/-- A scope record as TALLY_SCOPE_V shows it (Table 13-13). -/
def scopeWord : ScopeRec → Nat
  | .noRec => 7
  | .disjoint => 6
  | .level l i =>
    if 3 ≤ l then l
    else i / 65536 * 2 ^ 48 + (if l ≤ 1 then i % 65536 / 4 * 2 ^ 40 else 0) + (if l = 0 then i % 4 * 2 ^ 38 else 0) + l

/-- Record the outcome of an action. -/
def tallyResult (r : Nat) (s : State) : State := setF TALLY_STATUS TALLY_STATUS_RESULT r s

/-- Refusals that both actions share: RANGE, FENCED. -/
def tallyCfgFault (s : State) (die i : Nat) : Option Nat :=
  if 4 < die ∨ tallyCount die ≤ i then some 1
  else if isFenced s domDie die then some 3
  else none

def selDie (s : State) : Nat := getF s TALLY_SEL TALLY_SEL_DIE
def selIndex (s : State) : Nat := getF s TALLY_SEL TALLY_SEL_INDEX

def execTallyCmdRead (s : State) : Ans :=
  .next (match tallyCfgFault s (selDie s) (selIndex s) with
    | some r => tallyResult r s
    | none =>
      let t := tallyOf s (selDie s) (selIndex s)
      tallyResult 0 (setReg TALLY_SCOPE_V (scopeWord t.scope) (setReg TALLY_ATTR_V t.attr.toNat
        (setReg TALLY_BOUND_V t.bound.toNat (setReg TALLY_COUNT_V t.count.toNat s)))))

/-- Is the ATTR value refused (Table 13-12)? -/
def attrBad (a : Nat) : Bool :=
  taMode a == 3 || (taPair a && taPairN a == 0) ||
  (taMode a == 0 && (taPairN a != 0 || taPartnerDie a != 0 || taPartnerIndex a != 0)) ||
  decide (4 < taPartnerDie a) || decide (tallyCount (taPartnerDie a) ≤ taPartnerIndex a)

/-- The bits of an ATTR value that a WRITE stores: neither PLACED nor a reserved bit. -/
def attrStored (a : Nat) : Nat := setBits (setBits a 12 8 0) 7 4 0

def execTallyCmdWrite (s : State) : Ans :=
  let d := selDie s
  let i := selIndex s
  let a := getReg s TALLY_ATTR_V
  let count := getReg s TALLY_COUNT_V
  let bound := getReg s TALLY_BOUND_V
  .next (match tallyCfgFault s d i with
    | some r => tallyResult r s
    | none =>
      if taPlaced (tallyOf s d i).attr.toNat then tallyResult 2 s
      else if bound < count then tallyResult 1 s
      else if attrBad a then tallyResult 4 s
      else settle (tallyResult 0 (serve d i (setTally d i
        ⟨BitVec.ofNat 64 count, BitVec.ofNat 64 bound, BitVec.ofNat 64 (attrStored a), .noRec⟩ s))))

/-! ### Waiters held at their cores (R395) -/

/-- Offer a held waiter again. -/
def reoffer (s : State) (w : Waiter) : State :=
  let s1 := { s with waiters := s.waiters.filter (· != w) }
  let r := if w.take then applyTake w.die w.index w.n w.core w.owner s1 else applyWait w.die w.index w.n w.core w.owner s1
  waitOp w.owner r

def execWaiterReoffer (die : BitVec 3) (s : State) : Ans :=
  .next (settle ((s.waiters.filter fun w => w.held && w.die == die.toNat).foldl reoffer s))

end Sys2Proof.Machine
end

