-- ==== Sys2Proof/Machine/View.lean ====
section
/-! DEFINITION. What a read of the control window returns (R631 to R643): registers whose value follows from other state are
computed from it, the others are read as they are held; the capability chain (R518 to R521); the root-port ranges (R516). -/

namespace Sys2Proof.Machine

open Sys2Proof

/-- A field's value in its place. -/
def fld (f : Fld) (v : Nat) : Nat := v % 2 ^ (f.hi + 1 - f.lo) * 2 ^ f.lo

/-- Bits of a map. -/
def bitMap (n : Nat) (p : Nat → Bool) : Nat := (List.range n).foldl (fun m i => if p i then m + 2 ^ i else m) 0

def countOf (n : Nat) (p : Nat → Bool) : Nat := ((List.range n).filter p).length

/-! ### Cores and engines (Tables 03-10, 03-14, 05-18, 05-20, 06-3, 06-7, 07-15) -/

def EngState.code : EngState → Nat
  | .idle => 0 | .busy => 1 | .patrol => 2 | .reset => 3 | .fenced => 4 | .off => 5 | .retired => 6

def CoreState.code : CoreState → Nat
  | .idle => 0 | .running => 1 | .parked => 2 | .turningOff => 3 | .off => 4 | .waking => 5 | .fenced => 6
  | .mappingIn => 7 | .unassigned => 8

/-- Is a resident context parked on the core on some class? -/
def parkedHere (s : State) (n x : Nat) : Bool := (ctxOf s x).parked.any fun e => e / 4 == n

/-- The state shown: an on core is RUNNING with a step in flight, PARKED where every context with a step is parked. -/
def shownState (s : State) (n : Nat) : CoreState :=
  let c := coreOf s n
  match c.state with
  | .idle | .running | .parked =>
    if [c.e0, c.e1, c.e2, c.e3].any (·.flight.isSome) then .running
    else
      let busy := (c.resident.filter fun x => s.progs.any fun e => match e.2 with | none => false | some p => hasReady n x p) ++
        (s.cmds.filter fun e => e.core == n && !e.descs.isEmpty).map (·.ref.ctx.toNat)
      if !busy.isEmpty && busy.all (parkedHere s n) then .parked else .idle
  | st => st

def coreStatus (s : State) (n : Nat) : Nat :=
  let c := coreOf s n
  let st := shownState s n
  if st == .unassigned then CoreState.code st
  else
    fld CORE_STATUS_STATE (CoreState.code st) + fld CORE_STATUS_RESIDENT c.resident.length + fld CORE_STATUS_READY (readyCount s n) +
    fld CORE_STATUS_ENG_BUSY (bitMap 4 fun e => (engineOf c e).state == .busy)

def coreIdWord (s : State) (n : Nat) : Nat :=
  let c := coreOf s n
  fld CORE_ID_DIE (n / 64) + fld CORE_ID_LOGICAL n + fld CORE_ID_FROM_SPARE (bnat c.fromSpare) + fld CORE_ID_PHYS c.phys

/-- Pin slots, and ring and staging slots, in use on a core. -/
def placeUse (s : State) (n : Nat) : Nat :=
  let pins := (s.progs.map fun e => match e.2 with | none => 0 | some p => (p.pins.filter (·.core == n)).length).sum
  fld PLACE_USE_PIN_SLOTS pins + fld PLACE_USE_RING_SLOTS ((slotsUsed s n).length - pins)

/-- While a step is in flight its activity bits are free values: the array's and the shadow's of a chain, the drain unit's of a
REDUCE and of a chain that drains, the vector unit's of an ELEMENTWISE and of a REDUCE, which adds lanes in VACC (log 125). -/
def engStatus (s : State) (n e : Nat) : Nat :=
  let g := getEng s n e
  let act (k : Nat) : Bool := (Config.engActive (4 * n + e) s.tick).getLsbD k
  let op := (g.flight.bind fun f => atOf s f.handle f.run f.step).map (·.p.op)
  let mm := op == some opMatmul || op == some opMatmulAcc
  let red := op == some opReduce
  let more := match g.chain with | some c => decide (c.k < c.kt) | none => false
  let drains := g.live && !more && g.state == .busy
  fld ENG_STATUS_STATE (EngState.code g.state) + fld ENG_STATUS_H0_LIVE (bnat g.h0.live) + fld ENG_STATUS_H1_LIVE (bnat g.h1.live) +
  fld ENG_STATUS_SHADOW_FULL (bnat (!g.shadow.isEmpty || (mm && more && act 3))) +
  fld ENG_STATUS_SPILLED (bnat ((coreOf s n).spilled.any fun x => x.engine == e)) +
  fld ENG_STATUS_ARRAY_ACTIVE (bnat (mm && act 0)) + fld ENG_STATUS_DRAIN_ACTIVE (bnat ((red || drains) && act 1)) +
  fld ENG_STATUS_VECTOR_ACTIVE (bnat ((red || op == some opElem) && act 2)) +
  fld ENG_STATUS_CHAIN_STEPS (match g.chain with | some c => min 255 c.k | none => 0)

/-- Are the shipped sets loaded? The Reeve loads them before NORMAL (R145). -/
def shippedUp (s : State) : Bool := getF s ORD_SVC ORD_SVC_STATE == 1 || getF s ORD_SVC ORD_SVC_STATE == 2

/-- The set number of a step that has begun and not ended on a core, if its operation satisfies `p`. -/
def stepSets (s : State) (n : Nat) (p : Nat → Bool) : List Nat :=
  (stepsOn s n).filterMap fun a =>
    if p a.p.op && a.open_ && decide (0 < a.done) then
      some (if a.p.set = 0xFF then setStandard else a.pr.sets.getD a.p.set 0) else none

/-- The set number of a command that has begun and waits on a core, if its operation satisfies `p`. -/
def cmdSets (s : State) (n : Nat) (p : Nat → Bool) : List Nat :=
  s.cmds.filterMap fun e =>
    let op := match e.instr with
      | some (.func ..) => opFunc | some (.softmax ..) => opSoftmax | some (.norm ..) => opNorm | some (.rowstat ..) => opRowstat
      | _ => 0
    if p op && e.core == n && !e.descs.isEmpty && e.result.isNone then some ((cmdSet e.instr).getD 0) else none

/-- The sets in use by the work that a unit of a core has begun: that of the special-function unit evaluates a set, that of the row
unit is a row command's (R127, R154). -/
def unitSets (s : State) (n : Nat) (p : Nat → Bool) : List Nat := stepSets s n p ++ cmdSets s n p

def onSfu (op : Nat) : Bool := op == opFunc || op == opSoftmax || op == opNorm
def onRsu (op : Nat) : Bool := op == opSoftmax || op == opNorm || op == opRowstat

def rsuStatus (s : State) (n : Nat) : Nat :=
  let l := unitSets s n onRsu
  fld RSU_STATUS_BUSY (bnat (!l.isEmpty)) + fld RSU_STATUS_HERITAGE (bnat (l.contains setHeritage))

def sfuStatus (s : State) (n : Nat) : Nat :=
  let c := coreOf s n
  if !shippedUp s then 0
  else
    let (k, a, b, _) := setUse s n
    fld SFU_STATUS_SETS k + fld SFU_STATUS_SLOTS_USED a + fld SFU_STATUS_SEGS_USED b + fld SFU_STATUS_RELOADING (bnat (!c.reload.isEmpty)) +
    fld SFU_STATUS_LOADING (bnat (c.sets.any fun l => !l.held)) + fld SFU_STATUS_BUSY (bnat (!(unitSets s n onSfu).isEmpty))

def setDirWord (id slot count signer : Nat) (unloading valid : Bool) : Nat :=
  fld SFU_SET_DIR_SET_ID id + fld SFU_SET_DIR_FIRST_SLOT slot + fld SFU_SET_DIR_SLOT_COUNT count + fld SFU_SET_DIR_SIGNER signer +
  fld SFU_SET_DIR_UNLOADING (bnat unloading) + fld SFU_SET_DIR_VALID (bnat valid)

/-- The directory: the three shipped sets, then the customers' sets in the order they were loaded. -/
def setDir5 (s : State) (n i : Nat) : Nat :=
  if !shippedUp s then 0
  else match i with
    | 0 => setDirWord setStandard 0 16 0 false true
    | 1 => setDirWord setFast 16 16 0 false true
    | 2 => setDirWord setHeritage 32 8 0 false true
    | i => match (coreOf s n).sets[i - 3]? with
      | some l => setDirWord l.set.setId l.firstSlot l.set.load.1 l.set.signer (l.unloading || l.leaving) (l.valid && l.held)
      | none => 0

/-! ### Queues, epochs, contexts, partitions -/

def QState.code : QState → Nat
  | .disabled => 0 | .enabled => 1 | .stopped => 2 | .draining => 3

def qStateWord (s : State) (q : Nat) : Nat :=
  let x := queueOf s q
  fld Q_STATE_STATE (QState.code x.state) + fld Q_STATE_HELD (bnat (!x.held.isEmpty)) + fld Q_STATE_RETRYING (bnat x.retrying.isSome) +
  fld Q_STATE_HOME_LIVE x.homeLive + fld Q_STATE_RETRIES (min 65535 x.retries) +
  fld Q_STATE_INFLIGHT (s.cmds.filter fun e => e.ref.queue.toNat == q && e.instr.isSome).length

/-- Is a Q_CMD action in progress (R260)? -/
def qBusy (s : State) : Bool := decide (clockNow s < s.actionEnd)

/-- Is a TALLY_CMD action in progress (R413)? -/
def tallyBusy (s : State) : Bool := decide (clockNow s < s.tallyEnd)

def SlotState.code : SlotState → Nat
  | .empty => 0 | .staging => 1 | .staged => 2 | .pending => 3 | .current => 4 | .former => 5

def epochState (s : State) (h : Nat) : Nat :=
  match progOf s h with
  | none => 0xF0000
  | some p =>
    fld EPOCH_STATE_VALID 1 + fld EPOCH_STATE_CURRENT_SLOT (p.current.getD 3) +
    fld EPOCH_STATE_SLOT0 (SlotState.code p.s0.state) + fld EPOCH_STATE_SLOT1 (SlotState.code p.s1.state) +
    fld EPOCH_STATE_SLOT2 (SlotState.code p.s2.state) +
    (match p.commit.filter fun m => !m.voteHeld with
     | none => fld EPOCH_STATE_PENDING_SLOT 3
     | some m => fld EPOCH_STATE_PENDING_SLOT m.slot + fld EPOCH_STATE_PARISH (bnat m.parish) +
         fld EPOCH_STATE_COORD (bnat (!m.parish || m.coordinator == moduleId s)))

def epochWord (s : State) (name : String) (h : Nat) : Nat :=
  match progOf s h with
  | none => 0
  | some p =>
    match name with
    | "EPOCH_TARGET" => ((p.commit.filter fun m => !m.voteHeld).map (·.target)).getD 0
    | "EPOCH_NUM01" => p.s0.epoch % 2 ^ 32 + p.s1.epoch % 2 ^ 32 * 2 ^ 32
    | "EPOCH_NUM2" => p.s2.epoch % 2 ^ 32
    | _ => min 65535 (p.pinCount 0) + min 65535 (p.pinCount 1) * 2 ^ 16 + min 65535 (p.pinCount 2) * 2 ^ 32

def CtxState.code : CtxState → Nat
  | .free => 0 | .active => 1 | .aborting => 2 | .destroying => 3

def ctxInfo (s : State) (x : Nat) : Nat :=
  let c := ctxOf s x
  if c.state == .free then 0
  else
    fld CTX_INFO_STATE (CtxState.code c.state) + fld CTX_INFO_PART c.part + fld CTX_INFO_STRANDED (bnat c.stranded) +
    fld CTX_INFO_CARRY (bits c.now 128 128) + fld CTX_INFO_RESIDENT (countOf 256 fun n => (coreOf s n).resident.contains x) +
    fld CTX_INFO_SEG_VALID (bitMap 16 fun k => (recordedSegs s).any fun e => e.1 == 16 * x + k)

def partAttr (s : State) (p : Nat) : Nat :=
  let a := partOf s p
  fld PART_ATTR_CONTEXTS (ctxsOf s p).length + fld PART_ATTR_PRIORITY a.priority + fld PART_ATTR_STRICT_SCOPE (bnat a.strict) +
  fld PART_ATTR_STACK_ENC (bnat a.keyStack) + fld PART_ATTR_DDR_ENC (bnat a.keyDdr) +
  (if a.keyStack || a.keyDdr then fld PART_ATTR_KEY_SLOT a.keySlot else 0)

/-- Bits of the cores of a partition: a number without a core is in none. -/
def partCoreWord (s : State) (p w : Nat) : Nat :=
  bitMap 64 fun j => bitAt (partOf s p).cores (64 * w + j) && (coreOf s (64 * w + j)).state != .unassigned

/-- A word of a context page (R319). -/
def pageWord (s : State) (now : Bool) (x w : Nat) : Nat :=
  let c := ctxOf s x
  if x = 0 ∨ c.state = .free then 0 else bits (if now then c.now else c.next) (64 * w + 63) (64 * w)

/-! ### Islands (Tables 19-1, 19-10) -/

/-- The fixed point's frequency in MHz; a guest interface's is its chiplet's. -/
def fixedMhz (i : Nat) : Nat :=
  if i < 272 then 1750 else if i < 276 then 2000 else if i < 288 then 1600 else if i < 300 then 3000 else if i = 300 then 2400
  else if i = 301 then 1600 else if i < 304 then 1500 else if i < 306 then 400 else (Config.vfMhz i 0).toNat

/-- The frequency of a point: the highest is that of Table 19-1. -/
def pointMhz (i k : Nat) : Nat :=
  if k = 0 then fixedMhz i
  else if k = boostCount i then (if i < 272 then 2100 else 3600)
  else (Config.vfMhz i k).toNat

def islandKind (i : Nat) : Nat :=
  if i < 272 then 0 else if i < 276 then 1 else if i < 288 then 2 else if i < 300 then 3 else if i = 300 then 4 else if i = 301 then 5
  else if i < 304 then 6 else if i < 306 then 7 else 8

/-- 0 OFF, 1 ON, 2 RETENTION, 3 FENCED. -/
def islandState (s : State) (i : Nat) : Nat :=
  if i = 304 ∨ i = 305 then bnat s.tray.standby
  else if !s.tray.mainOn then 0
  else if i < 272 then
    let d := i / 68
    if isFenced s domDie d then 3
    else match (List.range 64).find? fun j => coreIsland s (64 * d + j) == i && (coreOf s (64 * d + j)).state != .unassigned with
      | none => 0
      | some j => match (coreOf s (64 * d + j)).state with
        | .off => 2
        | .fenced => 3
        | _ => 1
  else if i < 276 then (if isFenced s domDie (i - 272) then 3 else 1)
  else if i < 288 then (if isFenced s domStack (i - 276) then 3 else 1)
  else if i < 301 then
    (if isFenced s domHost 0 then 3 else if getF s HC_STATUS HC_STATUS_STATE = 0 then 0 else 1)
  else if i < 304 then 1
  else
    let g := siteState s (i - 306)
    if g = gsAbsent ∨ g = gsDisabled then 0 else if g = gsFenced then 3 else 1

def pointOf (s : State) (i : Nat) : Nat := Assoc.get (fun _ => 0) s.power.points i
def tempOf (s : State) (i : Nat) : Nat := Assoc.get (fun _ => 0) s.power.temps i

def islInfo (s : State) (i : Nat) : Nat :=
  if 307 < i then 0
  else
    let st := islandState s i
    fld ISL_INFO_STATE st + fld ISL_INFO_KIND (islandKind i) + fld ISL_INFO_POINT (pointOf s i) + fld ISL_INFO_VF_COUNT (boostCount i + 1) +
    fld ISL_INFO_TEMP_C (tempOf s i) + (if st = 1 then fld ISL_INFO_FREQ_MHZ (pointMhz i (pointOf s i)) else 0)

def vfPoint (s : State) (k : Nat) : Nat :=
  let i := getF s ISL_SEL ISL_SEL_ISLAND
  if 307 < i ∨ boostCount i < k then 0
  else
    fld VF_POINT_VALID 1 + fld VF_POINT_FIXED (bnat (k == 0)) + fld VF_POINT_MV (Config.vfMilliVolt i k).toNat +
    fld VF_POINT_FREQ_MHZ (pointMhz i k)

/-- The counts of PWR_STATUS; its other fields are held. -/
def pwrStatus (s : State) : Nat :=
  let offs (p : OffCore → Bool) : Nat := (s.power.offs.filter fun o => p o && (coreOf s o.core).state == .off).length
  getReg s PWR_STATUS % 16 + fld PWR_STATUS_CAP_OFF (offs fun o => o.cause == 0) + fld PWR_STATUS_THERM_OFF (offs fun o => o.cause != 0) +
  fld PWR_STATUS_BOOSTED (s.power.points.filter fun e => e.2 != 0).length

/-! ### Dies, the ledger, firmware -/

def diePhys (s : State) (d w : Nat) : Nat :=
  ((List.range (if w = 2 then 4 else 32)).map fun k => physState s d (32 * w + k) * 4 ^ k).sum

def dieSpare (s : State) (d : Nat) : Nat :=
  fld DIE_SPARE_ENABLED (countOf 68 fun k => physState s d k == 0) + fld DIE_SPARE_RETIRED (countOf 68 fun k => physState s d k == 2) +
  fld DIE_SPARE_SPARES (countOf 68 fun k => physState s d k == 1)

def ledgerStatus (s : State) : Nat :=
  fld LEDGER_STATUS_HELD s.faults.ring.length + fld LEDGER_STATUS_MIRROR_STALLED (bnat (!cellarUp s)) +
  fld LEDGER_STATUS_LOST (getF s LEDGER_STATUS LEDGER_STATUS_LOST) + fld LEDGER_STATUS_NEXT_SEQ s.faults.nextSeq

def ledgerWord (s : State) (w : Nat) : Nat :=
  match s.faults.ring.find? (·.seq == getF s LEDGER_SEL LEDGER_SEL_SEQ) with
  | none => 0
  | some r => leNat (slice r.bytes (8 * w) 8)

def Component.ofId (c : Nat) : Component :=
  match c with | 1 => .warden | 2 => .reeve | 3 => .hostBoot | _ => .stick

/-- The bank whose image runs: the active one before any start. -/
def runningBank (s : State) (c : Component) : Nat :=
  let r := Assoc.get (fun _ => 0) s.mgmt.runBank (Component.id c)
  if r = 0 then activeOf s c else r - 1

def fwVersion (s : State) (c : Component) : Nat :=
  let x := (bankOf s c (runningBank s c)).image
  let b := idleBank s c
  fld FW_VERSION_SVN (imgAt x 12 1) + fld FW_VERSION_MAJOR (imgAt x 8 1) + fld FW_VERSION_MINOR (imgAt x 9 1) +
  fld FW_VERSION_PATCH (imgAt x 10 2) + fld FW_VERSION_PENDING (bnat (bankValid s c b && !(bankOf s c b).used)) +
  fld FW_VERSION_INACTIVE_VALID (bnat (bankValid s c b)) + fld FW_VERSION_BANK (activeOf s c)

/-- ID_FW: the Reeve fields are those of the bank record (R639). -/
def idFw (s : State) : Nat :=
  let w := (bankOf s .warden (runningBank s .warden)).image
  let r := (bankOf s .reeve (activeOf s .reeve)).image
  fld ID_FW_FIZAN_MAJOR 3 + fld ID_FW_WARDEN_MAJOR (imgAt w 8 1) + fld ID_FW_WARDEN_MINOR (imgAt w 9 1) +
  fld ID_FW_REEVE_MAJOR (imgAt r 8 1) + fld ID_FW_REEVE_MINOR (imgAt r 9 1)

/-! ### The service face (Tables 22-1, 22-4, R613) -/

/-- Is a refusal still shown, 3 s from when it began? -/
def refusalShown (s : State) (t : Option Nat) : Bool :=
  match t with | some t => decide (clockNow s < t + 3000000000) | none => false

def barCode (s : State) : Nat :=
  let r := rstate s
  if !s.tray.standby then 0
  else if refusalShown s s.tray.refusedAt || s.tray.bayRefused.any (fun e => refusalShown s (some e.2)) then 1
  else if r = rsSafe ∨ r = rsReleased then 2
  else if r = rsArmed ∨ r = rsDraining ∨ r = rsQuiescing then 3
  else if getF s SVC_CTL SVC_CTL_LOCATE = 1 then 4
  else if !s.tray.mainOn ∨ getF s BOOT_STATUS BOOT_STATUS_STAGE = 15 then 5
  else if getF s ORD_SVC ORD_SVC_STATE ≠ 1 then 6
  else if getF s FLT_STATUS FLT_STATUS_REPLACE = 1 then 7
  else 8

def cageLed (s : State) (p : Nat) : Nat :=
  let st := portState s p
  if st = ptDisabled ∨ st = ptDown then 0
  else if st = ptFault then 3
  else if st = ptUp ∧ getF s (FAB_PORT_STATUS p) FAB_PORT_STATUS_WIDTH = 8 ∧ getF s (FAB_PORT_STATUS p) FAB_PORT_STATUS_SPARE_USED = 0 then 1
  else 2

def drainLeft (s : State) : Nat :=
  if rstate s ≠ rsDraining then 0
  else match s.tray.drainEnd with
    | some t => ceilDiv (t - clockNow s) 1000000000
    | none => 0

def svcStatus (s : State) : Nat :=
  let held := [SVC_STATUS_RSTATE, SVC_STATUS_LAST_CAUSE, SVC_STATUS_LATCH_OPEN, SVC_STATUS_PORT_CONNECTED]
  (held.map fun f => fld f (getF s SVC_STATUS f)).sum + fld SVC_STATUS_BAR (barCode s) + fld SVC_STATUS_DRAIN_LEFT_S (drainLeft s) +
  fld SVC_STATUS_CAGE_LEDS (((List.range 8).map fun p => cageLed s p * 4 ^ p).sum)

/-- The row of Table 22-4 that a bay's LED shows. -/
def bayLed (s : State) (b : Nat) : Nat :=
  let st := getF s (CELLAR_BAY b) CELLAR_BAY_STATE
  if s.tray.bayRefused.any fun e => e.1 == b && refusalShown s (some e.2) then 0
  else if getF s (SVC_BAY b) SVC_BAY_SAFE = 1 then 1
  else if st = bayFailed then 2
  else if st = bayRetiring then 3
  else if st = bayForeign then 4
  else if st = bayRebuilding then 5
  else if st = bayMember then 6
  else 7

/-! ### Management (Tables 23-9, 23-10) -/

/-- Does the PCIe VDM binding of a port serve (R618)? -/
def vdmUp (s : State) (b : Bool) : Bool :=
  s.tray.mainOn && endpointMode s b && (extPort s b).l0 &&
  getF s MGMT_CTL (if b then MGMT_CTL_VDM_B_EN else MGMT_CTL_VDM_A_EN) == 1

def trustAnchor (s : State) (k : Nat) : List Byte := Assoc.get (fun _ => []) s.mgmt.anchors k
def setKeyOf (s : State) (k : Nat) : SetKey := Assoc.get (fun _ => SetKey.empty) s.mgmt.setKeys k
def dataKeyOf (s : State) (k : Nat) : Option Nat := Assoc.get (fun _ => none) s.mgmt.dataKeys k

def mgmtStatus (s : State) : Nat :=
  fld MGMT_STATUS_EID_I3C s.mgmt.eidI3c + fld MGMT_STATUS_EID_VDM_A s.mgmt.eidA + fld MGMT_STATUS_EID_VDM_B s.mgmt.eidB +
  fld MGMT_STATUS_I3C_DA (s.mgmt.dynAddr.getD 0) + fld MGMT_STATUS_I3C_DA_VALID (bnat s.mgmt.dynAddr.isSome) +
  fld MGMT_STATUS_ANCHORS (bitMap 4 fun k => !(trustAnchor s k).isEmpty) + fld MGMT_STATUS_VDM_A_UP (bnat (vdmUp s false)) +
  fld MGMT_STATUS_VDM_B_UP (bnat (vdmUp s true)) + fld MGMT_STATUS_I3C_UP (bnat s.tray.standby)

def mgmtKeys (s : State) : Nat :=
  fld MGMT_KEYS_DATA_KEYS (bitMap 15 fun k => (dataKeyOf s (k + 1)).isSome) +
  fld MGMT_KEYS_SET_REVOKED (bitMap 15 fun k => (setKeyOf s (k + 1)).revoked) +
  fld MGMT_KEYS_SET_ENROLLED (bitMap 15 fun k => (setKeyOf s (k + 1)).enrolled)

/-- GLB_STATUS shows what its sources hold, also while they are not served (R640). -/
def glbStatus (s : State) : Nat :=
  fld GLB_STATUS_CHAIN_GEN s.chainGen + fld GLB_STATUS_TRIPPED (getF s THERM_STATUS THERM_STATUS_TRIPPED) +
  fld GLB_STATUS_REPLACE (getF s FLT_STATUS FLT_STATUS_REPLACE) + fld GLB_STATUS_WARDEN (getF s WARDEN_STATUS WARDEN_STATUS_ACTIVE) +
  fld GLB_STATUS_RSTATE (rstate s) + fld GLB_STATUS_HC_STATE (getF s HC_STATUS HC_STATUS_STATE) +
  fld GLB_STATUS_SVC_STATE (getF s ORD_SVC ORD_SVC_STATE)

/-- The ports of a stack follow its two links. -/
def stkStatus (s : State) (k : Nat) : Nat :=
  let up (i : Nat) : Nat := bnat (getF s (STK_STATUS k) STK_STATUS_STATE == 2 && (linkState s i == 2 || linkState s i == 3))
  setBits (setBits (getReg s (STK_STATUS k)) 4 4 (up (6 + 2 * k))) 5 5 (up (7 + 2 * k))

/-! ### The capability chain (R518 to R521, Tables 18-5, 18-6) -/

def guestRecord (s : State) (g1 : Bool) : List Byte :=
  match (guestOf s g1).cap with
  | some c => leBytes 1 1 ++ leBytes 1 c.proto.toNat ++ leBytes 2 c.vendor.toNat ++ leBytes 2 c.device.toNat ++ leBytes 1 c.roles.toNat ++
      leBytes 1 0 ++ leBytes 4 (c.size.toNat / mib2) ++ leBytes 4 0
  | none => leBytes 16 (bnat (siteState s (bnat g1) != gsAbsent))

/-- The records after CHAIN_HEAD: ID and content after the header. -/
def chainBody (s : State) : List (Nat × List Byte) :=
  let die (p : Nat → Nat) : List Byte := (List.range 4).flatMap fun d => leBytes 1 (p d)
  [(0x2, die (fun d => countOf 68 fun k => physState s d k == 0) ++ die (fun d => countOf 68 fun k => physState s d k == 1) ++
     leBytes 4 98304 ++ leBytes 4 16),
   (0x3, leBytes 4 (7 + 16 * 256) ++ leBytes 4 65536),
   (0x4, leBytes 2 (bitMap 12 fun k => !stackFenced s k) ++ leBytes 2 128 ++ leBytes 2 512 ++
     leBytes 2 (getF s DDR_STATUS DDR_STATUS_SPEED)),
   (0x5, [0xFF, 3, 3, 1] ++ leBytes 4 16384),
   (0x6, [0x1F, 0x1F, 7, 7, 0x31, 0x31, 0, 0]),
   (0x7, leBytes 2 8 ++ leBytes 2 256 ++ leBytes 4 20971520)] ++
  (if isP s then [(0x8, guestRecord s false ++ guestRecord s true)] else []) ++
  (if s.mgmt.encFitted then [(0x9, leBytes 1 (encByte s) ++ [15, 1, 0, 0, 0, 0, 0])] else []) ++
  [(0xA, leBytes 4 3 ++ leBytes 4 setStandard ++ leBytes 4 setFast ++ leBytes 4 setHeritage),
   (0xB, [3, 255, 1, 0, 0, 0, 0, 0]),
   (0xC, [0x0F, 1] ++ leBytes 2 64 ++ leBytes 2 4 ++ [1, 80]),
   (0xD, [7, 3, 0, 0, 0, 0, 0, 0])]

/-- Records in a row from an offset. -/
def chainFrom (o : Nat) : List (Nat × List Byte) → List Byte
  | [] => []
  | (id, b) :: r =>
    let len := 16 + b.length
    leBytes 2 id ++ [1, 0] ++ leBytes 2 len ++ [0, 0] ++ leBytes 4 (if r.isEmpty then 0 else o + len) ++ leBytes 4 0 ++ b ++ chainFrom (o + len) r

/-- The chain's bytes from 0x100; nothing before it is posted. -/
def chainBytes (s : State) : List Byte :=
  if !s.chainPosted then []
  else
    let body := chainBody s
    let w := (bankOf s .warden (runningBank s .warden)).image
    let head := leBytes 4 s.chainGen ++ leBytes 2 (body.length + 1) ++ [3, 0] ++ leBytes 1 (imgAt w 8 1) ++ leBytes 1 (imgAt w 9 1) ++
      [0xB0, 0, 0, 0, 0, 0]
    chainFrom 0x100 ((0x1, head) :: body)

/-! ### Reads -/

/-- Registers whose value follows from other state; none for those that hold their own. -/
def viewReg (s : State) (name : String) (ix : List Nat) (off : Nat) : Option Nat :=
  let i := ix.headD 0
  let j := (ix.drop 1).headD 0
  match name with
  | "ID_FW" => some (idFw s)
  | "GLB_STATUS" => some (glbStatus s)
  | "DIE_PHYS" => some (diePhys s i j)
  | "DIE_SPARE" => some (dieSpare s i)
  | "LEDGER_STATUS" => some (ledgerStatus s)
  | "LEDGER_DATA" => some (ledgerWord s i)
  | "FW_VERSION" => some (fwVersion s (Component.ofId (i + 1)))
  | "SVC_STATUS" => some (svcStatus s)
  | "SVC_BAY" => some (fld SVC_BAY_SAFE (getF s off SVC_BAY_SAFE) + fld SVC_BAY_LED (bayLed s i))
  | "MGMT_STATUS" => some (mgmtStatus s)
  | "MGMT_KEYS" => some (mgmtKeys s)
  | "CORE_STATUS" => some (coreStatus s i)
  | "CORE_ID" => some (coreIdWord s i)
  | "PLACE_USE" => some (placeUse s i)
  | "SEGC_USE" => some (fld SEGC_USE_ENTRIES (coreOf s i).segCache.length)
  | "ENG_STATUS" => some (engStatus s i j)
  | "ENG_ANCHOR" => some ((getEng s i j).h0.anchor.toNat + (getEng s i j).h1.anchor.toNat * 65536)
  | "SFU_STATUS" => some (sfuStatus s i)
  | "RSU_STATUS" => some (rsuStatus s i)
  | "SFU_SET_DIR" => some (setDir5 s i j)
  | "SQ_DB" => some (queueOf s i).doorbell.toNat
  | "TALLY_STATUS" => some (getReg s TALLY_STATUS + fld TALLY_STATUS_BUSY (bnat (tallyBusy s)))
  | "Q_CMD_STATUS" => some (getReg s Q_CMD_STATUS + fld Q_CMD_STATUS_BUSY (bnat (qBusy s)))
  | "Q_STATE" => some (qStateWord s (getF s Q_SELECT Q_SELECT_QID))
  | "Q_COUNTS" => let x := queueOf s (getF s Q_SELECT Q_SELECT_QID); some (x.p.toNat * 2 ^ 32 + x.f.toNat)
  | "Q_COUNTS2" => let x := queueOf s (getF s Q_SELECT Q_SELECT_QID); some (x.cc.toNat * 2 ^ 32 + x.w.toNat)
  | "Q_ERR" => let x := queueOf s (getF s Q_SELECT Q_SELECT_QID); some (fld Q_ERR_CAUSE x.errCause + fld Q_ERR_VALUE x.errValue)
  | "BELL_COUNT" => some (bellNow s)
  | "BELL_SUBNS" => some (subnsNow s)
  | "EPOCH_STATE" => some (epochState s (getF s EPOCH_SELECT EPOCH_SELECT_HANDLE))
  | "EPOCH_TARGET" | "EPOCH_NUM01" | "EPOCH_NUM2" | "EPOCH_PINS" => some (epochWord s name (getF s EPOCH_SELECT EPOCH_SELECT_HANDLE))
  | "CTX_NEXT" => some (pageWord s false i j)
  | "CTX_NOW" => some (pageWord s true i j)
  | "CTX_COUNT" => some (s.ctxs.filter fun e => e.2.state != .free).length
  | "CTX_INFO" => some (ctxInfo s (getF s CTX_SELECT CTX_SELECT_CTX))
  | "CTX_SEGTAB" => some ((ctxOf s (getF s CTX_SELECT CTX_SELECT_CTX)).segTable / 512 * 512)
  | "PART_CORE" => some (partCoreWord s i j)
  | "PART_ATTR" => some (partAttr s i)
  | "PART_CAPSA" => some ((partOf s i).capEngine % 2 ^ 32 + (partOf s i).capStack % 2 ^ 32 * 2 ^ 32)
  | "PART_CAPSB" => some ((partOf s i).capFabric % 2 ^ 32 + (partOf s i).capHost % 2 ^ 32 * 2 ^ 32)
  | "STK_STATUS" => some (stkStatus s i)
  | "TALLY_WAITERS" => some (s.waiters.filter fun w => w.die == i && !w.held).length
  | "TW_ADD" => some (tallyOf s i j).count.toNat
  | "TW_SUB" => some (tallyOf s i j).bound.toNat
  | "TW_ADD_H" => some (tallyOf s 4 i).count.toNat
  | "TW_SUB_H" => some (tallyOf s 4 i).bound.toNat
  | "KEEP_STATUS" => some (setBits (getReg s off) 7 0 (bitMap 8 fun k => getF s (KEEP k) KEEP_ENABLE == 1))
  | "FAB_ROUTE_DATA" => some (routeWord (routeOf s (getF s FAB_ROUTE_SEL FAB_ROUTE_SEL_MODULE)))
  | "FAB_ROUTE" => some (routeWord (routeOf s i))
  | "FAB_ROUTE_HI" => some (routeWord (routeOf s (49152 + i)))
  | "PWR_STATUS" => some (pwrStatus s)
  | "ISL_INFO" => some (islInfo s (getF s ISL_SEL ISL_SEL_ISLAND))
  | "VF_POINT" => some (vfPoint s i)
  | _ => none

/-- The root-port ranges (Table 18-4): which port. -/
def rootRange (off : Nat) : Option Bool :=
  if 0x400000 ≤ off ∧ off < 0x500000 ∨ 0x800000 ≤ off ∧ off < 0xC00000 then some false
  else if 0x500000 ≤ off ∧ off < 0x600000 ∨ 0xC00000 ≤ off ∧ off < 0x1000000 then some true
  else none

/-- An aligned 8-byte read of the control window, each register at its own width; 0 where nothing answers (R631, R636). In ROOT
mode a root-port range reads what the device answers, or all ones where none does (R516). -/
def readReg (s : State) (off : Nat) : Nat :=
  match regRow off with
  | some r =>
    if !regServed s r off then 0
    else match viewReg s r.name ((r.index off).getD []) off with
      | some v => v % 2 ^ r.width
      | none => getReg s off % 2 ^ r.width
  | none =>
    if 0x100 ≤ off ∧ off < 0x8000 then (if s.tray.mainOn then leNat (slice (chainBytes s) (off - 0x100) 8) else 0)
    else match rootRange off with
      | some b =>
        if portMode s b = 4 then
          (if (extPort s b).l0 then leNat ((List.range 8).map fun i => Config.outsideByte (65536 + bnat b) (off + i) s.tick)
           else 2 ^ 64 - 1)
        else 0
      | none => 0

/-- The 8 bytes at any offset. -/
def windowBytes (s : State) (off : Nat) : List Byte :=
  let o := off / 8 * 8
  slice (leBytes 8 (readReg s o) ++ leBytes 8 (readReg s (o + 8))) (off % 8) 8

/-- A read of the 8 bytes at an offset, with the clearing of an RC register that they cover (R5): PWR_PEAK, the one RC register
of Part Z. -/
def readWindow (off : Nat) (s : State) : State × List Byte :=
  (if off < PWR_PEAK + 4 ∧ PWR_PEAK < off + 8 then setF PWR_PEAK PWR_PEAK_WATTS 0 s else s, windowBytes s off)

/-- Is the owning block of an offset served? Reserved offsets read 0 (R626, R631). -/
def windowServed (s : State) (off : Nat) : Bool :=
  match regRow (off / 8 * 8) with
  | some r => regServed s r (off / 8 * 8)
  | none => if 0x100 ≤ off ∧ off < 0x8000 ∨ (rootRange off).isSome then s.tray.mainOn else true

end Sys2Proof.Machine
end

