-- ==== Sys2Proof/Machine/Service.lean ====
section
/-! DEFINITION. The frames of the USB-C service port (R614, Table 22-5). -/

namespace Sys2Proof.Machine

open Sys2Proof

/-- STATUS of an answer. -/
def svOk : Nat := 0
def svRefused : Nat := 1
def svRange : Nat := 2
def svDisabled : Nat := 3

/-- Answer a frame with its OP and TAG. A frame shows that a handheld has configured the device. Without standby power nothing
answers. -/
def serveFrame (op : Nat) (tag : BitVec 32) (act : State → State × Nat × List Byte) (s : State) : Ans :=
  if !s.tray.standby then .next s
  else
    let (s1, status, payload) := act (setF SVC_STATUS SVC_STATUS_PORT_CONNECTED 1 s)
    .next (emit (.service op tag.toNat status payload) s1)

/-- Serial number, FAB_ID, the firmware versions, SVC_STATUS. -/
def identBytes (s : State) : List Byte :=
  leBytes 8 (readReg s ID_SERIAL) ++ leBytes 8 (readReg s FAB_ID) ++
  ((List.range 4).flatMap fun c => leBytes 8 (readReg s (FW_VERSION c))) ++ leBytes 8 (readReg s SVC_STATUS)

def execServiceIdent (tag : BitVec 32) (s : State) : Ans := serveFrame 0x01 tag (fun s => (s, svOk, identBytes s)) s

/-- Does the service port read an offset? -/
def portReads (off : Nat) : Bool :=
  match regRow off with | some r => r.dom == .warden | none => false

def execServiceRead (tag : BitVec 32) (off : BitVec 32) (s : State) : Ans :=
  serveFrame 0x02 tag (fun s =>
    if !portReads off.toNat then (s, svRange, [])
    else
      let (s1, out) := readWindow off.toNat s
      (s1, svOk, out)) s

/-- Records of a list that holds the newest first, from `first` on, in ascending SEQ. -/
def recordsFrom (l : List LedgerRec) (first n : Nat) : List Byte :=
  (List.range n).flatMap fun i => match l.find? (·.seq == first + i) with | some r => r.bytes | none => []

def execServiceLedger (tag : BitVec 32) (seq : BitVec 32) (count : BitVec 8) (s : State) : Ans :=
  serveFrame 0x03 tag (fun s =>
    if count.toNat = 0 ∨ 16 < count.toNat then (s, svRange, [])
    else (s, svOk, recordsFrom s.faults.ring seq.toNat count.toNat)) s

def execServiceAttention (tag : BitVec 32) (s : State) : Ans :=
  serveFrame 0x04 tag (fun s =>
    if getF s SVC_CTL SVC_CTL_PORT_ATTN = 0 then (s, svDisabled, [])
    else if rstate s = rsQuiescing ∨ rstate s = rsReleased then (s, svRefused, [])
    else (attention false s, svOk, [])) s

def execServiceCancel (tag : BitVec 32) (s : State) : Ans :=
  serveFrame 0x05 tag (fun s =>
    if rstate s = rsArmed ∨ rstate s = rsDraining then (cancelRemoval s, svOk, []) else (s, svRefused, [])) s

/-- SVC_CTL.LOCATE. -/
def setLocate (v : Nat) (s : State) : State := setF SVC_CTL SVC_CTL_LOCATE v s

def execServiceLocate (tag : BitVec 32) (value : BitVec 8) (s : State) : Ans :=
  serveFrame 0x06 tag (fun s => if 1 < value.toNat then (s, svRange, []) else (setLocate value.toNat s, svOk, [])) s

end Sys2Proof.Machine
end

