-- ==== Sys2Proof/Machine/Mailbox.lean ====
section
/-! DEFINITION. The Warden's mailbox (R624 to R628, Table 23-5): who may ask, answers given again, and every command. -/

namespace Sys2Proof.Machine

open Sys2Proof

/-! ### STATUS of an answer (Table 23-4) -/

def mbOk : Nat := 0
def mbBusy : Nat := 1
def mbDenied : Nat := 2
def mbRange : Nat := 3
def mbState : Nat := 4
def mbAbsent : Nat := 5

/-! ### Authorisation and replay (R624, R625) -/

/-- Who may send a command of Table 23-5. -/
inductive Access where
  | opened | privileged | secure
  deriving DecidableEq, Repr

def anchored (s : State) : Bool := (List.range 4).any fun k => !(trustAnchor s k).isEmpty

/-- Does a request come in a secure session with a requester whose certificate chains to an enrolled anchor? -/
def inSession (s : State) (m : MailRef) : Bool :=
  match m.session with
  | some id => anchored s && s.mgmt.sessions.any fun x => x.id == id.toNat && x.anchored
  | none => false

def authorised (s : State) (m : MailRef) : Access → Bool
  | .opened => true
  | .privileged => if anchored s then inSession s m else m.i3c
  | .secure => inSession s m

/-- Does a privileged command run: a rung it has begun, or a capture? -/
def privBusy (s : State) : Bool :=
  (match s.mgmt.privRung with | some (r, t) => underRung s r t | none => false) ||
  (s.faults.capturing.isSome && getF s CAPTURE_STATUS CAPTURE_STATUS_TRIGGER == 3)

/-- Give an answer and keep it: 16 TAGs for each requester. -/
def mailAnswer (m : MailRef) (op status : Nat) (payload : List Byte) (s : State) : State :=
  let e := m.eid.toNat
  let mine := (s.mgmt.replays.filter fun r => r.eid == e) ++ [⟨e, m.tag.toNat, op + 0x80, status, payload⟩]
  let kept := (s.mgmt.replays.filter fun r => r.eid != e) ++ mine.drop (mine.length - 16)
  emit (.mailbox e m.tag.toNat (op + 0x80) status payload) { s with mgmt := { s.mgmt with replays := kept } }

/-- What every mailbox command meets: a TAG answered before, the authorisation, a privileged command that runs. -/
def mail (m : MailRef) (op : Nat) (acc : Access) (act : State → State × Nat × List Byte) (s : State) : Ans :=
  if !wardenUp s then .next s
  else match s.mgmt.replays.find? (fun r => r.eid == m.eid.toNat && r.tag == m.tag.toNat) with
    | some r => .next (emit (.mailbox r.eid r.tag r.op r.status r.payload) s)
    | none =>
      if !authorised s m acc then .next (mailAnswer m op mbDenied [] s)
      else if acc != .opened && privBusy s then .next (mailAnswer m op mbBusy [] s)
      else
        let (s1, status, payload) := act s
        .next (mailAnswer m op status payload s1)

/-- A command's outcome with no payload. -/
def done (s : State) : State × Nat × List Byte := (s, mbOk, [])
def fails (status : Nat) (s : State) : State × Nat × List Byte := (s, status, [])

/-! ### Reads -/

def execMailboxIdent (m : MailRef) (s : State) : Ans := mail m 0x01 .opened (fun s => (s, mbOk, identBytes s)) s

def execRegRead (m : MailRef) (off : BitVec 32) (s : State) : Ans :=
  mail m 0x02 .opened (fun s =>
    let o := off.toNat
    if 0x4000000 < o + 8 then fails mbRange s
    else if !windowServed s o then fails mbState s
    else
      let (s1, out) := readWindow o s
      (s1, mbOk, out)) s

def execLedgerRead (m : MailRef) (seq : BitVec 32) (count : BitVec 8) (s : State) : Ans :=
  mail m 0x03 .opened (fun s =>
    if count.toNat = 0 ∨ 16 < count.toNat then fails mbRange s
    else (s, mbOk, recordsFrom s.faults.ring seq.toNat count.toNat)) s

def execMirrorRead (m : MailRef) (seq : BitVec 32) (count : BitVec 8) (s : State) : Ans :=
  mail m 0x04 .opened (fun s =>
    if !s.tray.mainOn ∨ getF s CELLAR_STATUS CELLAR_STATUS_STATE = 3 then fails mbState s
    else if count.toNat = 0 ∨ 16 < count.toNat then fails mbRange s
    else (s, mbOk, recordsFrom s.faults.mirror seq.toNat count.toNat)) s

/-! ### Captures (R578, R579) -/

/-- A register block in a capture: the value held then. Registers whose value followed from other state are free. -/
def captureReg (k : Nat) (c : CaptureSlot) (s : State) (o i : Nat) : Byte :=
  match regRow (o / 8 * 8) with
  | none => 0
  | some r =>
    if (viewReg s r.name [] 0).isSome then Config.captureByte k i
    else BitVec.ofNat 8 ((Assoc.get regReset c.regs (o / 8 * 8)).toNat / 256 ^ (o % 8))

/-- Byte `i` of a capture: header, ledger, core blocks, the other blocks, Reeve state, descriptor table, spill areas, larders,
in the order of Table 20-13, each at its largest size. -/
def captureByteAt (k : Nat) (c : CaptureSlot) (s : State) (i : Nat) : Byte :=
  let head := leBytes 8 c.bell ++ leBytes 8 c.trigger ++ leBytes 8 c.ledgerSeq ++ leBytes 8 c.absent
  let regs := 0x41000
  let table := 0x14041000
  let spill := table + 0x400000
  let larder := spill + 0x20000000
  if i < 0x1000 then head.getD i 0
  else if i < regs then
    match c.ledger.reverse[(i - 0x1000) / 64]? with
    | some r => r.bytes.getD ((i - 0x1000) % 64) 0
    | none => 0
  else if i < regs + 0x1000000 then captureReg k c s (0x1000000 + (i - regs)) i
  else if i < regs + 0x2000000 then captureReg k c s (i - regs - 0x1000000) i
  else if i < regs + 0x4000000 then captureReg k c s (i - regs) i
  else if i < table then Config.captureByte k i
  else if i < spill then
    let t := (Assoc.get regReset c.regs Q_TABLE_BASE).toNat
    Assoc.get memReset c.mem (t + (i - table))
  else if i < larder then Config.captureByte k i
  else if i < larder + 256 * larderBytes then
    let j := i - larder
    Assoc.get memReset c.mem (larderBase (j / larderBytes) + j % larderBytes)
  else 0

/-- Is the reserve within reach (Table 23-6)? -/
def reserveUp (s : State) : Bool := s.tray.mainInput && cellarUp s

def execCaptureRead (m : MailRef) (slot : BitVec 8) (off : BitVec 64) (s : State) : Ans :=
  mail m 0x05 .privileged (fun s =>
    let k := slot.toNat
    let c := captureOf s k
    if 64 ≤ k then fails mbRange s
    else if !reserveUp s then fails mbState s
    else if !c.used then fails mbAbsent s
    else
      let n := min 1024 (0x100000000 - off.toNat)
      (s, mbOk, (List.range n).map fun i => captureByteAt k c s (off.toNat + i))) s

def execCapturePin (m : MailRef) (slot : BitVec 8) (pin : BitVec 8) (s : State) : Ans :=
  mail m 0x06 .privileged (fun s =>
    let k := slot.toNat
    if 64 ≤ k ∨ 1 < pin.toNat then fails mbRange s
    else if !reserveUp s then fails mbState s
    else done (setCapture k { captureOf s k with pinned := pin.toNat == 1 } s)) s

def execCaptureNow (m : MailRef) (s : State) : Ans :=
  mail m 0x07 .privileged (fun s =>
    if !reserveUp s then fails mbState s
    else if s.faults.capturing.isSome then fails mbBusy s
    else if (nextCapture s).isNone then fails mbState s
    else done (beginCapture 3 s)) s

/-! ### Resets and power -/

/-- RUNG: as R565, STATE where that would set LOST, or where the chip has no power to reset. -/
def mailRung (r t : Nat) (s : State) : State × Nat × List Byte :=
  if !rungTargetOk r t then fails mbRange s
  else if underRung s r t ∨ (r < 5 ∧ (underRung s 5 0 ∨ !s.tray.mainOn)) then fails mbState s
  else
    let s1 := requestRung r t s
    done { s1 with mgmt := { s1.mgmt with privRung := some (r, t) } }

def execMailboxRung (m : MailRef) (value : BitVec 64) (s : State) : Ans :=
  mail m 0x10 .privileged (mailRung (bits value.toNat 63 60) (bits value.toNat 23 0)) s

def execHostReset (m : MailRef) (s : State) : Ans :=
  mail m 0x11 .privileged (fun s => if s.tray.mainOn then done (hostComplexReset 3 s) else fails mbState s) s

def execDdrReset (m : MailRef) (s : State) : Ans :=
  mail m 0x12 .privileged (fun s => if s.tray.mainOn then done (ddrReset s) else fails mbState s) s

/-- POWER 0: a removal that runs ends in IN_SERVICE (Table 23-7); main power stays off until POWER 1 or an attention request. -/
def mailPowerOff (s : State) : State :=
  let s1 := if rsArmed ≤ rstate s ∧ rstate s ≤ rsQuiescing then setRstate rsInService s else s
  let s2 := powerDown true s1
  { s2 with tray := { s2.tray with hold := max 1 s2.tray.hold } }

def execPowerOff (m : MailRef) (s : State) : Ans := mail m 0x13 .privileged (fun s => done (mailPowerOff s)) s

/-- POWER 1: what kept main power off is gone, and a warm start follows. Not after a trip while a sensor is hot (R545), nor in
SAFE or RELEASED, which Table 22-2 lets only an attention request leave towards service. -/
def execPowerOn (m : MailRef) (s : State) : Ans :=
  mail m 0x13 .privileged (fun s =>
    if tooHot s ∨ rsSafe ≤ rstate s then fails mbState s else done { s with tray := { s.tray with hold := 0 } }) s

def execPowerCycle (m : MailRef) (s : State) : Ans := mail m 0x13 .privileged (mailRung 5 0) s

/-- RETIRE: STATE for a number that has no core, or whose core is being replaced. -/
def execRetire (m : MailRef) (core : BitVec 8) (s : State) : Ans :=
  mail m 0x14 .privileged (fun s =>
    let c := coreOf s core.toNat
    if !s.tray.mainOn ∨ c.state == .unassigned ∨ c.mapping.isSome then fails mbState s else done (retireCore core.toNat 6 0 0 s)) s

/-- SERVICE: TEST from NORMAL once every queue but the ADMIN ones is DISABLED, and back. -/
def mailService (v : Nat) (s : State) : State × Nat × List Byte :=
  let st := getF s ORD_SVC ORD_SVC_STATE
  if v = 0 then (if st = 2 then done (setSvc 1 s) else fails mbState s)
  else if v = 2 then
    (if st = 1 ∧ s.queues.all (fun e => e.2.desc.admin || e.2.state == .disabled) then done (setSvc 2 s) else fails mbState s)
  else fails mbRange s

def execService (m : MailRef) (state : BitVec 8) (s : State) : Ans := mail m 0x15 .privileged (mailService state.toNat) s

/-! ### The configuration record (R582) -/

def configBytes (c : ConfigRec) : List Byte :=
  leBytes 8 c.fabId.toNat ++ leBytes 4 c.fabCfg.toNat ++ leBytes 4 c.pwrCap.toNat ++ leBytes 4 c.bellCtl.toNat ++
  leBytes 8 c.bellOrigin.toNat ++ leBytes 4 c.bootCfg.toNat ++ leBytes 32 c.identity0.toNat ++ leBytes 32 c.identity1.toNat

def execConfigRead (m : MailRef) (s : State) : Ans := mail m 0x16 .opened (fun s => (s, mbOk, configBytes s.mgmt.config)) s

/-- A field goes to its register, where that is served. -/
def configReg (s : State) (x : Nat × Nat) : State :=
  match regRow x.1 with
  | some r => if regServed s r x.1 then putValue .mailbox x.1 x.2 s else s
  | none => s

def writeConfig (r : ConfigRec) (s : State) : State :=
  [(FAB_ID, r.fabId.toNat), (FAB_CFG, r.fabCfg.toNat), (PWR_CAP, r.pwrCap.toNat), (BELL_CTL, r.bellCtl.toNat),
   (BELL_ORIGIN, r.bellOrigin.toNat), (BOOT_CFG, r.bootCfg.toNat)].foldl configReg { s with mgmt := { s.mgmt with config := r } }

def execConfigWrite (m : MailRef) (r : ConfigRec) (s : State) : Ans := mail m 0x17 .privileged (fun s => done (writeConfig r s)) s

/-! ### Keys, certificates, anchors, SVN (R598, R627) -/

def putSetKey (k : Nat) (x : SetKey) (s : State) : State :=
  { s with mgmt := { s.mgmt with setKeys := Assoc.put (fun _ => SetKey.empty) s.mgmt.setKeys k x } }

def putDataKey (k : Nat) (x : Option Nat) (s : State) : State :=
  { s with mgmt := { s.mgmt with dataKeys := Assoc.put (fun _ => none) s.mgmt.dataKeys k x } }

/-- A slot 1 to 15. -/
def keySlotOk (k : Nat) : Bool := decide (1 ≤ k ∧ k ≤ 15)

def execSetkeyEnrol (m : MailRef) (slot : BitVec 8) (key : BitVec 768) (s : State) : Ans :=
  mail m 0x20 .privileged (fun s =>
    let k := setKeyOf s slot.toNat
    if !keySlotOk slot.toNat then fails mbRange s
    else if k.enrolled ∧ (!k.revoked ∨ k.key = key.toNat) then fails mbState s
    else done (putSetKey slot.toNat ⟨key.toNat, true, false⟩ s)) s

def execSetkeyRevoke (m : MailRef) (slot : BitVec 8) (s : State) : Ans :=
  mail m 0x21 .privileged (fun s =>
    let k := setKeyOf s slot.toNat
    if !keySlotOk slot.toNat then fails mbRange s
    else if !k.enrolled then fails mbAbsent s
    else done (putSetKey slot.toNat { k with revoked := true } s)) s

def execDatakeySet (m : MailRef) (slot : BitVec 8) (key : BitVec 512) (s : State) : Ans :=
  mail m 0x22 .secure (fun s =>
    if keySlotOk slot.toNat then done (putDataKey slot.toNat (some key.toNat) s) else fails mbRange s) s

/-- Does a partition's KEY name the slot? -/
def keyNamed (s : State) (k : Nat) : Bool :=
  (List.range 16).any fun p => ((partOf s p).keyStack || (partOf s p).keyDdr) && (partOf s p).keySlot == k

def execDatakeyErase (m : MailRef) (slot : BitVec 8) (s : State) : Ans :=
  mail m 0x23 .privileged (fun s =>
    if !keySlotOk slot.toNat then fails mbRange s
    else if keyNamed s slot.toNat then fails mbState s
    else if (dataKeyOf s slot.toNat).isNone then fails mbAbsent s
    else done (putDataKey slot.toNat none s)) s

def execCertSet (m : MailRef) (slot : BitVec 8) (chain : List (BitVec 8)) (s : State) : Ans :=
  mail m 0x24 .privileged (fun s =>
    if slot.toNat = 0 ∨ 7 < slot.toNat then fails mbRange s
    else done { s with mgmt := { s.mgmt with certs := Assoc.put (fun _ => []) s.mgmt.certs slot.toNat chain } }) s

def execAnchorSet (m : MailRef) (slot : BitVec 8) (anchor : List (BitVec 8)) (s : State) : Ans :=
  mail m 0x25 .privileged (fun s =>
    if 3 < slot.toNat then fails mbRange s
    else done { s with mgmt := { s.mgmt with anchors := Assoc.put (fun _ => []) s.mgmt.anchors slot.toNat anchor } }) s

/-- The component an update runs for, or whose activation is in progress. -/
def updating (s : State) (c : Component) : Bool :=
  (match s.mgmt.update with | some u => u.comp == c | none => false) ||
  (match s.mgmt.activating with | some (x, _) => x == c | none => false)

/-- The fused minimum rises to the SVN of the running image. -/
def commitSvn (c : Component) (s : State) : State :=
  let svn := imgAt (bankOf s c (runningBank s c)).image 12 1
  let k := Component.id c - 1
  if svn ≤ minSvn s c then s else bumpMeas (setReg TRUST_SVN (setBits (getReg s TRUST_SVN) (8 * k + 7) (8 * k) svn) s)

def execSvnCommit (m : MailRef) (component : BitVec 16) (s : State) : Ans :=
  mail m 0x26 .privileged (fun s =>
    let n := component.toNat
    if n = 0 ∨ 4 < n then fails mbRange s
    else if updating s (Component.ofId n) then fails mbBusy s
    else done (commitSvn (Component.ofId n) s)) s

end Sys2Proof.Machine
end

