-- ==== Sys2Proof/Machine/Pldm.lean ====
section
/-! DEFINITION. PLDM sensors, effecters and events, and the addresses that a bus gives the Warden (R618 to R623, R652,
Table 23-3). Completion codes are PLDM's own: 0 SUCCESS, 1 ERROR, 2 ERROR_INVALID_DATA, 0x80 for an ID that is not there. -/

namespace Sys2Proof.Machine

open Sys2Proof

/-! ### Events (R623) -/

def execSetEventReceiver (eid : BitVec 8) (b : Binding) (s : State) : Ans :=
  if !wardenUp s then .next s
  else .next (emit (.pldm eid.toNat 0 []) { s with mgmt := { s.mgmt with receiver := some (eid.toNat, b) } })

/-- The receiver has an event; its number goes by 16 bits. -/
def execEventAcknowledge (id : BitVec 16) (s : State) : Ans :=
  .next { s with mgmt := { s.mgmt with events := s.mgmt.events.filter fun e => e.1 % 65536 != id.toNat } }

/-! ### Sensors (R621, R628) -/

/-- The die of junction sensor `k`, in the order C0 to C3, H, M0 to M11, X0, X1, G0, G1. -/
def sensorDie (k : Nat) : Nat := if k < 4 then k else if k = 4 then 16 else if k < 17 then k - 1 else k

/-- Is a die powered and not fenced? -/
def sensorUp (s : State) (d : Nat) : Bool :=
  s.tray.mainOn &&
  (if d < 4 then !isFenced s domDie d
   else if d < 16 then !isFenced s domStack (d - 4)
   else if d = 16 then !isFenced s domHost 0
   else if d < 19 then true
   else isP s && siteState s (d - 19) != gsAbsent && siteState s (d - 19) != gsFenced && siteState s (d - 19) != gsDisabled)

/-- The reading of a sensor: none where it is unavailable. -/
def sensorValue (s : State) (id : Nat) : Option Nat :=
  let input (f : Fld) : Nat := if s.tray.mainInput then getF s PWR_INPUT f else 0
  if 0x10 ≤ id ∧ id ≤ 0x24 then
    (if sensorUp s (sensorDie (id - 0x10)) then some (dieTemp s (sensorDie (id - 0x10))) else none)
  else match id with
    | 0x01 => some (input PWR_INPUT_WATTS)
    | 0x02 => some (input PWR_INPUT_VOLT_MV)
    | 0x03 => some (input PWR_INPUT_CURRENT)
    | 0x04 => some (Config.standbyPower s.tick).toNat
    | 0x30 => some (getF s COOL_STATUS COOL_STATUS_INLET)
    | 0x31 => some (getF s COOL_STATUS COOL_STATUS_OUTLET)
    | 0x32 => some (getF s COOL_STATUS COOL_STATUS_FLOW)
    | 0x40 => some (rstate s)
    | 0x41 => some (if getF s THERM_STATUS THERM_STATUS_TRIPPED = 1 then 2 else getF s FLT_STATUS FLT_STATUS_REPLACE)
    | 0x42 => some (getF s ORD_SVC ORD_SVC_STATE)
    | _ => none

/-- Is there such a sensor? -/
def isSensor (id : Nat) : Bool :=
  decide (1 ≤ id ∧ id ≤ 4) || decide (0x10 ≤ id ∧ id ≤ 0x24) || decide (0x30 ≤ id ∧ id ≤ 0x32) || decide (0x40 ≤ id ∧ id ≤ 0x42)

/-- The answer: operational state (0 enabled, 2 unavailable) and, where there is one, the reading. -/
def execGetSensorReading (eid : BitVec 8) (id : BitVec 16) (s : State) : Ans :=
  if !wardenUp s then .next s
  else if !isSensor id.toNat then .next (emit (.pldm eid.toNat 0x80 []) s)
  else match sensorValue s id.toNat with
    | some v => .next (emit (.pldm eid.toNat 0 ([0] ++ leBytes 2 v)) (advance s))
    | none => .next (emit (.pldm eid.toNat 0 [2]) (advance s))

/-! ### Effecters (R622) -/

/-- What a write of an effecter does; none where the value is out of range. -/
def effect (id v : Nat) (s : State) : Option State :=
  match id with
  | 0x100 =>
    if 1200 ≤ v ∧ v ≤ 4000 then
      some (configReg s (PWR_CAP, setBits (getReg s PWR_CAP) PWR_CAP_WATTS.hi PWR_CAP_WATTS.lo v))
    else none
  | 0x101 => if v ≤ 1 then some (setLocate v s) else none
  | _ => if v = 1 then some (attention false s) else if v = 2 then some (cancelRemoval s) else none

def execSetEffecter (m : MailRef) (id : BitVec 16) (value : BitVec 16) (s : State) : Ans :=
  let i := id.toNat
  let say (code : Nat) (s : State) : State := emit (.pldm m.eid.toNat code []) s
  if !wardenUp s then .next s
  else if i < 0x100 ∨ 0x102 < i then .next (say 0x80 s)
  else if i ≠ 0x101 ∧ !authorised s m .privileged then .next (say 1 s)
  else match effect i value.toNat s with
    | some t => .next (say 0 t)
    | none => .next (say 2 s)

/-! ### Addresses (R618, R620, R652) -/

/-- The bus owner assigns the Warden's EID on a binding that serves. 0 and 0xFF are no EIDs. -/
def execSetEndpointId (b : Binding) (eid : BitVec 8) (s : State) : Ans :=
  let e := eid.toNat
  if !wardenUp s ∨ e = 0 ∨ e = 0xFF then .next s
  else match b with
    | .i3c => .next { s with mgmt := { s.mgmt with eidI3c := e } }
    | .vdmA => if vdmUp s false then .next { s with mgmt := { s.mgmt with eidA := e } } else .next s
    | .vdmB => if vdmUp s true then .next { s with mgmt := { s.mgmt with eidB := e } } else .next s

/-- ENTDAA or SETDASA on the I3C bus, whose interface is powered with standby. -/
def execDynamicAddressAssignment (addr : BitVec 7) (s : State) : Ans :=
  if s.tray.standby then .next { s with mgmt := { s.mgmt with dynAddr := some addr.toNat } } else .next s

end Sys2Proof.Machine
end

