-- ==== Sys2Proof/Machine/RegWrite.lean ====
section
/-! DEFINITION. A write to the control window (R5, R239, R410, R434, R506, R631 to R636): its width and alignment, who may write,
and what the fields that start something do. -/

namespace Sys2Proof.Machine

open Sys2Proof

/-- The state a meaning leaves. -/
def after (a : Ans) (s : State) : State :=
  match a with
  | .next t => t
  | _ => s

/-- Does a value set a field of one bit? -/
def sets (f : Fld) (v : Nat) : Bool := bitAt v f.lo

/-- Do something when a condition holds. -/
def onlyIf (b : Bool) (f : State → State) (s : State) : State := if b then f s else s

/-! ### Registers whose fields start something -/

/-- The actions of Table 08-12: 1 ENABLE, 2 DISABLE, 3 DISABLE_ABORT, 4 RESTART. -/
def queueAction (act q : Nat) (s : State) : State :=
  match act with
  | 1 => queueEnable q s
  | 2 => queueDisable q s
  | 3 => queueDisableAbort q s
  | 4 => queueRestart q s
  | _ => qResult q qBadState s

/-- Q_CMD: ignored while an action is in progress, with LOST (R260). The action takes its effect as it begins. -/
def queueCommand (act q : Nat) (s : State) : State :=
  if qBusy s then setF Q_CMD_STATUS Q_CMD_STATUS_LOST 1 s
  else
    let t := (Config.actionNs s.tick).toNat
    let s1 := queueAction act q (advance s)
    { s1 with actionEnd := clockNow s1 + (if act = 1 then min 10000 t else t) }

/-- TALLY_CMD (Table 13-10): ignored while an action is in progress, with LOST (R413). The action takes its effect as it begins. -/
def tallyAction (act : Nat) (s : State) : State :=
  if tallyBusy s then setF TALLY_STATUS TALLY_STATUS_LOST 1 s
  else
    let s1 := advance s
    let s2 := match act with
      | 1 => after (execTallyCmdRead s1) s1
      | 2 => after (execTallyCmdWrite s1) s1
      | _ => tallyResult 1 s1
    { s2 with tallyEnd := clockNow s2 + (Config.actionNs s.tick).toNat }

def coreCtl (w : Agent) (off n v : Nat) (s : State) : State :=
  onlyIf (sets CORE_CTL_WAKE v) (fun s => after (execWake (BitVec.ofNat 8 n) s) s)
    (onlyIf (sets CORE_CTL_OFF_REQ v) (turnOff n) (putValue w off v s))

def engCtl (w : Agent) (off n e v : Nat) (s : State) : State :=
  onlyIf (sets ENG_CTL_PATROL_NOW v) (askPatrol n e) (onlyIf (sets ENG_CTL_SPILL_NOW v) (spillNow n e) (putValue w off v s))

/-- A retrain that software asks for uses every lane (R471). -/
def fabPortCtl (w : Agent) (off p v : Nat) (s : State) : State :=
  let was := getF s off FAB_PORT_CTL_ENABLE
  let s1 := putValue w off v s
  let s2 := onlyIf (getF s1 off FAB_PORT_CTL_ENABLE != was) (enablePort p (was == 0)) s1
  onlyIf (sets FAB_PORT_CTL_RETRAIN v) (fun s => portRetrain p (getF s (FAB_PORT_STATUS p) FAB_PORT_STATUS_LANES) s) s2

def guestCtl (w : Agent) (off g v : Nat) (s : State) : State :=
  let was := getF s off GUEST_CTL_ENABLE
  let s1 := putValue w off v s
  let s2 := onlyIf (getF s1 off GUEST_CTL_ENABLE != was) (guestEnable (g == 1) (was == 0)) s1
  onlyIf (sets GUEST_CTL_ACCEPT v) (guestAccept (g == 1)) (onlyIf (sets GUEST_CTL_RESET v) (guestReset (g == 1)) s2)

def svcCtl (w : Agent) (off v : Nat) (s : State) : State :=
  onlyIf (sets SVC_CTL_CANCEL v) cancelRemoval (onlyIf (sets SVC_CTL_RELEASE v) release
    (onlyIf (sets SVC_CTL_ATTN v) (attention false) (putValue w off v s)))

/-! ### A write of the right width to a register that accepts it -/

def writeRow (w : Agent) (r : RegRow) (ix : List Nat) (off v : Nat) (s : State) : State :=
  let i := ix.headD 0
  let j := (ix.drop 1).headD 0
  let tally (d k : Nat) : TallyRef := ⟨BitVec.ofNat 3 d, BitVec.ofNat 16 k⟩
  match r.name with
  | "FLT_RESET_REQ" => after (execFltResetReq w (BitVec.ofNat 64 v) s) s
  | "SVC_CTL" => svcCtl w off v s
  | "CORE_CTL" => coreCtl w off i v s
  | "ENG_CTL" => engCtl w off i j v s
  | "CACHE_CTL" => onlyIf (sets CACHE_CTL_FLUSH v) (fun s => after (execCacheFlush (BitVec.ofNat 8 i) s) s) (putValue w off v s)
  | "SQ_DB" => doorbell i (BitVec.ofNat 64 v) s
  | "Q_CMD" => queueCommand (bits v Q_CMD_ACTION.hi Q_CMD_ACTION.lo) (bits v 15 0) s
  | "TALLY_CMD" => tallyAction (bits v TALLY_CMD_ACTION.hi TALLY_CMD_ACTION.lo) s
  | "TW_ADD" => after (execTwAdd (tally i j) (BitVec.ofNat 64 v) s) s
  | "TW_SUB" => after (execTwSub (tally i j) (BitVec.ofNat 64 v) s) s
  | "TW_ADD_H" => after (execTwAdd (tally 4 i) (BitVec.ofNat 64 v) s) s
  | "TW_SUB_H" => after (execTwSub (tally 4 i) (BitVec.ofNat 64 v) s) s
  | "CTX_NEXT" => after (execCtxPageStore (BitVec.ofNat 32 i) (BitVec.ofNat 7 (8 * j)) 8 (BitVec.ofNat 64 v) s) s
  | "CELLAR_CTL" => onlyIf (bits v CELLAR_CTL_ADOPT.hi CELLAR_CTL_ADOPT.lo != 0) (adoptBays (bits v CELLAR_CTL_ADOPT.hi CELLAR_CTL_ADOPT.lo)) (putValue w off v s)
  | "HC_CTL" => onlyIf (sets HC_CTL_READY v) (fun s => after (execHcReady s) s) s
  | "KEEP" => after (execKeepWrite w (BitVec.ofNat 3 i) (BitVec.ofNat 64 v) s) s
  | "FAB_ROUTE" => writeRoute i v s
  | "FAB_ROUTE_HI" => writeRoute (49152 + i) v s
  | "FAB_ROUTE_DATA" => writeRoute (getF s FAB_ROUTE_SEL FAB_ROUTE_SEL_MODULE) v s
  | "FAB_PORT_CTL" => fabPortCtl w off i v s
  | "GUEST_CTL" => guestCtl w off i v s
  | "EXT_PORT_CTL" => onlyIf (sets EXT_PORT_CTL_RESUME v) (resumePort (i == 1)) (putValue w off v s)
  | _ => putValue w off v s

/-! ### The access -/

/-- Does the agent reach the control window? An external host only through BAR0 (R506). -/
def reaches (s : State) (w : Agent) : Bool :=
  match w with
  | .portA => endpointMode s false && s.pA.memEnable
  | .portB => endpointMode s true && s.pB.memEnable
  | _ => true

def inDoorbells (off : Nat) : Bool := decide (0x2000000 ≤ off ∧ off < 0x2080000)
def inTallies (off : Nat) : Bool := decide (0x2200000 ≤ off ∧ off < 0x2640000)

/-- An access to the tally window that is no aligned 8-byte access (R410). -/
def badTally (off : Nat) (s : State) : State :=
  let d := if off < 0x2600000 then (off - 0x2200000) / 0x100000 else 4
  let i := if off < 0x2600000 then off % 0x100000 / 16 else (off - 0x2600000) / 16
  windowFault 4 d i s

/-- An aligned access whose width differs from the register's (R434). The context pages ignore it (R319). -/
def badWidth (s : State) : State := setF ORD_ERR ORD_ERR_CW_WIDTH 1 s

def registerWrite (w : Agent) (off n v : Nat) (s : State) : State :=
  if !reaches s w then s
  else if inDoorbells off ∧ (n ≠ 8 ∨ off % 8 ≠ 0) then onlyIf s.tray.mainOn badDoorbell s
  else if inTallies off ∧ (n ≠ 8 ∨ off % 8 ≠ 0) then onlyIf s.tray.mainOn (badTally off) s
  else if ([1, 2, 4, 8].contains n) = false ∨ off % n ≠ 0 then s
  else match regRow (off / 8 * 8) with
    | none => s
    | some r =>
      if r.width = 32 ∧ 4 ≤ off % 8 then s
      else if off % 8 ≠ 0 ∨ 8 * n ≠ r.width then badWidth s
      else if !regServed s r off ∨ !mayWrite w r.writers then s
      else writeRow w r ((r.index off).getD []) off (v % 2 ^ r.width) s

def execRegisterWrite (w : Agent) (off : BitVec 32) (bytes : BitVec 4) (value : BitVec 64) (s : State) : Ans :=
  .next (registerWrite w off.toNat bytes.toNat value.toNat s)

end Sys2Proof.Machine
end

