-- ==== Sys2Proof/Machine/Diag.lean ====
section
/-! DEFINITION. The diagnostic commands: SELFTEST and DUMP (R301, R302). -/

namespace Sys2Proof.Machine

open Sys2Proof

/-- The logical cores of a map. -/
def mapCores (m : BitVec 256) : List Nat := (List.range 256).filter fun n => bitAt m.toNat n

/-- On a queue that is no ADMIN queue every core must lie in the context's partition. -/
def coresAllowed (s : State) (c : CmdRef) (cs : List Nat) : Bool :=
  (queueOf s c.queue.toNat).desc.admin || cs.all fun n => bitAt (partOf s (ctxOf s c.ctx.toNat).part).cores n

/-- Cores that can run a test: those that are on. -/
def testable (s : State) (n : Nat) : Bool :=
  let st := (coreOf s n).state
  (st == .idle || st == .running || st == .parked) && coreUp s n

/-- Ask an engine for a patrol on behalf of a command. -/
def testEngine (c : CmdRef) (n : Nat) (s : State) (e : Nat) : State :=
  askPatrol n e (setEng n e { getEng s n e with patrolFor := some c } s)

def patrolBody (c : CmdRef) (cores : BitVec 256) (_ : Cmd) (s : State) : State :=
  let cs := mapCores cores
  let on := cs.filter (testable s)
  if !coresAllowed s c cs then finishFail c (fParam rRange 20) s
  else if on.any fun n => (coreOf s n).engines.any (·.patrolFor.isSome) then s
  else if on.isEmpty then finish c .ok 0 s
  else on.foldl (fun s n => [0, 1, 2, 3].foldl (testEngine c n) s) s

def execSelftestPatrol (c : CmdRef) (cores : BitVec 256) (s : State) : Ans :=
  .next (runCmd (.selftestPatrol c cores) c false s (patrolBody c cores))

/-- A tile passes through the CRC generator and checker of each core's copy unit and comes back as it was: no core fails. -/
def loopbackBody (c : CmdRef) (cores : BitVec 256) (_ : Cmd) (s : State) : State :=
  if !coresAllowed s c (mapCores cores) then finishFail c (fParam rRange 20) s else finish c .ok 0 s

def execSelftestLoopback (c : CmdRef) (cores : BitVec 256) (s : State) : Ans :=
  .next (runCmd (.selftestLoopback c cores) c false s (loopbackBody c cores))

/-! ### DUMP -/

/-- Write one 4 KiB unit of a source. -/
def Work.dumpUnit (w : Work) (dst : Bref) (g : Seg) (src : List Byte) (i : Nat) : Work :=
  w.storeBytes 10 dst.seg.toNat (placeOf w.s g (dst.off.toNat + 4096 * i)) (slice src (4096 * i) 4096)

/-- Copy a source to DST in whole 4 KiB units, at most MAX_BYTES; the detail is the units written. -/
def dumpUnits (maxBytes : BitVec 32) (src : List Byte) : Nat := min (maxBytes.toNat / 4096) (ceilDiv src.length 4096)

def dumpWork (c : CmdRef) (dst : Bref) (maxBytes : BitVec 32) (src : List Byte) (e : Cmd) (s : State) : Work :=
  let n := dumpUnits maxBytes src
  let (w, g) := (Work.start c e.core s).bytesRef 10 dst (4096 * n) rtWrite
  w.each (fun i w => w.dumpUnit dst g src i) n 0

def dumpBody (c : CmdRef) (dst : Bref) (maxBytes : BitVec 32) (src : List Byte) (e : Cmd) (s : State) : State :=
  (dumpWork c dst maxBytes src e s).finish (min (dumpUnits maxBytes src) 65535)

/-- The 64 KiB register block of a core. -/
def coreBlock (s : State) (n : Nat) : List Byte :=
  (List.range 8192).flatMap fun i => leBytes 8 (readReg s (0x1000000 + 0x10000 * n + 8 * i))

def execDumpCoreRegs (c : CmdRef) (core : BitVec 8) (dst : Bref) (maxBytes : BitVec 32) (s : State) : Ans :=
  .next (runCmd (.dumpCoreRegs c core dst maxBytes) c true s fun e s =>
    if bitAt (partOf s (ctxOf s c.ctx.toNat).part).cores core.toNat then dumpBody c dst maxBytes (coreBlock s core.toNat) e s
    else finishFail c (fParam rRange 17) s)

/-- A spilled half: a header word with its anchor and flags, 2,048 integers, 2,048 tags (R77). -/
def Half.bytes (h : Half) : List Byte :=
  let at_ (i : Nat) : Acc := Assoc.get (fun _ => Acc.zero) h.accs i
  leBytes 8 (h.anchor.toNat + bnat h.live * 65536 + bnat h.ovf * 131072 + bnat h.trunc * 262144) ++
  ((List.range 2048).flatMap fun i => leBytes 16 (at_ i).int.toNat) ++
  ((List.range 512).flatMap fun j => leBytes 1 (((List.range 4).map fun k => (at_ (4 * j + k)).tag.code * 4 ^ k).sum))

/-- The halves that a context's chains hold in the spill area, by ascending core. -/
def spillBytes (s : State) (x : Nat) : List Byte :=
  s.cores.flatMap fun e => (e.2.spilled.filter (·.ctx == x)).flatMap fun p =>
    (if p.h0.live then p.h0.bytes else []) ++ (if p.h1.live then p.h1.bytes else [])

def execDumpSpill (c : CmdRef) (dst : Bref) (maxBytes : BitVec 32) (s : State) : Ans :=
  .next (runCmd (.dumpSpill c dst maxBytes) c true s fun e s => dumpBody c dst maxBytes (spillBytes s c.ctx.toNat) e s)

def execDumpLedger (c : CmdRef) (dst : Bref) (maxBytes : BitVec 32) (s : State) : Ans :=
  .next (runCmd (.dumpLedger c dst maxBytes) c true s fun e s =>
    if (queueOf s c.queue.toNat).desc.admin then
      dumpBody c dst maxBytes (s.faults.ring.reverse.flatMap fun r => r.bytes) e s
    else finishFail c (fParam 0x42 0) s)

end Sys2Proof.Machine
end

