-- ==== Sys2Proof/Machine/FabMsgs.lean ====
section
/-! DEFINITION. The messages of the fabric as their destination acts on them (R472, R474, R478, R480, R484 to R487), remote
tally operations (R407), collectives in flight, and the remote port of a larder (R178). -/

namespace Sys2Proof.Machine

open Sys2Proof

/-! ### Delivery (R478, R480) -/

/-- A message in transit goes on with one hop less, or is discarded (R478). -/
def forward (kind : Nat) (h : MsgHdr) (args : List Nat) (bs : List Byte) (s : State) : State :=
  if h.ttl.toNat ≤ 1 then incF FAB_TTL_DROPS FAB_TTL_DROPS_DROPS 1 s
  else launch ⟨kind, h.src.toNat, h.dest.toNat, h.cls.toNat, h.seq.toNat, h.ttl.toNat - 1, h.retx, args, bs⟩ s

/-- An ACK: the status and detail of a request (R472). -/
def sendAck (src cls seq : Nat) (f : Fail) (s : State) : State := launch (ownMsg s 0x04 src cls seq false [f.1, f.2] []) s

def okAck : Fail := (0, 0)

/-- A request of another module: applied only if its number is the next expected, acknowledged again if it is earlier,
discarded if it is later (R480). `apply` answers its status. -/
def receiveThen (after : State → State) (kind : Nat) (h : MsgHdr) (args : List Nat) (bs : List Byte) (apply : State → State × Fail)
    (s : State) : State :=
  if h.dest.toNat ≠ moduleId s then forward kind h args bs s
  else
    let k := h.src.toNat * 4 + h.cls.toNat
    let want := Assoc.get (fun _ => 0) s.fab.expected k
    if h.seq.toNat = want then
      let (s1, f) := apply { s with fab := { s.fab with expected := Assoc.put (fun _ => 0) s.fab.expected k ((want + 1) % 2 ^ 32) } }
      let s2 := if f.1 = 0 then s1 else { s1 with fab := { s1.fab with faultAcks := s1.fab.faultAcks ++ [(k, want, f.1, f.2)] } }
      after (sendAck h.src.toNat h.cls.toNat want f s2)
    else if counterBefore h.seq (BitVec.ofNat 32 want) then
      sendAck h.src.toNat h.cls.toNat h.seq.toNat
        (((s.fab.faultAcks.find? fun e => e.1 == k && e.2.1 == h.seq.toNat).map (·.2.2)).getD okAck) s
    else s

/-- A request after which a FENCE may be able to go on. -/
def receive (kind : Nat) (h : MsgHdr) (args : List Nat) (bs : List Byte) (apply : State → State × Fail) (s : State) : State :=
  receiveThen settle kind h args bs apply s

/-! ### Parish commits (R327 to R329) -/

/-- A message of Table 10-5: a request like every other, of which nothing but the commit depends. -/
def receiveEpoch (h : MsgHdr) (args : List Nat) (apply : State → State) (s : State) : State :=
  receiveThen id 0x08 h args [] (fun s => (apply s, okAck)) s

def execPrepare (h : MsgHdr) (handle : BitVec 16) (slot : BitVec 8) (epoch : BitVec 32) (bell : BitVec 64) (period : BitVec 8)
    (s : State) : Ans :=
  .next (receiveEpoch h [0, handle.toNat, slot.toNat, epoch.toNat, bell.toNat, period.toNat]
    (prepared h.src.toNat handle.toNat slot.toNat epoch.toNat bell.toNat period.toNat) s)

def execVote (h : MsgHdr) (handle : BitVec 16) (kind : VoteKind) (s : State) : Ans :=
  .next (receiveEpoch h [1, handle.toNat, voteNum kind] (voted h.src.toNat handle.toNat kind) s)

def execDecide (h : MsgHdr) (d : Decision) (s : State) : Ans :=
  .next (receiveEpoch h [2, d.handle.toNat, d.bell.toNat] (decided d.handle.toNat d.bell.toNat) s)

/-- ABORT ends a commit's part here (R329), or frees the slots of a collective (R485). -/
def execAbort (m : AbortMsg) (s : State) : Ans :=
  match m.of with
  | .commit handle => .next (receiveEpoch m.hdr [3, handle.toNat] (aborted handle.toNat) s)
  | .collective root coll => .next (receiveEpoch m.hdr [3, root.toNat, coll.toNat] (freeColl root.toNat coll.toNat) s)

/-! ### Reads and writes (R345) -/

/-- The target segment a remote access names. -/
def remoteSeg (s : State) (r : RemoteRef) : Seg :=
  { Seg.ofNat 0 0 with cls := clsRemote, module := moduleId s, rseg := r.seg.toNat, rctx := r.ctx.toNat }

/-- Where a remote access lands, or its fault (Tables 11-5a, 14-4). -/
def remotePlace (s : State) (sender : Nat) (r : RemoteRef) (n : Nat) (write : Bool) : Except Fail (Seg × Place) :=
  let g := remoteSeg s r
  match exportFault s 0 0 (if write then rtWrite else rtRead) sender g r.off.toNat n with
  | some f => .error f
  | none =>
    match selfTarget s g with
    | none => .error (fSeg 0 0 rNoSegment)
    | some t =>
      let p := localPlace s t r.off.toNat
      match placeFault s write 0 0 p with
      | some f => .error f
      | none => .ok (t, p)

/-- The header place of the ring slot at a global address, of a stream that enters this module from the sender (R217). A message
that names no context carries the address in its offset (log 126). -/
def ringHeader (s : State) (sender : Nat) (r : RemoteRef) : Option Place :=
  if r.ctx ≠ 0 ∨ r.seg ≠ 0 then none
  else s.progs.findSome? fun e => e.2.bind fun pr => pr.streams.findSome? fun t =>
    if t.inbound && t.peer == sender then
      let n := stepCore pr t.consumer
      (t.ring.find? fun x => slotPayload n x == r.off.toNat).map fun x => .mem (slotHeader n x) none
    else none

/-- Where the payload and the header of a remote tile write land. -/
def remoteTile (s : State) (sender : Nat) (r : RemoteRef) (n : Nat) : Except Fail (Place × Place) :=
  match ringHeader s sender r with
  | some ph =>
    let p := Place.mem r.off.toNat none
    (match placeFault s true 0 0 p with | some f => .error f | none => .ok (p, ph))
  | none =>
    match remotePlace s sender r n true with
    | .error f => .error f
    | .ok (t, p) => .ok (p, localPlace s t (t.headerOff (r.off.toNat / 4096)))

/-- A write of another module: raw bytes, or a tile, whose header takes its place in the target segment or beside its ring slot
(R46, R54, R217). -/
def remoteWrite (sender : Nat) (r : RemoteRef) (bs : List Byte) (tile : Bool) (s : State) : State × Fail :=
  if tile then
    match remoteTile s sender r bs.length with
    | .error f => (s, f)
    | .ok (p, ph) =>
      let old := Header.ofBytes (placeRead s ph 64)
      let x := (Tile.mk (Header.ofBytes (slice bs 4096 64)) (bs.take 4096)).sealed (genOpen old.gen)
      (placeWrite (0, 0) ph x.hdr.toBytes .none (placeWrite (0, 0) p (bs.take 4096) .none
        (openTile 0 0 ph old.gen .none (wakeLarder p s))), okAck)
  else match remotePlace s sender r bs.length true with
    | .error f => (s, f)
    | .ok (_, p) => (placeWrite (0, 0) p bs .none (wakeLarder p s), okAck)

/-- Does a request of another module reach the larder of a core that a spare is replacing? It is held before it is applied. -/
def remoteHeld (s : State) (h : MsgHdr) (r : RemoteRef) (n : Nat) (write tile : Bool) : Bool :=
  h.dest.toNat == moduleId s && (match (if tile then (remoteTile s h.src.toNat r n).map (·.1)
      else (remotePlace s h.src.toNat r n write).map (·.2)) with
    | .error _ => false
    | .ok p => placeHeld s p)

def execFabWrite (h : MsgHdr) (r : RemoteRef) (bytes : List (BitVec 8)) (tile : Bool) (s : State) : Ans :=
  if remoteHeld s h r bytes.length true tile then .next (holdAccess (.fabWrite h r bytes tile) s)
  else .next (receive 0x01 h [r.ctx.toNat, r.seg.toNat, r.off.toNat, bnat tile] bytes (remoteWrite h.src.toNat r bytes tile) s)

/-- A read of another module is answered with the data, poison marked. -/
def remoteRead (h : MsgHdr) (r : RemoteRef) (n : Nat) (s : State) : State × Fail :=
  match remotePlace s h.src.toNat r n false with
  | .error f => (s, f)
  | .ok (_, p) =>
    let bad := placePoison s p n
    let s1 := wakeLarder p (if bad then notePoisonRead s p else s)
    (launch (ownMsg s1 0x03 h.src.toNat 2 h.seq.toNat false [bnat bad] (placeRead s1 p n)) s1, okAck)

def execReadReq (h : MsgHdr) (r : RemoteRef) (len : BitVec 16) (s : State) : Ans :=
  if remoteHeld s h r len.toNat false false then .next (holdAccess (.readReq h r len) s)
  else .next (receive 0x02 h [r.ctx.toNat, r.seg.toNat, r.off.toNat, len.toNat] [] (remoteRead h r len.toNat) s)

def isReq (h : MsgHdr) (r : OutReq) : Bool := r.dest == h.src.toNat && r.cls == h.cls.toNat && r.seq == h.seq.toNat

/-- Read data reaches the requester. The bytes are the free value that the read took. -/
def execReadResp (h : MsgHdr) (bytes : List (BitVec 8)) (poison : Bool) (s : State) : Ans :=
  if h.dest.toNat ≠ moduleId s then .next (forward 0x03 h [bnat poison] bytes s)
  else match s.fab.outstanding.find? fun r => isReq h r && r.kind == 2 with
    | some r => .next (if poison then settle (poisonedData r.owner r.slot (.far r.dest (r.args.headD 0)) s) else s)
    | none => .next s

/-- A fault that a target returned, as if it were local (R345, R472). -/
def asLocal (r : OutReq) (f : Fail) : Fail :=
  if f.1 = Status.segFault.code then fSeg r.slot r.seg (f.2 % 256) else f

/-- What an acknowledged request leaves to do: SIGNAL_REMOTE completes (R290), the adds that waited for a stream's writes go
out (R217), a combined contribution acknowledges its parts (R485). -/
def acked (r : OutReq) (s : State) : State :=
  match r.owner with
  | .cmd c =>
    (match (cmdOf s c).instr with
    | some (.signalRemote ..) => if r.kind = 5 then finish c .ok 0 s else s
    | _ => flushRuns c.ctx.toNat s)
  | _ => s

def execAck (h : MsgHdr) (status detail : BitVec 16) (s : State) : Ans :=
  if h.dest.toNat ≠ moduleId s then .next (forward 0x04 h [status.toNat, detail.toNat] [] s)
  else match s.fab.outstanding.find? fun r => isReq h r && r.sent with
    | none => .next s
    | some r =>
      let f : Fail := (status.toNat, detail.toNat)
      let s1 := { s with fab := { s.fab with outstanding := s.fab.outstanding.filter fun x => !isReq h x } }
      let s2 := if failing f.1 then failBarrier (asLocal r f) r.owner s1 else acked r s1
      .next (settle (sendWaiting (r.parts.foldl (fun s p => sendAck p.1 1 p.2 f s) s2)))

/-! ### Remote tally operations (R407, R487) -/

/-- Is a sender a version-2 neighbour? -/
def senderV2 (s : State) (m : Nat) : Bool := (routeOf s m).v2

/-- The operation on the target entry: exported to the sender, its die not fenced; a release at the message's scope. -/
def remoteTally (src : Nat) (op : TallyOpKind) (t : TallyRef) (n scope : Nat) (s : State) : State × Fail :=
  let die := t.die.toNat
  let i := t.index.toNat
  let e := tallyOf s die i
  let v2 := senderV2 s src
  let lvl := if v2 then 3 else scope
  if isFenced s domDie die then (s, fFenced domDie die)
  else if 4 < die ∨ tallyCount die ≤ i ∨ !exportedTo e src ∨ (v2 && taPair e.attr.toNat) then (s, fSeg 11 0 rTally)
  else
    let (s1, f) := match op with
      | .add => addWithPartner die i n lvl (scopeInst src 0 0) s
      | .sub => applySub die i n lvl (scopeInst src 0 0) s
    (s1, f.getD okAck)

def execTallyOp (h : MsgHdr) (op : TallyOpKind) (t : TallyRef) (n : BitVec 64) (scope : BitVec 3) (s : State) : Ans :=
  let code := match op with | .add => 0 | .sub => 1
  .next (receive 0x05 h [tallyKey t.die.toNat t.index.toNat, code, n.toNat, scope.toNat] []
    (remoteTally h.src.toNat op t n.toNat scope.toNat) s)

/-! ### Collectives (R484 to R486) -/

def descOf (s : State) (root coll : Nat) : Option CollDesc := s.fab.descs.find? fun d => d.root == root && d.coll == coll

def isSlot (root coll tile : Nat) (x : CollSlot) : Bool := x.root == root && x.coll == coll && x.tile == tile

/-- Add a contribution to a slot: exact integers, tags, flags, count (R107, R121, R484, R485). -/
def combine (x : CollSlot) (m : CollMsg) (h : MsgHdr) : CollSlot :=
  let sums := (x.accs.zip (m.data.map fun v => Acc.ofPattern v.toNat)).map fun (a, b) => a.combine b
  let spills := m.ovf || sums.any (·.2)
  { x with
    count := x.count + m.count.toNat
    trunc := x.trunc || m.trunc
    ovf := x.ovf || spills
    ovfPort := if !x.ovf && spills then h.port.toNat else x.ovfPort
    accs := sums.map (·.1)
    parts := x.parts ++ [(h.src.toNat, h.seq.toNat)] }

/-- A slot that starts with its first contribution. -/
def startSlot (m : CollMsg) (h : MsgHdr) : CollSlot where
  root := m.root.toNat
  coll := m.coll.toNat
  tile := m.tile.toNat
  count := m.count.toNat
  anchor := m.anchor.toNat
  trunc := m.trunc
  ovf := m.ovf
  ovfPort := h.port.toNat
  accs := m.data.map fun v => Acc.ofPattern v.toNat
  die := h.port.toNat / 4
  parts := [(h.src.toNat, h.seq.toNat)]

def dropSlot (root coll tile : Nat) (s : State) : State :=
  { s with fab := { s.fab with slots := s.fab.slots.filter fun x => !isSlot root coll tile x } }

def putSlot (x : CollSlot) (s : State) : State :=
  let s1 := dropSlot x.root x.coll x.tile s
  { s1 with fab := { s1.fab with slots := s1.fab.slots ++ [x] } }

/-- The root step ends: a command, or a step of a run. -/
def collDone (d : CollDesc) (f : Option Fail) (trunc : Bool) (s : State) : State :=
  match f, d.owner with
  | some f, o => failBarrier f o s
  | none, .cmd c => finish c (if trunc then .okTrunc else .ok) 0 s
  | none, .step h r i => reap h.toNat (modRun h.toNat r.toNat (fun x => { x with done := setInsert x.done i.toNat, trunc := x.trunc || trunc }) s)
  | none, .none => s

/-- The epoch of the command or step that a collective's root serves (Table 02-5). -/
def collEpoch (s : State) (d : CollDesc) : Nat :=
  match d.owner with
  | .step h r i => ((atOf s h.toNat r.toNat i.toNat).map At.epoch).getD 0
  | _ => 0

/-- The root writes the destination tile once every contribution has been counted (R54, R484, R485). DESIGN CHOICE (log 129): its
PROD_UNIT names an engine's kind with index 0 and the core of the descriptor. -/
def collWrite (d : CollDesc) (x : CollSlot) (s : State) : State :=
  let a := ofTwos 16 x.anchor
  let (w, g) := ({ Work.start d.cmd d.core s with parks := false }).tilesRef 8 d.dest (d.dest.tile.toNat + x.tile) rtWrite
  let coords := (List.range (d.rows * d.cols)).map fun c => (x.tile, c)
  let (pay, sat, mexp) := drainTile d.fmt a none coords x.accs
  let hd (fl : Nat) : Header := w.hdr d.fmt fl d.rows d.cols mexp 0 0 (collEpoch s d)
  let i := d.dest.tile.toNat + x.tile
  if w.failed then collDone d w.fail false w.s
  else if x.ovf then
    let f : Fail := (Status.anchorOverflow.code, x.ovfPort % 256 * 256 + 16 + 8)
    collDone d (some f) false ((w.stop f).storeInvalid 8 d.dest.seg.toNat g i (hd 0)).s
  else
    let w1 := w.store 8 d.dest.seg.toNat g i (hd (hdrFlags false sat x.trunc false)) pay
    collDone d w1.fail x.trunc w1.s

/-- A full slot goes on toward the root, as one message, or is the root's result (R484). -/
def slotFull (d : CollDesc) (x : CollSlot) (s : State) : State :=
  let s1 := dropSlot x.root x.coll x.tile s
  if x.root = moduleId s then collWrite d x s1
  else sendReqAt (0, 0) x.parts x.root 1 0x06 [x.root, x.coll, x.tile, x.count, x.anchor, bnat x.trunc, bnat x.ovf]
    (x.accs.flatMap fun a => leBytes 16 a.pattern) .none s1

/-- Was this contribution combined before? -/
def counted (s : State) (h : MsgHdr) : Bool :=
  let p := (h.src.toNat, h.seq.toNat)
  s.fab.slots.any (fun x => x.parts.contains p) || s.fab.outstanding.any (fun r => r.parts.contains p)

/-- Combine at a module that holds a descriptor; none where no slot is free or the anchors differ below the root. -/
def collCombine (d : CollDesc) (h : MsgHdr) (m : CollMsg) (s : State) : Option State :=
  let die := h.port.toNat / 4
  let put (x : CollSlot) : State :=
    let s1 := incF FAB_COMBINED FAB_COMBINED_COMBINED 1 (putSlot x s)
    if d.expect ≤ x.count then slotFull d x s1 else s1
  match s.fab.slots.find? (isSlot m.root.toNat m.coll.toNat m.tile.toNat) with
  | some x =>
    if x.anchor = m.anchor.toNat then some (put (combine x m h))
    else if d.root = moduleId s then
      some (abortColl d (fMismatch 0 .unexpected) [] s)
    else none
  | none => if 1024 ≤ (s.fab.slots.filter (·.die == die)).length then none else some (put (startSlot m h))

def collArgs (m : CollMsg) : List Nat :=
  [m.root.toNat, m.coll.toNat, m.tile.toNat, m.count.toNat, m.anchor.toNat, bnat m.trunc, bnat m.ovf]

/-- At the root a contribution is applied in order and acknowledged; below it a combining module counts it once, and
acknowledges it when the root has acknowledged the sum. -/
def execCollAdd (h : MsgHdr) (m : CollMsg) (s : State) : Ans :=
  let bs := m.data.flatMap fun v => leBytes 16 v.toNat
  let pass (s : State) : State := forward 0x06 h (collArgs m) bs s
  match descOf s m.root.toNat m.coll.toNat with
  | none => .next (if h.dest.toNat = moduleId s then s else pass s)
  | some d =>
    if m.root.toNat = moduleId s then
      let k := h.src.toNat * 4 + h.cls.toNat
      let next := decide (h.seq.toNat = Assoc.get (fun _ => 0) s.fab.expected k)
      if next && (collCombine d h m s).isNone then .next s
      else .next (receive 0x06 h (collArgs m) bs (fun s => ((collCombine d h m s).getD s, okAck)) s)
    else if counted s h then .next s
    else .next (settle ((collCombine d h m s).getD (pass s)))

/-- Fields of a partial word (Table 04-4). -/
def cmMaxa (w : Nat) : Int := ofTwos 16 (bits w 31 16)
def cmMaxb (w : Nat) : Int := ofTwos 16 (bits w 47 32)
def cmKlog (w : Nat) : Nat := bits w 55 48
def cmNonfinite (w : Nat) : Bool := bitAt w 57

/-- Two partial words combined: signed maxima, NONFINITE; the anchor is formed at the root (R109, R486). -/
def combineMax (a b : Nat) : Nat :=
  let ma := max (cmMaxa a) (cmMaxa b)
  let mb := max (cmMaxb a) (cmMaxb b)
  AnchorScan.word ⟨anchorOf ma mb (2 ^ cmKlog a), ma, mb, cmKlog a, decide (ma = -32768) || decide (mb = -32768),
    cmNonfinite a || cmNonfinite b⟩

/-- The finished word is written where a participant asked for it, and goes on down the tree (R115, R486). -/
def maxDown (d : CollDesc) (x : MaxSlot) (s : State) : State :=
  let s0 := { s with fab := { s.fab with maxSlots := s.fab.maxSlots.filter fun y => !(y.root == x.root && y.coll == x.coll) } }
  let (w, g) := (Work.start d.cmd d.core s0).bytesRef 9 d.word 8 rtWrite
  let s1 :=
    if w.failed then collDone d w.fail false w.s
    else if x.bad then collDone d (some (fParam 0x02 0)) false w.s
    else
      let p := placeOf w.s g d.word.off.toNat
      match placeFault w.s true 9 d.word.seg.toNat p with
      | some f => collDone d (some f) false w.s
      | none => collDone d none false (placeWrite (9, d.word.seg.toNat) p (leBytes 8 x.word) (.cmd d.cmd) w.s)
  (x.parts.foldl (fun l p => setInsert l p.1) []).foldl (fun s m => sendReq m 1 0x07 [x.root, x.coll, bnat x.bad, x.word] [] .none s) s1

/-- A partial word is combined on its way up; the root's word comes back down from the root (R486). -/
def collMaxAt (d : CollDesc) (h : MsgHdr) (m : CollMaxMsg) (s : State) : State :=
  let old := s.fab.maxSlots.find? fun x => x.root == d.root && x.coll == d.coll
  let from_ := (h.src.toNat, h.seq.toNat)
  if h.src.toNat = d.root then maxDown d ⟨d.root, d.coll, 0, m.word.toNat, false, (old.map (·.parts)).getD []⟩ s
  else
    let x : MaxSlot := match old with
      | none => ⟨d.root, d.coll, m.count.toNat, m.word.toNat, false, [from_]⟩
      | some y => ⟨d.root, d.coll, y.count + m.count.toNat, combineMax y.word m.word.toNat, y.bad || cmKlog y.word != cmKlog m.word.toNat,
          y.parts ++ [from_]⟩
    let s1 := { s with fab := { s.fab with
      maxSlots := (s.fab.maxSlots.filter fun y => !(y.root == d.root && y.coll == d.coll)) ++ [x] } }
    if x.count < d.expect then s1
    else if d.root = moduleId s then maxDown d { x with word := combineMax x.word x.word } s1
    else sendReq d.root 1 0x07 [d.root, d.coll, x.count, x.word] [] .none s1

def execCollMax (h : MsgHdr) (m : CollMaxMsg) (s : State) : Ans :=
  let args := [m.root.toNat, m.coll.toNat, m.count.toNat, m.word.toNat]
  match descOf s m.root.toNat m.coll.toNat with
  | none => .next (if h.dest.toNat = moduleId s then s else forward 0x07 h args [] s)
  | some d =>
    .next (receive 0x07 { h with dest := BitVec.ofNat 16 (moduleId s) } args [] (fun s => (collMaxAt d h m s, okAck)) s)

/-! ### The remote port of a larder (R178, R180, R195, R430, R431) -/

/-- The code of an agent in ORD_ERR_SRC (Table 14-12), with its unit. -/
def srcOf : Agent → Nat
  | .host n _ => 4 * 256 + n.toNat
  | .portA | .portB => 4 * 256
  | .reeve d => 5 * 256 + d.toNat
  | .warden | .mailbox => 5 * 256

/-- An access to an unpopulated address: of a host core, a load or a store, it takes an access fault (R25); a load of another agent
is answered as failed, and its store is dropped. -/
def noTarget (w : Agent) (store : Bool) (s : State) : State :=
  match w with
  | .host .. => loadAnswer [] true s
  | _ => if store then s else loadAnswer [] true s

/-- A load or store of a host core, another sequencer or a port in a larder. A load of poison, of an unpopulated address or
of a fenced larder takes an access fault; a store to a fenced larder is declared failed. One that reaches the larder of a core
that a spare is replacing is held (R197). -/
def execRemotePortAccess (w : Agent) (addr : BitVec 48) (write : Option (List (BitVec 8))) (len : BitVec 7) (s : State) : Ans :=
  let a := addr.toNat
  let size := match write with | some bs => bs.length | none => len.toNat
  match tgtOf s a with
  | .larder n =>
    let p := Place.mem a none
    if larderBase n + larderBytes < a + size then .next (noTarget w write.isSome s)
    else if placeHeld s p then .next (holdAccess (.port w addr write len) s)
    else match write with
    | some bs =>
      if (refusal s true (.larder n)).isSome then .next (storeFailed (.larder (BitVec.ofNat 8 n)) a (srcOf w) 0 .none s)
      else .next (writeMem a bs (wakeLarder p s))
    | none =>
      if (refusal s false (.larder n)).isSome then .next (loadAnswer [] true s)
      else
        let s1 := wakeLarder p s
        if poisoned s1 a len.toNat then .next (loadAnswer [] true (notePoisonRead s1 p))
        else .next (loadAnswer (readMem s1 a len.toNat) false s1)
  | _ => .next (noTarget w write.isSome s)

end Sys2Proof.Machine
end

