-- ==== Sys2Proof/Machine/Held.lean ====
section
/-! DEFINITION. A spare takes a core's number, or a fence stops it, and the accesses that were held for it are served (R197,
R198, R571, R573); the fence of one stile, which may take a die, a stack or a site with it. -/

namespace Sys2Proof.Machine

open Sys2Proof

/-- The state after an event that answers a next state; the state before it where it does not. -/
def orSame (s : State) : Ans → State
  | .next t => t
  | _ => s

/-- Serve a held access: one whose core is still being replaced is held again. -/
def serveHeld (a : HeldAccess) (s : State) : State :=
  orSame s (match a with
    | .fabWrite h r bytes tile => execFabWrite h r bytes tile s
    | .readReq h r len => execReadReq h r len s
    | .port w addr write len => execRemotePortAccess w addr write len s
    | .bar4Write b off bytes => execBar4Write b off bytes s
    | .bar4Read b off len => execBar4Read b off len s
    | .guestRead g tag a n => execGuestRead g tag a n s
    | .guestWrite g tag a bytes bad => execGuestWrite g tag a bytes bad s
    | .guestAtomic g tag a r => execGuestAtomic g tag a r s)

/-- Serve, in their order, the accesses that have been held. -/
def serveAllHeld (s : State) : State := s.heldPort.foldl (fun s a => serveHeld a s) { s with heldPort := [] }

def execSpareMapIn (core : BitVec 8) (s : State) : Ans := .next (serveAllHeld (mapIn core.toNat s))

/-- The hourly patrol of an unused spare, or that of a spare being woken for a core (R571, R573). -/
def execSparePatrol (die : BitVec 2) (phys : BitVec 7) (failed : BitVec 4) (s : State) : Ans :=
  .next (serveAllHeld (sparePatrol die.toNat phys.toNat failed s))

/-- A die fence stops a mapping: its rules answer what was held (R198, Table 06-4). -/
def execDieFence (die : BitVec 2) (s : State) : Ans := .next (serveAllHeld (dieFence die.toNat s))

/-- A fence named by an event (R556). -/
def execDomainFence (d : DomainRef) (s : State) : Ans :=
  .next (match d with
    | .core _ | .die _ => serveAllHeld (fenceDomain d s)
    | _ => fenceDomain d s)

/-! ### The owl (R567, R568) -/

/-- The owl's look at a compute die: one that has fallen silent is fenced. -/
def lookDie (d : Nat) (s : State) : State :=
  lookAt d (getF s (OWL_BEAT d) OWL_BEAT_BEAT) (s.tray.mainOn && !isFenced s domDie d && !underRung s 4 0)
    (fun s => serveAllHeld (dieFence d (orReg OWL_STATUS (2 ^ d) s))) s

/-- Its look at the host complex, where software has asked for it: one that has fallen silent is reset. -/
def lookHost (s : State) : State :=
  lookAt 4 (getF s OWL_BEAT_HOST OWL_BEAT_HOST_BEAT)
    (getF s OWL_CTL OWL_CTL_HOST_EN == 1 && getF s HC_STATUS HC_STATUS_STATE == 3)
    (fun s => hostComplexReset 2 (setF OWL_STATUS OWL_STATUS_HOST 1 s)) s

def execOwlCheck (s : State) : Ans := .next (lookHost (lookDie 3 (lookDie 2 (lookDie 1 (lookDie 0 s)))))

/-! ### One stile falls silent (R493, R499, R500, R525) -/

/-- A link is fenced; a die, a site or a stack with no other link is lost with it. -/
def execStileFence (link : BitVec 6) (s : State) : Ans :=
  let i := link.toNat
  if 44 ≤ i then .next s
  else
    let s1 := fenceLink i s
    let (a, b) := linkEnds i
    let lost (s : State) (x : Nat) : State :=
      if x < 4 then (if dieSilent s x then serveAllHeld (dieFence x s) else s)
      else if 19 ≤ x then
        let g := x - 19
        let s2 := if isP s then showLinks g s else s
        if dieSilent s2 x then guestFence (g == 1) s2 else s2
      else if 5 ≤ x ∧ x < 17 ∧ dieSilent s x then fenceStack (x - 5) s
      else s
    .next (lost (lost s1 a) b)

end Sys2Proof.Machine
end

