-- ==== Sys2Proof/Machine/Dispatch.lean ====
section
/-! DEFINITION. One arm per row of the opcode table: the command's effect on everything but the queue. -/

namespace Sys2Proof.Machine

open Sys2Proof

def exec (i : Instr) (s : State) : Host.Outcome State Fault Refusal :=
  match i with
  | .nop c => Sys2Proof.Machine.execNop c s
  | .queueMark c p => Sys2Proof.Machine.execQueueMark c p s
  | .fence c kind => Sys2Proof.Machine.execFence c kind s
  | .copy c p => Sys2Proof.Machine.execCopy c p s
  | .gather c p => Sys2Proof.Machine.execGather c p s
  | .scatter c p => Sys2Proof.Machine.execScatter c p s
  | .zero c p => Sys2Proof.Machine.execZero c p s
  | .cellarRead c p => Sys2Proof.Machine.execCellarRead c p s
  | .cellarWrite c p => Sys2Proof.Machine.execCellarWrite c p s
  | .matmul c p => Sys2Proof.Machine.execMatmul c p s
  | .matmulAcc c p => Sys2Proof.Machine.execMatmulAcc c p s
  | .anchorScan c p => Sys2Proof.Machine.execAnchorScan c p s
  | .reduce c p => Sys2Proof.Machine.execReduce c p s
  | .elementwise c p => Sys2Proof.Machine.execElementwise c p s
  | .func c p => Sys2Proof.Machine.execFunc c p s
  | .softmax c p => Sys2Proof.Machine.execSoftmax c p s
  | .norm c p => Sys2Proof.Machine.execNorm c p s
  | .rowstat c p stats => Sys2Proof.Machine.execRowstat c p stats s
  | .microprogLoad c img bytes => Sys2Proof.Machine.execMicroprogLoad c img bytes s
  | .microprogUnload c set => Sys2Proof.Machine.execMicroprogUnload c set s
  | .tallyAdd c t scope n => Sys2Proof.Machine.execTallyAdd c t scope n s
  | .tallySub c t scope n => Sys2Proof.Machine.execTallySub c t scope n s
  | .tallyWait c t n => Sys2Proof.Machine.execTallyWait c t n s
  | .tallyTake c t n => Sys2Proof.Machine.execTallyTake c t n s
  | .signalRemote c t scope module n => Sys2Proof.Machine.execSignalRemote c t scope module n s
  | .signalHost c p => Sys2Proof.Machine.execSignalHost c p s
  | .signalHostAdd c p => Sys2Proof.Machine.execSignalHostAdd c p s
  | .epochStage c p => Sys2Proof.Machine.execEpochStage c p s
  | .epochCommit c handle slot bell => Sys2Proof.Machine.execEpochCommit c handle slot bell s
  | .epochCommitParish c handle slot bell => Sys2Proof.Machine.execEpochCommitParish c handle slot bell s
  | .epochPin c handle slot => Sys2Proof.Machine.execEpochPin c handle slot s
  | .epochUnpin c handle slot => Sys2Proof.Machine.execEpochUnpin c handle slot s
  | .ctxCreate c part carry segTable => Sys2Proof.Machine.execCtxCreate c part carry segTable s
  | .ctxDestroy c => Sys2Proof.Machine.execCtxDestroy c s
  | .ctxDestroyAbortOnly c => Sys2Proof.Machine.execCtxDestroyAbortOnly c s
  | .segSet c seg desc => Sys2Proof.Machine.execSegSet c seg desc s
  | .segInvalidate c wholePart => Sys2Proof.Machine.execSegInvalidate c wholePart s
  | .allotSet c p => Sys2Proof.Machine.execAllotSet c p s
  | .partSetCores c part map => Sys2Proof.Machine.execPartSetCores c part map s
  | .partSetCaps c part engine stack fabric host priority => Sys2Proof.Machine.execPartSetCaps c part engine stack fabric host priority s
  | .partSetKey c part stack ddr slot => Sys2Proof.Machine.execPartSetKey c part stack ddr slot s
  | .partSetMode c part strict => Sys2Proof.Machine.execPartSetMode c part strict s
  | .partSetTimeouts c part tmo tmo2 => Sys2Proof.Machine.execPartSetTimeouts c part tmo tmo2 s
  | .partSetVectors c part base count kind => Sys2Proof.Machine.execPartSetVectors c part base count kind s
  | .partSetVolumes c part map => Sys2Proof.Machine.execPartSetVolumes c part map s
  | .partSetTalliesGrant c part die first count => Sys2Proof.Machine.execPartSetTalliesGrant c part die first count s
  | .partSetTalliesRevoke c part die first count => Sys2Proof.Machine.execPartSetTalliesRevoke c part die first count s
  | .stepLoad c handle prog len => Sys2Proof.Machine.execStepLoad c handle prog len s
  | .stepUnload c handle => Sys2Proof.Machine.execStepUnload c handle s
  | .stepRun c p => Sys2Proof.Machine.execStepRun c p s
  | .selftestPatrol c cores => Sys2Proof.Machine.execSelftestPatrol c cores s
  | .selftestLoopback c cores => Sys2Proof.Machine.execSelftestLoopback c cores s
  | .dumpCoreRegs c core dst maxBytes => Sys2Proof.Machine.execDumpCoreRegs c core dst maxBytes s
  | .dumpSpill c dst maxBytes => Sys2Proof.Machine.execDumpSpill c dst maxBytes s
  | .dumpLedger c dst maxBytes => Sys2Proof.Machine.execDumpLedger c dst maxBytes s
  | .commandCompletion queue index => Sys2Proof.Machine.execCommandCompletion queue index s
  | .irqHoldoffExpiry queue => Sys2Proof.Machine.execIrqHoldoffExpiry queue s
  | .sqDoorbell queue value => Sys2Proof.Machine.execSqDoorbell queue value s
  | .qEnable queue => Sys2Proof.Machine.execQEnable queue s
  | .qDisable queue => Sys2Proof.Machine.execQDisable queue s
  | .qDisableAbort queue => Sys2Proof.Machine.execQDisableAbort queue s
  | .qRestart queue => Sys2Proof.Machine.execQRestart queue s
  | .queueDrained queue => Sys2Proof.Machine.execQueueDrained queue s
  | .packetFetch queue ext => Sys2Proof.Machine.execPacketFetch queue ext s
  | .packetRetry queue ext => Sys2Proof.Machine.execPacketRetry queue ext s
  | .stepIssue core engine => Sys2Proof.Machine.execStepIssue core engine s
  | .stepBoundary core engine => Sys2Proof.Machine.execStepBoundary core engine s
  | .drain core engine => Sys2Proof.Machine.execDrain core engine s
  | .spill core engine => Sys2Proof.Machine.execSpill core engine s
  | .restore core engine => Sys2Proof.Machine.execRestore core engine s
  | .engHalt w core engine on => Sys2Proof.Machine.execEngHalt w core engine on s
  | .spillNow w core engine => Sys2Proof.Machine.execSpillNow w core engine s
  | .patrolNow w core engine => Sys2Proof.Machine.execPatrolNow w core engine s
  | .patrolDue core engine => Sys2Proof.Machine.execPatrolDue core engine s
  | .patrolStart core engine => Sys2Proof.Machine.execPatrolStart core engine s
  | .patrolComplete core engine failed => Sys2Proof.Machine.execPatrolComplete core engine failed s
  | .engineReset core engine => Sys2Proof.Machine.execEngineReset core engine s
  | .stepWatchdog core unit => Sys2Proof.Machine.execStepWatchdog core unit s
  | .stallSwitch core engine => Sys2Proof.Machine.execStallSwitch core engine s
  | .allotDraw core ctx cls => Sys2Proof.Machine.execAllotDraw core ctx cls s
  | .stagingFetchDone core handle run step => Sys2Proof.Machine.execStagingFetchDone core handle run step s
  | .tierTimeout core cause unit who => Sys2Proof.Machine.execTierTimeout core cause unit who s
  | .coreHold w core on => Sys2Proof.Machine.execCoreHold w core on s
  | .offReq core => Sys2Proof.Machine.execOffReq core s
  | .wake core => Sys2Proof.Machine.execWake core s
  | .wakeHoldExpiry core => Sys2Proof.Machine.execWakeHoldExpiry core s
  | .larderScrub core found => Sys2Proof.Machine.execLarderScrub core found s
  | .cacheFlush core => Sys2Proof.Machine.execCacheFlush core s
  | .zeroLine core addr => Sys2Proof.Machine.execZeroLine core addr s
  | .cacheMissFill core => Sys2Proof.Machine.execCacheMissFill core s
  | .readShared agent addr => Sys2Proof.Machine.execReadShared agent addr s
  | .readUnique agent addr => Sys2Proof.Machine.execReadUnique agent addr s
  | .upgrade agent addr => Sys2Proof.Machine.execUpgrade agent addr s
  | .zeroUnique agent addr => Sys2Proof.Machine.execZeroUnique agent addr s
  | .atomic agent addr req => Sys2Proof.Machine.execAtomic agent addr req s
  | .cleanReq agent addr => Sys2Proof.Machine.execCleanReq agent addr s
  | .flushReq agent addr => Sys2Proof.Machine.execFlushReq agent addr s
  | .invalReq agent addr => Sys2Proof.Machine.execInvalReq agent addr s
  | .snpShared holder addr => Sys2Proof.Machine.execSnpShared holder addr s
  | .snpUnique holder addr => Sys2Proof.Machine.execSnpUnique holder addr s
  | .snpInval holder addr => Sys2Proof.Machine.execSnpInval holder addr s
  | .snpResp holder addr => Sys2Proof.Machine.execSnpResp holder addr s
  | .data agent addr => Sys2Proof.Machine.execData agent addr s
  | .compAck agent addr => Sys2Proof.Machine.execCompAck agent addr s
  | .wbDirty agent addr => Sys2Proof.Machine.execWbDirty agent addr s
  | .wbClean agent addr => Sys2Proof.Machine.execWbClean agent addr s
  | .wbAck agent addr => Sys2Proof.Machine.execWbAck agent addr s
  | .baseDieAtomic addr req => Sys2Proof.Machine.execBaseDieAtomic addr req s
  | .hostComplexReset cause => Sys2Proof.Machine.execHostComplexReset cause s
  | .hostBoot => Sys2Proof.Machine.execHostBoot s
  | .hcReady => Sys2Proof.Machine.execHcReady s
  | .keepWrite w k value => Sys2Proof.Machine.execKeepWrite w k value s
  | .bellEdge schedule => Sys2Proof.Machine.execBellEdge schedule s
  | .localBalanceReset core => Sys2Proof.Machine.execLocalBalanceReset core s
  | .boostPointChange core => Sys2Proof.Machine.execBoostPointChange core s
  | .bellSourceValid source => Sys2Proof.Machine.execBellSourceValid source s
  | .bellLocked => Sys2Proof.Machine.execBellLocked s
  | .bellHoldover => Sys2Proof.Machine.execBellHoldover s
  | .ctxPageStore ctx off bytes value => Sys2Proof.Machine.execCtxPageStore ctx off bytes value s
  | .prepare h handle slot epoch bell period => Sys2Proof.Machine.execPrepare h handle slot epoch bell period s
  | .vote h handle kind => Sys2Proof.Machine.execVote h handle kind s
  | .decide h d => Sys2Proof.Machine.execDecide h d s
  | .abort m => Sys2Proof.Machine.execAbort m s
  | .commitDeadline handle => Sys2Proof.Machine.execCommitDeadline handle s
  | .twAdd t value => Sys2Proof.Machine.execTwAdd t value s
  | .twSub t value => Sys2Proof.Machine.execTwSub t value s
  | .tallyCmdRead => Sys2Proof.Machine.execTallyCmdRead s
  | .tallyCmdWrite => Sys2Proof.Machine.execTallyCmdWrite s
  | .waiterReoffer die => Sys2Proof.Machine.execWaiterReoffer die s
  | .tallyOp h op t n scope => Sys2Proof.Machine.execTallyOp h op t n scope s
  | .descriptorWalk die ctx seg => Sys2Proof.Machine.execDescriptorWalk die ctx seg s
  | .walkTimeout die ctx seg => Sys2Proof.Machine.execWalkTimeout die ctx seg s
  | .stackScrub stack found => Sys2Proof.Machine.execStackScrub stack found s
  | .channelSpareDone stack => Sys2Proof.Machine.execChannelSpareDone stack s
  | .channelFail stack channel => Sys2Proof.Machine.execChannelFail stack channel s
  | .stackFence stack => Sys2Proof.Machine.execStackFence stack s
  | .stackReady stack => Sys2Proof.Machine.execStackReady stack s
  | .ddrControllerReset => Sys2Proof.Machine.execDdrControllerReset s
  | .ddrReady speed => Sys2Proof.Machine.execDdrReady speed s
  | .ddrRepair channel row hard => Sys2Proof.Machine.execDdrRepair channel row hard s
  | .cellarWindowAccess addr write => Sys2Proof.Machine.execCellarWindowAccess addr write s
  | .slowChunkRead volume tile good => Sys2Proof.Machine.execSlowChunkRead volume tile good s
  | .readDisturbRelocate bay block => Sys2Proof.Machine.execReadDisturbRelocate bay block s
  | .retentionRewrite bay block => Sys2Proof.Machine.execRetentionRewrite bay block s
  | .badBlockRetire bay block sparePct => Sys2Proof.Machine.execBadBlockRetire bay block sparePct s
  | .stickInsert bay kind => Sys2Proof.Machine.execStickInsert bay kind s
  | .stickRemove bay => Sys2Proof.Machine.execStickRemove bay s
  | .rebuildComplete bay => Sys2Proof.Machine.execRebuildComplete bay s
  | .adopt bays => Sys2Proof.Machine.execAdopt bays s
  | .storeDeclaredFailed target addr agent engine barrier => Sys2Proof.Machine.execStoreDeclaredFailed target addr agent engine barrier s
  | .portTrain port peer => Sys2Proof.Machine.execPortTrain port peer s
  | .trainingComplete port => Sys2Proof.Machine.execTrainingComplete port s
  | .flitReceive port flit corrected => Sys2Proof.Machine.execFlitReceive port flit corrected s
  | .flitNak port seq => Sys2Proof.Machine.execFlitNak port seq s
  | .laneSwap port lane => Sys2Proof.Machine.execLaneSwap port lane s
  | .portRetrain port goodLanes => Sys2Proof.Machine.execPortRetrain port goodLanes s
  | .fabWrite h r bytes tile => Sys2Proof.Machine.execFabWrite h r bytes tile s
  | .readReq h r len => Sys2Proof.Machine.execReadReq h r len s
  | .readResp h bytes poison => Sys2Proof.Machine.execReadResp h bytes poison s
  | .ack h status detail => Sys2Proof.Machine.execAck h status detail s
  | .collAdd h m => Sys2Proof.Machine.execCollAdd h m s
  | .collMax h m => Sys2Proof.Machine.execCollMax h m s
  | .lsr l => Sys2Proof.Machine.execLsr l s
  | .lsrRefresh => Sys2Proof.Machine.execLsrRefresh s
  | .lsrExpiry origin => Sys2Proof.Machine.execLsrExpiry origin s
  | .routeCompute => Sys2Proof.Machine.execRouteCompute s
  | .e2eRetransmit dest cls => Sys2Proof.Machine.execE2eRetransmit dest cls s
  | .linkTimeout dest cls => Sys2Proof.Machine.execLinkTimeout dest cls s
  | .fabRouteData w value => Sys2Proof.Machine.execFabRouteData w value s
  | .beat link => Sys2Proof.Machine.execBeat link s
  | .stileFence link => Sys2Proof.Machine.execStileFence link s
  | .dieLinkRepair link lane dropped => Sys2Proof.Machine.execDieLinkRepair link lane dropped s
  | .cap g1 r => Sys2Proof.Machine.execCap g1 r s
  | .guestRead g1 tag addr sectors => Sys2Proof.Machine.execGuestRead g1 tag addr sectors s
  | .guestWrite g1 tag addr bytes poison => Sys2Proof.Machine.execGuestWrite g1 tag addr bytes poison s
  | .guestAtomic g1 tag addr req => Sys2Proof.Machine.execGuestAtomic g1 tag addr req s
  | .guestTallyOp g1 tag op t n => Sys2Proof.Machine.execGuestTallyOp g1 tag op t n s
  | .guestIrq g1 tag vector => Sys2Proof.Machine.execGuestIrq g1 tag vector s
  | .guestSnoopTimeout g1 addr => Sys2Proof.Machine.execGuestSnoopTimeout g1 addr s
  | .guestReset g1 => Sys2Proof.Machine.execGuestReset g1 s
  | .guestAccept g1 => Sys2Proof.Machine.execGuestAccept g1 s
  | .dieFence die => Sys2Proof.Machine.execDieFence die s
  | .dieReturn die => Sys2Proof.Machine.execDieReturn die s
  | .extHoldBegin portB cause => Sys2Proof.Machine.execExtHoldBegin portB cause s
  | .extHoldEnd portB l0 bme => Sys2Proof.Machine.execExtHoldEnd portB l0 bme s
  | .extHoldExpiry portB => Sys2Proof.Machine.execExtHoldExpiry portB s
  | .resume portB => Sys2Proof.Machine.execResume portB s
  | .bar4Write portB off bytes => Sys2Proof.Machine.execBar4Write portB off bytes s
  | .bar4Read portB off len => Sys2Proof.Machine.execBar4Read portB off len s
  | .msixUnmask portB entry => Sys2Proof.Machine.execMsixUnmask portB entry s
  | .rootDeviceDma portB addr write len iommuOk => Sys2Proof.Machine.execRootDeviceDma portB addr write len iommuOk s
  | .rootSnoopTimeout portB => Sys2Proof.Machine.execRootSnoopTimeout portB s
  | .powerSample watts milliVolt current estimates => Sys2Proof.Machine.execPowerSample watts milliVolt current estimates s
  | .capUnmet => Sys2Proof.Machine.execCapUnmet s
  | .rampStage core => Sys2Proof.Machine.execRampStage core s
  | .rampStart core rise => Sys2Proof.Machine.execRampStart core rise s
  | .thermalSample readings loads => Sys2Proof.Machine.execThermalSample readings loads s
  | .thermalTrip r celsius => Sys2Proof.Machine.execThermalTrip r celsius s
  | .coolantSample inlet outlet flow held => Sys2Proof.Machine.execCoolantSample inlet outlet flow held s
  | .pwrPeak => Sys2Proof.Machine.execPwrPeak s
  | .domainFence d => Sys2Proof.Machine.execDomainFence d s
  | .drainLimitExpiry d answered discarded => Sys2Proof.Machine.execDrainLimitExpiry d answered discarded s
  | .contextAbort ctx => Sys2Proof.Machine.execContextAbort ctx s
  | .partitionReset p => Sys2Proof.Machine.execPartitionReset p s
  | .chipReset => Sys2Proof.Machine.execChipReset s
  | .modulePowerCycle => Sys2Proof.Machine.execModulePowerCycle s
  | .rungBoundExpiry r => Sys2Proof.Machine.execRungBoundExpiry r s
  | .fltResetReq w value => Sys2Proof.Machine.execFltResetReq w value s
  | .owlCheck => Sys2Proof.Machine.execOwlCheck s
  | .wardenTakeover => Sys2Proof.Machine.execWardenTakeover s
  | .spareMapIn core => Sys2Proof.Machine.execSpareMapIn core s
  | .sparePatrol die phys failed => Sys2Proof.Machine.execSparePatrol die phys failed s
  | .phaseFault supply phase cause => Sys2Proof.Machine.execPhaseFault supply phase cause s
  | .ledgerMirrorWrite => Sys2Proof.Machine.execLedgerMirrorWrite s
  | .crashCapture trigger absent => Sys2Proof.Machine.execCrashCapture trigger absent s
  | .captureCutoff => Sys2Proof.Machine.execCaptureCutoff s
  | .coldStart r => Sys2Proof.Machine.execColdStart r s
  | .warmStart r => Sys2Proof.Machine.execWarmStart r s
  | .requestUpdate c imageLen => Sys2Proof.Machine.execRequestUpdate c imageLen s
  | .verifyComplete => Sys2Proof.Machine.execVerifyComplete s
  | .activateFirmware c => Sys2Proof.Machine.execActivateFirmware c s
  | .wardenActivation ok => Sys2Proof.Machine.execWardenActivation ok s
  | .reeveActivation die ok => Sys2Proof.Machine.execReeveActivation die ok s
  | .stickFwInstall bay ok => Sys2Proof.Machine.execStickFwInstall bay ok s
  | .getMeasurements index => Sys2Proof.Machine.execGetMeasurements index s
  | .spdmRequest k => Sys2Proof.Machine.execSpdmRequest k s
  | .attentionRequest src => Sys2Proof.Machine.execAttentionRequest src s
  | .armedExpiry => Sys2Proof.Machine.execArmedExpiry s
  | .drainDeadline => Sys2Proof.Machine.execDrainDeadline s
  | .release => Sys2Proof.Machine.execRelease s
  | .cancel => Sys2Proof.Machine.execCancel s
  | .safeEntry => Sys2Proof.Machine.execSafeEntry s
  | .leverTouch ms => Sys2Proof.Machine.execLeverTouch ms s
  | .leverPushHome => Sys2Proof.Machine.execLeverPushHome s
  | .bayButton bay => Sys2Proof.Machine.execBayButton bay s
  | .cableEvent port inserted => Sys2Proof.Machine.execCableEvent port inserted s
  | .serviceIdent tag => Sys2Proof.Machine.execServiceIdent tag s
  | .serviceRead tag off => Sys2Proof.Machine.execServiceRead tag off s
  | .serviceLedger tag seq count => Sys2Proof.Machine.execServiceLedger tag seq count s
  | .serviceAttention tag => Sys2Proof.Machine.execServiceAttention tag s
  | .serviceCancel tag => Sys2Proof.Machine.execServiceCancel tag s
  | .serviceLocate tag value => Sys2Proof.Machine.execServiceLocate tag value s
  | .mailboxIdent m => Sys2Proof.Machine.execMailboxIdent m s
  | .regRead m off => Sys2Proof.Machine.execRegRead m off s
  | .ledgerRead m seq count => Sys2Proof.Machine.execLedgerRead m seq count s
  | .mirrorRead m seq count => Sys2Proof.Machine.execMirrorRead m seq count s
  | .captureRead m slot off => Sys2Proof.Machine.execCaptureRead m slot off s
  | .capturePin m slot pin => Sys2Proof.Machine.execCapturePin m slot pin s
  | .captureNow m => Sys2Proof.Machine.execCaptureNow m s
  | .mailboxRung m value => Sys2Proof.Machine.execMailboxRung m value s
  | .hostReset m => Sys2Proof.Machine.execHostReset m s
  | .ddrReset m => Sys2Proof.Machine.execDdrReset m s
  | .powerOff m => Sys2Proof.Machine.execPowerOff m s
  | .powerOn m => Sys2Proof.Machine.execPowerOn m s
  | .powerCycle m => Sys2Proof.Machine.execPowerCycle m s
  | .retire m core => Sys2Proof.Machine.execRetire m core s
  | .service m state => Sys2Proof.Machine.execService m state s
  | .configRead m => Sys2Proof.Machine.execConfigRead m s
  | .configWrite m r => Sys2Proof.Machine.execConfigWrite m r s
  | .setkeyEnrol m slot key => Sys2Proof.Machine.execSetkeyEnrol m slot key s
  | .setkeyRevoke m slot => Sys2Proof.Machine.execSetkeyRevoke m slot s
  | .datakeySet m slot key => Sys2Proof.Machine.execDatakeySet m slot key s
  | .datakeyErase m slot => Sys2Proof.Machine.execDatakeyErase m slot s
  | .certSet m slot chain => Sys2Proof.Machine.execCertSet m slot chain s
  | .anchorSet m slot anchor => Sys2Proof.Machine.execAnchorSet m slot anchor s
  | .svnCommit m component => Sys2Proof.Machine.execSvnCommit m component s
  | .setEventReceiver eid b => Sys2Proof.Machine.execSetEventReceiver eid b s
  | .getSensorReading eid id => Sys2Proof.Machine.execGetSensorReading eid id s
  | .setEffecter m id value => Sys2Proof.Machine.execSetEffecter m id value s
  | .mainInputLoss => Sys2Proof.Machine.execMainInputLoss s
  | .standbyInputLoss mainInRange => Sys2Proof.Machine.execStandbyInputLoss mainInRange s
  | .prsntDeassert => Sys2Proof.Machine.execPrsntDeassert s
  | .cageOvercurrent port => Sys2Proof.Machine.execCageOvercurrent port s
  | .registerWrite w off bytes value => Sys2Proof.Machine.execRegisterWrite w off bytes value s
  | .heartbeat => Sys2Proof.Machine.execHeartbeat s
  | .stickFailure bay => Sys2Proof.Machine.execStickFailure bay s
  | .remotePortAccess w addr write len => Sys2Proof.Machine.execRemotePortAccess w addr write len s
  | .guestResponse g1 tag r => Sys2Proof.Machine.execGuestResponse g1 tag r s
  | .extLinkUp portB gen width => Sys2Proof.Machine.execExtLinkUp portB gen width s
  | .setLoadComplete core => Sys2Proof.Machine.execSetLoadComplete core s
  | .cycleReqTimeout => Sys2Proof.Machine.execCycleReqTimeout s
  | .quiesceAbortTimeout => Sys2Proof.Machine.execQuiesceAbortTimeout s
  | .wardenResetDone ok => Sys2Proof.Machine.execWardenResetDone ok s
  | .requestFirmwareData off bytes => Sys2Proof.Machine.execRequestFirmwareData off bytes s
  | .cancelUpdate => Sys2Proof.Machine.execCancelUpdate s
  | .setEndpointId b eid => Sys2Proof.Machine.execSetEndpointId b eid s
  | .dynamicAddressAssignment addr => Sys2Proof.Machine.execDynamicAddressAssignment addr s
  | .eventAcknowledge id => Sys2Proof.Machine.execEventAcknowledge id s

end Sys2Proof.Machine
end

