-- ==== Sys2Proof/WellFormed.lean ====
section
/-! DEFINITION. Which commands can be sent at all: the ranges of their operands that the field widths do not already
keep. For a packet command these are what the checks of R265 leave; for the other rows, the numbers the module has
(Tables 01-5, 17-1, 20-10). `exec` is defined on every command, well formed or not. -/

namespace Sys2Proof

/-- Contexts 0 to 98,303 (Table 01-5). -/
def ctxInRange (x : BitVec 32) : Bool := decide (x.toNat < 98304)

def CmdRef.wf (c : CmdRef) : Bool := ctxInRange c.ctx

/-- Tallies 0 to 65,535 of a compute die, 0 to 16,383 of the host die (R391). -/
def TallyRef.wf (t : TallyRef) : Bool :=
  decide (t.die.toNat ≤ 4) && (t.die != 4 || decide (t.index.toNat < 16384))

def anchorBitsOk (a : BitVec 16) : Bool := decide (-1024 ≤ a.toInt) && decide (a.toInt ≤ 1023)

def Bref.aligned (r : Bref) (a : Nat) : Bool := decide (r.off.toNat % a = 0)

def AWord.wf : AWord → Bool
  | .default => true
  | .explicit a => anchorBitsOk a
  | .scanned r => r.aligned 8

def CopyP.wf : CopyP → Bool
  | .tiles _ _ n => n != 0
  | .raw a b n => a.aligned 64 && b.aligned 64 && n != 0

def ZeroP.wf : ZeroP → Bool
  | .raw d n => d.aligned 64 && n != 0
  | .tiles _ n layout fmt rows cols anchor =>
    n != 0 &&
    match fmt with
    | none => rows == 0 && cols == 0 && anchor == 0
    | some f => shapeOk f rows.toNat cols.toNat (if layout then rows.toNat else cols.toNat) &&
        if f = .acc128 then anchorBitsOk anchor else anchor == 0

def MatmulP.wf (p : MatmulP) : Bool := p.mt != 0 && p.kt != 0 && p.nt != 0 && p.anchor.wf

def ScanP.wf (p : ScanP) : Bool :=
  p.aRows != 0 && p.aCols != 0 && p.k != 0 && decide (p.k.toNat ≤ 2 ^ 48) && p.res.aligned 8 &&
  match p.b with | none => true | some (_, _, r, c) => r != 0 && c != 0

def ReduceP.wf (p : ReduceP) : Bool := p.tiles != 0 && decide (2 ≤ p.inCount.toNat) && p.anchor.wf

def ElemP.wf (p : ElemP) : Bool :=
  p.tiles != 0 && (p.op == .cvt || p.op.isInt == (p.vfmt == .int32)) && p.fmtOut != .acc128 &&
  (match p.rnd with | .stochastic _ => false | _ => true) && (p.op.uses.1 || p.scalar.isNone) &&
  ((p.op.uses.1 && p.scalar.isNone) || p.y == ⟨0, 0⟩) && (p.op.uses.2 || p.z == ⟨0, 0⟩)

def FuncP.wf (p : FuncP) : Bool := p.tiles != 0 && p.fmtOut != .acc128

def RowP.wf (p : RowP) : Bool :=
  p.rowt != 0 && p.colt != 0 && p.n != 0 && decide (p.n.toNat ≤ 1048576) && p.fmtOut != .acc128 &&
  match p.anchor with | none => true | some a => anchorBitsOk a

/-- What ROWSTAT adds (R159): no set or the heritage set, an output format of Table 09-14, its statistics. -/
def rowstatOk (p : RowP) (st : BitVec 8) : Bool :=
  (p.set == 0 || p.set.toNat == setHeritage) &&
  (p.fmtOut == .fp64 || p.fmtOut == .fp32 || p.fmtOut == .bf16 || p.fmtOut == .fp16) &&
  st != 0 && !bitAt st.toNat 7 && (p.set == 0 || (!bitAt st.toNat 3 && !bitAt st.toNat 4))

def NormP.wf (p : NormP) : Bool := p.row.wf && epsOk p.eps.toNat

def SignalP.wf (p : SignalP) (add : Bool) : Bool :=
  decide (p.irqKind.toNat ≤ 3) && (p.irqKind != 0 || p.vector == 0) &&
  match p.dest with
  | .seg w => w.aligned 8
  | .port _ a => decide (a.toNat % 8 = 0) && !add

def partInRange (p : BitVec 8) : Bool := decide (p.toNat ≤ 15)

/-- Stacks 0 to 11, die links 0 to 43, supplies 0 to 18. -/
def stackInRange (s : BitVec 4) : Bool := decide (s.toNat < 12)
def linkInRange (l : BitVec 6) : Bool := decide (l.toNat < 44)
def supplyInRange (x : BitVec 5) : Bool := decide (x.toNat < 19)

/-- Coherence agents: host cores 0 to 95, accelerator core caches 128 to 383, the ports and the guest sites 384 to 387
(Table 15-4). -/
def cacheAgent (a : BitVec 9) : Bool := decide (a.toNat < 96) || (decide (128 ≤ a.toNat) && decide (a.toNat < 388))

def Agent.wf : Agent → Bool
  | .host c _ => decide (c.toNat < 96)
  | _ => true

/-- An 8-byte aligned offset of the control window. -/
def windowOff (off : BitVec 32) : Bool := decide (off.toNat < 0x4000000) && decide (off.toNat % 8 = 0)

def DomainRef.wf : DomainRef → Bool
  | .partition p => decide (p.toNat ≤ 15)
  | .stack s => stackInRange s
  | _ => true

def RungRef.wf : RungRef → Bool
  | .context x => ctxInRange x
  | _ => true

def Stalled.wf : Stalled → Bool
  | .step .. => true
  | .cmd c => c.wf

def wellFormed : Instr → Bool
  -- packet commands
  | .nop c | .fence c _ | .microprogUnload c _ | .epochPin c _ _ | .epochUnpin c _ _ | .epochCommit c _ _ _
  | .epochCommitParish c _ _ _ | .ctxDestroy c | .ctxDestroyAbortOnly c | .allotSet c _ | .stepUnload c _
  | .selftestPatrol c _ | .selftestLoopback c _ | .stepLoad c _ _ _ | .microprogLoad c _ _ => c.wf
  | .queueMark c p => c.wf && (match p.write with | none => true | some (r, _) => r.aligned 8)
  | .copy c p => c.wf && p.wf
  | .gather c p | .scatter c p => c.wf && p.idx.aligned 8 && p.count != 0
  | .zero c p => c.wf && p.wf
  | .cellarRead c p | .cellarWrite c p => c.wf && p.count != 0
  | .matmul c p => c.wf && p.wf
  | .matmulAcc c p => c.wf && p.base.wf && p.base.seed.isNone
  | .anchorScan c p => c.wf && p.wf
  | .reduce c p => c.wf && p.wf
  | .elementwise c p => c.wf && p.wf
  | .func c p => c.wf && p.wf
  | .softmax c p => c.wf && p.wf && p.anchor.isNone
  | .norm c p => c.wf && p.wf
  | .rowstat c p st => c.wf && p.wf && rowstatOk p st
  | .tallyAdd c t sc n | .tallySub c t sc n => c.wf && t.wf && decide (sc.toNat ≤ 4) && n != 0
  | .tallyWait c t n | .tallyTake c t n => c.wf && t.wf && n != 0
  | .signalRemote c t sc _ n => c.wf && t.wf && (sc == 3 || sc == 4) && n != 0
  | .signalHost c p => c.wf && p.wf false
  | .signalHostAdd c p => c.wf && p.wf true
  | .epochStage c p => c.wf && p.epoch != 0
  | .ctxCreate c part _ _ => c.wf && partInRange part
  | .segSet c seg _ => c.wf && decide (seg.toNat ≤ 15)
  | .segInvalidate c p => c.wf && (match p with | none => true | some p => partInRange p)
  | .partSetTimeouts c p t t2 => c.wf && partInRange p && decide (t.toNat < 2 ^ 48) && decide (t2.toNat < 2 ^ 48)
  | .partSetCores c p _ | .partSetMode c p _ | .partSetVolumes c p _
  | .partSetTalliesGrant c p _ _ _ | .partSetTalliesRevoke c p _ _ _ => c.wf && partInRange p
  | .partSetCaps c p _ _ _ _ pr => c.wf && partInRange p && decide (pr.toNat ≤ 15)
  | .partSetKey c p _ _ slot => c.wf && partInRange p && decide (1 ≤ slot.toNat) && decide (slot.toNat ≤ 15)
  | .partSetVectors c p _ _ k => c.wf && partInRange p && decide (k.toNat ≤ 3)
  | .stepRun c p => c.wf && p.args.aligned 8
  | .dumpCoreRegs c _ r _ | .dumpSpill c r _ | .dumpLedger c r _ => c.wf && r.aligned 64
  -- queues
  | .commandCompletion .. | .irqHoldoffExpiry .. | .sqDoorbell .. | .qEnable .. | .qDisable .. | .qDisableAbort ..
  | .qRestart .. | .queueDrained .. | .packetFetch .. | .packetRetry .. => true
  -- engines and cores
  | .stepIssue .. | .stepBoundary .. | .drain .. | .spill .. | .restore .. | .patrolDue .. | .patrolStart ..
  | .patrolComplete .. | .engineReset .. | .stallSwitch .. | .stagingFetchDone .. | .offReq .. | .wake ..
  | .stepWatchdog .. | .wakeHoldExpiry .. | .larderScrub .. | .cacheFlush .. | .zeroLine .. | .cacheMissFill .. => true
  | .engHalt w _ _ _ | .spillNow w _ _ | .patrolNow w _ _ | .coreHold w _ _ => w.wf
  | .allotDraw _ ctx cls => ctxInRange ctx && cls != 3
  | .tierTimeout _ _ _ who => who.wf
  -- coherence
  | .readShared a _ | .readUnique a _ | .upgrade a _ | .zeroUnique a _ | .atomic a _ _ | .cleanReq a _ | .flushReq a _
  | .invalReq a _ | .snpShared a _ | .snpUnique a _ | .snpInval a _ | .snpResp a _ | .data a _ | .compAck a _
  | .wbDirty a _ | .wbClean a _ | .wbAck a _ => cacheAgent a
  | .baseDieAtomic a _ => decide (a.toNat < 0x018000000000)
  | .hostComplexReset .. | .hostBoot | .hcReady => true
  | .keepWrite w .. => w.wf
  -- bell, epochs
  | .bellEdge .. | .localBalanceReset .. | .boostPointChange .. | .bellLocked | .bellHoldover | .prepare .. | .vote ..
  | .decide .. | .abort .. | .commitDeadline .. => true
  | .bellSourceValid src => decide (1 ≤ src.toNat) && decide (src.toNat ≤ 3)
  | .ctxPageStore x off n _ => ctxInRange x && (n == 1 || n == 2 || n == 4 || n == 8) && decide (off.toNat % n.toNat = 0)
  -- tallies, walks
  | .twAdd t _ | .twSub t _ => t.wf
  | .tallyCmdRead | .tallyCmdWrite => true
  | .waiterReoffer d => decide (d.toNat ≤ 4)
  | .tallyOp _ _ t _ sc => t.wf && (sc == 3 || sc == 4)
  | .descriptorWalk _ x _ | .walkTimeout _ x _ => ctxInRange x
  -- memory tiers
  | .stackScrub k _ | .channelSpareDone k | .channelFail k _ | .stackFence k | .stackReady k => stackInRange k
  | .ddrControllerReset | .ddrReady .. | .ddrRepair .. | .slowChunkRead .. | .readDisturbRelocate .. | .retentionRewrite ..
  | .badBlockRetire .. | .stickInsert .. | .stickRemove .. | .rebuildComplete .. | .adopt .. => true
  | .cellarWindowAccess a _ => decide (0x060000000000 ≤ a.toNat) && decide (a.toNat < 0x070000000000)
  | .storeDeclaredFailed .. => true
  -- fabric
  | .portTrain .. | .trainingComplete .. | .flitReceive .. | .flitNak .. | .portRetrain .. | .readReq .. | .readResp ..
  | .ack .. | .lsr .. | .lsrRefresh | .lsrExpiry .. | .routeCompute | .e2eRetransmit .. | .linkTimeout .. => true
  | .laneSwap _ lane => decide (lane.toNat < 8)
  | .fabWrite _ _ bs _ => decide (bs.length ≤ 4160)
  | .collAdd _ m => m.count != 0 && anchorBitsOk m.anchor
  | .collMax _ m => m.count != 0
  | .fabRouteData w _ => w.wf
  -- die links, guests
  | .beat l | .stileFence l | .dieLinkRepair l _ _ => linkInRange l
  | .cap .. | .guestIrq .. | .guestSnoopTimeout .. | .guestReset .. | .guestAccept .. | .dieFence .. | .dieReturn ..
  | .guestAtomic .. => true
  | .guestRead _ _ _ n => decide (n.toNat ≤ 64)
  | .guestWrite _ _ _ bs _ => decide (bs.length ≤ 4096)
  | .guestTallyOp _ _ _ t _ => t.wf
  -- external hosts
  | .extHoldBegin .. | .extHoldEnd .. | .extHoldExpiry .. | .resume .. | .bar4Write .. | .bar4Read .. | .msixUnmask ..
  | .rootDeviceDma .. | .rootSnoopTimeout .. => true
  -- power and heat
  | .powerSample .. | .capUnmet | .rampStage .. | .rampStart .. | .thermalSample .. | .thermalTrip .. | .coolantSample ..
  | .pwrPeak => true
  -- faults
  | .domainFence d | .drainLimitExpiry d _ _ => d.wf
  | .contextAbort x => ctxInRange x
  | .partitionReset .. | .chipReset | .modulePowerCycle | .owlCheck | .wardenTakeover | .spareMapIn .. | .ledgerMirrorWrite
  | .crashCapture .. | .captureCutoff => true
  | .rungBoundExpiry r => r.wf
  | .fltResetReq w _ => w.wf
  | .sparePatrol _ p _ => decide (p.toNat < 68)
  | .phaseFault x _ _ => supplyInRange x
  -- bring-up, service face
  | .coldStart .. | .warmStart .. | .requestUpdate .. | .verifyComplete | .activateFirmware .. | .wardenActivation ..
  | .reeveActivation .. | .stickFwInstall .. | .spdmRequest .. | .attentionRequest .. | .armedExpiry | .drainDeadline
  | .release | .cancel | .safeEntry | .leverTouch .. | .leverPushHome | .bayButton .. | .cableEvent .. => true
  | .getMeasurements .. => true
  | .serviceIdent .. | .serviceRead .. | .serviceLedger .. | .serviceAttention .. | .serviceCancel .. | .serviceLocate .. => true
  -- management
  | .mailboxIdent .. | .regRead .. | .ledgerRead .. | .mirrorRead .. | .captureRead .. | .capturePin .. | .captureNow ..
  | .mailboxRung .. | .hostReset .. | .ddrReset .. | .powerOff .. | .powerOn .. | .powerCycle .. | .retire .. | .service ..
  | .configRead .. | .configWrite .. | .setkeyEnrol .. | .setkeyRevoke .. | .datakeySet .. | .datakeyErase .. | .certSet ..
  | .anchorSet .. | .svnCommit .. | .setEventReceiver .. | .getSensorReading .. | .setEffecter .. => true
  -- inputs and the rest
  | .mainInputLoss | .standbyInputLoss .. | .prsntDeassert | .cageOvercurrent .. | .heartbeat | .stickFailure .. => true
  | .registerWrite w off n _ => w.wf && decide (off.toNat < 0x4000000) && (n == 1 || n == 2 || n == 4 || n == 8)
  | .remotePortAccess w a _ n =>
    w.wf && decide (0x040000000000 ≤ a.toNat) && decide (a.toNat < 0x050000000000) && decide (n.toNat ≤ 64)
  | .guestResponse .. | .extLinkUp .. | .setLoadComplete .. | .cycleReqTimeout | .quiesceAbortTimeout | .wardenResetDone ..
  | .requestFirmwareData .. | .cancelUpdate | .setEndpointId .. | .eventAcknowledge .. => true
  | .dynamicAddressAssignment a => a != 0

end Sys2Proof
end

