-- ==== Sys2Proof/Safety.lean ====
section
/-! DEFINITION. The terms that statements use: the shape a reachable state keeps, when a packet command's own effect
takes place, and what a state holds of a command that has completed. -/

namespace Sys2Proof.Machine

open Sys2Proof

/-- Everything that is stored sparsely is in its canonical form: equal contents are equal data. -/
structure Canonical (s : State) : Prop where
  mem : Memory.wf s.mem = true
  cellar : Memory.wf s.cellar = true
  regs : Assoc.wf regReset s.regs = true

/-- The entry a packet command runs under. -/
def runEntry (i : Instr) (c : CmdRef) (s : State) : Cmd := { cmdOf s c with instr := some i }

/-- A packet command's own effect takes place now: it may start (R252, R253, R276), it has no result and is not under
way, its context is not aborting, no segment walk holds it up, and a command that needs a core has one, which takes work (R192, R268, R351). -/
structure TakesPlace (i : Instr) (c : CmdRef) (needsCore : Bool) (s : State) : Prop where
  mayStart : mayStart s (runEntry i c s) = true
  fresh : (cmdOf s c).result = none
  notInHand : inHand s c = false
  ctxAlive : (ctxOf s c.ctx.toNat).state ≠ .aborting
  core : needsCore = true → noCore s (runEntry i c s) = none
  coreOn : needsCore = true → coreTakesWork s (runEntry i c s).core = true
  noWalk : s.walks.any (walkFor s (runEntry i c s) i) = false

/-- The command's completion is fixed with this status and detail (R270). -/
def CompletedWith (c : CmdRef) (code detail : Nat) (s : State) : Prop :=
  ∃ at_, (cmdOf s c).result = some (code, detail, at_)

/-- How a packet command with the work `w` answers: its work done, it completes with ST_OK and its detail, or with
ST_OK_TRUNC (R270), and what waited for the descriptors and sets of a parked command goes on (R144, R297); where its
allotment is spent it stays open, parked, and keeps what it has had (R175, R316). -/
def Answers (i : Instr) (s : State) (w : Work) (detail : Nat) : Prop :=
  (w.failed = false → exec i s =
    .next (w.letGo (finish w.c (if w.trunc then .okTrunc else .ok) (if w.trunc then 0 else detail) w.s))) ∧
  (w.parked.isSome = true → exec i s = .next w.park)

/-! ### Families of commands, for the statements that say what a family leaves alone -/

/-- Commands that move, compute or dump data (chapter 09's movement, tensor and function families, DUMP). -/
def isData : Instr → Bool
  | .copy .. | .gather .. | .scatter .. | .zero .. | .cellarRead .. | .cellarWrite .. | .matmul .. | .matmulAcc ..
    | .anchorScan .. | .reduce .. | .elementwise .. | .func .. | .softmax .. | .norm .. | .rowstat .. | .dumpSpill ..
    | .dumpLedger .. | .dumpCoreRegs .. => true
  | _ => false

/-- NOP, QUEUE_MARK and FENCE. -/
def isQueueControl : Instr → Bool
  | .nop .. | .queueMark .. | .fence .. => true
  | _ => false

/-- The TALLY commands of a queue. -/
def isTally : Instr → Bool
  | .tallyAdd .. | .tallySub .. | .tallyWait .. | .tallyTake .. => true
  | _ => false

/-- The SIGNAL commands. -/
def isSignal : Instr → Bool
  | .signalRemote .. | .signalHost .. | .signalHostAdd .. => true
  | _ => false

/-- SIGNAL_REMOTE, which reads and writes no segment. -/
def isRemoteSignal : Instr → Bool
  | .signalRemote .. => true
  | _ => false

/-- The EPOCH commands. -/
def isEpoch : Instr → Bool
  | .epochStage .. | .epochCommit .. | .epochCommitParish .. | .epochPin .. | .epochUnpin .. => true
  | _ => false

/-- PART_SET and the self-tests. -/
def isPart : Instr → Bool
  | .partSetCores .. | .partSetCaps .. | .partSetMode .. | .partSetTimeouts .. | .partSetVectors ..
    | .partSetVolumes .. | .partSetTalliesGrant .. | .partSetTalliesRevoke .. | .partSetKey .. | .selftestLoopback ..
    | .selftestPatrol .. => true
  | _ => false

/-- PART_SET of the timeouts, which shows in its cores' registers at once (R9, R225). -/
def setsTimeouts : Instr → Bool
  | .partSetTimeouts .. => true
  | _ => false

/-- The STEP commands. -/
def isProgram : Instr → Bool
  | .stepLoad .. | .stepUnload .. | .stepRun .. => true
  | _ => false

/-- What moves chains and switches an engine's or a core's control bits. -/
def isEngineStep : Instr → Bool
  | .spill .. | .spillNow .. | .restore .. | .engHalt .. | .patrolNow .. | .patrolDue .. | .patrolStart ..
    | .allotDraw .. | .coreHold .. | .wakeHoldExpiry .. | .setLoadComplete .. => true
  | _ => false

/-- Snoops and answers between caches that move no data to memory. -/
def isSnoop : Instr → Bool
  | .snpShared .. | .snpUnique .. | .snpInval .. | .wbAck .. => true
  | _ => false

/-- Requests and answers of the coherence domain that bring no line to a cache. -/
def isCoherent : Instr → Bool
  | .atomic .. | .cleanReq .. | .flushReq ..
    | .invalReq .. | .snpResp .. | .compAck .. | .wbDirty .. | .wbClean .. | .baseDieAtomic .. => true
  | _ => false

/-- What brings a line to a cache: the current step of a core whose line holds poison, or whose cache fails, ends with it
(R188, R191). -/
def isLineMove : Instr → Bool
  | .readShared .. | .readUnique .. | .upgrade .. | .zeroUnique .. | .data .. | .cacheMissFill .. => true
  | _ => false

/-- The bell's discipline, balances and pages between edges. -/
def isBellEvent : Instr → Bool
  | .localBalanceReset .. | .boostPointChange .. | .bellSourceValid .. | .bellLocked .. | .bellHoldover ..
    | .ctxPageStore .. => true
  | _ => false

/-- The messages of a parish commit. -/
def isParish : Instr → Bool
  | .prepare .. | .decide .. | .abort .. | .commitDeadline .. => true
  | _ => false

/-- Descriptor walks. -/
def isWalkStep : Instr → Bool
  | .descriptorWalk .. | .walkTimeout .. => true
  | _ => false

/-- Scrubs and spares of a stack, repairs of DDR5. -/
def isTier : Instr → Bool
  | .stackScrub .. | .channelSpareDone .. | .channelFail .. | .ddrRepair .. => true
  | _ => false

/-- The cellar's window, its blocks and its bays. -/
def isCellar : Instr → Bool
  | .cellarWindowAccess .. | .slowChunkRead .. | .readDisturbRelocate .. | .retentionRewrite .. | .badBlockRetire ..
    | .stickInsert .. | .stickRemove .. | .rebuildComplete .. | .adopt .. | .stickFailure .. => true
  | _ => false

/-- Fabric ports and die links. -/
def isLink : Instr → Bool
  | .portTrain .. | .trainingComplete .. | .flitReceive .. | .flitNak .. | .laneSwap .. | .portRetrain ..
    | .cageOvercurrent .. | .cableEvent .. | .beat .. | .dieLinkRepair .. => true
  | _ => false

/-- What a guest asks for, and its record. -/
def isGuest : Instr → Bool
  | .cap .. | .guestRead .. | .guestWrite .. | .guestAtomic .. | .guestIrq .. | .guestAccept .. => true
  | _ => false

/-- Heartbeats, the ledger's mirror and captures. -/
def isWatch : Instr → Bool
  | .heartbeat .. | .ledgerMirrorWrite .. | .crashCapture .. | .captureCutoff .. | .wardenResetDone .. => true
  | _ => false

/-- Updates, measurements and sessions. -/
def isFirmware : Instr → Bool
  | .requestUpdate .. | .requestFirmwareData .. | .verifyComplete .. | .cancelUpdate .. | .activateFirmware ..
    | .getMeasurements .. | .spdmRequest .. => true
  | _ => false

/-- The buttons, the lever, and a removal short of its quiesce. -/
def isFace : Instr → Bool
  | .attentionRequest .. | .armedExpiry .. | .cancel .. | .leverTouch .. | .leverPushHome .. | .bayButton ..
    | .serviceAttention .. | .serviceCancel .. => true
  | _ => false

/-- Service and mailbox commands that only read, pin or enrol. -/
def isAnswer : Instr → Bool
  | .serviceIdent .. | .serviceRead .. | .serviceLedger .. | .serviceLocate .. | .mailboxIdent .. | .regRead ..
    | .ledgerRead .. | .mirrorRead .. | .captureRead .. | .capturePin .. | .captureNow .. | .configRead ..
    | .setkeyEnrol .. | .setkeyRevoke .. | .datakeySet .. | .datakeyErase .. | .certSet .. | .anchorSet ..
    | .svnCommit .. | .setEventReceiver .. | .getSensorReading .. | .eventAcknowledge .. | .setEndpointId ..
    | .dynamicAddressAssignment .. => true
  | _ => false

/-- Commands that may change the count of bells: its edge, a start, and what takes main power. -/
def movesTheBell : Instr → Bool
  | .bellEdge .. | .coldStart .. | .warmStart .. | .powerOff .. | .safeEntry .. | .mainInputLoss ..
    | .standbyInputLoss .. | .prsntDeassert .. | .cycleReqTimeout .. | .thermalTrip .. => true
  | _ => false

/-- No set unload waits for the last user of its set, and no SEG_SET or SEG_INVALIDATE for a descriptor in use (R144, R297). -/
def noneWaits (s : State) : Bool :=
  s.staged.all fun x => match x.item with | .setUnload _ | .descWait .. => false | _ => true

/-! ### What two states have in common -/

/-- The bell, power, the tray and the capability chain. -/
structure SameBell (s t : State) : Prop where
  bell : t.bell = s.bell
  jumped : t.jumped = s.jumped
  power : t.power = s.power
  tray : t.tray = s.tray
  chainGen : t.chainGen = s.chainGen
  chainPosted : t.chainPosted = s.chainPosted

/-- What programs, partitions and contexts share. -/
structure SameTables (s t : State) : Prop where
  parts : t.parts = s.parts
  staged : t.staged = s.staged
  segs : t.segs = s.segs
  partSets : t.partSets = s.partSets
  progs : t.progs = s.progs
  tallies : t.tallies = s.tallies
  waiters : t.waiters = s.waiters

/-- Every byte of memory and of the cellar, with what is poisoned and buffered. -/
structure SameMemory (s t : State) : Prop where
  mem : t.mem = s.mem
  poison : t.poison = s.poison
  cellar : t.cellar = s.cellar
  cellarPoison : t.cellarPoison = s.cellarPoison
  wbuf : t.wbuf = s.wbuf

/-- The host complex, the ports and what is joined to them. -/
structure SameOutside (s t : State) : Prop where
  hc : t.hc = s.hc
  fab : t.fab = s.fab
  g0 : t.g0 = s.g0
  g1 : t.g1 = s.g1
  pA : t.pA = s.pA
  pB : t.pB = s.pB
  stackDies : t.stackDies = s.stackDies

/-- Queues, commands, contexts, cores and descriptors. -/
structure SameWork (s t : State) : Prop where
  queues : t.queues = s.queues
  cmds : t.cmds = s.cmds
  ctxs : t.ctxs = s.ctxs
  cores : t.cores = s.cores
  dpool : t.dpool = s.dpool
  walks : t.walks = s.walks

/-- A mailbox command's own effect takes place now: the Warden's firmware runs, the requester has not used the TAG before,
it may send the command, and no privileged command holds one that is up (R624, R625). -/
structure MailTakesPlace (m : MailRef) (acc : Access) (s : State) : Prop where
  up : wardenUp s = true
  fresh : s.mgmt.replays.find? (fun r => r.eid == m.eid.toNat && r.tag == m.tag.toNat) = none
  allowed : authorised s m acc = true
  notBusy : acc ≠ .opened → privBusy s = false

end Sys2Proof.Machine
end

