-- ==== Sys2Proof/Certificates/Slice0/Obligations.lean ====
section
/-! DEFINITION. What is claimed of the model, for the provers. Each docstring names the rules of the manual a statement
rests on. -/

open Sys2Proof Sys2Proof.Machine

/-! ### The queue and the shape of a step -/

/-- A step takes the command at the front of the queue and carries it out on the state with the queue's rest; with no
command waiting the block idles (the model's choice, log 2). -/
def Obligations.StepRunsTheFrontCommand : Prop :=
  ∀ s : State,
    (∀ (i : Instr) (rest : List Instr),
      Machine.step { s with pending := i :: rest } = Machine.exec i { s with pending := rest }) ∧
    (s.pending = [] → Machine.step s = .next s)

/-- Every command, in every state, has a next state (the manual answers each error with a status, a record or a flag), and
none puts commands into the queue, takes any out or reorders them. -/
def Obligations.EveryCommandAnswersAndLeavesTheQueue : Prop :=
  ∀ (i : Instr) (s : State), ∃ t, Machine.exec i s = .next t ∧ t.pending = s.pending

/-- Memory, the cellar and the registers stay in canonical form whatever command runs. -/
def Obligations.StepsKeepCanonicalForm : Prop :=
  ∀ s t : State, Canonical s → Machine.step s = .next t → Canonical t

/-- The state after reset is canonical, and its queue is empty. -/
def Obligations.ResetIsCanonical : Prop := Canonical State.reset ∧ State.reset.pending = []

/-! ### Packet commands -/

/-- Decoding the packet bytes that stand for a well-formed packet command gives that command back, every operand with it
(chapters 08 and 09: Tables 09-3, 09-7 to 09-20). -/
def Obligations.PacketEncodingRoundTrips : Prop :=
  ∀ (i : Instr) (c : CmdRef) (op pk : Nat), wellFormed i = true → encodePacket i = some (c, op, pk) →
    decodeParams false c op pk = .ok i

/-- Whatever packet decodes, the command it gives is well formed, when its context is one of the module's. -/
def Obligations.DecodedPacketsAreWellFormed : Prop :=
  ∀ (v2 : Bool) (c : CmdRef) (op pk : Nat) (i : Instr), opcodeDefined op = true → c.wf = true →
    decodeParams v2 c op pk = .ok i → wellFormed i = true

/-- R274 to R276: NOP completes with ST_OK and does nothing else; QUEUE_MARK completes once every earlier packet has its
record, with the count of failures, which starts again, and stores its word where it has one; FENCE completes once its
destinations have acknowledged. -/
def Obligations.QueueControlCommandsComplete : Prop :=
  ∀ (c : CmdRef) (s : State),
    (TakesPlace (.nop c) c false s →
      ∃ t, Machine.exec (.nop c) s = .next t ∧ CompletedWith c 0x0000 0 t ∧ { t with cmds := s.cmds, tick := s.tick } = s) ∧
    (∀ p, TakesPlace (.queueMark c p) c false s → markReady (markStarted (.queueMark c p) c s) c = true →
      p.write = none →
      ∃ t, Machine.exec (.queueMark c p) s = .next t ∧
        CompletedWith c 0x0000 (min (queueOf s c.queue.toNat).markFails 65535) t ∧
        { t with cmds := s.cmds, tick := s.tick } =
          setQueue c.queue.toNat { queueOf s c.queue.toNat with markFails := 0 } s) ∧
    (∀ p r v, TakesPlace (.queueMark c p) c false s → markReady (markStarted (.queueMark c p) c s) c = true →
      p.write = some (r, v) →
      let s1 := markStarted (.queueMark c p) c s
      let w := (Work.start c (cmdOf s1 c).core s1).bytesRef 10 r 8 rtWrite
      let pl := placeOf w.1.s w.2 r.off.toNat
      (cmdOf s1 c).heard = [] → w.1.fail = none → placeHeld w.1.s pl = false → placeFault w.1.s true 10 r.seg.toNat pl = none →
      ∃ t, Machine.exec (.queueMark c p) s = .next t ∧
        t.mem = (placeWrite (10, r.seg.toNat) pl (leBytes 8 v.toNat) (.cmd c) w.1.s).mem ∧
        (queueOf t c.queue.toNat).markFails = 0) ∧
    (∀ k, TakesPlace (.fence c k) c false s → fenceReady (markStarted (.fence c k) c s) c.queue.toNat k = true →
      (queueOf s c.queue.toNat).hostLost = false →
      ∃ t, Machine.exec (.fence c k) s = .next t ∧ CompletedWith c 0x0000 0 t ∧ { t with cmds := s.cmds, tick := s.tick } = s)

/-- R277 to R280, R316: a movement command whose work meets no failed check completes with ST_OK, in the state its work has
reached; where its allotment is spent on the way it stays open, parked. -/
def Obligations.MovementCommandsComplete : Prop :=
  ∀ (c : CmdRef) (s : State),
    (∀ p, TakesPlace (.copy c p) c true s →
      let w := copyWork c p (runEntry (.copy c p) c s) (markStarted (.copy c p) c s)
      Answers (.copy c p) s w 0) ∧
    (∀ p, TakesPlace (.gather c p) c true s →
      let w := gatherWork c p (runEntry (.gather c p) c s) (markStarted (.gather c p) c s)
      Answers (.gather c p) s w 0) ∧
    (∀ p, TakesPlace (.scatter c p) c true s →
      let w := scatterWork c p (runEntry (.scatter c p) c s) (markStarted (.scatter c p) c s)
      Answers (.scatter c p) s w 0) ∧
    (∀ p, TakesPlace (.zero c p) c true s →
      let w := zeroWork c p (runEntry (.zero c p) c s) (markStarted (.zero c p) c s)
      Answers (.zero c p) s w 0) ∧
    (∀ p, TakesPlace (.cellarRead c p) c true s →
      let w := cellarReadWork c p (runEntry (.cellarRead c p) c s) (markStarted (.cellarRead c p) c s)
      Answers (.cellarRead c p) s w 0) ∧
    (∀ p, TakesPlace (.cellarWrite c p) c true s →
      let w := cellarWriteWork c p (runEntry (.cellarWrite c p) c s) (markStarted (.cellarWrite c p) c s)
      Answers (.cellarWrite c p) s w 0)

/-- R180, R277, R279, R339: a raw COPY or ZERO into memory of this module changes no byte outside the sectors its destination
names, whether it completes or fails on the way; and a raw sector copied between plain places reads at the destination as the
source did, every other byte of memory as before. -/
def Obligations.RawCommandsStoreInTheirRange : Prop :=
  (∀ (copies : Bool) (c : CmdRef) (src dst : Bref) (n : BitVec 32) (s t : State), Memory.wf s.mem = true →
    let i : Instr := if copies then .copy c (.raw src dst n) else .zero c (.raw dst n)
    let w0 := Work.start c (runEntry i c s).core (markStarted i c s)
    let w := if copies then (w0.bytesRef 0 src (64 * n.toNat) rtRead).1 else w0
    let g := (w.bytesRef 8 dst (64 * n.toNat) rtWrite).2
    let first := g.base + dst.off.toNat
    Machine.exec i s = .next t →
    (w.failed = true → ∀ a, memByte t a = memByte s a) ∧
    (1 ≤ g.cls → g.cls ≤ clsDdr →
      ∀ a, (a / 64 < first / 64 ∨ (first + 64 * n.toNat - 1) / 64 < a / 64) → memByte t a = memByte s a)) ∧
  (∀ (w : Work) (src dst : Bref) (gs gd : Seg) (i a b : Nat), Memory.wf w.s.mem = true → w.fail = none → w.parked = none →
    w.log = [] → i % 64 ≠ 0 →
    placeOf w.s gs (src.off.toNat + 64 * i) = .mem a none → placeOf w.s gd (dst.off.toNat + 64 * i) = .mem b none →
    placeFault w.s false 0 src.seg.toNat (.mem a none) = none → placeFault w.s true 8 dst.seg.toNat (.mem b none) = none →
    placePoison w.s (.mem a none) 64 = false → placeHeld w.s (.mem a none) = false → placeHeld w.s (.mem b none) = false →
    let t := (w.copySector src dst gs gd i).s
    (w.copySector src dst gs gd i).fail = none ∧ (∀ j, j < 64 → memByte t (b + j) = memByte w.s (a + j)) ∧
    ∀ x, x < b ∨ b + 64 ≤ x → memByte t x = memByte w.s x)

/-- Storing a tile in plain memory, its sealed header then says what R54 asks for: an even generation after the old one,
the payload stored, and memory outside the tile's payload and header unchanged. A transfer whose CRC the base die finds wrong is
resent; one that it finds wrong again fails the command in slot 8 and the tile is sealed INVALID (R371, R60). -/
def Obligations.TileStoreSealsItsGeneration : Prop :=
  ∀ (w : Work) (slot seg pa ha : Nat) (h : Header) (payload : List Byte), Memory.wf w.s.mem = true → w.fail = none →
    w.parked = none → w.log = [] →
    payload.length = 4096 → ha + 64 ≤ pa ∨ pa + 4096 ≤ ha →
    placeFault w.s true slot seg (.mem pa none) = none → placeFault w.s true slot seg (.mem ha none) = none →
    placeHeld w.s (.mem pa none) = false → placeHeld w.s (.mem ha none) = false →
    let u := w.storeAt slot seg (.mem pa none) (.mem ha none) h payload
    let t := u.s
    let old := Header.ofBytes (placeRead w.s (.mem ha none) 64)
    let new := Header.ofBytes (placeRead t (.mem ha none) 64)
    (∀ k again, transferUpset w.s (.mem pa none) = some (k, again) → getF t (STK_ECC k) STK_ECC_TILE_RETRY = 1) ∧
    (if (transferUpset w.s (.mem pa none)).any (·.2) then u.fail = some (fTile 8 .corrupt) ∧ new.invalid = true
      else u.fail = none ∧ new.invalid = h.invalid) ∧
    new.gen = (genOpen old.gen + 1) % 2 ^ 32 ∧ new.gen % 2 = 0 ∧ readMem t pa 4096 = payload ∧
    ∀ x, (x < pa ∨ pa + 4096 ≤ x) → (x < ha ∨ ha + 64 ≤ x) → memByte t x = memByte w.s x

/-- R281 to R285: a matrix or lane command whose work meets no failed check completes with ST_OK or, where products were
truncated, with ST_OK_TRUNC, in the state its work has reached; or it parks (R316). -/
def Obligations.TensorCommandsComplete : Prop :=
  ∀ (c : CmdRef) (s : State),
    (∀ p, TakesPlace (.matmul c p) c true s →
      let w := matmulWork c p none (runEntry (.matmul c p) c s) (markStarted (.matmul c p) c s)
      Answers (.matmul c p) s w 0) ∧
    (∀ p, TakesPlace (.matmulAcc c p) c true s →
      let w := matmulWork c p.base (some p.c) (runEntry (.matmulAcc c p) c s) (markStarted (.matmulAcc c p) c s)
      Answers (.matmulAcc c p) s w 0) ∧
    (∀ p, TakesPlace (.anchorScan c p) c true s →
      let w := scanWork c p (runEntry (.anchorScan c p) c s) (markStarted (.anchorScan c p) c s)
      Answers (.anchorScan c p) s w 0) ∧
    (∀ p, TakesPlace (.reduce c p) c true s →
      let w := reduceWork c p (runEntry (.reduce c p) c s) (markStarted (.reduce c p) c s)
      Answers (.reduce c p) s w 0) ∧
    (∀ p, TakesPlace (.elementwise c p) c true s →
      let w := elemWork c p (runEntry (.elementwise c p) c s) (markStarted (.elementwise c p) c s)
      Answers (.elementwise c p) s w w.flags.code)

/-- R286, R161, R163, R159: a function or row command whose set is ready on its core and whose work meets no failed check
completes; a set image that passes the loader's checks is given to the cores that lack it and staged for the bell, an
unload likewise (R141 to R144). -/
def Obligations.FunctionCommandsComplete : Prop :=
  ∀ (c : CmdRef) (s : State),
    (∀ p fs, TakesPlace (.func c p) c true s →
      let e := runEntry (.func c p) c s
      let s1 := markStarted (.func c p) c s
      setFor s1 e p.set.toNat = .ready fs →
      let w := funcWork c p fs e s1
      Answers (.func c p) s w w.flags.code) ∧
    (∀ p fs, TakesPlace (.softmax c p) c true s →
      let e := runEntry (.softmax c p) c s
      let s1 := markStarted (.softmax c p) c s
      setFor s1 e p.set.toNat = .ready fs →
      let w := rowWork c p .softmax none fs e s1
      Answers (.softmax c p) s w w.rowCode) ∧
    (∀ p fs, TakesPlace (.norm c p) c true s →
      let e := runEntry (.norm c p) c s
      let s1 := markStarted (.norm c p) c s
      setFor s1 e p.row.set.toNat = .ready fs →
      let w := rowWork c p.row (.norm p.rms p.eps.toNat) (some p.gb) fs e s1
      Answers (.norm c p) s w w.rowCode) ∧
    (∀ p st fs, TakesPlace (.rowstat c p st) c true s →
      let e := runEntry (.rowstat c p st) c s
      let s1 := markStarted (.rowstat c p st) c s
      (if p.set = 0 then fs = shippedSet setStandard
        else setFor s1 e p.set.toNat = .ready fs) →
      let w := rowWork c p (.stat st.toNat) none fs e s1
      Answers (.rowstat c p st) s w w.flags.code) ∧
    (∀ img n, TakesPlace (.microprogLoad c img n) c true s →
      let w := setLoadWork c img n (runEntry (.microprogLoad c img n) c s) (markStarted (.microprogLoad c img n) c s)
      let part := (ctxOf w.1.s w.1.ctx).part
      w.1.failed = false → setHeld w.1.s part w.2 = false →
      ∃ t, Machine.exec (.microprogLoad c img n) s = .next t ∧
        t.staged = (giveSet c part w.2 w.1.s).staged ∧ ⟨part, .setLoad w.2.setId, c⟩ ∈ t.staged) ∧
    (∀ set, TakesPlace (.microprogUnload c set) c true s → isShipped set.toNat = false →
      unloadWaits s (ctxOf s c.ctx.toNat).part set.toNat = false →
      (s.partSets.any fun x => x.1 == (ctxOf s c.ctx.toNat).part && x.2.setId == set.toNat) = true →
      ∃ t u, Machine.exec (.microprogUnload c set) s = .next t ∧ t = sweep u ∧
        ⟨(ctxOf s c.ctx.toNat).part, .setUnload set.toNat, c⟩ ∈ u.staged ∧
        { u with cmds := s.cmds, cores := s.cores, staged := s.staged } = s)

/-- R289, R394 to R396: an ADD or a SUB that no check refuses changes the count, updates the scope record and serves the
waiters; a WAIT completes where the count reaches N and registers where it does not; a TAKE that nobody is before takes
its N. -/
def Obligations.TallyCommandsTakeEffect : Prop :=
  ∀ (c : CmdRef) (t : TallyRef) (n : BitVec 64) (s : State),
    let d := t.die.toNat
    let x := t.index.toNat
    (∀ scope v, TakesPlace (.tallyAdd c t scope n) c true s →
      let e := runEntry (.tallyAdd c t scope n) c s
      let s1 := markStarted (.tallyAdd c t scope n) c s
      let a := tallyOf s d x
      tallyFault s1 c t = none → (if taPair a.attr.toNat then partnerValue s1 a.attr.toNat = .ok v else v = 0) →
      addFault d x n.toNat v a = none →
      Machine.exec (.tallyAdd c t scope n) s = .next (Machine.finish c .ok 0 (serve d x (setTally d x
        { a with count := a.count + BitVec.ofNat 64 n.toNat, scope := releaseScope a.scope scope.toNat (cmdInst s1 e) }
        (incOps d s1))))) ∧
    (∀ scope, TakesPlace (.tallySub c t scope n) c true s →
      let e := runEntry (.tallySub c t scope n) c s
      let s1 := markStarted (.tallySub c t scope n) c s
      let a := tallyOf s d x
      tallyFault s1 c t = none → taPair a.attr.toNat = false → n.toNat ≤ a.count.toNat →
      Machine.exec (.tallySub c t scope n) s = .next (Machine.finish c .ok 0 (serve d x (setTally d x
        { a with count := a.count - BitVec.ofNat 64 n.toNat, scope := releaseScope a.scope scope.toNat (cmdInst s1 e) }
        (incOps d s1))))) ∧
    (TakesPlace (.tallyWait c t n) c true s →
      let e := runEntry (.tallyWait c t n) c s
      let s1 := markStarted (.tallyWait c t n) c s
      let a := tallyOf s d x
      tallyFault s1 c t = none → n.toNat ≤ a.bound.toNat →
      Machine.exec (.tallyWait c t n) s = .next (
        if n.toNat ≤ a.count.toNat then acquireDone c e.core a (incOps d s1)
        else addWaiter ⟨d, x, false, n.toNat, e.core, c, false⟩ (incOps d s1))) ∧
    (TakesPlace (.tallyTake c t n) c true s →
      let e := runEntry (.tallyTake c t n) c s
      let s1 := markStarted (.tallyTake c t n) c s
      let a := tallyOf s d x
      tallyFault s1 c t = none → taPair a.attr.toNat = false → n.toNat ≤ a.bound.toNat →
      n.toNat ≤ a.count.toNat → (s1.waiters.any fun w => onTally d x w && w.take) = false →
      strictShort s1 c e.core a = false →
      Machine.exec (.tallyTake c t n) s = .next (serve d x (takeEffect d x n.toNat e.core c (incOps d s1))))

/-- R290, R291: SIGNAL_REMOTE sends its add to the module named, or adds here; SIGNAL_HOST stores its word, or the sum,
and raises its vector. -/
def Obligations.SignalCommandsTakeEffect : Prop :=
  ∀ (c : CmdRef) (s : State),
    (∀ t scope (m : BitVec 16) n, TakesPlace (.signalRemote c t scope m n) c true s →
      let s1 := markStarted (.signalRemote c t scope m n) c s
      m.toNat ≠ moduleId s → peerGone s1 m.toNat = none →
      Machine.exec (.signalRemote c t scope m n) s = .next
        (sendReq m.toNat 0 0x05 [tallyKey t.die.toNat t.index.toNat, 0, n.toNat, scope.toNat] [] (.cmd c) s1)) ∧
    (∀ t scope (m : BitVec 16) n v, TakesPlace (.signalRemote c t scope m n) c true s →
      let d := t.die.toNat
      let x := t.index.toNat
      let e := runEntry (.signalRemote c t scope m n) c s
      let s1 := markStarted (.signalRemote c t scope m n) c s
      let a := tallyOf s d x
      m.toNat = moduleId s → isFenced s1 domDie d = false → exportedTo a m.toNat = true → x < tallyCount d →
      (if taPair a.attr.toNat then partnerValue s1 a.attr.toNat = .ok v else v = 0) → addFault d x n.toNat v a = none →
      Machine.exec (.signalRemote c t scope m n) s = .next (Machine.finish c .ok 0 (serve d x (setTally d x
        { a with count := a.count + BitVec.ofNat 64 n.toNat, scope := releaseScope a.scope scope.toNat (cmdInst s1 e) }
        (incOps d s1)))) ) ∧
    (∀ (add : Bool) p (r : Bref), let i : Instr := if add then .signalHostAdd c p else .signalHost c p
      TakesPlace i c true s → p.dest = .seg r →
      let s1 := markStarted i c s
      let w := (Work.start c (runEntry i c s).core s1).bytesRef 10 r 8 (rtWrite + rtSignal)
      let pl := placeOf w.1.s w.2 r.off.toNat
      let old := if add then leNat (placeRead (wakeLarder pl w.1.s) pl 8) else 0
      let all := signalWork add c p r (runEntry i c s) s1
      vectorOk s1 c p.irqKind.toNat p.vector.toNat = true →
      (all.failed = false → Machine.exec i s =
        .next (raiseIrq p.irqKind.toNat p.vector.toNat (some c.queue.toNat) (all.finish 0))) ∧
      (all.failed = true → Machine.exec i s = .next (all.finish 0)) ∧
      ((cmdOf s1 c).heard = [] → w.1.fail = none → w.1.log = [] → placeHeld w.1.s pl = false →
        (∀ k, placeFault w.1.s k 10 r.seg.toNat pl = none) → (add = true → placePoison (wakeLarder pl w.1.s) pl 8 = false) →
        (∃ a k, pl = .mem a k) → owesAck w.1.s c = false → all.failed = false ∧
          all.s.mem = (placeWrite (10, r.seg.toNat) pl (leBytes 8 (old + p.value.toNat)) (.cmd c) w.1.s).mem)) ∧
    (∀ (add : Bool) p b a, let i : Instr := if add then .signalHostAdd c p else .signalHost c p
      TakesPlace i c true s → p.dest = .port b a →
      let s1 := markStarted i c s
      let s2 := extWrite b ⟨none, 2, a.toNat, leBytes 8 p.value.toNat, 0⟩ s1
      vectorOk s1 c p.irqKind.toNat p.vector.toNat = true → (queueOf s c.queue.toNat).desc.wbTarget = bnat b + 1 →
      (queueOf s c.queue.toNat).hostLost = false → (extPort s2 b).holding = false →
      Machine.exec i s = .next (raiseIrq p.irqKind.toNat p.vector.toNat (some c.queue.toNat) (Machine.finish c .ok 0 s2)))

/-- R292 to R294, R326, R327: EPOCH_STAGE stages its slot; a commit makes the slot PENDING for its bell; a pin and an unpin
change the count of the context's pins on the slot by one. -/
def Obligations.EpochCommandsTakeEffect : Prop :=
  ∀ (c : CmdRef) (s : State),
    (∀ p, TakesPlace (.epochStage c p) c true s →
      let s1 := markStarted (.epochStage c p) c s
      let w := stageWork c p (runEntry (.epochStage c p) c s) s1
      ((cmdOf s c).descs = [] → stageFault c p s1 = none) → Answers (.epochStage c p) s w 0) ∧
    (∀ (h : BitVec 16) (k : BitVec 8) (b : BitVec 64) p, TakesPlace (.epochCommit c h k b) c false s →
      let s1 := markStarted (.epochCommit c h k b) c s
      handleOf s1 c h.toNat = some p → k.toNat ≤ 2 → p.commit = none →
      ((p.slot k.toNat).state = .staged ∨ (p.slot k.toNat).state = .former) →
      ∃ t q, Machine.exec (.epochCommit c h k b) s = .next t ∧ t = setProg h.toNat (some q) s1 ∧
        (q.slot k.toNat).state = .pending ∧
        (q.commit.map fun m => (m.slot, m.target, m.decided)) = some (k.toNat, max b.toNat (firstBell s1), true)) ∧
    (∀ (h : BitVec 16) (k : BitVec 8) (b : BitVec 64) p, TakesPlace (.epochCommitParish c h k b) c false s →
      let s1 := markStarted (.epochCommitParish c h k b) c s
      handleOf s1 c h.toNat = some p → k.toNat ≤ 2 → p.commit = none → bellSteady s1 = true → p.peers ≠ [] →
      ((p.slot k.toNat).state = .staged ∨ (p.slot k.toNat).state = .former) → p.peers.findSome? (peerGone s1) = none →
      ∃ t q, Machine.exec (.epochCommitParish c h k b) s = .next t ∧ progOf t h.toNat = some q ∧
        (q.slot k.toNat).state = .pending ∧
        (q.commit.map fun m => (m.slot, m.parish, m.waiting, m.decided)) = some (k.toNat, true, p.peers, false)) ∧
    (∀ (h : BitVec 16) (k : BitVec 8) p, TakesPlace (.epochPin c h k) c false s →
      let s1 := markStarted (.epochPin c h k) c s
      handleOf s1 c h.toNat = some p → k.toNat ≤ 2 → (p.slot k.toNat).holds = true →
      ([0, 1, 2].map fun j => (p.slot j).pinsOf c.ctx.toNat).sum < 255 →
      ∃ t q, Machine.exec (.epochPin c h k) s = .next t ∧ CompletedWith c 0x0000 k.toNat t ∧
        { t with cmds := s.cmds, tick := s.tick } = setProg h.toNat (some q) s ∧
        q = p.setSlot k.toNat ((p.slot k.toNat).setPins c.ctx.toNat ((p.slot k.toNat).pinsOf c.ctx.toNat + 1))) ∧
    (∀ (h : BitVec 16) (k : BitVec 8) p, TakesPlace (.epochUnpin c h k) c false s →
      let s1 := markStarted (.epochUnpin c h k) c s
      handleOf s1 c h.toNat = some p → k.toNat ≤ 2 → (p.slot k.toNat).holds = true →
      (p.slot k.toNat).pinsOf c.ctx.toNat ≠ 0 →
      ∃ t q, Machine.exec (.epochUnpin c h k) s = .next t ∧ CompletedWith c 0x0000 k.toNat t ∧
        { t with cmds := s.cmds, tick := s.tick } = setProg h.toNat (some q) s ∧
        q = p.setSlot k.toNat ((p.slot k.toNat).setPins c.ctx.toNat ((p.slot k.toNat).pinsOf c.ctx.toNat - 1)))

/-- R295 to R298, R336, R338, R342: CTX_CREATE makes a context with a zeroed segment table and no allotment; CTX_DESTROY frees the
ID once the context's programs are unloaded, and with ABORT_ONLY the context remains. SEG_SET writes the descriptor's 32 bytes
into the context's table and removes its cached copies; SEG_INVALIDATE removes them; ALLOT_SET stages the allotments for the
bell. -/
def Obligations.ContextCommandsTakeEffect : Prop :=
  ∀ (c : CmdRef) (s : State),
    (∀ (p : BitVec 8) carry (a : BitVec 64), TakesPlace (.ctxCreate c p carry a) c false s → Memory.wf s.mem = true →
      let s1 := markStarted (.ctxCreate c p carry a) c s
      createFault s1 c.ctx.toNat a.toNat = none → refusal s1 true (tgtOf s1 a.toNat) = none →
      ∃ t, Machine.exec (.ctxCreate c p carry a) s = .next t ∧ CompletedWith c 0x0000 0 t ∧
        t.ctxs = (setCtx c.ctx.toNat (newCtx p.toNat a.toNat carry) s).ctxs ∧
        (∀ j, j < 512 → memByte t (a.toNat + j) = 0) ∧
        (∀ x, x < a.toNat ∨ a.toNat + 512 ≤ x → memByte t x = memByte s x) ∧
        { t with cmds := s.cmds, tick := s.tick, ctxs := s.ctxs, mem := s.mem, poison := s.poison, stackDies := s.stackDies } = s) ∧
    (∀ full : Bool, let i : Instr := if full then .ctxDestroy c else .ctxDestroyAbortOnly c
      TakesPlace i c false s → (ctxOf s c.ctx.toNat).state ≠ .free →
      let x := c.ctx.toNat
      let u := tearDown c full (markStarted i c s)
      Machine.exec i s = .next (settleAborts (if (progsOf u x).isEmpty then Machine.finish c .ok 0 (endTeardown x u)
        else (progsOf u x).foldl (fun s e => startUnload e.1 c s) u)) ∧
      (full = true → Assoc.wf (fun _ => Ctx.free) u.ctxs = true → progsOf u x = [] → (ctxOf u x).state = .destroying →
        ctxOf (endTeardown x u) x = Ctx.free)) ∧
    (∀ (g : BitVec 8) (d : BitVec 256), TakesPlace (.segSet c g d) c false s →
      let s1 := markStarted (.segSet c g d) c s
      let cx := ctxOf s c.ctx.toNat
      let a := cx.segTable + 32 * g.toNat
      let k := descKey cx.part c.ctx.toNat g.toNat
      segDescFault s1 cx.part d.toNat = none → refusal s1 true (tgtOf s1 a) = none →
      Machine.exec (.segSet c g d) s = .next (awaitDescs c k (k + 1) (dropDescs k (k + 1) (writeMem a (leBytes 32 d.toNat)
        { s1 with segs := Assoc.put (fun _ => 0) s.segs (c.ctx.toNat * 16 + g.toNat) d.toNat })))) ∧
    (∀ p, TakesPlace (.segInvalidate c p) c false s →
      let s1 := markStarted (.segInvalidate c p) c s
      let r := match p with
        | some p => (descKey p.toNat 0 0, descKey (p.toNat + 1) 0 0)
        | none => ctxKeys (ctxOf s c.ctx.toNat).part c.ctx.toNat
      Machine.exec (.segInvalidate c p) s = .next (awaitDescs c r.1 r.2 (dropDescs r.1 r.2 s1)) ∧
      ∀ key die, r.1 ≤ key → key < r.2 → lookup key (poolOf (dropDescs r.1 r.2 s1) die key) = none) ∧
    (∀ p, TakesPlace (.allotSet c p) c false s →
      ∃ t, Machine.exec (.allotSet c p) s = .next t ∧ t.staged = s.staged ++ [⟨c.ctx.toNat, .allot p, c⟩] ∧
        { t with cmds := s.cmds, staged := s.staged, ctxs := s.ctxs } = s)

/-- R299, R353, R354, R355, R665: every PART_SET item but KEY that passes its checks is staged for the next bell, a TALLIES command
that fails its checks is staged as refused, nothing else changes, and the command stays open; KEY takes effect at once, in a partition without contexts, and a module whose ordering
code gives it no encryption refuses it (R661). -/
def Obligations.PartitionItemsAreStaged : Prop :=
  ∀ (c : CmdRef) (p : BitVec 8) (s : State),
    let staged (i : Instr) (x : Staged) : Prop :=
      ∃ t, Machine.exec i s = .next t ∧ t.staged = s.staged ++ [⟨p.toNat, x, c⟩] ∧
        { t with cmds := s.cmds, staged := s.staged } = s ∧ (cmdOf t c).result = none
    (∀ m, TakesPlace (.partSetCores c p m) c false s → coresFault s p.toNat m.toNat = false →
      staged (.partSetCores c p m) (.cores m.toNat)) ∧
    (∀ e k f h pr, TakesPlace (.partSetCaps c p e k f h pr) c false s →
      staged (.partSetCaps c p e k f h pr) (.caps e.toNat k.toNat f.toNat h.toNat pr.toNat)) ∧
    (∀ b, TakesPlace (.partSetMode c p b) c false s → staged (.partSetMode c p b) (.mode b)) ∧
    (∀ x y, TakesPlace (.partSetTimeouts c p x y) c false s →
      staged (.partSetTimeouts c p x y) (.timeouts x.toNat y.toNat)) ∧
    (∀ x y k, TakesPlace (.partSetVectors c p x y k) c false s →
      staged (.partSetVectors c p x y k) (.vectors x.toNat y.toNat k.toNat)) ∧
    (∀ m, TakesPlace (.partSetVolumes c p m) c false s → staged (.partSetVolumes c p m) (.volumes m.toNat)) ∧
    (∀ d f n, TakesPlace (.partSetTalliesGrant c p d f n) c false s →
      staged (.partSetTalliesGrant c p d f n) (match grantFault s p.toNat ⟨d.toNat, f.toNat, n.toNat⟩ with
        | none => .grant ⟨d.toNat, f.toNat, n.toNat⟩
        | some x => .refused x.1 x.2)) ∧
    (∀ d f n, TakesPlace (.partSetTalliesRevoke c p d f n) c false s →
      staged (.partSetTalliesRevoke c p d f n) (match revokeFault s p.toNat d.toNat f.toNat n.toNat with
        | none => .revoke d.toNat f.toNat
        | some x => .refused x.1 x.2)) ∧
    (∀ st dd k, TakesPlace (.partSetKey c p st dd k) c false s → s.mgmt.encFitted = false →
      Machine.exec (.partSetKey c p st dd k) s =
        .next (finishFail c (fParam rState 0) (markStarted (.partSetKey c p st dd k) c s))) ∧
    (∀ st dd k, TakesPlace (.partSetKey c p st dd k) c false s → s.mgmt.encFitted = true → ctxsOf s p.toNat = [] →
      ∃ t, Machine.exec (.partSetKey c p st dd k) s = .next t ∧ CompletedWith c 0x0000 0 t ∧
        { t with cmds := s.cmds, tick := s.tick } =
          setPart p.toNat { partOf s p.toNat with keyStack := st, keyDdr := dd, keySlot := k.toNat } s)

/-- R204, R209, R218: STEP_LOAD that no check refuses places the program and completes with the number of cores; STEP_UNLOAD
starts the unload; STEP_RUN starts a run, which stays open. -/
def Obligations.ProgramCommandsTakeEffect : Prop :=
  ∀ (c : CmdRef) (s : State),
    (∀ h r n, TakesPlace (.stepLoad c h r n) c true s →
      let x := loadWork c h r n (runEntry (.stepLoad c h r n) c s) (markStarted (.stepLoad c h r n) c s)
      Answers (.stepLoad c h r n) s x.1 x.2) ∧
    (∀ (h : BitVec 16) p, TakesPlace (.stepUnload c h) c false s → progOf s h.toNat = some p → p.loading = none →
      p.unloading = none → p.part = (ctxOf s c.ctx.toNat).part →
      Machine.exec (.stepUnload c h) s = .next (startUnload h.toNat c (markStarted (.stepUnload c h) c s))) ∧
    (∀ p pr k, TakesPlace (.stepRun c p) c true s → progOf s p.handle.toNat = some pr →
      let s1 := markStarted (.stepRun c p) c s
      let x := runWork c p pr (runEntry (.stepRun c p) c s) s1
      runSlot s1 c p pr = .ok k → x.1.failed = false →
      Machine.exec (.stepRun c p) s =
        .next (beginRun c p.handle.toNat k pr x.2 (ctxOf s1 c.ctx.toNat).now x.1.s))

/-- R301, R302: a loopback completes at once, a patrol asks every engine of the cores named, and a dump whose work meets no
failed check completes with the number of units written. -/
def Obligations.DiagnosticCommandsTakeEffect : Prop :=
  ∀ (c : CmdRef) (s : State),
    (∀ m, TakesPlace (.selftestLoopback c m) c false s → coresAllowed s c (mapCores m) = true →
      ∃ t, Machine.exec (.selftestLoopback c m) s = .next t ∧ CompletedWith c 0x0000 0 t ∧
        { t with cmds := s.cmds, tick := s.tick } = s) ∧
    (∀ m, TakesPlace (.selftestPatrol c m) c false s →
      let s1 := markStarted (.selftestPatrol c m) c s
      let on := (mapCores m).filter (testable s1)
      coresAllowed s1 c (mapCores m) = true → (on.any fun n => (coreOf s1 n).engines.any (·.patrolFor.isSome)) = false →
      on ≠ [] → Machine.exec (.selftestPatrol c m) s =
        .next (on.foldl (fun s n => [0, 1, 2, 3].foldl (testEngine c n) s) s1)) ∧
    (∀ n r b, TakesPlace (.dumpCoreRegs c n r b) c true s →
      let s1 := markStarted (.dumpCoreRegs c n r b) c s
      let src := coreBlock s1 n.toNat
      let w := dumpWork c r b src (runEntry (.dumpCoreRegs c n r b) c s) s1
      bitAt (partOf s (ctxOf s c.ctx.toNat).part).cores n.toNat = true → Answers (.dumpCoreRegs c n r b) s w (min (dumpUnits b src) 65535)) ∧
    (∀ r b, TakesPlace (.dumpSpill c r b) c true s →
      let s1 := markStarted (.dumpSpill c r b) c s
      let src := spillBytes s1 c.ctx.toNat
      let w := dumpWork c r b src (runEntry (.dumpSpill c r b) c s) s1
      Answers (.dumpSpill c r b) s w (min (dumpUnits b src) 65535)) ∧
    (∀ r b, TakesPlace (.dumpLedger c r b) c true s → (queueOf s c.queue.toNat).desc.admin = true →
      let s1 := markStarted (.dumpLedger c r b) c s
      let src := s.faults.ring.reverse.flatMap fun r => r.bytes
      let w := dumpWork c r b src (runEntry (.dumpLedger c r b) c s) s1
      Answers (.dumpLedger c r b) s w (min (dumpUnits b src) 65535))

/-! ### Queues -/

/-- R238, R257, R259: ENABLE of a disabled queue whose descriptor reads and checks enables it with its counters at their start
values; DISABLE and DISABLE_ABORT drain it, the second ending its commands with ST_ABORTED, cause 5; RESTART of a stopped queue
writes the held records and lets it fetch; a draining queue without commands becomes disabled. An action in a state that does
not take it changes nothing but its recorded result (Table 08-12). -/
def Obligations.QueueActionsTakeEffect : Prop :=
  ∀ (q : BitVec 16) (s : State),
    let n := q.toNat
    let a := getF s Q_TABLE_BASE Q_TABLE_BASE_BASE * 2 ^ 22 + 64 * n
    let raw := leNat (cohRead s a 64)
    ((queueOf s n).state = .disabled → ringReadable s a 64 = true → descOk s n raw = true →
      ∃ x, Machine.exec (.qEnable q) s = .next (qResult n 0 (setQueue n x s)) ∧ x.state = .enabled ∧
        x.desc = QDesc.ofNat raw ∧ x.p = BitVec.ofNat 32 x.desc.sqStart ∧ x.f = x.p ∧
        x.w = BitVec.ofNat 32 x.desc.cqStart ∧ x.cc = x.w ∧ x.held = [] ∧ x.retries = 0) ∧
    (((queueOf s n).state = .enabled ∨ (queueOf s n).state = .stopped) →
      ∃ x, Machine.exec (.qDisable q) s = .next (qResult n 0 (setQueue n x s)) ∧ x.state = .draining ∧ x.held = [] ∧
        x.retrying = none ∧ x.f = (queueOf s n).f ∧ x.p = (queueOf s n).p ∧ x.desc = (queueOf s n).desc) ∧
    ((queueOf s n).state ≠ .disabled →
      Machine.exec (.qDisableAbort q) s = .next (abortWhere (fun e => e.ref.queue.toNat == n) (fAbort 5)
        (qResult n 0 (setQueue n (drainQueue (queueOf s n)) s)))) ∧
    ((queueOf s n).state = .stopped →
      ∃ x, Machine.exec (.qRestart q) s =
          .next (qResult n 0 ((queueOf s n).held.foldl (fun s r => postRecord n r s) (setQueue n x s))) ∧
        x.state = .enabled ∧ x.held = [] ∧ x.errCause = 0 ∧ x.hostLost = false) ∧
    ((queueOf s n).state = .draining → (s.cmds.all fun e => e.ref.queue != q) = true →
      ∃ x, Machine.exec (.queueDrained q) s = .next (setQueue n x s) ∧ x.state = .disabled ∧ x.f = (queueOf s n).f ∧
        x.w = (queueOf s n).w) ∧
    ((queueOf s q.toNat).state ≠ .disabled → Machine.exec (.qEnable q) s = .next (qResult q.toNat qBadState s)) ∧
    ((queueOf s q.toNat).state = .disabled ∨ (queueOf s q.toNat).state = .draining →
      Machine.exec (.qDisable q) s = .next (qResult q.toNat qBadState s)) ∧
    ((queueOf s q.toNat).state = .disabled → Machine.exec (.qDisableAbort q) s = .next (qResult q.toNat qBadState s)) ∧
    ((queueOf s q.toNat).state ≠ .stopped → Machine.exec (.qRestart q) s = .next (qResult q.toNat qBadState s))

/-- R239, R240, R247, R249, R250, R255, R256: the visible packet of an eligible queue whose turn it is is consumed by a fetch, and by a
retry, an invisible one is retried; a command that may complete gets its record, with that moment in it; the end of a holdoff raises the interrupt that
waits, or ends the interval. A doorbell that passes the checks sets P and Cc and nothing else; a P behind the present one is
counted in Q_DB_BAD; a P beyond the ring stops the queue with cause 2. -/
def Obligations.QueueEventsTakeEffect : Prop :=
  ∀ (q : BitVec 16) (ext : Option (BitVec 512)) (s : State),
    let n := q.toNat
    let x := queueOf s n
    (∀ pk, fetchable s n = true → hasTurn s n = true → packetVisible x (packetRead s x ext) = .ok pk →
      Machine.exec (.packetFetch q ext) s = .next (consume n pk (takeTurn n s))) ∧
    (∀ why, fetchable s n = true → hasTurn s n = true → packetVisible x (packetRead s x ext) = .error why →
      Machine.exec (.packetFetch q ext) s = .next (setQueue n { x with retrying := some 0 } (takeTurn n (notePacket x s)))) ∧
    (∀ k pk, x.state = .enabled → x.retrying = some k → k ≤ 63 → portHolds s x.desc.sqTarget = false →
      portHolds s x.desc.cqTarget = false → packetVisible x (packetRead s x ext) = .ok pk →
      Machine.exec (.packetRetry q ext) s =
        .next (consume n pk (setQueue n { x with retries := min 65535 (x.retries + 1) } s))) ∧
    (∀ k why, x.state = .enabled → x.retrying = some k → portHolds s x.desc.sqTarget = false →
      portHolds s x.desc.cqTarget = false → packetVisible x (packetRead s x ext) = .error why →
      k < 63 →
      Machine.exec (.packetRetry q ext) s =
        .next (setQueue n { x with retries := min 65535 (x.retries + 1), retrying := some (k + 1) } (notePacket x s))) ∧
    (∀ (i : BitVec 32) e r, (s.cmds.find? fun e => e.ref.queue == q && e.ref.index == i) = some e → recordReady s e = true →
      e.result = some r → e.instr.isSome = true →
      Machine.exec (.commandCompletion q i) s = .next (settle (postRecord e.ref.queue.toNat
        (recordOf (queueOf s e.ref.queue.toNat) e.ref.index.toNat e.irq (r.1, r.2.1, bellNow s, subnsNow s, clockNow s))
        (dropCmd e.ref s)))) ∧
    (x.irqWaiting = true →
      Machine.exec (.irqHoldoffExpiry q) s = .next (completionIrq n (setQueue n { x with irqWaiting := false } s))) ∧
    (x.irqWaiting = false →
      Machine.exec (.irqHoldoffExpiry q) s = .next (setQueue n { x with holdoffOn := false } s)) ∧
    (∀ v : BitVec 64,
      let n := q.toNat
      let x := queueOf s n
      let p : BitVec 32 := v.setWidth 32
      let cc : BitVec 32 := (v >>> 32).setWidth 32
      x.state = .enabled →
      (atOrAfter p x.p = true → (p - x.f).toNat ≤ 2 ^ x.desc.sqLog2 → atOrAfter cc x.cc = true → atOrAfter x.w cc = true →
        Machine.exec (.sqDoorbell q v) s = .next (setQueue n { x with p := p, cc := cc, doorbell := v } s)) ∧
      (atOrAfter p x.p = false →
        Machine.exec (.sqDoorbell q v) s = .next (incF Q_DB_BAD Q_DB_BAD_Q_DB_BAD 1 s)) ∧
      (atOrAfter p x.p = true → 2 ^ x.desc.sqLog2 < (p - x.f).toNat →
        Machine.exec (.sqDoorbell q v) s = .next (queueStop n 2 p.toNat 0 0 s)))

/-- R249: a packet is consumed at most once and in order: consuming one advances F by one, and the command that joins the
table, where its checks pass, carries the packet's index as its TAG. -/
def Obligations.ConsumingAPacketAdvancesF : Prop :=
  ∀ (q : Nat) (pk : Nat) (s : State), q < 65536 → Assoc.wf (fun _ => Queue.reset) s.queues = true →
    let x := queueOf s q
    let t := consume q pk s
    (queueOf t q).f = x.f + 1 ∧
    ∀ i, packetCommand s x ⟨BitVec.ofNat 16 q, x.f, BitVec.ofNat 32 (if pf pk 3 1 == 2 then pf pk 8 2 else pf pk 8 4)⟩ pk = .ok i →
    queueOf t q = { x with f := x.f + 1, retrying := none } ∧
    (∀ r, r ≠ q → queueOf t r = queueOf s r) ∧ t.mem = s.mem ∧
    ∃ e ∈ t.cmds, e.instr = some i ∧ e.ref.queue.toNat = q ∧ e.ref.index = x.f ∧ e.irq = bitAt (if pf pk 3 1 == 2 then pf pk 1 1 else pf pk 2 1) 0

/-! ### Engines and cores -/

/-- R73, R77, R91, R172 to R175, R220, R221, R225, R226, R315: a ready chain step of the engine's own, or the chosen fresh step, is
issued where its allotment covers it and its tiles are sealed; a step boundary takes what was in flight off and counts the
unit, or answers it with ST_FENCED on a fenced core; a chain that has run its steps drains; LIVE halves are spilled, a spilled
chain is restored, and a stalled one is switched away from, which is counted; a draw adds a block; the inputs of a step within
the fetch depth are staged; the timeout of a missing input fails its run or its command. -/
def Obligations.EngineEventsTakeEffect : Prop :=
  ∀ (core : BitVec 8) (engine : BitVec 2) (s : State),
    let n := core.toNat
    let e := engine.toNat
    let g := getEng s n e
    -- what the dispatcher sees when it chooses
    let v := atChoice n s
    let x := getEng v n e
    let covered (a : At) : Prop := a.p.core = n ∧ a.p.onEngine = true ∧
      (0 < localBal (ctxOf v a.r.ctx).engine n ∨ (ctxOf v a.r.ctx).engine.pool ≠ 0) ∧
      allotCovers v n a.r.ctx (a.cycles v e) = true ∧ a.unsealed v e = false
    (∀ a c, coreOn v n = true → engineFree v n e = true → x.chain = some c → x.live = true → chainStep? v c = some a →
      a.ready v = true → covered a →
      Machine.exec (.stepIssue core engine) s = .next (issueUnit a e (stopFall n v))) ∧
    (∀ a, coreOn v n = true → x.live = false → freshStep v n (fun a => !a.p.onEngine || newChainHere v n e) = some a →
      spilledOf (spillOwn n e (stopFall n v)) a = none → covered a →
      Machine.exec (.stepIssue core engine) s = .next (issueUnit a e (spillOwn n e (stopFall n v)))) ∧
    (∀ a b c, getF v (DISP_CTL_LIVE n) DISP_CTL_SWITCH ≠ 0 → coreOn v n = true → engineFree v n e = true → x.live = true →
      x.chain = some c → chainStep? v c = some a → a.ready v = false →
      freshStep v n (fun b => b.p.onEngine && b.r.ctx != a.r.ctx) = some b → takesChain v n e = true →
      let u := startFresh b n e v
      ((getEng u n e).flight ≠ none → Machine.exec (.stallSwitch core engine) s =
        .next (incF (DISP_SWITCHES n) DISP_SWITCHES_DISP_SWITCHES 1 u)) ∧
      ((getEng u n e).flight = none → Machine.exec (.stallSwitch core engine) s = .next u)) ∧
    (∀ f p r, g.flight = some f → progOf s f.handle = some p → runOf p f.run = some r → r.failed = none →
      let u := advance s
      let st := endState u n g
      let ended := setEng n e { g with flight := none, state := st, since := u.tick } u
      (st ≠ .fenced → Machine.exec (.stepBoundary core engine) s =
        .next (atBoundary n e (settleAborts (afterUnit f.handle f.run f.step ended)))) ∧
      (st = .fenced → Machine.exec (.stepBoundary core engine) s =
        .next (atBoundary n e (settleAborts (failRun f.handle f.run (fFenced domCore n) ended))))) ∧
    (∀ c a, g.chain = some c → c.cmd = none → g.live = true → g.flight = none → c.kt ≤ c.k →
      (g.state = .idle ∨ g.state = .busy) → atOf s c.handle c.run c.step = some a →
      Machine.exec (.drain core engine) s = .next (endDrain n e c.handle c.run c.step
        (drainTiles n e c.handle c.run c.step (ChainAcc.ofHalves c.m c.n g.h0 g.h1) (ofTwos 16 g.h0.anchor.toNat) 16 s))) ∧
    (∀ c, g.chain = some c → g.live = true → g.flight = none →
      Machine.exec (.spill core engine) s = .next (spillEngine n e (chainCtx s c) s)) ∧
    (∀ x a rest, coreOn s n = true → engineFree s n e = true → g.live = false → g.chain = none →
      (coreOf s n).spilled = x :: rest → x.chain.cmd = none → atOf s x.chain.handle x.chain.run x.chain.step = some a → a.r.failed = none →
      (x.chain.kt ≤ x.chain.k ∨ a.ready s = true) →
      Machine.exec (.restore core engine) s = .next (restoreChain n e x s)) ∧
    (∀ (x : BitVec 32) (k : BitVec 2),
      let b := budgetOf (ctxOf s x.toNat) (k.toNat + 1)
      (ctxOf s x.toNat).state ≠ .free → (b.pool ≠ 0 ∨ 0 < localBal b n) →
      Machine.exec (.allotDraw core x k) s =
        .next (setCtx x.toNat (putBudget (ctxOf s x.toNat) (k.toNat + 1) (drawBlock (k.toNat + 1) n 0 b)) s)) ∧
    (∀ (h : BitVec 16) (r : BitVec 32) (i : BitVec 20) a, atOf s h.toNat r.toNat i.toNat = some a → a.p.core = n →
      a.open_ = true → coreOn s n = true → a.turn = true → a.arrived s [a.done] = true →
      ((stepsAhead s h.toNat n).take (fetchDepth s n)).contains (a.r.id, a.i) = true →
      ∀ t, a.pr.stagingOf n = some t →
      let want := (a.wanted s).filter fun x => (a.stagedSlot x.1 x.2).isNone
      want.length ≤ (a.pr.freeStaging t).length →
      Machine.exec (.stagingFetchDone core h r i) s = .next (a.fetchAll t want (a.pr.freeStaging t) s)) ∧
    (∀ (cause unit : BitVec 4) (h : BitVec 16) (r : BitVec 32) (i : BitVec 20) a, cause ≠ 0 → cause.toNat ≤ 6 →
      atOf s h.toNat r.toNat i.toNat = some a → a.p.core = n → a.misses s cause.toNat unit.toNat = true →
      (cause.toNat = 5 → getF s (TIER_TMO2_LIVE n) TIER_TMO2_TALLY ≠ 0) →
      Machine.exec (.tierTimeout core cause unit (.step h r i)) s =
        .next (failRun h.toNat a.r.id (Status.tierFail.code, cause.toNat * 4096 + unit.toNat * 256 + n)
          (tierFail n cause.toNat unit.toNat a.r.ctx h.toNat (noteStall ([STALL_STACK n, STALL_HOST n, STALL_CELLAR n,
            STALL_FABRIC n, STALL_TALLY n, STALL_GUEST n].getD (cause.toNat - 1) 0) s)))) ∧
    (∀ (cause unit : BitVec 4) (c : CmdRef), cause ≠ 0 → cause.toNat ≤ 6 → (cmdOf s c).result = none → inHand s c = true →
      cmdMisses s c cause.toNat unit.toNat = true → (cause.toNat = 5 → getF s (TIER_TMO2_LIVE n) TIER_TMO2_TALLY ≠ 0) →
      Machine.exec (.tierTimeout core cause unit (.cmd c)) s =
        .next (finishFail c (Status.tierFail.code, cause.toNat * 4096 + unit.toNat * 256 + n)
          (unwait c (tierFail n cause.toNat unit.toNat c.ctx.toNat 0 s))))

/-- R77: the values restored are bit-identical to those spilled, on any engine of the core; the engine that spilled holds
nothing LIVE, and neither memory nor any context is touched. -/
def Obligations.SpilledChainsReturnUnchanged : Prop :=
  ∀ (core : BitVec 8) (engine other : BitVec 2) (c : Chain) (s : State), Assoc.wf coreReset s.cores = true →
    let n := core.toNat
    let g := getEng s n engine.toNat
    let x : Spilled := ⟨c, g.h0, g.h1, chainCtx s c, engine.toNat⟩
    g.chain = some c → g.live = true → g.flight = none →
    ∃ t, Machine.exec (.spill core engine) s = .next t ∧ x ∈ (coreOf t n).spilled ∧ (getEng t n engine.toNat).live = false ∧
      (getEng t n engine.toNat).chain = none ∧ t.mem = s.mem ∧ t.ctxs = s.ctxs ∧
      let u := restoreChain n other.toNat x t
      (getEng u n other.toNat).h0 = g.h0 ∧ (getEng u n other.toNat).h1 = g.h1 ∧
      (getEng u n other.toNat).chain = some c ∧ u.mem = s.mem ∧ u.ctxs = s.ctxs

/-- R91 to R97, R561, R576: the control bits of an engine; a patrol starts where the engine is free, waits where it is not, and
records how it ends; an engine reset clears the engine under its rung; a watchdog resets the engine, or the partition for
another unit. -/
def Obligations.EngineControlTakesEffect : Prop :=
  ∀ (core : BitVec 8) (engine : BitVec 2) (w : Agent) (s : State),
    let n := core.toNat
    let e := engine.toNat
    let g := getEng s n e
    let on := (coreOf s n).state = .idle ∨ (coreOf s n).state = .running ∨ (coreOf s n).state = .parked
    let begun := setEng n e { g with state := .patrol, patrolDue := false } s
    let due := setEng n e { g with patrolDue := true } s
    (isReeveWarden w = true →
      (∀ b, Machine.exec (.engHalt w core engine b) s = .next (setF (ENG_CTL n e) ENG_CTL_HALT (bnat b) s)) ∧
      (g.flight = none → Machine.exec (.spillNow w core engine) s = .next (spillOwn n e s)) ∧
      (g.flight ≠ none → Machine.exec (.spillNow w core engine) s = .next (setEng n e { g with spillDue := true } s)) ∧
      (patrolFree s n e = true → Machine.exec (.patrolNow w core engine) s = .next begun) ∧
      (patrolFree s n e = false → Machine.exec (.patrolNow w core engine) s = .next due)) ∧
    (on → patrolFree s n e = true → Machine.exec (.patrolDue core engine) s = .next begun) ∧
    (on → patrolFree s n e = false → g.state ≠ .patrol →
      Machine.exec (.patrolDue core engine) s = .next (satF (ENG_PATROL n e) ENG_PATROL_DEFERRED 1 due)) ∧
    (patrolFree s n e = true → g.patrolDue = true → Machine.exec (.patrolStart core engine) s = .next begun) ∧
    (g.state = .patrol → g.patrolFor = none →
      let s1 := setEng n e { g with state := .idle, patrolFor := none } (notePatrolWait n e s)
      Machine.exec (.patrolComplete core engine 0) s = .next (offProgress n (wokenCheck n
        (setF (ENG_PATROL n e) ENG_PATROL_DEFERRED 0 (setF (ENG_PATROL n e) ENG_PATROL_LAST_FAIL 0
          (incF (ENG_PATROL n e) ENG_PATROL_PASSES 1 s1))))) ∧
      ∀ f : BitVec 4, f ≠ 0 → Machine.exec (.patrolComplete core engine f) s = .next (offProgress n (wokenCheck n
        (retireCore n 1 e f.toNat (setF (ENG_PATROL n e) ENG_PATROL_LAST_SECTION f.toNat
          (setF (ENG_PATROL n e) ENG_PATROL_LAST_FAIL 1 (engFlag n e ENG_FLAGS_PATROL_FAIL true s1))))))) ∧
    (
      let x := noteEngineReset n (clearEngine n e (fAbort 2) (beginRung 2 (4 * n + e) true false s))
      rungSpent s 2 (4 * n + e) = false → x.2 = false →
      Machine.exec (.engineReset core engine) s = .next (settleAborts (endRung 2 (4 * n + e) x.1))) ∧
    (∀ u : BitVec 3, u.toNat < 4 → (getEng s n u.toNat).flight ≠ none →
      Machine.exec (.stepWatchdog core u) s = Machine.exec (.engineReset core (u.setWidth 2)) s) ∧
    (∀ u : BitVec 3, 4 ≤ u.toNat → Machine.exec (.stepWatchdog core u) s = .next (resetPartOf n true false s))

/-- R179, R182, R188, R192 to R195, R199, R538 to R540: the hold bit; a turn-off begins the handshake, or waits for the wake;
a wake begins from OFF, or waits for the turn-off; a ramp goes up and down stage by stage and waits for its place; a scrub
records every sector it found; a core cache is written back, zeroes a line, or fails the step where it does not cache, and
releases its miss slot to the accesses that waited for it; the sets under copy are held once their copy is complete. -/
def Obligations.CoreCommandsTakeEffect : Prop :=
  ∀ (core : BitVec 8) (s : State),
    let n := core.toNat
    let c := coreOf s n
    let on := c.state = .idle ∨ c.state = .running ∨ c.state = .parked
    (∀ w b, isReeveWarden w = true →
      Machine.exec (.coreHold w core b) s = .next (setF (CORE_CTL n) CORE_CTL_HOLD (bnat b) s)) ∧
    (on → Machine.exec (.offReq core) s =
      .next (offProgress n (setCore n { c with state := .turningOff, wakePending := false } s))) ∧
    (c.state = .waking → Machine.exec (.offReq core) s = .next (setCore n { c with offPending := true } s)) ∧
    (
      let s1 := { s with power := { s.power with offs := s.power.offs.filter fun e => e.core != n, quiet := 0 } }
      (c.state = .off → Machine.exec (.wake core) s = .next
        (askRamp n true (setCore n { c with state := .waking, wakePending := false, larderAwake := false } s1))) ∧
      (c.state = .turningOff → Machine.exec (.wake core) s = .next (setCore n { c with wakePending := true } s1))) ∧
    (c.state = .off → Machine.exec (.wakeHoldExpiry core) s = .next (setCore n { c with larderAwake := false } s)) ∧
    (c.rampWait = false →
      (∀ k, c.rampUp = some k → k < 8 →
        Machine.exec (.rampStage core) s = .next (setCore n { c with rampUp := some (k + 1) } s)) ∧
      (∀ k, c.rampUp = some k → 8 ≤ k → c.state = .waking →
        Machine.exec (.rampStage core) s =
          .next (setEngines n (fun e => { e with state := .patrol }) (setCore n { c with rampUp := none } s))) ∧
      (∀ k, c.rampUp = none → c.rampDown = some k → k < 8 →
        Machine.exec (.rampStage core) s = .next (setCore n { c with rampDown := some (k + 1) } s)) ∧
      (∀ k, c.rampUp = none → c.rampDown = some k → 8 ≤ k → c.state = .turningOff →
        c.offStage = true →
        Machine.exec (.rampStage core) s = .next (finishOff n (setCore n { c with rampDown := none } s)))) ∧
    (c.rampWait = true → ∀ b, Machine.exec (.rampStart core b) s = .next (beginRamp n c.rampUp.isSome s)) ∧
    (c.rampWait = false → on → c.rampUp = none → c.rampDown = none → ∀ b,
      (rampsBegun s (n / 64) < 8 → Machine.exec (.rampStart core b) s = .next (beginRamp n b s)) ∧
      (8 ≤ rampsBegun s (n / 64) → Machine.exec (.rampStart core b) s = .next (incF (RAMP_WAITS (n / 64)) RAMP_WAITS_WAITS 1
        (setCore n (if b then { c with rampUp := some 0, rampDown := none, rampWait := true }
          else { c with rampDown := some 0, rampUp := none, rampWait := true }) s)))) ∧
    (∀ found, c.state ≠ .unassigned → c.state ≠ .mappingIn → (found.all fun f => decide (f.1.toNat < 98304)) = true →
      Machine.exec (.larderScrub core found) s = .next (found.foldl (fun s f => larderError n f.1.toNat f.2 s) s)) ∧
    (∃ t, Machine.exec (.cacheFlush core) s = .next t ∧ t = flushCore (getF s HC_STATUS HC_STATUS_DIR_UP == 0) n s ∧
      (Assoc.wf (fun _ => PCache.empty) s.hc.caches = true →
        (pcacheOf t (128 + n)).lines = [] ∧ (pcacheOf t (128 + n)).wb = [])) ∧
    (∀ a : BitVec 48, inDomain (a.toNat / 64) = true →
      (coreCaches s n = true → Machine.exec (.zeroLine core a) s = .next (access (128 + n) a.toNat .zeroUnique s)) ∧
      (coreCaches s n = false → Machine.exec (.zeroLine core a) s = .next (failCurrent n (fParam rRange 0) s))) ∧
    (∀ l, (pcacheOf s (128 + n)).miss = some l → (asking s (128 + n) l = false ∨ coreCaches s n = false) →
      Machine.exec (.cacheMissFill core) s = .next ((pcacheOf s (128 + n)).waits.foldl (fun s x => access (128 + n) x.1 x.2 s)
        (setPcache (128 + n) { pcacheOf s (128 + n) with miss := none, waits := [] } s))) ∧
    Machine.exec (.setLoadComplete core) s =
      .next (setCore n { c with joining := false, reload := [], sets := c.sets.map fun l => { l with held := true } } s)

/-! ### Coherence -/

/-- R187, R188, R191, R450 to R456: a request that its agent's own cache serves is a hit, or, in a core's cache, finds an error or
waits for the miss that is filling the line; one it does not serve reaches its home, which accepts it where nothing is ahead of it
and makes it wait where the line is busy; an atomic and the cache-block operations go to the home. -/
def Obligations.CoherenceRequestsTakeEffect : Prop :=
  ∀ (agent : BitVec 9) (addr : BitVec 48) (s : State),
    let a := agent.toNat
    let l := addr.toNat / 64
    let p := plineOf s a l
    let open_ := getF s HC_STATUS HC_STATUS_DIR_UP = 1 ∧ agentLive s a = true ∧ inDomain l = true
    let free := busyOf s l = none ∧ (s.hc.waiting.any fun w => w.2.1 / 64 == l) = false
    -- a core's cache checks the line first, and waits for a miss on the line itself
    let tag := s.upsets.contains (.tag (a - 128) l)
    let sound := isCore a = true →
      (pcacheOf s a).miss ≠ some l ∧ tag = false ∧ s.upsets.contains (.data (a - 128) l) = false ∧ p.data < 2 ^ 512
    (agentLive s a = true → inDomain l = true →
      (p.state ≠ .i → sound → Machine.exec (.readShared agent addr) s = .next (hitLine a l s)) ∧
      ((p.state = .m ∨ p.state = .e) → sound →
        Machine.exec (.readUnique agent addr) s = .next (hitLine a l s) ∧
        Machine.exec (.upgrade agent addr) s = .next (hitLine a l s) ∧
        Machine.exec (.zeroUnique agent addr) s = .next (hitLine a l (setPline a l { p with state := .m, data := 0 } s))) ∧
      (isCore a = true → (pcacheOf s a).miss ≠ some l → p.state ≠ .i →
        ((tag = true ∧ p.state.dirty = true) ∨ (tag = false ∧ s.upsets.contains (.data (a - 128) l) = true)) →
        Machine.exec (.readShared agent addr) s = .next (cacheError (a - 128) l tag s)) ∧
      (isCore a = true → (pcacheOf s a).miss = some l → ∀ i k, (i = .readShared agent addr ∧ k = .readShared ∨
          i = .readUnique agent addr ∧ k = .readUnique ∨ i = .upgrade agent addr ∧ k = .upgrade ∨
          i = .zeroUnique agent addr ∧ k = .zeroUnique) →
        Machine.exec i s = .next (setPcache a { pcacheOf s a with waits := (pcacheOf s a).waits ++ [(addr.toNat, k)] } s)) ∧
      (isCore a = true → p.state = .i → ∀ i k, (i = .readShared agent addr ∧ k = .readShared ∨
          i = .readUnique agent addr ∧ k = .readUnique ∨ i = .upgrade agent addr ∧ k = .upgrade ∨
          i = .zeroUnique agent addr ∧ k = .zeroUnique) →
        (coreCaches s (a - 128) = true → (pcacheOf s a).miss = none →
          Machine.exec i s = .next (request a addr.toNat k (setPcache a { pcacheOf s a with miss := some l }
            (incF (CACHE_MISSES (a - 128)) CACHE_MISSES_CACHE_MISSES 1 s)))) ∧
        (coreCaches s (a - 128) = true → ∀ x, (pcacheOf s a).miss = some x → x ≠ l →
          Machine.exec i s = .next (setPcache a { pcacheOf s a with waits := (pcacheOf s a).waits ++ [(addr.toNat, k)] } s)) ∧
        (coreCaches s (a - 128) = false → (pcacheOf s a).miss ≠ some l → Machine.exec i s = .next s))) ∧
    (∀ i k, ((i = .readShared agent addr ∧ k = .readShared ∧ p.state = .i) ∨
        (i = .readUnique agent addr ∧ ((k = .readUnique ∧ p.state = .i) ∨ (k = .upgrade ∧ (p.state = .s ∨ p.state = .o)))) ∨
        (i = .upgrade agent addr ∧ k = .upgrade ∧ p.state ≠ .m ∧ p.state ≠ .e) ∨
        (i = .zeroUnique agent addr ∧ k = .zeroUnique ∧ p.state ≠ .m ∧ p.state ≠ .e)) → isCore a = false → open_ →
      (∀ t, free → accept a addr.toNat k s = some t → Machine.exec i s = .next t) ∧
      (busyOf s l ≠ none →
        Machine.exec i s = .next { s with hc := { s.hc with waiting := s.hc.waiting ++ [(a, addr.toNat, k)] } })) ∧
    (∀ i k, ((∃ r, i = .atomic agent addr r ∧ k = .atomic r ∧ atomicAligned addr.toNat r = true) ∨
        (i = .cleanReq agent addr ∧ k = .clean) ∨ (i = .flushReq agent addr ∧ k = .flush) ∨
        (i = .invalReq agent addr ∧ k = .inval)) → open_ →
      (∀ t, free → accept a addr.toNat k s = some t → Machine.exec i s = .next t) ∧
      (busyOf s l ≠ none →
        Machine.exec i s = .next { s with hc := { s.hc with waiting := s.hc.waiting ++ [(a, addr.toNat, k)] } }))

/-- R451, R452, R454: a waiting snoop of each kind is answered by its holder; the answer reaches the home; data reaches the
requester; CompAck frees the line; a victim moves to its cache's buffer and is taken up, or waits where the line is busy (R450), and
WBAck frees its entry. -/
def Obligations.CoherenceResponsesTakeEffect : Prop :=
  ∀ (agent : BitVec 9) (addr : BitVec 48) (s : State),
    let a := agent.toNat
    let l := addr.toNat / 64
    (∀ m rest, s.hc.snoops = m :: rest → m.line = l → m.holder = a → m.answered = none →
      let t := answerSnoop m ((busyOf s l).any fun b => b.kind == .clean) s
      (m.shared = true → Machine.exec (.snpShared agent addr) s = .next t) ∧
      (m.shared = false → m.inval = false → Machine.exec (.snpUnique agent addr) s = .next t) ∧
      (m.inval = true → Machine.exec (.snpInval agent addr) s = .next t)) ∧
    (∀ m x b rest, s.hc.snoops = m :: rest → m.line = l → m.holder = a → m.answered = some x → busyOf s l = some b →
      Machine.exec (.snpResp agent addr) s = .next (snpRespAt l b.addr m b x s)) ∧
    (∀ b d, busyOf s l = some b → b.agent = a → b.snoops = [] → b.delivered = false → b.data = some d →
      Machine.exec (.data agent addr) s = .next (installLine b d s)) ∧
    (∀ b, busyOf s l = some b → b.agent = a → b.delivered = true →
      Machine.exec (.compAck agent addr) s = .next (pump (freeLine b.line s))) ∧
    (getF s HC_STATUS HC_STATUS_DIR_UP = 1 → (plineOf s a l).state = .i →
      ∀ w rest i, (pcacheOf s a).wb = w :: rest → w.line = l →
      ((i = .wbDirty agent addr ∧ w.was.dirty = true) ∨ (i = .wbClean agent addr ∧ w.was.dirty = false)) →
      ((busyOf s l = none → (s.hc.waiting.any fun y => y.2.1 / 64 == l) = false → Machine.exec i s = .next (takeUp a l w s)) ∧
        (busyOf s l ≠ none → s.hc.waiting.contains (a, 64 * l, .wb) = false → Machine.exec i s =
          .next { s with hc := { s.hc with waiting := s.hc.waiting ++ [(a, 64 * l, .wb)] } }))) ∧
    (∀ k rest, s.hc.wbAcks = (a, l, k) :: rest →
      Machine.exec (.wbAck agent addr) s = .next (setPcache a { pcacheOf s a with
        wb := (pcacheOf s a).wb.filter (·.line != l) } { s with hc := { s.hc with wbAcks := rest } }))

/-- R449, R450, R452: a host core that reads a line nobody holds takes it in state E, with memory's data: request, data and
CompAck each advance the transaction, the directory ends with the reader as owner in E, and memory is as before; a poisoned line of a stack shows in its STK_ECC (R366). -/
def Obligations.AColdReadEndsExclusive : Prop :=
  ∀ (agent : BitVec 9) (addr : BitVec 48) (s : State),
    let a := agent.toNat
    let l := addr.toNat / 64
    a < 96 → inDomain l = true → getF s HC_STATUS HC_STATUS_DIR_UP = 1 → s.hc = HostComplex.reset →
    ∃ t u v, Machine.exec (.readShared agent addr) s = .next t ∧ Machine.exec (.data agent addr) t = .next u ∧
      Machine.exec (.compAck agent addr) u = .next v ∧
      plineOf v a l = ⟨.e, memLine s l, false, 0⟩ ∧ busyOf v l = none ∧
      (dirOf v l).state = .e ∧ (dirOf v l).owner = a ∧ (dirOf v l).all = [a] ∧
      (∀ b m, (b, m) ≠ (a, l) → plineOf v b m = PLine.none) ∧ v.mem = s.mem ∧
      (poisoned s (64 * l) 64 = false → v.regs = s.regs) ∧
      (∀ k, tgtOf s (64 * l) = .stack k → poisoned s (64 * l) 64 = true → getF v (STK_ECC k) STK_ECC_POISON_READ = 1)

/-- R372, R373, Table 12-2: an atomic at a base die whose sector is sound stores the operation's new value at its address and
answers the old word, with every other byte of memory as before; and what each operation makes of a 64-bit word, and whether a
compare and swap swaps. -/
def Obligations.BaseDieAtomicsReadModifyWrite : Prop :=
  (∀ (addr : BitVec 48) (r : AtomicReq) (k : Nat) (s : State),
    let a := addr.toNat
    let old := leNat (readMem s a (atSize r))
    Memory.wf s.mem = true → tgtOf s a = .stack k → atomicAligned a r = true → refusal s true (.stack k) = none →
    ownerPlace s a = .mem a none → poisoned s a (atSize r) = false →
    ∃ t, Machine.exec (.baseDieAtomic addr r) s = .next t ∧
      readMem t a (atSize r) = leBytes (atSize r) (atApply r old).1 ∧
      (∀ x, x < a ∨ a + atSize r ≤ x → memByte t x = memByte s x) ∧
      t.hc.results = s.hc.results ++ [(511, old, (atApply r old).2)] ∧ t.regs = s.regs) ∧
  (∀ (old v x : BitVec 64),
    let f (op : AtomicOp) : Nat × Bool := atApply ⟨op, true, v⟩ old.toNat
    f .add = ((old + v).toNat, true) ∧ f .and = ((old &&& v).toNat, true) ∧ f .or = ((old ||| v).toNat, true) ∧
    f .xor = ((old ^^^ v).toNat, true) ∧ f .swap = (v.toNat, true) ∧
    f .smin = ((if v.slt old then v else old).toNat, true) ∧ f .smax = ((if old.slt v then v else old).toNat, true) ∧
    f .umin = ((if v.ult old then v else old).toNat, true) ∧ f .umax = ((if old.ult v then v else old).toNat, true) ∧
    f (.cas x) = (if old = x then (v.toNat, true) else (old.toNat, false)))

/-! ### The bell, pages and epochs -/

/-- R307, R312: an edge raises the count by one; only the lock jump, of a unit that is acquiring and has not jumped, takes it
to the schedule, and only forward. -/
def Obligations.TheBellCountsItsEdges : Prop :=
  ∀ (schedule : BitVec 64) (s : State),
    ∃ t, Machine.exec (.bellEdge schedule) s = .next t ∧
      ((getF s BELL_SYNC BELL_SYNC_STATE ≠ 1 ∨ s.jumped = true ∨ schedule.toNat ≤ s.bell.toNat) →
        t.bell = s.bell + 1 ∧ t.jumped = s.jumped) ∧
      (getF s BELL_SYNC BELL_SYNC_STATE = 1 → s.jumped = false → s.bell.toNat < schedule.toNat →
        t.bell = schedule ∧ t.jumped = true) ∧
      t = strike (settle (grantBoost (switchEpochs t.bell.toNat (refillAll (completeLoads (edgeCtxs
        (applyStaged (latchAll (measureOffset (advance (nextCount schedule.toNat s)))))))))))

/-- R310 to R313, R317, R319, R531: a core's own resets of its balances; the discipline's transitions; a boost point; a store
to the next page, which the now page does not see. -/
def Obligations.BellCommandsTakeEffect : Prop :=
  ∀ (core : BitVec 8) (s : State),
    (∀ x cx, s.ctxs = [(x, cx)] → cx ≠ Ctx.free →
      let u := { cx with engine := resetLocal core.toNat cx.engine, stack := resetLocal core.toNat cx.stack,
                         fabric := resetLocal core.toNat cx.fabric, host := resetLocal core.toNat cx.host }
      u ≠ Ctx.free → Machine.exec (.localBalanceReset core) s = .next { s with ctxs := [(x, u)] }) ∧
    (let i := coreIsland s core.toNat
     let pts := Assoc.put (fun _ => 0) s.power.points i (Assoc.get (fun _ => 0) s.power.granted i)
     Machine.exec (.boostPointChange core) s = .next { s with power := { s.power with points := pts } }) ∧
    (∀ k : BitVec 3, 1 ≤ k.toNat → k.toNat ≤ 3 → getF s BELL_CTL BELL_CTL_SRC_PREF = 0 →
      getF s BELL_SYNC BELL_SYNC_SOURCE = 0 → (getF s BELL_SYNC BELL_SYNC_STATE = 0 ∨ getF s BELL_SYNC BELL_SYNC_STATE = 3) →
      Machine.exec (.bellSourceValid k) s = .next (setDiscipline 1 (setF BELL_SYNC BELL_SYNC_SOURCE k.toNat s))) ∧
    (getF s BELL_SYNC BELL_SYNC_STATE = 1 → s.jumped = true →
      Machine.exec .bellLocked s = .next (setDiscipline 2 s)) ∧
    (getF s BELL_SYNC BELL_SYNC_STATE = 2 → Machine.exec .bellHoldover s =
      .next (setDiscipline 3 (setF BELL_SYNC BELL_SYNC_SOURCE 0 (setF BELL_SYNC BELL_SYNC_HOLDOVER_EVT 1 s)))) ∧
    (∀ (x : BitVec 32) (off : BitVec 7) (v : BitVec 64), x ≠ 0 → (ctxOf s x.toNat).state ≠ .free → off.toNat % 8 = 0 →
      64 ≤ off.toNat → ∃ u, Machine.exec (.ctxPageStore x off 8 v) s = .next (setCtx x.toNat u s) ∧
        u.now = (ctxOf s x.toNat).now ∧ bits u.next (8 * off.toNat + 63) (8 * off.toNat) = v.toNat)

/-- R317, R318, R320: at an edge a context's pool becomes its effective allotment, and what it did not spend where it carries,
less its debt; what the pool cannot cover stays owed, and with no debt and no carry the pool is the allotment. The next page
becomes the now page, but for the words SPENT, PARKED and SCALED that the module writes, and starts again as a copy of it with
those words 0. Between edges (R175, R315, R316) a charge moves what it spends out of the pool and the core's balance and nothing
more, traffic never overdraws, and a step overdraws by less than itself; a charge is refused only where the pool is used up. -/
def Obligations.TheEdgeRefillsPoolsAndSwapsPages : Prop :=
  (∀ (e : Nat) (carry : Bool) (b : Budget),
    let t := refill e carry b
    let due := debtOf b + b.owed
    let kept := if carry then min (unspentOf b) e else 0
    t.eff = e ∧ t.start = t.pool ∧ (t.pool : Int) - t.owed = (e : Int) + kept - due ∧ (t.pool = 0 ∨ t.owed = 0) ∧
    t.pool ≤ 2 * e ∧ (carry = false → due = 0 → t.pool = e ∧ t.owed = 0)) ∧
  (∀ (s : State) (x : Ctx), x.next < 2 ^ 1024 →
    let y := edgeCtx s x
    bits y.now 255 0 = bits x.next 255 0 ∧ bits y.now 1023 512 = bits x.next 1023 512 ∧
    bits y.next 255 0 = bits y.now 255 0 ∧ bits y.next 511 256 = 0 ∧ bits y.next 1023 512 = bits y.now 1023 512) ∧
  (∀ (cls core n : Nat) (x : Ctx), n ≠ 0 → Assoc.wf (fun _ => (0 : Int)) (budgetOf x cls).locals = true →
    let b := budgetOf x cls
    (∀ y, payUnit cls core n x = some y →
      ((budgetOf y cls).pool : Int) + localBal (budgetOf y cls) core + n = b.pool + localBal b core ∧
      -(n : Int) < localBal (budgetOf y cls) core ∧ (cls ≠ 1 → 0 ≤ localBal (budgetOf y cls) core) ∧
      ∀ k, k ≠ core → localBal (budgetOf y cls) k = localBal b k) ∧
    (payUnit cls core n x = none → 0 ≤ localBal b core →
      (cls = 1 → b.pool = 0 ∧ localBal b core = 0) ∧ (cls ≠ 1 → (b.pool : Int) + localBal b core < n)))

/-- R326 to R329, R472, R480, R485: a message of a parish commit is a request, applied and acknowledged where it is the next in its
order, and dropped where it comes too early; an ABORT of a collective frees its slots. A participant that can commit makes the slot PENDING and votes YES, one that cannot votes against, and one whose
slot is STAGING holds its vote until the stage has ended; a vote counts, the last one decides, a vote against ends the commit; DECIDE fixes the bell, ABORT puts the slot back, and a missed
deadline moves the target to the next bell. -/
def Obligations.ParishMessagesTakeEffect : Prop :=
  ∀ (src h : BitVec 16) (s : State),
    (∀ (m : MsgHdr) (k : BitVec 8) (ep : BitVec 32) (b : BitVec 64) (per : BitVec 8) (v : VoteKind) (root coll : BitVec 16),
      m.dest.toNat = moduleId s →
      let q := m.src.toNat * 4 + m.cls.toNat
      let want := Assoc.get (fun _ => 0) s.fab.expected q
      let s1 := { s with fab := { s.fab with expected := Assoc.put (fun _ => 0) s.fab.expected q ((want + 1) % 2 ^ 32) } }
      let answered (i : Instr) (r : State) : Prop := Machine.exec i s = .next (sendAck m.src.toNat m.cls.toNat want okAck r)
      (m.seq.toNat = want →
        answered (.prepare m h k ep b per) (prepared m.src.toNat h.toNat k.toNat ep.toNat b.toNat per.toNat s1) ∧
        answered (.vote m h v) (voted m.src.toNat h.toNat v s1) ∧
        answered (.decide m ⟨h, b⟩) (decided h.toNat b.toNat s1) ∧
        answered (.abort ⟨m, .commit h⟩) (aborted h.toNat s1) ∧
        answered (.abort ⟨m, .collective root coll⟩) { s1 with fab := { s1.fab with
          slots := s.fab.slots.filter fun x => !(x.root == root.toNat && x.coll == coll.toNat)
          maxSlots := s.fab.maxSlots.filter fun x => !(x.root == root.toNat && x.coll == coll.toNat) } }) ∧
      (m.seq.toNat ≠ want → counterBefore m.seq (BitVec.ofNat 32 want) = false →
        Machine.exec (.prepare m h k ep b per) s = .next s ∧ Machine.exec (.vote m h v) s = .next s ∧
        Machine.exec (.decide m ⟨h, b⟩) s = .next s ∧ Machine.exec (.abort ⟨m, .commit h⟩) s = .next s)) ∧
    (∀ (k : BitVec 8) (ep : BitVec 32) (b : BitVec 64) (per : BitVec 8),
      (∀ p, progOf s h.toNat = some p → p.commit = none → voteNo s (some p) k.toNat ep.toNat per.toNat = none →
        (p.slot k.toNat).state ≠ .staging →
        ∃ q, prepared src.toNat h.toNat k.toNat ep.toNat b.toNat per.toNat s =
            sendEpoch src.toNat 1 [h.toNat, 0] (setProg h.toNat (some q) s) ∧
          (q.slot k.toNat).state = .pending ∧ (q.slot k.toNat).epoch = (p.slot k.toNat).epoch ∧
          (q.commit.map fun m => (m.slot, m.target, m.prev, m.coordinator, m.decided)) =
            some (k.toNat, b.toNat, (p.slot k.toNat).state, src.toNat, false)) ∧
      (∀ p, progOf s h.toNat = some p → p.commit = none → bellSteady s = true → (p.slot k.toNat).state = .staging →
        per.toNat = getF s BELL_CTL_LIVE BELL_CTL_PERIOD →
        ∃ m, prepared src.toNat h.toNat k.toNat ep.toNat b.toNat per.toNat s = setProg h.toNat (some { p with commit := some m }) s ∧
          m.voteHeld = true ∧ (m.slot, m.coordinator, m.epoch) = (k.toNat, src.toNat, ep.toNat)) ∧
      (∀ v, ((progOf s h.toNat).bind (·.commit)) = none → voteNo s (progOf s h.toNat) k.toNat ep.toNat per.toNat = some v →
        prepared src.toNat h.toNat k.toNat ep.toNat b.toNat per.toNat s = sendEpoch src.toNat 1 [h.toNat, voteNum v] s)) ∧
    (∀ p m, progOf s h.toNat = some p → p.commit = some m → m.voteHeld = true → (p.slot m.slot).state ≠ .staging →
      castVote h.toNat s =
        if (p.slot m.slot).state = .staged ∧ (p.slot m.slot).epoch = m.epoch then
          sendEpoch m.coordinator 1 [h.toNat, 0] (setProg h.toNat (some
            { p.setSlot m.slot { p.slot m.slot with state := .pending } with commit := some { m with prev := .staged } }) s)
        else sendEpoch m.coordinator 1 [h.toNat, 1] (setProg h.toNat (some { p with commit := none }) s)) ∧
    (∀ p m, progOf s h.toNat = some p → p.commit = some m → m.parish = true → m.decided = false →
      (m.coordinator = moduleId s → m.waiting.contains src.toNat = true →
        (m.waiting.filter (· != src.toNat) ≠ [] → voted src.toNat h.toNat .yes s = setProg h.toNat (some { p with
          commit := some { m with waiting := m.waiting.filter (· != src.toNat) } }) s) ∧
        (m.waiting.filter (· != src.toNat) = [] → voted src.toNat h.toNat .yes s =
          decideCommit h.toNat (setProg h.toNat (some { p with commit := some { m with waiting := [] } }) s)) ∧
        voted src.toNat h.toNat .stale s = failCommit h.toNat (fStale m.slot) s ∧
        voted src.toNat h.toNat .busy s = failCommit h.toNat (fParam rState 0) s) ∧
      (∀ b, decided h.toNat b s = setProg h.toNat (some { p with commit := some { m with target := b, decided := true } }) s) ∧
      (m.coordinator ≠ moduleId s → aborted h.toNat s = setProg h.toNat (some
        { p.setSlot m.slot { p.slot m.slot with state := m.prev } with commit := none }) s) ∧
      (m.coordinator = moduleId s → Machine.exec (.commitDeadline h) s =
        .next (ledger 0x0502 0 0 0 (ledgerData [(0, 2, h.toNat), (8, 8, m.target + 1)])
          (incF EPOCH_POSTPONES EPOCH_POSTPONES_EPOCH_POSTPONES 1
            (setProg h.toNat (some { p with commit := some { m with target := m.target + 1 } }) s)))))

/-! ### Descriptor walks and tallies -/

/-- R348, R349, R394, R395, R408, R410, R413: a window write of 0 does nothing; the window's ADD and SUB of another value that no check
refuses change the count, update the scope record and serve the waiters, and one that a check refuses is recorded; a configuration READ shows the entry, a WRITE stores it; held
waiters are offered again. A descriptor lookup that misses starts a walk; the read of a walk in flight installs the descriptor
and counts it, and serves what waited; a walk that times out installs nothing. -/
def Obligations.TallyWindowAndWalksTakeEffect : Prop :=
  ∀ (s : State),
    (∀ (r : TallyRef), Machine.exec (.twAdd r 0) s = .next s ∧ Machine.exec (.twSub r 0) s = .next s) ∧
    (∀ (r : TallyRef) (n : BitVec 64) v, n ≠ 0 → windowTally s r.die.toNat r.index.toNat = true →
      let d := r.die.toNat
      let x := r.index.toNat
      let a := tallyOf s d x
      (if taPair a.attr.toNat then partnerValue s a.attr.toNat = .ok v else v = 0) →
      (addFault d x n.toNat v a = none → Machine.exec (.twAdd r n) s = .next (settle (serve d x (setTally d x
        { a with count := a.count + n, scope := releaseScope a.scope 4 0 } (incOps d s))))) ∧
      (∀ f, addFault d x n.toNat v a = some f → f.1 = Status.tallyOverflow.code → bitAt f.2 12 = false →
        Machine.exec (.twAdd r n) s = .next (windowFault 1 d x (incFaults d (incOps d s))))) ∧
    (∀ (r : TallyRef) (n : BitVec 64), n ≠ 0 → windowTally s r.die.toNat r.index.toNat = true →
      let d := r.die.toNat
      let x := r.index.toNat
      let a := tallyOf s d x
      taPair a.attr.toNat = false → n.toNat ≤ a.count.toNat →
      Machine.exec (.twSub r n) s = .next (settle (serve d x (setTally d x
        { a with count := a.count - n, scope := releaseScope a.scope 4 0 } (incOps d s))))) ∧
    (let d := selDie s
     let x := selIndex s
     let a := tallyOf s d x
     tallyCfgFault s d x = none →
     (Machine.exec .tallyCmdRead s = .next (tallyResult 0 (setReg TALLY_SCOPE_V (scopeWord a.scope)
        (setReg TALLY_ATTR_V a.attr.toNat (setReg TALLY_BOUND_V a.bound.toNat (setReg TALLY_COUNT_V a.count.toNat s)))))) ∧
     (taPlaced a.attr.toNat = false → getReg s TALLY_COUNT_V ≤ getReg s TALLY_BOUND_V →
       attrBad (getReg s TALLY_ATTR_V) = false →
       Machine.exec .tallyCmdWrite s = .next (settle (tallyResult 0 (serve d x (setTally d x
         ⟨BitVec.ofNat 64 (getReg s TALLY_COUNT_V), BitVec.ofNat 64 (getReg s TALLY_BOUND_V),
          BitVec.ofNat 64 (attrStored (getReg s TALLY_ATTR_V)), .noRec⟩ s)))))) ∧
    (∀ (die : BitVec 3) w, (s.waiters.filter fun w => w.held && w.die == die.toNat) = [w] →
      Machine.exec (.waiterReoffer die) s = .next (settle (waitOp w.owner
        (if w.take then applyTake w.die w.index w.n w.core w.owner { s with waiters := s.waiters.filter (· != w) }
          else applyWait w.die w.index w.n w.core w.owner { s with waiters := s.waiters.filter (· != w) })))) ∧
    (∀ (die : BitVec 2) (ctx : BitVec 32) (seg : BitVec 4),
      let d := die.toNat
      let x := ctx.toNat
      let k := descKey (ctxOf s x).part x seg.toNat
      (ctxOf s x).state ≠ .free →
      (s.walks.find? (isWalk d k) = none → (lookup k (poolOf s d k)) = none →
        ∃ ws, Machine.exec (.descriptorWalk die ctx seg) s = .next { s with walks := s.walks ++ [⟨k, d, false, ws⟩] }) ∧
      (∀ w, s.walks.find? (isWalk d k) = some w → walking s w = true → w.stale = false →
        (∀ v, descMem s x seg.toNat = some v →
          Machine.exec (.descriptorWalk die ctx seg) s = .next (installWalk d k v w s)) ∧
        (descMem s x seg.toNat = none →
          Machine.exec (.descriptorWalk die ctx seg) s = .next (failWalk d x seg.toNat w (noteDescRead x seg.toNat s)))) ∧
      (∀ w, s.walks.find? (isWalk d k) = some w →
        Machine.exec (.walkTimeout die ctx seg) s = .next (failWalk d x seg.toNat w s)))

/-! ### Memory tiers -/

/-- R366 to R370, R374, R377, R378: a scrub records what it found; a spare takes a channel's number; a channel that fails is
spared while a spare is free and degrades the stack after that; a stack is fenced and returns; the DDR5 controller resets,
becomes ready and repairs a row. -/
def Obligations.StackAndDdrEventsTakeEffect : Prop :=
  ∀ (stack : BitVec 4) (s : State),
    let k := stack.toNat
    let x := stackOf s k
    (k < 12 → isFenced s domStack k = false → ∀ found, Machine.exec (.stackScrub stack found) s =
      .next (advance (found.foldl (fun s f => stackError k f.1.toNat f.2 s) s))) ∧
    (∀ c r, x.sparing = c :: r → isFenced s domStack k = false → x.spares = [] →
      ∃ y, Machine.exec (.channelSpareDone stack) s = .next (ledger 0x0202 1 (fenceCode domStack k) 0
          (ledgerData [(0, 1, k), (1, 1, c), (2, 1, 0)]) (setF (STK_STATUS k) STK_STATUS_SPARE0_CH c
            (setF (STK_STATUS k) STK_STATUS_SPARE0_USED 1 (setF (STK_STATUS k) STK_STATUS_SPARING (bnat !r.isEmpty) (setStack k y s))))) ∧
        y.spares = [c] ∧ y.sparing = r ∧ y.failed = x.failed) ∧
    (∀ c : BitVec 4, k < 12 → x.failed.contains c.toNat = false → x.sparing.contains c.toNat = false →
      (x.spares.length + x.sparing.length < 2 → Machine.exec (.channelFail stack c) s = .next (startSparing k c.toNat s)) ∧
      (2 ≤ x.spares.length + x.sparing.length → Machine.exec (.channelFail stack c) s = .next (setReason 0 (ledger 0x0203 4
        (fenceCode domStack k) 0 (ledgerData [(0, 1, k), (1, 1, c.toNat)]) (setF (STK_STATUS k) STK_STATUS_DEGRADED 1
          (setStack k { x with failed := x.failed ++ [c.toNat] } s)))))) ∧
    (k < 12 → isFenced s domStack k = false →
      let r := domainReset domStack k 4 (fencedLedger domStack k 0 0 (raiseFence domStack k
        ((linksOf (5 + k)).foldl (fun s i => fenceLink i s) s)))
      (r.2 = false → Machine.exec (.stackFence stack) s = .next (setF (STK_STATUS k) STK_STATUS_STATE 4 r.1)) ∧
      (r.2 = true → Machine.exec (.stackFence stack) s = .next (setReason 0 (setF (STK_STATUS k) STK_STATUS_STATE 3 r.1)))) ∧
    (k < 12 → getF s (STK_STATUS k) STK_STATUS_STATE = 4 → Machine.exec (.stackReady stack) s =
      .next (settle (liftFence domStack k (setF (STK_STATUS k) STK_STATUS_STATE 2 (returnLinks (5 + k) s))))) ∧
    (isFenced s domDdr 0 = false →
      let r := domainReset domDdr 0 2 (setF DDR_STATUS DDR_STATUS_STATE 3 (resetRegs [.ddr]
        (zeroDdr (fencedLedger domDdr 0 0 0 (raiseFence domDdr 0 s)))))
      Machine.exec .ddrControllerReset s = .next (if r.2 then setReason 2 r.1 else r.1)) ∧
    (∀ b, getF s DDR_STATUS DDR_STATUS_STATE ≠ 2 → bitAt (getReg s FLT_STATUS) 2 = false →
      Machine.exec (.ddrReady b) s = .next (settle (liftFence domDdr 0 (setF DDR_STATUS DDR_STATUS_SPEED (1 + bnat b)
        (setF DDR_STATUS DDR_STATUS_CH_UP 0xFF (setF DDR_STATUS DDR_STATUS_STATE 2 s)))))) ∧
    (∀ (ch : BitVec 3) (row : BitVec 48) hard, Machine.exec (.ddrRepair ch row hard) s =
      .next (ledger 0x0204 1 (fenceCode domDdr 0) (moduleId s * 2 ^ 48 + row.toNat)
        (ledgerData [(0, 1, ch.toNat), (1, 1, bnat hard)]) (incF DDR_STATUS DDR_STATUS_PPR_DONE 1 s)))

/-- R381 to R386: the window's access, where its aperture answers; a lost tile is recorded and poisoned; moving data wears a
stick; a worn stick retires; sticks are inserted, removed, rebuilt, adopted and fail. The cellar's state follows the number of
bays in sync (Table 12-4): eight NORMAL, seven DEGRADED, six read only, fewer offline once it has been formed. -/
def Obligations.CellarEventsTakeEffect : Prop :=
  ∀ (bay : BitVec 3) (s : State),
    let b := bay.toNat
    (∀ (a : BitVec 48) v o, a.toNat % 8 = 0 → 0x060000000000 ≤ a.toNat → a.toNat < 0x070000000000 →
      (∀ x : BitVec 64, windowPlace s a.toNat true = .ok (v, o) → Machine.exec (.cellarWindowAccess a (some x)) s =
        .next (buffered v (o / 4096) (writeCellar v o (leBytes 8 x.toNat) s))) ∧
      (windowPlace s a.toNat false = .ok (v, o) → cellarPoisoned s v o 8 = false →
        Machine.exec (.cellarWindowAccess a none) s = .next (emit (.load (readCellar s v o 8) false) s)) ∧
      (windowPlace s a.toNat false = .ok (v, o) → cellarPoisoned s v o 8 = true →
        Machine.exec (.cellarWindowAccess a none) s = .next (emit (.load [] true) s))) ∧
    (∀ (v : BitVec 8) (i : BitVec 48) (g : BitVec 4), g.toNat < 6 → i.toNat < volTiles s v.toNat →
      Machine.exec (.slowChunkRead v i g) s =
        .next (ledger 0x0103 2 0 0 (ledgerData [(0, 1, v.toNat), (8, 8, i.toNat)]) (poisonVolTile v.toNat i.toNat s))) ∧
    (isMember s b = true → ∀ x : BitVec 32,
      Machine.exec (.readDisturbRelocate bay x) s = .next (wearStick b s) ∧
      Machine.exec (.retentionRewrite bay x) s = .next (wearStick b s) ∧
      (∀ p : BitVec 8, 2 ≤ p.toNat →
        Machine.exec (.badBlockRetire bay x p) s = .next (setF (CELLAR_BAY b) CELLAR_BAY_SPARE_PCT p.toNat s)) ∧
      (∀ p : BitVec 8, p.toNat < 2 → bitAt s.tray.inSync b = true → bitAt s.tray.retiring b = false →
        Machine.exec (.badBlockRetire bay x p) s =
          .next (setBay b bayRetiring (setF (CELLAR_BAY b) CELLAR_BAY_SPARE_PCT p.toNat s)))) ∧
    (bitAt s.tray.present b = false →
      Machine.exec (.stickInsert bay .blank) s =
        .next (setBay b bayRebuilding (setF (CELLAR_BAY b) CELLAR_BAY_REBUILT_GIB 0 (showStick b s))) ∧
      Machine.exec (.stickInsert bay .member) s = Machine.exec (.stickInsert bay .blank) s ∧
      Machine.exec (.stickInsert bay .foreign) s = .next (setBay b bayForeign (showStick b s))) ∧
    (bitAt s.tray.present b = true →
      Machine.exec (.stickRemove bay) s = .next (setBay b bayEmpty (setReg (CELLAR_BAY b) 0 s)) ∧
      (bitAt s.tray.failed b = false → Machine.exec (.stickFailure bay) s = .next (setBay b bayFailed s))) ∧
    (bitAt s.tray.rebuilding b = true → Machine.exec (.rebuildComplete bay) s = .next (stickBack b (setBay b bayMember
      (setF (CELLAR_BAY b) CELLAR_BAY_REBUILT_GIB (Config.rebuiltGib s.tick).toNat (advance s))))) ∧
    (bitAt s.tray.foreign b = true → Machine.exec (.adopt (BitVec.ofNat 8 (2 ^ b))) s =
      .next (setBay b bayRebuilding (setF (CELLAR_BAY b) CELLAR_BAY_REBUILT_GIB 0 s))) ∧
    (∀ t : Tray, t.inSync < 256 →
      let n := ((List.range 8).filter fun b => bitAt t.inSync b).length
      (n = 8 → cellarState t = 0) ∧ (n = 7 → cellarState t = 1) ∧ (n = 6 → cellarState t = 2) ∧
      (n < 6 → cellarState t = if t.formed then 3 else 4))

/-- R25, R178, R180, R195, R197, R429, R430. REMOTE_PORT_ACCESS completes: a load of a sound larder address wakes the larder and
answers the bytes, and a store there writes them and nothing else. A load of poison, or of a fenced larder, answers an access
fault; a store to a fenced larder is declared failed; an access to an unpopulated address faults, or is dropped where its agent is
no host core; one that reaches the larder of a core that a spare replaces is held. STORE_DECLARED_FAILED completes for every
target, address, agent and owner: it sets the target's bit in ORD_ERR and is counted, is recorded in the error record if that is
free and in the ledger, and fails what waits on it; the interrupt is raised only where the bit was clear. -/
def Obligations.RemoteAccessesLandOrAreDeclaredFailed : Prop :=
  ∀ (s : State),
    (∀ (w : Agent) (a : BitVec 48) (n : Nat), tgtOf s a.toNat = .larder n →
      let p := Place.mem a.toNat none
      let s1 := wakeLarder p s
      (placeHeld s p = false →
        (∀ len : BitVec 7, a.toNat + len.toNat ≤ larderBase n + larderBytes →
          (refusal s false (.larder n) = none →
            (poisoned s1 a.toNat len.toNat = false → Machine.exec (.remotePortAccess w a none len) s =
              .next (emit (.load (readMem s a.toNat len.toNat) false) s1)) ∧
            (poisoned s1 a.toNat len.toNat = true → Machine.exec (.remotePortAccess w a none len) s =
              .next (emit (.load [] true) (notePoisonRead s1 p)))) ∧
          (refusal s false (.larder n) ≠ none →
            Machine.exec (.remotePortAccess w a none len) s = .next (emit (.load [] true) s))) ∧
        (∀ (len : BitVec 7) bs, a.toNat + bs.length ≤ larderBase n + larderBytes →
          (refusal s true (.larder n) = none → Memory.wf s.mem = true →
            ∃ t, Machine.exec (.remotePortAccess w a (some bs) len) s = .next t ∧ readMem t a.toNat bs.length = bs ∧
              ∀ x, x < a.toNat ∨ a.toNat + bs.length ≤ x → memByte t x = memByte s x) ∧
          (refusal s true (.larder n) ≠ none → Machine.exec (.remotePortAccess w a (some bs) len) s =
            .next (storeFailed (.larder (BitVec.ofNat 8 n)) a.toNat (srcOf w) 0 .none s)))) ∧
      (placeHeld s p = true → ∀ wr (len : BitVec 7),
        a.toNat + (match wr with | some bs => bs.length | none => len.toNat) ≤ larderBase n + larderBytes →
        Machine.exec (.remotePortAccess w a wr len) s = .next (holdAccess (.port w a wr len) s))) ∧
    (∀ (w : Agent) (a : BitVec 48) wr (len : BitVec 7),
      (∀ n, tgtOf s a.toNat = .larder n →
        larderBase n + larderBytes < a.toNat + (match wr with | some bs => bs.length | none => len.toNat)) →
      Machine.exec (.remotePortAccess w a wr len) s = .next (match w, wr with
        | .host .., _ => emit (.load [] true) s
        | _, none => emit (.load [] true) s
        | _, some _ => s)) ∧
    (∀ (t : StoreTarget) (a : BitVec 64) (ag : BitVec 16) (e : BitVec 2) (b : Barrier),
      let bit := (storeFail s t).1
      let f := (storeFail s t).2
      let at_ := storeAddr s t a.toNat
      let src := 2 ^ 31 + bit * 2 ^ 24 + ag.toNat % 256 * 2 ^ 16 + ag.toNat / 256 % 16 * 2 ^ 12 + e.toNat % 4
      let s1 := incF ORD_ERR_COUNT ORD_ERR_COUNT_COUNT 1 (orReg ORD_ERR (2 ^ bit) s)
      let s2 := ledger 0x0306 4 (if bit < 5 then f.2 else 0) at_ (ledgerData [(0, 1, bit), (1, 4, src)])
        (if getF s ORD_ERR_SRC ORD_ERR_SRC_VALID = 1 then s1 else setReg ORD_ERR_SRC src (setReg ORD_ERR_ADDR at_ s1))
      let s3 := if bitAt (getReg s ORD_ERR) bit then s2 else raiseReg ORD_IRQ s2
      Machine.exec (.storeDeclaredFailed t a ag e b) s = .next (settle (failBarrier f b (failWaiting t f b s3))) ∧
      (Assoc.wf regReset s.regs = true → bitAt (getReg s3 ORD_ERR) bit = true))

/-! ### The fabric -/

/-- R466 to R471, R475: a port trains and comes UP, or goes to FAULT with its code; a good flit in turn is taken, one with a
wrong CRC is refused, a NAK replays what is unacknowledged, and the port retrains after sixteen in a row or a hundred bad codewords in a
millisecond; a lane is replaced; a port retrains over its good lanes. -/
def Obligations.FabricPortsTakeEffect : Prop :=
  ∀ (port : BitVec 3) (s : State),
    let p := port.toNat
    (∀ i, getF s (FAB_PORT_CTL p) FAB_PORT_CTL_ENABLE = 1 → moduleId s ≠ 0 → moduleId s ≠ 0xFFFF → portState s p = ptDown →
      Machine.exec (.portTrain port i) s = .next (setF (FAB_PORT_STATUS p) FAB_PORT_STATUS_FAULT 0 (setPortState p ptTraining
        (setFport p { fport s p with peer := some i, lanes := 0xFF, cable := true } s)))) ∧
    (∀ i, (fport s p).peer = some i →
      (portState s p = ptTraining → trainFault s p i = 0 →
        Machine.exec (.trainingComplete port) s = .next (portRise p i true s)) ∧
      (portState s p = ptTraining → trainFault s p i ≠ 0 →
        Machine.exec (.trainingComplete port) s = .next (portFault p (trainFault s p i) s)) ∧
      (portState s p = ptRetraining → Machine.exec (.trainingComplete port) s = .next (portRise p i false s))) ∧
    (portState s p = ptUp →
      (∀ (x : BitVec 2048) (n : BitVec 16),
        let fl := leBytes 256 x.toNat
        let s1 := incF (FAB_PORT_FEC p) FAB_PORT_FEC_CORR_SYMBOLS n.toNat s
        (leNat (slice fl 252 4) = crc32c (fl.take 252) → bits (leNat (fl.take 2)) 11 0 = (fport s p).rxSeq →
          Machine.exec (.flitReceive port x n) s = .next (flitAcks p (leNat (slice fl 2 2)) (leNat (slice fl 4 4))
            (flitPayload p (leNat (fl.take 2)) (slice fl 8 240)
              (setFport p { fport s p with rxSeq := ((fport s p).rxSeq + 1) % 4096, naksInRow := 0 } s1)))) ∧
        (leNat (slice fl 252 4) ≠ crc32c (fl.take 252) →
          let f := fport s p
          let recent := (f.uncorr.filter fun t => decide (clockNow s1 < t + 1000000)) ++ [clockNow s1]
          let u := emit (.nak p ((f.rxSeq + 4095) % 4096)) (incF (FAB_PORT_FEC p) FAB_PORT_FEC_UNCORR_CW 1
            (setFport p { f with naksInRow := f.naksInRow + 1, uncorr := recent } (advance s1)))
          Machine.exec (.flitReceive port x n) s = .next (if 16 ≤ f.naksInRow + 1 ∨ 100 < recent.length then
            portRetrain p (getF u (FAB_PORT_STATUS p) FAB_PORT_STATUS_LANES) u else u))) ∧
      (∀ q : BitVec 12,
        let f := fport s p
        let left := f.replay.filter fun x =>
          decide (0 < (x + 4096 - q.toNat) % 4096) && decide ((x + 4096 - q.toNat) % 4096 ≤ 2048)
        let times := if f.naked.1 = q.toNat then f.naked.2 + 1 else 1
        let u := left.foldl (fun s x => emit (.replay p x) s) (incF (FAB_PORT_RETRY p) FAB_PORT_RETRY_REPLAYED left.length
          (setFport p { f with replay := left, naked := (q.toNat, times) } s))
        Machine.exec (.flitNak port q) s = .next (if 16 ≤ times then
          portRetrain p (getF u (FAB_PORT_STATUS p) FAB_PORT_STATUS_LANES) u else u)) ∧
      (∀ g : BitVec 9, ((List.range 9).filter fun l => bitAt g.toNat l).length < 4 →
        Machine.exec (.portRetrain port g) s =
          .next (leaveUp p (portFault p 5 (incF (FAB_PORT_RETRY p) FAB_PORT_RETRY_RETRAINS 1 s)))) ∧
      (∀ g : BitVec 9, 4 ≤ ((List.range 9).filter fun l => bitAt g.toNat l).length →
        ∃ u, Machine.exec (.portRetrain port g) s = .next (leaveUp p u) ∧ portState u p = portState (setPortState p ptRetraining s) p ∧
          u.mem = s.mem) ∧
      (∀ l : BitVec 4, l.toNat ≤ 8 → bitAt (getF s (FAB_PORT_STATUS p) FAB_PORT_STATUS_LANES) l.toNat = true →
        getF s (FAB_PORT_STATUS p) FAB_PORT_STATUS_SPARE_USED = 0 →
        let now := getF s (FAB_PORT_STATUS p) FAB_PORT_STATUS_LANES - 2 ^ l.toNat + 256
        Machine.exec (.laneSwap port l) s = .next (ledger 0x0205 1 (fenceCode domPort p) 0
          (ledgerData [(0, 1, 1), (1, 1, p), (2, 1, l.toNat)]) (incF (FAB_PORT_RETRY p) FAB_PORT_RETRY_LANE_SWAPS 1
            (setF (FAB_PORT_STATUS p) FAB_PORT_STATUS_SPARE_USED 1 (setF (FAB_PORT_STATUS p) FAB_PORT_STATUS_SPARE_FOR l.toNat
              (setF (FAB_PORT_STATUS p) FAB_PORT_STATUS_LANES now (setFport p { fport s p with lanes := now } s))))))))

/-- R476 to R483: a newer record of another origin is kept and flooded, the module's own is refreshed, an old one expires; the
routes are computed, and an entry written; unacknowledged requests leave again; a destination that stays silent is declared
lost. -/
def Obligations.RoutingTakesEffect : Prop :=
  ∀ (s : State),
    (∀ l o, s.fab.lsrs.find? (·.origin == l.origin) = some o → l.origin.toNat ≠ moduleId s → o.seq.toNat < l.seq.toNat →
      Machine.exec (.lsr l) s = .next (keepLsr l s)) ∧
    (∀ l, s.fab.lsrs.find? (·.origin == l.origin) = none → l.origin.toNat ≠ moduleId s → s.fab.lsrs.length < 65536 →
      Machine.exec (.lsr l) s = .next (keepLsr l s)) ∧
    (∀ l o, s.fab.lsrs.find? (·.origin == l.origin) = some o → l.origin.toNat ≠ moduleId s → l.seq.toNat ≤ o.seq.toNat →
      Machine.exec (.lsr l) s = .next s) ∧
    (∃ t, Machine.exec .lsrRefresh s = .next t ∧ t.fab.ownLsrSeq = (s.fab.ownLsrSeq + 1) % 2 ^ 32 ∧ t.mem = s.mem ∧
      t.regs = s.regs) ∧
    (∀ o, (s.fab.lsrs.any (·.origin == o)) = true → Machine.exec (.lsrExpiry o) s =
      .next (recomputing { s with fab := { s.fab with lsrs := s.fab.lsrs.filter (·.origin != o) } })) ∧
    (Machine.exec .routeCompute s = .next (routeCompute s)) ∧
    (∀ w v, let m := getF s FAB_ROUTE_SEL FAB_ROUTE_SEL_MODULE
      let old := routeOf s m
      let new : Route := if bitAt v.toNat 62 then
          ⟨bits v.toNat 2 0, bits v.toNat 39 24, bits v.toNat 6 4, bitAt v.toNat 7, bitAt v.toNat 63, true,
            old.lost && !bitAt v.toNat 61, old.v2⟩
        else { old with static := false, lost := old.lost && !bitAt v.toNat 61 }
      Machine.exec (.fabRouteData w v) s = .next (releaseHeld (if new.port != old.port || new.hops != old.hops then
        retransmit (fun r => r.dest == m) (setRoute m new s) else setRoute m new s))) ∧
    (∀ (d : BitVec 16) (c : BitVec 2), Machine.exec (.e2eRetransmit d c) s =
      .next (retransmit (fun r => r.dest == d.toNat && r.cls == c.toNat) s)) ∧
    (∀ (d : BitVec 16) (c : BitVec 2),
      (s.fab.outstanding.any fun r => r.dest == d.toNat && r.cls == c.toNat && r.sent) = true →
      Machine.exec (.linkTimeout d c) s = .next (declareLost d.toNat s))

/-- R58, R180, R197, R472, R474, R480, R484 to R486: a request that is next in its order is applied and acknowledged, and one that
came before is acknowledged again; one that reaches the larder of a core that a spare replaces is held. READ_RESP completes: sound
data reaches the request that asked for it, whose bytes the read has taken (a free value, log 4), poisoned data poisons the
destination of a raw copy and fails any other requester, and data that nothing asked for is dropped. An acknowledgement reaches
what waits for it; a contribution is combined. -/
def Obligations.FabricMessagesTakeEffect : Prop :=
  ∀ (h : MsgHdr) (s : State), h.dest.toNat = moduleId s →
    let k := h.src.toNat * 4 + h.cls.toNat
    let want := Assoc.get (fun _ => 0) s.fab.expected k
    let s1 := { s with fab := { s.fab with expected := Assoc.put (fun _ => 0) s.fab.expected k ((want + 1) % 2 ^ 32) } }
    let answered (i : Instr) (r : State × Fail) : Prop := Machine.exec i s =
      .next (settle (sendAck h.src.toNat h.cls.toNat want r.2 (if r.2.1 = 0 then r.1 else
        { r.1 with fab := { r.1.fab with faultAcks := r.1.fab.faultAcks ++ [(k, want, r.2.1, r.2.2)] } })))
    (h.seq.toNat = want →
      (∀ r bs b, remoteHeld s h r bs.length true b = false →
        answered (.fabWrite h r bs b) (remoteWrite h.src.toNat r bs b s1)) ∧
      (∀ r n, remoteHeld s h r n.toNat false false = false → answered (.readReq h r n) (remoteRead h r n.toNat s1)) ∧
      (∀ op t n sc, answered (.tallyOp h op t n sc) (remoteTally h.src.toNat op t n.toNat sc.toNat s1)) ∧
      (∀ m d, descOf s m.root.toNat m.coll.toNat = some d → m.root.toNat = moduleId s →
        ∀ u, collCombine d h m s = some u → answered (.collAdd h m) ((collCombine d h m s1).getD s1, okAck)) ∧
      (∀ m d, descOf s m.root.toNat m.coll.toNat = some d → answered (.collMax h m) (collMaxAt d h m s1, okAck))) ∧
    (∀ r bs b, remoteHeld s h r bs.length true b = true →
      Machine.exec (.fabWrite h r bs b) s = .next (holdAccess (.fabWrite h r bs b) s)) ∧
    (∀ r n, remoteHeld s h r n.toNat false false = true →
      Machine.exec (.readReq h r n) s = .next (holdAccess (.readReq h r n) s)) ∧
    (∀ r bs b, remoteHeld s h r bs.length true b = false → h.seq.toNat ≠ want → counterBefore h.seq (BitVec.ofNat 32 want) = true →
      Machine.exec (.fabWrite h r bs b) s = .next (sendAck h.src.toNat h.cls.toNat h.seq.toNat
        (((s.fab.faultAcks.find? fun e => e.1 == k && e.2.1 == h.seq.toNat).map (·.2.2)).getD okAck) s)) ∧
    (∀ r bs, (s.fab.outstanding.find? fun r => isReq h r && r.kind == 2) = some r →
      Machine.exec (.readResp h bs false) s = .next s ∧
      (rawDest s r.owner r.slot (r.args.headD 0) = none → Machine.exec (.readResp h bs true) s = .next (settle (failBarrier (fTile r.slot .corrupt) r.owner
        (ledgerCorrupt r.slot (.far r.dest (r.args.headD 0)) (Header.ofBytes []) s)))) ∧
      (∀ a k, rawDest s r.owner r.slot (r.args.headD 0) = some (.mem a k) →
        Machine.exec (.readResp h bs true) s = .next (settle (placePoisonWrite (.mem a k) s)))) ∧
    (∀ bs bad, (s.fab.outstanding.find? fun r => isReq h r && r.kind == 2) = none →
      Machine.exec (.readResp h bs bad) s = .next s) ∧
    (∀ r, (s.fab.outstanding.find? fun r => isReq h r && r.sent) = some r → r.parts = [] →
      let s1 := { s with fab := { s.fab with outstanding := s.fab.outstanding.filter fun x => !isReq h x } }
      Machine.exec (.ack h 0 0) s = .next (settle (sendWaiting (acked r s1))) ∧
      (∀ st d : BitVec 16, failing st.toNat = true → Machine.exec (.ack h st d) s =
        .next (settle (sendWaiting (failBarrier (asLocal r (st.toNat, d.toNat)) r.owner s1)))))

/-! ### Die links, compute dies and guest sites -/

/-- R490 to R494, R500, R501: a link beats; a lane is repaired, or its module dropped; a stile that falls silent is fenced; a
die is lost, and returns. -/
def Obligations.DieEventsTakeEffect : Prop :=
  ∀ (s : State),
    (∀ l : BitVec 6, l.toNat < 44 → (linkState s l.toNat = 2 ∨ linkState s l.toNat = 3) →
      Machine.exec (.beat l) s = .next { s with out := s.out ++ [.beat l.toNat] }) ∧
    (∀ (l : BitVec 6) (n : BitVec 8), l.toNat < 44 → Machine.exec (.dieLinkRepair l n false) s =
      .next (ledger 0x0205 1 0 0 (ledgerData [(0, 1, 2), (1, 1, l.toNat), (2, 1, n.toNat), (3, 1, 0)])
        (satF (DL_LINK_STATUS l.toNat) DL_LINK_STATUS_LANES_REPAIRED 1 s)) ∧
      Machine.exec (.dieLinkRepair l n true) s =
        .next (ledger 0x0205 1 0 0 (ledgerData [(0, 1, 2), (1, 1, l.toNat), (2, 1, n.toNat), (3, 1, 1)])
          (setReason 6 (setF (DL_LINK_STATUS l.toNat) DL_LINK_STATUS_STATE 3 (setF (DL_LINK_STATUS l.toNat)
            DL_LINK_STATUS_MODULES_UP (getF s (DL_LINK_STATUS l.toNat) DL_LINK_STATUS_MODULES_UP - 1) s))))) ∧
    (∀ l : BitVec 6, l.toNat < 44 → (linkState s l.toNat = 2 ∨ linkState s l.toNat = 3) →
      (linkEnds l.toNat).1 < 4 → (linkEnds l.toNat).2 < 4 →
      let s1 := fenceLink l.toNat s
      dieSilent s1 (linkEnds l.toNat).1 = false → dieSilent s1 (linkEnds l.toNat).2 = false →
      Machine.exec (.stileFence l) s = .next s1) ∧
    (∀ d : BitVec 2, isFenced s domDie d.toNat = false →
      ∃ t, Machine.exec (.dieFence d) s = .next t ∧ t = serveAllHeld (dieFence d.toNat s)) ∧
    (∀ d : BitVec 2, isFenced s domDie d.toNat = true → dieStuck s d.toNat = false →
      ∃ t u, Machine.exec (.dieReturn d) s = .next t ∧
        t = settle (bumpMeas (ledger 0x0406 4 (fenceCode domDie d.toNat) 0 (ledgerData [(0, 1, d.toNat)])
          (resetLedger domDie d.toNat (resetsInHour u domDie d.toNat (clockNow u)) u))) ∧
        isFenced u domDie d.toNat = false)

/-- R495 to R499: a guest's record makes its site READY, or leaves it HELD with the reason; a held change of identity is
accepted; a snoop unanswered fences the site, a reset retrains it; and a READY, bound initiator reads, writes, makes an atomic
access, adds to a tally and raises an interrupt where its context and its partition allow it. -/
def Obligations.GuestCommandsTakeEffect : Prop :=
  ∀ (g1 : Bool) (tag : BitVec 12) (s : State),
    let g := bnat g1
    let x := guestOf s g1
    (∀ r, isP s = true → siteState s g = gsNegotiating → getF s (GUEST_CTL g) GUEST_CTL_ENABLE = 1 →
      let s1 := emit (.guestCtl g1 1) (setGuest g1 { x with offered := some r } s)
      (holdReason x r = 0 → Machine.exec (.cap g1 r) s = .next (acceptCap g1 r s1)) ∧
      (holdReason x r ≠ 0 → Machine.exec (.cap g1 r) s =
        .next (noteSite g1 (siteId s g1)
          (setF (GUEST_STATUS g) GUEST_STATUS_HOLD_REASON (holdReason x r) (setSite g gsHeld s1))))) ∧
    (∀ c, x.offered = some c → siteState s g = gsHeld → getF s (GUEST_STATUS g) GUEST_STATUS_HOLD_REASON = 5 →
      Machine.exec (.guestAccept g1) s = .next (acceptCap g1 c s)) ∧
    (∀ a : BitVec 48, (s.hc.snoops.any fun m => m.holder == 386 + g && m.line == a.toNat / 64) = true → isP s = true →
      isFenced s domGuest g = false → siteState s g ≠ gsDisabled →
      let r := domainReset domGuest g 4 (stopSite g1 (fencedLedger domGuest g 0 0 (raiseFence domGuest g s)))
      Machine.exec (.guestSnoopTimeout g1 a) s = .next (setSite g (if r.2 then gsDisabled else gsFenced) r.1)) ∧
    (isP s = true → siteState s g ≠ gsDisabled →
      ∃ t, Machine.exec (.guestReset g1) s = .next t ∧ t = guestReset g1 s) ∧
    (∀ q, x.requests.find? (·.tag == tag.toNat) = some q →
      let s1 := setGuest g1 { x with requests := x.requests.erase q } s
      Machine.exec (.guestResponse g1 tag .done) s = .next (settle s1) ∧
      (∀ d, Machine.exec (.guestResponse g1 tag (.doneData d false)) s = .next (settle s1)) ∧
      (∀ d, Machine.exec (.guestResponse g1 tag (.doneData d true)) s =
        .next (settle (poisonedData q.owner q.slot (.far (guestWhere g1) q.addr) s1)))) ∧
    (mayInitiate s g1 = true → ∀ cx p, boundCtx s g = some (cx, p) →
      (∀ (a : BitVec 48) (n : BitVec 7) pl, guestPlace s cx p a.toNat (64 * n.toNat) rtRead false = .ok pl →
        placeHeld s pl = false →
        placePoison (wakeLarder pl s) pl (64 * n.toNat) = false → Machine.exec (.guestRead g1 tag a n) s =
          .next (emit (.guestRsp g1 tag.toNat (.doneData (placeRead (wakeLarder pl s) pl (64 * n.toNat)) false))
            (wakeLarder pl s))) ∧
      (∀ (a : BitVec 48) bs bad pl, guestPlace s cx p a.toNat bs.length rtWrite true = .ok pl →
        (placeHeld s pl = true → Machine.exec (.guestWrite g1 tag a bs bad) s =
          .next (holdAccess (.guestWrite g1 tag a bs bad) s)) ∧
        (placeHeld s pl = false → Machine.exec (.guestWrite g1 tag a bs false) s =
          .next (emit (.guestRsp g1 tag.toNat .done) (placeWrite (0, 0) pl bs .none (wakeLarder pl s))))) ∧
      (∀ (a : BitVec 48) r pl, guestPlace s cx p a.toNat (atSize r) (rtRead + rtWrite) true = .ok pl → placeHeld s pl = false →
        a.toNat % atSize r = 0 → placePoison (wakeLarder pl s) pl (atSize r) = false →
        let old := placeRead (wakeLarder pl s) pl (atSize r)
        Machine.exec (.guestAtomic g1 tag a r) s = .next (emit (.guestRsp g1 tag.toNat (.doneData old false))
          (placeWrite (0, 0) pl (leBytes (atSize r) (atApply r (leNat old)).1) .none (wakeLarder pl s)))) ∧
      (∀ (t : TallyRef) (n : BitVec 64), tallyGranted s p t.die.toNat t.index.toNat = true →
        isFenced s domDie t.die.toNat = false → taPair (tallyOf s t.die.toNat t.index.toNat).attr.toNat = false →
        addFault t.die.toNat t.index.toNat n.toNat 0 (tallyOf s t.die.toNat t.index.toNat) = none →
        Machine.exec (.guestTallyOp g1 tag .add t n) s = .next (settle (emit (.guestRsp g1 tag.toNat .done)
          (applyAdd t.die.toNat t.index.toNat n.toNat 0 4 (scopeInst (moduleId s) 0 0) s).1))) ∧
      (∀ (v : BitVec 16) c, x.cap = some c → roleIrq c = true → (partOf s p).vecBase ≤ v.toNat →
        v.toNat < (partOf s p).vecBase + (partOf s p).vecCount → Machine.exec (.guestIrq g1 tag v) s =
          .next (emit (.guestRsp g1 tag.toNat .done) (raiseIrq (partOf s p).irqKind v.toNat none s))))

/-! ### External hosts -/

/-- R504 to R517: a link that trains at a generation and width it may have enables its function; a hold begins, ends with its
writes sent in order, and expires with them dropped; BAR4 reaches the module's memory; an entry is unmasked; an attached
device reads and writes through the IOMMU, its message interrupts reach the harts' interrupt files, and it is cut off where it
leaves a snoop unanswered. -/
def Obligations.ExternalHostCommandsTakeEffect : Prop :=
  ∀ (b : Bool) (s : State),
    let i := portIx b
    (∀ (gen : BitVec 4) (width : BitVec 5), portMode s b = 1 → getF s (EXT_PORT_CTL i) EXT_PORT_CTL_MAX_GEN ≠ 5 →
      getF s (EXT_PORT_CTL i) EXT_PORT_CTL_MAX_GEN ≠ 6 →
      5 ≤ gen.toNat → gen.toNat ≤ 7 → (width.toNat = 8 ∨ width.toNat = 16) → (extPort s b).holding = false →
      Machine.exec (.extLinkUp b gen width) s = .next (enableFunction b true (setExtState b 3
        (setF (EXT_PORT_STATUS i) EXT_PORT_STATUS_GEN gen.toNat (setF (EXT_PORT_STATUS i) EXT_PORT_STATUS_WIDTH width.toNat
          (setF (EXT_PORT_STATUS i) EXT_PORT_STATUS_CXL_CACHE 0 (setF (EXT_PORT_STATUS i) EXT_PORT_STATUS_CXL_MEM 0
            (setExt b { extPort s b with l0 := true } s)))))))) ∧
    (endpointMode s b = true →
      Machine.exec (.extHoldBegin b .linkDown) s = .next (beginHold b false (setExt b { extPort s b with l0 := false } s)) ∧
      Machine.exec (.extHoldBegin b .hostReset) s = .next (beginHold b true (resetFunction b s)) ∧
      Machine.exec (.extHoldBegin b .bmeClear) s =
        .next (beginHold b false (setF (EXT_PORT_STATUS i) EXT_PORT_STATUS_BME 0 s)) ∧
      (∀ l0 bme, Machine.exec (.extHoldEnd b l0 bme) s =
        .next (tryRelease b (enableFunction b bme (setExt b { extPort s b with l0 := l0 } s))))) ∧
    ((extPort s b).holding = true →
      Machine.exec (.resume b) s = .next (tryRelease b (setF (EXT_PORT_STATUS i) EXT_PORT_STATUS_RESUME_NEEDED 0 s)) ∧
      ((extPort s b).held = [] → ∃ u, Machine.exec (.extHoldExpiry b) s = .next (settle u) ∧
        (extPort u b).holding = false ∧ (extPort u b).held = [] ∧ u.mem = s.mem)) ∧
    (∀ (off : BitVec 48) bs a, bar4Addr s b off.toNat bs.length = some a →
      (placeHeld s (.mem a none) = false →
        Machine.exec (.bar4Write b off bs) s = .next (outsideWrite (portClass b) a bs s)) ∧
      (placeHeld s (.mem a none) = true →
        Machine.exec (.bar4Write b off bs) s = .next (holdAccess (.bar4Write b off bs) s))) ∧
    (∀ (off : BitVec 48) (n : BitVec 13) a bs, bar4Addr s b off.toNat n.toNat = some a → placeHeld s (.mem a none) = false →
      outsideRead s a n.toNat = some (bs, false) → Machine.exec (.bar4Read b off n) s =
        .next (emit (.bar b bs false false) (wakeLarder (.mem a none) s))) ∧
    (∀ e : BitVec 11, let m := Assoc.get (fun _ => MsixEntry.reset) (extPort s b).table e.toNat
      m.pending = false → Machine.exec (.msixUnmask b e) s = .next (setExt b { extPort s b with
        table := Assoc.put (fun _ => MsixEntry.reset) (extPort s b).table e.toNat { m with masked := false } } s)) ∧
    (portMode s b = 4 → extState s b = 3 → ∀ a : BitVec 48, (∃ k, tgtOf s a.toNat = .stack k) →
      (∀ (n : BitVec 13) bs, outsideRead s a.toNat n.toNat = some (bs, false) →
        Machine.exec (.rootDeviceDma b a none n true) s = .next (emit (.dma b bs false) s)) ∧
      (∀ (n : BitVec 13) bs, Machine.exec (.rootDeviceDma b a (some bs) n true) s = .next (match msiHart b a.toNat bs s with
        | some h => advance (hostIrq (256 * h + if leNat bs < 256 then leNat bs else 0) s)
        | none => outsideWrite (portClass b) a.toNat bs s)) ∧
      ∀ bs : List Byte, bs.length ≠ 4 → msiHart b a.toNat bs s = none) ∧
    ((s.hc.snoops.any fun m => m.holder == 384 + i) = true →
      let s1 := loseAgent (384 + i) (setExtState b 0 (setExt b { extPort s b with l0 := false } s))
      Machine.exec (.rootSnoopTimeout b) s = .next (if bitAt (getReg s1 ORD_ERR) (6 + i) then s1
        else raiseReg ORD_IRQ (orReg ORD_ERR (2 ^ (6 + i)) s1)))

/-! ### The host complex, power and heat -/

/-- R459, R461, R589: the host complex resets, keeping no cache and counting the reset; boot firmware starts it where a bank is
valid; READY makes it run; a keep-range that passes its checks is stored, one that fails them is not and is counted. -/
def Obligations.HostComplexCommandsTakeEffect : Prop :=
  ∀ (s : State),
    (∀ cause : BitVec 4, ∃ t, Machine.exec (.hostComplexReset cause) s = .next t ∧ t = hostComplexReset cause.toNat s ∧
      t.hc = HostComplex.reset) ∧
    (∀ b, getF s HC_STATUS HC_STATUS_STATE = 1 → s.tray.mainOn = true → getF s BOOT_CFG BOOT_CFG_SOURCE ≠ 3 →
      isFenced s domDdr 0 = false → s.mgmt.activating = none → startBank s .hostBoot = some (b, false) →
      let s1 := setRun .hostBoot b (bumpMeas { s with mgmt := { s.mgmt with hostDigest := digestOf s .hostBoot b } })
      Machine.exec .hostBoot s = .next (setF HC_STATUS HC_STATUS_STATE 2 (setF HC_STATUS HC_STATUS_DIR_UP 1
        (setF HC_STATUS HC_STATUS_HARTS_UP 96 (zeroDdr (liftFence domHost 0
          (if getF s1 BOOT_STATUS BOOT_STATUS_STAGE = 7 then setStage 8 s1 else s1))))))) ∧
    (getF s HC_STATUS HC_STATUS_STATE = 2 →
      Machine.exec .hcReady s = .next (setF HC_STATUS HC_STATUS_STATE 3 (setF HC_CTL HC_CTL_READY 1 s))) ∧
    (∀ w (k : BitVec 3) (v : BitVec 64), mayKeep w = true →
      let m := v.toNat &&& keepMask
      let bad := bitAt m 63 = true ∧ (262144 < keepBase m + keepSize m ∨ keepSize m = 0 ∨ keepOverlaps s k.toNat m = true)
      (¬ bad → Machine.exec (.keepWrite w k v) s = .next (setReg (KEEP k.toNat) m s)) ∧
      (bad → ∃ t, Machine.exec (.keepWrite w k v) s = .next t ∧
        t = cfgReject w (KEEP k.toNat) v.toNat 2 (setF KEEP_STATUS KEEP_STATUS_REJECT 1 s) ∧
        (Assoc.wf regReset s.regs = true → getReg t (KEEP k.toNat) = getReg s (KEEP k.toNat))))

/-- R532 to R546: a sample above the cap turns cores off until their estimates cover the excess; the cap that stays unmet is
reported; a peak is read and cleared; readings, a trip and the coolant act on the module. -/
def Obligations.PowerEventsTakeEffect : Prop :=
  ∀ (s : State),
    (∀ (w : BitVec 13) (mv cur : BitVec 16) es,
      let s1 := noteEstimates es (sampleRegs w.toNat mv.toNat cur.toNat s)
      let s2 := setF PWR_STATUS PWR_STATUS_OVER (bnat (decide (effectiveCap s1 < w.toNat))) { s1 with power := { s1.power with
        sumWatts := s1.power.sumWatts + w.toNat, samples := s1.power.samples + 1 } }
      s.power.moving = [] → effectiveCap s < w.toNat →
      ∃ s3, Machine.exec (.powerSample w mv cur es) s = .next (takeExcess (1000 * (w.toNat - effectiveCap s3))
          (offCandidates { s3 with power := { s3.power with quiet := 0 } } fun _ => true)
          { s3 with power := { s3.power with quiet := 0 } }) ∧
        { s3 with power := s2.power } = setF PWR_STATUS PWR_STATUS_SETTLING 0 s2) ∧
    (getF s PWR_STATUS PWR_STATUS_OVER = 1 → offCandidates s (fun _ => true) = [] → Machine.exec .capUnmet s =
      .next (raiseReg THERM_IRQ (ledger 0x0503 5 0 0 (ledgerData [(0, 2, getF s PWR_INPUT PWR_INPUT_WATTS)])
        (setF PWR_STATUS PWR_STATUS_CAP_UNMET 1 s)))) ∧
    (Machine.exec .pwrPeak s =
      .next (setF PWR_PEAK PWR_PEAK_WATTS 0 (emit (.load (leBytes 4 (getReg s PWR_PEAK)) false) s))) ∧
    (∀ rs ls, Machine.exec (.thermalSample rs ls) s = .next (crossings s (thermalSample rs ls s))) ∧
    (∀ (i : BitVec 9) (c : BitVec 8), 110 ≤ c.toNat → s.tray.mainOn = true →
      ∃ t, Machine.exec (.thermalTrip i c) s = .next t ∧ t.tray.mainOn = false ∧ t.tray.hold = 2 ∧ t.mem = [] ∧
        t.cmds = [] ∧ t.cellar = s.cellar) ∧
    (∀ (i o f : BitVec 12),
      let bad := f.toNat < 10 * getF s THERM_CTL THERM_CTL_FLOW_MIN ∨ 450 < i.toNat
      let s1 := setReg COOL_STATUS (f.toNat * 2 ^ 48 + o.toNat * 2 ^ 32 + i.toNat * 65536) s
      Machine.exec (.coolantSample i o f false) s = .next s1 ∧
      (bad → s.power.cooling = false → ∃ t, Machine.exec (.coolantSample i o f true) s = .next t ∧
        t.power.cooling = true ∧ effectiveCap t ≤ 1200))

/-! ### Faults, the ladder and retirement -/

/-- R556 to R566: a domain is fenced, and what it still holds is answered at its limit; each rung that is not spent runs, a rung
that does not complete within its bound gives way to the next, and a requested one runs; a spare takes a core's number. -/
def Obligations.LadderCommandsTakeEffect : Prop :=
  ∀ (s : State),
    (∀ p : BitVec 4, isFenced s domPart p.toNat = false →
      let s1 := raiseFence domPart p.toNat s
      Machine.exec (.domainFence (.partition p)) s = .next { s1 with faults := { s1.faults with
        draining := setInsert s1.faults.draining (fenceCode domPart p.toNat) } }) ∧
    (∀ (p : BitVec 4) (a d : BitVec 32), (s.faults.draining.contains (fenceCode domPart p.toNat)) = true →
      let s1 := { s with faults := { s.faults with draining := setErase s.faults.draining (fenceCode domPart p.toNat) } }
      Machine.exec (.drainLimitExpiry (.partition p) a d) s =
        .next (settle (fencedLedger domPart p.toNat a.toNat d.toNat (answerRest (.partition p) s1)))) ∧
    (∀ x : BitVec 32, (ctxOf s x.toNat).state ≠ .free → rungSpent s 1 x.toNat = false → Machine.exec (.contextAbort x) s =
      .next (settleAborts (abortContext x.toNat (beginRung 1 x.toNat true false s)))) ∧
    (∀ p : BitVec 4, rungSpent s 3 p.toNat = false → s.faults.active = [] →
      (∀ u, u = beginRung 3 p.toNat true false s → partMapping u p.toNat = false →
        Machine.exec (.partitionReset p) s = .next (endRung 3 p.toNat (partitionResetNow p.toNat u))) ∧
      (∀ u, u = beginRung 3 p.toNat true false s → partMapping u p.toNat = true → Machine.exec (.partitionReset p) s = .next u)) ∧
    (rungSpent s 4 0 = false → ∃ t, Machine.exec .chipReset s = .next t ∧ t = chipReset true false s ∧ t.cmds = [] ∧
      t.ctxs = [] ∧ t.queues = [] ∧ t.cellar = s.cellar ∧ ∀ d x, d ≤ 4 → x < 65536 → tallyOf t d x = Tally.reset) ∧
    (underRung s 5 0 = false → ∃ t, Machine.exec .modulePowerCycle s = .next t ∧ underRung t 5 0 = true ∧
      t.tray.cycleReq = s.tray.mainInput) ∧
    (underRung s 2 0 = true → Machine.exec (.rungBoundExpiry (.engine 0 0)) s = .next (resetPartOf 0 true true (endRung 2 0 s))) ∧
    (∀ v : BitVec 64, rungTargetOk (bits v.toNat 63 60) (bits v.toNat 23 0) = true →
      Machine.exec (.fltResetReq .warden v) s = .next (requestRung (bits v.toNat 63 60) (bits v.toNat 23 0) s)) ∧
    (∀ (n : BitVec 8) m, (coreOf s n.toNat).mapping = some m →
      ((coreOf s n.toNat).engines.any fun e => e.flight.isSome) = false →
      ∃ t, Machine.exec (.spareMapIn n) s = .next t ∧ t = serveAllHeld (mapIn n.toNat s)) ∧
    (∀ (d : BitVec 2) (k : BitVec 7) (f : BitVec 4), k.toNat < 68 → physState s d.toNat k.toNat = 1 → f ≠ 0 →
      (∀ i, i < 64 → (coreOf s (64 * d.toNat + i)).mapping = none) → s.heldPort = [] → Machine.exec (.sparePatrol d k f) s =
        .next (ledger 0x0207 4 (fenceCode domDie d.toNat) 0 (ledgerData [(0, 1, k.toNat), (1, 1, f.toNat)])
          { s with faults := { s.faults with retired := setInsert s.faults.retired (d.toNat * 68 + k.toNat) } }))

/-- R551, R567 to R569, R574, R578: a heartbeat is counted; OWL_CHECK completes, and where every die has
counted since the last one it only notes their counts, while a silent die is fenced and a silent host complex reset; the standby Warden takes over from a
silent one, and serves again; a supply loses a phase; a record goes to the mirror; a capture begins, completes, and is cut off. -/
def Obligations.WatchAndRecordCommandsTakeEffect : Prop :=
  ∀ (s : State),
    (s.tray.mainOn = false → Machine.exec .heartbeat s =
      .next { s with faults := { s.faults with wardenBeat := s.faults.wardenBeat + 1 } }) ∧
    (s.tray.mainOn = false → getF s OWL_CTL OWL_CTL_HOST_EN = 0 → ∃ t, Machine.exec .owlCheck s = .next t ∧
      { t with faults := s.faults } = s ∧ (∀ d, d < 4 → Assoc.wf (fun _ => false) s.faults.watch = true → watched t d = false)) ∧
    (Assoc.wf (fun _ => false) s.faults.watch = true → Assoc.wf (fun _ => 0) s.faults.seen = true → s.tray.mainOn = true →
      underRung s 4 0 = false → getF s OWL_CTL OWL_CTL_HOST_EN = 0 →
      (∀ d, d < 4 → isFenced s domDie d = false ∧ getF s (OWL_BEAT d) OWL_BEAT_BEAT ≠ seenOf s d) →
      ∃ t, Machine.exec .owlCheck s = .next t ∧ { t with faults := s.faults } = s ∧
        ∀ d, d < 4 → watched t d = true ∧ seenOf t d = getF s (OWL_BEAT d) OWL_BEAT_BEAT) ∧
    (Machine.exec .owlCheck s = .next (lookHost (lookDie 3 (lookDie 2 (lookDie 1 (lookDie 0 s)))))) ∧
    (∀ d, s.tray.mainOn = true → isFenced s domDie d = false → underRung s 4 0 = false → watched s d = true →
      getF s (OWL_BEAT d) OWL_BEAT_BEAT = seenOf s d → lookDie d s = serveAllHeld (dieFence d (orReg OWL_STATUS (2 ^ d)
        (missLedger d (noteBeat d (getF s (OWL_BEAT d) OWL_BEAT_BEAT) false s))))) ∧
    (getF s OWL_CTL OWL_CTL_HOST_EN = 1 → getF s HC_STATUS HC_STATUS_STATE = 3 → watched s 4 = true →
      getF s OWL_BEAT_HOST OWL_BEAT_HOST_BEAT = seenOf s 4 → lookHost s = hostComplexReset 2 (setF OWL_STATUS OWL_STATUS_HOST 1
        (missLedger 4 (noteBeat 4 (getF s OWL_BEAT_HOST OWL_BEAT_HOST_BEAT) false s)))) ∧
    (getF s WARDEN_STATUS WARDEN_STATUS_STANDBY_OK = 1 → s.faults.wardenBeat = seenOf s 5 → s.mgmt.activating = none →
      Machine.exec .wardenTakeover s = .next (swapWarden (setReason 5 (missLedger 5
        (setF WARDEN_STATUS WARDEN_STATUS_STANDBY_OK 0 (setF OWL_STATUS OWL_STATUS_WARDEN 1 s)))))) ∧
    (Machine.exec (.wardenResetDone true) s = .next (clearReason 5 (setF WARDEN_STATUS WARDEN_STATUS_STANDBY_OK 1 s))) ∧
    (∀ (i k : BitVec 5) c, i.toNat < 19 → k.toNat < phaseBuilt i.toNat →
      bitAt (getF s (PHASE_STATUS i.toNat) PHASE_STATUS_FAILED_MAP) k.toNat = false →
      let s1 := setF (PHASE_STATUS i.toNat) PHASE_STATUS_FAILED_MAP
        (getF s (PHASE_STATUS i.toNat) PHASE_STATUS_FAILED_MAP + 2 ^ k.toNat) s
      phaseRequired i.toNat ≤ phaseBuilt i.toNat - phasesFailed s1 i.toNat → Machine.exec (.phaseFault i k c) s =
        .next (ledger 0x0208 1 (supplyCode i.toNat) 0
          (ledgerData [(0, 1, i.toNat), (1, 1, k.toNat), (2, 1, PhaseCause.code c)]) s1)) ∧
    (∀ r q, cellarUp s = true → s.faults.unmirrored = [q] → s.faults.ring = [r] → r.seq = q → s.faults.mirror = [] →
      Machine.exec .ledgerMirrorWrite s = .next { s with faults := { s.faults with unmirrored := [], mirror := [r] } }) ∧
    (∀ (trig : BitVec 8) (absent : BitVec 64), s.faults.capturing = none →
      let s1 := beginCapture (trig.toNat % 16) s
      Machine.exec (.crashCapture trig absent) s = .next (endCapture absent.toNat false (!cellarUp s1) s1)) ∧
    (∀ k, s.faults.capturing = some k → ∃ t, Machine.exec .captureCutoff s = .next t ∧
      t = endCapture (Config.absentBlocks s.tick).toNat true false (advance s) ∧ t.faults.capturing = none)

/-! ### Bring-up, firmware, the tray -/

/-- R585 to R598: a cold and a warm start bring the module up; an update is requested, fed, verified, cancelled and activated, and
the activation switches the bank; a stick's firmware is installed; measurements, certificates and sessions are answered. -/
def Obligations.StartAndFirmwareCommandsTakeEffect : Prop :=
  ∀ (s : State),
    (∀ r u, s.tray.standby = false →
      startWardens r (setReg BOOT_STATUS 0 { s with
        tray := { s.tray with standby := true, standbyInput := true, prsnt := true }
        faults := { s.faults with nextSeq := max ((s.faults.mirror.foldl (fun m x => max m x.seq) 0) + 1) 0 } }) = some u →
      Machine.exec (.coldStart r) s = .next (bringUp false r (setStage 1 u))) ∧
    (∀ r, s.tray.standby = true → s.tray.mainOn = false → s.tray.hold = 0 → rstate s < rsSafe →
      Assoc.get (fun _ => 0) s.mgmt.runBank 1 ≠ 0 →
      Machine.exec (.warmStart r) s = .next (bringUp true r (setReg BOOT_STATUS ((getReg s BOOT_STATUS &&& 2 ^ 16) + 1) s))) ∧
    (∀ c (n : BitVec 32), updateBusy s = false → n.toNat ≤ bankBytes c → ∃ t, Machine.exec (.requestUpdate c n) s = .next t ∧
      t.mgmt.update = some ⟨c, n.toNat, 0, false⟩ ∧ t.out = s.out ++ [.pldm 0 0 []] ∧ activeOf t c = activeOf s c ∧
      t.mem = s.mem) ∧
    (∀ u (o : BitVec 32) bs, s.mgmt.update = some u → u.verified = false → bs.length ≤ 4096 → o.toNat + bs.length ≤ u.len →
      ∃ t, Machine.exec (.requestFirmwareData o bs) s = .next t ∧ t.mgmt.update = some { u with received := u.received + bs.length } ∧
        (Assoc.wf factoryBank s.mgmt.banks = true → bankOf t u.comp (idleBank s u.comp) =
          { bankOf s u.comp (idleBank s u.comp) with
            image := patchBytes (bankOf s u.comp (idleBank s u.comp)).image o.toNat bs }) ∧
        t.mgmt.activeBank = s.mgmt.activeBank) ∧
    (∀ u, s.mgmt.update = some u →
      let x := bankOf s u.comp (idleBank s u.comp)
      (imageSigned u.comp x.image = true → minSvn s u.comp ≤ imgAt x.image 12 1 → ∃ t, Machine.exec .verifyComplete s = .next t ∧
        t.mgmt.update = some { u with verified := true } ∧ t.mgmt.activeBank = s.mgmt.activeBank ∧
        (Assoc.wf factoryBank s.mgmt.banks = true → (bankOf t u.comp (idleBank s u.comp)).valid = true)) ∧
      (imageSigned u.comp x.image = false → ∃ t, Machine.exec .verifyComplete s = .next t ∧ t.mgmt.update = none ∧
        t.mgmt.banks = s.mgmt.banks) ∧
      (∃ t, Machine.exec .cancelUpdate s = .next t ∧ t.mgmt.update = none ∧ t.mgmt.activeBank = s.mgmt.activeBank)) ∧
    (∀ c, s.mgmt.update = none → s.mgmt.activating = none → bankValid s c (idleBank s c) = true →
      ∃ t, Machine.exec (.activateFirmware c) s = .next t ∧ t.mgmt.activating = some (c, 0) ∧
        t.mgmt.activeBank = s.mgmt.activeBank) ∧
    (∀ n, s.mgmt.activating = some (.warden, n) → getF s WARDEN_STATUS WARDEN_STATUS_STANDBY_OK = 1 → rstate s ≠ rsQuiescing →
      ∃ t, Machine.exec (.wardenActivation true) s = .next t ∧ t.mgmt.activating = none ∧
        (Assoc.wf (fun _ => 0) s.mgmt.activeBank = true → activeOf t .warden = idleBank s .warden)) ∧
    (∀ (d : BitVec 2) n, s.mgmt.activating = some (.reeve, n) → nextVisit s n = some d.toNat → reeveBusy s d.toNat = false →
      (nextVisit s (d.toNat + 1)).isSome = true → rstate s ≠ rsQuiescing → ∃ t, Machine.exec (.reeveActivation d true) s = .next t ∧
        t.mgmt.activating = some (.reeve, d.toNat + 1) ∧
        (Assoc.wf (fun _ => 0) s.mgmt.reeveDigest = true →
          Assoc.get (fun _ => 0) t.mgmt.reeveDigest d.toNat = digestOf s .reeve (idleBank s .reeve))) ∧
    (s.mgmt.activating = some (.stick, 7) → bitAt s.tray.present 7 = true → bitAt s.tray.failed 7 = false →
      getF s CELLAR_STATUS CELLAR_STATUS_STATE = 0 →
      Machine.exec (.stickFwInstall 7 true) s = .next (activated .stick (setBay 7 bayRebuilding s))) ∧
    (∀ (i : BitVec 8), i ≠ 0 → i ≠ 0xFF → (measBlock s i.toNat).isSome = true → Machine.exec (.getMeasurements i) s =
      .next (emit (.spdm 0 (leBytes 4 (getF s TRUST_STATUS TRUST_STATUS_MEAS_GEN) ++ measEntry s i.toNat ++
        Config.spdmAnswer s.tick)) (advance s))) ∧
    (∀ k : BitVec 3, certOf s k.toNat ≠ [] →
      Machine.exec (.spdmRequest (.getCertificate k)) s = .next (emit (.spdm 0 (certOf s k.toNat)) s)) ∧
    (∀ a, s.mgmt.sessions.length < 4 → ∃ t, Machine.exec (.spdmRequest (.keyExchange a)) s = .next t ∧
      t.mgmt.sessions = s.mgmt.sessions ++ [⟨s.mgmt.nextSession, a⟩] ∧ t.mem = s.mem)

/-- R601 to R613, R644 to R655: a removal goes from attention through ARMED, DRAINING and QUIESCING to SAFE, and can be
cancelled, refused and forced; the lever is let go only from SAFE; bay buttons and cables act; the inputs' loss takes main
power, and standby power, with what they hold. -/
def Obligations.TrayCommandsTakeEffect : Prop :=
  ∀ (s : State),
    (∀ ms : BitVec 16, wardenUp s = true → 50 ≤ ms.toNat → s.tray.lastAttn = none → rstate s = rsInService → s.tray.mainOn = true →
      ∃ u, Machine.exec (.attentionRequest (.button ms)) s = .next (setRstate rsArmed u) ∧
        { u with tick := s.tick, tray := s.tray } = s) ∧
    (rstate s = rsArmed → ∃ t, Machine.exec .armedExpiry s = .next t ∧ rstate t = rstate (setRstate rsDraining (advance s)) ∧
      t.tray.drainEnd.isSome = true) ∧
    (rstate s = rsDraining →
      (getF s SVC_CTL SVC_CTL_FORCE = 1 → Machine.exec .drainDeadline s = .next (beginQuiesce s)) ∧
      (getF s SVC_CTL SVC_CTL_FORCE = 0 → Machine.exec .drainDeadline s = .next (refuseBar 2 (setRstate rsInService s))) ∧
      Machine.exec .release s = .next (beginQuiesce s)) ∧
    ((rstate s = rsArmed ∨ rstate s = rsDraining) → Machine.exec .cancel s = .next (setCause 1 (setRstate rsInService s))) ∧
    (rstate s = rsQuiescing → activationRuns s = false →
      Machine.exec .quiesceAbortTimeout s = .next (settle (abortWhere (fun _ => true) (fAbort 5) s))) ∧
    (quiesced s = true → ∃ t, Machine.exec .safeEntry s = .next t ∧ t.tray.mainOn = false ∧ t.tray.hold = 1 ∧
      t.cellar = s.cellar) ∧
    (∀ ms : BitVec 16, wardenUp s = true → 200 ≤ ms.toNat →
      (rstate s = rsSafe →
        Machine.exec (.leverTouch ms) s = .next (setRstate rsReleased (setF SVC_STATUS SVC_STATUS_LATCH_OPEN 1 s))) ∧
      (rstate s ≠ rsSafe → Machine.exec (.leverTouch ms) s = .next (refuseBar 3 s))) ∧
    (rstate s = rsReleased →
      Machine.exec .leverPushHome s = .next (setRstate rsSafe (setF SVC_STATUS SVC_STATUS_LATCH_OPEN 0 s))) ∧
    (∀ b : BitVec 3, wardenUp s = true → bitAt s.tray.present b.toNat = true →
      (getF s (SVC_BAY b.toNat) SVC_BAY_SAFE = 1 → Machine.exec (.bayButton b) s =
        .next (setBay b.toNat bayRebuilding (setF (SVC_BAY b.toNat) SVC_BAY_SAFE 0 s))) ∧
      (getF s (SVC_BAY b.toNat) SVC_BAY_SAFE = 0 → s.tray.mainOn = true → getF s CELLAR_STATUS CELLAR_STATUS_STATE = 0 →
        Machine.exec (.bayButton b) s = .next (setF (SVC_BAY b.toNat) SVC_BAY_SAFE 1 (leaveSync b.toNat s)))) ∧
    (∀ p : BitVec 3, s.tray.mainOn = false → ∀ b, Machine.exec (.cableEvent p b) s = .next (setFport p.toNat
      { fport s p.toNat with cable := b, peer := if b then (fport s p.toNat).peer else none } s)) ∧
    (∀ p : BitVec 3, portState s p.toNat = ptDown → Machine.exec (.cageOvercurrent p) s =
      .next (setF (FAB_PORT_STATUS p.toNat) FAB_PORT_STATUS_WIDTH 0 (setF (FAB_PORT_STATUS p.toNat) FAB_PORT_STATUS_RATE 0
        (setF (FAB_PORT_STATUS p.toNat) FAB_PORT_STATUS_LANES 0 (setPortState p.toNat ptDown s))))) ∧
    (∃ t, Machine.exec .mainInputLoss s = .next t ∧ t.tray.mainOn = false ∧ t.tray.mainInput = false ∧ t.cellar = s.cellar ∧
      (s.tray.standbyInput = true → t.tray.standby = s.tray.standby) ∧
      (s.tray.standbyInput = false → t.tray.standby = false ∧ t.faults.ring = [] ∧ t.faults.mirror = s.faults.mirror)) ∧
    (Machine.exec (.standbyInputLoss true) s = .next { s with tray := { s.tray with standbyInput := false } }) ∧
    (∃ t, Machine.exec .prsntDeassert s = .next t ∧ t.tray.mainOn = false ∧ t.tray.standby = false ∧ t.tray.prsnt = false ∧
      t.mem = (if s.tray.mainOn then [] else s.mem)) ∧
    (underRung s 5 0 = true → s.tray.mainOn = true → ∃ t, Machine.exec .cycleReqTimeout s = .next t ∧ t.tray.mainOn = false ∧
      t.tray.cycleReq = false)

/-! ### Management -/

/-- R624 to R628, Table 23-5: a mailbox command that its requester may send, and that no other holds up, has its effect and is
answered; a command that the same requester sent before with the TAG has its answer given again, and no effect. -/
def Obligations.MailboxCommandsTakeEffect : Prop :=
  ∀ (m : MailRef) (s : State),
    (∀ r, wardenUp s = true → s.mgmt.replays.find? (fun r => r.eid == m.eid.toNat && r.tag == m.tag.toNat) = some r →
      ∀ v, Machine.exec (.mailboxRung m v) s = .next (emit (.mailbox r.eid r.tag r.op r.status r.payload) s)) ∧
    (MailTakesPlace m .opened s →
      Machine.exec (.mailboxIdent m) s = .next (mailAnswer m 0x01 mbOk (identBytes s) s) ∧
      (∀ o : BitVec 32, o.toNat + 8 ≤ 0x4000000 → windowServed s o.toNat = true →
        Machine.exec (.regRead m o) s = .next (mailAnswer m 0x02 mbOk (windowBytes s o.toNat) (readWindow o.toNat s).1)) ∧
      (∀ o : Nat, o + 8 ≤ PWR_PEAK ∨ PWR_PEAK + 4 ≤ o → (readWindow o s).1 = s) ∧
      (readWindow PWR_PEAK s).1 = setF PWR_PEAK PWR_PEAK_WATTS 0 s ∧
      (∀ (q : BitVec 32) (n : BitVec 8), 1 ≤ n.toNat → n.toNat ≤ 16 →
        Machine.exec (.ledgerRead m q n) s = .next (mailAnswer m 0x03 mbOk (recordsFrom s.faults.ring q.toNat n.toNat) s) ∧
        (s.tray.mainOn = true → getF s CELLAR_STATUS CELLAR_STATUS_STATE ≠ 3 → Machine.exec (.mirrorRead m q n) s =
          .next (mailAnswer m 0x04 mbOk (recordsFrom s.faults.mirror q.toNat n.toNat) s))) ∧
      Machine.exec (.configRead m) s = .next (mailAnswer m 0x16 mbOk (configBytes s.mgmt.config) s)) ∧
    (MailTakesPlace m .privileged s →
      (∀ (k : BitVec 8) (o : BitVec 64), k.toNat < 64 → reserveUp s = true → (captureOf s k.toNat).used = true →
        Machine.exec (.captureRead m k o) s = .next (mailAnswer m 0x05 mbOk ((List.range (min 1024 (0x100000000 - o.toNat))).map
          fun i => captureByteAt k.toNat (captureOf s k.toNat) s (o.toNat + i)) s)) ∧
      (∀ k p : BitVec 8, k.toNat < 64 → p.toNat ≤ 1 → reserveUp s = true → Machine.exec (.capturePin m k p) s =
        .next (mailAnswer m 0x06 mbOk [] (setCapture k.toNat { captureOf s k.toNat with pinned := p.toNat == 1 } s))) ∧
      (reserveUp s = true → s.faults.capturing = none → (nextCapture s).isSome = true →
        Machine.exec (.captureNow m) s = .next (mailAnswer m 0x07 mbOk [] (beginCapture 3 s))) ∧
      (∀ v : BitVec 64, rungTargetOk (bits v.toNat 63 60) (bits v.toNat 23 0) = true → s.faults.active = [] → s.tray.mainOn = true →
        let u := requestRung (bits v.toNat 63 60) (bits v.toNat 23 0) s
        Machine.exec (.mailboxRung m v) s = .next (mailAnswer m 0x10 mbOk []
          { u with mgmt := { u.mgmt with privRung := some (bits v.toNat 63 60, bits v.toNat 23 0) } })) ∧
      (s.tray.mainOn = true → Machine.exec (.hostReset m) s = .next (mailAnswer m 0x11 mbOk [] (hostComplexReset 3 s)) ∧
        Machine.exec (.ddrReset m) s = .next (mailAnswer m 0x12 mbOk [] (ddrReset s))) ∧
      (Machine.exec (.powerOff m) s = .next (mailAnswer m 0x13 mbOk [] (mailPowerOff s))) ∧
      (tooHot s = false → rstate s < rsSafe →
        Machine.exec (.powerOn m) s = .next (mailAnswer m 0x13 mbOk [] { s with tray := { s.tray with hold := 0 } })) ∧
      (s.faults.active = [] → ∃ u, Machine.exec (.powerCycle m) s = .next (mailAnswer m 0x13 mbOk [] u) ∧
        underRung u 5 0 = true ∧ u.mgmt.privRung = some (5, 0)) ∧
      (∀ n : BitVec 8, s.tray.mainOn = true → (coreOf s n.toNat).state ≠ .unassigned → (coreOf s n.toNat).mapping = none →
        Machine.exec (.retire m n) s = .next (mailAnswer m 0x14 mbOk [] (retireCore n.toNat 6 0 0 s))) ∧
      (getF s ORD_SVC ORD_SVC_STATE = 2 → Machine.exec (.service m 0) s = .next (mailAnswer m 0x15 mbOk [] (setSvc 1 s))) ∧
      (getF s ORD_SVC ORD_SVC_STATE = 1 → (s.queues.all fun e => e.2.desc.admin || e.2.state == .disabled) = true →
        Machine.exec (.service m 2) s = .next (mailAnswer m 0x15 mbOk [] (setSvc 2 s))) ∧
      (∀ r, Machine.exec (.configWrite m r) s = .next (mailAnswer m 0x17 mbOk [] (writeConfig r s)) ∧
        (writeConfig r s).mem = s.mem))

/-- R598, R627: keys, certificates and anchors are enrolled, revoked and erased slot by slot, and a component's minimum SVN
rises to that of its running image and never falls. -/
def Obligations.KeyCommandsTakeEffect : Prop :=
  ∀ (m : MailRef) (slot : BitVec 8) (s : State),
    let k := slot.toNat
    (MailTakesPlace m .privileged s →
      (1 ≤ k → k ≤ 15 →
        (∀ key : BitVec 768, (setKeyOf s k).enrolled = false → Machine.exec (.setkeyEnrol m slot key) s =
          .next (mailAnswer m 0x20 mbOk [] (putSetKey k ⟨key.toNat, true, false⟩ s))) ∧
        ((setKeyOf s k).enrolled = true → Machine.exec (.setkeyRevoke m slot) s =
          .next (mailAnswer m 0x21 mbOk [] (putSetKey k { setKeyOf s k with revoked := true } s))) ∧
        (keyNamed s k = false → (dataKeyOf s k).isSome = true → Machine.exec (.datakeyErase m slot) s =
          .next (mailAnswer m 0x23 mbOk [] (putDataKey k none s)))) ∧
      (∀ c, 1 ≤ k → k ≤ 7 → Machine.exec (.certSet m slot c) s = .next (mailAnswer m 0x24 mbOk []
        { s with mgmt := { s.mgmt with certs := Assoc.put (fun _ => []) s.mgmt.certs k c } })) ∧
      (∀ a, k ≤ 3 → Machine.exec (.anchorSet m slot a) s = .next (mailAnswer m 0x25 mbOk []
        { s with mgmt := { s.mgmt with anchors := Assoc.put (fun _ => []) s.mgmt.anchors k a } })) ∧
      (∀ n : BitVec 16, 1 ≤ n.toNat → n.toNat ≤ 4 → updating s (Component.ofId n.toNat) = false →
        Assoc.wf regReset s.regs = true →
        ∃ u, Machine.exec (.svnCommit m n) s = .next (mailAnswer m 0x26 mbOk [] u) ∧ u = commitSvn (Component.ofId n.toNat) s ∧
          minSvn s (Component.ofId n.toNat) ≤ minSvn u (Component.ofId n.toNat))) ∧
    (MailTakesPlace m .secure s → 1 ≤ k → k ≤ 15 → ∀ key : BitVec 512, Machine.exec (.datakeySet m slot key) s =
      .next (mailAnswer m 0x22 mbOk [] (putDataKey k (some key.toNat) s)))

/-- R614, R618 to R623, R652, Table 22-5: with standby power a service frame is answered with its OP and TAG; the receiver of
events is set and acknowledges them; a sensor is read, an effecter is set; the addresses that a bus gives are taken. -/
def Obligations.ServiceAndPlatformRequestsAreAnswered : Prop :=
  (∀ (tag : BitVec 32) (s : State), s.tray.standby = true →
    let s1 := setF SVC_STATUS SVC_STATUS_PORT_CONNECTED 1 s
    (Machine.exec (.serviceIdent tag) s = .next (emit (.service 0x01 tag.toNat 0 (identBytes s1)) s1)) ∧
    (∀ o : BitVec 32, Machine.exec (.serviceRead tag o) s = .next (if portReads o.toNat then
      emit (.service 0x02 tag.toNat 0 (windowBytes s1 o.toNat)) (readWindow o.toNat s1).1
      else emit (.service 0x02 tag.toNat 2 []) s1)) ∧
    (∀ (q : BitVec 32) (n : BitVec 8), 1 ≤ n.toNat → n.toNat ≤ 16 → Machine.exec (.serviceLedger tag q n) s =
      .next (emit (.service 0x03 tag.toNat 0 (recordsFrom s.faults.ring q.toNat n.toNat)) s1)) ∧
    (getF s1 SVC_CTL SVC_CTL_PORT_ATTN = 1 → rstate s1 = rsInService → Machine.exec (.serviceAttention tag) s =
      .next (emit (.service 0x04 tag.toNat 0 []) (attention false s1))) ∧
    (rstate s1 = rsArmed → Machine.exec (.serviceCancel tag) s =
      .next (emit (.service 0x05 tag.toNat 0 []) (setCause 1 (setRstate rsInService s1)))) ∧
    (∀ v : BitVec 8, v.toNat ≤ 1 → Machine.exec (.serviceLocate tag v) s =
      .next (emit (.service 0x06 tag.toNat 0 []) (setF SVC_CTL SVC_CTL_LOCATE v.toNat s1)))) ∧
  (∀ (s : State), wardenUp s = true →
    (∀ (e : BitVec 8) b, Machine.exec (.setEventReceiver e b) s =
      .next (emit (.pldm e.toNat 0 []) { s with mgmt := { s.mgmt with receiver := some (e.toNat, b) } })) ∧
    (∀ (n : BitVec 16), Machine.exec (.eventAcknowledge n) s = .next { s with mgmt := { s.mgmt with
      events := s.mgmt.events.filter fun e => e.1 % 65536 != n.toNat } }) ∧
    (∀ (e : BitVec 8) (i : BitVec 16) v, isSensor i.toNat = true → sensorValue s i.toNat = some v →
      Machine.exec (.getSensorReading e i) s = .next (emit (.pldm e.toNat 0 ([0] ++ leBytes 2 v)) (advance s))) ∧
    (∀ m (v : BitVec 16), v.toNat ≤ 1 → Machine.exec (.setEffecter m 0x101 v) s =
      .next (emit (.pldm m.eid.toNat 0 []) (setF SVC_CTL SVC_CTL_LOCATE v.toNat s))) ∧
    (∀ m (v : BitVec 16), 1200 ≤ v.toNat → v.toNat ≤ 4000 → authorised s m .privileged = true →
      Machine.exec (.setEffecter m 0x100 v) s = .next (emit (.pldm m.eid.toNat 0 []) (configReg s (PWR_CAP,
        setBits (getReg s PWR_CAP) PWR_CAP_WATTS.hi PWR_CAP_WATTS.lo v.toNat)))) ∧
    (∀ e : BitVec 8, e ≠ 0 → e ≠ 0xFF →
      Machine.exec (.setEndpointId .i3c e) s = .next { s with mgmt := { s.mgmt with eidI3c := e.toNat } }) ∧
    (∀ a : BitVec 7, Machine.exec (.dynamicAddressAssignment a) s =
      .next { s with mgmt := { s.mgmt with dynAddr := some a.toNat } }))

/-! ### Registers -/

/-- R5, R8 to R10, R631 to R636: an aligned write of the register's width by an agent it accepts, to a register that starts
nothing, stores the RW bits, clears the W1C bits and sets the W1S bits that the value names, keeps all others, and touches no
other register but the shadow of the value in use; a write that no agent may make changes nothing; a read of a register held as
written returns it. -/
def Obligations.RegistersFollowTheirAccessCodes : Prop :=
  ∀ (w : Agent) (off : BitVec 32) (v : BitVec 64) (r : RegRow) (s : State), Assoc.wf regReset s.regs = true →
    regRow off.toNat = some r → off.toNat % 8 = 0 → reaches s w = true → inDoorbells off.toNat = false →
    inTallies off.toNat = false → r.width = 64 →
    (regServed s r off.toNat = true → mayWrite w r.writers = true → r.classS = 0 → r.classB = 0 → r.live = none →
      (∀ d x y, writeRow w r d x y s = putValue w x y s) → (∀ x o, afterStore r off.toNat v.toNat o x = x) →
      ∃ t, Machine.exec (.registerWrite w off 8 v) s = .next t ∧
        getReg t off.toNat = (((mergeBits (getReg s off.toNat) v.toNat r.rw) -
          ((mergeBits (getReg s off.toNat) v.toNat r.rw) &&& (v.toNat &&& r.w1c))) ||| (v.toNat &&& r.w1s)) % 2 ^ 64 ∧
        (∀ x, x ≠ off.toNat → getReg t x = getReg s x) ∧ { t with regs := s.regs } = s) ∧
    ((regServed s r off.toNat = false ∨ mayWrite w r.writers = false) →
      Machine.exec (.registerWrite w off 8 v) s = .next s) ∧
    (regServed s r off.toNat = true → viewReg s r.name ((r.index off.toNat).getD []) off.toNat = none →
      readReg s off.toNat = getReg s off.toNat % 2 ^ 64)

/-! ### Accumulation and tallies -/

/-- R101, R107: the contribution I of a product of two finite elements, formed exactly, is floor(p / u): I × u ≤ p < (I + 1) × u,
with p and u brought to integers by one power of two, and it says that bits were discarded just where I × u is not p. The tag
of a product is Table 04-2's, only products tagged finite contribute, and tags combine by OR of their codes. -/
def Obligations.ProductsContributeFloorsAndTags : Prop :=
  (∀ (a : Int) (s t : Bool) (m n : Nat) (e f : Int) (k : Nat), 0 ≤ (k : Int) + e + f → 0 ≤ (k : Int) + a - 126 →
    let p : Int := (if s != t then -1 else 1) * (m * n) * 2 ^ ((k : Int) + e + f).toNat
    let u : Int := 2 ^ ((k : Int) + a - 126).toNat
    let c := productContrib a (.fin s m e) (.fin t n f)
    ∃ i : Int, c.ints = [i] ∧ c.tag = .finite ∧ i * u ≤ p ∧ p < (i + 1) * u ∧ (c.trunc = true ↔ i * u ≠ p)) ∧
  (∀ (a : Int) (x y : Val), let c := productContrib a x y
    c.tag = productTag x y ∧ (productTag x y ≠ .finite → c.ints = [])) ∧
  (∀ (s t b : Bool) (m : Nat) (e : Int) (x : Val),
    let inf : Tag := if s == t then .posInf else .negInf
    productTag (.nan b) x = .nan ∧ productTag x (.nan b) = .nan ∧ productTag (.inf s) (.fin t 0 e) = .nan ∧
    productTag (.fin t 0 e) (.inf s) = .nan ∧ productTag (.inf s) (.inf t) = inf ∧
    (m ≠ 0 → productTag (.inf s) (.fin t m e) = inf ∧ productTag (.fin t m e) (.inf s) = inf)) ∧
  (∀ x y : Tag, (x.or y).code = x.code ||| y.code) ∧
  Tag.code .finite = 0 ∧ Tag.code .posInf = 1 ∧ Tag.code .negInf = 2 ∧ Tag.code .nan = 3

/-- R98, R118, R119: contributions whose magnitudes, together with the start's, stay below the window's reach add to their exact
sum, without overflow, in every order; and one addition whose sum leaves the range saturates to the nearer end and says so. -/
def Obligations.AccumulationIsExactInEveryOrder : Prop :=
  (∀ (start : Int) (is js : List Int),
    (start.natAbs : Int) + ((is.map Int.natAbs).sum : Nat) ≤ 2 ^ 127 - 4 → is.Perm js →
    addInts start is = (start + is.sum, false) ∧ addInts start js = addInts start is ∧
    ∀ t : Tag, (Acc.add ⟨BitVec.ofInt 128 start, t⟩ ⟨js, false, .finite⟩).1.int.toInt = start + is.sum) ∧
  (∀ (start : Int) (is : List Int) (i : Int), (addInts start is).2 = false →
    let sum := (addInts start is).1 + i
    addInts start (is ++ [i]) =
      (if 2 ^ 127 - 1 < sum then (2 ^ 127 - 1, true) else if sum < -(2 ^ 127) + 4 then (-(2 ^ 127) + 4, true) else (sum, false)))

/-- R394, R402: an ADD that the bound refuses fails with ST_TALLY_OVERFLOW and PAIR 0, whatever the pair check would give; the
pair check of PAIR_P fails with ST_TALLY_OVERFLOW, that of PAIR_C with ST_TALLY_UNDERFLOW, PAIR set; a failed check leaves every
entry as it was; and no ADD, SUB or TAKE, with the waiters it serves, takes COUNT above BOUND or touches another tally. -/
def Obligations.TallyOperationsAreChecked : Prop :=
  ∀ (d x n v l inst : Nat) (s : State),
    let a := tallyOf s d x
    let sum := a.count.toNat + n
    let add := applyAdd d x n v l inst s
    let fails (st : Status) (pair : Bool) : Prop := (∃ w, add.2 = some (st.code, w) ∧ bitAt w 12 = pair) ∧
      add.1.tallies = s.tallies
    x < 65536 → d < 8 →
    (a.bound.toNat < sum → fails .tallyOverflow false) ∧
    (sum ≤ a.bound.toNat → taMode a.attr.toNat = 1 → taPairN a.attr.toNat + v < sum → fails .tallyOverflow true) ∧
    (sum ≤ a.bound.toNat → taMode a.attr.toNat = 2 → v < sum → fails .tallyUnderflow true) ∧
    (sum ≤ a.bound.toNat → (taMode a.attr.toNat = 1 → sum ≤ taPairN a.attr.toNat + v) →
      (taMode a.attr.toNat = 2 → sum ≤ v) → add.2 = none) ∧
    (Assoc.wf (fun _ => Tally.reset) s.tallies = true → a.count.toNat ≤ a.bound.toNat → ∀ (core : Nat) (o : CmdRef) (r : State),
      (r = add.1 ∨ r = (applySub d x n l inst s).1 ∨ r = (applyTake d x n core o s).1) →
      (tallyOf r d x).count.toNat ≤ (tallyOf r d x).bound.toNat ∧ (tallyOf r d x).bound = a.bound ∧
      ∀ e k, k < 65536 → (e, k) ≠ (d, x) → tallyOf r e k = tallyOf s e k)

/-! ### What commands leave alone -/

/-- R307: an edge raises the bell count by exactly 1, or at the lock jump takes it to the schedule's count, and never lowers it
(the 64 bits of the count not being used up); no other command changes it, or whether the lock jump has been made, but a start of
the module and a loss of main power, between which the count runs; and reading BELL_COUNT returns the count of the last edge. -/
def Obligations.OnlyTheEdgeAndPowerMoveTheBell : Prop :=
  (∀ (i : Instr) (s t : State), Machine.exec i s = .next t → movesTheBell i = false →
    t.bell = s.bell ∧ t.jumped = s.jumped) ∧
  (∀ (schedule : BitVec 64) (s t : State), Machine.exec (.bellEdge schedule) s = .next t →
    (t.bell = s.bell + 1 ∧ t.jumped = s.jumped ∨
      t.bell = schedule ∧ s.jumped = false ∧ t.jumped = true ∧ getF s BELL_SYNC BELL_SYNC_STATE = 1) ∧
    (s.bell.toNat + 1 < 2 ^ 64 → s.bell.toNat < t.bell.toNat)) ∧
  (∀ (r : RegRow) (s : State), regRow BELL_COUNT = some r → regServed s r BELL_COUNT = true →
    readReg s BELL_COUNT = s.bell.toNat)

/-- The frame of the packet commands, whether they complete, wait or fail. A data command, a STEP command and an EPOCH command
leave every queue, partition and the host complex as they were, and what is staged where nothing waits for a set or a
descriptor; a SIGNAL command leaves queues, contexts and programs, and what is staged in the same way; a TALLY command leaves memory, cores, programs and queues; a PART_SET and a self-test leave memory, every context and
every register but, for the timeouts, the pending ones (R9, R253, R270, R289, R292 to R294, R299, R301, R354). -/
def Obligations.PacketCommandsKeepTheirFrame : Prop :=
  ∀ (i : Instr) (s t : State), Machine.exec i s = .next t →
    (isData i = true → SameBell s t ∧ t.parts = s.parts ∧ t.segs = s.segs ∧ t.progs = s.progs ∧ t.tallies = s.tallies ∧
      t.waiters = s.waiters ∧ (noneWaits s = true → SameTables s t) ∧ t.queues = s.queues ∧ t.hc = s.hc ∧ t.pA = s.pA ∧
      t.pB = s.pB) ∧
    (isQueueControl i = true → SameBell s t ∧ SameTables s t ∧ t.ctxs = s.ctxs ∧ t.hc = s.hc ∧ t.wbuf = s.wbuf) ∧
    (isTally i = true → SameBell s t ∧ SameMemory s t ∧ SameOutside s t ∧ t.queues = s.queues ∧ t.ctxs = s.ctxs ∧
      t.parts = s.parts ∧ t.progs = s.progs ∧ t.segs = s.segs ∧ t.staged = s.staged ∧ t.cores = s.cores ∧ t.faults = s.faults) ∧
    (isSignal i = true → SameBell s t ∧ t.queues = s.queues ∧ t.ctxs = s.ctxs ∧ t.parts = s.parts ∧ t.progs = s.progs ∧
      t.segs = s.segs ∧ (isRemoteSignal i = true ∨ noneWaits s = true → t.staged = s.staged)) ∧
    (isEpoch i = true → SameBell s t ∧ t.queues = s.queues ∧ t.parts = s.parts ∧ t.tallies = s.tallies ∧
      t.waiters = s.waiters ∧ t.segs = s.segs ∧ (noneWaits s = true → t.staged = s.staged) ∧ t.hc = s.hc) ∧
    (isPart i = true → SameBell s t ∧ SameMemory s t ∧ SameOutside s t ∧ (setsTimeouts i = false → t.regs = s.regs) ∧
      (Assoc.wf regReset s.regs = true → ∀ x, (∀ n, n < 256 → x ≠ TIER_TMO n ∧ x ≠ TIER_TMO2 n) → getReg t x = getReg s x) ∧
      t.queues = s.queues ∧ t.ctxs = s.ctxs ∧ t.progs = s.progs ∧ t.segs = s.segs ∧ t.tallies = s.tallies ∧ t.waiters = s.waiters ∧
      t.faults = s.faults) ∧
    (isProgram i = true → SameBell s t ∧ t.queues = s.queues ∧ t.parts = s.parts ∧ t.waiters = s.waiters ∧ t.hc = s.hc ∧
      (noneWaits s = true → t.partSets = s.partSets))

/-- The frame of the chip's and the module's own events: what moves a chain or a control bit leaves memory and queues; a line that
moves leaves queues and partitions; a snoop
leaves memory and everything but the caches and the registers that count them; a parish message leaves memory, queues and
tallies; a descriptor walk leaves memory; a scrub leaves every byte (but may poison it); a change in the cellar leaves memory,
and a link's event memory and all work in hand; a heartbeat, a mirror write, a capture, an update, a measurement, a button and
an answer leave memory, work, tables and the outside alone (R77, R348, R366, R372, R381, R452, R466, R593, R603, R624). -/
def Obligations.EventsKeepTheirFrame : Prop :=
  ∀ (i : Instr) (s t : State), Machine.exec i s = .next t →
    (isEngineStep i = true → SameBell s t ∧ SameTables s t ∧ SameMemory s t ∧ t.queues = s.queues ∧ t.cmds = s.cmds ∧
      t.faults = s.faults ∧ t.out = s.out) ∧
    (isSnoop i = true → SameBell s t ∧ SameTables s t ∧ SameMemory s t ∧ SameWork s t ∧ t.faults = s.faults ∧ t.out = s.out) ∧
    (isCoherent i = true → SameBell s t ∧ SameTables s t ∧ SameWork s t ∧ t.faults = s.faults ∧ t.pA = s.pA ∧ t.pB = s.pB) ∧
    (isLineMove i = true → SameBell s t ∧ t.parts = s.parts ∧ t.queues = s.queues ∧ t.dpool = s.dpool ∧ t.wbuf = s.wbuf ∧
      t.pA = s.pA ∧ t.pB = s.pB ∧ (∀ a l, i = .data a l → SameMemory s t ∧ t.faults = s.faults ∧ t.out = s.out)) ∧
    (isBellEvent i = true → SameTables s t ∧ SameMemory s t ∧ SameOutside s t ∧ t.queues = s.queues ∧ t.cmds = s.cmds ∧
      t.cores = s.cores ∧ t.tray = s.tray) ∧
    (isParish i = true → SameBell s t ∧ SameMemory s t ∧ t.queues = s.queues ∧ t.ctxs = s.ctxs ∧ t.parts = s.parts ∧
      t.tallies = s.tallies ∧ t.hc = s.hc ∧ t.cores = s.cores) ∧
    (isWalkStep i = true → SameBell s t ∧ SameTables s t ∧ SameMemory s t ∧ SameOutside s t ∧ t.queues = s.queues ∧ t.ctxs = s.ctxs) ∧
    (isTier i = true → SameBell s t ∧ SameTables s t ∧ SameWork s t ∧ t.mem = s.mem ∧ t.cellar = s.cellar ∧ t.hc = s.hc) ∧
    (isCellar i = true → SameTables s t ∧ SameOutside s t ∧ SameWork s t ∧ t.mem = s.mem ∧ t.poison = s.poison) ∧
    (isLink i = true → SameBell s t ∧ SameTables s t ∧ SameMemory s t ∧ SameWork s t ∧ t.hc = s.hc ∧ t.pA = s.pA ∧ t.pB = s.pB) ∧
    (isGuest i = true → SameTables s t ∧ t.queues = s.queues ∧ t.cmds = s.cmds ∧ t.ctxs = s.ctxs ∧ t.wbuf = s.wbuf ∧
      t.tray = s.tray ∧ t.power = s.power) ∧
    ((isWatch i = true ∨ isFirmware i = true ∨ isAnswer i = true) →
      SameBell s t ∧ SameTables s t ∧ SameMemory s t ∧ SameOutside s t ∧ SameWork s t) ∧
    (isFace i = true → SameTables s t ∧ SameMemory s t ∧ SameWork s t ∧ t.power = s.power ∧ t.fab = s.fab)
end

