-- ==== Sys2Proof/Laws/State.lean ====
section
/-! SUPPORT. What each named update of the state leaves alone: one lemma per field and per reader, true by unfolding, so that
no proof unfolds a record update. Made by a script from the list of the operations and the fields each changes. -/

namespace Sys2Proof.Machine

open Sys2Proof

variable (s : State)

/-! ### setReg -/

@[simp] theorem setReg_pending (o v : Nat) : (setReg o v s).pending = s.pending := rfl
@[simp] theorem setReg_tick (o v : Nat) : (setReg o v s).tick = s.tick := rfl
@[simp] theorem setReg_mem (o v : Nat) : (setReg o v s).mem = s.mem := rfl
@[simp] theorem setReg_poison (o v : Nat) : (setReg o v s).poison = s.poison := rfl
@[simp] theorem setReg_cellar (o v : Nat) : (setReg o v s).cellar = s.cellar := rfl
@[simp] theorem setReg_cellarPoison (o v : Nat) : (setReg o v s).cellarPoison = s.cellarPoison := rfl
@[simp] theorem setReg_wbuf (o v : Nat) : (setReg o v s).wbuf = s.wbuf := rfl
@[simp] theorem setReg_bell (o v : Nat) : (setReg o v s).bell = s.bell := rfl
@[simp] theorem setReg_jumped (o v : Nat) : (setReg o v s).jumped = s.jumped := rfl
@[simp] theorem setReg_queues (o v : Nat) : (setReg o v s).queues = s.queues := rfl
@[simp] theorem setReg_cmds (o v : Nat) : (setReg o v s).cmds = s.cmds := rfl
@[simp] theorem setReg_ctxs (o v : Nat) : (setReg o v s).ctxs = s.ctxs := rfl
@[simp] theorem setReg_parts (o v : Nat) : (setReg o v s).parts = s.parts := rfl
@[simp] theorem setReg_staged (o v : Nat) : (setReg o v s).staged = s.staged := rfl
@[simp] theorem setReg_segs (o v : Nat) : (setReg o v s).segs = s.segs := rfl
@[simp] theorem setReg_dpool (o v : Nat) : (setReg o v s).dpool = s.dpool := rfl
@[simp] theorem setReg_walks (o v : Nat) : (setReg o v s).walks = s.walks := rfl
@[simp] theorem setReg_tallies (o v : Nat) : (setReg o v s).tallies = s.tallies := rfl
@[simp] theorem setReg_waiters (o v : Nat) : (setReg o v s).waiters = s.waiters := rfl
@[simp] theorem setReg_cores (o v : Nat) : (setReg o v s).cores = s.cores := rfl
@[simp] theorem setReg_progs (o v : Nat) : (setReg o v s).progs = s.progs := rfl
@[simp] theorem setReg_partSets (o v : Nat) : (setReg o v s).partSets = s.partSets := rfl
@[simp] theorem setReg_stackDies (o v : Nat) : (setReg o v s).stackDies = s.stackDies := rfl
@[simp] theorem setReg_hc (o v : Nat) : (setReg o v s).hc = s.hc := rfl
@[simp] theorem setReg_fab (o v : Nat) : (setReg o v s).fab = s.fab := rfl
@[simp] theorem setReg_g0 (o v : Nat) : (setReg o v s).g0 = s.g0 := rfl
@[simp] theorem setReg_g1 (o v : Nat) : (setReg o v s).g1 = s.g1 := rfl
@[simp] theorem setReg_pA (o v : Nat) : (setReg o v s).pA = s.pA := rfl
@[simp] theorem setReg_pB (o v : Nat) : (setReg o v s).pB = s.pB := rfl
@[simp] theorem setReg_power (o v : Nat) : (setReg o v s).power = s.power := rfl
@[simp] theorem setReg_faults (o v : Nat) : (setReg o v s).faults = s.faults := rfl
@[simp] theorem setReg_mgmt (o v : Nat) : (setReg o v s).mgmt = s.mgmt := rfl
@[simp] theorem setReg_tray (o v : Nat) : (setReg o v s).tray = s.tray := rfl
@[simp] theorem setReg_chainGen (o v : Nat) : (setReg o v s).chainGen = s.chainGen := rfl
@[simp] theorem setReg_chainPosted (o v : Nat) : (setReg o v s).chainPosted = s.chainPosted := rfl
@[simp] theorem setReg_out (o v : Nat) : (setReg o v s).out = s.out := rfl
@[simp] theorem setReg_heldPort (o v : Nat) : (setReg o v s).heldPort = s.heldPort := rfl
@[simp] theorem setReg_turns (o v : Nat) : (setReg o v s).turns = s.turns := rfl
@[simp] theorem setReg_actionEnd (o v : Nat) : (setReg o v s).actionEnd = s.actionEnd := rfl
@[simp] theorem setReg_tallyEnd (o v : Nat) : (setReg o v s).tallyEnd = s.tallyEnd := rfl
@[simp] theorem setReg_upsets (o v : Nat) : (setReg o v s).upsets = s.upsets := rfl
@[simp] theorem memByte_setReg (o v : Nat) (a' : Nat) : memByte (setReg o v s) a' = memByte s a' := rfl
@[simp] theorem queueOf_setReg (o v : Nat) (q' : Nat) : queueOf (setReg o v s) q' = queueOf s q' := rfl
@[simp] theorem ctxOf_setReg (o v : Nat) (x' : Nat) : ctxOf (setReg o v s) x' = ctxOf s x' := rfl
@[simp] theorem partOf_setReg (o v : Nat) (p' : Nat) : partOf (setReg o v s) p' = partOf s p' := rfl
@[simp] theorem coreOf_setReg (o v : Nat) (n' : Nat) : coreOf (setReg o v s) n' = coreOf s n' := rfl
@[simp] theorem tallyOf_setReg (o v : Nat) (j' i' : Nat) : tallyOf (setReg o v s) j' i' = tallyOf s j' i' := rfl
@[simp] theorem progOf_setReg (o v : Nat) (h' : Nat) : progOf (setReg o v s) h' = progOf s h' := rfl
@[simp] theorem stackOf_setReg (o v : Nat) (y' : Nat) : stackOf (setReg o v s) y' = stackOf s y' := rfl
@[simp] theorem isFenced_setReg (o v : Nat) (y' i' : Nat) : isFenced (setReg o v s) y' i' = isFenced s y' i' := rfl
@[simp] theorem extPort_setReg (o v : Nat) (c' : Bool) : extPort (setReg o v s) c' = extPort s c' := rfl
@[simp] theorem guestOf_setReg (o v : Nat) (c' : Bool) : guestOf (setReg o v s) c' = guestOf s c' := rfl

/-! ### setF -/

@[simp] theorem setF_pending (o : Nat) (f : Fld) (v : Nat) : (setF o f v s).pending = s.pending := rfl
@[simp] theorem setF_tick (o : Nat) (f : Fld) (v : Nat) : (setF o f v s).tick = s.tick := rfl
@[simp] theorem setF_mem (o : Nat) (f : Fld) (v : Nat) : (setF o f v s).mem = s.mem := rfl
@[simp] theorem setF_poison (o : Nat) (f : Fld) (v : Nat) : (setF o f v s).poison = s.poison := rfl
@[simp] theorem setF_cellar (o : Nat) (f : Fld) (v : Nat) : (setF o f v s).cellar = s.cellar := rfl
@[simp] theorem setF_cellarPoison (o : Nat) (f : Fld) (v : Nat) : (setF o f v s).cellarPoison = s.cellarPoison := rfl
@[simp] theorem setF_wbuf (o : Nat) (f : Fld) (v : Nat) : (setF o f v s).wbuf = s.wbuf := rfl
@[simp] theorem setF_bell (o : Nat) (f : Fld) (v : Nat) : (setF o f v s).bell = s.bell := rfl
@[simp] theorem setF_jumped (o : Nat) (f : Fld) (v : Nat) : (setF o f v s).jumped = s.jumped := rfl
@[simp] theorem setF_queues (o : Nat) (f : Fld) (v : Nat) : (setF o f v s).queues = s.queues := rfl
@[simp] theorem setF_cmds (o : Nat) (f : Fld) (v : Nat) : (setF o f v s).cmds = s.cmds := rfl
@[simp] theorem setF_ctxs (o : Nat) (f : Fld) (v : Nat) : (setF o f v s).ctxs = s.ctxs := rfl
@[simp] theorem setF_parts (o : Nat) (f : Fld) (v : Nat) : (setF o f v s).parts = s.parts := rfl
@[simp] theorem setF_staged (o : Nat) (f : Fld) (v : Nat) : (setF o f v s).staged = s.staged := rfl
@[simp] theorem setF_segs (o : Nat) (f : Fld) (v : Nat) : (setF o f v s).segs = s.segs := rfl
@[simp] theorem setF_dpool (o : Nat) (f : Fld) (v : Nat) : (setF o f v s).dpool = s.dpool := rfl
@[simp] theorem setF_walks (o : Nat) (f : Fld) (v : Nat) : (setF o f v s).walks = s.walks := rfl
@[simp] theorem setF_tallies (o : Nat) (f : Fld) (v : Nat) : (setF o f v s).tallies = s.tallies := rfl
@[simp] theorem setF_waiters (o : Nat) (f : Fld) (v : Nat) : (setF o f v s).waiters = s.waiters := rfl
@[simp] theorem setF_cores (o : Nat) (f : Fld) (v : Nat) : (setF o f v s).cores = s.cores := rfl
@[simp] theorem setF_progs (o : Nat) (f : Fld) (v : Nat) : (setF o f v s).progs = s.progs := rfl
@[simp] theorem setF_partSets (o : Nat) (f : Fld) (v : Nat) : (setF o f v s).partSets = s.partSets := rfl
@[simp] theorem setF_stackDies (o : Nat) (f : Fld) (v : Nat) : (setF o f v s).stackDies = s.stackDies := rfl
@[simp] theorem setF_hc (o : Nat) (f : Fld) (v : Nat) : (setF o f v s).hc = s.hc := rfl
@[simp] theorem setF_fab (o : Nat) (f : Fld) (v : Nat) : (setF o f v s).fab = s.fab := rfl
@[simp] theorem setF_g0 (o : Nat) (f : Fld) (v : Nat) : (setF o f v s).g0 = s.g0 := rfl
@[simp] theorem setF_g1 (o : Nat) (f : Fld) (v : Nat) : (setF o f v s).g1 = s.g1 := rfl
@[simp] theorem setF_pA (o : Nat) (f : Fld) (v : Nat) : (setF o f v s).pA = s.pA := rfl
@[simp] theorem setF_pB (o : Nat) (f : Fld) (v : Nat) : (setF o f v s).pB = s.pB := rfl
@[simp] theorem setF_power (o : Nat) (f : Fld) (v : Nat) : (setF o f v s).power = s.power := rfl
@[simp] theorem setF_faults (o : Nat) (f : Fld) (v : Nat) : (setF o f v s).faults = s.faults := rfl
@[simp] theorem setF_mgmt (o : Nat) (f : Fld) (v : Nat) : (setF o f v s).mgmt = s.mgmt := rfl
@[simp] theorem setF_tray (o : Nat) (f : Fld) (v : Nat) : (setF o f v s).tray = s.tray := rfl
@[simp] theorem setF_chainGen (o : Nat) (f : Fld) (v : Nat) : (setF o f v s).chainGen = s.chainGen := rfl
@[simp] theorem setF_chainPosted (o : Nat) (f : Fld) (v : Nat) : (setF o f v s).chainPosted = s.chainPosted := rfl
@[simp] theorem setF_out (o : Nat) (f : Fld) (v : Nat) : (setF o f v s).out = s.out := rfl
@[simp] theorem setF_heldPort (o : Nat) (f : Fld) (v : Nat) : (setF o f v s).heldPort = s.heldPort := rfl
@[simp] theorem setF_turns (o : Nat) (f : Fld) (v : Nat) : (setF o f v s).turns = s.turns := rfl
@[simp] theorem setF_actionEnd (o : Nat) (f : Fld) (v : Nat) : (setF o f v s).actionEnd = s.actionEnd := rfl
@[simp] theorem setF_tallyEnd (o : Nat) (f : Fld) (v : Nat) : (setF o f v s).tallyEnd = s.tallyEnd := rfl
@[simp] theorem setF_upsets (o : Nat) (f : Fld) (v : Nat) : (setF o f v s).upsets = s.upsets := rfl
@[simp] theorem memByte_setF (o : Nat) (f : Fld) (v : Nat) (a' : Nat) : memByte (setF o f v s) a' = memByte s a' := rfl
@[simp] theorem queueOf_setF (o : Nat) (f : Fld) (v : Nat) (q' : Nat) : queueOf (setF o f v s) q' = queueOf s q' := rfl
@[simp] theorem ctxOf_setF (o : Nat) (f : Fld) (v : Nat) (x' : Nat) : ctxOf (setF o f v s) x' = ctxOf s x' := rfl
@[simp] theorem partOf_setF (o : Nat) (f : Fld) (v : Nat) (p' : Nat) : partOf (setF o f v s) p' = partOf s p' := rfl
@[simp] theorem coreOf_setF (o : Nat) (f : Fld) (v : Nat) (n' : Nat) : coreOf (setF o f v s) n' = coreOf s n' := rfl
@[simp] theorem tallyOf_setF (o : Nat) (f : Fld) (v : Nat) (j' i' : Nat) : tallyOf (setF o f v s) j' i' = tallyOf s j' i' := rfl
@[simp] theorem progOf_setF (o : Nat) (f : Fld) (v : Nat) (h' : Nat) : progOf (setF o f v s) h' = progOf s h' := rfl
@[simp] theorem stackOf_setF (o : Nat) (f : Fld) (v : Nat) (y' : Nat) : stackOf (setF o f v s) y' = stackOf s y' := rfl
@[simp] theorem isFenced_setF (o : Nat) (f : Fld) (v : Nat) (y' i' : Nat) : isFenced (setF o f v s) y' i' = isFenced s y' i' := rfl
@[simp] theorem extPort_setF (o : Nat) (f : Fld) (v : Nat) (c' : Bool) : extPort (setF o f v s) c' = extPort s c' := rfl
@[simp] theorem guestOf_setF (o : Nat) (f : Fld) (v : Nat) (c' : Bool) : guestOf (setF o f v s) c' = guestOf s c' := rfl

/-! ### incF -/

@[simp] theorem incF_pending (o : Nat) (f : Fld) (v : Nat) : (incF o f v s).pending = s.pending := rfl
@[simp] theorem incF_tick (o : Nat) (f : Fld) (v : Nat) : (incF o f v s).tick = s.tick := rfl
@[simp] theorem incF_mem (o : Nat) (f : Fld) (v : Nat) : (incF o f v s).mem = s.mem := rfl
@[simp] theorem incF_poison (o : Nat) (f : Fld) (v : Nat) : (incF o f v s).poison = s.poison := rfl
@[simp] theorem incF_cellar (o : Nat) (f : Fld) (v : Nat) : (incF o f v s).cellar = s.cellar := rfl
@[simp] theorem incF_cellarPoison (o : Nat) (f : Fld) (v : Nat) : (incF o f v s).cellarPoison = s.cellarPoison := rfl
@[simp] theorem incF_wbuf (o : Nat) (f : Fld) (v : Nat) : (incF o f v s).wbuf = s.wbuf := rfl
@[simp] theorem incF_bell (o : Nat) (f : Fld) (v : Nat) : (incF o f v s).bell = s.bell := rfl
@[simp] theorem incF_jumped (o : Nat) (f : Fld) (v : Nat) : (incF o f v s).jumped = s.jumped := rfl
@[simp] theorem incF_queues (o : Nat) (f : Fld) (v : Nat) : (incF o f v s).queues = s.queues := rfl
@[simp] theorem incF_cmds (o : Nat) (f : Fld) (v : Nat) : (incF o f v s).cmds = s.cmds := rfl
@[simp] theorem incF_ctxs (o : Nat) (f : Fld) (v : Nat) : (incF o f v s).ctxs = s.ctxs := rfl
@[simp] theorem incF_parts (o : Nat) (f : Fld) (v : Nat) : (incF o f v s).parts = s.parts := rfl
@[simp] theorem incF_staged (o : Nat) (f : Fld) (v : Nat) : (incF o f v s).staged = s.staged := rfl
@[simp] theorem incF_segs (o : Nat) (f : Fld) (v : Nat) : (incF o f v s).segs = s.segs := rfl
@[simp] theorem incF_dpool (o : Nat) (f : Fld) (v : Nat) : (incF o f v s).dpool = s.dpool := rfl
@[simp] theorem incF_walks (o : Nat) (f : Fld) (v : Nat) : (incF o f v s).walks = s.walks := rfl
@[simp] theorem incF_tallies (o : Nat) (f : Fld) (v : Nat) : (incF o f v s).tallies = s.tallies := rfl
@[simp] theorem incF_waiters (o : Nat) (f : Fld) (v : Nat) : (incF o f v s).waiters = s.waiters := rfl
@[simp] theorem incF_cores (o : Nat) (f : Fld) (v : Nat) : (incF o f v s).cores = s.cores := rfl
@[simp] theorem incF_progs (o : Nat) (f : Fld) (v : Nat) : (incF o f v s).progs = s.progs := rfl
@[simp] theorem incF_partSets (o : Nat) (f : Fld) (v : Nat) : (incF o f v s).partSets = s.partSets := rfl
@[simp] theorem incF_stackDies (o : Nat) (f : Fld) (v : Nat) : (incF o f v s).stackDies = s.stackDies := rfl
@[simp] theorem incF_hc (o : Nat) (f : Fld) (v : Nat) : (incF o f v s).hc = s.hc := rfl
@[simp] theorem incF_fab (o : Nat) (f : Fld) (v : Nat) : (incF o f v s).fab = s.fab := rfl
@[simp] theorem incF_g0 (o : Nat) (f : Fld) (v : Nat) : (incF o f v s).g0 = s.g0 := rfl
@[simp] theorem incF_g1 (o : Nat) (f : Fld) (v : Nat) : (incF o f v s).g1 = s.g1 := rfl
@[simp] theorem incF_pA (o : Nat) (f : Fld) (v : Nat) : (incF o f v s).pA = s.pA := rfl
@[simp] theorem incF_pB (o : Nat) (f : Fld) (v : Nat) : (incF o f v s).pB = s.pB := rfl
@[simp] theorem incF_power (o : Nat) (f : Fld) (v : Nat) : (incF o f v s).power = s.power := rfl
@[simp] theorem incF_faults (o : Nat) (f : Fld) (v : Nat) : (incF o f v s).faults = s.faults := rfl
@[simp] theorem incF_mgmt (o : Nat) (f : Fld) (v : Nat) : (incF o f v s).mgmt = s.mgmt := rfl
@[simp] theorem incF_tray (o : Nat) (f : Fld) (v : Nat) : (incF o f v s).tray = s.tray := rfl
@[simp] theorem incF_chainGen (o : Nat) (f : Fld) (v : Nat) : (incF o f v s).chainGen = s.chainGen := rfl
@[simp] theorem incF_chainPosted (o : Nat) (f : Fld) (v : Nat) : (incF o f v s).chainPosted = s.chainPosted := rfl
@[simp] theorem incF_out (o : Nat) (f : Fld) (v : Nat) : (incF o f v s).out = s.out := rfl
@[simp] theorem incF_heldPort (o : Nat) (f : Fld) (v : Nat) : (incF o f v s).heldPort = s.heldPort := rfl
@[simp] theorem incF_turns (o : Nat) (f : Fld) (v : Nat) : (incF o f v s).turns = s.turns := rfl
@[simp] theorem incF_actionEnd (o : Nat) (f : Fld) (v : Nat) : (incF o f v s).actionEnd = s.actionEnd := rfl
@[simp] theorem incF_tallyEnd (o : Nat) (f : Fld) (v : Nat) : (incF o f v s).tallyEnd = s.tallyEnd := rfl
@[simp] theorem incF_upsets (o : Nat) (f : Fld) (v : Nat) : (incF o f v s).upsets = s.upsets := rfl
@[simp] theorem memByte_incF (o : Nat) (f : Fld) (v : Nat) (a' : Nat) : memByte (incF o f v s) a' = memByte s a' := rfl
@[simp] theorem queueOf_incF (o : Nat) (f : Fld) (v : Nat) (q' : Nat) : queueOf (incF o f v s) q' = queueOf s q' := rfl
@[simp] theorem ctxOf_incF (o : Nat) (f : Fld) (v : Nat) (x' : Nat) : ctxOf (incF o f v s) x' = ctxOf s x' := rfl
@[simp] theorem partOf_incF (o : Nat) (f : Fld) (v : Nat) (p' : Nat) : partOf (incF o f v s) p' = partOf s p' := rfl
@[simp] theorem coreOf_incF (o : Nat) (f : Fld) (v : Nat) (n' : Nat) : coreOf (incF o f v s) n' = coreOf s n' := rfl
@[simp] theorem tallyOf_incF (o : Nat) (f : Fld) (v : Nat) (j' i' : Nat) : tallyOf (incF o f v s) j' i' = tallyOf s j' i' := rfl
@[simp] theorem progOf_incF (o : Nat) (f : Fld) (v : Nat) (h' : Nat) : progOf (incF o f v s) h' = progOf s h' := rfl
@[simp] theorem stackOf_incF (o : Nat) (f : Fld) (v : Nat) (y' : Nat) : stackOf (incF o f v s) y' = stackOf s y' := rfl
@[simp] theorem isFenced_incF (o : Nat) (f : Fld) (v : Nat) (y' i' : Nat) : isFenced (incF o f v s) y' i' = isFenced s y' i' := rfl
@[simp] theorem extPort_incF (o : Nat) (f : Fld) (v : Nat) (c' : Bool) : extPort (incF o f v s) c' = extPort s c' := rfl
@[simp] theorem guestOf_incF (o : Nat) (f : Fld) (v : Nat) (c' : Bool) : guestOf (incF o f v s) c' = guestOf s c' := rfl

/-! ### satF -/

@[simp] theorem satF_pending (o : Nat) (f : Fld) (v : Nat) : (satF o f v s).pending = s.pending := rfl
@[simp] theorem satF_tick (o : Nat) (f : Fld) (v : Nat) : (satF o f v s).tick = s.tick := rfl
@[simp] theorem satF_mem (o : Nat) (f : Fld) (v : Nat) : (satF o f v s).mem = s.mem := rfl
@[simp] theorem satF_poison (o : Nat) (f : Fld) (v : Nat) : (satF o f v s).poison = s.poison := rfl
@[simp] theorem satF_cellar (o : Nat) (f : Fld) (v : Nat) : (satF o f v s).cellar = s.cellar := rfl
@[simp] theorem satF_cellarPoison (o : Nat) (f : Fld) (v : Nat) : (satF o f v s).cellarPoison = s.cellarPoison := rfl
@[simp] theorem satF_wbuf (o : Nat) (f : Fld) (v : Nat) : (satF o f v s).wbuf = s.wbuf := rfl
@[simp] theorem satF_bell (o : Nat) (f : Fld) (v : Nat) : (satF o f v s).bell = s.bell := rfl
@[simp] theorem satF_jumped (o : Nat) (f : Fld) (v : Nat) : (satF o f v s).jumped = s.jumped := rfl
@[simp] theorem satF_queues (o : Nat) (f : Fld) (v : Nat) : (satF o f v s).queues = s.queues := rfl
@[simp] theorem satF_cmds (o : Nat) (f : Fld) (v : Nat) : (satF o f v s).cmds = s.cmds := rfl
@[simp] theorem satF_ctxs (o : Nat) (f : Fld) (v : Nat) : (satF o f v s).ctxs = s.ctxs := rfl
@[simp] theorem satF_parts (o : Nat) (f : Fld) (v : Nat) : (satF o f v s).parts = s.parts := rfl
@[simp] theorem satF_staged (o : Nat) (f : Fld) (v : Nat) : (satF o f v s).staged = s.staged := rfl
@[simp] theorem satF_segs (o : Nat) (f : Fld) (v : Nat) : (satF o f v s).segs = s.segs := rfl
@[simp] theorem satF_dpool (o : Nat) (f : Fld) (v : Nat) : (satF o f v s).dpool = s.dpool := rfl
@[simp] theorem satF_walks (o : Nat) (f : Fld) (v : Nat) : (satF o f v s).walks = s.walks := rfl
@[simp] theorem satF_tallies (o : Nat) (f : Fld) (v : Nat) : (satF o f v s).tallies = s.tallies := rfl
@[simp] theorem satF_waiters (o : Nat) (f : Fld) (v : Nat) : (satF o f v s).waiters = s.waiters := rfl
@[simp] theorem satF_cores (o : Nat) (f : Fld) (v : Nat) : (satF o f v s).cores = s.cores := rfl
@[simp] theorem satF_progs (o : Nat) (f : Fld) (v : Nat) : (satF o f v s).progs = s.progs := rfl
@[simp] theorem satF_partSets (o : Nat) (f : Fld) (v : Nat) : (satF o f v s).partSets = s.partSets := rfl
@[simp] theorem satF_stackDies (o : Nat) (f : Fld) (v : Nat) : (satF o f v s).stackDies = s.stackDies := rfl
@[simp] theorem satF_hc (o : Nat) (f : Fld) (v : Nat) : (satF o f v s).hc = s.hc := rfl
@[simp] theorem satF_fab (o : Nat) (f : Fld) (v : Nat) : (satF o f v s).fab = s.fab := rfl
@[simp] theorem satF_g0 (o : Nat) (f : Fld) (v : Nat) : (satF o f v s).g0 = s.g0 := rfl
@[simp] theorem satF_g1 (o : Nat) (f : Fld) (v : Nat) : (satF o f v s).g1 = s.g1 := rfl
@[simp] theorem satF_pA (o : Nat) (f : Fld) (v : Nat) : (satF o f v s).pA = s.pA := rfl
@[simp] theorem satF_pB (o : Nat) (f : Fld) (v : Nat) : (satF o f v s).pB = s.pB := rfl
@[simp] theorem satF_power (o : Nat) (f : Fld) (v : Nat) : (satF o f v s).power = s.power := rfl
@[simp] theorem satF_faults (o : Nat) (f : Fld) (v : Nat) : (satF o f v s).faults = s.faults := rfl
@[simp] theorem satF_mgmt (o : Nat) (f : Fld) (v : Nat) : (satF o f v s).mgmt = s.mgmt := rfl
@[simp] theorem satF_tray (o : Nat) (f : Fld) (v : Nat) : (satF o f v s).tray = s.tray := rfl
@[simp] theorem satF_chainGen (o : Nat) (f : Fld) (v : Nat) : (satF o f v s).chainGen = s.chainGen := rfl
@[simp] theorem satF_chainPosted (o : Nat) (f : Fld) (v : Nat) : (satF o f v s).chainPosted = s.chainPosted := rfl
@[simp] theorem satF_out (o : Nat) (f : Fld) (v : Nat) : (satF o f v s).out = s.out := rfl
@[simp] theorem satF_heldPort (o : Nat) (f : Fld) (v : Nat) : (satF o f v s).heldPort = s.heldPort := rfl
@[simp] theorem satF_turns (o : Nat) (f : Fld) (v : Nat) : (satF o f v s).turns = s.turns := rfl
@[simp] theorem satF_actionEnd (o : Nat) (f : Fld) (v : Nat) : (satF o f v s).actionEnd = s.actionEnd := rfl
@[simp] theorem satF_tallyEnd (o : Nat) (f : Fld) (v : Nat) : (satF o f v s).tallyEnd = s.tallyEnd := rfl
@[simp] theorem satF_upsets (o : Nat) (f : Fld) (v : Nat) : (satF o f v s).upsets = s.upsets := rfl
@[simp] theorem memByte_satF (o : Nat) (f : Fld) (v : Nat) (a' : Nat) : memByte (satF o f v s) a' = memByte s a' := rfl
@[simp] theorem queueOf_satF (o : Nat) (f : Fld) (v : Nat) (q' : Nat) : queueOf (satF o f v s) q' = queueOf s q' := rfl
@[simp] theorem ctxOf_satF (o : Nat) (f : Fld) (v : Nat) (x' : Nat) : ctxOf (satF o f v s) x' = ctxOf s x' := rfl
@[simp] theorem partOf_satF (o : Nat) (f : Fld) (v : Nat) (p' : Nat) : partOf (satF o f v s) p' = partOf s p' := rfl
@[simp] theorem coreOf_satF (o : Nat) (f : Fld) (v : Nat) (n' : Nat) : coreOf (satF o f v s) n' = coreOf s n' := rfl
@[simp] theorem tallyOf_satF (o : Nat) (f : Fld) (v : Nat) (j' i' : Nat) : tallyOf (satF o f v s) j' i' = tallyOf s j' i' := rfl
@[simp] theorem progOf_satF (o : Nat) (f : Fld) (v : Nat) (h' : Nat) : progOf (satF o f v s) h' = progOf s h' := rfl
@[simp] theorem stackOf_satF (o : Nat) (f : Fld) (v : Nat) (y' : Nat) : stackOf (satF o f v s) y' = stackOf s y' := rfl
@[simp] theorem isFenced_satF (o : Nat) (f : Fld) (v : Nat) (y' i' : Nat) : isFenced (satF o f v s) y' i' = isFenced s y' i' := rfl
@[simp] theorem extPort_satF (o : Nat) (f : Fld) (v : Nat) (c' : Bool) : extPort (satF o f v s) c' = extPort s c' := rfl
@[simp] theorem guestOf_satF (o : Nat) (f : Fld) (v : Nat) (c' : Bool) : guestOf (satF o f v s) c' = guestOf s c' := rfl

/-! ### orReg -/

@[simp] theorem orReg_pending (o v : Nat) : (orReg o v s).pending = s.pending := rfl
@[simp] theorem orReg_tick (o v : Nat) : (orReg o v s).tick = s.tick := rfl
@[simp] theorem orReg_mem (o v : Nat) : (orReg o v s).mem = s.mem := rfl
@[simp] theorem orReg_poison (o v : Nat) : (orReg o v s).poison = s.poison := rfl
@[simp] theorem orReg_cellar (o v : Nat) : (orReg o v s).cellar = s.cellar := rfl
@[simp] theorem orReg_cellarPoison (o v : Nat) : (orReg o v s).cellarPoison = s.cellarPoison := rfl
@[simp] theorem orReg_wbuf (o v : Nat) : (orReg o v s).wbuf = s.wbuf := rfl
@[simp] theorem orReg_bell (o v : Nat) : (orReg o v s).bell = s.bell := rfl
@[simp] theorem orReg_jumped (o v : Nat) : (orReg o v s).jumped = s.jumped := rfl
@[simp] theorem orReg_queues (o v : Nat) : (orReg o v s).queues = s.queues := rfl
@[simp] theorem orReg_cmds (o v : Nat) : (orReg o v s).cmds = s.cmds := rfl
@[simp] theorem orReg_ctxs (o v : Nat) : (orReg o v s).ctxs = s.ctxs := rfl
@[simp] theorem orReg_parts (o v : Nat) : (orReg o v s).parts = s.parts := rfl
@[simp] theorem orReg_staged (o v : Nat) : (orReg o v s).staged = s.staged := rfl
@[simp] theorem orReg_segs (o v : Nat) : (orReg o v s).segs = s.segs := rfl
@[simp] theorem orReg_dpool (o v : Nat) : (orReg o v s).dpool = s.dpool := rfl
@[simp] theorem orReg_walks (o v : Nat) : (orReg o v s).walks = s.walks := rfl
@[simp] theorem orReg_tallies (o v : Nat) : (orReg o v s).tallies = s.tallies := rfl
@[simp] theorem orReg_waiters (o v : Nat) : (orReg o v s).waiters = s.waiters := rfl
@[simp] theorem orReg_cores (o v : Nat) : (orReg o v s).cores = s.cores := rfl
@[simp] theorem orReg_progs (o v : Nat) : (orReg o v s).progs = s.progs := rfl
@[simp] theorem orReg_partSets (o v : Nat) : (orReg o v s).partSets = s.partSets := rfl
@[simp] theorem orReg_stackDies (o v : Nat) : (orReg o v s).stackDies = s.stackDies := rfl
@[simp] theorem orReg_hc (o v : Nat) : (orReg o v s).hc = s.hc := rfl
@[simp] theorem orReg_fab (o v : Nat) : (orReg o v s).fab = s.fab := rfl
@[simp] theorem orReg_g0 (o v : Nat) : (orReg o v s).g0 = s.g0 := rfl
@[simp] theorem orReg_g1 (o v : Nat) : (orReg o v s).g1 = s.g1 := rfl
@[simp] theorem orReg_pA (o v : Nat) : (orReg o v s).pA = s.pA := rfl
@[simp] theorem orReg_pB (o v : Nat) : (orReg o v s).pB = s.pB := rfl
@[simp] theorem orReg_power (o v : Nat) : (orReg o v s).power = s.power := rfl
@[simp] theorem orReg_faults (o v : Nat) : (orReg o v s).faults = s.faults := rfl
@[simp] theorem orReg_mgmt (o v : Nat) : (orReg o v s).mgmt = s.mgmt := rfl
@[simp] theorem orReg_tray (o v : Nat) : (orReg o v s).tray = s.tray := rfl
@[simp] theorem orReg_chainGen (o v : Nat) : (orReg o v s).chainGen = s.chainGen := rfl
@[simp] theorem orReg_chainPosted (o v : Nat) : (orReg o v s).chainPosted = s.chainPosted := rfl
@[simp] theorem orReg_out (o v : Nat) : (orReg o v s).out = s.out := rfl
@[simp] theorem orReg_heldPort (o v : Nat) : (orReg o v s).heldPort = s.heldPort := rfl
@[simp] theorem orReg_turns (o v : Nat) : (orReg o v s).turns = s.turns := rfl
@[simp] theorem orReg_actionEnd (o v : Nat) : (orReg o v s).actionEnd = s.actionEnd := rfl
@[simp] theorem orReg_tallyEnd (o v : Nat) : (orReg o v s).tallyEnd = s.tallyEnd := rfl
@[simp] theorem orReg_upsets (o v : Nat) : (orReg o v s).upsets = s.upsets := rfl
@[simp] theorem memByte_orReg (o v : Nat) (a' : Nat) : memByte (orReg o v s) a' = memByte s a' := rfl
@[simp] theorem queueOf_orReg (o v : Nat) (q' : Nat) : queueOf (orReg o v s) q' = queueOf s q' := rfl
@[simp] theorem ctxOf_orReg (o v : Nat) (x' : Nat) : ctxOf (orReg o v s) x' = ctxOf s x' := rfl
@[simp] theorem partOf_orReg (o v : Nat) (p' : Nat) : partOf (orReg o v s) p' = partOf s p' := rfl
@[simp] theorem coreOf_orReg (o v : Nat) (n' : Nat) : coreOf (orReg o v s) n' = coreOf s n' := rfl
@[simp] theorem tallyOf_orReg (o v : Nat) (j' i' : Nat) : tallyOf (orReg o v s) j' i' = tallyOf s j' i' := rfl
@[simp] theorem progOf_orReg (o v : Nat) (h' : Nat) : progOf (orReg o v s) h' = progOf s h' := rfl
@[simp] theorem stackOf_orReg (o v : Nat) (y' : Nat) : stackOf (orReg o v s) y' = stackOf s y' := rfl
@[simp] theorem isFenced_orReg (o v : Nat) (y' i' : Nat) : isFenced (orReg o v s) y' i' = isFenced s y' i' := rfl
@[simp] theorem extPort_orReg (o v : Nat) (c' : Bool) : extPort (orReg o v s) c' = extPort s c' := rfl
@[simp] theorem guestOf_orReg (o v : Nat) (c' : Bool) : guestOf (orReg o v s) c' = guestOf s c' := rfl

/-! ### clearBits -/

@[simp] theorem clearBits_pending (o v : Nat) : (clearBits o v s).pending = s.pending := rfl
@[simp] theorem clearBits_tick (o v : Nat) : (clearBits o v s).tick = s.tick := rfl
@[simp] theorem clearBits_mem (o v : Nat) : (clearBits o v s).mem = s.mem := rfl
@[simp] theorem clearBits_poison (o v : Nat) : (clearBits o v s).poison = s.poison := rfl
@[simp] theorem clearBits_cellar (o v : Nat) : (clearBits o v s).cellar = s.cellar := rfl
@[simp] theorem clearBits_cellarPoison (o v : Nat) : (clearBits o v s).cellarPoison = s.cellarPoison := rfl
@[simp] theorem clearBits_wbuf (o v : Nat) : (clearBits o v s).wbuf = s.wbuf := rfl
@[simp] theorem clearBits_bell (o v : Nat) : (clearBits o v s).bell = s.bell := rfl
@[simp] theorem clearBits_jumped (o v : Nat) : (clearBits o v s).jumped = s.jumped := rfl
@[simp] theorem clearBits_queues (o v : Nat) : (clearBits o v s).queues = s.queues := rfl
@[simp] theorem clearBits_cmds (o v : Nat) : (clearBits o v s).cmds = s.cmds := rfl
@[simp] theorem clearBits_ctxs (o v : Nat) : (clearBits o v s).ctxs = s.ctxs := rfl
@[simp] theorem clearBits_parts (o v : Nat) : (clearBits o v s).parts = s.parts := rfl
@[simp] theorem clearBits_staged (o v : Nat) : (clearBits o v s).staged = s.staged := rfl
@[simp] theorem clearBits_segs (o v : Nat) : (clearBits o v s).segs = s.segs := rfl
@[simp] theorem clearBits_dpool (o v : Nat) : (clearBits o v s).dpool = s.dpool := rfl
@[simp] theorem clearBits_walks (o v : Nat) : (clearBits o v s).walks = s.walks := rfl
@[simp] theorem clearBits_tallies (o v : Nat) : (clearBits o v s).tallies = s.tallies := rfl
@[simp] theorem clearBits_waiters (o v : Nat) : (clearBits o v s).waiters = s.waiters := rfl
@[simp] theorem clearBits_cores (o v : Nat) : (clearBits o v s).cores = s.cores := rfl
@[simp] theorem clearBits_progs (o v : Nat) : (clearBits o v s).progs = s.progs := rfl
@[simp] theorem clearBits_partSets (o v : Nat) : (clearBits o v s).partSets = s.partSets := rfl
@[simp] theorem clearBits_stackDies (o v : Nat) : (clearBits o v s).stackDies = s.stackDies := rfl
@[simp] theorem clearBits_hc (o v : Nat) : (clearBits o v s).hc = s.hc := rfl
@[simp] theorem clearBits_fab (o v : Nat) : (clearBits o v s).fab = s.fab := rfl
@[simp] theorem clearBits_g0 (o v : Nat) : (clearBits o v s).g0 = s.g0 := rfl
@[simp] theorem clearBits_g1 (o v : Nat) : (clearBits o v s).g1 = s.g1 := rfl
@[simp] theorem clearBits_pA (o v : Nat) : (clearBits o v s).pA = s.pA := rfl
@[simp] theorem clearBits_pB (o v : Nat) : (clearBits o v s).pB = s.pB := rfl
@[simp] theorem clearBits_power (o v : Nat) : (clearBits o v s).power = s.power := rfl
@[simp] theorem clearBits_faults (o v : Nat) : (clearBits o v s).faults = s.faults := rfl
@[simp] theorem clearBits_mgmt (o v : Nat) : (clearBits o v s).mgmt = s.mgmt := rfl
@[simp] theorem clearBits_tray (o v : Nat) : (clearBits o v s).tray = s.tray := rfl
@[simp] theorem clearBits_chainGen (o v : Nat) : (clearBits o v s).chainGen = s.chainGen := rfl
@[simp] theorem clearBits_chainPosted (o v : Nat) : (clearBits o v s).chainPosted = s.chainPosted := rfl
@[simp] theorem clearBits_out (o v : Nat) : (clearBits o v s).out = s.out := rfl
@[simp] theorem clearBits_heldPort (o v : Nat) : (clearBits o v s).heldPort = s.heldPort := rfl
@[simp] theorem clearBits_turns (o v : Nat) : (clearBits o v s).turns = s.turns := rfl
@[simp] theorem clearBits_actionEnd (o v : Nat) : (clearBits o v s).actionEnd = s.actionEnd := rfl
@[simp] theorem clearBits_tallyEnd (o v : Nat) : (clearBits o v s).tallyEnd = s.tallyEnd := rfl
@[simp] theorem clearBits_upsets (o v : Nat) : (clearBits o v s).upsets = s.upsets := rfl
@[simp] theorem memByte_clearBits (o v : Nat) (a' : Nat) : memByte (clearBits o v s) a' = memByte s a' := rfl
@[simp] theorem queueOf_clearBits (o v : Nat) (q' : Nat) : queueOf (clearBits o v s) q' = queueOf s q' := rfl
@[simp] theorem ctxOf_clearBits (o v : Nat) (x' : Nat) : ctxOf (clearBits o v s) x' = ctxOf s x' := rfl
@[simp] theorem partOf_clearBits (o v : Nat) (p' : Nat) : partOf (clearBits o v s) p' = partOf s p' := rfl
@[simp] theorem coreOf_clearBits (o v : Nat) (n' : Nat) : coreOf (clearBits o v s) n' = coreOf s n' := rfl
@[simp] theorem tallyOf_clearBits (o v : Nat) (j' i' : Nat) : tallyOf (clearBits o v s) j' i' = tallyOf s j' i' := rfl
@[simp] theorem progOf_clearBits (o v : Nat) (h' : Nat) : progOf (clearBits o v s) h' = progOf s h' := rfl
@[simp] theorem stackOf_clearBits (o v : Nat) (y' : Nat) : stackOf (clearBits o v s) y' = stackOf s y' := rfl
@[simp] theorem isFenced_clearBits (o v : Nat) (y' i' : Nat) : isFenced (clearBits o v s) y' i' = isFenced s y' i' := rfl
@[simp] theorem extPort_clearBits (o v : Nat) (c' : Bool) : extPort (clearBits o v s) c' = extPort s c' := rfl
@[simp] theorem guestOf_clearBits (o v : Nat) (c' : Bool) : guestOf (clearBits o v s) c' = guestOf s c' := rfl

/-! ### setStack -/

@[simp] theorem setStack_pending (k : Nat) (v : Stack) : (setStack k v s).pending = s.pending := rfl
@[simp] theorem setStack_tick (k : Nat) (v : Stack) : (setStack k v s).tick = s.tick := rfl
@[simp] theorem setStack_mem (k : Nat) (v : Stack) : (setStack k v s).mem = s.mem := rfl
@[simp] theorem setStack_poison (k : Nat) (v : Stack) : (setStack k v s).poison = s.poison := rfl
@[simp] theorem setStack_cellar (k : Nat) (v : Stack) : (setStack k v s).cellar = s.cellar := rfl
@[simp] theorem setStack_cellarPoison (k : Nat) (v : Stack) : (setStack k v s).cellarPoison = s.cellarPoison := rfl
@[simp] theorem setStack_wbuf (k : Nat) (v : Stack) : (setStack k v s).wbuf = s.wbuf := rfl
@[simp] theorem setStack_regs (k : Nat) (v : Stack) : (setStack k v s).regs = s.regs := rfl
@[simp] theorem setStack_bell (k : Nat) (v : Stack) : (setStack k v s).bell = s.bell := rfl
@[simp] theorem setStack_jumped (k : Nat) (v : Stack) : (setStack k v s).jumped = s.jumped := rfl
@[simp] theorem setStack_queues (k : Nat) (v : Stack) : (setStack k v s).queues = s.queues := rfl
@[simp] theorem setStack_cmds (k : Nat) (v : Stack) : (setStack k v s).cmds = s.cmds := rfl
@[simp] theorem setStack_ctxs (k : Nat) (v : Stack) : (setStack k v s).ctxs = s.ctxs := rfl
@[simp] theorem setStack_parts (k : Nat) (v : Stack) : (setStack k v s).parts = s.parts := rfl
@[simp] theorem setStack_staged (k : Nat) (v : Stack) : (setStack k v s).staged = s.staged := rfl
@[simp] theorem setStack_segs (k : Nat) (v : Stack) : (setStack k v s).segs = s.segs := rfl
@[simp] theorem setStack_dpool (k : Nat) (v : Stack) : (setStack k v s).dpool = s.dpool := rfl
@[simp] theorem setStack_walks (k : Nat) (v : Stack) : (setStack k v s).walks = s.walks := rfl
@[simp] theorem setStack_tallies (k : Nat) (v : Stack) : (setStack k v s).tallies = s.tallies := rfl
@[simp] theorem setStack_waiters (k : Nat) (v : Stack) : (setStack k v s).waiters = s.waiters := rfl
@[simp] theorem setStack_cores (k : Nat) (v : Stack) : (setStack k v s).cores = s.cores := rfl
@[simp] theorem setStack_progs (k : Nat) (v : Stack) : (setStack k v s).progs = s.progs := rfl
@[simp] theorem setStack_partSets (k : Nat) (v : Stack) : (setStack k v s).partSets = s.partSets := rfl
@[simp] theorem setStack_hc (k : Nat) (v : Stack) : (setStack k v s).hc = s.hc := rfl
@[simp] theorem setStack_fab (k : Nat) (v : Stack) : (setStack k v s).fab = s.fab := rfl
@[simp] theorem setStack_g0 (k : Nat) (v : Stack) : (setStack k v s).g0 = s.g0 := rfl
@[simp] theorem setStack_g1 (k : Nat) (v : Stack) : (setStack k v s).g1 = s.g1 := rfl
@[simp] theorem setStack_pA (k : Nat) (v : Stack) : (setStack k v s).pA = s.pA := rfl
@[simp] theorem setStack_pB (k : Nat) (v : Stack) : (setStack k v s).pB = s.pB := rfl
@[simp] theorem setStack_power (k : Nat) (v : Stack) : (setStack k v s).power = s.power := rfl
@[simp] theorem setStack_faults (k : Nat) (v : Stack) : (setStack k v s).faults = s.faults := rfl
@[simp] theorem setStack_mgmt (k : Nat) (v : Stack) : (setStack k v s).mgmt = s.mgmt := rfl
@[simp] theorem setStack_tray (k : Nat) (v : Stack) : (setStack k v s).tray = s.tray := rfl
@[simp] theorem setStack_chainGen (k : Nat) (v : Stack) : (setStack k v s).chainGen = s.chainGen := rfl
@[simp] theorem setStack_chainPosted (k : Nat) (v : Stack) : (setStack k v s).chainPosted = s.chainPosted := rfl
@[simp] theorem setStack_out (k : Nat) (v : Stack) : (setStack k v s).out = s.out := rfl
@[simp] theorem setStack_heldPort (k : Nat) (v : Stack) : (setStack k v s).heldPort = s.heldPort := rfl
@[simp] theorem setStack_turns (k : Nat) (v : Stack) : (setStack k v s).turns = s.turns := rfl
@[simp] theorem setStack_actionEnd (k : Nat) (v : Stack) : (setStack k v s).actionEnd = s.actionEnd := rfl
@[simp] theorem setStack_tallyEnd (k : Nat) (v : Stack) : (setStack k v s).tallyEnd = s.tallyEnd := rfl
@[simp] theorem setStack_upsets (k : Nat) (v : Stack) : (setStack k v s).upsets = s.upsets := rfl
@[simp] theorem getReg_setStack (k : Nat) (v : Stack) (r' : Nat) : getReg (setStack k v s) r' = getReg s r' := rfl
@[simp] theorem getF_setStack (k : Nat) (v : Stack) (r' : Nat) (g' : Fld) : getF (setStack k v s) r' g' = getF s r' g' := rfl
@[simp] theorem memByte_setStack (k : Nat) (v : Stack) (a' : Nat) : memByte (setStack k v s) a' = memByte s a' := rfl
@[simp] theorem queueOf_setStack (k : Nat) (v : Stack) (q' : Nat) : queueOf (setStack k v s) q' = queueOf s q' := rfl
@[simp] theorem ctxOf_setStack (k : Nat) (v : Stack) (x' : Nat) : ctxOf (setStack k v s) x' = ctxOf s x' := rfl
@[simp] theorem partOf_setStack (k : Nat) (v : Stack) (p' : Nat) : partOf (setStack k v s) p' = partOf s p' := rfl
@[simp] theorem coreOf_setStack (k : Nat) (v : Stack) (n' : Nat) : coreOf (setStack k v s) n' = coreOf s n' := rfl
@[simp] theorem tallyOf_setStack (k : Nat) (v : Stack) (j' i' : Nat) : tallyOf (setStack k v s) j' i' = tallyOf s j' i' := rfl
@[simp] theorem progOf_setStack (k : Nat) (v : Stack) (h' : Nat) : progOf (setStack k v s) h' = progOf s h' := rfl
@[simp] theorem isFenced_setStack (k : Nat) (v : Stack) (y' i' : Nat) : isFenced (setStack k v s) y' i' = isFenced s y' i' := rfl
@[simp] theorem extPort_setStack (k : Nat) (v : Stack) (c' : Bool) : extPort (setStack k v s) c' = extPort s c' := rfl
@[simp] theorem guestOf_setStack (k : Nat) (v : Stack) (c' : Bool) : guestOf (setStack k v s) c' = guestOf s c' := rfl

/-! ### poisonSector -/

@[simp] theorem poisonSector_pending (x : Nat) : (poisonSector x s).pending = s.pending := rfl
@[simp] theorem poisonSector_tick (x : Nat) : (poisonSector x s).tick = s.tick := rfl
@[simp] theorem poisonSector_mem (x : Nat) : (poisonSector x s).mem = s.mem := rfl
@[simp] theorem poisonSector_cellar (x : Nat) : (poisonSector x s).cellar = s.cellar := rfl
@[simp] theorem poisonSector_cellarPoison (x : Nat) : (poisonSector x s).cellarPoison = s.cellarPoison := rfl
@[simp] theorem poisonSector_wbuf (x : Nat) : (poisonSector x s).wbuf = s.wbuf := rfl
@[simp] theorem poisonSector_regs (x : Nat) : (poisonSector x s).regs = s.regs := rfl
@[simp] theorem poisonSector_bell (x : Nat) : (poisonSector x s).bell = s.bell := rfl
@[simp] theorem poisonSector_jumped (x : Nat) : (poisonSector x s).jumped = s.jumped := rfl
@[simp] theorem poisonSector_queues (x : Nat) : (poisonSector x s).queues = s.queues := rfl
@[simp] theorem poisonSector_cmds (x : Nat) : (poisonSector x s).cmds = s.cmds := rfl
@[simp] theorem poisonSector_ctxs (x : Nat) : (poisonSector x s).ctxs = s.ctxs := rfl
@[simp] theorem poisonSector_parts (x : Nat) : (poisonSector x s).parts = s.parts := rfl
@[simp] theorem poisonSector_staged (x : Nat) : (poisonSector x s).staged = s.staged := rfl
@[simp] theorem poisonSector_segs (x : Nat) : (poisonSector x s).segs = s.segs := rfl
@[simp] theorem poisonSector_dpool (x : Nat) : (poisonSector x s).dpool = s.dpool := rfl
@[simp] theorem poisonSector_walks (x : Nat) : (poisonSector x s).walks = s.walks := rfl
@[simp] theorem poisonSector_tallies (x : Nat) : (poisonSector x s).tallies = s.tallies := rfl
@[simp] theorem poisonSector_waiters (x : Nat) : (poisonSector x s).waiters = s.waiters := rfl
@[simp] theorem poisonSector_cores (x : Nat) : (poisonSector x s).cores = s.cores := rfl
@[simp] theorem poisonSector_progs (x : Nat) : (poisonSector x s).progs = s.progs := rfl
@[simp] theorem poisonSector_partSets (x : Nat) : (poisonSector x s).partSets = s.partSets := rfl
@[simp] theorem poisonSector_stackDies (x : Nat) : (poisonSector x s).stackDies = s.stackDies := rfl
@[simp] theorem poisonSector_hc (x : Nat) : (poisonSector x s).hc = s.hc := rfl
@[simp] theorem poisonSector_fab (x : Nat) : (poisonSector x s).fab = s.fab := rfl
@[simp] theorem poisonSector_g0 (x : Nat) : (poisonSector x s).g0 = s.g0 := rfl
@[simp] theorem poisonSector_g1 (x : Nat) : (poisonSector x s).g1 = s.g1 := rfl
@[simp] theorem poisonSector_pA (x : Nat) : (poisonSector x s).pA = s.pA := rfl
@[simp] theorem poisonSector_pB (x : Nat) : (poisonSector x s).pB = s.pB := rfl
@[simp] theorem poisonSector_power (x : Nat) : (poisonSector x s).power = s.power := rfl
@[simp] theorem poisonSector_faults (x : Nat) : (poisonSector x s).faults = s.faults := rfl
@[simp] theorem poisonSector_mgmt (x : Nat) : (poisonSector x s).mgmt = s.mgmt := rfl
@[simp] theorem poisonSector_tray (x : Nat) : (poisonSector x s).tray = s.tray := rfl
@[simp] theorem poisonSector_chainGen (x : Nat) : (poisonSector x s).chainGen = s.chainGen := rfl
@[simp] theorem poisonSector_chainPosted (x : Nat) : (poisonSector x s).chainPosted = s.chainPosted := rfl
@[simp] theorem poisonSector_out (x : Nat) : (poisonSector x s).out = s.out := rfl
@[simp] theorem poisonSector_heldPort (x : Nat) : (poisonSector x s).heldPort = s.heldPort := rfl
@[simp] theorem poisonSector_turns (x : Nat) : (poisonSector x s).turns = s.turns := rfl
@[simp] theorem poisonSector_actionEnd (x : Nat) : (poisonSector x s).actionEnd = s.actionEnd := rfl
@[simp] theorem poisonSector_tallyEnd (x : Nat) : (poisonSector x s).tallyEnd = s.tallyEnd := rfl
@[simp] theorem poisonSector_upsets (x : Nat) : (poisonSector x s).upsets = s.upsets := rfl
@[simp] theorem getReg_poisonSector (x : Nat) (r' : Nat) : getReg (poisonSector x s) r' = getReg s r' := rfl
@[simp] theorem getF_poisonSector (x : Nat) (r' : Nat) (g' : Fld) : getF (poisonSector x s) r' g' = getF s r' g' := rfl
@[simp] theorem memByte_poisonSector (x : Nat) (a' : Nat) : memByte (poisonSector x s) a' = memByte s a' := rfl
@[simp] theorem queueOf_poisonSector (x : Nat) (q' : Nat) : queueOf (poisonSector x s) q' = queueOf s q' := rfl
@[simp] theorem ctxOf_poisonSector (x : Nat) (x' : Nat) : ctxOf (poisonSector x s) x' = ctxOf s x' := rfl
@[simp] theorem partOf_poisonSector (x : Nat) (p' : Nat) : partOf (poisonSector x s) p' = partOf s p' := rfl
@[simp] theorem coreOf_poisonSector (x : Nat) (n' : Nat) : coreOf (poisonSector x s) n' = coreOf s n' := rfl
@[simp] theorem tallyOf_poisonSector (x : Nat) (j' i' : Nat) : tallyOf (poisonSector x s) j' i' = tallyOf s j' i' := rfl
@[simp] theorem progOf_poisonSector (x : Nat) (h' : Nat) : progOf (poisonSector x s) h' = progOf s h' := rfl
@[simp] theorem stackOf_poisonSector (x : Nat) (y' : Nat) : stackOf (poisonSector x s) y' = stackOf s y' := rfl
@[simp] theorem isFenced_poisonSector (x : Nat) (y' i' : Nat) : isFenced (poisonSector x s) y' i' = isFenced s y' i' := rfl
@[simp] theorem extPort_poisonSector (x : Nat) (c' : Bool) : extPort (poisonSector x s) c' = extPort s c' := rfl
@[simp] theorem guestOf_poisonSector (x : Nat) (c' : Bool) : guestOf (poisonSector x s) c' = guestOf s c' := rfl

/-! ### setQueue -/

@[simp] theorem setQueue_pending (k : Nat) (v : Queue) : (setQueue k v s).pending = s.pending := rfl
@[simp] theorem setQueue_tick (k : Nat) (v : Queue) : (setQueue k v s).tick = s.tick := rfl
@[simp] theorem setQueue_mem (k : Nat) (v : Queue) : (setQueue k v s).mem = s.mem := rfl
@[simp] theorem setQueue_poison (k : Nat) (v : Queue) : (setQueue k v s).poison = s.poison := rfl
@[simp] theorem setQueue_cellar (k : Nat) (v : Queue) : (setQueue k v s).cellar = s.cellar := rfl
@[simp] theorem setQueue_cellarPoison (k : Nat) (v : Queue) : (setQueue k v s).cellarPoison = s.cellarPoison := rfl
@[simp] theorem setQueue_wbuf (k : Nat) (v : Queue) : (setQueue k v s).wbuf = s.wbuf := rfl
@[simp] theorem setQueue_regs (k : Nat) (v : Queue) : (setQueue k v s).regs = s.regs := rfl
@[simp] theorem setQueue_bell (k : Nat) (v : Queue) : (setQueue k v s).bell = s.bell := rfl
@[simp] theorem setQueue_jumped (k : Nat) (v : Queue) : (setQueue k v s).jumped = s.jumped := rfl
@[simp] theorem setQueue_cmds (k : Nat) (v : Queue) : (setQueue k v s).cmds = s.cmds := rfl
@[simp] theorem setQueue_ctxs (k : Nat) (v : Queue) : (setQueue k v s).ctxs = s.ctxs := rfl
@[simp] theorem setQueue_parts (k : Nat) (v : Queue) : (setQueue k v s).parts = s.parts := rfl
@[simp] theorem setQueue_staged (k : Nat) (v : Queue) : (setQueue k v s).staged = s.staged := rfl
@[simp] theorem setQueue_segs (k : Nat) (v : Queue) : (setQueue k v s).segs = s.segs := rfl
@[simp] theorem setQueue_dpool (k : Nat) (v : Queue) : (setQueue k v s).dpool = s.dpool := rfl
@[simp] theorem setQueue_walks (k : Nat) (v : Queue) : (setQueue k v s).walks = s.walks := rfl
@[simp] theorem setQueue_tallies (k : Nat) (v : Queue) : (setQueue k v s).tallies = s.tallies := rfl
@[simp] theorem setQueue_waiters (k : Nat) (v : Queue) : (setQueue k v s).waiters = s.waiters := rfl
@[simp] theorem setQueue_cores (k : Nat) (v : Queue) : (setQueue k v s).cores = s.cores := rfl
@[simp] theorem setQueue_progs (k : Nat) (v : Queue) : (setQueue k v s).progs = s.progs := rfl
@[simp] theorem setQueue_partSets (k : Nat) (v : Queue) : (setQueue k v s).partSets = s.partSets := rfl
@[simp] theorem setQueue_stackDies (k : Nat) (v : Queue) : (setQueue k v s).stackDies = s.stackDies := rfl
@[simp] theorem setQueue_hc (k : Nat) (v : Queue) : (setQueue k v s).hc = s.hc := rfl
@[simp] theorem setQueue_fab (k : Nat) (v : Queue) : (setQueue k v s).fab = s.fab := rfl
@[simp] theorem setQueue_g0 (k : Nat) (v : Queue) : (setQueue k v s).g0 = s.g0 := rfl
@[simp] theorem setQueue_g1 (k : Nat) (v : Queue) : (setQueue k v s).g1 = s.g1 := rfl
@[simp] theorem setQueue_pA (k : Nat) (v : Queue) : (setQueue k v s).pA = s.pA := rfl
@[simp] theorem setQueue_pB (k : Nat) (v : Queue) : (setQueue k v s).pB = s.pB := rfl
@[simp] theorem setQueue_power (k : Nat) (v : Queue) : (setQueue k v s).power = s.power := rfl
@[simp] theorem setQueue_faults (k : Nat) (v : Queue) : (setQueue k v s).faults = s.faults := rfl
@[simp] theorem setQueue_mgmt (k : Nat) (v : Queue) : (setQueue k v s).mgmt = s.mgmt := rfl
@[simp] theorem setQueue_tray (k : Nat) (v : Queue) : (setQueue k v s).tray = s.tray := rfl
@[simp] theorem setQueue_chainGen (k : Nat) (v : Queue) : (setQueue k v s).chainGen = s.chainGen := rfl
@[simp] theorem setQueue_chainPosted (k : Nat) (v : Queue) : (setQueue k v s).chainPosted = s.chainPosted := rfl
@[simp] theorem setQueue_out (k : Nat) (v : Queue) : (setQueue k v s).out = s.out := rfl
@[simp] theorem setQueue_heldPort (k : Nat) (v : Queue) : (setQueue k v s).heldPort = s.heldPort := rfl
@[simp] theorem setQueue_turns (k : Nat) (v : Queue) : (setQueue k v s).turns = s.turns := rfl
@[simp] theorem setQueue_actionEnd (k : Nat) (v : Queue) : (setQueue k v s).actionEnd = s.actionEnd := rfl
@[simp] theorem setQueue_tallyEnd (k : Nat) (v : Queue) : (setQueue k v s).tallyEnd = s.tallyEnd := rfl
@[simp] theorem setQueue_upsets (k : Nat) (v : Queue) : (setQueue k v s).upsets = s.upsets := rfl
@[simp] theorem getReg_setQueue (k : Nat) (v : Queue) (r' : Nat) : getReg (setQueue k v s) r' = getReg s r' := rfl
@[simp] theorem getF_setQueue (k : Nat) (v : Queue) (r' : Nat) (g' : Fld) : getF (setQueue k v s) r' g' = getF s r' g' := rfl
@[simp] theorem memByte_setQueue (k : Nat) (v : Queue) (a' : Nat) : memByte (setQueue k v s) a' = memByte s a' := rfl
@[simp] theorem ctxOf_setQueue (k : Nat) (v : Queue) (x' : Nat) : ctxOf (setQueue k v s) x' = ctxOf s x' := rfl
@[simp] theorem partOf_setQueue (k : Nat) (v : Queue) (p' : Nat) : partOf (setQueue k v s) p' = partOf s p' := rfl
@[simp] theorem coreOf_setQueue (k : Nat) (v : Queue) (n' : Nat) : coreOf (setQueue k v s) n' = coreOf s n' := rfl
@[simp] theorem tallyOf_setQueue (k : Nat) (v : Queue) (j' i' : Nat) : tallyOf (setQueue k v s) j' i' = tallyOf s j' i' := rfl
@[simp] theorem progOf_setQueue (k : Nat) (v : Queue) (h' : Nat) : progOf (setQueue k v s) h' = progOf s h' := rfl
@[simp] theorem stackOf_setQueue (k : Nat) (v : Queue) (y' : Nat) : stackOf (setQueue k v s) y' = stackOf s y' := rfl
@[simp] theorem isFenced_setQueue (k : Nat) (v : Queue) (y' i' : Nat) : isFenced (setQueue k v s) y' i' = isFenced s y' i' := rfl
@[simp] theorem extPort_setQueue (k : Nat) (v : Queue) (c' : Bool) : extPort (setQueue k v s) c' = extPort s c' := rfl
@[simp] theorem guestOf_setQueue (k : Nat) (v : Queue) (c' : Bool) : guestOf (setQueue k v s) c' = guestOf s c' := rfl

/-! ### setCtx -/

@[simp] theorem setCtx_pending (k : Nat) (v : Ctx) : (setCtx k v s).pending = s.pending := rfl
@[simp] theorem setCtx_tick (k : Nat) (v : Ctx) : (setCtx k v s).tick = s.tick := rfl
@[simp] theorem setCtx_mem (k : Nat) (v : Ctx) : (setCtx k v s).mem = s.mem := rfl
@[simp] theorem setCtx_poison (k : Nat) (v : Ctx) : (setCtx k v s).poison = s.poison := rfl
@[simp] theorem setCtx_cellar (k : Nat) (v : Ctx) : (setCtx k v s).cellar = s.cellar := rfl
@[simp] theorem setCtx_cellarPoison (k : Nat) (v : Ctx) : (setCtx k v s).cellarPoison = s.cellarPoison := rfl
@[simp] theorem setCtx_wbuf (k : Nat) (v : Ctx) : (setCtx k v s).wbuf = s.wbuf := rfl
@[simp] theorem setCtx_regs (k : Nat) (v : Ctx) : (setCtx k v s).regs = s.regs := rfl
@[simp] theorem setCtx_bell (k : Nat) (v : Ctx) : (setCtx k v s).bell = s.bell := rfl
@[simp] theorem setCtx_jumped (k : Nat) (v : Ctx) : (setCtx k v s).jumped = s.jumped := rfl
@[simp] theorem setCtx_queues (k : Nat) (v : Ctx) : (setCtx k v s).queues = s.queues := rfl
@[simp] theorem setCtx_cmds (k : Nat) (v : Ctx) : (setCtx k v s).cmds = s.cmds := rfl
@[simp] theorem setCtx_parts (k : Nat) (v : Ctx) : (setCtx k v s).parts = s.parts := rfl
@[simp] theorem setCtx_staged (k : Nat) (v : Ctx) : (setCtx k v s).staged = s.staged := rfl
@[simp] theorem setCtx_segs (k : Nat) (v : Ctx) : (setCtx k v s).segs = s.segs := rfl
@[simp] theorem setCtx_dpool (k : Nat) (v : Ctx) : (setCtx k v s).dpool = s.dpool := rfl
@[simp] theorem setCtx_walks (k : Nat) (v : Ctx) : (setCtx k v s).walks = s.walks := rfl
@[simp] theorem setCtx_tallies (k : Nat) (v : Ctx) : (setCtx k v s).tallies = s.tallies := rfl
@[simp] theorem setCtx_waiters (k : Nat) (v : Ctx) : (setCtx k v s).waiters = s.waiters := rfl
@[simp] theorem setCtx_cores (k : Nat) (v : Ctx) : (setCtx k v s).cores = s.cores := rfl
@[simp] theorem setCtx_progs (k : Nat) (v : Ctx) : (setCtx k v s).progs = s.progs := rfl
@[simp] theorem setCtx_partSets (k : Nat) (v : Ctx) : (setCtx k v s).partSets = s.partSets := rfl
@[simp] theorem setCtx_stackDies (k : Nat) (v : Ctx) : (setCtx k v s).stackDies = s.stackDies := rfl
@[simp] theorem setCtx_hc (k : Nat) (v : Ctx) : (setCtx k v s).hc = s.hc := rfl
@[simp] theorem setCtx_fab (k : Nat) (v : Ctx) : (setCtx k v s).fab = s.fab := rfl
@[simp] theorem setCtx_g0 (k : Nat) (v : Ctx) : (setCtx k v s).g0 = s.g0 := rfl
@[simp] theorem setCtx_g1 (k : Nat) (v : Ctx) : (setCtx k v s).g1 = s.g1 := rfl
@[simp] theorem setCtx_pA (k : Nat) (v : Ctx) : (setCtx k v s).pA = s.pA := rfl
@[simp] theorem setCtx_pB (k : Nat) (v : Ctx) : (setCtx k v s).pB = s.pB := rfl
@[simp] theorem setCtx_power (k : Nat) (v : Ctx) : (setCtx k v s).power = s.power := rfl
@[simp] theorem setCtx_faults (k : Nat) (v : Ctx) : (setCtx k v s).faults = s.faults := rfl
@[simp] theorem setCtx_mgmt (k : Nat) (v : Ctx) : (setCtx k v s).mgmt = s.mgmt := rfl
@[simp] theorem setCtx_tray (k : Nat) (v : Ctx) : (setCtx k v s).tray = s.tray := rfl
@[simp] theorem setCtx_chainGen (k : Nat) (v : Ctx) : (setCtx k v s).chainGen = s.chainGen := rfl
@[simp] theorem setCtx_chainPosted (k : Nat) (v : Ctx) : (setCtx k v s).chainPosted = s.chainPosted := rfl
@[simp] theorem setCtx_out (k : Nat) (v : Ctx) : (setCtx k v s).out = s.out := rfl
@[simp] theorem setCtx_heldPort (k : Nat) (v : Ctx) : (setCtx k v s).heldPort = s.heldPort := rfl
@[simp] theorem setCtx_turns (k : Nat) (v : Ctx) : (setCtx k v s).turns = s.turns := rfl
@[simp] theorem setCtx_actionEnd (k : Nat) (v : Ctx) : (setCtx k v s).actionEnd = s.actionEnd := rfl
@[simp] theorem setCtx_tallyEnd (k : Nat) (v : Ctx) : (setCtx k v s).tallyEnd = s.tallyEnd := rfl
@[simp] theorem setCtx_upsets (k : Nat) (v : Ctx) : (setCtx k v s).upsets = s.upsets := rfl
@[simp] theorem getReg_setCtx (k : Nat) (v : Ctx) (r' : Nat) : getReg (setCtx k v s) r' = getReg s r' := rfl
@[simp] theorem getF_setCtx (k : Nat) (v : Ctx) (r' : Nat) (g' : Fld) : getF (setCtx k v s) r' g' = getF s r' g' := rfl
@[simp] theorem memByte_setCtx (k : Nat) (v : Ctx) (a' : Nat) : memByte (setCtx k v s) a' = memByte s a' := rfl
@[simp] theorem queueOf_setCtx (k : Nat) (v : Ctx) (q' : Nat) : queueOf (setCtx k v s) q' = queueOf s q' := rfl
@[simp] theorem partOf_setCtx (k : Nat) (v : Ctx) (p' : Nat) : partOf (setCtx k v s) p' = partOf s p' := rfl
@[simp] theorem coreOf_setCtx (k : Nat) (v : Ctx) (n' : Nat) : coreOf (setCtx k v s) n' = coreOf s n' := rfl
@[simp] theorem tallyOf_setCtx (k : Nat) (v : Ctx) (j' i' : Nat) : tallyOf (setCtx k v s) j' i' = tallyOf s j' i' := rfl
@[simp] theorem progOf_setCtx (k : Nat) (v : Ctx) (h' : Nat) : progOf (setCtx k v s) h' = progOf s h' := rfl
@[simp] theorem stackOf_setCtx (k : Nat) (v : Ctx) (y' : Nat) : stackOf (setCtx k v s) y' = stackOf s y' := rfl
@[simp] theorem isFenced_setCtx (k : Nat) (v : Ctx) (y' i' : Nat) : isFenced (setCtx k v s) y' i' = isFenced s y' i' := rfl
@[simp] theorem extPort_setCtx (k : Nat) (v : Ctx) (c' : Bool) : extPort (setCtx k v s) c' = extPort s c' := rfl
@[simp] theorem guestOf_setCtx (k : Nat) (v : Ctx) (c' : Bool) : guestOf (setCtx k v s) c' = guestOf s c' := rfl

/-! ### setPart -/

@[simp] theorem setPart_pending (k : Nat) (v : Part) : (setPart k v s).pending = s.pending := rfl
@[simp] theorem setPart_tick (k : Nat) (v : Part) : (setPart k v s).tick = s.tick := rfl
@[simp] theorem setPart_mem (k : Nat) (v : Part) : (setPart k v s).mem = s.mem := rfl
@[simp] theorem setPart_poison (k : Nat) (v : Part) : (setPart k v s).poison = s.poison := rfl
@[simp] theorem setPart_cellar (k : Nat) (v : Part) : (setPart k v s).cellar = s.cellar := rfl
@[simp] theorem setPart_cellarPoison (k : Nat) (v : Part) : (setPart k v s).cellarPoison = s.cellarPoison := rfl
@[simp] theorem setPart_wbuf (k : Nat) (v : Part) : (setPart k v s).wbuf = s.wbuf := rfl
@[simp] theorem setPart_regs (k : Nat) (v : Part) : (setPart k v s).regs = s.regs := rfl
@[simp] theorem setPart_bell (k : Nat) (v : Part) : (setPart k v s).bell = s.bell := rfl
@[simp] theorem setPart_jumped (k : Nat) (v : Part) : (setPart k v s).jumped = s.jumped := rfl
@[simp] theorem setPart_queues (k : Nat) (v : Part) : (setPart k v s).queues = s.queues := rfl
@[simp] theorem setPart_cmds (k : Nat) (v : Part) : (setPart k v s).cmds = s.cmds := rfl
@[simp] theorem setPart_ctxs (k : Nat) (v : Part) : (setPart k v s).ctxs = s.ctxs := rfl
@[simp] theorem setPart_staged (k : Nat) (v : Part) : (setPart k v s).staged = s.staged := rfl
@[simp] theorem setPart_segs (k : Nat) (v : Part) : (setPart k v s).segs = s.segs := rfl
@[simp] theorem setPart_dpool (k : Nat) (v : Part) : (setPart k v s).dpool = s.dpool := rfl
@[simp] theorem setPart_walks (k : Nat) (v : Part) : (setPart k v s).walks = s.walks := rfl
@[simp] theorem setPart_tallies (k : Nat) (v : Part) : (setPart k v s).tallies = s.tallies := rfl
@[simp] theorem setPart_waiters (k : Nat) (v : Part) : (setPart k v s).waiters = s.waiters := rfl
@[simp] theorem setPart_cores (k : Nat) (v : Part) : (setPart k v s).cores = s.cores := rfl
@[simp] theorem setPart_progs (k : Nat) (v : Part) : (setPart k v s).progs = s.progs := rfl
@[simp] theorem setPart_partSets (k : Nat) (v : Part) : (setPart k v s).partSets = s.partSets := rfl
@[simp] theorem setPart_stackDies (k : Nat) (v : Part) : (setPart k v s).stackDies = s.stackDies := rfl
@[simp] theorem setPart_hc (k : Nat) (v : Part) : (setPart k v s).hc = s.hc := rfl
@[simp] theorem setPart_fab (k : Nat) (v : Part) : (setPart k v s).fab = s.fab := rfl
@[simp] theorem setPart_g0 (k : Nat) (v : Part) : (setPart k v s).g0 = s.g0 := rfl
@[simp] theorem setPart_g1 (k : Nat) (v : Part) : (setPart k v s).g1 = s.g1 := rfl
@[simp] theorem setPart_pA (k : Nat) (v : Part) : (setPart k v s).pA = s.pA := rfl
@[simp] theorem setPart_pB (k : Nat) (v : Part) : (setPart k v s).pB = s.pB := rfl
@[simp] theorem setPart_power (k : Nat) (v : Part) : (setPart k v s).power = s.power := rfl
@[simp] theorem setPart_faults (k : Nat) (v : Part) : (setPart k v s).faults = s.faults := rfl
@[simp] theorem setPart_mgmt (k : Nat) (v : Part) : (setPart k v s).mgmt = s.mgmt := rfl
@[simp] theorem setPart_tray (k : Nat) (v : Part) : (setPart k v s).tray = s.tray := rfl
@[simp] theorem setPart_chainGen (k : Nat) (v : Part) : (setPart k v s).chainGen = s.chainGen := rfl
@[simp] theorem setPart_chainPosted (k : Nat) (v : Part) : (setPart k v s).chainPosted = s.chainPosted := rfl
@[simp] theorem setPart_out (k : Nat) (v : Part) : (setPart k v s).out = s.out := rfl
@[simp] theorem setPart_heldPort (k : Nat) (v : Part) : (setPart k v s).heldPort = s.heldPort := rfl
@[simp] theorem setPart_turns (k : Nat) (v : Part) : (setPart k v s).turns = s.turns := rfl
@[simp] theorem setPart_actionEnd (k : Nat) (v : Part) : (setPart k v s).actionEnd = s.actionEnd := rfl
@[simp] theorem setPart_tallyEnd (k : Nat) (v : Part) : (setPart k v s).tallyEnd = s.tallyEnd := rfl
@[simp] theorem setPart_upsets (k : Nat) (v : Part) : (setPart k v s).upsets = s.upsets := rfl
@[simp] theorem getReg_setPart (k : Nat) (v : Part) (r' : Nat) : getReg (setPart k v s) r' = getReg s r' := rfl
@[simp] theorem getF_setPart (k : Nat) (v : Part) (r' : Nat) (g' : Fld) : getF (setPart k v s) r' g' = getF s r' g' := rfl
@[simp] theorem memByte_setPart (k : Nat) (v : Part) (a' : Nat) : memByte (setPart k v s) a' = memByte s a' := rfl
@[simp] theorem queueOf_setPart (k : Nat) (v : Part) (q' : Nat) : queueOf (setPart k v s) q' = queueOf s q' := rfl
@[simp] theorem ctxOf_setPart (k : Nat) (v : Part) (x' : Nat) : ctxOf (setPart k v s) x' = ctxOf s x' := rfl
@[simp] theorem coreOf_setPart (k : Nat) (v : Part) (n' : Nat) : coreOf (setPart k v s) n' = coreOf s n' := rfl
@[simp] theorem tallyOf_setPart (k : Nat) (v : Part) (j' i' : Nat) : tallyOf (setPart k v s) j' i' = tallyOf s j' i' := rfl
@[simp] theorem progOf_setPart (k : Nat) (v : Part) (h' : Nat) : progOf (setPart k v s) h' = progOf s h' := rfl
@[simp] theorem stackOf_setPart (k : Nat) (v : Part) (y' : Nat) : stackOf (setPart k v s) y' = stackOf s y' := rfl
@[simp] theorem isFenced_setPart (k : Nat) (v : Part) (y' i' : Nat) : isFenced (setPart k v s) y' i' = isFenced s y' i' := rfl
@[simp] theorem extPort_setPart (k : Nat) (v : Part) (c' : Bool) : extPort (setPart k v s) c' = extPort s c' := rfl
@[simp] theorem guestOf_setPart (k : Nat) (v : Part) (c' : Bool) : guestOf (setPart k v s) c' = guestOf s c' := rfl

/-! ### setCore -/

@[simp] theorem setCore_pending (k : Nat) (v : Core) : (setCore k v s).pending = s.pending := rfl
@[simp] theorem setCore_tick (k : Nat) (v : Core) : (setCore k v s).tick = s.tick := rfl
@[simp] theorem setCore_mem (k : Nat) (v : Core) : (setCore k v s).mem = s.mem := rfl
@[simp] theorem setCore_poison (k : Nat) (v : Core) : (setCore k v s).poison = s.poison := rfl
@[simp] theorem setCore_cellar (k : Nat) (v : Core) : (setCore k v s).cellar = s.cellar := rfl
@[simp] theorem setCore_cellarPoison (k : Nat) (v : Core) : (setCore k v s).cellarPoison = s.cellarPoison := rfl
@[simp] theorem setCore_wbuf (k : Nat) (v : Core) : (setCore k v s).wbuf = s.wbuf := rfl
@[simp] theorem setCore_regs (k : Nat) (v : Core) : (setCore k v s).regs = s.regs := rfl
@[simp] theorem setCore_bell (k : Nat) (v : Core) : (setCore k v s).bell = s.bell := rfl
@[simp] theorem setCore_jumped (k : Nat) (v : Core) : (setCore k v s).jumped = s.jumped := rfl
@[simp] theorem setCore_queues (k : Nat) (v : Core) : (setCore k v s).queues = s.queues := rfl
@[simp] theorem setCore_cmds (k : Nat) (v : Core) : (setCore k v s).cmds = s.cmds := rfl
@[simp] theorem setCore_ctxs (k : Nat) (v : Core) : (setCore k v s).ctxs = s.ctxs := rfl
@[simp] theorem setCore_parts (k : Nat) (v : Core) : (setCore k v s).parts = s.parts := rfl
@[simp] theorem setCore_staged (k : Nat) (v : Core) : (setCore k v s).staged = s.staged := rfl
@[simp] theorem setCore_segs (k : Nat) (v : Core) : (setCore k v s).segs = s.segs := rfl
@[simp] theorem setCore_dpool (k : Nat) (v : Core) : (setCore k v s).dpool = s.dpool := rfl
@[simp] theorem setCore_walks (k : Nat) (v : Core) : (setCore k v s).walks = s.walks := rfl
@[simp] theorem setCore_tallies (k : Nat) (v : Core) : (setCore k v s).tallies = s.tallies := rfl
@[simp] theorem setCore_waiters (k : Nat) (v : Core) : (setCore k v s).waiters = s.waiters := rfl
@[simp] theorem setCore_progs (k : Nat) (v : Core) : (setCore k v s).progs = s.progs := rfl
@[simp] theorem setCore_partSets (k : Nat) (v : Core) : (setCore k v s).partSets = s.partSets := rfl
@[simp] theorem setCore_stackDies (k : Nat) (v : Core) : (setCore k v s).stackDies = s.stackDies := rfl
@[simp] theorem setCore_hc (k : Nat) (v : Core) : (setCore k v s).hc = s.hc := rfl
@[simp] theorem setCore_fab (k : Nat) (v : Core) : (setCore k v s).fab = s.fab := rfl
@[simp] theorem setCore_g0 (k : Nat) (v : Core) : (setCore k v s).g0 = s.g0 := rfl
@[simp] theorem setCore_g1 (k : Nat) (v : Core) : (setCore k v s).g1 = s.g1 := rfl
@[simp] theorem setCore_pA (k : Nat) (v : Core) : (setCore k v s).pA = s.pA := rfl
@[simp] theorem setCore_pB (k : Nat) (v : Core) : (setCore k v s).pB = s.pB := rfl
@[simp] theorem setCore_power (k : Nat) (v : Core) : (setCore k v s).power = s.power := rfl
@[simp] theorem setCore_faults (k : Nat) (v : Core) : (setCore k v s).faults = s.faults := rfl
@[simp] theorem setCore_mgmt (k : Nat) (v : Core) : (setCore k v s).mgmt = s.mgmt := rfl
@[simp] theorem setCore_tray (k : Nat) (v : Core) : (setCore k v s).tray = s.tray := rfl
@[simp] theorem setCore_chainGen (k : Nat) (v : Core) : (setCore k v s).chainGen = s.chainGen := rfl
@[simp] theorem setCore_chainPosted (k : Nat) (v : Core) : (setCore k v s).chainPosted = s.chainPosted := rfl
@[simp] theorem setCore_out (k : Nat) (v : Core) : (setCore k v s).out = s.out := rfl
@[simp] theorem setCore_heldPort (k : Nat) (v : Core) : (setCore k v s).heldPort = s.heldPort := rfl
@[simp] theorem setCore_turns (k : Nat) (v : Core) : (setCore k v s).turns = s.turns := rfl
@[simp] theorem setCore_actionEnd (k : Nat) (v : Core) : (setCore k v s).actionEnd = s.actionEnd := rfl
@[simp] theorem setCore_tallyEnd (k : Nat) (v : Core) : (setCore k v s).tallyEnd = s.tallyEnd := rfl
@[simp] theorem setCore_upsets (k : Nat) (v : Core) : (setCore k v s).upsets = s.upsets := rfl
@[simp] theorem getReg_setCore (k : Nat) (v : Core) (r' : Nat) : getReg (setCore k v s) r' = getReg s r' := rfl
@[simp] theorem getF_setCore (k : Nat) (v : Core) (r' : Nat) (g' : Fld) : getF (setCore k v s) r' g' = getF s r' g' := rfl
@[simp] theorem memByte_setCore (k : Nat) (v : Core) (a' : Nat) : memByte (setCore k v s) a' = memByte s a' := rfl
@[simp] theorem queueOf_setCore (k : Nat) (v : Core) (q' : Nat) : queueOf (setCore k v s) q' = queueOf s q' := rfl
@[simp] theorem ctxOf_setCore (k : Nat) (v : Core) (x' : Nat) : ctxOf (setCore k v s) x' = ctxOf s x' := rfl
@[simp] theorem partOf_setCore (k : Nat) (v : Core) (p' : Nat) : partOf (setCore k v s) p' = partOf s p' := rfl
@[simp] theorem tallyOf_setCore (k : Nat) (v : Core) (j' i' : Nat) : tallyOf (setCore k v s) j' i' = tallyOf s j' i' := rfl
@[simp] theorem progOf_setCore (k : Nat) (v : Core) (h' : Nat) : progOf (setCore k v s) h' = progOf s h' := rfl
@[simp] theorem stackOf_setCore (k : Nat) (v : Core) (y' : Nat) : stackOf (setCore k v s) y' = stackOf s y' := rfl
@[simp] theorem isFenced_setCore (k : Nat) (v : Core) (y' i' : Nat) : isFenced (setCore k v s) y' i' = isFenced s y' i' := rfl
@[simp] theorem extPort_setCore (k : Nat) (v : Core) (c' : Bool) : extPort (setCore k v s) c' = extPort s c' := rfl
@[simp] theorem guestOf_setCore (k : Nat) (v : Core) (c' : Bool) : guestOf (setCore k v s) c' = guestOf s c' := rfl

/-! ### setEng -/

@[simp] theorem setEng_pending (n e : Nat) (v : Engine) : (setEng n e v s).pending = s.pending := rfl
@[simp] theorem setEng_tick (n e : Nat) (v : Engine) : (setEng n e v s).tick = s.tick := rfl
@[simp] theorem setEng_mem (n e : Nat) (v : Engine) : (setEng n e v s).mem = s.mem := rfl
@[simp] theorem setEng_poison (n e : Nat) (v : Engine) : (setEng n e v s).poison = s.poison := rfl
@[simp] theorem setEng_cellar (n e : Nat) (v : Engine) : (setEng n e v s).cellar = s.cellar := rfl
@[simp] theorem setEng_cellarPoison (n e : Nat) (v : Engine) : (setEng n e v s).cellarPoison = s.cellarPoison := rfl
@[simp] theorem setEng_wbuf (n e : Nat) (v : Engine) : (setEng n e v s).wbuf = s.wbuf := rfl
@[simp] theorem setEng_regs (n e : Nat) (v : Engine) : (setEng n e v s).regs = s.regs := rfl
@[simp] theorem setEng_bell (n e : Nat) (v : Engine) : (setEng n e v s).bell = s.bell := rfl
@[simp] theorem setEng_jumped (n e : Nat) (v : Engine) : (setEng n e v s).jumped = s.jumped := rfl
@[simp] theorem setEng_queues (n e : Nat) (v : Engine) : (setEng n e v s).queues = s.queues := rfl
@[simp] theorem setEng_cmds (n e : Nat) (v : Engine) : (setEng n e v s).cmds = s.cmds := rfl
@[simp] theorem setEng_ctxs (n e : Nat) (v : Engine) : (setEng n e v s).ctxs = s.ctxs := rfl
@[simp] theorem setEng_parts (n e : Nat) (v : Engine) : (setEng n e v s).parts = s.parts := rfl
@[simp] theorem setEng_staged (n e : Nat) (v : Engine) : (setEng n e v s).staged = s.staged := rfl
@[simp] theorem setEng_segs (n e : Nat) (v : Engine) : (setEng n e v s).segs = s.segs := rfl
@[simp] theorem setEng_dpool (n e : Nat) (v : Engine) : (setEng n e v s).dpool = s.dpool := rfl
@[simp] theorem setEng_walks (n e : Nat) (v : Engine) : (setEng n e v s).walks = s.walks := rfl
@[simp] theorem setEng_tallies (n e : Nat) (v : Engine) : (setEng n e v s).tallies = s.tallies := rfl
@[simp] theorem setEng_waiters (n e : Nat) (v : Engine) : (setEng n e v s).waiters = s.waiters := rfl
@[simp] theorem setEng_progs (n e : Nat) (v : Engine) : (setEng n e v s).progs = s.progs := rfl
@[simp] theorem setEng_partSets (n e : Nat) (v : Engine) : (setEng n e v s).partSets = s.partSets := rfl
@[simp] theorem setEng_stackDies (n e : Nat) (v : Engine) : (setEng n e v s).stackDies = s.stackDies := rfl
@[simp] theorem setEng_hc (n e : Nat) (v : Engine) : (setEng n e v s).hc = s.hc := rfl
@[simp] theorem setEng_fab (n e : Nat) (v : Engine) : (setEng n e v s).fab = s.fab := rfl
@[simp] theorem setEng_g0 (n e : Nat) (v : Engine) : (setEng n e v s).g0 = s.g0 := rfl
@[simp] theorem setEng_g1 (n e : Nat) (v : Engine) : (setEng n e v s).g1 = s.g1 := rfl
@[simp] theorem setEng_pA (n e : Nat) (v : Engine) : (setEng n e v s).pA = s.pA := rfl
@[simp] theorem setEng_pB (n e : Nat) (v : Engine) : (setEng n e v s).pB = s.pB := rfl
@[simp] theorem setEng_power (n e : Nat) (v : Engine) : (setEng n e v s).power = s.power := rfl
@[simp] theorem setEng_faults (n e : Nat) (v : Engine) : (setEng n e v s).faults = s.faults := rfl
@[simp] theorem setEng_mgmt (n e : Nat) (v : Engine) : (setEng n e v s).mgmt = s.mgmt := rfl
@[simp] theorem setEng_tray (n e : Nat) (v : Engine) : (setEng n e v s).tray = s.tray := rfl
@[simp] theorem setEng_chainGen (n e : Nat) (v : Engine) : (setEng n e v s).chainGen = s.chainGen := rfl
@[simp] theorem setEng_chainPosted (n e : Nat) (v : Engine) : (setEng n e v s).chainPosted = s.chainPosted := rfl
@[simp] theorem setEng_out (n e : Nat) (v : Engine) : (setEng n e v s).out = s.out := rfl
@[simp] theorem setEng_heldPort (n e : Nat) (v : Engine) : (setEng n e v s).heldPort = s.heldPort := rfl
@[simp] theorem setEng_turns (n e : Nat) (v : Engine) : (setEng n e v s).turns = s.turns := rfl
@[simp] theorem setEng_actionEnd (n e : Nat) (v : Engine) : (setEng n e v s).actionEnd = s.actionEnd := rfl
@[simp] theorem setEng_tallyEnd (n e : Nat) (v : Engine) : (setEng n e v s).tallyEnd = s.tallyEnd := rfl
@[simp] theorem setEng_upsets (n e : Nat) (v : Engine) : (setEng n e v s).upsets = s.upsets := rfl
@[simp] theorem getReg_setEng (n e : Nat) (v : Engine) (r' : Nat) : getReg (setEng n e v s) r' = getReg s r' := rfl
@[simp] theorem getF_setEng (n e : Nat) (v : Engine) (r' : Nat) (g' : Fld) : getF (setEng n e v s) r' g' = getF s r' g' := rfl
@[simp] theorem memByte_setEng (n e : Nat) (v : Engine) (a' : Nat) : memByte (setEng n e v s) a' = memByte s a' := rfl
@[simp] theorem queueOf_setEng (n e : Nat) (v : Engine) (q' : Nat) : queueOf (setEng n e v s) q' = queueOf s q' := rfl
@[simp] theorem ctxOf_setEng (n e : Nat) (v : Engine) (x' : Nat) : ctxOf (setEng n e v s) x' = ctxOf s x' := rfl
@[simp] theorem partOf_setEng (n e : Nat) (v : Engine) (p' : Nat) : partOf (setEng n e v s) p' = partOf s p' := rfl
@[simp] theorem tallyOf_setEng (n e : Nat) (v : Engine) (j' i' : Nat) : tallyOf (setEng n e v s) j' i' = tallyOf s j' i' := rfl
@[simp] theorem progOf_setEng (n e : Nat) (v : Engine) (h' : Nat) : progOf (setEng n e v s) h' = progOf s h' := rfl
@[simp] theorem stackOf_setEng (n e : Nat) (v : Engine) (y' : Nat) : stackOf (setEng n e v s) y' = stackOf s y' := rfl
@[simp] theorem isFenced_setEng (n e : Nat) (v : Engine) (y' i' : Nat) : isFenced (setEng n e v s) y' i' = isFenced s y' i' := rfl
@[simp] theorem extPort_setEng (n e : Nat) (v : Engine) (c' : Bool) : extPort (setEng n e v s) c' = extPort s c' := rfl
@[simp] theorem guestOf_setEng (n e : Nat) (v : Engine) (c' : Bool) : guestOf (setEng n e v s) c' = guestOf s c' := rfl

/-! ### setTally -/

@[simp] theorem setTally_pending (d i : Nat) (v : Tally) : (setTally d i v s).pending = s.pending := rfl
@[simp] theorem setTally_tick (d i : Nat) (v : Tally) : (setTally d i v s).tick = s.tick := rfl
@[simp] theorem setTally_mem (d i : Nat) (v : Tally) : (setTally d i v s).mem = s.mem := rfl
@[simp] theorem setTally_poison (d i : Nat) (v : Tally) : (setTally d i v s).poison = s.poison := rfl
@[simp] theorem setTally_cellar (d i : Nat) (v : Tally) : (setTally d i v s).cellar = s.cellar := rfl
@[simp] theorem setTally_cellarPoison (d i : Nat) (v : Tally) : (setTally d i v s).cellarPoison = s.cellarPoison := rfl
@[simp] theorem setTally_wbuf (d i : Nat) (v : Tally) : (setTally d i v s).wbuf = s.wbuf := rfl
@[simp] theorem setTally_regs (d i : Nat) (v : Tally) : (setTally d i v s).regs = s.regs := rfl
@[simp] theorem setTally_bell (d i : Nat) (v : Tally) : (setTally d i v s).bell = s.bell := rfl
@[simp] theorem setTally_jumped (d i : Nat) (v : Tally) : (setTally d i v s).jumped = s.jumped := rfl
@[simp] theorem setTally_queues (d i : Nat) (v : Tally) : (setTally d i v s).queues = s.queues := rfl
@[simp] theorem setTally_cmds (d i : Nat) (v : Tally) : (setTally d i v s).cmds = s.cmds := rfl
@[simp] theorem setTally_ctxs (d i : Nat) (v : Tally) : (setTally d i v s).ctxs = s.ctxs := rfl
@[simp] theorem setTally_parts (d i : Nat) (v : Tally) : (setTally d i v s).parts = s.parts := rfl
@[simp] theorem setTally_staged (d i : Nat) (v : Tally) : (setTally d i v s).staged = s.staged := rfl
@[simp] theorem setTally_segs (d i : Nat) (v : Tally) : (setTally d i v s).segs = s.segs := rfl
@[simp] theorem setTally_dpool (d i : Nat) (v : Tally) : (setTally d i v s).dpool = s.dpool := rfl
@[simp] theorem setTally_walks (d i : Nat) (v : Tally) : (setTally d i v s).walks = s.walks := rfl
@[simp] theorem setTally_waiters (d i : Nat) (v : Tally) : (setTally d i v s).waiters = s.waiters := rfl
@[simp] theorem setTally_cores (d i : Nat) (v : Tally) : (setTally d i v s).cores = s.cores := rfl
@[simp] theorem setTally_progs (d i : Nat) (v : Tally) : (setTally d i v s).progs = s.progs := rfl
@[simp] theorem setTally_partSets (d i : Nat) (v : Tally) : (setTally d i v s).partSets = s.partSets := rfl
@[simp] theorem setTally_stackDies (d i : Nat) (v : Tally) : (setTally d i v s).stackDies = s.stackDies := rfl
@[simp] theorem setTally_hc (d i : Nat) (v : Tally) : (setTally d i v s).hc = s.hc := rfl
@[simp] theorem setTally_fab (d i : Nat) (v : Tally) : (setTally d i v s).fab = s.fab := rfl
@[simp] theorem setTally_g0 (d i : Nat) (v : Tally) : (setTally d i v s).g0 = s.g0 := rfl
@[simp] theorem setTally_g1 (d i : Nat) (v : Tally) : (setTally d i v s).g1 = s.g1 := rfl
@[simp] theorem setTally_pA (d i : Nat) (v : Tally) : (setTally d i v s).pA = s.pA := rfl
@[simp] theorem setTally_pB (d i : Nat) (v : Tally) : (setTally d i v s).pB = s.pB := rfl
@[simp] theorem setTally_power (d i : Nat) (v : Tally) : (setTally d i v s).power = s.power := rfl
@[simp] theorem setTally_faults (d i : Nat) (v : Tally) : (setTally d i v s).faults = s.faults := rfl
@[simp] theorem setTally_mgmt (d i : Nat) (v : Tally) : (setTally d i v s).mgmt = s.mgmt := rfl
@[simp] theorem setTally_tray (d i : Nat) (v : Tally) : (setTally d i v s).tray = s.tray := rfl
@[simp] theorem setTally_chainGen (d i : Nat) (v : Tally) : (setTally d i v s).chainGen = s.chainGen := rfl
@[simp] theorem setTally_chainPosted (d i : Nat) (v : Tally) : (setTally d i v s).chainPosted = s.chainPosted := rfl
@[simp] theorem setTally_out (d i : Nat) (v : Tally) : (setTally d i v s).out = s.out := rfl
@[simp] theorem setTally_heldPort (d i : Nat) (v : Tally) : (setTally d i v s).heldPort = s.heldPort := rfl
@[simp] theorem setTally_turns (d i : Nat) (v : Tally) : (setTally d i v s).turns = s.turns := rfl
@[simp] theorem setTally_actionEnd (d i : Nat) (v : Tally) : (setTally d i v s).actionEnd = s.actionEnd := rfl
@[simp] theorem setTally_tallyEnd (d i : Nat) (v : Tally) : (setTally d i v s).tallyEnd = s.tallyEnd := rfl
@[simp] theorem setTally_upsets (d i : Nat) (v : Tally) : (setTally d i v s).upsets = s.upsets := rfl
@[simp] theorem getReg_setTally (d i : Nat) (v : Tally) (r' : Nat) : getReg (setTally d i v s) r' = getReg s r' := rfl
@[simp] theorem getF_setTally (d i : Nat) (v : Tally) (r' : Nat) (g' : Fld) : getF (setTally d i v s) r' g' = getF s r' g' := rfl
@[simp] theorem memByte_setTally (d i : Nat) (v : Tally) (a' : Nat) : memByte (setTally d i v s) a' = memByte s a' := rfl
@[simp] theorem queueOf_setTally (d i : Nat) (v : Tally) (q' : Nat) : queueOf (setTally d i v s) q' = queueOf s q' := rfl
@[simp] theorem ctxOf_setTally (d i : Nat) (v : Tally) (x' : Nat) : ctxOf (setTally d i v s) x' = ctxOf s x' := rfl
@[simp] theorem partOf_setTally (d i : Nat) (v : Tally) (p' : Nat) : partOf (setTally d i v s) p' = partOf s p' := rfl
@[simp] theorem coreOf_setTally (d i : Nat) (v : Tally) (n' : Nat) : coreOf (setTally d i v s) n' = coreOf s n' := rfl
@[simp] theorem progOf_setTally (d i : Nat) (v : Tally) (h' : Nat) : progOf (setTally d i v s) h' = progOf s h' := rfl
@[simp] theorem stackOf_setTally (d i : Nat) (v : Tally) (y' : Nat) : stackOf (setTally d i v s) y' = stackOf s y' := rfl
@[simp] theorem isFenced_setTally (d i : Nat) (v : Tally) (y' i' : Nat) : isFenced (setTally d i v s) y' i' = isFenced s y' i' := rfl
@[simp] theorem extPort_setTally (d i : Nat) (v : Tally) (c' : Bool) : extPort (setTally d i v s) c' = extPort s c' := rfl
@[simp] theorem guestOf_setTally (d i : Nat) (v : Tally) (c' : Bool) : guestOf (setTally d i v s) c' = guestOf s c' := rfl

/-! ### setProg -/

@[simp] theorem setProg_pending (h : Nat) (v : Option Program) : (setProg h v s).pending = s.pending := rfl
@[simp] theorem setProg_tick (h : Nat) (v : Option Program) : (setProg h v s).tick = s.tick := rfl
@[simp] theorem setProg_mem (h : Nat) (v : Option Program) : (setProg h v s).mem = s.mem := rfl
@[simp] theorem setProg_poison (h : Nat) (v : Option Program) : (setProg h v s).poison = s.poison := rfl
@[simp] theorem setProg_cellar (h : Nat) (v : Option Program) : (setProg h v s).cellar = s.cellar := rfl
@[simp] theorem setProg_cellarPoison (h : Nat) (v : Option Program) : (setProg h v s).cellarPoison = s.cellarPoison := rfl
@[simp] theorem setProg_wbuf (h : Nat) (v : Option Program) : (setProg h v s).wbuf = s.wbuf := rfl
@[simp] theorem setProg_regs (h : Nat) (v : Option Program) : (setProg h v s).regs = s.regs := rfl
@[simp] theorem setProg_bell (h : Nat) (v : Option Program) : (setProg h v s).bell = s.bell := rfl
@[simp] theorem setProg_jumped (h : Nat) (v : Option Program) : (setProg h v s).jumped = s.jumped := rfl
@[simp] theorem setProg_queues (h : Nat) (v : Option Program) : (setProg h v s).queues = s.queues := rfl
@[simp] theorem setProg_cmds (h : Nat) (v : Option Program) : (setProg h v s).cmds = s.cmds := rfl
@[simp] theorem setProg_ctxs (h : Nat) (v : Option Program) : (setProg h v s).ctxs = s.ctxs := rfl
@[simp] theorem setProg_parts (h : Nat) (v : Option Program) : (setProg h v s).parts = s.parts := rfl
@[simp] theorem setProg_staged (h : Nat) (v : Option Program) : (setProg h v s).staged = s.staged := rfl
@[simp] theorem setProg_segs (h : Nat) (v : Option Program) : (setProg h v s).segs = s.segs := rfl
@[simp] theorem setProg_dpool (h : Nat) (v : Option Program) : (setProg h v s).dpool = s.dpool := rfl
@[simp] theorem setProg_walks (h : Nat) (v : Option Program) : (setProg h v s).walks = s.walks := rfl
@[simp] theorem setProg_tallies (h : Nat) (v : Option Program) : (setProg h v s).tallies = s.tallies := rfl
@[simp] theorem setProg_waiters (h : Nat) (v : Option Program) : (setProg h v s).waiters = s.waiters := rfl
@[simp] theorem setProg_cores (h : Nat) (v : Option Program) : (setProg h v s).cores = s.cores := rfl
@[simp] theorem setProg_partSets (h : Nat) (v : Option Program) : (setProg h v s).partSets = s.partSets := rfl
@[simp] theorem setProg_stackDies (h : Nat) (v : Option Program) : (setProg h v s).stackDies = s.stackDies := rfl
@[simp] theorem setProg_hc (h : Nat) (v : Option Program) : (setProg h v s).hc = s.hc := rfl
@[simp] theorem setProg_fab (h : Nat) (v : Option Program) : (setProg h v s).fab = s.fab := rfl
@[simp] theorem setProg_g0 (h : Nat) (v : Option Program) : (setProg h v s).g0 = s.g0 := rfl
@[simp] theorem setProg_g1 (h : Nat) (v : Option Program) : (setProg h v s).g1 = s.g1 := rfl
@[simp] theorem setProg_pA (h : Nat) (v : Option Program) : (setProg h v s).pA = s.pA := rfl
@[simp] theorem setProg_pB (h : Nat) (v : Option Program) : (setProg h v s).pB = s.pB := rfl
@[simp] theorem setProg_power (h : Nat) (v : Option Program) : (setProg h v s).power = s.power := rfl
@[simp] theorem setProg_faults (h : Nat) (v : Option Program) : (setProg h v s).faults = s.faults := rfl
@[simp] theorem setProg_mgmt (h : Nat) (v : Option Program) : (setProg h v s).mgmt = s.mgmt := rfl
@[simp] theorem setProg_tray (h : Nat) (v : Option Program) : (setProg h v s).tray = s.tray := rfl
@[simp] theorem setProg_chainGen (h : Nat) (v : Option Program) : (setProg h v s).chainGen = s.chainGen := rfl
@[simp] theorem setProg_chainPosted (h : Nat) (v : Option Program) : (setProg h v s).chainPosted = s.chainPosted := rfl
@[simp] theorem setProg_out (h : Nat) (v : Option Program) : (setProg h v s).out = s.out := rfl
@[simp] theorem setProg_heldPort (h : Nat) (v : Option Program) : (setProg h v s).heldPort = s.heldPort := rfl
@[simp] theorem setProg_turns (h : Nat) (v : Option Program) : (setProg h v s).turns = s.turns := rfl
@[simp] theorem setProg_actionEnd (h : Nat) (v : Option Program) : (setProg h v s).actionEnd = s.actionEnd := rfl
@[simp] theorem setProg_tallyEnd (h : Nat) (v : Option Program) : (setProg h v s).tallyEnd = s.tallyEnd := rfl
@[simp] theorem setProg_upsets (h : Nat) (v : Option Program) : (setProg h v s).upsets = s.upsets := rfl
@[simp] theorem getReg_setProg (h : Nat) (v : Option Program) (r' : Nat) : getReg (setProg h v s) r' = getReg s r' := rfl
@[simp] theorem getF_setProg (h : Nat) (v : Option Program) (r' : Nat) (g' : Fld) : getF (setProg h v s) r' g' = getF s r' g' := rfl
@[simp] theorem memByte_setProg (h : Nat) (v : Option Program) (a' : Nat) : memByte (setProg h v s) a' = memByte s a' := rfl
@[simp] theorem queueOf_setProg (h : Nat) (v : Option Program) (q' : Nat) : queueOf (setProg h v s) q' = queueOf s q' := rfl
@[simp] theorem ctxOf_setProg (h : Nat) (v : Option Program) (x' : Nat) : ctxOf (setProg h v s) x' = ctxOf s x' := rfl
@[simp] theorem partOf_setProg (h : Nat) (v : Option Program) (p' : Nat) : partOf (setProg h v s) p' = partOf s p' := rfl
@[simp] theorem coreOf_setProg (h : Nat) (v : Option Program) (n' : Nat) : coreOf (setProg h v s) n' = coreOf s n' := rfl
@[simp] theorem tallyOf_setProg (h : Nat) (v : Option Program) (j' i' : Nat) : tallyOf (setProg h v s) j' i' = tallyOf s j' i' := rfl
@[simp] theorem stackOf_setProg (h : Nat) (v : Option Program) (y' : Nat) : stackOf (setProg h v s) y' = stackOf s y' := rfl
@[simp] theorem isFenced_setProg (h : Nat) (v : Option Program) (y' i' : Nat) : isFenced (setProg h v s) y' i' = isFenced s y' i' := rfl
@[simp] theorem extPort_setProg (h : Nat) (v : Option Program) (c' : Bool) : extPort (setProg h v s) c' = extPort s c' := rfl
@[simp] theorem guestOf_setProg (h : Nat) (v : Option Program) (c' : Bool) : guestOf (setProg h v s) c' = guestOf s c' := rfl

/-! ### setFport -/

@[simp] theorem setFport_pending (p : Nat) (v : FPort) : (setFport p v s).pending = s.pending := rfl
@[simp] theorem setFport_tick (p : Nat) (v : FPort) : (setFport p v s).tick = s.tick := rfl
@[simp] theorem setFport_mem (p : Nat) (v : FPort) : (setFport p v s).mem = s.mem := rfl
@[simp] theorem setFport_poison (p : Nat) (v : FPort) : (setFport p v s).poison = s.poison := rfl
@[simp] theorem setFport_cellar (p : Nat) (v : FPort) : (setFport p v s).cellar = s.cellar := rfl
@[simp] theorem setFport_cellarPoison (p : Nat) (v : FPort) : (setFport p v s).cellarPoison = s.cellarPoison := rfl
@[simp] theorem setFport_wbuf (p : Nat) (v : FPort) : (setFport p v s).wbuf = s.wbuf := rfl
@[simp] theorem setFport_regs (p : Nat) (v : FPort) : (setFport p v s).regs = s.regs := rfl
@[simp] theorem setFport_bell (p : Nat) (v : FPort) : (setFport p v s).bell = s.bell := rfl
@[simp] theorem setFport_jumped (p : Nat) (v : FPort) : (setFport p v s).jumped = s.jumped := rfl
@[simp] theorem setFport_queues (p : Nat) (v : FPort) : (setFport p v s).queues = s.queues := rfl
@[simp] theorem setFport_cmds (p : Nat) (v : FPort) : (setFport p v s).cmds = s.cmds := rfl
@[simp] theorem setFport_ctxs (p : Nat) (v : FPort) : (setFport p v s).ctxs = s.ctxs := rfl
@[simp] theorem setFport_parts (p : Nat) (v : FPort) : (setFport p v s).parts = s.parts := rfl
@[simp] theorem setFport_staged (p : Nat) (v : FPort) : (setFport p v s).staged = s.staged := rfl
@[simp] theorem setFport_segs (p : Nat) (v : FPort) : (setFport p v s).segs = s.segs := rfl
@[simp] theorem setFport_dpool (p : Nat) (v : FPort) : (setFport p v s).dpool = s.dpool := rfl
@[simp] theorem setFport_walks (p : Nat) (v : FPort) : (setFport p v s).walks = s.walks := rfl
@[simp] theorem setFport_tallies (p : Nat) (v : FPort) : (setFport p v s).tallies = s.tallies := rfl
@[simp] theorem setFport_waiters (p : Nat) (v : FPort) : (setFport p v s).waiters = s.waiters := rfl
@[simp] theorem setFport_cores (p : Nat) (v : FPort) : (setFport p v s).cores = s.cores := rfl
@[simp] theorem setFport_progs (p : Nat) (v : FPort) : (setFport p v s).progs = s.progs := rfl
@[simp] theorem setFport_partSets (p : Nat) (v : FPort) : (setFport p v s).partSets = s.partSets := rfl
@[simp] theorem setFport_stackDies (p : Nat) (v : FPort) : (setFport p v s).stackDies = s.stackDies := rfl
@[simp] theorem setFport_hc (p : Nat) (v : FPort) : (setFport p v s).hc = s.hc := rfl
@[simp] theorem setFport_g0 (p : Nat) (v : FPort) : (setFport p v s).g0 = s.g0 := rfl
@[simp] theorem setFport_g1 (p : Nat) (v : FPort) : (setFport p v s).g1 = s.g1 := rfl
@[simp] theorem setFport_pA (p : Nat) (v : FPort) : (setFport p v s).pA = s.pA := rfl
@[simp] theorem setFport_pB (p : Nat) (v : FPort) : (setFport p v s).pB = s.pB := rfl
@[simp] theorem setFport_power (p : Nat) (v : FPort) : (setFport p v s).power = s.power := rfl
@[simp] theorem setFport_faults (p : Nat) (v : FPort) : (setFport p v s).faults = s.faults := rfl
@[simp] theorem setFport_mgmt (p : Nat) (v : FPort) : (setFport p v s).mgmt = s.mgmt := rfl
@[simp] theorem setFport_tray (p : Nat) (v : FPort) : (setFport p v s).tray = s.tray := rfl
@[simp] theorem setFport_chainGen (p : Nat) (v : FPort) : (setFport p v s).chainGen = s.chainGen := rfl
@[simp] theorem setFport_chainPosted (p : Nat) (v : FPort) : (setFport p v s).chainPosted = s.chainPosted := rfl
@[simp] theorem setFport_out (p : Nat) (v : FPort) : (setFport p v s).out = s.out := rfl
@[simp] theorem setFport_heldPort (p : Nat) (v : FPort) : (setFport p v s).heldPort = s.heldPort := rfl
@[simp] theorem setFport_turns (p : Nat) (v : FPort) : (setFport p v s).turns = s.turns := rfl
@[simp] theorem setFport_actionEnd (p : Nat) (v : FPort) : (setFport p v s).actionEnd = s.actionEnd := rfl
@[simp] theorem setFport_tallyEnd (p : Nat) (v : FPort) : (setFport p v s).tallyEnd = s.tallyEnd := rfl
@[simp] theorem setFport_upsets (p : Nat) (v : FPort) : (setFport p v s).upsets = s.upsets := rfl
@[simp] theorem getReg_setFport (p : Nat) (v : FPort) (r' : Nat) : getReg (setFport p v s) r' = getReg s r' := rfl
@[simp] theorem getF_setFport (p : Nat) (v : FPort) (r' : Nat) (g' : Fld) : getF (setFport p v s) r' g' = getF s r' g' := rfl
@[simp] theorem memByte_setFport (p : Nat) (v : FPort) (a' : Nat) : memByte (setFport p v s) a' = memByte s a' := rfl
@[simp] theorem queueOf_setFport (p : Nat) (v : FPort) (q' : Nat) : queueOf (setFport p v s) q' = queueOf s q' := rfl
@[simp] theorem ctxOf_setFport (p : Nat) (v : FPort) (x' : Nat) : ctxOf (setFport p v s) x' = ctxOf s x' := rfl
@[simp] theorem partOf_setFport (p : Nat) (v : FPort) (p' : Nat) : partOf (setFport p v s) p' = partOf s p' := rfl
@[simp] theorem coreOf_setFport (p : Nat) (v : FPort) (n' : Nat) : coreOf (setFport p v s) n' = coreOf s n' := rfl
@[simp] theorem tallyOf_setFport (p : Nat) (v : FPort) (j' i' : Nat) : tallyOf (setFport p v s) j' i' = tallyOf s j' i' := rfl
@[simp] theorem progOf_setFport (p : Nat) (v : FPort) (h' : Nat) : progOf (setFport p v s) h' = progOf s h' := rfl
@[simp] theorem stackOf_setFport (p : Nat) (v : FPort) (y' : Nat) : stackOf (setFport p v s) y' = stackOf s y' := rfl
@[simp] theorem isFenced_setFport (p : Nat) (v : FPort) (y' i' : Nat) : isFenced (setFport p v s) y' i' = isFenced s y' i' := rfl
@[simp] theorem extPort_setFport (p : Nat) (v : FPort) (c' : Bool) : extPort (setFport p v s) c' = extPort s c' := rfl
@[simp] theorem guestOf_setFport (p : Nat) (v : FPort) (c' : Bool) : guestOf (setFport p v s) c' = guestOf s c' := rfl

/-! ### setRoute -/

@[simp] theorem setRoute_pending (m : Nat) (v : Route) : (setRoute m v s).pending = s.pending := rfl
@[simp] theorem setRoute_tick (m : Nat) (v : Route) : (setRoute m v s).tick = s.tick := rfl
@[simp] theorem setRoute_mem (m : Nat) (v : Route) : (setRoute m v s).mem = s.mem := rfl
@[simp] theorem setRoute_poison (m : Nat) (v : Route) : (setRoute m v s).poison = s.poison := rfl
@[simp] theorem setRoute_cellar (m : Nat) (v : Route) : (setRoute m v s).cellar = s.cellar := rfl
@[simp] theorem setRoute_cellarPoison (m : Nat) (v : Route) : (setRoute m v s).cellarPoison = s.cellarPoison := rfl
@[simp] theorem setRoute_wbuf (m : Nat) (v : Route) : (setRoute m v s).wbuf = s.wbuf := rfl
@[simp] theorem setRoute_regs (m : Nat) (v : Route) : (setRoute m v s).regs = s.regs := rfl
@[simp] theorem setRoute_bell (m : Nat) (v : Route) : (setRoute m v s).bell = s.bell := rfl
@[simp] theorem setRoute_jumped (m : Nat) (v : Route) : (setRoute m v s).jumped = s.jumped := rfl
@[simp] theorem setRoute_queues (m : Nat) (v : Route) : (setRoute m v s).queues = s.queues := rfl
@[simp] theorem setRoute_cmds (m : Nat) (v : Route) : (setRoute m v s).cmds = s.cmds := rfl
@[simp] theorem setRoute_ctxs (m : Nat) (v : Route) : (setRoute m v s).ctxs = s.ctxs := rfl
@[simp] theorem setRoute_parts (m : Nat) (v : Route) : (setRoute m v s).parts = s.parts := rfl
@[simp] theorem setRoute_staged (m : Nat) (v : Route) : (setRoute m v s).staged = s.staged := rfl
@[simp] theorem setRoute_segs (m : Nat) (v : Route) : (setRoute m v s).segs = s.segs := rfl
@[simp] theorem setRoute_dpool (m : Nat) (v : Route) : (setRoute m v s).dpool = s.dpool := rfl
@[simp] theorem setRoute_walks (m : Nat) (v : Route) : (setRoute m v s).walks = s.walks := rfl
@[simp] theorem setRoute_tallies (m : Nat) (v : Route) : (setRoute m v s).tallies = s.tallies := rfl
@[simp] theorem setRoute_waiters (m : Nat) (v : Route) : (setRoute m v s).waiters = s.waiters := rfl
@[simp] theorem setRoute_cores (m : Nat) (v : Route) : (setRoute m v s).cores = s.cores := rfl
@[simp] theorem setRoute_progs (m : Nat) (v : Route) : (setRoute m v s).progs = s.progs := rfl
@[simp] theorem setRoute_partSets (m : Nat) (v : Route) : (setRoute m v s).partSets = s.partSets := rfl
@[simp] theorem setRoute_stackDies (m : Nat) (v : Route) : (setRoute m v s).stackDies = s.stackDies := rfl
@[simp] theorem setRoute_hc (m : Nat) (v : Route) : (setRoute m v s).hc = s.hc := rfl
@[simp] theorem setRoute_g0 (m : Nat) (v : Route) : (setRoute m v s).g0 = s.g0 := rfl
@[simp] theorem setRoute_g1 (m : Nat) (v : Route) : (setRoute m v s).g1 = s.g1 := rfl
@[simp] theorem setRoute_pA (m : Nat) (v : Route) : (setRoute m v s).pA = s.pA := rfl
@[simp] theorem setRoute_pB (m : Nat) (v : Route) : (setRoute m v s).pB = s.pB := rfl
@[simp] theorem setRoute_power (m : Nat) (v : Route) : (setRoute m v s).power = s.power := rfl
@[simp] theorem setRoute_faults (m : Nat) (v : Route) : (setRoute m v s).faults = s.faults := rfl
@[simp] theorem setRoute_mgmt (m : Nat) (v : Route) : (setRoute m v s).mgmt = s.mgmt := rfl
@[simp] theorem setRoute_tray (m : Nat) (v : Route) : (setRoute m v s).tray = s.tray := rfl
@[simp] theorem setRoute_chainGen (m : Nat) (v : Route) : (setRoute m v s).chainGen = s.chainGen := rfl
@[simp] theorem setRoute_chainPosted (m : Nat) (v : Route) : (setRoute m v s).chainPosted = s.chainPosted := rfl
@[simp] theorem setRoute_out (m : Nat) (v : Route) : (setRoute m v s).out = s.out := rfl
@[simp] theorem setRoute_heldPort (m : Nat) (v : Route) : (setRoute m v s).heldPort = s.heldPort := rfl
@[simp] theorem setRoute_turns (m : Nat) (v : Route) : (setRoute m v s).turns = s.turns := rfl
@[simp] theorem setRoute_actionEnd (m : Nat) (v : Route) : (setRoute m v s).actionEnd = s.actionEnd := rfl
@[simp] theorem setRoute_tallyEnd (m : Nat) (v : Route) : (setRoute m v s).tallyEnd = s.tallyEnd := rfl
@[simp] theorem setRoute_upsets (m : Nat) (v : Route) : (setRoute m v s).upsets = s.upsets := rfl
@[simp] theorem getReg_setRoute (m : Nat) (v : Route) (r' : Nat) : getReg (setRoute m v s) r' = getReg s r' := rfl
@[simp] theorem getF_setRoute (m : Nat) (v : Route) (r' : Nat) (g' : Fld) : getF (setRoute m v s) r' g' = getF s r' g' := rfl
@[simp] theorem memByte_setRoute (m : Nat) (v : Route) (a' : Nat) : memByte (setRoute m v s) a' = memByte s a' := rfl
@[simp] theorem queueOf_setRoute (m : Nat) (v : Route) (q' : Nat) : queueOf (setRoute m v s) q' = queueOf s q' := rfl
@[simp] theorem ctxOf_setRoute (m : Nat) (v : Route) (x' : Nat) : ctxOf (setRoute m v s) x' = ctxOf s x' := rfl
@[simp] theorem partOf_setRoute (m : Nat) (v : Route) (p' : Nat) : partOf (setRoute m v s) p' = partOf s p' := rfl
@[simp] theorem coreOf_setRoute (m : Nat) (v : Route) (n' : Nat) : coreOf (setRoute m v s) n' = coreOf s n' := rfl
@[simp] theorem tallyOf_setRoute (m : Nat) (v : Route) (j' i' : Nat) : tallyOf (setRoute m v s) j' i' = tallyOf s j' i' := rfl
@[simp] theorem progOf_setRoute (m : Nat) (v : Route) (h' : Nat) : progOf (setRoute m v s) h' = progOf s h' := rfl
@[simp] theorem stackOf_setRoute (m : Nat) (v : Route) (y' : Nat) : stackOf (setRoute m v s) y' = stackOf s y' := rfl
@[simp] theorem isFenced_setRoute (m : Nat) (v : Route) (y' i' : Nat) : isFenced (setRoute m v s) y' i' = isFenced s y' i' := rfl
@[simp] theorem extPort_setRoute (m : Nat) (v : Route) (c' : Bool) : extPort (setRoute m v s) c' = extPort s c' := rfl
@[simp] theorem guestOf_setRoute (m : Nat) (v : Route) (c' : Bool) : guestOf (setRoute m v s) c' = guestOf s c' := rfl

/-! ### setGuest -/

@[simp] theorem setGuest_pending (b : Bool) (v : Guest) : (setGuest b v s).pending = s.pending := by cases b <;> rfl
@[simp] theorem setGuest_tick (b : Bool) (v : Guest) : (setGuest b v s).tick = s.tick := by cases b <;> rfl
@[simp] theorem setGuest_mem (b : Bool) (v : Guest) : (setGuest b v s).mem = s.mem := by cases b <;> rfl
@[simp] theorem setGuest_poison (b : Bool) (v : Guest) : (setGuest b v s).poison = s.poison := by cases b <;> rfl
@[simp] theorem setGuest_cellar (b : Bool) (v : Guest) : (setGuest b v s).cellar = s.cellar := by cases b <;> rfl
@[simp] theorem setGuest_cellarPoison (b : Bool) (v : Guest) : (setGuest b v s).cellarPoison = s.cellarPoison := by cases b <;> rfl
@[simp] theorem setGuest_wbuf (b : Bool) (v : Guest) : (setGuest b v s).wbuf = s.wbuf := by cases b <;> rfl
@[simp] theorem setGuest_regs (b : Bool) (v : Guest) : (setGuest b v s).regs = s.regs := by cases b <;> rfl
@[simp] theorem setGuest_bell (b : Bool) (v : Guest) : (setGuest b v s).bell = s.bell := by cases b <;> rfl
@[simp] theorem setGuest_jumped (b : Bool) (v : Guest) : (setGuest b v s).jumped = s.jumped := by cases b <;> rfl
@[simp] theorem setGuest_queues (b : Bool) (v : Guest) : (setGuest b v s).queues = s.queues := by cases b <;> rfl
@[simp] theorem setGuest_cmds (b : Bool) (v : Guest) : (setGuest b v s).cmds = s.cmds := by cases b <;> rfl
@[simp] theorem setGuest_ctxs (b : Bool) (v : Guest) : (setGuest b v s).ctxs = s.ctxs := by cases b <;> rfl
@[simp] theorem setGuest_parts (b : Bool) (v : Guest) : (setGuest b v s).parts = s.parts := by cases b <;> rfl
@[simp] theorem setGuest_staged (b : Bool) (v : Guest) : (setGuest b v s).staged = s.staged := by cases b <;> rfl
@[simp] theorem setGuest_segs (b : Bool) (v : Guest) : (setGuest b v s).segs = s.segs := by cases b <;> rfl
@[simp] theorem setGuest_dpool (b : Bool) (v : Guest) : (setGuest b v s).dpool = s.dpool := by cases b <;> rfl
@[simp] theorem setGuest_walks (b : Bool) (v : Guest) : (setGuest b v s).walks = s.walks := by cases b <;> rfl
@[simp] theorem setGuest_tallies (b : Bool) (v : Guest) : (setGuest b v s).tallies = s.tallies := by cases b <;> rfl
@[simp] theorem setGuest_waiters (b : Bool) (v : Guest) : (setGuest b v s).waiters = s.waiters := by cases b <;> rfl
@[simp] theorem setGuest_cores (b : Bool) (v : Guest) : (setGuest b v s).cores = s.cores := by cases b <;> rfl
@[simp] theorem setGuest_progs (b : Bool) (v : Guest) : (setGuest b v s).progs = s.progs := by cases b <;> rfl
@[simp] theorem setGuest_partSets (b : Bool) (v : Guest) : (setGuest b v s).partSets = s.partSets := by cases b <;> rfl
@[simp] theorem setGuest_stackDies (b : Bool) (v : Guest) : (setGuest b v s).stackDies = s.stackDies := by cases b <;> rfl
@[simp] theorem setGuest_hc (b : Bool) (v : Guest) : (setGuest b v s).hc = s.hc := by cases b <;> rfl
@[simp] theorem setGuest_fab (b : Bool) (v : Guest) : (setGuest b v s).fab = s.fab := by cases b <;> rfl
@[simp] theorem setGuest_pA (b : Bool) (v : Guest) : (setGuest b v s).pA = s.pA := by cases b <;> rfl
@[simp] theorem setGuest_pB (b : Bool) (v : Guest) : (setGuest b v s).pB = s.pB := by cases b <;> rfl
@[simp] theorem setGuest_power (b : Bool) (v : Guest) : (setGuest b v s).power = s.power := by cases b <;> rfl
@[simp] theorem setGuest_faults (b : Bool) (v : Guest) : (setGuest b v s).faults = s.faults := by cases b <;> rfl
@[simp] theorem setGuest_mgmt (b : Bool) (v : Guest) : (setGuest b v s).mgmt = s.mgmt := by cases b <;> rfl
@[simp] theorem setGuest_tray (b : Bool) (v : Guest) : (setGuest b v s).tray = s.tray := by cases b <;> rfl
@[simp] theorem setGuest_chainGen (b : Bool) (v : Guest) : (setGuest b v s).chainGen = s.chainGen := by cases b <;> rfl
@[simp] theorem setGuest_chainPosted (b : Bool) (v : Guest) : (setGuest b v s).chainPosted = s.chainPosted := by cases b <;> rfl
@[simp] theorem setGuest_out (b : Bool) (v : Guest) : (setGuest b v s).out = s.out := by cases b <;> rfl
@[simp] theorem setGuest_heldPort (b : Bool) (v : Guest) : (setGuest b v s).heldPort = s.heldPort := by cases b <;> rfl
@[simp] theorem setGuest_turns (b : Bool) (v : Guest) : (setGuest b v s).turns = s.turns := by cases b <;> rfl
@[simp] theorem setGuest_actionEnd (b : Bool) (v : Guest) : (setGuest b v s).actionEnd = s.actionEnd := by cases b <;> rfl
@[simp] theorem setGuest_tallyEnd (b : Bool) (v : Guest) : (setGuest b v s).tallyEnd = s.tallyEnd := by cases b <;> rfl
@[simp] theorem setGuest_upsets (b : Bool) (v : Guest) : (setGuest b v s).upsets = s.upsets := by cases b <;> rfl
@[simp] theorem getReg_setGuest (b : Bool) (v : Guest) (r' : Nat) : getReg (setGuest b v s) r' = getReg s r' := by cases b <;> rfl
@[simp] theorem getF_setGuest (b : Bool) (v : Guest) (r' : Nat) (g' : Fld) : getF (setGuest b v s) r' g' = getF s r' g' := by cases b <;> rfl
@[simp] theorem memByte_setGuest (b : Bool) (v : Guest) (a' : Nat) : memByte (setGuest b v s) a' = memByte s a' := by cases b <;> rfl
@[simp] theorem queueOf_setGuest (b : Bool) (v : Guest) (q' : Nat) : queueOf (setGuest b v s) q' = queueOf s q' := by cases b <;> rfl
@[simp] theorem ctxOf_setGuest (b : Bool) (v : Guest) (x' : Nat) : ctxOf (setGuest b v s) x' = ctxOf s x' := by cases b <;> rfl
@[simp] theorem partOf_setGuest (b : Bool) (v : Guest) (p' : Nat) : partOf (setGuest b v s) p' = partOf s p' := by cases b <;> rfl
@[simp] theorem coreOf_setGuest (b : Bool) (v : Guest) (n' : Nat) : coreOf (setGuest b v s) n' = coreOf s n' := by cases b <;> rfl
@[simp] theorem tallyOf_setGuest (b : Bool) (v : Guest) (j' i' : Nat) : tallyOf (setGuest b v s) j' i' = tallyOf s j' i' := by cases b <;> rfl
@[simp] theorem progOf_setGuest (b : Bool) (v : Guest) (h' : Nat) : progOf (setGuest b v s) h' = progOf s h' := by cases b <;> rfl
@[simp] theorem stackOf_setGuest (b : Bool) (v : Guest) (y' : Nat) : stackOf (setGuest b v s) y' = stackOf s y' := by cases b <;> rfl
@[simp] theorem isFenced_setGuest (b : Bool) (v : Guest) (y' i' : Nat) : isFenced (setGuest b v s) y' i' = isFenced s y' i' := by cases b <;> rfl
@[simp] theorem extPort_setGuest (b : Bool) (v : Guest) (c' : Bool) : extPort (setGuest b v s) c' = extPort s c' := by cases b <;> rfl

/-! ### setExt -/

@[simp] theorem setExt_pending (b : Bool) (v : ExtPort) : (setExt b v s).pending = s.pending := by cases b <;> rfl
@[simp] theorem setExt_tick (b : Bool) (v : ExtPort) : (setExt b v s).tick = s.tick := by cases b <;> rfl
@[simp] theorem setExt_mem (b : Bool) (v : ExtPort) : (setExt b v s).mem = s.mem := by cases b <;> rfl
@[simp] theorem setExt_poison (b : Bool) (v : ExtPort) : (setExt b v s).poison = s.poison := by cases b <;> rfl
@[simp] theorem setExt_cellar (b : Bool) (v : ExtPort) : (setExt b v s).cellar = s.cellar := by cases b <;> rfl
@[simp] theorem setExt_cellarPoison (b : Bool) (v : ExtPort) : (setExt b v s).cellarPoison = s.cellarPoison := by cases b <;> rfl
@[simp] theorem setExt_wbuf (b : Bool) (v : ExtPort) : (setExt b v s).wbuf = s.wbuf := by cases b <;> rfl
@[simp] theorem setExt_regs (b : Bool) (v : ExtPort) : (setExt b v s).regs = s.regs := by cases b <;> rfl
@[simp] theorem setExt_bell (b : Bool) (v : ExtPort) : (setExt b v s).bell = s.bell := by cases b <;> rfl
@[simp] theorem setExt_jumped (b : Bool) (v : ExtPort) : (setExt b v s).jumped = s.jumped := by cases b <;> rfl
@[simp] theorem setExt_queues (b : Bool) (v : ExtPort) : (setExt b v s).queues = s.queues := by cases b <;> rfl
@[simp] theorem setExt_cmds (b : Bool) (v : ExtPort) : (setExt b v s).cmds = s.cmds := by cases b <;> rfl
@[simp] theorem setExt_ctxs (b : Bool) (v : ExtPort) : (setExt b v s).ctxs = s.ctxs := by cases b <;> rfl
@[simp] theorem setExt_parts (b : Bool) (v : ExtPort) : (setExt b v s).parts = s.parts := by cases b <;> rfl
@[simp] theorem setExt_staged (b : Bool) (v : ExtPort) : (setExt b v s).staged = s.staged := by cases b <;> rfl
@[simp] theorem setExt_segs (b : Bool) (v : ExtPort) : (setExt b v s).segs = s.segs := by cases b <;> rfl
@[simp] theorem setExt_dpool (b : Bool) (v : ExtPort) : (setExt b v s).dpool = s.dpool := by cases b <;> rfl
@[simp] theorem setExt_walks (b : Bool) (v : ExtPort) : (setExt b v s).walks = s.walks := by cases b <;> rfl
@[simp] theorem setExt_tallies (b : Bool) (v : ExtPort) : (setExt b v s).tallies = s.tallies := by cases b <;> rfl
@[simp] theorem setExt_waiters (b : Bool) (v : ExtPort) : (setExt b v s).waiters = s.waiters := by cases b <;> rfl
@[simp] theorem setExt_cores (b : Bool) (v : ExtPort) : (setExt b v s).cores = s.cores := by cases b <;> rfl
@[simp] theorem setExt_progs (b : Bool) (v : ExtPort) : (setExt b v s).progs = s.progs := by cases b <;> rfl
@[simp] theorem setExt_partSets (b : Bool) (v : ExtPort) : (setExt b v s).partSets = s.partSets := by cases b <;> rfl
@[simp] theorem setExt_stackDies (b : Bool) (v : ExtPort) : (setExt b v s).stackDies = s.stackDies := by cases b <;> rfl
@[simp] theorem setExt_hc (b : Bool) (v : ExtPort) : (setExt b v s).hc = s.hc := by cases b <;> rfl
@[simp] theorem setExt_fab (b : Bool) (v : ExtPort) : (setExt b v s).fab = s.fab := by cases b <;> rfl
@[simp] theorem setExt_g0 (b : Bool) (v : ExtPort) : (setExt b v s).g0 = s.g0 := by cases b <;> rfl
@[simp] theorem setExt_g1 (b : Bool) (v : ExtPort) : (setExt b v s).g1 = s.g1 := by cases b <;> rfl
@[simp] theorem setExt_power (b : Bool) (v : ExtPort) : (setExt b v s).power = s.power := by cases b <;> rfl
@[simp] theorem setExt_faults (b : Bool) (v : ExtPort) : (setExt b v s).faults = s.faults := by cases b <;> rfl
@[simp] theorem setExt_mgmt (b : Bool) (v : ExtPort) : (setExt b v s).mgmt = s.mgmt := by cases b <;> rfl
@[simp] theorem setExt_tray (b : Bool) (v : ExtPort) : (setExt b v s).tray = s.tray := by cases b <;> rfl
@[simp] theorem setExt_chainGen (b : Bool) (v : ExtPort) : (setExt b v s).chainGen = s.chainGen := by cases b <;> rfl
@[simp] theorem setExt_chainPosted (b : Bool) (v : ExtPort) : (setExt b v s).chainPosted = s.chainPosted := by cases b <;> rfl
@[simp] theorem setExt_out (b : Bool) (v : ExtPort) : (setExt b v s).out = s.out := by cases b <;> rfl
@[simp] theorem setExt_heldPort (b : Bool) (v : ExtPort) : (setExt b v s).heldPort = s.heldPort := by cases b <;> rfl
@[simp] theorem setExt_turns (b : Bool) (v : ExtPort) : (setExt b v s).turns = s.turns := by cases b <;> rfl
@[simp] theorem setExt_actionEnd (b : Bool) (v : ExtPort) : (setExt b v s).actionEnd = s.actionEnd := by cases b <;> rfl
@[simp] theorem setExt_tallyEnd (b : Bool) (v : ExtPort) : (setExt b v s).tallyEnd = s.tallyEnd := by cases b <;> rfl
@[simp] theorem setExt_upsets (b : Bool) (v : ExtPort) : (setExt b v s).upsets = s.upsets := by cases b <;> rfl
@[simp] theorem getReg_setExt (b : Bool) (v : ExtPort) (r' : Nat) : getReg (setExt b v s) r' = getReg s r' := by cases b <;> rfl
@[simp] theorem getF_setExt (b : Bool) (v : ExtPort) (r' : Nat) (g' : Fld) : getF (setExt b v s) r' g' = getF s r' g' := by cases b <;> rfl
@[simp] theorem memByte_setExt (b : Bool) (v : ExtPort) (a' : Nat) : memByte (setExt b v s) a' = memByte s a' := by cases b <;> rfl
@[simp] theorem queueOf_setExt (b : Bool) (v : ExtPort) (q' : Nat) : queueOf (setExt b v s) q' = queueOf s q' := by cases b <;> rfl
@[simp] theorem ctxOf_setExt (b : Bool) (v : ExtPort) (x' : Nat) : ctxOf (setExt b v s) x' = ctxOf s x' := by cases b <;> rfl
@[simp] theorem partOf_setExt (b : Bool) (v : ExtPort) (p' : Nat) : partOf (setExt b v s) p' = partOf s p' := by cases b <;> rfl
@[simp] theorem coreOf_setExt (b : Bool) (v : ExtPort) (n' : Nat) : coreOf (setExt b v s) n' = coreOf s n' := by cases b <;> rfl
@[simp] theorem tallyOf_setExt (b : Bool) (v : ExtPort) (j' i' : Nat) : tallyOf (setExt b v s) j' i' = tallyOf s j' i' := by cases b <;> rfl
@[simp] theorem progOf_setExt (b : Bool) (v : ExtPort) (h' : Nat) : progOf (setExt b v s) h' = progOf s h' := by cases b <;> rfl
@[simp] theorem stackOf_setExt (b : Bool) (v : ExtPort) (y' : Nat) : stackOf (setExt b v s) y' = stackOf s y' := by cases b <;> rfl
@[simp] theorem isFenced_setExt (b : Bool) (v : ExtPort) (y' i' : Nat) : isFenced (setExt b v s) y' i' = isFenced s y' i' := by cases b <;> rfl
@[simp] theorem guestOf_setExt (b : Bool) (v : ExtPort) (c' : Bool) : guestOf (setExt b v s) c' = guestOf s c' := by cases b <;> rfl

/-! ### setPcache -/

@[simp] theorem setPcache_pending (k : Nat) (v : PCache) : (setPcache k v s).pending = s.pending := rfl
@[simp] theorem setPcache_tick (k : Nat) (v : PCache) : (setPcache k v s).tick = s.tick := rfl
@[simp] theorem setPcache_mem (k : Nat) (v : PCache) : (setPcache k v s).mem = s.mem := rfl
@[simp] theorem setPcache_poison (k : Nat) (v : PCache) : (setPcache k v s).poison = s.poison := rfl
@[simp] theorem setPcache_cellar (k : Nat) (v : PCache) : (setPcache k v s).cellar = s.cellar := rfl
@[simp] theorem setPcache_cellarPoison (k : Nat) (v : PCache) : (setPcache k v s).cellarPoison = s.cellarPoison := rfl
@[simp] theorem setPcache_wbuf (k : Nat) (v : PCache) : (setPcache k v s).wbuf = s.wbuf := rfl
@[simp] theorem setPcache_regs (k : Nat) (v : PCache) : (setPcache k v s).regs = s.regs := rfl
@[simp] theorem setPcache_bell (k : Nat) (v : PCache) : (setPcache k v s).bell = s.bell := rfl
@[simp] theorem setPcache_jumped (k : Nat) (v : PCache) : (setPcache k v s).jumped = s.jumped := rfl
@[simp] theorem setPcache_queues (k : Nat) (v : PCache) : (setPcache k v s).queues = s.queues := rfl
@[simp] theorem setPcache_cmds (k : Nat) (v : PCache) : (setPcache k v s).cmds = s.cmds := rfl
@[simp] theorem setPcache_ctxs (k : Nat) (v : PCache) : (setPcache k v s).ctxs = s.ctxs := rfl
@[simp] theorem setPcache_parts (k : Nat) (v : PCache) : (setPcache k v s).parts = s.parts := rfl
@[simp] theorem setPcache_staged (k : Nat) (v : PCache) : (setPcache k v s).staged = s.staged := rfl
@[simp] theorem setPcache_segs (k : Nat) (v : PCache) : (setPcache k v s).segs = s.segs := rfl
@[simp] theorem setPcache_dpool (k : Nat) (v : PCache) : (setPcache k v s).dpool = s.dpool := rfl
@[simp] theorem setPcache_walks (k : Nat) (v : PCache) : (setPcache k v s).walks = s.walks := rfl
@[simp] theorem setPcache_tallies (k : Nat) (v : PCache) : (setPcache k v s).tallies = s.tallies := rfl
@[simp] theorem setPcache_waiters (k : Nat) (v : PCache) : (setPcache k v s).waiters = s.waiters := rfl
@[simp] theorem setPcache_cores (k : Nat) (v : PCache) : (setPcache k v s).cores = s.cores := rfl
@[simp] theorem setPcache_progs (k : Nat) (v : PCache) : (setPcache k v s).progs = s.progs := rfl
@[simp] theorem setPcache_partSets (k : Nat) (v : PCache) : (setPcache k v s).partSets = s.partSets := rfl
@[simp] theorem setPcache_stackDies (k : Nat) (v : PCache) : (setPcache k v s).stackDies = s.stackDies := rfl
@[simp] theorem setPcache_fab (k : Nat) (v : PCache) : (setPcache k v s).fab = s.fab := rfl
@[simp] theorem setPcache_g0 (k : Nat) (v : PCache) : (setPcache k v s).g0 = s.g0 := rfl
@[simp] theorem setPcache_g1 (k : Nat) (v : PCache) : (setPcache k v s).g1 = s.g1 := rfl
@[simp] theorem setPcache_pA (k : Nat) (v : PCache) : (setPcache k v s).pA = s.pA := rfl
@[simp] theorem setPcache_pB (k : Nat) (v : PCache) : (setPcache k v s).pB = s.pB := rfl
@[simp] theorem setPcache_power (k : Nat) (v : PCache) : (setPcache k v s).power = s.power := rfl
@[simp] theorem setPcache_faults (k : Nat) (v : PCache) : (setPcache k v s).faults = s.faults := rfl
@[simp] theorem setPcache_mgmt (k : Nat) (v : PCache) : (setPcache k v s).mgmt = s.mgmt := rfl
@[simp] theorem setPcache_tray (k : Nat) (v : PCache) : (setPcache k v s).tray = s.tray := rfl
@[simp] theorem setPcache_chainGen (k : Nat) (v : PCache) : (setPcache k v s).chainGen = s.chainGen := rfl
@[simp] theorem setPcache_chainPosted (k : Nat) (v : PCache) : (setPcache k v s).chainPosted = s.chainPosted := rfl
@[simp] theorem setPcache_out (k : Nat) (v : PCache) : (setPcache k v s).out = s.out := rfl
@[simp] theorem setPcache_heldPort (k : Nat) (v : PCache) : (setPcache k v s).heldPort = s.heldPort := rfl
@[simp] theorem setPcache_turns (k : Nat) (v : PCache) : (setPcache k v s).turns = s.turns := rfl
@[simp] theorem setPcache_actionEnd (k : Nat) (v : PCache) : (setPcache k v s).actionEnd = s.actionEnd := rfl
@[simp] theorem setPcache_tallyEnd (k : Nat) (v : PCache) : (setPcache k v s).tallyEnd = s.tallyEnd := rfl
@[simp] theorem setPcache_upsets (k : Nat) (v : PCache) : (setPcache k v s).upsets = s.upsets := rfl
@[simp] theorem getReg_setPcache (k : Nat) (v : PCache) (r' : Nat) : getReg (setPcache k v s) r' = getReg s r' := rfl
@[simp] theorem getF_setPcache (k : Nat) (v : PCache) (r' : Nat) (g' : Fld) : getF (setPcache k v s) r' g' = getF s r' g' := rfl
@[simp] theorem memByte_setPcache (k : Nat) (v : PCache) (a' : Nat) : memByte (setPcache k v s) a' = memByte s a' := rfl
@[simp] theorem queueOf_setPcache (k : Nat) (v : PCache) (q' : Nat) : queueOf (setPcache k v s) q' = queueOf s q' := rfl
@[simp] theorem ctxOf_setPcache (k : Nat) (v : PCache) (x' : Nat) : ctxOf (setPcache k v s) x' = ctxOf s x' := rfl
@[simp] theorem partOf_setPcache (k : Nat) (v : PCache) (p' : Nat) : partOf (setPcache k v s) p' = partOf s p' := rfl
@[simp] theorem coreOf_setPcache (k : Nat) (v : PCache) (n' : Nat) : coreOf (setPcache k v s) n' = coreOf s n' := rfl
@[simp] theorem tallyOf_setPcache (k : Nat) (v : PCache) (j' i' : Nat) : tallyOf (setPcache k v s) j' i' = tallyOf s j' i' := rfl
@[simp] theorem progOf_setPcache (k : Nat) (v : PCache) (h' : Nat) : progOf (setPcache k v s) h' = progOf s h' := rfl
@[simp] theorem stackOf_setPcache (k : Nat) (v : PCache) (y' : Nat) : stackOf (setPcache k v s) y' = stackOf s y' := rfl
@[simp] theorem isFenced_setPcache (k : Nat) (v : PCache) (y' i' : Nat) : isFenced (setPcache k v s) y' i' = isFenced s y' i' := rfl
@[simp] theorem extPort_setPcache (k : Nat) (v : PCache) (c' : Bool) : extPort (setPcache k v s) c' = extPort s c' := rfl
@[simp] theorem guestOf_setPcache (k : Nat) (v : PCache) (c' : Bool) : guestOf (setPcache k v s) c' = guestOf s c' := rfl

/-! ### setDir -/

@[simp] theorem setDir_pending (k : Nat) (v : DirEntry) : (setDir k v s).pending = s.pending := rfl
@[simp] theorem setDir_tick (k : Nat) (v : DirEntry) : (setDir k v s).tick = s.tick := rfl
@[simp] theorem setDir_mem (k : Nat) (v : DirEntry) : (setDir k v s).mem = s.mem := rfl
@[simp] theorem setDir_poison (k : Nat) (v : DirEntry) : (setDir k v s).poison = s.poison := rfl
@[simp] theorem setDir_cellar (k : Nat) (v : DirEntry) : (setDir k v s).cellar = s.cellar := rfl
@[simp] theorem setDir_cellarPoison (k : Nat) (v : DirEntry) : (setDir k v s).cellarPoison = s.cellarPoison := rfl
@[simp] theorem setDir_wbuf (k : Nat) (v : DirEntry) : (setDir k v s).wbuf = s.wbuf := rfl
@[simp] theorem setDir_regs (k : Nat) (v : DirEntry) : (setDir k v s).regs = s.regs := rfl
@[simp] theorem setDir_bell (k : Nat) (v : DirEntry) : (setDir k v s).bell = s.bell := rfl
@[simp] theorem setDir_jumped (k : Nat) (v : DirEntry) : (setDir k v s).jumped = s.jumped := rfl
@[simp] theorem setDir_queues (k : Nat) (v : DirEntry) : (setDir k v s).queues = s.queues := rfl
@[simp] theorem setDir_cmds (k : Nat) (v : DirEntry) : (setDir k v s).cmds = s.cmds := rfl
@[simp] theorem setDir_ctxs (k : Nat) (v : DirEntry) : (setDir k v s).ctxs = s.ctxs := rfl
@[simp] theorem setDir_parts (k : Nat) (v : DirEntry) : (setDir k v s).parts = s.parts := rfl
@[simp] theorem setDir_staged (k : Nat) (v : DirEntry) : (setDir k v s).staged = s.staged := rfl
@[simp] theorem setDir_segs (k : Nat) (v : DirEntry) : (setDir k v s).segs = s.segs := rfl
@[simp] theorem setDir_dpool (k : Nat) (v : DirEntry) : (setDir k v s).dpool = s.dpool := rfl
@[simp] theorem setDir_walks (k : Nat) (v : DirEntry) : (setDir k v s).walks = s.walks := rfl
@[simp] theorem setDir_tallies (k : Nat) (v : DirEntry) : (setDir k v s).tallies = s.tallies := rfl
@[simp] theorem setDir_waiters (k : Nat) (v : DirEntry) : (setDir k v s).waiters = s.waiters := rfl
@[simp] theorem setDir_cores (k : Nat) (v : DirEntry) : (setDir k v s).cores = s.cores := rfl
@[simp] theorem setDir_progs (k : Nat) (v : DirEntry) : (setDir k v s).progs = s.progs := rfl
@[simp] theorem setDir_partSets (k : Nat) (v : DirEntry) : (setDir k v s).partSets = s.partSets := rfl
@[simp] theorem setDir_stackDies (k : Nat) (v : DirEntry) : (setDir k v s).stackDies = s.stackDies := rfl
@[simp] theorem setDir_fab (k : Nat) (v : DirEntry) : (setDir k v s).fab = s.fab := rfl
@[simp] theorem setDir_g0 (k : Nat) (v : DirEntry) : (setDir k v s).g0 = s.g0 := rfl
@[simp] theorem setDir_g1 (k : Nat) (v : DirEntry) : (setDir k v s).g1 = s.g1 := rfl
@[simp] theorem setDir_pA (k : Nat) (v : DirEntry) : (setDir k v s).pA = s.pA := rfl
@[simp] theorem setDir_pB (k : Nat) (v : DirEntry) : (setDir k v s).pB = s.pB := rfl
@[simp] theorem setDir_power (k : Nat) (v : DirEntry) : (setDir k v s).power = s.power := rfl
@[simp] theorem setDir_faults (k : Nat) (v : DirEntry) : (setDir k v s).faults = s.faults := rfl
@[simp] theorem setDir_mgmt (k : Nat) (v : DirEntry) : (setDir k v s).mgmt = s.mgmt := rfl
@[simp] theorem setDir_tray (k : Nat) (v : DirEntry) : (setDir k v s).tray = s.tray := rfl
@[simp] theorem setDir_chainGen (k : Nat) (v : DirEntry) : (setDir k v s).chainGen = s.chainGen := rfl
@[simp] theorem setDir_chainPosted (k : Nat) (v : DirEntry) : (setDir k v s).chainPosted = s.chainPosted := rfl
@[simp] theorem setDir_out (k : Nat) (v : DirEntry) : (setDir k v s).out = s.out := rfl
@[simp] theorem setDir_heldPort (k : Nat) (v : DirEntry) : (setDir k v s).heldPort = s.heldPort := rfl
@[simp] theorem setDir_turns (k : Nat) (v : DirEntry) : (setDir k v s).turns = s.turns := rfl
@[simp] theorem setDir_actionEnd (k : Nat) (v : DirEntry) : (setDir k v s).actionEnd = s.actionEnd := rfl
@[simp] theorem setDir_tallyEnd (k : Nat) (v : DirEntry) : (setDir k v s).tallyEnd = s.tallyEnd := rfl
@[simp] theorem setDir_upsets (k : Nat) (v : DirEntry) : (setDir k v s).upsets = s.upsets := rfl
@[simp] theorem getReg_setDir (k : Nat) (v : DirEntry) (r' : Nat) : getReg (setDir k v s) r' = getReg s r' := rfl
@[simp] theorem getF_setDir (k : Nat) (v : DirEntry) (r' : Nat) (g' : Fld) : getF (setDir k v s) r' g' = getF s r' g' := rfl
@[simp] theorem memByte_setDir (k : Nat) (v : DirEntry) (a' : Nat) : memByte (setDir k v s) a' = memByte s a' := rfl
@[simp] theorem queueOf_setDir (k : Nat) (v : DirEntry) (q' : Nat) : queueOf (setDir k v s) q' = queueOf s q' := rfl
@[simp] theorem ctxOf_setDir (k : Nat) (v : DirEntry) (x' : Nat) : ctxOf (setDir k v s) x' = ctxOf s x' := rfl
@[simp] theorem partOf_setDir (k : Nat) (v : DirEntry) (p' : Nat) : partOf (setDir k v s) p' = partOf s p' := rfl
@[simp] theorem coreOf_setDir (k : Nat) (v : DirEntry) (n' : Nat) : coreOf (setDir k v s) n' = coreOf s n' := rfl
@[simp] theorem tallyOf_setDir (k : Nat) (v : DirEntry) (j' i' : Nat) : tallyOf (setDir k v s) j' i' = tallyOf s j' i' := rfl
@[simp] theorem progOf_setDir (k : Nat) (v : DirEntry) (h' : Nat) : progOf (setDir k v s) h' = progOf s h' := rfl
@[simp] theorem stackOf_setDir (k : Nat) (v : DirEntry) (y' : Nat) : stackOf (setDir k v s) y' = stackOf s y' := rfl
@[simp] theorem isFenced_setDir (k : Nat) (v : DirEntry) (y' i' : Nat) : isFenced (setDir k v s) y' i' = isFenced s y' i' := rfl
@[simp] theorem extPort_setDir (k : Nat) (v : DirEntry) (c' : Bool) : extPort (setDir k v s) c' = extPort s c' := rfl
@[simp] theorem guestOf_setDir (k : Nat) (v : DirEntry) (c' : Bool) : guestOf (setDir k v s) c' = guestOf s c' := rfl

/-! ### emit -/

@[simp] theorem emit_pending (m : Out) : (emit m s).pending = s.pending := rfl
@[simp] theorem emit_tick (m : Out) : (emit m s).tick = s.tick := rfl
@[simp] theorem emit_mem (m : Out) : (emit m s).mem = s.mem := rfl
@[simp] theorem emit_poison (m : Out) : (emit m s).poison = s.poison := rfl
@[simp] theorem emit_cellar (m : Out) : (emit m s).cellar = s.cellar := rfl
@[simp] theorem emit_cellarPoison (m : Out) : (emit m s).cellarPoison = s.cellarPoison := rfl
@[simp] theorem emit_wbuf (m : Out) : (emit m s).wbuf = s.wbuf := rfl
@[simp] theorem emit_regs (m : Out) : (emit m s).regs = s.regs := rfl
@[simp] theorem emit_bell (m : Out) : (emit m s).bell = s.bell := rfl
@[simp] theorem emit_jumped (m : Out) : (emit m s).jumped = s.jumped := rfl
@[simp] theorem emit_queues (m : Out) : (emit m s).queues = s.queues := rfl
@[simp] theorem emit_cmds (m : Out) : (emit m s).cmds = s.cmds := rfl
@[simp] theorem emit_ctxs (m : Out) : (emit m s).ctxs = s.ctxs := rfl
@[simp] theorem emit_parts (m : Out) : (emit m s).parts = s.parts := rfl
@[simp] theorem emit_staged (m : Out) : (emit m s).staged = s.staged := rfl
@[simp] theorem emit_segs (m : Out) : (emit m s).segs = s.segs := rfl
@[simp] theorem emit_dpool (m : Out) : (emit m s).dpool = s.dpool := rfl
@[simp] theorem emit_walks (m : Out) : (emit m s).walks = s.walks := rfl
@[simp] theorem emit_tallies (m : Out) : (emit m s).tallies = s.tallies := rfl
@[simp] theorem emit_waiters (m : Out) : (emit m s).waiters = s.waiters := rfl
@[simp] theorem emit_cores (m : Out) : (emit m s).cores = s.cores := rfl
@[simp] theorem emit_progs (m : Out) : (emit m s).progs = s.progs := rfl
@[simp] theorem emit_partSets (m : Out) : (emit m s).partSets = s.partSets := rfl
@[simp] theorem emit_stackDies (m : Out) : (emit m s).stackDies = s.stackDies := rfl
@[simp] theorem emit_hc (m : Out) : (emit m s).hc = s.hc := rfl
@[simp] theorem emit_fab (m : Out) : (emit m s).fab = s.fab := rfl
@[simp] theorem emit_g0 (m : Out) : (emit m s).g0 = s.g0 := rfl
@[simp] theorem emit_g1 (m : Out) : (emit m s).g1 = s.g1 := rfl
@[simp] theorem emit_pA (m : Out) : (emit m s).pA = s.pA := rfl
@[simp] theorem emit_pB (m : Out) : (emit m s).pB = s.pB := rfl
@[simp] theorem emit_power (m : Out) : (emit m s).power = s.power := rfl
@[simp] theorem emit_faults (m : Out) : (emit m s).faults = s.faults := rfl
@[simp] theorem emit_mgmt (m : Out) : (emit m s).mgmt = s.mgmt := rfl
@[simp] theorem emit_tray (m : Out) : (emit m s).tray = s.tray := rfl
@[simp] theorem emit_chainGen (m : Out) : (emit m s).chainGen = s.chainGen := rfl
@[simp] theorem emit_chainPosted (m : Out) : (emit m s).chainPosted = s.chainPosted := rfl
@[simp] theorem emit_heldPort (m : Out) : (emit m s).heldPort = s.heldPort := rfl
@[simp] theorem emit_turns (m : Out) : (emit m s).turns = s.turns := rfl
@[simp] theorem emit_actionEnd (m : Out) : (emit m s).actionEnd = s.actionEnd := rfl
@[simp] theorem emit_tallyEnd (m : Out) : (emit m s).tallyEnd = s.tallyEnd := rfl
@[simp] theorem emit_upsets (m : Out) : (emit m s).upsets = s.upsets := rfl
@[simp] theorem getReg_emit (m : Out) (r' : Nat) : getReg (emit m s) r' = getReg s r' := rfl
@[simp] theorem getF_emit (m : Out) (r' : Nat) (g' : Fld) : getF (emit m s) r' g' = getF s r' g' := rfl
@[simp] theorem memByte_emit (m : Out) (a' : Nat) : memByte (emit m s) a' = memByte s a' := rfl
@[simp] theorem queueOf_emit (m : Out) (q' : Nat) : queueOf (emit m s) q' = queueOf s q' := rfl
@[simp] theorem ctxOf_emit (m : Out) (x' : Nat) : ctxOf (emit m s) x' = ctxOf s x' := rfl
@[simp] theorem partOf_emit (m : Out) (p' : Nat) : partOf (emit m s) p' = partOf s p' := rfl
@[simp] theorem coreOf_emit (m : Out) (n' : Nat) : coreOf (emit m s) n' = coreOf s n' := rfl
@[simp] theorem tallyOf_emit (m : Out) (j' i' : Nat) : tallyOf (emit m s) j' i' = tallyOf s j' i' := rfl
@[simp] theorem progOf_emit (m : Out) (h' : Nat) : progOf (emit m s) h' = progOf s h' := rfl
@[simp] theorem stackOf_emit (m : Out) (y' : Nat) : stackOf (emit m s) y' = stackOf s y' := rfl
@[simp] theorem isFenced_emit (m : Out) (y' i' : Nat) : isFenced (emit m s) y' i' = isFenced s y' i' := rfl
@[simp] theorem extPort_emit (m : Out) (c' : Bool) : extPort (emit m s) c' = extPort s c' := rfl
@[simp] theorem guestOf_emit (m : Out) (c' : Bool) : guestOf (emit m s) c' = guestOf s c' := rfl

/-! ### advance -/

@[simp] theorem advance_pending : (advance s).pending = s.pending := rfl
@[simp] theorem advance_mem : (advance s).mem = s.mem := rfl
@[simp] theorem advance_poison : (advance s).poison = s.poison := rfl
@[simp] theorem advance_cellar : (advance s).cellar = s.cellar := rfl
@[simp] theorem advance_cellarPoison : (advance s).cellarPoison = s.cellarPoison := rfl
@[simp] theorem advance_wbuf : (advance s).wbuf = s.wbuf := rfl
@[simp] theorem advance_regs : (advance s).regs = s.regs := rfl
@[simp] theorem advance_bell : (advance s).bell = s.bell := rfl
@[simp] theorem advance_jumped : (advance s).jumped = s.jumped := rfl
@[simp] theorem advance_queues : (advance s).queues = s.queues := rfl
@[simp] theorem advance_cmds : (advance s).cmds = s.cmds := rfl
@[simp] theorem advance_ctxs : (advance s).ctxs = s.ctxs := rfl
@[simp] theorem advance_parts : (advance s).parts = s.parts := rfl
@[simp] theorem advance_staged : (advance s).staged = s.staged := rfl
@[simp] theorem advance_segs : (advance s).segs = s.segs := rfl
@[simp] theorem advance_dpool : (advance s).dpool = s.dpool := rfl
@[simp] theorem advance_walks : (advance s).walks = s.walks := rfl
@[simp] theorem advance_tallies : (advance s).tallies = s.tallies := rfl
@[simp] theorem advance_waiters : (advance s).waiters = s.waiters := rfl
@[simp] theorem advance_cores : (advance s).cores = s.cores := rfl
@[simp] theorem advance_progs : (advance s).progs = s.progs := rfl
@[simp] theorem advance_partSets : (advance s).partSets = s.partSets := rfl
@[simp] theorem advance_stackDies : (advance s).stackDies = s.stackDies := rfl
@[simp] theorem advance_hc : (advance s).hc = s.hc := rfl
@[simp] theorem advance_fab : (advance s).fab = s.fab := rfl
@[simp] theorem advance_g0 : (advance s).g0 = s.g0 := rfl
@[simp] theorem advance_g1 : (advance s).g1 = s.g1 := rfl
@[simp] theorem advance_pA : (advance s).pA = s.pA := rfl
@[simp] theorem advance_pB : (advance s).pB = s.pB := rfl
@[simp] theorem advance_power : (advance s).power = s.power := rfl
@[simp] theorem advance_faults : (advance s).faults = s.faults := rfl
@[simp] theorem advance_mgmt : (advance s).mgmt = s.mgmt := rfl
@[simp] theorem advance_tray : (advance s).tray = s.tray := rfl
@[simp] theorem advance_chainGen : (advance s).chainGen = s.chainGen := rfl
@[simp] theorem advance_chainPosted : (advance s).chainPosted = s.chainPosted := rfl
@[simp] theorem advance_out : (advance s).out = s.out := rfl
@[simp] theorem advance_heldPort : (advance s).heldPort = s.heldPort := rfl
@[simp] theorem advance_turns : (advance s).turns = s.turns := rfl
@[simp] theorem advance_actionEnd : (advance s).actionEnd = s.actionEnd := rfl
@[simp] theorem advance_tallyEnd : (advance s).tallyEnd = s.tallyEnd := rfl
@[simp] theorem advance_upsets : (advance s).upsets = s.upsets := rfl
@[simp] theorem getReg_advance (r' : Nat) : getReg (advance s) r' = getReg s r' := rfl
@[simp] theorem getF_advance (r' : Nat) (g' : Fld) : getF (advance s) r' g' = getF s r' g' := rfl
@[simp] theorem memByte_advance (a' : Nat) : memByte (advance s) a' = memByte s a' := rfl
@[simp] theorem queueOf_advance (q' : Nat) : queueOf (advance s) q' = queueOf s q' := rfl
@[simp] theorem ctxOf_advance (x' : Nat) : ctxOf (advance s) x' = ctxOf s x' := rfl
@[simp] theorem partOf_advance (p' : Nat) : partOf (advance s) p' = partOf s p' := rfl
@[simp] theorem coreOf_advance (n' : Nat) : coreOf (advance s) n' = coreOf s n' := rfl
@[simp] theorem tallyOf_advance (j' i' : Nat) : tallyOf (advance s) j' i' = tallyOf s j' i' := rfl
@[simp] theorem progOf_advance (h' : Nat) : progOf (advance s) h' = progOf s h' := rfl
@[simp] theorem stackOf_advance (y' : Nat) : stackOf (advance s) y' = stackOf s y' := rfl
@[simp] theorem isFenced_advance (y' i' : Nat) : isFenced (advance s) y' i' = isFenced s y' i' := rfl
@[simp] theorem extPort_advance (c' : Bool) : extPort (advance s) c' = extPort s c' := rfl
@[simp] theorem guestOf_advance (c' : Bool) : guestOf (advance s) c' = guestOf s c' := rfl

/-! ### writeCellar -/

@[simp] theorem writeCellar_pending (v b : Nat) (bs : List Byte) : (writeCellar v b bs s).pending = s.pending := rfl
@[simp] theorem writeCellar_tick (v b : Nat) (bs : List Byte) : (writeCellar v b bs s).tick = s.tick := rfl
@[simp] theorem writeCellar_mem (v b : Nat) (bs : List Byte) : (writeCellar v b bs s).mem = s.mem := rfl
@[simp] theorem writeCellar_poison (v b : Nat) (bs : List Byte) : (writeCellar v b bs s).poison = s.poison := rfl
@[simp] theorem writeCellar_wbuf (v b : Nat) (bs : List Byte) : (writeCellar v b bs s).wbuf = s.wbuf := rfl
@[simp] theorem writeCellar_regs (v b : Nat) (bs : List Byte) : (writeCellar v b bs s).regs = s.regs := rfl
@[simp] theorem writeCellar_bell (v b : Nat) (bs : List Byte) : (writeCellar v b bs s).bell = s.bell := rfl
@[simp] theorem writeCellar_jumped (v b : Nat) (bs : List Byte) : (writeCellar v b bs s).jumped = s.jumped := rfl
@[simp] theorem writeCellar_queues (v b : Nat) (bs : List Byte) : (writeCellar v b bs s).queues = s.queues := rfl
@[simp] theorem writeCellar_cmds (v b : Nat) (bs : List Byte) : (writeCellar v b bs s).cmds = s.cmds := rfl
@[simp] theorem writeCellar_ctxs (v b : Nat) (bs : List Byte) : (writeCellar v b bs s).ctxs = s.ctxs := rfl
@[simp] theorem writeCellar_parts (v b : Nat) (bs : List Byte) : (writeCellar v b bs s).parts = s.parts := rfl
@[simp] theorem writeCellar_staged (v b : Nat) (bs : List Byte) : (writeCellar v b bs s).staged = s.staged := rfl
@[simp] theorem writeCellar_segs (v b : Nat) (bs : List Byte) : (writeCellar v b bs s).segs = s.segs := rfl
@[simp] theorem writeCellar_dpool (v b : Nat) (bs : List Byte) : (writeCellar v b bs s).dpool = s.dpool := rfl
@[simp] theorem writeCellar_walks (v b : Nat) (bs : List Byte) : (writeCellar v b bs s).walks = s.walks := rfl
@[simp] theorem writeCellar_tallies (v b : Nat) (bs : List Byte) : (writeCellar v b bs s).tallies = s.tallies := rfl
@[simp] theorem writeCellar_waiters (v b : Nat) (bs : List Byte) : (writeCellar v b bs s).waiters = s.waiters := rfl
@[simp] theorem writeCellar_cores (v b : Nat) (bs : List Byte) : (writeCellar v b bs s).cores = s.cores := rfl
@[simp] theorem writeCellar_progs (v b : Nat) (bs : List Byte) : (writeCellar v b bs s).progs = s.progs := rfl
@[simp] theorem writeCellar_partSets (v b : Nat) (bs : List Byte) : (writeCellar v b bs s).partSets = s.partSets := rfl
@[simp] theorem writeCellar_stackDies (v b : Nat) (bs : List Byte) : (writeCellar v b bs s).stackDies = s.stackDies := rfl
@[simp] theorem writeCellar_hc (v b : Nat) (bs : List Byte) : (writeCellar v b bs s).hc = s.hc := rfl
@[simp] theorem writeCellar_fab (v b : Nat) (bs : List Byte) : (writeCellar v b bs s).fab = s.fab := rfl
@[simp] theorem writeCellar_g0 (v b : Nat) (bs : List Byte) : (writeCellar v b bs s).g0 = s.g0 := rfl
@[simp] theorem writeCellar_g1 (v b : Nat) (bs : List Byte) : (writeCellar v b bs s).g1 = s.g1 := rfl
@[simp] theorem writeCellar_pA (v b : Nat) (bs : List Byte) : (writeCellar v b bs s).pA = s.pA := rfl
@[simp] theorem writeCellar_pB (v b : Nat) (bs : List Byte) : (writeCellar v b bs s).pB = s.pB := rfl
@[simp] theorem writeCellar_power (v b : Nat) (bs : List Byte) : (writeCellar v b bs s).power = s.power := rfl
@[simp] theorem writeCellar_faults (v b : Nat) (bs : List Byte) : (writeCellar v b bs s).faults = s.faults := rfl
@[simp] theorem writeCellar_mgmt (v b : Nat) (bs : List Byte) : (writeCellar v b bs s).mgmt = s.mgmt := rfl
@[simp] theorem writeCellar_tray (v b : Nat) (bs : List Byte) : (writeCellar v b bs s).tray = s.tray := rfl
@[simp] theorem writeCellar_chainGen (v b : Nat) (bs : List Byte) : (writeCellar v b bs s).chainGen = s.chainGen := rfl
@[simp] theorem writeCellar_chainPosted (v b : Nat) (bs : List Byte) : (writeCellar v b bs s).chainPosted = s.chainPosted := rfl
@[simp] theorem writeCellar_out (v b : Nat) (bs : List Byte) : (writeCellar v b bs s).out = s.out := rfl
@[simp] theorem writeCellar_heldPort (v b : Nat) (bs : List Byte) : (writeCellar v b bs s).heldPort = s.heldPort := rfl
@[simp] theorem writeCellar_turns (v b : Nat) (bs : List Byte) : (writeCellar v b bs s).turns = s.turns := rfl
@[simp] theorem writeCellar_actionEnd (v b : Nat) (bs : List Byte) : (writeCellar v b bs s).actionEnd = s.actionEnd := rfl
@[simp] theorem writeCellar_tallyEnd (v b : Nat) (bs : List Byte) : (writeCellar v b bs s).tallyEnd = s.tallyEnd := rfl
@[simp] theorem writeCellar_upsets (v b : Nat) (bs : List Byte) : (writeCellar v b bs s).upsets = s.upsets := rfl
@[simp] theorem getReg_writeCellar (v b : Nat) (bs : List Byte) (r' : Nat) : getReg (writeCellar v b bs s) r' = getReg s r' := rfl
@[simp] theorem getF_writeCellar (v b : Nat) (bs : List Byte) (r' : Nat) (g' : Fld) : getF (writeCellar v b bs s) r' g' = getF s r' g' := rfl
@[simp] theorem memByte_writeCellar (v b : Nat) (bs : List Byte) (a' : Nat) : memByte (writeCellar v b bs s) a' = memByte s a' := rfl
@[simp] theorem queueOf_writeCellar (v b : Nat) (bs : List Byte) (q' : Nat) : queueOf (writeCellar v b bs s) q' = queueOf s q' := rfl
@[simp] theorem ctxOf_writeCellar (v b : Nat) (bs : List Byte) (x' : Nat) : ctxOf (writeCellar v b bs s) x' = ctxOf s x' := rfl
@[simp] theorem partOf_writeCellar (v b : Nat) (bs : List Byte) (p' : Nat) : partOf (writeCellar v b bs s) p' = partOf s p' := rfl
@[simp] theorem coreOf_writeCellar (v b : Nat) (bs : List Byte) (n' : Nat) : coreOf (writeCellar v b bs s) n' = coreOf s n' := rfl
@[simp] theorem tallyOf_writeCellar (v b : Nat) (bs : List Byte) (j' i' : Nat) : tallyOf (writeCellar v b bs s) j' i' = tallyOf s j' i' := rfl
@[simp] theorem progOf_writeCellar (v b : Nat) (bs : List Byte) (h' : Nat) : progOf (writeCellar v b bs s) h' = progOf s h' := rfl
@[simp] theorem stackOf_writeCellar (v b : Nat) (bs : List Byte) (y' : Nat) : stackOf (writeCellar v b bs s) y' = stackOf s y' := rfl
@[simp] theorem isFenced_writeCellar (v b : Nat) (bs : List Byte) (y' i' : Nat) : isFenced (writeCellar v b bs s) y' i' = isFenced s y' i' := rfl
@[simp] theorem extPort_writeCellar (v b : Nat) (bs : List Byte) (c' : Bool) : extPort (writeCellar v b bs s) c' = extPort s c' := rfl
@[simp] theorem guestOf_writeCellar (v b : Nat) (bs : List Byte) (c' : Bool) : guestOf (writeCellar v b bs s) c' = guestOf s c' := rfl

/-! ### putCmd -/

@[simp] theorem putCmd_pending (e : Cmd) : (putCmd e s).pending = s.pending := by unfold putCmd; split <;> rfl
@[simp] theorem putCmd_tick (e : Cmd) : (putCmd e s).tick = s.tick := by unfold putCmd; split <;> rfl
@[simp] theorem putCmd_mem (e : Cmd) : (putCmd e s).mem = s.mem := by unfold putCmd; split <;> rfl
@[simp] theorem putCmd_poison (e : Cmd) : (putCmd e s).poison = s.poison := by unfold putCmd; split <;> rfl
@[simp] theorem putCmd_cellar (e : Cmd) : (putCmd e s).cellar = s.cellar := by unfold putCmd; split <;> rfl
@[simp] theorem putCmd_cellarPoison (e : Cmd) : (putCmd e s).cellarPoison = s.cellarPoison := by unfold putCmd; split <;> rfl
@[simp] theorem putCmd_wbuf (e : Cmd) : (putCmd e s).wbuf = s.wbuf := by unfold putCmd; split <;> rfl
@[simp] theorem putCmd_regs (e : Cmd) : (putCmd e s).regs = s.regs := by unfold putCmd; split <;> rfl
@[simp] theorem putCmd_bell (e : Cmd) : (putCmd e s).bell = s.bell := by unfold putCmd; split <;> rfl
@[simp] theorem putCmd_jumped (e : Cmd) : (putCmd e s).jumped = s.jumped := by unfold putCmd; split <;> rfl
@[simp] theorem putCmd_queues (e : Cmd) : (putCmd e s).queues = s.queues := by unfold putCmd; split <;> rfl
@[simp] theorem putCmd_ctxs (e : Cmd) : (putCmd e s).ctxs = s.ctxs := by unfold putCmd; split <;> rfl
@[simp] theorem putCmd_parts (e : Cmd) : (putCmd e s).parts = s.parts := by unfold putCmd; split <;> rfl
@[simp] theorem putCmd_staged (e : Cmd) : (putCmd e s).staged = s.staged := by unfold putCmd; split <;> rfl
@[simp] theorem putCmd_segs (e : Cmd) : (putCmd e s).segs = s.segs := by unfold putCmd; split <;> rfl
@[simp] theorem putCmd_dpool (e : Cmd) : (putCmd e s).dpool = s.dpool := by unfold putCmd; split <;> rfl
@[simp] theorem putCmd_walks (e : Cmd) : (putCmd e s).walks = s.walks := by unfold putCmd; split <;> rfl
@[simp] theorem putCmd_tallies (e : Cmd) : (putCmd e s).tallies = s.tallies := by unfold putCmd; split <;> rfl
@[simp] theorem putCmd_waiters (e : Cmd) : (putCmd e s).waiters = s.waiters := by unfold putCmd; split <;> rfl
@[simp] theorem putCmd_cores (e : Cmd) : (putCmd e s).cores = s.cores := by unfold putCmd; split <;> rfl
@[simp] theorem putCmd_progs (e : Cmd) : (putCmd e s).progs = s.progs := by unfold putCmd; split <;> rfl
@[simp] theorem putCmd_partSets (e : Cmd) : (putCmd e s).partSets = s.partSets := by unfold putCmd; split <;> rfl
@[simp] theorem putCmd_stackDies (e : Cmd) : (putCmd e s).stackDies = s.stackDies := by unfold putCmd; split <;> rfl
@[simp] theorem putCmd_hc (e : Cmd) : (putCmd e s).hc = s.hc := by unfold putCmd; split <;> rfl
@[simp] theorem putCmd_fab (e : Cmd) : (putCmd e s).fab = s.fab := by unfold putCmd; split <;> rfl
@[simp] theorem putCmd_g0 (e : Cmd) : (putCmd e s).g0 = s.g0 := by unfold putCmd; split <;> rfl
@[simp] theorem putCmd_g1 (e : Cmd) : (putCmd e s).g1 = s.g1 := by unfold putCmd; split <;> rfl
@[simp] theorem putCmd_pA (e : Cmd) : (putCmd e s).pA = s.pA := by unfold putCmd; split <;> rfl
@[simp] theorem putCmd_pB (e : Cmd) : (putCmd e s).pB = s.pB := by unfold putCmd; split <;> rfl
@[simp] theorem putCmd_power (e : Cmd) : (putCmd e s).power = s.power := by unfold putCmd; split <;> rfl
@[simp] theorem putCmd_faults (e : Cmd) : (putCmd e s).faults = s.faults := by unfold putCmd; split <;> rfl
@[simp] theorem putCmd_mgmt (e : Cmd) : (putCmd e s).mgmt = s.mgmt := by unfold putCmd; split <;> rfl
@[simp] theorem putCmd_tray (e : Cmd) : (putCmd e s).tray = s.tray := by unfold putCmd; split <;> rfl
@[simp] theorem putCmd_chainGen (e : Cmd) : (putCmd e s).chainGen = s.chainGen := by unfold putCmd; split <;> rfl
@[simp] theorem putCmd_chainPosted (e : Cmd) : (putCmd e s).chainPosted = s.chainPosted := by unfold putCmd; split <;> rfl
@[simp] theorem putCmd_out (e : Cmd) : (putCmd e s).out = s.out := by unfold putCmd; split <;> rfl
@[simp] theorem putCmd_heldPort (e : Cmd) : (putCmd e s).heldPort = s.heldPort := by unfold putCmd; split <;> rfl
@[simp] theorem putCmd_turns (e : Cmd) : (putCmd e s).turns = s.turns := by unfold putCmd; split <;> rfl
@[simp] theorem putCmd_actionEnd (e : Cmd) : (putCmd e s).actionEnd = s.actionEnd := by unfold putCmd; split <;> rfl
@[simp] theorem putCmd_tallyEnd (e : Cmd) : (putCmd e s).tallyEnd = s.tallyEnd := by unfold putCmd; split <;> rfl
@[simp] theorem putCmd_upsets (e : Cmd) : (putCmd e s).upsets = s.upsets := by unfold putCmd; split <;> rfl
@[simp] theorem getReg_putCmd (e : Cmd) (r' : Nat) : getReg (putCmd e s) r' = getReg s r' := by unfold putCmd; split <;> rfl
@[simp] theorem getF_putCmd (e : Cmd) (r' : Nat) (g' : Fld) : getF (putCmd e s) r' g' = getF s r' g' := by unfold putCmd; split <;> rfl
@[simp] theorem memByte_putCmd (e : Cmd) (a' : Nat) : memByte (putCmd e s) a' = memByte s a' := by unfold putCmd; split <;> rfl
@[simp] theorem queueOf_putCmd (e : Cmd) (q' : Nat) : queueOf (putCmd e s) q' = queueOf s q' := by unfold putCmd; split <;> rfl
@[simp] theorem ctxOf_putCmd (e : Cmd) (x' : Nat) : ctxOf (putCmd e s) x' = ctxOf s x' := by unfold putCmd; split <;> rfl
@[simp] theorem partOf_putCmd (e : Cmd) (p' : Nat) : partOf (putCmd e s) p' = partOf s p' := by unfold putCmd; split <;> rfl
@[simp] theorem coreOf_putCmd (e : Cmd) (n' : Nat) : coreOf (putCmd e s) n' = coreOf s n' := by unfold putCmd; split <;> rfl
@[simp] theorem tallyOf_putCmd (e : Cmd) (j' i' : Nat) : tallyOf (putCmd e s) j' i' = tallyOf s j' i' := by unfold putCmd; split <;> rfl
@[simp] theorem progOf_putCmd (e : Cmd) (h' : Nat) : progOf (putCmd e s) h' = progOf s h' := by unfold putCmd; split <;> rfl
@[simp] theorem stackOf_putCmd (e : Cmd) (y' : Nat) : stackOf (putCmd e s) y' = stackOf s y' := by unfold putCmd; split <;> rfl
@[simp] theorem isFenced_putCmd (e : Cmd) (y' i' : Nat) : isFenced (putCmd e s) y' i' = isFenced s y' i' := by unfold putCmd; split <;> rfl
@[simp] theorem extPort_putCmd (e : Cmd) (c' : Bool) : extPort (putCmd e s) c' = extPort s c' := by unfold putCmd; split <;> rfl
@[simp] theorem guestOf_putCmd (e : Cmd) (c' : Bool) : guestOf (putCmd e s) c' = guestOf s c' := by unfold putCmd; split <;> rfl

end Sys2Proof.Machine
end

