-- ==== Sys2Proof/Laws/Commands.lean ====
section
/-! SUPPORT. The life of a command: what fixing its result does, and what every packet command meets before its own
effect. -/

namespace Sys2Proof.Machine

open Sys2Proof

@[simp] theorem isCmd_self_ref (e : Cmd) : isCmd e.ref e = true := by simp [isCmd]

theorem cmdOf_ref (s : State) (c : CmdRef) : isCmd c (cmdOf s c) = true := by
  unfold cmdOf
  split
  · rename_i e h
    exact List.find?_some h
  · simp [isCmd]

theorem isCmd_congr {c d : CmdRef} (q : d.queue = c.queue) (i : d.index = c.index) (e : Cmd) : isCmd d e = isCmd c e := by
  simp [isCmd, q, i]

theorem cmdOf_of_find {s : State} {c : CmdRef} {e : Cmd} (h : s.cmds.find? (isCmd c) = some e) : cmdOf s c = e := by
  unfold cmdOf
  rw [h]

/-- What the command table finds after an entry is put. -/
theorem find_putCmd (e : Cmd) (c : CmdRef) (s : State) (h : isCmd c e = true) :
    (putCmd e s).cmds.find? (isCmd c) = some e := by
  have hq : e.ref.queue = c.queue ∧ e.ref.index = c.index := by simpa [isCmd] using h
  have hf : ∀ x, isCmd e.ref x = isCmd c x := isCmd_congr hq.1 hq.2
  unfold putCmd
  split
  · rename_i ha
    show (List.map (fun x => if isCmd e.ref x = true then e else x) s.cmds).find? (isCmd c) = some e
    generalize s.cmds = l at ha
    induction l with
    | nil => simp at ha
    | cons y r ih =>
      simp only [List.map_cons, List.find?_cons]
      by_cases hy : isCmd e.ref y = true
      · rw [if_pos hy]; simp [h]
      · rw [if_neg hy]
        have : isCmd c y = false := by rw [← hf]; simpa using hy
        rw [this]
        simp only [List.any_cons, Bool.or_eq_true] at ha
        exact ih (ha.resolve_left hy)
  · rename_i ha
    show (s.cmds ++ [e]).find? (isCmd c) = some e
    rw [List.find?_append]
    have hn : s.cmds.find? (isCmd c) = none := by
      rw [List.find?_eq_none]
      intro x hx hc
      apply ha
      rw [List.any_eq_true]
      exact ⟨x, hx, by rw [hf]; exact hc⟩
    rw [hn]; simp [h]

/-- The entry of a command after it is put. -/
theorem cmdOf_putCmd (e : Cmd) (c : CmdRef) (s : State) (h : isCmd c e = true) : cmdOf (putCmd e s) c = e :=
  cmdOf_of_find (find_putCmd e c s h)

/-- What fixing a result does, where there was none. -/
theorem finishCode_fresh (c : CmdRef) (code detail : Nat) (s : State) (h : (cmdOf s c).result = none) :
    finishCode c code detail s = advance (putCmd { cmdOf s c with
      started := true, result := some (code, detail % 65536, bellNow s, subnsNow s, clockNow s), heard := [], descs := [] } s) := by
  unfold finishCode
  dsimp only
  rw [if_neg (by rw [h]; simp)]

/-- Fixing a result: nothing changes but the command table and the count of draws. -/
theorem finishCode_frame (c : CmdRef) (code detail : Nat) (s : State) :
    { finishCode c code detail s with cmds := s.cmds, tick := s.tick } = s := by
  unfold finishCode
  dsimp only
  split
  · rfl
  · unfold advance putCmd
    dsimp only
    split <;> rfl

/-- The result of a command that had none is fixed. -/
theorem finishCode_result (c : CmdRef) (code detail : Nat) (s : State) (h : (cmdOf s c).result = none) :
    (cmdOf (finishCode c code detail s) c).result = some (code, detail % 65536, bellNow s, subnsNow s, clockNow s) := by
  rw [finishCode_fresh c code detail s h]
  rw [cmdOf_of_find (e := { cmdOf s c with started := true, result := some (code, detail % 65536, bellNow s, subnsNow s, clockNow s), heard := [], descs := [] })]
  exact find_putCmd _ c s (by simpa [isCmd] using cmdOf_ref s c)

/-- A command that takes place reaches its own effect. -/
theorem runCmd_takesPlace {i : Instr} {c : CmdRef} {n : Bool} {s : State} (h : TakesPlace i c n s) (body : Cmd → State → State) :
    runCmd i c n s body = body (runEntry i c s) (markStarted i c s) := by
  unfold runCmd
  have h4 : ((ctxOf s c.ctx.toNat).state == CtxState.aborting) = false := by simpa using h.ctxAlive
  have h1 : mayStart s { cmdOf s c with instr := some i } = true := h.mayStart
  have h2 : (cmdOf s c).result = none := h.fresh
  have h6 : s.walks.any (walkFor s { cmdOf s c with instr := some i } i) = false := h.noWalk
  dsimp only at h1 h6 ⊢
  rw [if_neg (by rw [h1, h2, h.notInHand]; simp), if_neg (by rw [h4]; simp)]
  have hn : (if n = true then noCore s { cmdOf s c with instr := some i } else none) = none := by
    cases n with
    | false => rfl
    | true => exact h.core rfl
  have hc : (n && !coreTakesWork s (cmdOf s c).core) = false := by
    cases n with
    | false => rfl
    | true => simpa [runEntry] using h.coreOn rfl
  dsimp only at hn
  rw [hn]
  dsimp only
  rw [if_neg (by rw [hc]; simp), if_neg (by rw [h6]; simp)]
  rfl

/-- Marking a command as started: it keeps having no result. -/
theorem markStarted_result {i : Instr} {c : CmdRef} {s : State} (h : (cmdOf s c).result = none) :
    (cmdOf (markStarted i c s) c).result = none := by
  unfold markStarted
  rw [cmdOf_putCmd _ _ _ (by simpa [isCmd] using cmdOf_ref s c)]
  exact h

theorem markStarted_frame (i : Instr) (c : CmdRef) (s : State) : { markStarted i c s with cmds := s.cmds } = s := by
  unfold markStarted putCmd
  dsimp only
  split <;> rfl

/-! ### Commands at work -/

/-- An exchange of a command that neither has parked nor replays one is made with the machine and kept. -/
theorem Work.hear_now (w : Work) (f : Work → Work × Heard) (hp : w.parked = none) (hl : w.log = []) (h : (f w).1.parked = none) :
    w.hear f = ({ (f w).1 with heard := { (f w).2 with fail := if w.fail.isSome then none else (f w).1.fail } :: (f w).1.heard },
      { (f w).2 with fail := if w.fail.isSome then none else (f w).1.fail }) := by
  unfold Work.hear
  rw [hp, hl]
  simp [h]

/-- An exchange made before the command parked is not made again. -/
theorem Work.hear_again (w : Work) (f : Work → Work × Heard) (a : Heard) (r : List Heard) (hp : w.parked = none) (hl : w.log = a :: r) :
    w.hear f = ({ w with log := r, heard := a :: w.heard, fail := w.fail.orElse fun _ => a.fail }, a) := by
  unfold Work.hear
  rw [hp, hl]
  rfl

/-- A parked command makes no exchange. -/
theorem Work.hear_parked (w : Work) (f : Work → Work × Heard) (k : Nat) (hp : w.parked = some k) : w.hear f = (w, .ok) := by
  unfold Work.hear
  rw [hp]
  rfl

/-- Replaying an exchange leaves the machine alone. -/
theorem Work.hear_again_state (w : Work) (f : Work → Work × Heard) (a : Heard) (r : List Heard) (hl : w.log = a :: r) :
    (w.hear f).1.s = w.s := by
  cases hp : w.parked with
  | none => rw [w.hear_again f a r hp hl]
  | some k => rw [w.hear_parked f k hp]

end Sys2Proof.Machine
end

