-- ==== Sys2Proof/Laws/Maps.lean ====
section
/-! SUPPORT. Laws of sparse maps: a read after a write, what a write leaves alone, and the canonical form that every
write and every filter keeps, so that maps that read alike are equal. -/

namespace Sys2Proof

variable {α : Type} [DecidableEq α] {d : Nat → α}

theorem Assoc.wfFrom_mono {m : Assoc α} {lo hi : Nat} (h : lo ≤ hi) (w : Assoc.wfFrom d hi m = true) :
    Assoc.wfFrom d lo m = true := by
  cases m with
  | nil => rfl
  | cons e r =>
    simp only [Assoc.wfFrom, Bool.and_eq_true, decide_eq_true_eq] at w ⊢
    exact ⟨⟨by omega, w.1.2⟩, w.2⟩

/-- A key below the first listed one reads as the default. -/
theorem Assoc.get_below {m : Assoc α} {lo k : Nat} (w : Assoc.wfFrom d lo m = true) (h : k < lo) : Assoc.get d m k = d k := by
  cases m with
  | nil => rfl
  | cons e r =>
    simp only [Assoc.wfFrom, Bool.and_eq_true, decide_eq_true_eq] at w
    simp only [Assoc.get]
    rw [if_neg (by omega), if_pos (by omega)]

theorem Assoc.wfFrom_put {m : Assoc α} {lo k : Nat} {v : α} (h : lo ≤ k) (w : Assoc.wfFrom d lo m = true) :
    Assoc.wfFrom d lo (Assoc.put d m k v) = true := by
  induction m generalizing lo with
  | nil => unfold Assoc.put; split <;> simp_all [Assoc.wfFrom]
  | cons e r ih =>
    have w' := w
    simp only [Assoc.wfFrom, Bool.and_eq_true, decide_eq_true_eq] at w
    simp only [Assoc.put]
    split
    · rename_i hk; subst hk
      split
      · exact Assoc.wfFrom_mono (by omega) w.2
      · simp_all [Assoc.wfFrom]
    · split
      · split
        · exact w'
        · simp only [Assoc.wfFrom, Bool.and_eq_true, decide_eq_true_eq]
          exact ⟨⟨h, by assumption⟩, ⟨by omega, w.1.2⟩, w.2⟩
      · simp only [Assoc.wfFrom, Bool.and_eq_true, decide_eq_true_eq]
        exact ⟨w.1, ih (by omega) w.2⟩

/-- A write keeps the canonical form. -/
theorem Assoc.wf_put {m : Assoc α} {k : Nat} {v : α} (w : Assoc.wf d m = true) : Assoc.wf d (Assoc.put d m k v) = true :=
  Assoc.wfFrom_put (Nat.zero_le k) w

theorem Assoc.wfFrom_filter {m : Assoc α} {lo : Nat} (p : Nat × α → Bool) (w : Assoc.wfFrom d lo m = true) :
    Assoc.wfFrom d lo (m.filter p) = true := by
  induction m generalizing lo with
  | nil => rfl
  | cons e r ih =>
    simp only [Assoc.wfFrom, Bool.and_eq_true, decide_eq_true_eq] at w
    simp only [List.filter_cons]
    split
    · simp only [Assoc.wfFrom, Bool.and_eq_true, decide_eq_true_eq]; exact ⟨w.1, ih w.2⟩
    · exact Assoc.wfFrom_mono (by omega) (ih w.2)

/-- Dropping entries keeps the canonical form. -/
theorem Assoc.wf_filter {m : Assoc α} (p : Nat × α → Bool) (w : Assoc.wf d m = true) : Assoc.wf d (m.filter p) = true :=
  Assoc.wfFrom_filter p w

theorem Assoc.get_put_from {m : Assoc α} {lo k : Nat} {v : α} (w : Assoc.wfFrom d lo m = true) (j : Nat) :
    Assoc.get d (Assoc.put d m k v) j = if j = k then v else Assoc.get d m j := by
  induction m generalizing lo with
  | nil =>
    simp only [Assoc.put]
    split <;> rename_i hv
    · simp only [Assoc.get]; split <;> simp_all
    · simp only [Assoc.get]; split <;> simp_all
  | cons e r ih =>
    simp only [Assoc.wfFrom, Bool.and_eq_true, decide_eq_true_eq] at w
    simp only [Assoc.put]
    split
    · rename_i hk; subst hk
      split
      · rename_i hv
        by_cases hj : j = e.1
        · subst hj; rw [Assoc.get_below w.2 (by omega), if_pos rfl]; exact hv.symm
        · rw [if_neg hj]
          simp only [Assoc.get, if_neg hj]
          split
          · rw [Assoc.get_below w.2 (by omega)]
          · rfl
      · simp only [Assoc.get]; split <;> simp_all
    · rename_i hk
      split
      · rename_i hlt
        split
        · rename_i hv
          by_cases hj : j = k
          · subst hj; simp only [Assoc.get, if_neg hk, if_pos hlt, if_true, hv]
          · rw [if_neg hj]
        · by_cases hj : j = k
          · subst hj; simp [Assoc.get]
          · rw [if_neg hj]
            conv => lhs; simp only [Assoc.get, if_neg hj]
            split
            · simp only [Assoc.get]; rw [if_neg (by omega), if_pos (by omega)]
            · rfl
      · simp only [Assoc.get]
        by_cases hj : j = e.1
        · subst hj; simp only [if_true]; rw [if_neg (by omega)]
        · simp only [if_neg hj]
          split
          · rw [if_neg (by omega)]
          · exact ih w.2

/-- A read after a write gives the value written at its key, and what was there at every other. -/
theorem Assoc.get_put {m : Assoc α} {k : Nat} {v : α} (w : Assoc.wf d m = true) (j : Nat) :
    Assoc.get d (Assoc.put d m k v) j = if j = k then v else Assoc.get d m j := Assoc.get_put_from w j


theorem Assoc.ext_from {m n : Assoc α} {lo : Nat} (wm : Assoc.wfFrom d lo m = true) (wn : Assoc.wfFrom d lo n = true)
    (h : ∀ k, Assoc.get d m k = Assoc.get d n k) : m = n := by
  induction m generalizing n lo with
  | nil =>
    cases n with
    | nil => rfl
    | cons e r =>
      simp only [Assoc.wfFrom, Bool.and_eq_true, decide_eq_true_eq] at wn
      have := h e.1
      simp [Assoc.get] at this
      exact absurd this.symm wn.1.2
  | cons a r ih =>
    simp only [Assoc.wfFrom, Bool.and_eq_true, decide_eq_true_eq] at wm
    cases n with
    | nil =>
      have := h a.1
      simp [Assoc.get] at this
      exact absurd this wm.1.2
    | cons b q =>
      simp only [Assoc.wfFrom, Bool.and_eq_true, decide_eq_true_eq] at wn
      have hab : a.1 = b.1 := by
        rcases Nat.lt_trichotomy a.1 b.1 with l | l | l
        · have := h a.1
          simp only [Assoc.get, if_true] at this
          rw [if_neg (by omega), if_pos l] at this
          exact absurd this wm.1.2
        · exact l
        · have := h b.1
          simp only [Assoc.get, if_true] at this
          rw [if_neg (by omega), if_pos l] at this
          exact absurd this.symm wn.1.2
      have hv : a.2 = b.2 := by
        have := h a.1
        simp only [Assoc.get, if_true, hab] at this
        exact this
      have he : a = b := Prod.ext hab hv
      subst he
      rw [ih (lo := a.1 + 1) wm.2 wn.2]
      intro k
      by_cases hk : k ≤ a.1
      · rw [Assoc.get_below wm.2 (by omega), Assoc.get_below wn.2 (by omega)]
      · have := h k
        simp only [Assoc.get] at this
        rwa [if_neg (by omega), if_neg (by omega), if_neg (by omega), if_neg (by omega)] at this

/-- Maps in canonical form that read alike are equal. -/
theorem Assoc.ext_get {m n : Assoc α} (wm : Assoc.wf d m = true) (wn : Assoc.wf d n = true)
    (h : ∀ k, Assoc.get d m k = Assoc.get d n k) : m = n := Assoc.ext_from wm wn h

end Sys2Proof
end

