-- ==== Sys2Proof/Laws/Memory.lean ====
section
/-! SUPPORT. Laws of memory and of registers: reads after writes, what a store leaves alone, and the canonical form
that every memory and register operation keeps. -/

namespace Sys2Proof.Machine

open Sys2Proof

theorem wf_putBytes {d : Nat → Byte} (bs : List Byte) {m : List Host.Cell} {a : Nat} (w : Assoc.wf d m = true) :
    Assoc.wf d (putBytes d m a bs) = true := by
  induction bs generalizing m a with
  | nil => exact w
  | cons b r ih => exact ih (Assoc.wf_put w)

/-- A byte after a store: the stored one inside the range, what was there outside. -/
theorem get_putBytes {d : Nat → Byte} (bs : List Byte) {m : List Host.Cell} {a : Nat} (w : Assoc.wf d m = true) (x : Nat) :
    Assoc.get d (putBytes d m a bs) x =
      if a ≤ x ∧ x < a + bs.length then bs.getD (x - a) 0 else Assoc.get d m x := by
  induction bs generalizing m a with
  | nil =>
    have : ¬ (a ≤ x ∧ x < a + ([] : List Byte).length) := by simp only [List.length_nil]; omega
    rw [if_neg this]; rfl
  | cons b r ih =>
    simp only [putBytes, List.length_cons]
    rw [ih (Assoc.wf_put w), Assoc.get_put w]
    by_cases h1 : x = a
    · subst h1
      rw [if_neg (by omega), if_pos rfl, if_pos ⟨Nat.le_refl _, by omega⟩]
      simp
    · by_cases h2 : a + 1 ≤ x ∧ x < a + 1 + r.length
      · rw [if_pos h2, if_pos (by omega)]
        have : x - a = (x - (a + 1)) + 1 := by omega
        rw [this, List.getD_cons_succ]
      · rw [if_neg h2, if_neg h1, if_neg (by omega)]

@[simp] theorem restoreSector_mem (x : Nat) (s : State) : (restoreSector x s).mem = s.mem := by
  unfold restoreSector; dsimp only; split <;> rfl
@[simp] theorem restoreSector_regs (x : Nat) (s : State) : (restoreSector x s).regs = s.regs := by
  unfold restoreSector; dsimp only; split <;> rfl
@[simp] theorem restoreSector_cellar (x : Nat) (s : State) : (restoreSector x s).cellar = s.cellar := by
  unfold restoreSector; dsimp only; split <;> rfl
@[simp] theorem restoreSector_poison (x : Nat) (s : State) : (restoreSector x s).poison = s.poison := by
  unfold restoreSector; dsimp only; split <;> rfl

/-- All that noting restored sectors can change is the stacks. -/
theorem foldl_restore (l : List Nat) (s : State) :
    ∃ k, l.foldl (fun s x => restoreSector x s) s = { s with stackDies := k } := by
  induction l generalizing s with
  | nil => exact ⟨s.stackDies, rfl⟩
  | cons x r ih =>
    obtain ⟨k, hk⟩ := ih (restoreSector x s)
    have h : ∃ j, restoreSector x s = { s with stackDies := j } := by
      unfold restoreSector; dsimp only; split
      · exact ⟨_, rfl⟩
      · exact ⟨s.stackDies, rfl⟩
    obtain ⟨j, hj⟩ := h
    exact ⟨k, by rw [List.foldl_cons, hk, hj]⟩

/-- What a store to memory can do: the bytes, poison of sectors written whole, channels restored. -/
theorem writeMem_eq (a : Nat) (bs : List Byte) (s : State) :
    ∃ k, writeMem a bs s = { s with
      mem := putBytes memReset s.mem a bs
      poison := s.poison.filter fun x => !(wholeSectors a bs.length).contains x
      stackDies := k } := by
  unfold writeMem clearPoison
  obtain ⟨k, hk⟩ := foldl_restore (wholeSectors a bs.length)
    { { s with mem := putBytes memReset s.mem a bs } with
      poison := s.poison.filter fun x => !(wholeSectors a bs.length).contains x }
  exact ⟨k, hk⟩

/-- A byte read after a store to memory. -/
theorem memByte_writeMem {s : State} (w : Memory.wf s.mem = true) (a : Nat) (bs : List Byte) (x : Nat) :
    memByte (writeMem a bs s) x = if a ≤ x ∧ x < a + bs.length then bs.getD (x - a) 0 else memByte s x := by
  obtain ⟨k, hk⟩ := writeMem_eq a bs s
  rw [hk]
  exact get_putBytes bs w x

theorem getReg_setReg {s : State} (w : Assoc.wf regReset s.regs = true) (o v r : Nat) :
    getReg (setReg o v s) r = if r = o then v % 2 ^ 64 else getReg s r := by
  simp only [getReg, setReg]
  rw [Assoc.get_put w]
  split
  · simp [BitVec.toNat_ofNat]
  · rfl

/-! ### The canonical form is kept -/

theorem Canonical.of_eq {s t : State} (h : Canonical s) (m : t.mem = s.mem) (c : t.cellar = s.cellar) (r : t.regs = s.regs) :
    Canonical t := ⟨m ▸ h.mem, c ▸ h.cellar, r ▸ h.regs⟩

theorem Canonical.setReg {s : State} (h : Canonical s) (o v : Nat) : Canonical (setReg o v s) :=
  ⟨h.mem, h.cellar, Assoc.wf_put h.regs⟩

theorem Canonical.setF {s : State} (h : Canonical s) (o : Nat) (f : Fld) (v : Nat) : Canonical (setF o f v s) :=
  h.setReg _ _

theorem Canonical.incF {s : State} (h : Canonical s) (o : Nat) (f : Fld) (v : Nat) : Canonical (incF o f v s) :=
  h.setReg _ _

theorem Canonical.satF {s : State} (h : Canonical s) (o : Nat) (f : Fld) (v : Nat) : Canonical (satF o f v s) :=
  h.setReg _ _

theorem Canonical.writeMem {s : State} (h : Canonical s) (a : Nat) (bs : List Byte) : Canonical (writeMem a bs s) := by
  obtain ⟨k, hk⟩ := writeMem_eq a bs s
  rw [hk]
  exact ⟨wf_putBytes bs h.mem, h.cellar, h.regs⟩

theorem Canonical.writeCellar {s : State} (h : Canonical s) (v b : Nat) (bs : List Byte) : Canonical (writeCellar v b bs s) :=
  ⟨h.mem, wf_putBytes bs h.cellar, h.regs⟩

end Sys2Proof.Machine
end

