-- ==== Sys2Proof/Tests/Slice0.lean ====
section
/-! SUPPORT. Tests: ill-formed commands that the checks refuse, packets written out from the tables of the manual, its
worked examples, and for each statement a state and operands that meet its hypotheses. -/

namespace Sys2Proof.Tests

-- One declaration at a time: the tests' evaluations side by side need too much memory.
set_option Elab.async false
set_option exponentiation.threshold 600

open Sys2Proof Sys2Proof.Machine

/-! ### Ill-formed commands -/

def c0 : CmdRef := ⟨0, 0, 0⟩
def t0 : Tref := ⟨0, 0⟩
def t1 : Tref := ⟨1, 0⟩
def b0 : Bref := ⟨0, 0⟩
def b1 : Bref := ⟨1, 0⟩
def mm : MatmulP := ⟨t0, t0, t0, 0, 0, 1, 1, 1, .bf16, .default, none⟩
def row0 : RowP := ⟨t0, t0, 1, 1, 1, 0, .fp32, none, none⟩
def elem0 : ElemP := ⟨t0, t1, ⟨0, 0⟩, t0, 1, .add, .fp32, .fp32, .ties, none⟩

theorem test_ill_formed_context : wellFormed (.nop ⟨0, 0, 98304⟩) = false ∧ wellFormed (.contextAbort 98304) = false ∧
    wellFormed (.tierTimeout 0 1 0 (.cmd ⟨0, 0, 98304⟩)) = false ∧ wellFormed (.rungBoundExpiry (.context 98304)) = false ∧
    wellFormed (.allotDraw 0 0 3) = false := by decide

theorem test_ill_formed_movement : wellFormed (.copy c0 (.tiles t0 t0 0)) = false ∧
    wellFormed (.copy c0 (.raw b1 b0 1)) = false ∧ wellFormed (.zero c0 (.tiles t0 0 false none 0 0 0)) = false ∧
    wellFormed (.zero c0 (.tiles t0 1 false none 1 0 0)) = false ∧
    wellFormed (.zero c0 (.tiles t0 1 false (some .bf16) 0 1 0)) = false ∧
    wellFormed (.zero c0 (.tiles t0 1 false (some .acc128) 4 64 1024)) = false ∧
    wellFormed (.gather c0 ⟨b1, t0, 1⟩) = false ∧ wellFormed (.cellarRead c0 ⟨t0, 0, 0, 0⟩) = false ∧
    wellFormed (.queueMark c0 ⟨some (b1, 0)⟩) = false := by decide

theorem test_ill_formed_tensor : wellFormed (.matmul c0 { mm with mt := 0 }) = false ∧
    wellFormed (.matmul c0 { mm with anchor := .explicit 1024 }) = false ∧
    wellFormed (.matmul c0 { mm with anchor := .scanned b1 }) = false ∧
    wellFormed (.matmulAcc c0 ⟨{ mm with seed := some 0 }, t0⟩) = false ∧
    wellFormed (.anchorScan c0 ⟨t0, 0, 1, 1, none, 0, b0⟩) = false ∧
    wellFormed (.reduce c0 ⟨t0, t0, 0, 1, 1, .bf16, .default, none⟩) = false ∧
    wellFormed (.elementwise c0 { elem0 with vfmt := .int32 }) = false ∧
    wellFormed (.elementwise c0 { elem0 with rnd := .stochastic 0 }) = false ∧
    wellFormed (.elementwise c0 { elem0 with fmtOut := .acc128 }) = false := by decide

theorem test_ill_formed_functions : wellFormed (.func c0 ⟨t0, t0, 0, 0, 0, .fp32, none⟩) = false ∧
    wellFormed (.softmax c0 { row0 with n := 0 }) = false ∧ wellFormed (.softmax c0 { row0 with anchor := some 0 }) = false ∧
    wellFormed (.norm c0 ⟨row0, false, t0, 0xBF800000⟩) = false ∧ wellFormed (.rowstat c0 row0 0) = false ∧
    wellFormed (.rowstat c0 { row0 with set := 1 } 1) = false := by decide

theorem test_ill_formed_tallies : wellFormed (.tallyAdd c0 ⟨5, 0⟩ 0 1) = false ∧ wellFormed (.tallyAdd c0 ⟨4, 16384⟩ 0 1) = false ∧
    wellFormed (.tallySub c0 ⟨0, 0⟩ 5 1) = false ∧ wellFormed (.tallyWait c0 ⟨0, 0⟩ 0) = false ∧
    wellFormed (.signalRemote c0 ⟨0, 0⟩ 2 0 1) = false ∧ wellFormed (.signalHost c0 ⟨.seg b0, 0, 4, 0⟩) = false ∧
    wellFormed (.signalHostAdd c0 ⟨.port false 0, 0, 0, 0⟩) = false ∧ wellFormed (.signalHost c0 ⟨.seg b0, 0, 0, 3⟩) = false ∧ wellFormed (.waiterReoffer 5) = false := by decide

theorem test_ill_formed_administration : wellFormed (.epochStage c0 ⟨0, 0, t0, 0, 1⟩) = false ∧
    wellFormed (.ctxCreate c0 16 false 0) = false ∧ wellFormed (.segSet c0 16 0) = false ∧
    wellFormed (.partSetCaps c0 0 0 0 0 0 16) = false ∧ wellFormed (.partSetKey c0 0 false false 0) = false ∧
    wellFormed (.partSetVectors c0 0 0 0 4) = false ∧ wellFormed (.partSetTimeouts c0 0 0x1000000000000 0) = false ∧ wellFormed (.stepRun c0 ⟨0, 0, b1, 0⟩) = false ∧
    wellFormed (.dumpLedger c0 b1 0) = false := by decide

theorem test_ill_formed_events : wellFormed (.coreHold (.host 96 false) 0 true) = false ∧ wellFormed (.readShared 96 0) = false ∧
    wellFormed (.baseDieAtomic 0x018000000000 ⟨.add, true, 0⟩) = false ∧ wellFormed (.bellSourceValid 0) = false ∧
    wellFormed (.ctxPageStore 1 65 2 0) = false ∧ wellFormed (.stackFence 12) = false ∧
    wellFormed (.cellarWindowAccess 0 none) = false ∧ wellFormed (.laneSwap 0 8) = false ∧ wellFormed (.beat 44) = false ∧
    wellFormed (.guestRead false 0 0 65) = false ∧ wellFormed (.domainFence (.stack 12)) = false ∧
    wellFormed (.sparePatrol 0 68 0) = false ∧ wellFormed (.phaseFault 19 0 .driver) = false := by decide

theorem test_ill_formed_messages : wellFormed (.collMax ⟨0, 0, 0, 0, false, 0, 0⟩ ⟨0, 0, 0, 0⟩) = false ∧
    wellFormed (.collAdd ⟨0, 0, 0, 0, false, 0, 0⟩ ⟨0, 0, 0, 0, 0, false, false, []⟩) = false ∧
    wellFormed (.tallyOp ⟨0, 0, 0, 0, false, 0, 0⟩ .add ⟨0, 0⟩ 0 2) = false ∧
    wellFormed (.registerWrite .warden 0 3 0) = false ∧ wellFormed (.registerWrite .warden 0x4000000 8 0) = false ∧
    wellFormed (.remotePortAccess .warden 0 none 8) = false ∧ wellFormed (.dynamicAddressAssignment 0) = false := by decide

theorem test_ill_formed_lengths : wellFormed (.fabWrite ⟨0, 0, 0, 0, false, 0, 0⟩ ⟨0, 0, 0⟩ (List.replicate 4161 0) false) = false ∧
    wellFormed (.guestWrite false 0 0 (List.replicate 4097 0) false) = false := by
  simp only [wellFormed, List.length_replicate]; decide

/-! ### Packets, written byte by byte from Tables 09-3 to 09-20 -/

/-- A packet from its bytes: offset, number of bytes, value. -/
def packet (fs : List (Nat × Nat × Nat)) : Nat := (fs.map fun f => f.2.2 % 2 ^ (8 * f.2.1) * 2 ^ (8 * f.1)).sum

def dec (op : Nat) (fs : List (Nat × Nat × Nat)) : Option Instr := (decodeParams false c0 op (packet fs)).toOption

/-- Table 09-11: the PARAMS of the MATMUL of R283's example, byte by byte. -/
theorem test_decode_matmul :
    dec 0x0200 [(16, 6, 0x000000000282), (22, 6, 0x000000000003), (28, 6, 0x000000000644), (34, 3, 0x000008), (37, 3, 0x000002),
      (40, 2, 1), (42, 2, 8), (44, 2, 2), (46, 1, 0x03), (47, 1, 0x02), (48, 6, 0x000000000405)] =
    some (.matmul c0 ⟨⟨40, 2⟩, ⟨0, 3⟩, ⟨100, 4⟩, 8, 2, 1, 8, 2, .bf16, .scanned ⟨0x40, 5⟩, none⟩) := by decide

theorem test_decode_queue_control :
    dec 0 [] = some (.nop c0) ∧
    dec 1 [(16, 1, 1), (20, 6, 0x85), (32, 8, 0x1122334455667788)] = some (.queueMark c0 ⟨some (⟨8, 5⟩, 0x1122334455667788)⟩) ∧
    dec 2 [(16, 1, 1), (18, 2, 0x1234)] = some (.fence c0 (.module 0x1234)) ∧
    dec 2 [(16, 1, 4)] = some (.fence c0 .onModule) ∧ dec 2 [(16, 1, 5)] = none ∧ dec 0 [(63, 1, 1)] = none := by decide

theorem test_decode_movement :
    dec 0x0100 [(16, 6, 0x12), (22, 6, 0x23), (28, 4, 7)] = some (.copy c0 (.tiles ⟨1, 2⟩ ⟨2, 3⟩ 7)) ∧
    dec 0x0100 [(16, 6, 0x402), (22, 6, 0x803), (28, 4, 7), (32, 1, 1)] = some (.copy c0 (.raw ⟨64, 2⟩ ⟨128, 3⟩ 7)) ∧
    dec 0x0101 [(16, 6, 0x81), (22, 6, 0x23), (28, 4, 2)] = some (.gather c0 ⟨⟨8, 1⟩, ⟨2, 3⟩, 2⟩) ∧
    dec 0x0102 [(16, 6, 0x81), (22, 6, 0x23), (28, 4, 2)] = some (.scatter c0 ⟨⟨8, 1⟩, ⟨2, 3⟩, 2⟩) ∧
    dec 0x0103 [(16, 6, 0x31), (28, 4, 1), (32, 1, 2), (33, 1, 0x0A), (34, 2, 64), (36, 2, 4), (38, 2, 0xFFFF)] =
      some (.zero c0 (.tiles ⟨3, 1⟩ 1 true (some .acc128) 64 4 0xFFFF)) ∧
    dec 0x0104 [(16, 6, 0x31), (28, 4, 1), (32, 1, 9), (34, 6, 0x123456789ABC)] = some (.cellarRead c0 ⟨⟨3, 1⟩, 1, 9, 0x123456789ABC⟩) ∧
    dec 0x0105 [(16, 6, 0x31), (28, 4, 1), (32, 1, 9), (34, 6, 5)] = some (.cellarWrite c0 ⟨⟨3, 1⟩, 1, 9, 5⟩) := by decide

theorem test_decode_tensor :
    dec 0x0201 [(16, 6, 0x10), (22, 6, 0x21), (28, 6, 0x32), (40, 2, 1), (42, 2, 1), (44, 2, 1), (46, 1, 0x0A), (47, 1, 1),
      (48, 2, 0xFC00), (56, 6, 0x43)] = some (.matmulAcc c0 ⟨⟨⟨1, 0⟩, ⟨2, 1⟩, ⟨3, 2⟩, 0, 0, 1, 1, 1, .acc128, .explicit 0xFC00, none⟩, ⟨4, 3⟩⟩) ∧
    dec 0x0202 [(16, 6, 0x10), (22, 6, 0x21), (28, 3, 8), (31, 3, 9), (34, 2, 1), (36, 2, 2), (38, 2, 3), (40, 2, 4), (42, 8, 512),
      (50, 6, 0x405)] = some (.anchorScan c0 ⟨⟨1, 0⟩, 8, 1, 2, some (⟨2, 1⟩, 9, 3, 4), 512, ⟨0x40, 5⟩⟩) ∧
    dec 0x0203 [(16, 6, 0x10), (22, 6, 0x21), (28, 4, 5), (32, 4, 6), (36, 2, 2), (38, 1, 0x02), (39, 1, 4), (56, 8, 9)] =
      some (.reduce c0 ⟨⟨1, 0⟩, ⟨2, 1⟩, 5, 6, 2, .fp32, .default, some 9⟩) ∧
    dec 0x0204 [(16, 6, 0x10), (28, 6, 0), (40, 6, 0x21), (46, 4, 3), (50, 1, 0x01), (51, 1, 0x02), (52, 1, 0x03), (53, 1, 0x08),
      (56, 8, 0x3F800000)] = some (.elementwise c0 ⟨⟨1, 0⟩, ⟨0, 0⟩, ⟨0, 0⟩, ⟨2, 1⟩, 3, .add, .fp32, .bf16, .ties, some 0x3F800000⟩) := by
  decide

theorem test_decode_functions :
    dec 0x0300 [(16, 6, 0x10), (22, 6, 0x21), (28, 4, 3), (32, 4, 0x00010000), (36, 1, 5), (37, 1, 0x03)] =
      some (.func c0 ⟨⟨1, 0⟩, ⟨2, 1⟩, 3, 0x00010000, 5, .bf16, none⟩) ∧
    dec 0x0301 [(16, 6, 0x10), (22, 6, 0x21), (28, 2, 1), (30, 2, 2), (32, 4, 100), (36, 4, 1), (40, 1, 0x02)] =
      some (.softmax c0 ⟨⟨1, 0⟩, ⟨2, 1⟩, 1, 2, 100, 1, .fp32, none, none⟩) ∧
    dec 0x0302 [(16, 6, 0x10), (22, 6, 0x21), (28, 2, 1), (30, 2, 2), (32, 4, 100), (36, 4, 1), (40, 1, 0x02), (41, 1, 0x09),
      (42, 2, 7), (44, 6, 0x32), (50, 4, 0x3727C5AC)] =
      some (.norm c0 ⟨⟨⟨1, 0⟩, ⟨2, 1⟩, 1, 2, 100, 1, .fp32, some 7, none⟩, true, ⟨3, 2⟩, 0x3727C5AC⟩) ∧
    dec 0x0303 [(16, 6, 0x10), (22, 6, 0x21), (28, 2, 1), (30, 2, 2), (32, 4, 100), (40, 1, 0x02), (54, 1, 3)] =
      some (.rowstat c0 ⟨⟨1, 0⟩, ⟨2, 1⟩, 1, 2, 100, 0, .fp32, none, none⟩ 3) ∧
    dec 0x0304 [(16, 6, 0x405), (24, 4, 4096)] = some (.microprogLoad c0 ⟨0x40, 5⟩ 4096) ∧
    dec 0x0304 [(28, 1, 1), (32, 4, 77)] = some (.microprogUnload c0 77) := by decide

theorem test_decode_signals :
    dec 0x0400 [(16, 4, 0x00040A41), (21, 1, 2), (24, 8, 1)] = some (.tallyAdd c0 ⟨4, 0x0A41⟩ 2 1) ∧
    dec 0x0400 [(16, 4, 0x0A41), (20, 1, 1), (24, 8, 1)] = some (.tallySub c0 ⟨0, 0x0A41⟩ 0 1) ∧
    dec 0x0401 [(16, 4, 0x0A41), (24, 8, 9)] = some (.tallyWait c0 ⟨0, 0x0A41⟩ 9) ∧
    dec 0x0402 [(16, 4, 0x0A41), (24, 8, 9)] = some (.tallyTake c0 ⟨0, 0x0A41⟩ 9) ∧
    dec 0x0403 [(16, 4, 0x0A41), (21, 1, 4), (22, 2, 7), (24, 8, 9)] = some (.signalRemote c0 ⟨0, 0x0A41⟩ 4 7 9) ∧
    dec 0x0404 [(16, 6, 0x85), (24, 8, 3), (33, 1, 1), (34, 2, 5)] = some (.signalHost c0 ⟨.seg ⟨8, 5⟩, 3, 1, 5⟩) ∧
    dec 0x0404 [(16, 8, 0x1000), (24, 8, 3), (32, 1, 2)] = some (.signalHost c0 ⟨.port true 0x1000, 3, 0, 0⟩) ∧
    dec 0x0404 [(16, 6, 0x85), (24, 8, 3), (36, 1, 1)] = some (.signalHostAdd c0 ⟨.seg ⟨8, 5⟩, 3, 0, 0⟩) := by decide

theorem test_decode_epochs :
    dec 0x0500 [(16, 2, 9), (18, 1, 2), (20, 6, 0x31), (28, 4, 42), (32, 4, 100)] = some (.epochStage c0 ⟨9, 2, ⟨3, 1⟩, 42, 100⟩) ∧
    dec 0x0501 [(16, 2, 9), (18, 1, 1), (24, 8, 0x1122334455667788)] = some (.epochCommit c0 9 1 0x1122334455667788) ∧
    dec 0x0501 [(16, 2, 9), (18, 1, 1), (19, 1, 1)] = some (.epochCommitParish c0 9 1 0) ∧
    dec 0x0502 [(16, 2, 9), (18, 1, 0xFF)] = some (.epochPin c0 9 0xFF) ∧
    dec 0x0503 [(16, 2, 9), (18, 1, 1)] = some (.epochUnpin c0 9 1) := by decide

theorem test_decode_administration :
    dec 0x0600 [(16, 1, 3), (17, 1, 1), (24, 8, 0x1000)] = some (.ctxCreate c0 3 true 0x1000) ∧
    dec 0x0601 [(16, 1, 1)] = some (.ctxDestroyAbortOnly c0) ∧ dec 0x0601 [] = some (.ctxDestroy c0) ∧
    dec 0x0602 [(16, 1, 15), (24, 32, 0xABCD)] = some (.segSet c0 15 0xABCD) ∧
    dec 0x0603 [(16, 1, 1), (17, 1, 4)] = some (.segInvalidate c0 (some 4)) ∧
    dec 0x0604 [(16, 4, 1), (20, 4, 2), (24, 4, 3), (28, 4, 4), (32, 1, 1)] = some (.allotSet c0 ⟨1, 2, 3, 4, true⟩) ∧
    dec 0x0605 [(16, 1, 2), (17, 1, 1), (24, 32, 0xFF)] = some (.partSetCores c0 2 0xFF) ∧
    dec 0x0605 [(16, 1, 2), (17, 1, 8), (24, 1, 4), (25, 1, 1), (26, 2, 7)] = some (.partSetTalliesRevoke c0 2 4 7 0) ∧
    dec 0x0605 [(16, 1, 2), (17, 1, 9)] = none := by decide

theorem test_decode_programs :
    dec 0x0700 [(16, 2, 9), (20, 6, 0x405), (28, 4, 1024)] = some (.stepLoad c0 9 ⟨0x40, 5⟩ 1024) ∧
    dec 0x0700 [(16, 2, 9), (18, 1, 1)] = some (.stepUnload c0 9) ∧
    dec 0x0701 [(16, 2, 9), (18, 1, 0xFF), (20, 6, 0x85), (26, 2, 3)] = some (.stepRun c0 ⟨9, 0xFF, ⟨8, 5⟩, 3⟩) ∧
    dec 0x0F00 [(16, 1, 2), (20, 32, 0xF0)] = some (.selftestLoopback c0 0xF0) ∧
    dec 0x0F00 [(16, 1, 1), (20, 32, 0xF0)] = some (.selftestPatrol c0 0xF0) ∧
    dec 0x0F01 [(16, 1, 1), (17, 1, 70), (20, 6, 0x405), (28, 4, 64)] = some (.dumpCoreRegs c0 70 ⟨0x40, 5⟩ 64) ∧
    dec 0x0F01 [(16, 1, 3), (20, 6, 0x405), (28, 4, 64)] = some (.dumpLedger c0 ⟨0x40, 5⟩ 64) := by decide

/-! ### Worked examples of the manual -/

set_option maxRecDepth 20000 in
/-- R52: the code over "123456789". -/
theorem test_crc : crc32c [0x31, 0x32, 0x33, 0x34, 0x35, 0x36, 0x37, 0x38, 0x39] = 0xE3069283 := by decide

/-- The example of R40: an MXFP4_E2M1 block holding 5.2 (here 5.25), −0.7 (−0.75), 0.3 (0.25) and 11. -/
theorem test_mx_block :
    (Fmt.mxE2m1.writeBlock [.ties, .ties, .ties, .ties] [.fin false 21 (-2), .fin true 11 (-4), .fin false 5 (-4), .fin false 11 0]).1
      = 0x80 ∧
    ((Fmt.mxE2m1.writeBlock [.ties, .ties, .ties, .ties] [.fin false 21 (-2), .fin true 11 (-4), .fin false 5 (-4), .fin false 11 0]).2.map
      (·.bits)) = [5, 9, 0, 7] := by decide

/-- The example of R45: element (10, 40) of a tile of 62 × 64 has index 680. -/
theorem test_element_index : elemIndex false 62 64 10 40 = 680 := by decide

/-- Table 04-2a: the contributions at A = 63, their sum, and its drain to BF16. -/
theorem test_contributions :
    (productContrib 63 (.fin false 3 49) (.fin false 1 10)).ints = [3 * 2 ^ 122] ∧
    productContrib 63 (.fin true 5 (-42)) (.fin false 3 (-41)) = ⟨[-1], true, .finite⟩ ∧
    productContrib 63 (.fin true 1 0) (.fin false 3 (-2)) = ⟨[-3 * 2 ^ 61], false, .finite⟩ ∧
    (Fmt.bf16.roundPlain .ties (Acc.val 63 ⟨BitVec.ofInt 128 (3 * 2 ^ 122 - 3 * 2 ^ 61 - 1), .finite⟩)).bits = 0x5DC0 := by decide

/-- Table 04-8: the dot product of the E4M3 codes shown, in either division, drains to 0x4094. -/
theorem test_anchored_dot :
    let row := [0x7E, 0x45, 0xFE, 0x20, 0x3C, 0xAC, 0x5A, 0xDA].map fun b => (⟨Fmt.decodeElem .e4m3 b, some 0⟩ : MElem)
    let col := [0x38, 0x38, 0x38, 0x40, 0x38, 0x38, 0x30, 0x30].map fun b => (⟨Fmt.decodeElem .e4m3 b, some 0⟩ : MElem)
    (Acc.zero.add (dotContrib 13 .e4m3 .e4m3 row col)).1.int.toInt = 37 * 2 ^ 110 ∧
    (Fmt.bf16.roundPlain .ties (Acc.val 13 (Acc.zero.add (dotContrib 13 .e4m3 .e4m3 row col)).1)).bits = 0x4094 := by decide

/-- Table 04-2b: the six passes of one FP32 product, drained to FP32. -/
theorem test_fp32_passes :
    let a : Val := .fin false (2 ^ 23 + 2 ^ 22 + 2 ^ 15 + 2 ^ 13 + 2 ^ 7 + 2 ^ 3 + 1) (-23)
    let b : Val := .fin false (3 * 2 ^ 21 + 1) (-21)
    (Fmt.fp32.roundPlain .ties (Acc.val 2 (Acc.zero.add (fp32Contrib 2 a b)).1)).bits = 0x40907868 := by decide

/-- The example of R283: the anchor of the scope and its result word. -/
theorem test_scan_word : AnchorScan.word ⟨8 + 1 + 1 + clog2 512, 8, 1, clog2 512, false, false⟩ = 0x0009000100080013 := by decide

/-- The examples of R362 and R363. The address that R363's example shows does not give the block number it shows; the address
that gives it is used (log 40). -/
theorem test_stack_places : stackPlace 8 0x000040028000 = (2, 0x15562000) ∧ stackPlace 8 0x00C012340000 = (0, 0x1001845000) := by
  decide

/-- The example of R185. -/
theorem test_cache_set : coreSet (0x020000040000 / 64) = 264 := by decide

/-- The last line of Table 13-5: the stray add fails with detail word 0x3A40. -/
theorem test_pair_add : addFault 1 0x0A40 1 1 ⟨5, 0xFFFFFFFFFFFFFFFF, BitVec.ofNat 64 (1 + 4 * 2 ^ 32), .noRec⟩ = some (0x0401, 0x3A40) ∧
    addFault 1 0x0A40 1 1 ⟨4, 0xFFFFFFFFFFFFFFFF, BitVec.ofNat 64 (1 + 4 * 2 ^ 32), .noRec⟩ = none := by decide

/-- Table 12-2: signed and unsigned minimum of −1 and 1. -/
theorem test_atomics : (atApply ⟨.smin, true, 1⟩ 0xFFFFFFFFFFFFFFFF).1 = 0xFFFFFFFFFFFFFFFF ∧
    (atApply ⟨.umin, true, 1⟩ 0xFFFFFFFFFFFFFFFF).1 = 1 ∧ (atApply ⟨.add, false, 1⟩ 0xFFFFFFFF).1 = 0 := by decide

/-- Reset values of registers (Tables 10-9, 12-7, 20-10, R637). -/
theorem test_reset_values : getReg State.reset (RUNG_CFG 2) = 0x003C0003 ∧ getReg State.reset 0 = regReset 0 := by decide

/-! ### Witnesses: for each statement with hypotheses, states and operands that meet them -/

set_option maxRecDepth 100000

/-- `TakesPlace` as a test. -/
def takes (i : Instr) (c : CmdRef) (needsCore : Bool) (s : State) : Bool :=
  mayStart s (runEntry i c s) && (cmdOf s c).result.isNone && !inHand s c && (ctxOf s c.ctx.toNat).state != .aborting &&
  (!needsCore || ((noCore s (runEntry i c s)).isNone && coreTakesWork s (runEntry i c s).core)) &&
  !s.walks.any (walkFor s (runEntry i c s) i)

theorem takes_place {i : Instr} {c : CmdRef} {n : Bool} {s : State} (h : takes i c n s = true) : TakesPlace i c n s := by
  simp only [takes, Bool.and_eq_true, Option.isNone_iff_eq_none, Bool.not_eq_true', Bool.or_eq_true, bne_iff_ne] at h
  obtain ⟨⟨⟨⟨⟨h1, h2⟩, h3⟩, h4⟩, h5⟩, h6⟩ := h
  exact ⟨h1, h2, h3, h4, fun hn => (h5.resolve_left (by simp [hn])).1, fun hn => (h5.resolve_left (by simp [hn])).2, h6⟩

/-- Command 0 of queue 0 in context 1, fetched in NORMAL, with core 0. -/
def c1 : CmdRef := ⟨0, 0, 1⟩
def entry (c : CmdRef) : Cmd := ⟨c, false, false, none, 1, 0, 0, false, none, [], []⟩
def big : Budget := ⟨1000, 100000, 100000, 0, 100000, [], []⟩

/-- A context with allotments, whose segment 0 is the near segment of R340's example: 128 MiB at 0x4000_0000. -/
def ctx1 : Ctx := { Ctx.free with state := .active, segTable := 0x1000, engine := big, stack := big, fabric := big, host := big }
def cells (a : Nat) (bs : List Nat) : List Host.Cell := (bs.zipIdx.filter (·.1 != 0)).map fun x => (a + x.2, BitVec.ofNat 8 x.1)
def seg0 : List Host.Cell := cells 0x1000 [0, 0, 0, 0x40, 0, 0, 0, 0, 0x40, 0, 0, 0, 2, 15, 1]
def run1 : State := { State.reset with cmds := [entry c1], ctxs := [(1, ctx1)], mem := seg0 }

/-- Headers of sealed tiles of one zero element: FP32 in tiles 0 and 1, E4M3 in 2 and 3 of segment 0. -/
def oneTile (i : Nat) (h : List Nat) : List Host.Cell := cells (0x40000000 + 0x7E00000 + 64 * i) h
def fp32Hdr : List Nat := [2, 0, 1, 0, 1, 0, 0, 128, 2] ++ List.replicate 47 0 ++ [182, 211, 18, 234]
def e4m3Hdr : List Nat := [5, 0, 1, 0, 1, 0, 0, 128, 2] ++ List.replicate 47 0 ++ [77, 89, 210, 63]
def run2 : State := { run1 with mem := seg0 ++ oneTile 0 fp32Hdr ++ oneTile 1 fp32Hdr ++ oneTile 2 e4m3Hdr ++ oneTile 3 e4m3Hdr }

theorem witness_StepRunsTheFrontCommand : State.reset.pending = [] := rfl

theorem witness_StepsKeepCanonicalForm : Canonical State.reset ∧ ∃ t, Machine.step State.reset = .next t :=
  ⟨⟨by decide, by decide, by decide⟩, _, rfl⟩

theorem witness_PacketEncodingRoundTrips : wellFormed (.matmul c1 mm) = true ∧ encodePacket (.matmul c1 mm) ≠ none ∧
    wellFormed (.partSetTalliesRevoke c1 15 4 16383 0) = true ∧ encodePacket (.partSetTalliesRevoke c1 15 4 16383 0) ≠ none := by
  decide +kernel

theorem witness_DecodedPacketsAreWellFormed : opcodeDefined 0x0402 = true ∧ c1.wf = true ∧
    dec 0x0402 [(16, 4, 0x43FFF), (24, 8, 9)] = some (.tallyTake c0 ⟨4, 0x3FFF⟩ 9) := by decide +kernel

theorem witness_QueueControlCommandsComplete : TakesPlace (.nop c1) c1 false run1 ∧
    TakesPlace (.queueMark c1 ⟨none⟩) c1 false run1 ∧ markReady (markStarted (.queueMark c1 ⟨none⟩) c1 run1) c1 = true ∧
    TakesPlace (.fence c1 .all) c1 false run1 ∧ fenceReady (markStarted (.fence c1 .all) c1 run1) 0 .all = true ∧
    (queueOf run1 0).hostLost = false :=
  ⟨takes_place (by decide +kernel), takes_place (by decide +kernel), by decide +kernel, takes_place (by decide +kernel),
    by decide +kernel, by decide +kernel⟩

def mark1 : Instr := .queueMark c1 ⟨some (b0, 7)⟩

theorem witness_QueueMarkStores : TakesPlace mark1 c1 false run1 ∧ markReady (markStarted mark1 c1 run1) c1 = true ∧
    ((Work.start c1 (cmdOf (markStarted mark1 c1 run1) c1).core (markStarted mark1 c1 run1)).bytesRef 10 b0 8 rtWrite).1.fail = none ∧
    (let w := (Work.start c1 (cmdOf (markStarted mark1 c1 run1) c1).core (markStarted mark1 c1 run1)).bytesRef 10 b0 8 rtWrite
     placeHeld w.1.s (placeOf w.1.s w.2 0) = false ∧ placeFault w.1.s true 10 0 (placeOf w.1.s w.2 0) = none) ∧
    (cmdOf (markStarted mark1 c1 run1) c1).heard = [] :=
  ⟨takes_place (by decide +kernel), by decide +kernel, by decide +kernel, by decide +kernel, by decide +kernel⟩

def rawCopy : CopyP := .raw b0 ⟨64, 0⟩ 1

theorem witness_MovementCommandsComplete :
    TakesPlace (.copy c1 rawCopy) c1 true run1 ∧
    (copyWork c1 rawCopy (runEntry (.copy c1 rawCopy) c1 run1) (markStarted (.copy c1 rawCopy) c1 run1)).failed = false ∧
    TakesPlace (.zero c1 (.raw b0 1)) c1 true run1 ∧
    (zeroWork c1 (.raw b0 1) (runEntry (.zero c1 (.raw b0 1)) c1 run1) (markStarted (.zero c1 (.raw b0 1)) c1 run1)).failed = false :=
  ⟨takes_place (by decide +kernel), by decide +kernel, takes_place (by decide +kernel), by decide +kernel⟩

/-- The traffic allotment is spent, but for two units: a ZERO of three started 4 KiB parks on class 2 (R316). -/
def spent1 : State := { run1 with ctxs := [(1, { ctx1 with stack := { big with pool := 2 } })] }

theorem witness_ACommandParks : TakesPlace (.zero c1 (.raw b0 130)) c1 true spent1 ∧
    (let w := zeroWork c1 (.raw b0 130) (runEntry (.zero c1 (.raw b0 130)) c1 spent1) (markStarted (.zero c1 (.raw b0 130)) c1 spent1)
     w.parked = some 2 ∧ (ctxOf w.park 1).parked = [1] ∧ (cmdOf w.park c1).result = none) :=
  ⟨takes_place (by decide +kernel), by decide +kernel⟩

def gather1 : IdxP := ⟨⟨0x40000, 0⟩, ⟨9, 0⟩, 1⟩

theorem witness_MovementOfTiles : TakesPlace (.gather c1 gather1) c1 true run2 ∧
    (gatherWork c1 gather1 (runEntry (.gather c1 gather1) c1 run2) (markStarted (.gather c1 gather1) c1 run2)).failed = false :=
  ⟨takes_place (by decide +kernel), by decide +kernel⟩

def work1 : Work := Work.start c1 0 run1
def seg1 : Seg := (work1.bytesRef 0 b0 64 rtRead).2

theorem witness_RawCommandsStoreInTheirRange : 1 ≤ seg1.cls ∧ seg1.cls ≤ clsDdr ∧ Memory.wf work1.s.mem = true ∧ 1 % 64 ≠ 0 ∧ work1.fail = none ∧ work1.parked = none ∧ work1.log = [] ∧
    placeOf work1.s seg1 (b0.off.toNat + 64 * 1) = .mem 0x40000040 none ∧
    placeOf work1.s seg1 ((⟨4096, 0⟩ : Bref).off.toNat + 64 * 1) = .mem 0x40001040 none ∧
    placeFault work1.s false 0 0 (.mem 0x40000040 none) = none ∧ placeFault work1.s true 8 0 (.mem 0x40001040 none) = none ∧
    placePoison work1.s (.mem 0x40000040 none) 64 = false ∧ placeHeld work1.s (.mem 0x40000040 none) = false ∧
    placeHeld work1.s (.mem 0x40001040 none) = false := by decide +kernel

theorem witness_TileStoreSealsItsGeneration : Memory.wf work1.s.mem = true ∧ work1.fail = none ∧ work1.parked = none ∧ work1.log = [] ∧
    (List.replicate 4096 (0 : Byte)).length = 4096 ∧ 0x40000000 + 4096 ≤ 0x47E00000 ∧
    placeFault work1.s true 8 0 (.mem 0x40000000 none) = none ∧ placeFault work1.s true 8 0 (.mem 0x47E00000 none) = none ∧
    placeHeld work1.s (.mem 0x40000000 none) = false ∧ placeHeld work1.s (.mem 0x47E00000 none) = false ∧
    transferUpset { work1.s with upsets := [.transfer 1 true] } (.mem 0x40000000 none) = some (1, true) ∧
    transferUpset { work1.s with upsets := [.transfer 1 false] } (.mem 0x40000000 none) = some (1, false) := by
  refine ⟨?_, ?_, ?_, ?_, List.length_replicate, ?_, ?_, ?_, ?_, ?_, ?_, ?_⟩ <;> decide +kernel

def matmul1 : MatmulP := ⟨⟨2, 0⟩, ⟨3, 0⟩, ⟨9, 0⟩, 0, 0, 1, 1, 1, .fp32, .default, none⟩
def scan1 : ScanP := ⟨⟨2, 0⟩, 0, 1, 1, some (⟨3, 0⟩, 0, 1, 1), 1, b0⟩

theorem witness_TensorCommandsComplete : TakesPlace (.matmul c1 matmul1) c1 true run2 ∧
    (matmulWork c1 matmul1 none (runEntry (.matmul c1 matmul1) c1 run2) (markStarted (.matmul c1 matmul1) c1 run2)).failed = false ∧
    TakesPlace (.anchorScan c1 scan1) c1 true run2 ∧
    (scanWork c1 scan1 (runEntry (.anchorScan c1 scan1) c1 run2) (markStarted (.anchorScan c1 scan1) c1 run2)).failed = false :=
  ⟨takes_place (by decide +kernel), by decide +kernel, takes_place (by decide +kernel), by decide +kernel⟩

def func1 : FuncP := ⟨⟨0, 0⟩, ⟨9, 0⟩, 1, 0x00010100, 1, .fp32, none⟩

theorem witness_FunctionCommandsComplete : TakesPlace (.func c1 func1) c1 true run2 ∧
    setFor (markStarted (.func c1 func1) c1 run2) (runEntry (.func c1 func1) c1 run2) 0x00010100 = .ready (shippedSet setStandard) ∧
    (funcWork c1 func1 (shippedSet setStandard) (runEntry (.func c1 func1) c1 run2) (markStarted (.func c1 func1) c1 run2)).failed = false ∧
    TakesPlace (.microprogUnload c1 77) c1 true { run1 with partSets := [(0, ⟨77, 1, 1, [], [], []⟩)] } ∧ isShipped 77 = false :=
  ⟨takes_place (by decide +kernel), rfl, by decide +kernel, takes_place (by decide +kernel), by decide⟩

def tally1 (n b : Nat) (attr : Nat) : State := { run1 with
  parts := [(0, { Part.reset 0 with grants := [⟨0, 0, 100⟩] })]
  tallies := [(7, ⟨BitVec.ofNat 64 n, BitVec.ofNat 64 b, BitVec.ofNat 64 attr, .noRec⟩)] }

/-- ADD to the bound, SUB to 0, WAIT and TAKE of the whole count. -/
theorem witness_TallyCommandsTakeEffect :
    TakesPlace (.tallyAdd c1 ⟨0, 7⟩ 2 5) c1 true (tally1 5 10 0) ∧ tallyFault (tally1 5 10 0) c1 ⟨0, 7⟩ = none ∧
    addFault 0 7 5 0 (tallyOf (tally1 5 10 0) 0 7) = none ∧
    TakesPlace (.tallySub c1 ⟨0, 7⟩ 2 5) c1 true (tally1 5 10 0) ∧ taPair (tallyOf (tally1 5 10 0) 0 7).attr.toNat = false ∧
    TakesPlace (.tallyWait c1 ⟨0, 7⟩ 10) c1 true (tally1 5 10 0) ∧ (10 : Nat) ≤ (tallyOf (tally1 5 10 0) 0 7).bound.toNat ∧
    TakesPlace (.tallyTake c1 ⟨0, 7⟩ 5) c1 true (tally1 5 10 0) ∧ (5 : Nat) ≤ (tallyOf (tally1 5 10 0) 0 7).count.toNat ∧
    strictShort (tally1 5 10 0) c1 0 (tallyOf (tally1 5 10 0) 0 7) = false :=
  ⟨takes_place (by decide +kernel), by decide +kernel, by decide +kernel, takes_place (by decide +kernel), by decide +kernel,
    takes_place (by decide +kernel), by decide +kernel, takes_place (by decide +kernel), by decide +kernel, by decide +kernel⟩

def remote1 : State := { run1 with fab := { Fabric.reset with routes := [(5, ⟨0, 1, 0, false, true, false, false, true⟩)] } }
def exported1 : State := tally1 0 10 0xC
def signal1 : SignalP := ⟨.seg b0, 3, 0, 0⟩
def portQueue : State := { setF (EXT_PORT_STATUS 0) EXT_PORT_STATUS_BME 1 run1 with queues := [(0, { Queue.reset with desc := { QDesc.zero with wbTarget := 1 } })] }

theorem witness_SignalCommandsTakeEffect :
    TakesPlace (.signalRemote c1 ⟨0, 7⟩ 3 5 1) c1 true remote1 ∧ moduleId remote1 ≠ 5 ∧
    peerGone (markStarted (.signalRemote c1 ⟨0, 7⟩ 3 5 1) c1 remote1) 5 = none ∧
    TakesPlace (.signalRemote c1 ⟨0, 7⟩ 3 (BitVec.ofNat 16 (moduleId exported1)) 1) c1 true exported1 ∧
    isFenced (markStarted (.signalRemote c1 ⟨0, 7⟩ 3 (BitVec.ofNat 16 (moduleId exported1)) 1) c1 exported1) domDie 0 = false ∧
    exportedTo (tallyOf exported1 0 7) (moduleId exported1) = true ∧ addFault 0 7 1 0 (tallyOf exported1 0 7) = none ∧
    TakesPlace (.signalHost c1 signal1) c1 true run1 ∧ vectorOk (markStarted (.signalHost c1 signal1) c1 run1) c1 0 0 = true ∧
    (let s1 := markStarted (.signalHost c1 signal1) c1 run1
     let w := (Work.start c1 (runEntry (.signalHost c1 signal1) c1 run1).core s1).bytesRef 10 b0 8 (rtWrite + rtSignal)
     w.1.fail = none ∧ w.1.log = [] ∧ (cmdOf s1 c1).heard = [] ∧ placeHeld w.1.s (placeOf w.1.s w.2 0) = false ∧
     (∀ k, placeFault w.1.s k 10 0 (placeOf w.1.s w.2 0) = none) ∧ owesAck w.1.s c1 = false ∧
     placePoison (wakeLarder (placeOf w.1.s w.2 0) w.1.s) (placeOf w.1.s w.2 0) 8 = false) ∧
    TakesPlace (.signalHostAdd c1 signal1) c1 true run1 ∧
    TakesPlace (.signalHost c1 ⟨.port false 0x1000, 3, 0, 0⟩) c1 true portQueue ∧
    (extPort (extWrite false ⟨none, 2, 0x1000, leBytes 8 3, 0⟩ portQueue) false).holding = false ∧
    (queueOf portQueue 0).hostLost = false :=
  ⟨takes_place (by decide +kernel), by decide +kernel, by decide +kernel, takes_place (by decide +kernel), by decide +kernel,
    by decide +kernel, by decide +kernel, takes_place (by decide +kernel), by decide +kernel, by decide +kernel, takes_place (by decide +kernel),
    takes_place (by decide +kernel), by decide +kernel, by decide +kernel⟩

/-- A placed program without steps: an epoch tensor of one tile, slot 0 current, slot 1 staged, slot 2 empty. -/
def prog1 : Program :=
  { ctx := 1, part := 0, img := b0, len := 0, runnable := true, unloading := none, mapMode := false, tuneMask := 0, sets := []
    tensors := [], steps := [], streams := [], argTensors := [], pins := [], locals := [], staging := [], refill := none
    s0 := ⟨.current, 1, none, []⟩, s1 := ⟨.staged, 2, none, []⟩, s2 := .empty, commit := none, runs := [], nextRun := 0, anchors := [], loading := none }
def withProg (p : Program) : State := { run1 with progs := [(9, some p)] }
def pinned1 : Program := { prog1 with s0 := ⟨.current, 1, none, [(1, 1)]⟩ }
def parish1 : State := { setF BELL_SYNC BELL_SYNC_STATE 2 remote1 with progs := [(9, some
  { prog1 with streams := [⟨0, 0, 0, 1, 1, 5, false, [], 0, 0, 0, 0, 0⟩] })] }

theorem witness_EpochCommandsTakeEffect :
    TakesPlace (.epochCommit c1 9 1 0) c1 false (withProg prog1) ∧
    handleOf (markStarted (.epochCommit c1 9 1 0) c1 (withProg prog1)) c1 9 = some prog1 ∧ prog1.commit = none ∧
    (prog1.slot 1).state = .staged ∧
    TakesPlace (.epochPin c1 9 0) c1 false (withProg prog1) ∧ (prog1.slot 0).holds = true ∧
    ([0, 1, 2].map fun j => (prog1.slot j).pinsOf 1).sum < 255 ∧
    TakesPlace (.epochUnpin c1 9 0) c1 false (withProg pinned1) ∧ (pinned1.slot 0).pinsOf 1 ≠ 0 ∧
    TakesPlace (.epochCommitParish c1 9 1 0) c1 false parish1 ∧
    bellSteady (markStarted (.epochCommitParish c1 9 1 0) c1 parish1) = true ∧
    ((handleOf (markStarted (.epochCommitParish c1 9 1 0) c1 parish1) c1 9).map fun p =>
      (p.peers, p.peers.findSome? (peerGone parish1))) = some ([5], none) :=
  ⟨takes_place (by decide +kernel), by decide +kernel, rfl, rfl, takes_place (by decide +kernel), by decide +kernel, by decide +kernel,
    takes_place (by decide +kernel), by decide +kernel, takes_place (by decide +kernel), by decide +kernel, by decide +kernel⟩

def stage1 : StageP := ⟨9, 2, ⟨0, 0⟩, 3, 1⟩
def progE : Program := { prog1 with tensors := [⟨.fp32, 4, 0, false, 1, 1, 1, ⟨0, 0⟩, 1⟩] }
def stageAt : State := { run2 with progs := [(9, some progE)] }

theorem witness_EpochStageCompletes : TakesPlace (.epochStage c1 stage1) c1 true stageAt ∧
    (cmdOf stageAt c1).descs = [] ∧ stageFault c1 stage1 (markStarted (.epochStage c1 stage1) c1 stageAt) = none ∧
    (stageWork c1 stage1 (runEntry (.epochStage c1 stage1) c1 stageAt) (markStarted (.epochStage c1 stage1) c1 stageAt)).failed = false :=
  ⟨takes_place (by decide +kernel), by decide +kernel, by decide +kernel, by decide +kernel⟩

def noCtx : State := { State.reset with cmds := [entry c1] }

theorem witness_ContextCommandsTakeEffect :
    TakesPlace (.ctxCreate c1 0 false 0x1000) c1 false noCtx ∧ Memory.wf noCtx.mem = true ∧
    createFault (markStarted (.ctxCreate c1 0 false 0x1000) c1 noCtx) 1 0x1000 = none ∧
    refusal (markStarted (.ctxCreate c1 0 false 0x1000) c1 noCtx) true (tgtOf noCtx 0x1000) = none ∧
    TakesPlace (.ctxDestroy c1) c1 false run1 ∧ TakesPlace (.ctxDestroyAbortOnly c1) c1 false run1 ∧
    (ctxOf run1 1).state ≠ .free ∧
    (let u := tearDown c1 true (markStarted (.ctxDestroy c1) c1 run1)
     Assoc.wf (fun _ => Ctx.free) u.ctxs = true ∧ progsOf u 1 = [] ∧ (ctxOf u 1).state = .destroying) ∧
    TakesPlace (.segSet c1 15 0) c1 false run1 ∧ segDescFault (markStarted (.segSet c1 15 0) c1 run1) 0 0 = none ∧
    refusal (markStarted (.segSet c1 15 0) c1 run1) true (tgtOf run1 (0x1000 + 32 * 15)) = none ∧
    TakesPlace (.segInvalidate c1 (some 0)) c1 false run1 ∧ TakesPlace (.allotSet c1 ⟨1, 2, 3, 4, true⟩) c1 false run1 :=
  ⟨takes_place (by decide +kernel), by decide +kernel, by decide +kernel, by decide +kernel, takes_place (by decide +kernel),
    takes_place (by decide +kernel), by decide +kernel, by decide +kernel, takes_place (by decide +kernel), by decide +kernel,
    by decide +kernel, takes_place (by decide +kernel), takes_place (by decide +kernel)⟩

theorem witness_PartitionItemsAreStaged :
    TakesPlace (.partSetCores c1 0 1) c1 false noCtx ∧ coresFault noCtx 0 1 = false ∧
    TakesPlace (.partSetCaps c1 0 1 2 3 4 15) c1 false noCtx ∧ TakesPlace (.partSetMode c1 0 true) c1 false noCtx ∧
    TakesPlace (.partSetTimeouts c1 0 1 2) c1 false noCtx ∧ TakesPlace (.partSetVectors c1 0 1 2 3) c1 false noCtx ∧
    TakesPlace (.partSetVolumes c1 0 1) c1 false noCtx ∧ TakesPlace (.partSetTalliesGrant c1 0 4 16383 1) c1 false noCtx ∧
    grantFault noCtx 0 ⟨4, 16383, 1⟩ = none ∧ (grantFault noCtx 0 ⟨4, 16383, 2⟩).isSome = true ∧ TakesPlace (.partSetTalliesRevoke c1 0 4 16383 0) c1 false noCtx ∧
    TakesPlace (.partSetKey c1 0 true true 15) c1 false noCtx ∧ ctxsOf noCtx 0 = [] ∧ noCtx.mgmt.encFitted = true ∧
    TakesPlace (.partSetKey c1 0 true true 15) c1 false { noCtx with mgmt := { noCtx.mgmt with encFitted := false } } :=
  ⟨takes_place (by decide +kernel), by decide +kernel, takes_place (by decide +kernel), takes_place (by decide +kernel),
    takes_place (by decide +kernel), takes_place (by decide +kernel), takes_place (by decide +kernel), takes_place (by decide +kernel),
    by decide +kernel, by decide +kernel, takes_place (by decide +kernel), takes_place (by decide +kernel), by decide +kernel, rfl,
    takes_place (by decide +kernel)⟩

def runP1 : RunP := ⟨9, 0, b0, 0⟩

theorem witness_ProgramCommandsTakeEffect :
    TakesPlace (.stepUnload c1 9) c1 false (withProg prog1) ∧ progOf (withProg prog1) 9 = some prog1 ∧ prog1.unloading = none ∧
    TakesPlace (.stepRun c1 runP1) c1 true (withProg prog1) ∧
    (match runSlot (markStarted (.stepRun c1 runP1) c1 (withProg prog1)) c1 runP1 prog1 with | .ok k => k | .error _ => 9) = 0 ∧
    (runWork c1 runP1 prog1 (runEntry (.stepRun c1 runP1) c1 (withProg prog1))
      (markStarted (.stepRun c1 runP1) c1 (withProg prog1))).1.failed = false :=
  ⟨takes_place (by decide +kernel), by decide +kernel, rfl, takes_place (by decide +kernel), by decide +kernel, by decide +kernel⟩

/-- An image of one ZERO step over an OUTPUT tensor of one FP32 tile (Tables 07-18 to 07-20). -/
def imgParts : List Byte := leBytes 162 (packet [(0, 4, 0x4E415A46), (4, 1, 3), (8, 4, 162), (14, 2, 1), (16, 4, 1), (24, 2, 1),
  (26, 2, 1), (32, 4, 64), (36, 4, 96), (44, 4, 160), (64, 1, 2), (65, 1, 3), (68, 4, 1), (72, 2, 32), (74, 2, 32), (84, 4, 1),
  (96, 2, 0x0103), (103, 1, 2), (104, 6, 0xFFFFFFFFFFFF), (128, 4, 1), (141, 1, 0xFF)])
def image1 : List Byte := imgParts.take 60 ++ leBytes 4 (crc32c imgParts) ++ imgParts.drop 64
def loadable : State := { run1 with mem := (writeMem 0x40000000 image1 run1).mem }

theorem witness_StepLoadCompletes : TakesPlace (.stepLoad c1 9 b0 162) c1 true loadable ∧
    ((loadWork c1 9 b0 162 (runEntry (.stepLoad c1 9 b0 162) c1 loadable) (markStarted (.stepLoad c1 9 b0 162) c1 loadable)).1.fail,
      (loadWork c1 9 b0 162 (runEntry (.stepLoad c1 9 b0 162) c1 loadable) (markStarted (.stepLoad c1 9 b0 162) c1 loadable)).2)
      = (none, 1) := ⟨takes_place (by decide +kernel), by decide +kernel⟩

def admin1 : State := { run1 with queues := [(0, { Queue.reset with desc := { QDesc.zero with admin := true } })] }
def dumpOf (s : State) (i : Instr) (src : List Byte) : Work := dumpWork c1 b0 64 src (runEntry i c1 s) (markStarted i c1 s)

theorem witness_DiagnosticCommandsTakeEffect :
    TakesPlace (.selftestLoopback c1 1) c1 false run1 ∧ coresAllowed run1 c1 (mapCores 1) = true ∧
    TakesPlace (.selftestPatrol c1 1) c1 false run1 ∧
    (mapCores 1).filter (testable (markStarted (.selftestPatrol c1 1) c1 run1)) = [0] ∧
    (coreOf run1 0).engines.any (·.patrolFor.isSome) = false ∧
    TakesPlace (.dumpSpill c1 b0 64) c1 true run1 ∧ (dumpOf run1 (.dumpSpill c1 b0 64) (spillBytes run1 1)).failed = false ∧
    TakesPlace (.dumpLedger c1 b0 64) c1 true admin1 ∧ (dumpOf admin1 (.dumpLedger c1 b0 64) []).failed = false ∧
    TakesPlace (.dumpCoreRegs c1 0 b0 64) c1 true run1 ∧ bitAt (partOf run1 0).cores 0 = true :=
  ⟨takes_place (by decide +kernel), by decide +kernel, takes_place (by decide +kernel), by decide +kernel, by decide +kernel,
    takes_place (by decide +kernel), by decide +kernel, takes_place (by decide +kernel), by decide +kernel,
    takes_place (by decide +kernel), by decide +kernel⟩

/-! #### Queues -/

/-- A queue descriptor at 0 (Table 08-4): rings and writeback word in stack 0. -/
def desc1 : Nat := packet [(0, 8, 0x10000000), (8, 8, 0x10100000), (16, 8, 0x10200000), (24, 1, 6), (25, 1, 6), (26, 1, 0x08),
  (30, 1, 1), (31, 1, 4)]
/-- A version-2 NOP packet of index 0, its HCRC as R245 computes it. -/
def nop2 : Nat := packet [(3, 1, 2)]
def nopSum : Nat := nop2 + packetCrc nop2 * 2 ^ 96
def qUp : Queue := { Queue.reset with state := .enabled, desc := QDesc.ofNat desc1, p := 1 }
def withQ (x : Queue) : State := { State.reset with queues := [(0, x)], regs := (setF ORD_SVC ORD_SVC_STATE 1 State.reset).regs }
def descAt0 : State := writeMem 0 (leBytes 64 desc1) State.reset
def fetchable : State := writeMem 0x10000000 (leBytes 64 nopSum) (withQ qUp)

theorem witness_QueueActionsTakeEffect :
    (queueOf descAt0 0).state = .disabled ∧ getF descAt0 Q_TABLE_BASE Q_TABLE_BASE_BASE = 0 ∧ ringReadable descAt0 0 64 = true ∧
    descOk descAt0 0 (leNat (cohRead descAt0 0 64)) = true ∧
    (queueOf (withQ qUp) 0).state = .enabled ∧ (queueOf (withQ { qUp with state := .stopped }) 0).state = .stopped ∧
    (queueOf (withQ { qUp with state := .draining }) 0).state = .draining ∧
    ((withQ { qUp with state := .draining }).cmds.all fun e => e.ref.queue != 0) = true :=
  by and_intros <;> first | decide +kernel | rfl

def doneCmd : Cmd := { entry c1 with result := some (0, 0, 0, 0, 0) }
def doneState : State := { withQ qUp with cmds := [doneCmd] }

theorem witness_QueueEventsTakeEffect :
    eligible fetchable 0 = true ∧ Machine.fetchable fetchable 0 = true ∧ hasTurn fetchable 0 = true ∧ (queueOf fetchable 0).retrying = none ∧
    (packetVisible (queueOf fetchable 0) (packetRead fetchable (queueOf fetchable 0) none)).toOption = some nopSum ∧
    Machine.fetchable (withQ qUp) 0 = true ∧ hasTurn (withQ qUp) 0 = true ∧ (packetVisible qUp (packetRead (withQ qUp) qUp none)).toOption = none ∧
    (packetVisible { qUp with retrying := some 62 } (packetRead fetchable qUp none)).toOption = some nopSum ∧ portHolds fetchable 0 = false ∧
    (doneState.cmds.find? fun e => e.ref.queue == 0 && e.ref.index == 0) = some doneCmd ∧ recordReady doneState doneCmd = true ∧
    atOrAfter (0x40 : BitVec 32) qUp.p = true ∧ ((0x40 : BitVec 32) - qUp.f).toNat ≤ 2 ^ qUp.desc.sqLog2 ∧
    atOrAfter qUp.w 0 = true ∧ atOrAfter (0 : BitVec 32) qUp.p = false ∧ atOrAfter (0x41 : BitVec 32) qUp.p = true ∧
    2 ^ qUp.desc.sqLog2 < ((0x41 : BitVec 32) - qUp.f).toNat :=
  by and_intros <;> first | decide +kernel | rfl

theorem witness_ConsumingAPacketAdvancesF : (0 : Nat) < 65536 ∧ Assoc.wf (fun _ => Queue.reset) fetchable.queues = true := by
  decide +kernel

/-! #### Engines: a program of one MATMUL step on core 0, of weights in its larder -/

def weight : Tensor := ⟨.e4m3, roleWeight, 0, false, 1, 16, 16, ⟨0, 0⟩, 1⟩
def result1 : Tensor := ⟨.bf16, roleOutput, 0, false, 1, 16, 16, ⟨0, 0⟩, 1⟩
def step1 : PStep := ⟨opMatmul, 0, 0, 0, 0, 1, 0, 0, 0, 1, 0, 0, 0, 0, 1, 1, 1, 0, 0xFF, 0, 0, 0, 0, 0⟩
def runA : Run := ⟨0, 1, 0, [⟨9, 0⟩], c1, 0, [], [], [], [], [], [], [], [], false, none⟩
def progA : Program := { prog1 with tensors := [weight, result1], steps := [step1], argTensors := [1], runs := [runA], nextRun := 1 }
/-- The weights staged from segment 0 instead. -/
def staging0 : Stream := ⟨0, 0, 0, 2, 2, 0, false, [40, 41], 0, 100, 0, 101, 0⟩
def progB : Program := { progA with tensors := [{ weight with placement := 1 }, result1], staging := [staging0] }
def chain1 (k : Nat) : Chain := ⟨none, 9, 0, 0, 0, k, 1, 16, 16, 0⟩
def liveEng (k : Nat) : Engine := { Engine.reset with h0 := { Half.reset with live := true }, chain := some (chain1 k) }
def ctxA : Ctx := { ctx1 with engine := { big with locals := [(0, 1000000)] } }
def runE (p : Program) (e : Engine) (x : List Spilled) : State := { withProg p with
  ctxs := [(1, ctxA)], cores := [(0, { coreReset 0 with resident := [1], e0 := e, spilled := x })] }
/-- Ready, covered by its allotment, held up by an unsealed tile: what the dispatcher sees of step `i` for engine 0. -/
def atA (s : State) (i : Nat) : Option (Bool × Bool × Bool) := (atOf (atChoice 0 s) 9 0 i).map fun a =>
  (a.ready (atChoice 0 s), allotCovers (atChoice 0 s) 0 a.r.ctx (a.cycles (atChoice 0 s) 0), a.unsealed (atChoice 0 s) 0)
def spilledA (k : Nat) : Spilled := ⟨chain1 k, { Half.reset with live := true }, Half.reset, 1, 0⟩

theorem witness_StepIssue : coreOn (runE progA Engine.reset []) 0 = true ∧ engineFree (runE progA Engine.reset []) 0 0 = true ∧
    takesChain (runE progA Engine.reset []) 0 0 = true ∧
    ((freshStep (runE progA Engine.reset []) 0 fun a => !a.p.onEngine || newChainHere (runE progA Engine.reset []) 0 0).map
      fun a => (a.h, a.r, a.i, (spilledOf (runE progA Engine.reset []) a).isNone)) = some (9, runA, 0, true) ∧
    atA (runE progA Engine.reset []) 0 = some (true, true, false) ∧ step1.onEngine = true ∧
    0 < localBal ctxA.engine 0 ∧ (chainStep? (runE progA (liveEng 0) []) (chain1 0)).isSome = true ∧
    (liveEng 0).live = true ∧ atA (runE progA (liveEng 0) []) 0 = some (true, true, false) :=
  by and_intros <;> first | decide +kernel | rfl

def flight1 : Flight := ⟨9, 0, 0, 1, 100⟩

theorem witness_EngineEventsTakeEffect :
    ((progOf (runE progA { liveEng 0 with flight := some flight1, state := .busy } []) 9).bind fun p => runOf p 0) = some runA ∧
    (chain1 1).kt ≤ (chain1 1).k ∧ (liveEng 1).flight = none ∧ (atOf (runE progA (liveEng 1) []) 9 0 0).isSome = true ∧
    engineFree (runE progA Engine.reset [spilledA 0]) 0 0 = true ∧ atA (runE progA Engine.reset [spilledA 0]) 0 = some (true, true, false) ∧
    (ctxOf (runE progA Engine.reset []) 1).state ≠ .free ∧ (budgetOf ctxA 1).pool ≠ 0 ∧
    ((atOf (runE progB Engine.reset []) 9 0 0).map fun a => (a.open_, a.turn, a.arrived (runE progB Engine.reset []) [a.done],
      a.misses (runE progB Engine.reset []) 1 0, (a.pr.stagingOf 0).isSome)) = some (true, true, true, true, true) ∧
    ((atOf (runE progB Engine.reset []) 9 0 0).map fun a => decide
      (((a.wanted (runE progB Engine.reset [])).filter fun x => (a.stagedSlot x.1 x.2).isNone).length ≤
        (a.pr.freeStaging staging0).length)) = some true ∧
    ((stepsAhead (runE progB Engine.reset []) 9 0).take (fetchDepth (runE progB Engine.reset []) 0)).contains (0, 0) = true ∧
    getF (runE progB Engine.reset []) (TIER_TMO2_LIVE 0) TIER_TMO2_TALLY ≠ 0 ∧
    inHand { run1 with waiters := [⟨0, 7, true, 1, 0, c1, false⟩] } c1 = true ∧
    cmdMisses { run1 with waiters := [⟨0, 7, true, 1, 0, c1, false⟩] } c1 5 0 = true :=
  by and_intros <;> first | decide +kernel | rfl

theorem witness_SpilledChainsReturnUnchanged : Assoc.wf coreReset (runE progA (liveEng 0) []).cores = true ∧
    (getEng (runE progA (liveEng 0) []) 0 0).chain = some (chain1 0) ∧ (getEng (runE progA (liveEng 0) []) 0 0).live = true ∧
    (getEng (runE progA (liveEng 0) []) 0 0).flight = none := by decide +kernel

theorem witness_EngineControlTakesEffect : isReeveWarden .warden = true ∧ patrolFree run1 0 0 = true ∧
    patrolFree (runE progA (liveEng 0) []) 0 0 = false ∧
    (getEng (runE progA { Engine.reset with patrolDue := true } []) 0 0).patrolDue = true ∧
    rungSpent run1 2 0 = false ∧ (noteEngineReset 0 (clearEngine 0 0 (fAbort 2) (beginRung 2 0 true false run1))).2 = false :=
  by and_intros <;> first | decide +kernel | rfl

def coreSt (c : Core) : State := { run1 with cores := [(0, c)] }
def core0 : Core := coreReset 0
/-- Core 0 while a spare takes its number. -/
def mapped1 : State := coreSt { core0 with mapping := some ⟨64, 1, 0, 0, false⟩, state := .mappingIn }

theorem witness_CoreCommandsTakeEffect :
    (coreOf run1 0).state = .idle ∧ (coreOf (coreSt { core0 with state := .waking }) 0).state = .waking ∧
    (coreOf (coreSt { core0 with state := .off }) 0).state = .off ∧
    (coreOf (coreSt { core0 with rampUp := some 8, state := .waking }) 0).rampUp = some 8 ∧
    (coreOf (coreSt { core0 with rampWait := true, rampUp := some 0 }) 0).rampWait = true ∧ rampsBegun run1 0 < 8 ∧
    ([(0, true), (98303, false)].all fun f : BitVec 17 × Bool => decide (f.1.toNat < 98304)) = true ∧
    inDomain 0 = true ∧ coreCaches (setF HC_STATUS HC_STATUS_DIR_UP 1 run1) 0 = true ∧
    (pcacheOf { run1 with hc := { run1.hc with caches := [(128, { PCache.empty with miss := some 0, lines := [(0, ⟨.e, 0, false, 0⟩)] })] } } 128).miss
      = some 0 :=
  by and_intros <;> first | decide +kernel | rfl

/-! #### Coherence -/

def hcUp : State := setF HC_STATUS HC_STATUS_DIR_UP 1 State.reset
def withHc (h : HostComplex) : State := { hcUp with hc := h }
def line (x : LState) : PCache := { PCache.empty with lines := [(0, ⟨x, 5, false, 0⟩)] }
def busy0 (d : Option Nat) (del : Bool) : Busy := ⟨0, 0, 3, .readShared, .e, d, [], del, false⟩

theorem witness_CoherenceRequestsTakeEffect :
    agentLive hcUp 3 = true ∧ inDomain 0 = true ∧ (plineOf (withHc { HostComplex.reset with caches := [(3, line .s)] }) 3 0).state = .s ∧
    (plineOf (withHc { HostComplex.reset with caches := [(3, line .e)] }) 3 0).state = .e ∧
    getF hcUp HC_STATUS HC_STATUS_DIR_UP = 1 ∧ isCore 3 = false ∧ busyOf hcUp 0 = none ∧
    (hcUp.hc.waiting.any fun w => w.2.1 / 64 == 0) = false ∧
    ([ReqKind.readShared, .readUnique, .zeroUnique, .atomic ⟨.add, true, 1⟩, .clean, .flush, .inval].all fun k =>
      (accept 3 0 k hcUp).isSome) = true ∧
    (accept 3 0 .upgrade (withHc { HostComplex.reset with caches := [(3, line .s)] })).isSome = true ∧
    busyOf (withHc { HostComplex.reset with busy := [busy0 none false] }) 0 ≠ none ∧ atomicAligned 0 ⟨.add, true, 1⟩ = true :=
  by and_intros <;> first | decide +kernel | rfl

def wb0 (x : LState) : PCache := { PCache.empty with wb := [⟨0, x, 5, false, false⟩] }

theorem witness_CoherenceResponsesTakeEffect :
    (withHc { HostComplex.reset with snoops := [⟨0, 3, true, false, none⟩], busy := [busy0 none false] }).hc.snoops =
      [⟨0, 3, true, false, none⟩] ∧
    busyOf (withHc { HostComplex.reset with busy := [busy0 (some 7) false] }) 0 = some (busy0 (some 7) false) ∧
    busyOf (withHc { HostComplex.reset with busy := [busy0 (some 7) true] }) 0 = some (busy0 (some 7) true) ∧
    (plineOf (withHc { HostComplex.reset with caches := [(3, wb0 .m)] }) 3 0).state = .i ∧ LState.m.dirty = true ∧
    LState.e.dirty = false ∧ (withHc { HostComplex.reset with wbAcks := [(3, 0, 0)] }).hc.wbAcks = [(3, 0, 0)] := by
  decide +kernel

theorem witness_AColdReadEndsExclusive : (95 : Nat) < 96 ∧ inDomain 0 = true ∧ getF hcUp HC_STATUS HC_STATUS_DIR_UP = 1 ∧
    hcUp.hc = HostComplex.reset := by and_intros <;> first | decide +kernel | rfl

theorem witness_BaseDieAtomicsReadModifyWrite : Memory.wf hcUp.mem = true ∧ tgtOf hcUp 0 = .stack 0 ∧
    atomicAligned 0 ⟨.add, true, 1⟩ = true ∧ refusal hcUp true (.stack 0) = none ∧ ownerPlace hcUp 0 = .mem 0 none ∧
    poisoned hcUp 0 8 = false :=
  by and_intros <;> first | decide +kernel | rfl

/-! #### The bell and parish commits -/

def sync (k : Nat) (s : State) : State := setF BELL_SYNC BELL_SYNC_STATE k s

theorem witness_TheBellCountsItsEdges : getF State.reset BELL_SYNC BELL_SYNC_STATE ≠ 1 ∧
    getF (sync 1 State.reset) BELL_SYNC BELL_SYNC_STATE = 1 ∧ (sync 1 State.reset).jumped = false ∧
    (sync 1 State.reset).bell.toNat < 5 := by decide +kernel

theorem witness_BellCommandsTakeEffect : run1.ctxs = [(1, ctx1)] ∧ ctx1 ≠ Ctx.free ∧
    getF run1 BELL_CTL BELL_CTL_SRC_PREF = 0 ∧ getF run1 BELL_SYNC BELL_SYNC_SOURCE = 0 ∧
    getF run1 BELL_SYNC BELL_SYNC_STATE = 0 ∧ (sync 1 { run1 with jumped := true }).jumped = true ∧
    getF (sync 2 run1) BELL_SYNC BELL_SYNC_STATE = 2 ∧ (ctxOf run1 1).state ≠ .free :=
  by and_intros <;> first | decide +kernel | rfl

set_option exponentiation.threshold 1100 in
theorem witness_TheEdgeRefillsPoolsAndSwapsPages : ctx1.next < 2 ^ 1024 ∧
    Assoc.wf (fun _ => (0 : Int)) (budgetOf ctx1 2).locals = true ∧ payUnit 2 0 5 ctx1 ≠ none ∧
    payUnit 1 0 200000 ctx1 ≠ none ∧ payUnit 2 0 100001 ctx1 = none ∧
    payUnit 1 0 5 { ctx1 with engine := { big with pool := 0 } } = none := by decide

def commit1 (c : Nat) (w : List Nat) : Commit := ⟨1, 9, 9, .staged, true, c, w, false, 2, none⟩
def locked1 : State := sync 2 (withProg prog1)
def staging1 : Program := { prog1 with s1 := ⟨.staging, 1, none, []⟩ }
def heldVote : Commit := { commit1 4 [] with prev := .staging }

theorem witness_ParishMessagesTakeEffect : progOf locked1 9 = some prog1 ∧ prog1.commit = none ∧
    voteNo locked1 (some prog1) 1 2 (getF locked1 BELL_CTL_LIVE BELL_CTL_PERIOD) = none ∧
    voteNo locked1 (some prog1) 2 2 (getF locked1 BELL_CTL_LIVE BELL_CTL_PERIOD) = some .stale ∧
    progOf (withProg { prog1 with commit := some (commit1 0 [5]) }) 9 = some { prog1 with commit := some (commit1 0 [5]) } ∧
    moduleId (withProg { prog1 with commit := some (commit1 0 [5]) }) = (commit1 0 [5]).coordinator ∧
    (commit1 0 [5]).waiting.filter (· != 5) = [] ∧ (commit1 0 [5, 6]).waiting.filter (· != 5) ≠ [] ∧
    (commit1 4 []).coordinator ≠ moduleId run1 ∧
    progOf (sync 2 (withProg staging1)) 9 = some staging1 ∧ staging1.commit = none ∧ bellSteady (sync 2 (withProg staging1)) = true ∧
    (staging1.slot 1).state = .staging ∧ progOf (withProg { prog1 with commit := some heldVote }) 9 = some { prog1 with commit := some heldVote } ∧
    heldVote.voteHeld = true ∧ (prog1.slot heldVote.slot).state = .staged ∧ (prog1.slot heldVote.slot).epoch = heldVote.epoch ∧
    (⟨5, 0, 0, 9, false, 0, 0⟩ : MsgHdr).dest.toNat = moduleId run1 ∧ Assoc.get (fun _ => 0) run1.fab.expected 20 = 0 ∧
    counterBefore (4 : BitVec 32) (BitVec.ofNat 32 0) = false :=
  by and_intros <;> first | decide +kernel | rfl

/-! #### Tallies, walks and memory tiers -/

def held1 : Waiter := ⟨0, 7, true, 1, 0, c1, true⟩
def walk1 : Walk := ⟨descKey 0 1 0, 0, false, [c1]⟩

theorem witness_TallyWindowAndWalksTakeEffect : windowTally (tally1 5 10 0) 0 7 = true ∧
    addFault 0 7 5 0 (tallyOf (tally1 5 10 0) 0 7) = none ∧ (addFault 0 7 6 0 (tallyOf (tally1 5 10 0) 0 7)).isSome = true ∧
    (5 : Nat) ≤ (tallyOf (tally1 5 10 0) 0 7).count.toNat ∧ tallyCfgFault run1 (selDie run1) (selIndex run1) = none ∧
    attrBad (getReg run1 TALLY_ATTR_V) = false ∧ getReg run1 TALLY_COUNT_V ≤ getReg run1 TALLY_BOUND_V ∧
    ([held1].filter fun w => w.held && w.die == 0) = [held1] ∧ run1.walks.find? (isWalk 0 (descKey 0 1 0)) = none ∧
    lookup (descKey 0 1 0) (poolOf run1 0 (descKey 0 1 0)) = none ∧
    ({ run1 with walks := [walk1] } : State).walks.find? (isWalk 0 (descKey 0 1 0)) = some walk1 ∧
    walking { run1 with walks := [walk1] } walk1 = true ∧ (descMem run1 1 0).isSome = true :=
  by and_intros <;> first | decide +kernel | rfl

def spares2 : State := { run1 with stackDies := [(0, { Stack.reset with spares := [3, 5] })] }

theorem witness_StackAndDdrEventsTakeEffect : isFenced run1 domStack 11 = false ∧
    (stackOf { run1 with stackDies := [(0, { Stack.reset with sparing := [3] })] } 0).sparing = 3 :: [] ∧
    (stackOf run1 0).spares.length + (stackOf run1 0).sparing.length < 2 ∧ (stackOf run1 0).sparing.contains 0 = false ∧ (stackOf run1 0).failed.contains 0 = false ∧ 2 ≤ (stackOf spares2 0).spares.length + (stackOf spares2 0).sparing.length ∧
    (domainReset domStack 0 4 (fencedLedger domStack 0 0 0 (raiseFence domStack 0 run1))).2 = false ∧
    getF (setF (STK_STATUS 0) STK_STATUS_STATE 4 run1) (STK_STATUS 0) STK_STATUS_STATE = 4 ∧
    isFenced run1 domDdr 0 = false ∧ getF (setF DDR_STATUS DDR_STATUS_STATE 1 run1) DDR_STATUS DDR_STATUS_STATE ≠ 2 ∧
    bitAt (getReg run1 FLT_STATUS) 2 = false :=
  by and_intros <;> first | decide +kernel | rfl

/-- A formed cellar of eight sticks with volume 0 of 64 MiB. -/
def cellar1 : State := setF CELLAR_STATUS CELLAR_STATUS_STATE 0 <| setF (CELLAR_VOL 0) CELLAR_VOL_SIZE 64 { run1 with
  tray := { run1.tray with present := 255, inSync := 255, formed := true } }
def withTray (t : Tray) : State := { run1 with tray := t }

theorem witness_CellarEventsTakeEffect : (windowPlace cellar1 0x060000000000 true).toOption = some (0, 0) ∧
    (windowPlace cellar1 0x060000000000 false).toOption = some (0, 0) ∧ cellarPoisoned cellar1 0 0 8 = false ∧
    cellarPoisoned { cellar1 with cellarPoison := [0] } 0 0 8 = true ∧ 0 < volTiles cellar1 0 ∧ isMember cellar1 0 = true ∧
    bitAt cellar1.tray.inSync 7 = true ∧ bitAt cellar1.tray.retiring 7 = false ∧ bitAt cellar1.tray.present 7 = true ∧
    bitAt cellar1.tray.failed 7 = false ∧ bitAt { cellar1.tray with rebuilding := 128 }.rebuilding 7 = true ∧
    bitAt { cellar1.tray with present := 0 }.present 0 = false ∧
    ([255, 127, 63, 31].map fun m => cellarState { cellar1.tray with inSync := m }) = [0, 1, 2, 3] :=
  by and_intros <;> first | decide +kernel | rfl

theorem witness_RemoteAccessesLandOrAreDeclaredFailed : tgtOf run1 0x040000000000 = .larder 0 ∧
    refusal run1 false (.larder 0) = none ∧ refusal run1 true (.larder 0) = none ∧ larderBase 0 + 64 ≤ larderBase 0 + larderBytes ∧
    poisoned (wakeLarder (.mem 0x040000000000 none) run1) 0x040000000000 64 = false ∧ Memory.wf run1.mem = true ∧
    refusal (raiseFence domCore 0 run1) true (.larder 0) ≠ none ∧
    placeHeld run1 (.mem 0x040000000000 none) = false ∧ placeHeld mapped1 (.mem 0x040000000000 none) = true ∧
    poisoned (wakeLarder (.mem 0x040000000000 none) { run1 with poison := [0x040000000000 / 64] }) 0x040000000000 64 = true ∧
    tgtOf run1 0x040000600000 = .none ∧ Assoc.wf regReset run1.regs = true :=
  by and_intros <;> first | decide +kernel | rfl

/-! #### The fabric -/

/-- Module 2, its port 0 in a state. -/
def module2 : State := setF FAB_ID FAB_ID_MODULE 2 run1
def peer1 : PeerInfo := ⟨3, 5, 0, 1, 1, 3, 10, 100⟩
def port0 (st : Nat) : State := setF (FAB_PORT_STATUS 0) FAB_PORT_STATUS_STATE st (setF (FAB_PORT_STATUS 0) FAB_PORT_STATUS_LANES 255
  (setFport 0 { FPort.reset with peer := some peer1 } (setF (FAB_PORT_CTL 0) FAB_PORT_CTL_ENABLE 1 module2)))
/-- An empty flit of sequence number 0 with its checksum, and one whose checksum is 0. -/
def flit0 : Nat := leNat ((List.replicate 252 (0 : Byte)) ++ leBytes 4 (crc32c (List.replicate 252 0)))

theorem witness_FabricPortsTakeEffect : getF (port0 1) (FAB_PORT_CTL 0) FAB_PORT_CTL_ENABLE = 1 ∧ moduleId (port0 1) = 2 ∧
    portState (port0 1) 0 = ptDown ∧ (fport (port0 2) 0).peer = some peer1 ∧ portState (port0 2) 0 = ptTraining ∧
    trainFault (port0 2) 0 peer1 = 0 ∧ trainFault (port0 2) 0 { peer1 with module := 2 } ≠ 0 ∧
    portState (port0 4) 0 = ptRetraining ∧ portState (port0 3) 0 = ptUp ∧
    leNat (slice (leBytes 256 flit0) 252 4) = crc32c ((leBytes 256 flit0).take 252) ∧
    bits (leNat ((leBytes 256 flit0).take 2)) 11 0 = (fport (port0 3) 0).rxSeq ∧
    leNat (slice (leBytes 256 0) 252 4) ≠ crc32c ((leBytes 256 0).take 252) ∧
    bitAt (getF (port0 3) (FAB_PORT_STATUS 0) FAB_PORT_STATUS_LANES) 7 = true ∧
    getF (port0 3) (FAB_PORT_STATUS 0) FAB_PORT_STATUS_SPARE_USED = 0 :=
  by and_intros <;> first | decide +kernel | rfl

def lsr5 (q : BitVec 32) : Lsr := ⟨5, 1, q, 100, []⟩
def req1 (k : Nat) : OutReq := ⟨5, 0, 0, k, [], [], .cmd c1, 10, 0, true, false, 100, []⟩
def fab1 (f : Fabric) : State := { module2 with fab := f }

theorem witness_RoutingTakesEffect :
    (fab1 { Fabric.reset with lsrs := [lsr5 4] }).fab.lsrs.find? (·.origin == 5) = some (lsr5 4) ∧
    (lsr5 5).origin.toNat ≠ moduleId module2 ∧ (lsr5 4).seq.toNat < (lsr5 5).seq.toNat ∧
    module2.fab.lsrs.find? (·.origin == 5) = none ∧ module2.fab.lsrs.length < 65536 ∧
    ((fab1 { Fabric.reset with outstanding := [req1 1] }).fab.outstanding.any fun r =>
      r.dest == 5 && r.cls == 0 && r.sent) = true :=
  by and_intros <;> first | decide +kernel | rfl

def hdr1 (q : BitVec 32) : MsgHdr := ⟨5, 2, q, 64, false, 0, 0⟩
def coll1 : CollDesc := ⟨2, 7, 1, [5], .cmd c1, c1, 0, ⟨9, 0⟩, ⟨0, 0⟩, .fp32, 1, 1⟩
def part1 : CollMsg := ⟨2, 7, 0, 1, 0, false, false, [5]⟩

/-- A program whose stream enters module 2 from module 5, into a ring of core 0, whose number a spare is taking. -/
def ringHeld : State := { setF FAB_ID FAB_ID_MODULE 2 mapped1 with progs := [(9, some { prog1 with
  steps := [⟨opZero, 0, 0, 0, 0, 2, 0xFFFF, 0xFFFF, 0xFFFF, 0, 0, 0, 0, 0, 1, 0, 0, 0, 0xFF, 0, 0, 0, 0, 0⟩]
  streams := [⟨0, 0, 0, 1, 1, 5, true, [40], 0, 0, 0, 0, 0⟩] })] }
def toRing : RemoteRef := ⟨0, 0, BitVec.ofNat 48 (slotPayload 0 40)⟩

theorem witness_HeldAccesses : remoteHeld ringHeld (hdr1 0) toRing 8192 true true = true ∧ (hdr1 0).dest.toNat = moduleId ringHeld ∧
    bar4Addr (setF (EXT_BAR4 0) EXT_BAR4_BASE 4096 { setF (EXT_PORT_CTL 0) EXT_PORT_CTL_MODE 1 mapped1 with
      pA := { ExtPort.reset with memEnable := true } }) false 0 64 = some 0x040000000000 ∧
    placeHeld (setF (EXT_BAR4 0) EXT_BAR4_BASE 4096 mapped1) (.mem 0x040000000000 none) = true := by decide +kernel

theorem witness_FabricMessagesTakeEffect : (hdr1 0).dest.toNat = moduleId module2 ∧
    (hdr1 0).seq.toNat = Assoc.get (fun _ => 0) module2.fab.expected (5 * 4 + 0) ∧
    descOf (fab1 { Fabric.reset with descs := [coll1] }) 2 7 = some coll1 ∧
    (collCombine coll1 (hdr1 0) part1 (fab1 { Fabric.reset with descs := [coll1] })).isSome = true ∧
    counterBefore (hdr1 0).seq (BitVec.ofNat 32 1) = true ∧
    (fab1 { Fabric.reset with outstanding := [req1 2] }).fab.outstanding.find? (fun r => isReq (hdr1 0) r && r.kind == 2) =
      some (req1 2) ∧
    (fab1 { Fabric.reset with outstanding := [req1 1] }).fab.outstanding.find? (fun r => isReq (hdr1 0) r && r.sent) =
      some (req1 1) ∧ failing Status.segFault.code = true ∧
    rawDest module2 (req1 2).owner (req1 2).slot ((req1 2).args.headD 0) = none ∧ module2.fab.outstanding.find? (fun r => isReq (hdr1 0) r && r.kind == 2) = none :=
  by and_intros <;> first | decide +kernel | rfl

/-! #### Die links, guests, external hosts -/

def linksUp : State := (List.range 44).foldl (fun s i => setF (DL_LINK_STATUS i) DL_LINK_STATUS_STATE 2 s) run1

theorem witness_DieEventsTakeEffect : linkState linksUp 43 = 2 ∧ (linkEnds 0).1 < 4 ∧ (linkEnds 0).2 < 4 ∧
    dieSilent (fenceLink 0 linksUp) 0 = false ∧ dieSilent (fenceLink 0 linksUp) 1 = false ∧ isFenced run1 domDie 1 = false :=
  by and_intros <;> first | decide +kernel | rfl

def cap1 : GuestCap := ⟨1, 2, 3, 0xF, 0, 0x200000, 16, 10, 60, 5⟩
/-- A UHX-9448-P with site 0 enabled, in a state. -/
def site0 (st : Nat) (g : Guest) : State := { setF ID_DEVICE ID_DEVICE_VARIANT 1 (setF (GUEST_CTL 0) GUEST_CTL_ENABLE 1
  (setF (GUEST_STATUS 0) GUEST_STATUS_STATE st (setF (GUEST_BIND 0) GUEST_BIND_CTX 1 run1))) with
  g0 := g, parts := [(0, { Part.reset 0 with grants := [⟨0, 0, 100⟩], vecCount := 4 })] }
def ready0 : State := site0 gsReady { Guest.reset with cap := some cap1 }
def snooped (s : State) : State := { s with hc := { s.hc with snoops := [⟨0, 386, true, false, none⟩] } }

theorem witness_GuestCommandsTakeEffect : isP (site0 gsNegotiating Guest.reset) = true ∧
    siteState (site0 gsNegotiating Guest.reset) 0 = gsNegotiating ∧
    getF (site0 gsNegotiating Guest.reset) (GUEST_CTL 0) GUEST_CTL_ENABLE = 1 ∧ holdReason Guest.reset cap1 = 0 ∧
    holdReason { Guest.reset with identity := 4 } cap1 = 5 ∧ holdReason Guest.reset { cap1 with powerW := 61 } ≠ 0 ∧
    ((snooped ready0).hc.snoops.any fun m => m.holder == 386 + 0 && m.line == 0) = true ∧ isFenced ready0 domGuest 0 = false ∧
    siteState ready0 0 ≠ gsDisabled ∧
    (guestOf (site0 gsReady { Guest.reset with requests := [⟨0, .cmd c1, 10, 0, false, 0, 64⟩] }) false).requests.find?
      (·.tag == 0) = some ⟨0, .cmd c1, 10, 0, false, 0, 64⟩ :=
  by and_intros <;> first | decide +kernel | rfl

theorem witness_GuestInitiates : mayInitiate ready0 false = true ∧ boundCtx ready0 0 = some (1, 0) ∧
    (guestPlace ready0 1 0 0x40000000 64 rtRead false).toOption = some (.mem 0x40000000 none) ∧
    (guestPlace ready0 1 0 0x40000000 8 (rtRead + rtWrite) true).toOption = some (.mem 0x40000000 none) ∧
    placePoison (wakeLarder (.mem 0x40000000 none) ready0) (.mem 0x40000000 none) 64 = false ∧
    tallyGranted ready0 0 0 7 = true ∧ taPair (tallyOf ready0 0 7).attr.toNat = false ∧
    addFault 0 7 1 0 (tallyOf ready0 0 7) = none ∧ roleIrq cap1 = true ∧
    (3 : Nat) < (partOf ready0 0).vecBase + (partOf ready0 0).vecCount ∧ placeHeld ready0 (.mem 0x40000000 none) = false :=
  by and_intros <;> first | decide +kernel | rfl

def portA (m : Nat) (x : ExtPort) : State := { setF (EXT_PORT_CTL 0) EXT_PORT_CTL_MODE m run1 with pA := x }
def open1 : ExtPort := { ExtPort.reset with memEnable := true }

theorem witness_ExternalHostCommandsTakeEffect : portMode (portA 1 open1) false = 1 ∧
    getF (portA 1 open1) (EXT_PORT_CTL 0) EXT_PORT_CTL_MAX_GEN = 7 ∧ (extPort (portA 1 open1) false).holding = false ∧
    endpointMode (portA 1 open1) false = true ∧ (extPort (portA 1 { open1 with holding := true }) false).holding = true ∧
    bar4Addr (portA 1 open1) false 0 64 = some 0 ∧ outsideRead (portA 1 open1) 0 64 = some (List.replicate 64 0, false) ∧
    placeHeld (portA 1 open1) (.mem 0 none) = false ∧
    portMode (setF (EXT_PORT_STATUS 0) EXT_PORT_STATUS_STATE 3 (portA 4 open1)) false = 4 ∧
    extState (setF (EXT_PORT_STATUS 0) EXT_PORT_STATUS_STATE 3 (portA 4 open1)) false = 3 ∧ tgtOf run1 0 = .stack 0 ∧
    ((withHc { HostComplex.reset with snoops := [⟨0, 384, true, false, none⟩] }).hc.snoops.any fun m => m.holder == 384) = true :=
  by and_intros <;> first | decide +kernel | rfl

/-! #### The host complex, power and heat -/

def hcState (k : Nat) (s : State) : State := setF HC_STATUS HC_STATUS_STATE k s
def bootable : State := hcState 1 { run1 with
  tray := { run1.tray with mainOn := true }
  mgmt := { run1.mgmt with banks := [(4, ⟨List.replicate 64 0, true, true⟩)] } }

theorem witness_HostComplexCommandsTakeEffect : getF bootable HC_STATUS HC_STATUS_STATE = 1 ∧ bootable.tray.mainOn = true ∧
    getF bootable BOOT_CFG BOOT_CFG_SOURCE ≠ 3 ∧ isFenced bootable domDdr 0 = false ∧ bootable.mgmt.activating = none ∧
    (startBank bootable .hostBoot) = some (0, false) ∧ getF (hcState 2 run1) HC_STATUS HC_STATUS_STATE = 2 ∧
    mayKeep .warden = true ∧ Assoc.wf regReset run1.regs = true :=
  by and_intros <;> first | decide +kernel | rfl

theorem witness_PowerEventsTakeEffect : run1.power.moving = [] ∧ effectiveCap run1 < 8191 ∧
    getF (setF PWR_STATUS PWR_STATUS_OVER 1 run1) PWR_STATUS PWR_STATUS_OVER = 1 ∧
    offCandidates { run1 with power := { run1.power with offs := (List.range 256).map fun n => ⟨n, 0, 0⟩ } } (fun _ => true) = [] ∧
    run1.power.cooling = false :=
  by and_intros <;> first | decide +kernel | rfl

def dieGone : State := { raiseFence domDie 1 run1 with faults := { (raiseFence domDie 1 run1).faults with
  resets := [(0x10000 + fenceCode domDie 1, 5)] } }

theorem witness_DieReturn : isFenced dieGone domDie 1 = true ∧ dieStuck dieGone 1 = false := by decide +kernel

/-! #### Faults, the ladder, the watch and the records -/

theorem witness_LadderCommandsTakeEffect : isFenced run1 domPart 0 = false ∧
    (raiseFence domPart 0 { run1 with faults := { run1.faults with draining := [fenceCode domPart 0] } }).faults.draining.contains
      (fenceCode domPart 0) = true ∧
    (ctxOf run1 1).state ≠ .free ∧ ([(1, 1), (3, 0), (4, 0), (2, 0)].all fun r => !rungSpent run1 r.1 r.2) = true ∧
    run1.faults.active = [] ∧ partMapping (beginRung 3 0 true false run1) 0 = false ∧ underRung run1 5 0 = false ∧
    underRung { run1 with faults := { run1.faults with active := [(2, 0, false)] } } 2 0 = true ∧
    rungTargetOk (bits 0x2000000000000003 63 60) (bits 0x2000000000000003 23 0) = true ∧ (coreOf mapped1 0).mapping.isSome = true ∧
    ((coreOf mapped1 0).engines.any fun e => e.flight.isSome) = false ∧ physState run1 0 64 = 1 ∧
    ((List.range 64).all fun i => (coreOf run1 i).mapping.isNone) = true ∧ run1.heldPort = [] :=
  by and_intros <;> first | decide +kernel | rfl

def dark : State := { run1 with tray := { run1.tray with mainOn := false } }
def rec7 : LedgerRec := ⟨7, 0x0502, 0, 0, 0, 0, 0, 1, 0, 0⟩
def withFaults (f : Faults) : State := { cellar1 with faults := f }

def beat (k : Nat) : State := (List.range 4).foldl (fun s d => setF (OWL_BEAT d) OWL_BEAT_BEAT k s) run1
def watching (d : Nat) (s : State) : State := { s with faults := { s.faults with watch := [(d, true)] } }

theorem witness_OwlCheck : ((List.range 4).all fun d => !isFenced (beat 3) domDie d && getF (beat 3) (OWL_BEAT d) OWL_BEAT_BEAT != seenOf (beat 3) d) =
      true ∧ (beat 3).tray.mainOn = true ∧ underRung (beat 3) 4 0 = false ∧ Assoc.wf (fun _ => false) (beat 3).faults.watch = true ∧
    Assoc.wf (fun _ => 0) (beat 3).faults.seen = true ∧ getF (beat 3) OWL_CTL OWL_CTL_HOST_EN = 0 ∧
    watched (watching 1 run1) 1 = true ∧ getF run1 (OWL_BEAT 1) OWL_BEAT_BEAT = seenOf run1 1 ∧
    getF (setF OWL_CTL OWL_CTL_HOST_EN 1 (hcState 3 (watching 4 run1))) OWL_CTL OWL_CTL_HOST_EN = 1 ∧
    watched (watching 4 run1) 4 = true ∧ getF run1 OWL_BEAT_HOST OWL_BEAT_HOST_BEAT = seenOf run1 4 := by decide +kernel

theorem witness_WatchAndRecordCommandsTakeEffect : dark.tray.mainOn = false ∧ getF dark OWL_CTL OWL_CTL_HOST_EN = 0 ∧
    Assoc.wf (fun _ => false) dark.faults.watch = true ∧
    getF (setF WARDEN_STATUS WARDEN_STATUS_STANDBY_OK 1 run1) WARDEN_STATUS WARDEN_STATUS_STANDBY_OK = 1 ∧
    run1.faults.wardenBeat = seenOf run1 5 ∧ (17 : Nat) < phaseBuilt 0 ∧
    bitAt (getF run1 (PHASE_STATUS 0) PHASE_STATUS_FAILED_MAP) 17 = false ∧ phaseRequired 0 ≤ phaseBuilt 0 - 1 ∧
    cellarUp cellar1 = true ∧ (withFaults { Faults.reset with ring := [rec7], unmirrored := [7] }).faults.ring = [rec7] ∧
    cellar1.faults.capturing = none ∧ (withFaults { Faults.reset with capturing := some 3 }).faults.capturing = some 3 :=
  by and_intros <;> first | decide +kernel | rfl

/-! #### Starts, firmware, the tray -/

def okStart : StartReport := ⟨true, true, 15, 0xFFF, true, false, 255, 0, 5000⟩
def unpowered : State := { run1 with tray := { run1.tray with standby := false, mainOn := false } }
def withMgmt (m : Mgmt) : State := { run1 with mgmt := m }
def svcUp (s : State) : State := setF ORD_SVC ORD_SVC_STATE 1 s
def upd : Update := ⟨.warden, 64, 0, false⟩
def second : Mgmt := { run1.mgmt with banks := [(3, ⟨List.replicate 64 0, true, false⟩), (5, ⟨List.replicate 64 0, true, false⟩)] }

theorem witness_StartAndFirmwareCommandsTakeEffect : unpowered.tray.standby = false ∧ run1.tray.hold = 0 ∧ rstate run1 < rsSafe ∧
    updateBusy (svcUp run1) = false ∧ (64 : Nat) ≤ bankBytes .warden ∧
    (withMgmt { run1.mgmt with update := some upd }).mgmt.update = some upd ∧
    imageSigned .warden (bankOf (withMgmt { run1.mgmt with update := some upd }) .warden 1).image = false ∧
    bankValid (withMgmt second) .warden (idleBank (withMgmt second) .warden) = true ∧
    bankValid (withMgmt second) .reeve (idleBank (withMgmt second) .reeve) = true ∧
    rstate (withMgmt { second with activating := some (.warden, 0) }) ≠ rsQuiescing ∧
    nextVisit (withMgmt { second with activating := some (.reeve, 0) }) 0 = some 0 ∧
    reeveBusy (withMgmt { second with activating := some (.reeve, 0) }) 0 = false ∧
    (nextVisit (withMgmt { second with activating := some (.reeve, 0) }) 1).isSome = true ∧
    Assoc.wf (fun _ => 0) run1.mgmt.activeBank = true ∧ Assoc.wf (fun _ => 0) run1.mgmt.reeveDigest = true ∧
    getF cellar1 CELLAR_STATUS CELLAR_STATUS_STATE = 0 ∧ bitAt cellar1.tray.present 7 = true ∧
    (measBlock run1 1).isSome = true ∧ certOf (withMgmt { run1.mgmt with certs := [(1, [5])] }) 1 ≠ [] ∧
    run1.mgmt.sessions.length < 4 :=
  by and_intros <;> first | decide +kernel | rfl

def rst (k : Nat) (s : State) : State := setF SVC_STATUS SVC_STATUS_RSTATE k s
def noCmds : State := { run1 with cmds := [] }

theorem witness_TrayCommandsTakeEffect : wardenUp run1 = true ∧ run1.tray.lastAttn = none ∧ rstate run1 = rsInService ∧ run1.tray.mainOn = true ∧
    ([1, 2, 3, 4, 5].map fun k => rstate (rst k run1)) = [rsArmed, rsDraining, rsQuiescing, rsSafe, rsReleased] ∧
    getF (setF SVC_CTL SVC_CTL_FORCE 1 run1) SVC_CTL SVC_CTL_FORCE = 1 ∧ getF run1 SVC_CTL SVC_CTL_FORCE = 0 ∧
    activationRuns run1 = false ∧ quiesced (rst 3 noCmds) = true ∧ bitAt cellar1.tray.present 7 = true ∧
    getF (setF (SVC_BAY 7) SVC_BAY_SAFE 1 cellar1) (SVC_BAY 7) SVC_BAY_SAFE = 1 ∧
    getF cellar1 (SVC_BAY 7) SVC_BAY_SAFE = 0 ∧ dark.tray.mainOn = false ∧ portState (port0 1) 0 = ptDown ∧
    run1.tray.standbyInput = true ∧
    underRung { run1 with faults := { run1.faults with active := [(5, 0, false)] } } 5 0 = true :=
  by and_intros <;> first | decide +kernel | rfl

/-! #### Management -/

def fromI3c : MailRef := ⟨9, 1, true, none⟩

theorem witness_ServiceAndPlatformRequestsAreAnswered : run1.tray.standby = true ∧ wardenUp run1 = true ∧ isSensor 1 = true ∧
    (sensorValue run1 1).isSome = true ∧ authorised run1 fromI3c .privileged = true ∧
    getF (setF SVC_CTL SVC_CTL_PORT_ATTN 1 run1) SVC_CTL SVC_CTL_PORT_ATTN = 1 ∧ rstate run1 = rsInService ∧
    rstate (rst 1 run1) = rsArmed :=
  by and_intros <;> first | decide +kernel | rfl

def inSess : MailRef := ⟨9, 1, true, some 1⟩
def sess : State := withMgmt { run1.mgmt with sessions := [⟨1, true⟩], anchors := [(0, [5])] }

theorem witness_MailTakesPlace : MailTakesPlace fromI3c .opened run1 ∧ MailTakesPlace fromI3c .privileged run1 ∧
    MailTakesPlace inSess .secure sess :=
  ⟨⟨by decide +kernel, by decide +kernel, by decide +kernel, fun h => absurd rfl h⟩,
    ⟨by decide +kernel, by decide +kernel, by decide +kernel, fun _ => by decide +kernel⟩,
    ⟨by decide +kernel, by decide +kernel, by decide +kernel, fun _ => by decide +kernel⟩⟩

theorem witness_MailTakesPlace_cellar : MailTakesPlace fromI3c .privileged cellar1 :=
  ⟨by decide +kernel, by decide +kernel, by decide +kernel, fun _ => by decide +kernel⟩

theorem witness_MailboxCommandsTakeEffect : wardenUp run1 = true ∧ windowServed run1 0 = true ∧ reserveUp cellar1 = true ∧
    (captureOf { cellar1 with faults := { cellar1.faults with captures := [(63, { CaptureSlot.empty with used := true })] } } 63).used
      = true ∧ (nextCapture cellar1).isSome = true ∧ rungTargetOk (bits 0x4000000000000000 63 60) 0 = true ∧ tooHot run1 = false ∧
    (coreOf run1 255).state ≠ .unassigned ∧ getF (setF ORD_SVC ORD_SVC_STATE 2 run1) ORD_SVC ORD_SVC_STATE = 2 ∧
    (run1.queues.all fun e => e.2.desc.admin || e.2.state == .disabled) = true ∧
    (withMgmt { run1.mgmt with replays := [⟨9, 1, 0x90, 0, []⟩] }).mgmt.replays.find? (fun r => r.eid == 9 && r.tag == 1) =
      some ⟨9, 1, 0x90, 0, []⟩ :=
  by and_intros <;> first | decide +kernel | rfl

theorem witness_KeyCommandsTakeEffect : (setKeyOf run1 15).enrolled = false ∧
    (setKeyOf (putSetKey 15 ⟨5, true, false⟩ run1) 15).enrolled = true ∧ keyNamed run1 15 = false ∧
    (dataKeyOf (putDataKey 15 (some 5) run1) 15).isSome = true ∧ updating run1 .stick = false ∧ Assoc.wf regReset run1.regs = true := by
  decide +kernel

/-! #### Registers, sums and tallies -/

/-- TALLY_COUNT_V: a plain RW register that starts nothing. -/
theorem witness_RegistersFollowTheirAccessCodes : ∃ r, regRow TALLY_COUNT_V = some r ∧
    (∀ d x y, writeRow .warden r d x y run1 = putValue .warden x y run1) ∧ (∀ v x o, afterStore r TALLY_COUNT_V v o x = x) ∧
    r.width = 64 ∧ r.classS = 0 ∧ r.classB = 0 ∧
    r.live = none ∧ regServed run1 r TALLY_COUNT_V = true ∧ mayWrite .warden r.writers = true ∧
    viewReg run1 r.name ((r.index TALLY_COUNT_V).getD []) TALLY_COUNT_V = none ∧ reaches run1 .warden = true ∧
    inDoorbells TALLY_COUNT_V = false ∧ inTallies TALLY_COUNT_V = false ∧ TALLY_COUNT_V % 8 = 0 ∧
    Assoc.wf regReset run1.regs = true := by
  have h : ∃ r, regRow TALLY_COUNT_V = some r := Option.isSome_iff_exists.mp (by decide +kernel)
  obtain ⟨r, hr⟩ := h
  refine ⟨r, hr, ?_⟩
  cases hr
  exact ⟨fun _ _ _ => rfl, fun _ _ _ => rfl, by decide +kernel⟩

theorem witness_ProductsContributeFloorsAndTags : 0 ≤ (126 : Int) + 0 + (-126) ∧ 0 ≤ (126 : Int) + 0 - 126 ∧
    productTag (.fin false 3 0) (.fin true 5 (-1)) = .finite ∧ productTag (.inf false) (.fin true 5 (-1)) ≠ .finite := by decide

theorem witness_AccumulationIsExactInEveryOrder :
    ((2 : Int).natAbs : Int) + ((([3, -4] : List Int).map Int.natAbs).sum : Nat) ≤ 2 ^ 127 - 4 ∧ ([3, -4] : List Int).Perm [-4, 3] ∧
    (addInts 2 [3, -4]).2 = false := ⟨by decide, List.Perm.swap _ _ _, by decide⟩

theorem witness_TallyOperationsAreChecked : (tallyOf (tally1 5 10 0) 0 7).bound.toNat < 5 + 6 ∧ (5 : Nat) + 5 ≤ 10 ∧
    taMode (tallyOf (tally1 5 10 0x301) 0 7).attr.toNat = 1 ∧ taPairN (tallyOf (tally1 5 10 0x301) 0 7).attr.toNat + 0 < 10 ∧
    taMode (tallyOf (tally1 5 10 2) 0 7).attr.toNat = 2 ∧ Assoc.wf (fun _ => Tally.reset) (tally1 5 10 0).tallies = true := by
  decide +kernel

theorem witness_OnlyTheEdgeAndPowerMoveTheBell : (∃ t, exec (.bellEdge 5) State.reset = .next t) ∧
    State.reset.bell.toNat + 1 < 2 ^ 64 ∧ ((regRow BELL_COUNT).map fun r => regServed State.reset r BELL_COUNT) = some true :=
  ⟨⟨_, rfl⟩, by decide, by decide +kernel⟩

theorem witness_frames : (∃ t, exec (.nop c1) run1 = .next t) ∧ noneWaits run1 = true ∧ movesTheBell (.nop c1) = false ∧
    ([isData (.copy c1 rawCopy), isQueueControl (.nop c1), isTally (.tallyAdd c1 ⟨0, 7⟩ 2 5), isSignal (.signalRemote c1 ⟨0, 7⟩ 3 5 1),
      isEpoch (.epochPin c1 9 0), isPart (.partSetVolumes c1 0 1), isProgram (.stepUnload c1 9), isEngineStep (.spill 0 0),
      isSnoop (.snpShared 3 0), isCoherent (.cleanReq 3 0), isLineMove (.readShared 3 0), isBellEvent .bellLocked, isParish (.decide (hdr1 0) ⟨9, 4⟩),
      isWalkStep (.descriptorWalk 0 1 0), isTier (.channelSpareDone 0), isCellar (.stickRemove 7), isLink (.beat 0),
      isGuest (.guestAccept false), isWatch .heartbeat, isFirmware .verifyComplete, isAnswer (.serviceIdent 1),
      isFace .cancel].all id) = true ∧ isRemoteSignal (.signalRemote c1 ⟨0, 7⟩ 3 5 1) = true := ⟨⟨_, rfl⟩, rfl, rfl, rfl, rfl⟩

end Sys2Proof.Tests
end

section
/-! Products on their way to the accumulator (R101, R107): the contribution is a floor, and the tags are Table 04-2. -/

namespace Sys2Proof

/-! ### Floors of a quotient -/

/-- `i` is floor(p / u), and `lost` says whether bits were discarded. -/
def IsFloor (i p u : Int) (lost : Bool) : Prop :=
  i * u ≤ p ∧ p < (i + 1) * u ∧ (lost = true ↔ i * u ≠ p)

theorem isFloor_one (p : Int) : IsFloor p p 1 false :=
  ⟨by omega, by omega, fun h => Bool.noConfusion h, fun h => absurd (Int.mul_one p) h⟩

theorem isFloor_ediv (p : Int) {u : Int} (hu : 0 < u) : IsFloor (p / u) p u (decide (¬ u ∣ p)) := by
  have hdvd : u ∣ p ↔ p / u * u = p := ⟨Int.ediv_mul_cancel, fun h => ⟨p / u, by rw [Int.mul_comm, h]⟩⟩
  exact ⟨Int.ediv_mul_le p (Int.ne_of_gt hu), Int.lt_ediv_add_one_mul_self p hu,
    decide_eq_true_iff.trans (not_congr hdvd)⟩

/-- A common positive factor of the value and the unit changes neither the floor nor what is discarded. -/
theorem IsFloor.mul_right {i p u : Int} {lost : Bool} (h : IsFloor i p u lost) {w : Int} (hw : 0 < w) :
    IsFloor i (p * w) (u * w) lost := by
  obtain ⟨hle, hlt, hlost⟩ := h
  unfold IsFloor
  rw [← Int.mul_assoc, ← Int.mul_assoc]
  exact ⟨Int.mul_le_mul_of_nonneg_right hle (Int.le_of_lt hw), Int.mul_lt_mul_of_pos_right hlt hw,
    hlost.trans (not_congr (Int.mul_eq_mul_right_iff (Int.ne_of_gt hw)).symm)⟩

theorem two_pow_pos (n : Nat) : (0 : Int) < 2 ^ n := Int.pow_pos (by decide)

theorem two_pow_dvd_natCast (d m : Nat) : (2 : Int) ^ d ∣ m ↔ m % 2 ^ d = 0 := by
  have hcast : ((2 ^ d : Nat) : Int) = 2 ^ d := Int.natCast_pow 2 d
  rw [← hcast, Int.natCast_dvd_natCast, Nat.dvd_iff_mod_eq_zero]

theorem natCast_div_two_pow (m d : Nat) : ((m / 2 ^ d : Nat) : Int) = m / 2 ^ d :=
  (Int.natCast_ediv m (2 ^ d)).trans (congrArg ((m : Int) / ·) (Int.natCast_pow 2 d))

/-- The floor of a negative quotient lies one below the cut magnitude where bits are lost. -/
theorem neg_natCast_ediv_two_pow (m d : Nat) :
    -(m : Int) / 2 ^ d = -((m / 2 ^ d : Nat) : Int) - if m % 2 ^ d = 0 then 0 else 1 := by
  rw [Int.neg_ediv, Int.sign_eq_one_of_pos (two_pow_pos d), natCast_div_two_pow]
  simp only [two_pow_dvd_natCast]

/-! ### The contribution of a signed magnitude -/

/-- The integer with sign `neg` and magnitude `mag`. -/
def signedMag (neg : Bool) (mag : Nat) : Int := (if neg then -1 else 1) * mag

theorem signedMag_false (mag : Nat) : signedMag false mag = mag := Int.one_mul _

theorem signedMag_true (mag : Nat) : signedMag true mag = -mag := Int.neg_one_mul _

theorem contribution_of_unit_le {a exp : Int} (neg : Bool) (mag : Nat) (h : a - 126 ≤ exp) :
    contribution a neg mag exp = (signedMag neg mag * 2 ^ (exp - (a - 126)).toNat, false) := by
  have hs : 0 ≤ exp - (a - 126) := by omega
  simp only [contribution, if_pos hs]
  cases neg with
  | false => simp only [signedMag_false, Bool.false_eq_true, if_false]
  | true => simp only [signedMag_true, Int.neg_mul, if_true]

/-- Below the unit the contribution is the floor division of the signed magnitude, for either sign. -/
theorem contribution_of_lt_unit {a exp : Int} (neg : Bool) (mag : Nat) (h : exp < a - 126) :
    contribution a neg mag exp = (signedMag neg mag / 2 ^ (a - 126 - exp).toNat,
      decide (¬ (2 : Int) ^ (a - 126 - exp).toNat ∣ signedMag neg mag)) := by
  have hs : ¬ 0 ≤ exp - (a - 126) := by omega
  have hd : (-(exp - (a - 126))).toNat = (a - 126 - exp).toNat := by omega
  simp only [contribution, if_neg hs, hd]
  generalize (a - 126 - exp).toNat = d
  cases neg with
  | false =>
    simp only [signedMag_false, two_pow_dvd_natCast, natCast_div_two_pow, Bool.false_eq_true, if_false, ne_eq]
  | true =>
    simp only [signedMag_true, Int.dvd_neg, two_pow_dvd_natCast, neg_natCast_ediv_two_pow, if_true, ne_eq,
      decide_eq_true_iff, ite_not]

/-- R101, with the value and the unit 2^(A − 126) brought to integers by the factor 2^k. -/
theorem contribution_isFloor (a exp : Int) (neg : Bool) (mag k : Nat) (hp : 0 ≤ (k : Int) + exp)
    (hu : 0 ≤ (k : Int) + a - 126) :
    IsFloor (contribution a neg mag exp).1 (signedMag neg mag * 2 ^ ((k : Int) + exp).toNat)
      (2 ^ ((k : Int) + a - 126).toNat) (contribution a neg mag exp).2 := by
  by_cases h : a - 126 ≤ exp
  · have hk : ((k : Int) + exp).toNat = (exp - (a - 126)).toNat + ((k : Int) + a - 126).toNat := by omega
    have hfloor := (isFloor_one (signedMag neg mag * 2 ^ (exp - (a - 126)).toNat)).mul_right
      (two_pow_pos ((k : Int) + a - 126).toNat)
    rw [Int.one_mul] at hfloor
    rw [contribution_of_unit_le neg mag h, hk, Int.pow_add, ← Int.mul_assoc]
    exact hfloor
  · have hlt : exp < a - 126 := by omega
    have hk : ((k : Int) + a - 126).toNat = (a - 126 - exp).toNat + ((k : Int) + exp).toNat := by omega
    rw [contribution_of_lt_unit neg mag hlt, hk, Int.pow_add]
    exact (isFloor_ediv _ (two_pow_pos _)).mul_right (two_pow_pos _)

/-! ### Products -/

theorem productTag_fin_fin (s t : Bool) (m n : Nat) (e f : Int) :
    productTag (.fin s m e) (.fin t n f) = .finite := rfl

theorem productTag_nan_left (b : Bool) (x : Val) : productTag (.nan b) x = .nan := rfl

theorem productTag_nan_right (x : Val) (b : Bool) : productTag x (.nan b) = .nan := by
  cases x <;> rfl

theorem productTag_inf_inf (s t : Bool) :
    productTag (.inf s) (.inf t) = if s == t then .posInf else .negInf := rfl

theorem productTag_inf_zero (s t : Bool) (e : Int) : productTag (.inf s) (.fin t 0 e) = .nan := rfl

theorem productTag_zero_inf (s t : Bool) (e : Int) : productTag (.fin t 0 e) (.inf s) = .nan := rfl

theorem productTag_inf_nonzero (s t : Bool) (e : Int) {m : Nat} (hm : m ≠ 0) :
    productTag (.inf s) (.fin t m e) = if s == t then .posInf else .negInf := if_neg hm

theorem productTag_nonzero_inf (s t : Bool) (e : Int) {m : Nat} (hm : m ≠ 0) :
    productTag (.fin t m e) (.inf s) = if s == t then .posInf else .negInf := if_neg hm

theorem productContrib_tag (a : Int) (x y : Val) : (productContrib a x y).tag = productTag x y := by
  cases x <;> cases y <;> rfl

/-- R107: only products tagged finite make contributions. -/
theorem productContrib_ints_of_not_finite (a : Int) (x y : Val) (h : productTag x y ≠ .finite) :
    (productContrib a x y).ints = [] := by
  cases x with
  | nan b => rfl
  | inf s => rfl
  | fin s m e =>
    cases y with
    | nan b => rfl
    | inf t => rfl
    | fin t n f => exact absurd (productTag_fin_fin s t m n e f) h

theorem Tag.or_code (x y : Tag) : (x.or y).code = x.code ||| y.code := by
  cases x <;> cases y <;> rfl

/-- Settles O55: the contribution by the floor of a signed magnitude, above and below the unit; the tags row by row of
Table 04-2. -/
theorem productsContributeFloorsAndTags : Obligations.ProductsContributeFloorsAndTags := by
  refine ⟨fun a s t m n e f k hp hu => ?_,
    fun a x y => ⟨productContrib_tag a x y, productContrib_ints_of_not_finite a x y⟩,
    fun s t b m e x => ⟨productTag_nan_left b x, productTag_nan_right x b, productTag_inf_zero s t e,
      productTag_zero_inf s t e, productTag_inf_inf s t,
      fun hm => ⟨productTag_inf_nonzero s t e hm, productTag_nonzero_inf s t e hm⟩⟩,
    Tag.or_code, rfl, rfl, rfl, rfl⟩
  have hfloor := contribution_isFloor a (e + f) (s != t) (m * n) k (by omega) hu
  rw [signedMag, Int.natCast_mul, ← Int.add_assoc] at hfloor
  exact ⟨_, rfl, rfl, hfloor⟩

end Sys2Proof
end

section
/-! What it is that a step keeps the bell count (R307), and the rules it is proved by: for the ways steps are put together, and for
each update of a piece of the state. -/

namespace Sys2Proof.Machine

/-! ### Keeping the count -/

/-- The bell count, and whether the lock jump has been made. -/
def State.bellCount (s : State) : BitVec 64 × Bool := (s.bell, s.jumped)

/-- The bell count of `t` is that of `s`. -/
@[simp] abbrev SameCount (s t : State) : Prop := t.bellCount = s.bellCount

/-- The answer is no state, or one with the bell count of `s`. -/
def Keeps (s : State) (a : Ans) : Prop := ∀ t, a = .next t → SameCount s t

@[simp] theorem keeps_next (s t : State) : Keeps s (.next t) ↔ SameCount s t :=
  ⟨fun h => h t rfl, fun h u e => by cases e; exact h⟩

theorem SameCount.of_bell {s t : State} (h : t.bell = s.bell) (k : t.jumped = s.jumped) : SameCount s t := Prod.ext h k

theorem SameCount.trans {s t u : State} (h : SameCount s t) (k : SameCount t u) : SameCount s u := Eq.trans k h

/-- For a `let (t, a) := …` on the way of a step. -/
theorem SameCount.of_state_fst {α : Type} {s t : State} {p : State × α} {a : α} (h : SameCount s p.1) (e : p = (t, a)) :
    SameCount s t := by
  subst e
  exact h

/-- For a `let (w, a) := …` on the way of a command's work. -/
theorem SameCount.of_fst {α : Type} {s : State} {p : Work × α} {w : Work} {a : α} (h : SameCount s p.1.s) (e : p = (w, a)) :
    SameCount s w.s := by
  subst e
  exact h

/-! ### Choices and loops -/

@[simp] theorem bellCount_ite (c : Prop) [Decidable c] (s t : State) :
    (if c then s else t).bellCount = if c then s.bellCount else t.bellCount := apply_ite ..

@[simp] theorem work_s_ite (c : Prop) [Decidable c] (w v : Work) : (if c then w else v).s = if c then w.s else v.s := apply_ite ..

@[simp] theorem fst_ite {α β : Type} (c : Prop) [Decidable c] (p q : α × β) :
    (if c then p else q).1 = if c then p.1 else q.1 := apply_ite ..

@[simp] theorem foldl_sameCount {α : Type} (f : State → α → State) (h : ∀ s x, SameCount s (f s x)) (l : List α) (s : State) :
    SameCount s (l.foldl f s) := by
  induction l generalizing s with
  | nil => rfl
  | cons x xs ih => exact (h s x).trans (ih _)

@[simp] theorem foldl_work_sameCount {α : Type} (f : Work → α → Work) (h : ∀ w x, SameCount w.s (f w x).s) (l : List α)
    (w : Work) : SameCount w.s (l.foldl f w).s := by
  induction l generalizing w with
  | nil => rfl
  | cons x xs ih => exact (h w x).trans (ih _)

@[simp] theorem foldr_sameCount {α : Type} (f : α → State → State) (h : ∀ x s, SameCount s (f x s)) (l : List α) (s : State) :
    SameCount s (l.foldr f s) := by
  induction l with
  | nil => rfl
  | cons x xs ih => exact ih.trans (h x _)

theorem foldlM_sameCount {α β : Type} (f : State × β → α → Option (State × β))
    (hf : ∀ x a r, f x a = some r → SameCount x.1 r.1) (l : List α) (x r : State × β) (h : l.foldlM f x = some r) :
    SameCount x.1 r.1 := by
  induction l generalizing x with
  | nil => cases h; rfl
  | cons a l ih =>
    obtain ⟨y, hy, hr⟩ := Option.bind_eq_some_iff.mp ((List.foldlM_cons ..).symm.trans h)
    exact (hf x a y hy).trans (ih y hr)

/-! ### Updates of the state -/

/-- A record update `{ t with … }` of other fields. -/
@[simp] theorem bellCount_mk (t : State) (pending) (tick) (mem) (poison) (cellar) (cellarPoison) (wbuf) (regs) (queues) (cmds)
    (ctxs) (parts) (staged) (segs) (dpool) (walks) (tallies) (waiters) (cores) (progs) (partSets) (stackDies) (hc) (fab) (g0)
    (g1) (pA) (pB) (power) (faults) (mgmt) (tray) (chainGen) (chainPosted) (out) (heldPort) (turns) (actionEnd) (tallyEnd)
    (upsets) :
    State.bellCount ⟨pending, tick, mem, poison, cellar, cellarPoison, wbuf, regs, t.bell, t.jumped, queues, cmds, ctxs,
      parts, staged, segs, dpool, walks, tallies, waiters, cores, progs, partSets, stackDies, hc, fab, g0, g1, pA, pB, power,
      faults, mgmt, tray, chainGen, chainPosted, out, heldPort, turns, actionEnd, tallyEnd, upsets⟩ =
      t.bellCount := Prod.ext rfl rfl

@[simp] theorem setReg_sameCount (off v : Nat) (s : State) : SameCount s (setReg off v s) := .of_bell rfl rfl
@[simp] theorem setF_sameCount (off : Nat) (f : Fld) (v : Nat) (s : State) : SameCount s (setF off f v s) := .of_bell rfl rfl
@[simp] theorem incF_sameCount (off : Nat) (f : Fld) (n : Nat) (s : State) : SameCount s (incF off f n s) := .of_bell rfl rfl
@[simp] theorem satF_sameCount (off : Nat) (f : Fld) (n : Nat) (s : State) : SameCount s (satF off f n s) := .of_bell rfl rfl
@[simp] theorem orReg_sameCount (off v : Nat) (s : State) : SameCount s (orReg off v s) := .of_bell rfl rfl
@[simp] theorem clearBits_sameCount (off v : Nat) (s : State) : SameCount s (clearBits off v s) := .of_bell rfl rfl
@[simp] theorem setStack_sameCount (k : Nat) (v : Stack) (s : State) : SameCount s (setStack k v s) := .of_bell rfl rfl
@[simp] theorem poisonSector_sameCount (sec : Nat) (s : State) : SameCount s (poisonSector sec s) := .of_bell rfl rfl
@[simp] theorem writeCellar_sameCount (v b : Nat) (bs : List Byte) (s : State) : SameCount s (writeCellar v b bs s) := .of_bell rfl rfl
@[simp] theorem setQueue_sameCount (q : Nat) (x : Queue) (s : State) : SameCount s (setQueue q x s) := .of_bell rfl rfl
@[simp] theorem setCtx_sameCount (x : Nat) (v : Ctx) (s : State) : SameCount s (setCtx x v s) := .of_bell rfl rfl
@[simp] theorem setPart_sameCount (p : Nat) (v : Part) (s : State) : SameCount s (setPart p v s) := .of_bell rfl rfl
@[simp] theorem setCore_sameCount (n : Nat) (v : Core) (s : State) : SameCount s (setCore n v s) := .of_bell rfl rfl
@[simp] theorem setEng_sameCount (n e : Nat) (v : Engine) (s : State) : SameCount s (setEng n e v s) := .of_bell rfl rfl
@[simp] theorem setTally_sameCount (die index : Nat) (v : Tally) (s : State) : SameCount s (setTally die index v s) := .of_bell rfl rfl
@[simp] theorem setProg_sameCount (h : Nat) (v : Option Program) (s : State) : SameCount s (setProg h v s) := .of_bell rfl rfl
@[simp] theorem setFport_sameCount (p : Nat) (v : FPort) (s : State) : SameCount s (setFport p v s) := .of_bell rfl rfl
@[simp] theorem setRoute_sameCount (m : Nat) (v : Route) (s : State) : SameCount s (setRoute m v s) := .of_bell rfl rfl

@[simp] theorem setGuest_sameCount (g1 : Bool) (v : Guest) (s : State) : SameCount s (setGuest g1 v s) := by
  cases g1 <;> exact .of_bell rfl rfl

@[simp] theorem setExt_sameCount (b : Bool) (v : ExtPort) (s : State) : SameCount s (setExt b v s) := by
  cases b <;> exact .of_bell rfl rfl

@[simp] theorem setPcache_sameCount (a : Nat) (v : PCache) (s : State) : SameCount s (setPcache a v s) := .of_bell rfl rfl
@[simp] theorem setDir_sameCount (l : Nat) (v : DirEntry) (s : State) : SameCount s (setDir l v s) := .of_bell rfl rfl
@[simp] theorem emit_sameCount (m : Out) (s : State) : SameCount s (emit m s) := .of_bell rfl rfl
@[simp] theorem advance_sameCount (s : State) : SameCount s (advance s) := .of_bell rfl rfl

@[simp] theorem putCmd_sameCount (e : Cmd) (s : State) : SameCount s (putCmd e s) := by
  unfold putCmd
  split <;> exact .of_bell rfl rfl

end Sys2Proof.Machine
end

section
/-! What steps share leaves the bell count: registers, memory, records, operands, tallies, and how runs and commands end (R307). -/

namespace Sys2Proof.Machine

/-! ### Registers, memory, records and messages -/

@[simp] theorem restoreSector_sameCount (sec : Nat) (s : State) : SameCount s (restoreSector sec s) := by simp [restoreSector]
@[simp] theorem clearPoison_sameCount (secs : List Nat) (s : State) : SameCount s (clearPoison secs s) := by simp [clearPoison]
@[simp] theorem writeMem_sameCount (a : Nat) (bs : List Byte) (s : State) : SameCount s (writeMem a bs s) := by simp [writeMem]
@[simp] theorem remapStacks_sameCount (k : Nat) (s : State) : SameCount s (remapStacks k s) := by simp [remapStacks]

@[simp] theorem pldmEvent_sameCount (content : Nat) (s : State) : SameCount s (pldmEvent content s) := by
  unfold pldmEvent
  split <;> simp

@[simp] theorem sensorEvent_sameCount (id v : Nat) (s : State) : SameCount s (sensorEvent id v s) := by simp [sensorEvent]
@[simp] theorem bumpMeas_sameCount (s : State) : SameCount s (bumpMeas s) := by simp [bumpMeas]

@[simp] theorem ledgerF_sameCount (kind sev flags dom addr data : Nat) (s : State) :
    SameCount s (ledgerF kind sev flags dom addr data s) := by simp [ledgerF]

@[simp] theorem ledger_sameCount (kind sev dom addr data : Nat) (s : State) : SameCount s (ledger kind sev dom addr data s) := by
  simp [ledger]

@[simp] theorem cfgReject_sameCount (w : Agent) (off v reason : Nat) (s : State) : SameCount s (cfgReject w off v reason s) := by
  simp [cfgReject]

@[simp] theorem noteUnreached_sameCount (before s : State) : SameCount s (noteUnreached before s) := by simp [noteUnreached]
@[simp] theorem hostIrq_sameCount (v : Nat) (s : State) : SameCount s (hostIrq v s) := by simp [hostIrq]

@[simp] theorem beginHold_sameCount (b hostReset : Bool) (s : State) : SameCount s (beginHold b hostReset s) := by
  simp [beginHold]

@[simp] theorem waitBehind_sameCount (b : Bool) (w : ExtWrite) (s : State) : SameCount s (waitBehind b w s) := by
  simp [waitBehind]

@[simp] theorem extWrite_sameCount (b : Bool) (w : ExtWrite) (s : State) : SameCount s (extWrite b w s) := by simp [extWrite]

@[simp] theorem msixSend_sameCount (b : Bool) (v : Nat) (q : Option Nat) (s : State) : SameCount s (msixSend b v q s) := by
  simp [msixSend]

@[simp] theorem raiseIrq_sameCount (kind v : Nat) (q : Option Nat) (s : State) : SameCount s (raiseIrq kind v q s) := by
  unfold raiseIrq
  split <;> simp

@[simp] theorem raiseReg_sameCount (off : Nat) (s : State) : SameCount s (raiseReg off s) := by simp [raiseReg]

@[simp] theorem finishCode_sameCount (c : CmdRef) (code detail : Nat) (s : State) : SameCount s (finishCode c code detail s) := by
  simp [finishCode]

@[simp] theorem finish_sameCount (c : CmdRef) (st : Status) (detail : Nat) (s : State) : SameCount s (finish c st detail s) := by
  simp [finish]

@[simp] theorem finishFail_sameCount (c : CmdRef) (f : Fail) (s : State) : SameCount s (finishFail c f s) := by simp [finishFail]

@[simp] theorem markStarted_sameCount (i : Instr) (c : CmdRef) (s : State) : SameCount s (markStarted i c s) := by
  simp [markStarted]

@[simp] theorem waitWalk_sameCount (i : Instr) (e : Cmd) (s : State) : SameCount s (waitWalk i e s) := by simp [waitWalk]

@[simp] theorem runCmd_sameCount (i : Instr) (c : CmdRef) (needsCore : Bool) (s : State) (body : Cmd → State → State)
    (h : ∀ e s, SameCount s (body e s)) : SameCount s (runCmd i c needsCore s body) := by
  unfold runCmd
  dsimp only
  split
  · simp
  · split
    · simp
    · split <;> simp [h]

@[simp] theorem failStored_sameCount (c : CmdRef) (f : Fail) (s : State) : SameCount s (failStored c f s) := by
  unfold failStored
  dsimp only
  (repeat' split) <;> simp

@[simp] theorem transmit_sameCount (p : Nat) (m : FabMsg) (s : State) : SameCount s (transmit p m s) := by simp [transmit]

@[simp] theorem launch_sameCount (m : FabMsg) (s : State) : SameCount s (launch m s) := by
  unfold launch
  split <;> simp

@[simp] theorem sendReqAt_sameCount (sl : Nat × Nat) (parts : List (Nat × Nat)) (dest cls kind : Nat) (args : List Nat)
    (bs : List Byte) (owner : Barrier) (s : State) : SameCount s (sendReqAt sl parts dest cls kind args bs owner s) := by
  simp [sendReqAt]

@[simp] theorem sendReq_sameCount (dest cls kind : Nat) (args : List Nat) (bs : List Byte) (owner : Barrier) (s : State) :
    SameCount s (sendReq dest cls kind args bs owner s) := by simp [sendReq]

/-! ### Segments, places and the work of a command -/

@[simp] theorem noteRead_sameCount (a n : Nat) (s : State) : SameCount s (noteRead a n s) := by
  unfold noteRead
  (repeat' split) <;> simp

@[simp] theorem noteDescRead_sameCount (ctx seg : Nat) (s : State) : SameCount s (noteDescRead ctx seg s) := by
  simp [noteDescRead]

@[simp] theorem putPool_sameCount (die key : Nat) (l : List CachedDesc) (s : State) : SameCount s (putPool die key l s) := by
  simp [putPool]

@[simp] theorem fillCore_sameCount (n key desc : Nat) (s : State) : SameCount s (fillCore n key desc s) := by simp [fillCore]

@[simp] theorem noteWalkFail_sameCount (die ctx seg : Nat) (s : State) : SameCount s (noteWalkFail die ctx seg s) := by
  simp [noteWalkFail]

@[simp] theorem resolveDesc_sameCount (core ctx seg : Nat) (s : State) : SameCount s (resolveDesc core ctx seg s).1 := by
  unfold resolveDesc
  dsimp only
  (repeat' split) <;> simp

@[simp] theorem farRequest_sameCount (sl : Nat × Nat) (where_ addr n : Nat) (write : Option (List Byte)) (owner : Barrier)
    (s : State) : SameCount s (farRequest sl where_ addr n write owner s) := by
  unfold farRequest
  (repeat' split) <;> simp

@[simp] theorem placeWrite_sameCount (sl : Nat × Nat) (p : Place) (bs : List Byte) (owner : Barrier) (s : State) :
    SameCount s (placeWrite sl p bs owner s) := by
  unfold placeWrite
  split <;> simp

@[simp] theorem placePoisonWrite_sameCount (p : Place) (s : State) : SameCount s (placePoisonWrite p s) := by
  unfold placePoisonWrite
  split <;> simp

@[simp] theorem placeWriteBad_sameCount (sl : Nat × Nat) (p : Place) (bs : List Byte) (owner : Barrier) (s : State) :
    SameCount s (placeWriteBad sl p bs owner s) := by
  unfold placeWriteBad
  split <;> simp

@[simp] theorem charge_sameCount (cls ctx core n : Nat) (s : State) : SameCount s (charge cls ctx core n s) := by simp [charge]
@[simp] theorem parkCtx_sameCount (x n cls : Nat) (s : State) : SameCount s (parkCtx x n cls s) := by simp [parkCtx]

@[simp] theorem Work.start_sameCount (c : CmdRef) (core : Nat) (s : State) : SameCount s (Work.start c core s).s := by
  simp [Work.start]

@[simp] theorem Work.stop_sameCount (w : Work) (f : Fail) : SameCount w.s (w.stop f).s := by simp [Work.stop]

@[simp] theorem Work.upd_sameCount (w : Work) (f : State → State) (hf : ∀ s, SameCount s (f s)) : SameCount w.s (w.upd f).s := by
  simp [Work.upd, hf]

@[simp] theorem Work.hear_sameCount (w : Work) (f : Work → Work × Heard) (hf : ∀ w, SameCount w.s (f w).1.s) :
    SameCount w.s (w.hear f).1.s := by
  unfold Work.hear
  split
  · simp
  · split
    · simp
    · simp [hf]

@[simp] theorem Work.mod_sameCount (w : Work) (f : State → State) (hf : ∀ s, SameCount s (f s)) : SameCount w.s (w.mod f).s := by
  simp [Work.mod, hf]

@[simp] theorem Work.read_sameCount (w : Work) (f : State → Nat) : SameCount w.s (w.read f).1.s := by
  simp [Work.read]

@[simp] theorem Work.check_sameCount (w : Work) (f : State → Option Fail) : SameCount w.s (w.check f).s := by
  unfold Work.check
  split
  · simp
  · refine Work.hear_sameCount _ _ fun w => ?_
    dsimp only
    split <;> simp

@[simp] theorem Work.payNow_sameCount (w : Work) (cls n : Nat) : SameCount w.s (w.payNow cls n).s := by
  unfold Work.payNow
  (repeat' split) <;> simp

@[simp] theorem Work.charge_sameCount (w : Work) (cls n : Nat) : SameCount w.s (w.charge cls n).s := by simp [Work.charge]

@[simp] theorem Work.traffic_sameCount (w : Work) (g : Seg) (n : Nat) : SameCount w.s (w.traffic g n).s := by
  induction n generalizing w with
  | zero => simp [Work.traffic]
  | succ n ih => simp [Work.traffic, ih]

@[simp] theorem Work.seg_sameCount (w : Work) (slot seg rights : Nat) (classOk : Nat → Bool) :
    SameCount w.s (w.seg slot seg rights classOk).1.s := by
  unfold Work.seg
  dsimp only
  split <;> simp

@[simp] theorem Work.hold_sameCount (w : Work) (d : CachedDesc) : SameCount w.s (w.hold d).s := by simp [Work.hold]

@[simp] theorem Work.ref_sameCount (w : Work) (seg : Nat) (f : Work → Work × Nat) (hf : ∀ w, SameCount w.s (f w).1.s) :
    SameCount w.s (w.ref seg f).1.s := by
  simp [Work.ref, hf]

@[simp] theorem Work.tilesRef_sameCount (w : Work) (slot : Nat) (r : Tref) (last rights : Nat) (classOk : Nat → Bool) :
    SameCount w.s (w.tilesRef slot r last rights classOk).1.s := by
  unfold Work.tilesRef
  refine Work.ref_sameCount _ _ _ fun w => ?_
  dsimp only
  (repeat' split) <;> simp

@[simp] theorem Work.bytesRef_sameCount (w : Work) (slot : Nat) (r : Bref) (n rights : Nat) (classOk : Nat → Bool) :
    SameCount w.s (w.bytesRef slot r n rights classOk).1.s := by
  unfold Work.bytesRef
  refine Work.ref_sameCount _ _ _ fun w => ?_
  dsimp only
  (repeat' split) <;> simp

@[simp] theorem Work.allot_sameCount (w : Work) (cls unit : Nat) : SameCount w.s (w.allot cls unit).s := by simp [Work.allot]
@[simp] theorem Work.allotSeg_sameCount (w : Work) (g : Seg) : SameCount w.s (w.allotSeg g).s := by simp [Work.allotSeg]

@[simp] theorem notePoisonRead_sameCount (s : State) (p : Place) : SameCount s (notePoisonRead s p) := by
  unfold notePoisonRead
  (repeat' split) <;> simp

@[simp] theorem ledgerTile_sameCount (dom slot : Nat) (p : Place) (h : Header) (s : State) :
    SameCount s (ledgerTile dom slot p h s) := by simp [ledgerTile]

@[simp] theorem ledgerCorrupt_sameCount (slot : Nat) (p : Place) (h : Header) (s : State) :
    SameCount s (ledgerCorrupt slot p h s) := by simp [ledgerCorrupt]

@[simp] theorem wakeLarder_sameCount (p : Place) (s : State) : SameCount s (wakeLarder p s) := by
  unfold wakeLarder
  (repeat' split) <;> simp

@[simp] theorem Work.await_sameCount (w : Work) : SameCount w.s w.await.s := by simp [Work.await]
@[simp] theorem holdAccess_sameCount (i : HeldAccess) (s : State) : SameCount s (holdAccess i s) := by simp [holdAccess]

@[simp] theorem Work.ask_sameCount (w : Work) (slot seg : Nat) (p : Place) (n : Nat) : SameCount w.s (w.ask slot seg p n).s := by
  unfold Work.ask
  split <;> simp

@[simp] theorem Work.loadNow_sameCount (w : Work) (slot seg : Nat) (pp ph : Place) (accepts : Fmt → Bool) :
    SameCount w.s (w.loadNow slot seg pp ph accepts).1.s := by
  unfold Work.loadNow
  dsimp only
  (repeat' split) <;> simp

@[simp] theorem Work.loadAt_sameCount (w : Work) (slot seg : Nat) (pp ph : Place) (accepts : Fmt → Bool) :
    SameCount w.s (w.loadAt slot seg pp ph accepts).1.s := by simp [Work.loadAt]

@[simp] theorem Work.headerAt_sameCount (w : Work) (slot seg : Nat) (pp ph : Place) :
    SameCount w.s (w.headerAt slot seg pp ph).1.s := by
  unfold Work.headerAt
  split
  · simp
  · refine Work.hear_sameCount _ _ fun w => ?_
    (repeat' split) <;> simp

@[simp] theorem openTile_sameCount (slot seg : Nat) (ph : Place) (gen : Nat) (own : Barrier) (s : State) :
    SameCount s (openTile slot seg ph gen own s) := by simp [openTile]

@[simp] theorem Work.transfer_sameCount (w : Work) (pp : Place) (t : Tile) (o : Nat) (put : Tile → Work → Work)
    (hput : ∀ x w, SameCount w.s (put x w).s) : SameCount w.s (w.transfer pp t o put).s := by
  unfold Work.transfer
  split <;> simp [hput]

@[simp] theorem Work.storeAt_sameCount (w : Work) (slot seg : Nat) (pp ph : Place) (h : Header) (payload : List Byte) :
    SameCount w.s (w.storeAt slot seg pp ph h payload).s := by
  unfold Work.storeAt
  split
  · simp
  · refine Work.hear_sameCount _ _ fun w => ?_
    (repeat' split) <;> simp

@[simp] theorem Work.storeBytes_sameCount (w : Work) (slot seg : Nat) (p : Place) (bs : List Byte) :
    SameCount w.s (w.storeBytes slot seg p bs).s := by
  unfold Work.storeBytes
  split
  · simp
  · refine Work.hear_sameCount _ _ fun w => ?_
    (repeat' split) <;> simp

@[simp] theorem Work.payTile_sameCount (w : Work) (write : Bool) (slot seg : Nat) (g : Seg) (pp : Place) :
    SameCount w.s (w.payTile write slot seg g pp).s := by simp [Work.payTile]

@[simp] theorem Work.store_sameCount (w : Work) (slot seg : Nat) (g : Seg) (i : Nat) (h : Header) (payload : List Byte) :
    SameCount w.s (w.store slot seg g i h payload).s := by simp [Work.store]

@[simp] theorem Work.each_sameCount (f : Nat → Work → Work) (h : ∀ i w, SameCount w.s (f i w).s) (n i : Nat) (w : Work) :
    SameCount w.s (Work.each f n i w).s := by
  induction n generalizing i w with
  | zero => simp [Work.each]
  | succ n ih => simp [Work.each, ih, h]

@[simp] theorem Work.each'_sameCount (f : Nat → Work → Seg → Work × Seg) (h : ∀ i w g, SameCount w.s (f i w g).1.s) (n i : Nat)
    (g : Seg) (w : Work) : SameCount w.s (Work.each' f n i g w).1.s := by
  induction n generalizing i g w with
  | zero => simp [Work.each']
  | succ n ih => simp [Work.each', ih, h]

@[simp] theorem Work.storeInvalid_sameCount (w : Work) (slot seg : Nat) (g : Seg) (i : Nat) (h : Header) :
    SameCount w.s (w.storeInvalid slot seg g i h).s := by
  exact Work.store_sameCount { w with fail := none } _ _ _ _ _ _

@[simp] theorem Work.quit_sameCount (w : Work) : SameCount w.s w.quit := by
  unfold Work.quit
  split <;> simp

@[simp] theorem Work.bytes_sameCount (w : Work) (bad : Fail) (slot seg : Nat) (g : Seg) (o n : Nat) :
    SameCount w.s (w.bytes bad slot seg g o n).1.s := by
  unfold Work.bytes
  split
  · simp
  · refine Work.hear_sameCount _ _ fun w => ?_
    dsimp only
    (repeat' split) <;> simp

@[simp] theorem Work.word_sameCount (w : Work) (slot seg : Nat) (g : Seg) (o : Nat) : SameCount w.s (w.word slot seg g o).1.s := by
  simp [Work.word]

/-! ### Tallies (R391 to R412) -/

@[simp] theorem incOps_sameCount (die : Nat) (s : State) : SameCount s (incOps die s) := by simp [incOps]
@[simp] theorem incFaults_sameCount (die : Nat) (s : State) : SameCount s (incFaults die s) := by simp [incFaults]

@[simp] theorem acquireDone_sameCount (o : CmdRef) (core : Nat) (t : Tally) (s : State) :
    SameCount s (acquireDone o core t s) := by
  unfold acquireDone
  split <;> simp

@[simp] theorem takeEffect_sameCount (die i n core : Nat) (o : CmdRef) (s : State) :
    SameCount s (takeEffect die i n core o s) := by simp [takeEffect]

@[simp] theorem serveWaits_sameCount (die i : Nat) (s : State) : SameCount s (serveWaits die i s) := by simp [serveWaits]

@[simp] theorem serveTakes_sameCount (die i : Nat) (l : List Waiter) (s : State) : SameCount s (serveTakes die i l s) := by
  induction l generalizing s with
  | nil => simp [serveTakes]
  | cons w l ih => simp [serveTakes, ih]

@[simp] theorem serve_sameCount (die i : Nat) (s : State) : SameCount s (serve die i s) := by simp [serve]

@[simp] theorem applyAdd_sameCount (die i n v l inst : Nat) (s : State) : SameCount s (applyAdd die i n v l inst s).1 := by
  unfold applyAdd
  dsimp only
  split <;> simp

@[simp] theorem applySub_sameCount (die i n l inst : Nat) (s : State) : SameCount s (applySub die i n l inst s).1 := by
  simp [applySub]

@[simp] theorem addWithPartner_sameCount (die i n l inst : Nat) (s : State) : SameCount s (addWithPartner die i n l inst s).1 := by
  unfold addWithPartner
  dsimp only
  (repeat' split) <;> simp

@[simp] theorem addWaiter_sameCount (w : Waiter) (s : State) : SameCount s (addWaiter w s) := by simp [addWaiter]

@[simp] theorem applyWait_sameCount (die i n core : Nat) (o : CmdRef) (s : State) :
    SameCount s (applyWait die i n core o s).1 := by simp [applyWait]

@[simp] theorem applyTake_sameCount (die i n core : Nat) (o : CmdRef) (s : State) :
    SameCount s (applyTake die i n core o s).1 := by simp [applyTake]

@[simp] theorem dropWaiters_sameCount (p : Waiter → Bool) (f : Fail) (s : State) : SameCount s (dropWaiters p f s) := by
  simp [dropWaiters]

/-! ### How runs and commands end (R218 to R223, R261, R296) -/

@[simp] theorem modProg_sameCount (h : Nat) (f : Program → Program) (s : State) : SameCount s (modProg h f s) := by
  unfold modProg
  split <;> simp

@[simp] theorem dropRun_sameCount (h r : Nat) (s : State) : SameCount s (dropRun h r s) := by simp [dropRun]

@[simp] theorem dropCmdChain_sameCount (c : CmdRef) (n : Nat) (s : State) : SameCount s (dropCmdChain c n s) := by
  simp [dropCmdChain]

@[simp] theorem setCount_sameCount (d i n : Nat) (s : State) : SameCount s (setCount d i n s) := by simp [setCount]
@[simp] theorem resetStreams_sameCount (p : Program) (s : State) : SameCount s (resetStreams p s) := by simp [resetStreams]

@[simp] theorem dropStaged_sameCount (h r : Nat) (drop : StagedIn → Bool) (s : State) : SameCount s (dropStaged h r drop s) := by
  unfold dropStaged
  (repeat' split) <;> simp

@[simp] theorem unresident_sameCount (x : Nat) (s : State) : SameCount s (unresident x s) := by simp [unresident]
@[simp] theorem takeIn_sameCount (x n : Nat) (s : State) : SameCount s (takeIn x n s) := by simp [takeIn]
@[simp] theorem forgetTiles_sameCount (h : Nat) (s : State) : SameCount s (forgetTiles h s) := by simp [forgetTiles]

@[simp] theorem releaseProg_sameCount (h : Nat) (p : Program) (s : State) : SameCount s (releaseProg h p s) := by
  simp [releaseProg]

@[simp] theorem dropLeft_sameCount (s : State) : SameCount s (dropLeft s) := by simp [dropLeft]
@[simp] theorem dropSet_sameCount (part id : Nat) (s : State) : SameCount s (dropSet part id s) := by simp [dropSet]

@[simp] theorem sweep_sameCount (s : State) : SameCount s (sweep s) := by
  refine SameCount.trans (dropLeft_sameCount s) (foldl_sameCount _ (fun s i => ?_) _ _)
  (repeat' split) <;> simp

@[simp] theorem endTeardown_sameCount (x : Nat) (s : State) : SameCount s (endTeardown x s) := by
  unfold endTeardown
  (repeat' split) <;> simp

@[simp] theorem sendEpoch_sameCount (dest op : Nat) (args : List Nat) (s : State) : SameCount s (sendEpoch dest op args s) := by
  simp [sendEpoch]

@[simp] theorem endCommit_sameCount (h : Nat) (s : State) : SameCount s (endCommit h s) := by simp [endCommit]

@[simp] theorem failCommit_sameCount (h : Nat) (f : Fail) (s : State) : SameCount s (failCommit h f s) := by
  unfold failCommit
  (repeat' split) <;> simp

@[simp] theorem failCommits_sameCount (pick : Program → Bool) (f : Fail) (s : State) : SameCount s (failCommits pick f s) := by
  simp [failCommits]

@[simp] theorem abortCommit_sameCount (c : CmdRef) (f : Fail) (s : State) : SameCount s (abortCommit c f s) := by
  unfold abortCommit
  split <;> simp

@[simp] theorem castVote_sameCount (h : Nat) (s : State) : SameCount s (castVote h s) := by
  unfold castVote
  split <;> simp

@[simp] theorem finishUnload_sameCount (h : Nat) (s : State) : SameCount s (finishUnload h s) := by
  unfold finishUnload
  (repeat' split) <;> simp

@[simp] theorem endFailed_sameCount (h : Nat) (r : Run) (f : Fail) (s : State) : SameCount s (endFailed h r f s) := by
  unfold endFailed
  split <;> simp

@[simp] theorem reapList_sameCount (h : Nat) (l : List Nat) (s : State) : SameCount s (reapList h l s) := by
  induction l generalizing s with
  | nil => simp [reapList]
  | cons i l ih =>
    unfold reapList
    (repeat' split) <;> simp [ih]

@[simp] theorem reap_sameCount (h : Nat) (s : State) : SameCount s (reap h s) := by
  unfold reap
  split <;> simp

@[simp] theorem failRun_sameCount (h r : Nat) (f : Fail) (s : State) : SameCount s (failRun h r f s) := by simp [failRun]

@[simp] theorem completeRuns_sameCount (h : Nat) (l : List Nat) (s : State) : SameCount s (completeRuns h l s) := by
  induction l generalizing s with
  | nil => simp [completeRuns]
  | cons i l ih =>
    unfold completeRuns
    (repeat' split) <;> simp [ih]

@[simp] theorem checkRuns_sameCount (h : Nat) (s : State) : SameCount s (checkRuns h s) := by
  unfold checkRuns
  split <;> simp

@[simp] theorem restoreHead_sameCount (x : Nat) (s : State) : SameCount s (restoreHead x s) := by simp [restoreHead]
@[simp] theorem unwait_sameCount (c : CmdRef) (s0 : State) : SameCount s0 (unwait c s0) := by simp [unwait]

@[simp] theorem dropStage_sameCount (e : Cmd) (s : State) : SameCount s (dropStage e s) := by
  unfold dropStage
  split <;> simp

@[simp] theorem Work.park_sameCount (w : Work) : SameCount w.s w.park := by simp [Work.park]
@[simp] theorem Work.letGo_sameCount (w : Work) (s : State) : SameCount s (w.letGo s) := by simp [Work.letGo]

@[simp] theorem Work.finish_sameCount (w : Work) (detail : Nat) : SameCount w.s (w.finish detail) := by
  unfold Work.finish
  (repeat' split) <;> simp

end Sys2Proof.Machine
end

section
/-! Queue control, tally and movement commands leave the bell count (R307). -/

namespace Sys2Proof.Machine

/-! ### Queue control and tally commands (R274 to R276) -/

@[simp] theorem execNop_keeps (c : CmdRef) (s : State) : Keeps s (execNop c s) := by simp [execNop]

@[simp] theorem markEffect_sameCount (c : CmdRef) (p : MarkP) (s : State) : SameCount s (markEffect c p s) := by
  unfold markEffect
  split <;> simp

@[simp] theorem execQueueMark_keeps (c : CmdRef) (p : MarkP) (s : State) : Keeps s (execQueueMark c p s) := by
  simp [execQueueMark]

@[simp] theorem fenceEffect_sameCount (c : CmdRef) (k : FenceKind) (s : State) : SameCount s (fenceEffect c k s) := by
  simp [fenceEffect]

@[simp] theorem execFence_keeps (c : CmdRef) (k : FenceKind) (s : State) : Keeps s (execFence c k s) := by simp [execFence]

@[simp] theorem finishOp_sameCount (c : CmdRef) (r : State × Option Fail) : SameCount r.1 (finishOp c r) := by
  unfold finishOp
  split <;> simp

@[simp] theorem execTallyAdd_keeps (c : CmdRef) (t : TallyRef) (scope : BitVec 8) (n : BitVec 64) (s : State) :
    Keeps s (execTallyAdd c t scope n s) := by
  unfold execTallyAdd
  refine (keeps_next _ _).mpr (runCmd_sameCount _ _ _ _ _ fun e s => ?_)
  (repeat' split) <;> simp

@[simp] theorem execTallySub_keeps (c : CmdRef) (t : TallyRef) (scope : BitVec 8) (n : BitVec 64) (s : State) :
    Keeps s (execTallySub c t scope n s) := by
  unfold execTallySub
  refine (keeps_next _ _).mpr (runCmd_sameCount _ _ _ _ _ fun e s => ?_)
  (repeat' split) <;> simp

@[simp] theorem waitOp_sameCount (c : CmdRef) (r : State × Option Fail) : SameCount r.1 (waitOp c r) := by
  unfold waitOp
  split <;> simp

@[simp] theorem execTallyWait_keeps (c : CmdRef) (t : TallyRef) (n : BitVec 64) (s : State) : Keeps s (execTallyWait c t n s) := by
  unfold execTallyWait
  refine (keeps_next _ _).mpr (runCmd_sameCount _ _ _ _ _ fun e s => ?_)
  (repeat' split) <;> simp

@[simp] theorem execTallyTake_keeps (c : CmdRef) (t : TallyRef) (n : BitVec 64) (s : State) : Keeps s (execTallyTake c t n s) := by
  unfold execTallyTake
  refine (keeps_next _ _).mpr (runCmd_sameCount _ _ _ _ _ fun e s => ?_)
  (repeat' split) <;> simp

@[simp] theorem execSignalRemote_keeps (c : CmdRef) (t : TallyRef) (scope : BitVec 8) (module : BitVec 16) (n : BitVec 64)
    (s : State) : Keeps s (execSignalRemote c t scope module n s) := by
  unfold execSignalRemote
  refine (keeps_next _ _).mpr (runCmd_sameCount _ _ _ _ _ fun e s => ?_)
  dsimp only
  (repeat' split) <;> simp

@[simp] theorem signalWork_sameCount (add : Bool) (c : CmdRef) (p : SignalP) (r : Bref) (e : Cmd) (s : State) :
    SameCount s (signalWork add c p r e s).s := by simp [signalWork]

@[simp] theorem signalHost_sameCount (add : Bool) (c : CmdRef) (p : SignalP) (e : Cmd) (s : State) :
    SameCount s (signalHost add c p e s) := by
  unfold signalHost
  split <;> simp

@[simp] theorem signalHeld_sameCount (b lost : Bool) (s : State) (e : Cmd) : SameCount s (signalHeld b lost s e) := by
  unfold signalHeld
  (repeat' split) <;> simp

@[simp] theorem execSignalHost_keeps (c : CmdRef) (p : SignalP) (s : State) : Keeps s (execSignalHost c p s) := by
  simp [execSignalHost]

@[simp] theorem execSignalHostAdd_keeps (c : CmdRef) (p : SignalP) (s : State) : Keeps s (execSignalHostAdd c p s) := by
  simp [execSignalHostAdd]

@[simp] theorem signalOn_sameCount (c : CmdRef) (add : Bool) (p : SignalP) (e : Cmd) (s : State) :
    SameCount s (signalOn c add p e s) := by simp [signalOn]

@[simp] theorem settleOne_sameCount (s : State) (e : Cmd) : SameCount s (settleOne s e) := by
  unfold settleOne
  (repeat' split) <;> simp

@[simp] theorem settle_sameCount (s : State) : SameCount s (settle s) := by simp [settle]

@[simp] theorem abortOne_sameCount (f : Fail) (s : State) (e : Cmd) : SameCount s (abortOne f s e) := by
  unfold abortOne
  (repeat' split) <;> simp

@[simp] theorem abortWhere_sameCount (p : Cmd → Bool) (f : Fail) (s : State) : SameCount s (abortWhere p f s) := by
  simp [abortWhere]

/-! ### The dispatcher and the engines (R74, R77, R172) -/

@[simp] theorem spillEngine_sameCount (n e ctx : Nat) (s : State) : SameCount s (spillEngine n e ctx s) := by
  unfold spillEngine
  dsimp only
  split <;> simp

@[simp] theorem spillOwn_sameCount (n e : Nat) (s : State) : SameCount s (spillOwn n e s) := by
  unfold spillOwn
  split <;> simp

@[simp] theorem restoreChain_sameCount (n e : Nat) (x : Spilled) (s : State) : SameCount s (restoreChain n e x s) := by
  simp [restoreChain]

@[simp] theorem takeEngine_sameCount (n e ctx : Nat) (chain : Bool) (s : State) : SameCount s (takeEngine n e ctx chain s) := by
  unfold takeEngine
  split <;> simp

@[simp] theorem Work.newEngine_sameCount (w : Work) (chain : Bool) (i : Nat) : SameCount w.s (w.newEngine chain i).1.s := by
  unfold Work.newEngine
  refine Work.hear_sameCount _ _ fun w => ?_
  dsimp only
  split <;> simp

@[simp] theorem Work.onEngine_sameCount (w : Work) (e : Nat) : SameCount w.s (w.onEngine e).s := by simp [Work.onEngine]

@[simp] theorem Work.sameEngine_sameCount (w : Work) : SameCount w.s w.sameEngine.1.s := by
  unfold Work.sameEngine
  refine Work.hear_sameCount _ _ fun w => ?_
  dsimp only
  split
  · split <;> simp
  · split <;> simp

@[simp] theorem Work.dispatched_sameCount (w : Work) : SameCount w.s w.dispatched.s := by simp [Work.dispatched]

@[simp] theorem Work.held_sameCount (w : Work) (e : Nat) (id : List Nat) (k : Nat) : SameCount w.s (w.held e id k).1.s := by
  simp [Work.held]

@[simp] theorem fillShadow_sameCount (n e : Nat) (l : List HeldTile) (s : State) : SameCount s (fillShadow n e l s) := by
  simp [fillShadow]

@[simp] theorem swapBlock_sameCount (n e : Nat) (s : State) : SameCount s (swapBlock n e s) := by simp [swapBlock]

@[simp] theorem engFlag_sameCount (n e : Nat) (f : Fld) (on : Bool) (s : State) : SameCount s (engFlag n e f on s) := by
  simp [engFlag]

@[simp] theorem vflagsInto_sameCount (n e : Nat) (v : VFlags) (s : State) : SameCount s (vflagsInto n e v s) := by
  simp [vflagsInto]

@[simp] theorem addBusy_sameCount (n e cycles rows : Nat) (s : State) : SameCount s (addBusy n e cycles rows s) := by
  simp [addBusy]

@[simp] theorem noteIssue_sameCount (n : Nat) (s : State) : SameCount s (noteIssue n s) := by simp [noteIssue]

/-! ### Movement commands (R277 to R280) -/

@[simp] theorem Work.pay_sameCount (w : Work) (write : Bool) (t : TileAt) : SameCount w.s (w.pay write t).s := by
  unfold Work.pay
  split <;> simp

@[simp] theorem Work.moveTile_sameCount (w : Work) (src dst : TileAt) : SameCount w.s (w.moveTile src dst).s := by
  unfold Work.moveTile
  dsimp only
  split <;> simp

@[simp] theorem Work.copySector_sameCount (w : Work) (src dst : Bref) (gs gd : Seg) (i : Nat) :
    SameCount w.s (w.copySector src dst gs gd i).s := by
  have paid : SameCount w.s (if i % 64 = 0 then (w.traffic gs 1).traffic gd 1 else w).s := by simp
  have stored (bad : Bool) (p : Place) (bs : List Byte) (owner : Barrier) (s : State) :
      SameCount s ((if bad then placeWriteBad else placeWrite) (8, dst.seg.toNat) p bs owner s) := by
    split <;> simp
  unfold Work.copySector
  extract_lets w1
  split
  · exact paid
  · refine paid.trans (Work.hear_sameCount _ _ fun w => ?_)
    dsimp only
    split
    · simp
    · split
      · simp
      · split <;> simp [stored]

@[simp] theorem copyWork_sameCount (c : CmdRef) (p : CopyP) (e : Cmd) (s : State) : SameCount s (copyWork c p e s).s := by
  unfold copyWork
  split <;> simp

@[simp] theorem execCopy_keeps (c : CmdRef) (p : CopyP) (s : State) : Keeps s (execCopy c p s) := by simp [execCopy]

@[simp] theorem Work.entry_sameCount (w : Work) (r : Bref) (g : Seg) (i : Nat) : SameCount w.s (w.entry r g i).1.s := by
  simp [Work.entry]

@[simp] theorem Work.named_sameCount (w : Work) (slot : Nat) (t : Tref) (rights : Nat) :
    SameCount w.s (w.named slot t rights).1.s := by simp [Work.named]

@[simp] theorem gatherWork_sameCount (c : CmdRef) (p : IdxP) (e : Cmd) (s : State) : SameCount s (gatherWork c p e s).s := by
  simp [gatherWork]

@[simp] theorem execGather_keeps (c : CmdRef) (p : IdxP) (s : State) : Keeps s (execGather c p s) := by simp [execGather]

@[simp] theorem scatterWork_sameCount (c : CmdRef) (p : IdxP) (e : Cmd) (s : State) : SameCount s (scatterWork c p e s).s := by
  simp [scatterWork]

@[simp] theorem execScatter_keeps (c : CmdRef) (p : IdxP) (s : State) : Keeps s (execScatter c p s) := by simp [execScatter]

@[simp] theorem zeroWork_sameCount (c : CmdRef) (p : ZeroP) (e : Cmd) (s : State) : SameCount s (zeroWork c p e s).s := by
  unfold zeroWork
  dsimp only
  split <;> simp [-List.reduceReplicate]

@[simp] theorem execZero_keeps (c : CmdRef) (p : ZeroP) (s : State) : Keeps s (execZero c p s) := by simp [execZero]

@[simp] theorem Work.volume_sameCount (w : Work) (slot : Nat) (p : CellarP) : SameCount w.s (w.volume slot p).s := by
  simp [Work.volume]

@[simp] theorem buffered_sameCount (v i : Nat) (s : State) : SameCount s (buffered v i s) := by simp [buffered]

@[simp] theorem cellarReadWork_sameCount (c : CmdRef) (p : CellarP) (e : Cmd) (s : State) :
    SameCount s (cellarReadWork c p e s).s := by simp [cellarReadWork]

@[simp] theorem execCellarRead_keeps (c : CmdRef) (p : CellarP) (s : State) : Keeps s (execCellarRead c p s) := by
  simp [execCellarRead]

@[simp] theorem cellarWriteWork_sameCount (c : CmdRef) (p : CellarP) (e : Cmd) (s : State) :
    SameCount s (cellarWriteWork c p e s).s := by simp [cellarWriteWork]

@[simp] theorem execCellarWrite_keeps (c : CmdRef) (p : CellarP) (s : State) : Keeps s (execCellarWrite c p s) := by
  simp [execCellarWrite]

end Sys2Proof.Machine
end

section
/-! Matrix, tensor, function and row commands leave the bell count (R307). -/

namespace Sys2Proof.Machine

/-! ### The matrix array (R281, R282) -/

@[simp] theorem Work.stageOf_sameCount (w : Work) (o : Opnd) (i : Nat) : SameCount w.s (w.stageOf o i).s := by
  simp [Work.stageOf]

@[simp] theorem Work.take_sameCount (w : Work) (o : Opnd) (i : Nat) (accepts : Fmt → Bool) :
    SameCount w.s (w.take o i accepts).1.s := by
  have h (p : Work × _) (e : (w.stageOf o i).loadAt o.slot (o.at (w.stageOf o i).s i).seg (o.at (w.stageOf o i).s i).payload
      (o.at (w.stageOf o i).s i).header accepts = p) : SameCount w.s p.1.s := by
    rw [← e]
    simp
  unfold Work.take
  dsimp only
  split
  next e => exact h _ e
  next e => split <;> simpa using h _ e

theorem Work.take_of_eq {w w1 : Work} {o : Opnd} {i : Nat} {a : Fmt → Bool} {r : Option (Fmt × Tile)}
    (h : w.take o i a = (w1, r)) : SameCount w.s w1.s := by
  simpa only [h] using Work.take_sameCount w o i a

@[simp] theorem Work.peek_sameCount (w : Work) (o : Opnd) (i : Nat) : SameCount w.s (w.peek o i).1.s := by simp [Work.peek]

@[simp] theorem Work.putAt_sameCount (h : Header) (payload : List Byte) (w : Work) (t : TileAt) :
    SameCount w.s (Work.putAt h payload w t).s := by simp [Work.putAt]

@[simp] theorem Work.put_sameCount (w : Work) (o : Opnd) (i : Nat) (h : Header) (payload : List Byte) :
    SameCount w.s (w.put o i h payload).s := by simp [Work.put]

@[simp] theorem Work.void_sameCount (w : Work) (o : Opnd) (i : Nat) (h : Header) :
    SameCount w.s (w.void o i h).s := Work.put_sameCount { w with fail := none } _ _ _ _

@[simp] theorem Work.maxexpAt_sameCount (w : Work) (o : Opnd) (i : Nat) : SameCount w.s (w.maxexpAt o i).1.s := by
  unfold Work.maxexpAt
  dsimp only
  (repeat' split) <;> simp

@[simp] theorem Work.maxOver_sameCount (w : Work) (o : Opnd) (l : List Nat) : SameCount w.s (w.maxOver o l).1.s := by
  induction l generalizing w with
  | nil => simp [Work.maxOver]
  | cons i l ih => simp [Work.maxOver, ih]

@[simp] theorem putChain_sameCount (n e : Nat) (c : Chain) (x : ChainAcc) (anchor : Int) (s : State) :
    SameCount s (putChain n e c x anchor s) := by simp [putChain]

@[simp] theorem MM.maxBlocks_sameCount (p : MM) (w : Work) (l : List (Nat × Nat)) : SameCount w.s (p.maxBlocks w l).1.s := by
  induction l generalizing w with
  | nil => simp [MM.maxBlocks]
  | cons x l ih => simp [MM.maxBlocks, ih]

@[simp] theorem MM.maxWeights_sameCount (p : MM) (w : Work) : SameCount w.s (p.maxWeights w).1.s := by simp [MM.maxWeights]

@[simp] theorem MM.heldBlock_sameCount (p : MM) (e j k : Nat) (w : Work) : SameCount w.s (p.heldBlock e j k w).1.s := by
  unfold MM.heldBlock
  dsimp only
  split
  next e => exact .of_fst (by simp) e
  next w1 _ _ e =>
    have h : SameCount w.s w1.s := .of_fst (by simp) e
    split
    · exact h
    · split
      next e2 => exact .of_fst (by simp [h]) e2
      next e2 => exact .of_fst (by simp [h]) e2

@[simp] theorem MM.loadBlock_sameCount (p : MM) (e j k : Nat) (w : Work) : SameCount w.s (p.loadBlock e j k w).1.s := by
  unfold MM.loadBlock
  dsimp only
  split
  next e => exact Work.take_of_eq e
  next e =>
    have h := Work.take_of_eq e
    split
    · simp [h]
    · split
      · simp [h]
      · split
        next e2 => exact h.trans (Work.take_of_eq e2)
        next e2 =>
          have h2 := h.trans (Work.take_of_eq e2)
          split <;> simp [h2]

@[simp] theorem MM.block_sameCount (p : MM) (e j k : Nat) (held : Option (List (Fmt × Tile))) (w : Work) :
    SameCount w.s (p.block e j k held w).1.s := by
  unfold MM.block
  split <;> simp

@[simp] theorem MM.loadC_sameCount (p : MM) (o : Opnd) (i j n : Nat) (x : ChainAcc) (u t : Nat) (w : Work) :
    SameCount w.s (p.loadC o i j n x u t w).1.s := by
  induction u generalizing x t w with
  | zero => simp [MM.loadC]
  | succ u ih =>
    unfold MM.loadC
    split
    next e => exact Work.take_of_eq e
    next e =>
      have h := Work.take_of_eq e
      simp [ih, h]

@[simp] theorem MM.voidBlock_sameCount (p : MM) (e epoch i j m n : Nat) (w : Work) :
    SameCount w.s (p.voidBlock e epoch i j m n w).s := by simp [MM.voidBlock]

@[simp] theorem MM.overflow_sameCount (p : MM) (e epoch i j : Nat) (x : ChainAcc) (w : Work) :
    SameCount w.s (p.overflow e epoch i j x w).s := by simp [MM.overflow]

@[simp] theorem MM.drainOne_sameCount (p : MM) (e epoch i j : Nat) (x : ChainAcc) (t : Nat) (w : Work) :
    SameCount w.s (p.drainOne e epoch i j x t w).s := by simp [MM.drainOne]

@[simp] theorem MM.drain_sameCount (p : MM) (epoch i j e : Nat) (x : ChainAcc) (w : Work) :
    SameCount w.s (p.drain epoch i j e x w).s := by simp [MM.drain]

@[simp] theorem ChainAcc.note_sameCount (x : ChainAcc) (n e : Nat) (s : State) : SameCount s (x.note n e s) := by
  simp [ChainAcc.note]

@[simp] theorem MM.lowerSlot_sameCount (p : MM) (i k : Nat) (w : Work) : SameCount w.s (p.lowerSlot i k w).s := by
  unfold MM.lowerSlot
  split
  · simp
  · dsimp only
    split
    next e =>
      have h : SameCount w.s _ := Work.take_of_eq (w := { w with fail := none }) e
      split <;> simp [h]
    next e => exact Work.take_of_eq (w := { w with fail := none }) e

@[simp] theorem MM.chainStep_sameCount (p : MM) (e epoch i j k : Nat) (held : Option (List (Fmt × Tile))) (x : Option ChainAcc)
    (w : Work) : SameCount w.s (p.chainStep e epoch i j k held x w).1.s := by
  unfold MM.chainStep
  dsimp only
  split
  · simp
  · split
    · simp
    · split
      next w2 e =>
        have h2 : SameCount w.s w2.s := .trans (by simp) (Work.take_of_eq e)
        simp [h2]
      next w2 fa ta e =>
        have h2 : SameCount w.s w2.s := .trans (by simp) (Work.take_of_eq e)
        split
        · simp [h2]
        · rcases x with _ | x
          · rcases p.c with _ | o
            all_goals dsimp only
            all_goals (repeat' split) <;> simp [h2]
          · dsimp only
            (repeat' split) <;> simp [h2]

@[simp] theorem MM.keep_sameCount (p : MM) (e i j k : Nat) (x : Option ChainAcc) (w : Work) :
    SameCount w.s (p.keep e i j k x w).s := by
  unfold MM.keep
  (repeat' split) <;> simp

@[simp] theorem MM.chainFrom_sameCount (p : MM) (epoch i j e u k : Nat) (x : Option ChainAcc) (w : Work) :
    SameCount w.s (p.chainFrom epoch i j e u k x w).s := by
  induction u generalizing e k x w with
  | zero => cases x <;> simp [MM.chainFrom]
  | succ u ih => simp [MM.chainFrom, ih]

@[simp] theorem MM.run_sameCount (p : MM) (epoch : Nat) (w : Work) : SameCount w.s (p.run epoch w).s := by simp [MM.run]

@[simp] theorem MM.noWindow_sameCount (p : MM) (epoch : Nat) (w : Work) : SameCount w.s (p.noWindow epoch w).s := by
  simp [MM.noWindow]

@[simp] theorem Work.within_sameCount (w : Work) (slot seg : Nat) (g : Seg) (last : Nat) :
    SameCount w.s (w.within slot seg g last).s := by simp [Work.within]

@[simp] theorem Work.peeks_sameCount (w : Work) (o : Opnd) (l : List Nat) : SameCount w.s (w.peeks o l).1.s := by
  induction l generalizing w with
  | nil => simp [Work.peeks]
  | cons i l ih => simp [Work.peeks, ih]

@[simp] theorem Work.anchorRef_sameCount (w : Work) (a : AWord) : SameCount w.s (w.anchorRef a).1.s := by
  unfold Work.anchorRef
  split <;> simp

@[simp] theorem Work.scannedAnchor_sameCount (w : Work) (r : Bref) (g : Seg) : SameCount w.s (w.scannedAnchor r g).1.s := by
  simp [Work.scannedAnchor]

@[simp] theorem matmulWork_sameCount (c : CmdRef) (p : MatmulP) (acc : Option Tref) (e : Cmd) (s : State) :
    SameCount s (matmulWork c p acc e s).s := by
  unfold matmulWork
  extract_lets mt kt nt tpb aStr d0 dn onA onC
  split
  next w1 ga e1 =>
  have h1 : SameCount s w1.s := .of_fst (by simp) e1
  split
  next w2 gb e2 =>
  have h2 : SameCount s w2.s := .of_fst (by simp [h1]) e2
  split
  next w3 gc e3 =>
  have h3 : SameCount s w3.s := .of_fst (by split <;> simp [h2]) e3
  split
  next w4 gd e4 =>
  have h4 : SameCount s w4.s := .of_fst (by simp [h3]) e4
  split
  next w5 gw e5 =>
  have h5 : SameCount s w5.s := .of_fst (by simp [h4]) e5
  extract_lets w6 oa ob
  have h6 : SameCount s w6.s := by simp [w6, h5]
  split
  next w7 rowHs e7 =>
  have h7 : SameCount s w7.s := .of_fst (by simp [h6]) e7
  split
  next w8 colHs e8 =>
  have h8 : SameCount s w8.s := .of_fst (by simp [h7]) e8
  split
  next w9 hb e9 =>
  have h9 : SameCount s w9.s := .of_fst (by simp [h8]) e9
  extract_lets bpb bStr fa ms ks fp32 onB mm wt maxStep w10
  have h10 : SameCount s w10.s := by simp [w10, h9]
  split
  · exact h10
  · split
    · simp [h10]
    · split
      · simp [h10]
      · split
        next w11 raw e11 =>
        have h11 : SameCount s w11.s := .of_fst (by split <;> simp [h10]) e11
        split
        · exact h11
        · split <;> simp [h11]

@[simp] theorem execMatmul_keeps (c : CmdRef) (p : MatmulP) (s : State) : Keeps s (execMatmul c p s) := by simp [execMatmul]

@[simp] theorem execMatmulAcc_keeps (c : CmdRef) (p : MatmulAccP) (s : State) : Keeps s (execMatmulAcc c p s) := by
  simp [execMatmulAcc]

@[simp] theorem Work.scanGrid_sameCount (w : Work) (slot : Nat) (r : Tref) (g : Seg) (tiles : List Nat) :
    SameCount w.s (w.scanGrid slot r g tiles).1.s := by
  unfold Work.scanGrid
  split
  · simp
  · split
    · simp
    · refine Work.hear_sameCount _ _ fun w => ?_
      split <;> simp

@[simp] theorem scanWork_sameCount (c : CmdRef) (p : ScanP) (e : Cmd) (s : State) : SameCount s (scanWork c p e s).s := by
  unfold scanWork
  split <;> simp

@[simp] theorem execAnchorScan_keeps (c : CmdRef) (p : ScanP) (s : State) : Keeps s (execAnchorScan c p s) := by
  simp [execAnchorScan]

/-! ### Sums of tiles and lanes (R284, R285) -/

@[simp] theorem Red.addFrom_sameCount (p : Red) (t : Nat) (f0 : Fmt) (t0 : Tile) (anchor : Int) (u i : Nat) (w : Work)
    (x : List (Acc × Bool) × Bool) : SameCount w.s (p.addFrom t f0 t0 anchor u i w x).1.s := by
  induction u generalizing i w x with
  | zero => simp [Red.addFrom]
  | succ u ih =>
    unfold Red.addFrom
    split
    next e => exact Work.take_of_eq e
    next e =>
      have h := Work.take_of_eq e
      (repeat' split) <;> simp [ih, h]

@[simp] theorem Red.tile_sameCount (p : Red) (e epoch : Nat) (scope : Int) (t : Nat) (w : Work) :
    SameCount w.s (p.tile e epoch scope t w).s := by
  unfold Red.tile
  split
  next e => simp [Work.take_of_eq e]
  next w1 _ _ e =>
    have h : SameCount w.s w1.s := Work.take_of_eq e
    extract_lets rows cols n anchor hdr open0 w2 start
    split
    · simp [h]
    · split
      · simp [h]
      · split
        next w3 _ _ e3 =>
        have h3 : SameCount w.s w3.s := .of_fst (by simp [w2, h]) e3
        split
        · simp [h3]
        · extract_lets w4
          split <;> simp [w4, h3]

@[simp] theorem Red.run_sameCount (p : Red) (epoch : Nat) (scope : Int) (w : Work) : SameCount w.s (p.run epoch scope w).s := by
  simp [Red.run]

@[simp] theorem Red.noWindow_sameCount (p : Red) (epoch : Nat) (w : Work) : SameCount w.s (p.noWindow epoch w).s := by
  simp [Red.noWindow]

@[simp] theorem Red.maxAll_sameCount (p : Red) (n : Nat) (w : Work) : SameCount w.s (p.maxAll n w).1.s := by
  induction n generalizing w with
  | zero => simp [Red.maxAll]
  | succ n ih => simp [Red.maxAll, ih]

@[simp] theorem Red.under_sameCount (p : Red) (epoch : Nat) (raw : Int) (w : Work) : SameCount w.s (p.under epoch raw w).s := by
  unfold Red.under
  split <;> simp

@[simp] theorem reduceWork_sameCount (c : CmdRef) (p : ReduceP) (e : Cmd) (s : State) : SameCount s (reduceWork c p e s).s := by
  unfold reduceWork
  extract_lets n cnt first laps
  split
  next w1 gi e1 =>
  have h1 : SameCount s w1.s := .of_fst (by simp) e1
  split
  next w2 gd e2 =>
  have h2 : SameCount s w2.s := .of_fst (by simp [h1]) e2
  split
  next w3 gw e3 =>
  have h3 : SameCount s w3.s := .of_fst (by simp [h2]) e3
  extract_lets red
  split
  next w4 hs e4 =>
  have h4 : SameCount s w4.s := .of_fst (by simp [h3]) e4
  extract_lets most w5 acc
  have h5 : SameCount s w5.s := by simp [w5, h4]
  clear_value red acc laps w5
  split
  · exact h3
  · split
    · simp [h3]
    · split
      · exact h5
      · split
        · simp [h5]
        · split
          next e6 =>
          have h6 : SameCount s _ := .of_fst (by simp [h5]) e6
          split <;> simp [h6]
        · split
          · simp [h5]
          · split
            next e6 =>
            have h6 : SameCount s _ := .of_fst (by simp [h5]) e6
            split <;> simp [h6]

@[simp] theorem execReduce_keeps (c : CmdRef) (p : ReduceP) (s : State) : Keeps s (execReduce c p s) := by simp [execReduce]

@[simp] theorem Lanes.regs_sameCount (p : Lanes) (n e : Nat) (xs ys zs : List Nat) (s : State) :
    SameCount s (p.regs n e xs ys zs s) := by simp [Lanes.regs]

@[simp] theorem Lanes.other_sameCount (o : Option Opnd) (t rows cols : Nat) (w : Work) :
    SameCount w.s (Lanes.other o t rows cols w).1.s := by
  unfold Lanes.other
  split
  · simp
  · split
    next e => exact Work.take_of_eq e
    next e =>
      have h := Work.take_of_eq e
      split <;> simp [h]

@[simp] theorem Lanes.vaccTile_sameCount (p : Lanes) (e epoch t : Nat) (x : Tile) (xs : List Nat) (w : Work) :
    SameCount w.s (p.vaccTile e epoch t x xs w).s := by
  unfold Lanes.vaccTile
  dsimp only
  split
  next e => exact Work.take_of_eq e
  next e =>
    have h := Work.take_of_eq e
    (repeat' split) <;> simp [h]

@[simp] theorem Lanes.tile_sameCount (p : Lanes) (e epoch t : Nat) (w : Work) : SameCount w.s (p.tile e epoch t w).s := by
  unfold Lanes.tile
  split
  next e => simp [Work.take_of_eq e]
  next w1 _ _ e =>
    have h : SameCount w.s w1.s := Work.take_of_eq e
    extract_lets rows cols n
    split
    next w2 _ e2 =>
    have h2 : SameCount w.s w2.s := .of_fst (by simp [h]) e2
    split
    next w3 _ e3 =>
    have h3 : SameCount w.s w3.s := .of_fst (by simp [h2]) e3
    (repeat' split) <;> simp [h3]

@[simp] theorem Lanes.run_sameCount (p : Lanes) (epoch : Nat) (w : Work) : SameCount w.s (p.run epoch w).s := by simp [Lanes.run]

@[simp] theorem elemWork_sameCount (c : CmdRef) (p : ElemP) (e : Cmd) (s : State) : SameCount s (elemWork c p e s).s := by
  simp [elemWork]

@[simp] theorem execElementwise_keeps (c : CmdRef) (p : ElemP) (s : State) : Keeps s (execElementwise c p s) := by
  simp [execElementwise]

/-! ### Special functions and rows (R286 to R288) -/

@[simp] theorem setEccError_sameCount (n id : Nat) (s : State) : SameCount s (setEccError n id s) := by simp [setEccError]
@[simp] theorem Work.useSet_sameCount (w : Work) (id : Nat) : SameCount w.s (w.useSet id).s := by simp [Work.useSet]

@[simp] theorem FnOp.tile_sameCount (p : FnOp) (epoch t : Nat) (w : Work) : SameCount w.s (p.tile epoch t w).s := by
  unfold FnOp.tile
  dsimp only
  split
  next h => simp [Work.take_of_eq h]
  next h => simp [Work.take_of_eq h]

@[simp] theorem FnOp.run_sameCount (p : FnOp) (epoch : Nat) (w : Work) : SameCount w.s (p.run epoch w).s := by simp [FnOp.run]

@[simp] theorem funcWork_sameCount (c : CmdRef) (p : FuncP) (fs : FSet) (e : Cmd) (s : State) :
    SameCount s (funcWork c p fs e s).s := by simp [funcWork]

@[simp] theorem withSet_sameCount (c : CmdRef) (id : Nat) (body : FSet → Cmd → State → State) (e : Cmd) (s : State)
    (hbody : ∀ x y s, SameCount s (body x y s)) : SameCount s (withSet c id body e s) := by
  unfold withSet
  split <;> simp [hbody]

@[simp] theorem execFunc_keeps (c : CmdRef) (p : FuncP) (s : State) : Keeps s (execFunc c p s) := by simp [execFunc]

@[simp] theorem Rows.takeRow_sameCount (p : Rows) (i u j : Nat) (w : Work) : SameCount w.s (p.takeRow i u j w).1.s := by
  induction u generalizing j w with
  | zero => simp [Rows.takeRow]
  | succ u ih =>
    unfold Rows.takeRow
    split
    next e => exact Work.take_of_eq e
    next e =>
      have h := Work.take_of_eq e
      simp [ih, h]

@[simp] theorem Rows.takeVec_sameCount (p : Rows) (o : Opnd) (l : List (Fmt × Tile)) (j : Nat) (w : Work) :
    SameCount w.s (p.takeVec o l j w).1.s := by
  induction l generalizing j w with
  | nil => simp [Rows.takeVec]
  | cons x l ih =>
    unfold Rows.takeVec
    split
    next e => exact Work.take_of_eq e
    next e =>
      have h := Work.take_of_eq e
      split <;> simp [ih, h]

@[simp] theorem noteRow_sameCount (n : Nat) (f : RowFlags) (invalid : Bool) (s : State) : SameCount s (noteRow n f invalid s) := by
  simp [noteRow]

@[simp] theorem Rows.write_sameCount (p : Rows) (epoch i rows row0 : Nat) (vals : List (List Val)) (trunc : Bool)
    (j at_ cols : Nat) (w : Work) : SameCount w.s (p.write epoch i rows row0 vals trunc j at_ cols w).s := by simp [Rows.write]

@[simp] theorem Rows.sfu_sameCount (p : Rows) (f : RowFlags) (s : State) (core : Nat) : SameCount s (p.sfu f s core) := by
  unfold Rows.sfu
  split <;> simp

@[simp] theorem Rows.gridRow_sameCount (p : Rows) (epoch i row0 : Nat) (only : Option Nat) (w : Work) :
    SameCount w.s (p.gridRow epoch i row0 only w).1.s := by
  unfold Rows.gridRow
  extract_lets w0 first
  have h0 : SameCount w.s w0.s := by simp [w0]
  split
  next w1 ts e1 =>
  have h1 : SameCount w.s w1.s := .of_fst (by simp [h0]) e1
  split
  · exact h1
  · split
    · simp [h1]
    · split
      next w2 gv e2 =>
      have h2 : SameCount w.s w2.s := .of_fst (by split <;> simp [h1]) e2
      split
      next w3 bv e3 =>
      have h3 : SameCount w.s w3.s := .of_fst (by split <;> simp [h2]) e3
      split
      · exact h3
      · extract_lets rows w4 dec res w5 fl trunc flags w6 outs js w7
        have h4 : SameCount w.s w4.s := by simp [w4, h3]
        have h5 : SameCount w.s w5.s := by simp [w5, h4]
        simp [w7, w6, h5]

@[simp] theorem Rows.runFrom_sameCount (p : Rows) (epoch u i row0 : Nat) (w : Work) :
    SameCount w.s (p.runFrom epoch u i row0 w).s := by
  induction u generalizing i row0 w with
  | zero => simp [Rows.runFrom]
  | succ u ih => simp [Rows.runFrom, ih]

@[simp] theorem Rows.run_sameCount (p : Rows) (epoch : Nat) (w : Work) : SameCount w.s (p.run epoch w).s := by simp [Rows.run]

@[simp] theorem rowWork_sameCount (c : CmdRef) (p : RowP) (kind : RowKind) (gb : Option Tref) (fs : FSet) (e : Cmd) (s : State) :
    SameCount s (rowWork c p kind gb fs e s).s := by
  unfold rowWork
  extract_lets rt ct stat rms dn
  clear_value stat rms
  split
  · simp
  · split
    next w1 gx e1 =>
    have h1 : SameCount s w1.s := .of_fst (by simp) e1
    split
    next w2 gg e2 =>
    have h2 : SameCount s w2.s := .of_fst (by split <;> simp [h1]) e2
    split
    next w3 _ e3 =>
    have h3 : SameCount s w3.s := .of_fst (by split <;> simp [h2]) e3
    split
    next w4 gd e4 =>
    have h4 : SameCount s w4.s := .of_fst (by simp [h3]) e4
    extract_lets rows
    split
    next w5 hs e5 =>
    have h5 : SameCount s w5.s := .of_fst (by simp [h4]) e5
    extract_lets most w6
    have h6 : SameCount s w6.s := by simp [w6, h5]
    split <;> simp [h6]

@[simp] theorem rowBody_sameCount (c : CmdRef) (p : RowP) (kind : RowKind) (gb : Option Tref) (fs : FSet) (e : Cmd) (s : State) :
    SameCount s (rowBody c p kind gb fs e s) := by simp [rowBody]

@[simp] theorem execSoftmax_keeps (c : CmdRef) (p : RowP) (s : State) : Keeps s (execSoftmax c p s) := by simp [execSoftmax]
@[simp] theorem execNorm_keeps (c : CmdRef) (p : NormP) (s : State) : Keeps s (execNorm c p s) := by simp [execNorm]

@[simp] theorem execRowstat_keeps (c : CmdRef) (p : RowP) (stats : BitVec 8) (s : State) : Keeps s (execRowstat c p stats s) := by
  simp [execRowstat]

@[simp] theorem addSet_sameCount (fs : FSet) (s : State) (n : Nat) : SameCount s (addSet fs s n) := by simp [addSet]

@[simp] theorem setLoadWork_sameCount (c : CmdRef) (img : Bref) (bytes : BitVec 32) (e : Cmd) (s : State) :
    SameCount s (setLoadWork c img bytes e s).1.s := by
  unfold setLoadWork
  dsimp only
  (repeat' split) <;> simp

@[simp] theorem giveSet_sameCount (c : CmdRef) (part : Nat) (fs : FSet) (s : State) : SameCount s (giveSet c part fs s) := by
  simp [giveSet]

@[simp] theorem setLoadBody_sameCount (c : CmdRef) (img : Bref) (bytes : BitVec 32) (e : Cmd) (s : State) :
    SameCount s (setLoadBody c img bytes e s) := by simp [setLoadBody]

@[simp] theorem execMicroprogLoad_keeps (c : CmdRef) (img : Bref) (bytes : BitVec 32) (s : State) :
    Keeps s (execMicroprogLoad c img bytes s) := by simp [execMicroprogLoad]

@[simp] theorem setUnloadBody_sameCount (c : CmdRef) (set : BitVec 32) (x : Cmd) (s : State) :
    SameCount s (setUnloadBody c set x s) := by simp [setUnloadBody]

@[simp] theorem execMicroprogUnload_keeps (c : CmdRef) (set : BitVec 32) (s : State) : Keeps s (execMicroprogUnload c set s) := by
  simp [execMicroprogUnload]

@[simp] theorem execSetLoadComplete_keeps (core : BitVec 8) (s : State) : Keeps s (execSetLoadComplete core s) := by
  simp [execSetLoadComplete]

end Sys2Proof.Machine
end

section
/-! Administration commands leave the bell count (R307). -/

namespace Sys2Proof.Machine

/-! ### Banks of the boot store (R582) -/

@[simp] theorem setBank_sameCount (c : Component) (b : Nat) (x : Bank) (s : State) : SameCount s (setBank c b x s) := by
  simp [setBank]

@[simp] theorem setRun_sameCount (c : Component) (b : Nat) (s : State) : SameCount s (setRun c b s) := by simp [setRun]
@[simp] theorem setFail_sameCount (b : Nat) (on : Bool) (s : State) : SameCount s (setFail b on s) := by simp [setFail]
@[simp] theorem fwState_sameCount (st c bytes : Nat) (s : State) : SameCount s (fwState st c bytes s) := by simp [fwState]
@[simp] theorem switched_sameCount (c : Component) (s : State) : SameCount s (switched c s) := by simp [switched]
@[simp] theorem activationFails_sameCount (s : State) : SameCount s (activationFails s) := by simp [activationFails]
@[simp] theorem activated_sameCount (c : Component) (s : State) : SameCount s (activated c s) := by simp [activated]

@[simp] theorem loadReeve_sameCount (d : Nat) (s : State) : SameCount s (loadReeve d s) := by
  unfold loadReeve
  split <;> simp

@[simp] theorem reloadReeves_sameCount (s : State) : SameCount s (reloadReeves s) := by
  unfold reloadReeves
  dsimp only
  (repeat' split) <;> simp

@[simp] theorem stickBack_sameCount (b : Nat) (s : State) : SameCount s (stickBack b s) := by
  unfold stickBack
  split <;> simp

/-! ### Coherent accesses of the module (R235, R434) -/

@[simp] theorem patchFlight_sameCount (a : Nat) (bs : List Byte) (s : State) : SameCount s (patchFlight a bs s) := by
  simp [patchFlight]

@[simp] theorem cohWrite_sameCount (a : Nat) (bs : List Byte) (s : State) : SameCount s (cohWrite a bs s) := by simp [cohWrite]

/-! ### The ladder's books (R558, R559) -/

@[simp] theorem setReason_sameCount (b : Nat) (s : State) : SameCount s (setReason b s) := by simp [setReason]

@[simp] theorem beginRung_sameCount (r t : Nat) (counts esc : Bool) (s : State) : SameCount s (beginRung r t counts esc s) := by
  simp [beginRung]

@[simp] theorem endRung_sameCount (r t : Nat) (s : State) : SameCount s (endRung r t s) := by simp [endRung]
@[simp] theorem abandonRung_sameCount (r t : Nat) (s : State) : SameCount s (abandonRung r t s) := by simp [abandonRung]
@[simp] theorem settleAborts_sameCount (s : State) : SameCount s (settleAborts s) := by simp [settleAborts]
@[simp] theorem dropSpills_sameCount (p : Nat → Bool) (s : State) : SameCount s (dropSpills p s) := by simp [dropSpills]

/-! ### Contexts, segments and partitions (R295 to R299, R333 to R342) -/

@[simp] theorem createBody_sameCount (c : CmdRef) (p : Nat) (carry : Bool) (tab : Nat) (s : State) :
    SameCount s (createBody c p carry tab s) := by
  unfold createBody
  dsimp only
  repeat' split
  all_goals simp [-List.reduceReplicate]

@[simp] theorem execCtxCreate_keeps (c : CmdRef) (part : BitVec 8) (carry : Bool) (segTable : BitVec 64) (s : State) :
    Keeps s (execCtxCreate c part carry segTable s) := by simp [execCtxCreate]

@[simp] theorem dropDescs_sameCount (lo hi : Nat) (s : State) : SameCount s (dropDescs lo hi s) := by simp [dropDescs]
@[simp] theorem evictCtx_sameCount (x : Nat) (s : State) : SameCount s (evictCtx x s) := by simp [evictCtx]

@[simp] theorem unpinAll_sameCount (x : Nat) (s : State) : SameCount s (unpinAll x s) := by
  unfold unpinAll
  refine foldl_sameCount _ (fun s x => ?_) _ _
  (repeat' split) <;> simp

@[simp] theorem startUnload_sameCount (h : Nat) (c : CmdRef) (s : State) : SameCount s (startUnload h c s) := by
  simp [startUnload]

@[simp] theorem tearDown_sameCount (c : CmdRef) (full : Bool) (s : State) : SameCount s (tearDown c full s) := by simp [tearDown]

@[simp] theorem destroyBody_sameCount (c : CmdRef) (full : Bool) (s : State) : SameCount s (destroyBody c full s) := by
  simp [destroyBody]

@[simp] theorem execCtxDestroy_keeps (c : CmdRef) (s : State) : Keeps s (execCtxDestroy c s) := by simp [execCtxDestroy]

@[simp] theorem execCtxDestroyAbortOnly_keeps (c : CmdRef) (s : State) : Keeps s (execCtxDestroyAbortOnly c s) := by
  simp [execCtxDestroyAbortOnly]

@[simp] theorem awaitDescs_sameCount (c : CmdRef) (lo hi : Nat) (s : State) : SameCount s (awaitDescs c lo hi s) := by
  simp [awaitDescs]

@[simp] theorem segSetBody_sameCount (c : CmdRef) (seg d : Nat) (s : State) : SameCount s (segSetBody c seg d s) := by
  unfold segSetBody
  dsimp only
  (repeat' split) <;> simp

@[simp] theorem execSegSet_keeps (c : CmdRef) (seg : BitVec 8) (desc : BitVec 256) (s : State) :
    Keeps s (execSegSet c seg desc s) := by simp [execSegSet]

@[simp] theorem execSegInvalidate_keeps (c : CmdRef) (wholePart : Option (BitVec 8)) (s : State) :
    Keeps s (execSegInvalidate c wholePart s) := by simp [execSegInvalidate]

@[simp] theorem stage_sameCount (target : Nat) (i : Staged) (c : CmdRef) (s : State) : SameCount s (stage target i c s) := by
  simp [stage]

@[simp] theorem allotBody_sameCount (c : CmdRef) (p : AllotP) (s : State) : SameCount s (allotBody c p s) := by simp [allotBody]
@[simp] theorem execAllotSet_keeps (c : CmdRef) (p : AllotP) (s : State) : Keeps s (execAllotSet c p s) := by simp [execAllotSet]

@[simp] theorem execPartSetCores_keeps (c : CmdRef) (part : BitVec 8) (map : BitVec 256) (s : State) :
    Keeps s (execPartSetCores c part map s) := by simp [execPartSetCores]

@[simp] theorem execPartSetCaps_keeps (c : CmdRef) (part : BitVec 8) (engine stack fabric host : BitVec 32) (priority : BitVec 8)
    (s : State) : Keeps s (execPartSetCaps c part engine stack fabric host priority s) := by simp [execPartSetCaps]

@[simp] theorem execPartSetKey_keeps (c : CmdRef) (part : BitVec 8) (stack ddr : Bool) (slot : BitVec 8) (s : State) :
    Keeps s (execPartSetKey c part stack ddr slot s) := by simp [execPartSetKey]

@[simp] theorem execPartSetMode_keeps (c : CmdRef) (part : BitVec 8) (strict : Bool) (s : State) :
    Keeps s (execPartSetMode c part strict s) := by simp [execPartSetMode]

@[simp] theorem pendTimeouts_sameCount (p t t2 : Nat) (s : State) : SameCount s (pendTimeouts p t t2 s) := by simp [pendTimeouts]

@[simp] theorem execPartSetTimeouts_keeps (c : CmdRef) (part : BitVec 8) (tmo tmo2 : BitVec 64) (s : State) :
    Keeps s (execPartSetTimeouts c part tmo tmo2 s) := by simp [execPartSetTimeouts]

@[simp] theorem execPartSetVectors_keeps (c : CmdRef) (part : BitVec 8) (base count : BitVec 16) (kind : BitVec 8) (s : State) :
    Keeps s (execPartSetVectors c part base count kind s) := by simp [execPartSetVectors]

@[simp] theorem execPartSetVolumes_keeps (c : CmdRef) (part : BitVec 8) (map : BitVec 256) (s : State) :
    Keeps s (execPartSetVolumes c part map s) := by simp [execPartSetVolumes]

@[simp] theorem stageTallies_sameCount (p : Nat) (i : Staged) (f : Option Fail) (c : CmdRef) (s : State) :
    SameCount s (stageTallies p i f c s) := by simp [stageTallies]

@[simp] theorem execPartSetTalliesGrant_keeps (c : CmdRef) (part die : BitVec 8) (first count : BitVec 16) (s : State) :
    Keeps s (execPartSetTalliesGrant c part die first count s) := by simp [execPartSetTalliesGrant]

@[simp] theorem execPartSetTalliesRevoke_keeps (c : CmdRef) (part die : BitVec 8) (first count : BitVec 16) (s : State) :
    Keeps s (execPartSetTalliesRevoke c part die first count s) := by simp [execPartSetTalliesRevoke]

end Sys2Proof.Machine
end

section
/-! The coherence domain leaves the bell count (R307). -/

namespace Sys2Proof.Machine

/-! ### Homes, snoops and transactions (R444 to R463) -/

@[simp] theorem setPline_sameCount (a l : Nat) (v : PLine) (s : State) : SameCount s (setPline a l v s) := by simp [setPline]
@[simp] theorem dropLine_sameCount (a l : Nat) (s : State) : SameCount s (dropLine a l s) := by simp [dropLine]
@[simp] theorem putLine_sameCount (l d : Nat) (s : State) : SameCount s (putLine l d s) := by simp [putLine]
@[simp] theorem setL3_sameCount (l : Nat) (v : Option L3Line) (s : State) : SameCount s (setL3 l v s) := by simp [setL3]

@[simp] theorem l3Evict_sameCount (l : Nat) (s : State) : SameCount s (l3Evict l s) := by
  unfold l3Evict
  split <;> simp

@[simp] theorem l3Alloc_sameCount (cls l d : Nat) (dirty : Bool) (s : State) : SameCount s (l3Alloc cls l d dirty s) := by
  unfold l3Alloc
  dsimp only
  (repeat' split) <;> simp

@[simp] theorem setBusy_sameCount (b : Busy) (s : State) : SameCount s (setBusy b s) := by simp [setBusy]
@[simp] theorem freeLine_sameCount (l : Nat) (s : State) : SameCount s (freeLine l s) := by simp [freeLine]

@[simp] theorem takeBack_sameCount (l a : Nat) (s : State) : SameCount s (takeBack l a s) := by
  unfold takeBack
  dsimp only
  split <;> simp

theorem dirEnsure_sameCount {l : Nat} {s t : State} (e : dirEnsure l s = some t) : SameCount s t := by
  unfold dirEnsure at e
  extract_lets here set none_ fresh at e
  have hfresh (s : State) : SameCount s (fresh s) := by simp [fresh]
  clear_value fresh
  split at e
  · cases e; simp
  · split at e
    · cases e; exact hfresh s
    · split at e
      · cases e
      · cases e; simp [hfresh]

@[simp] theorem magpieUpdate_sameCount (agent l : Nat) (s : State) : SameCount s (magpieUpdate agent l s) := by
  simp [magpieUpdate]

@[simp] theorem result_sameCount (agent old : Nat) (sw : Bool) (s : State) : SameCount s (result agent old sw s) := by
  simp [result]

@[simp] theorem baseAtomic_sameCount (agent addr : Nat) (r : AtomicReq) (s : State) : SameCount s (baseAtomic agent addr r s) := by
  simp [baseAtomic]

@[simp] theorem execBaseDieAtomic_keeps (addr : BitVec 48) (req : AtomicReq) (s : State) :
    Keeps s (execBaseDieAtomic addr req s) := by
  unfold execBaseDieAtomic
  dsimp only
  (repeat' split) <;> simp

@[simp] theorem noteHome_sameCount (b : Busy) (s : State) : SameCount s (noteHome b s) := by simp [noteHome]

@[simp] theorem touchL3_sameCount (b : Busy) (s : State) : SameCount s (touchL3 b s) := by
  unfold touchL3
  split <;> simp

@[simp] theorem addSnoop_sameCount (l a : Nat) (shared inval : Bool) (s : State) : SameCount s (addSnoop l a shared inval s) := by
  simp [addSnoop]

@[simp] theorem l3Clean_sameCount (k : ReqKind) (l : Nat) (s : State) : SameCount s (l3Clean k l s) := by
  unfold l3Clean
  split <;> simp

@[simp] theorem ownCopy_sameCount (k : ReqKind) (a l : Nat) (s : State) : SameCount s (ownCopy k a l s) := by
  unfold ownCopy
  dsimp only
  (repeat' split) <;> simp

@[simp] theorem grantDir_sameCount (b : Busy) (s : State) : SameCount s (grantDir b s) := by simp [grantDir]

@[simp] theorem nearAtomic_sameCount (b : Busy) (r : AtomicReq) (addr : Nat) (s : State) :
    SameCount s (nearAtomic b r addr s) := by
  unfold nearAtomic
  dsimp only
  (repeat' split) <;> simp

@[simp] theorem settled_sameCount (addr : Nat) (b : Busy) (s : State) : SameCount s (settled addr b s) := by
  unfold settled
  split <;> simp

@[simp] theorem answerWb_sameCount (a l code : Nat) (s : State) : SameCount s (answerWb a l code s) := by simp [answerWb]
@[simp] theorem takeUp_sameCount (a l : Nat) (w : WbLine) (s : State) : SameCount s (takeUp a l w s) := by simp [takeUp]

theorem accept_sameCount {agent addr : Nat} {k : ReqKind} {s0 : State} {t : State} (e : accept agent addr k s0 = some t) :
    SameCount s0 t := by
  unfold accept at e
  extract_lets l s s2 near needs own start mark at e
  have hs : SameCount s0 s := by
    unfold s
    split <;> simp
  have hs1 : SameCount s0 s2 := by simp [s2, hs]
  have hstart (s : State) : SameCount s (start s) := by
    unfold start
    extract_lets d others owner supplier ownD b go s1
    have hclean : SameCount s s1 := by simp [s1]
    have hgo (a b c : List Nat) (s : State) : SameCount s (go a b c s) := by
      simp [go]
    clear_value supplier owner
    (repeat' split) <;> simp [hgo, hclean]
  have hmark (t : State) : SameCount t (mark t) := by simp [mark]
  split at e
  · cases e
    split <;> simp [hs]
  · split at e
    · obtain ⟨u, hu, rfl⟩ := Option.map_eq_some_iff.mp e
      simp [hstart, hmark, hs1, dirEnsure_sameCount hu]
    · split at e <;> cases e <;> simp [hstart, hs1]

@[simp] theorem pumpList_sameCount (l : List (Nat × Nat × ReqKind)) (s : State) : SameCount s (pumpList l s) := by
  induction l generalizing s with
  | nil => rfl
  | cons a l ih =>
    unfold pumpList
    refine .trans ?_ (ih _)
    split
    · split
      next e => simp [accept_sameCount e]
      · rfl
    · rfl

@[simp] theorem pump_sameCount (s : State) : SameCount s (pump s) := by simp [pump]

@[simp] theorem request_sameCount (a addr : Nat) (k : ReqKind) (s : State) : SameCount s (request a addr k s) := by
  unfold request
  dsimp only
  rcases h : accept a addr k s with _ | t
  · (repeat' split) <;> simp
  · (repeat' split) <;> simp [accept_sameCount h]

@[simp] theorem touchWay_sameCount (a l w : Nat) (s : State) : SameCount s (touchWay a l w s) := by simp [touchWay]
@[simp] theorem toBuffer_sameCount (a l : Nat) (s : State) : SameCount s (toBuffer a l s) := by simp [toBuffer]

theorem wayFor_sameCount {a l : Nat} {s : State} {r : State × Nat} (e : wayFor a l s = some r) : SameCount s r.1 := by
  unfold wayFor at e
  dsimp only at e
  split at e
  · cases e; simp
  · split at e
    · cases e; simp
    · cases e; simp
    · split at e
      · split at e <;> cases e
        simp
      · cases e; simp

@[simp] theorem hitLine_sameCount (a l : Nat) (s : State) : SameCount s (hitLine a l s) := by simp [hitLine]

@[simp] theorem missLine_sameCount (a addr : Nat) (k : ReqKind) (s : State) : SameCount s (missLine a addr k s) := by
  simp [missLine]

@[simp] theorem failCurrent_sameCount (n : Nat) (f : Fail) (s : State) : SameCount s (failCurrent n f s) := by
  unfold failCurrent
  dsimp only
  (repeat' split) <;> simp

@[simp] theorem cacheError_sameCount (n l : Nat) (tag : Bool) (s0 : State) : SameCount s0 (cacheError n l tag s0) := by
  simp [cacheError]

@[simp] theorem checkLine_sameCount (a l : Nat) (s : State) : SameCount s (checkLine a l s).1 := by simp [checkLine]

@[simp] theorem access_sameCount (a addr : Nat) (k : ReqKind) (s0 : State) : SameCount s0 (access a addr k s0) := by
  unfold access
  dsimp only
  (repeat' split) <;> simp

@[simp] theorem execReadShared_keeps (agent : BitVec 9) (addr : BitVec 48) (s : State) :
    Keeps s (execReadShared agent addr s) := by simp [execReadShared]

@[simp] theorem execReadUnique_keeps (agent : BitVec 9) (addr : BitVec 48) (s : State) :
    Keeps s (execReadUnique agent addr s) := by simp [execReadUnique]

@[simp] theorem execUpgrade_keeps (agent : BitVec 9) (addr : BitVec 48) (s : State) : Keeps s (execUpgrade agent addr s) := by
  simp [execUpgrade]

@[simp] theorem execZeroUnique_keeps (agent : BitVec 9) (addr : BitVec 48) (s : State) :
    Keeps s (execZeroUnique agent addr s) := by simp [execZeroUnique]

@[simp] theorem execAtomic_keeps (agent : BitVec 9) (addr : BitVec 48) (req : AtomicReq) (s : State) :
    Keeps s (execAtomic agent addr req s) := by
  unfold execAtomic
  split <;> simp

@[simp] theorem execCleanReq_keeps (agent : BitVec 9) (addr : BitVec 48) (s : State) : Keeps s (execCleanReq agent addr s) := by
  simp [execCleanReq]

@[simp] theorem execFlushReq_keeps (agent : BitVec 9) (addr : BitVec 48) (s : State) : Keeps s (execFlushReq agent addr s) := by
  simp [execFlushReq]

@[simp] theorem execInvalReq_keeps (agent : BitVec 9) (addr : BitVec 48) (s : State) : Keeps s (execInvalReq agent addr s) := by
  simp [execInvalReq]

@[simp] theorem answerSnoop_sameCount (m : SnoopMsg) (clean : Bool) (s : State) : SameCount s (answerSnoop m clean s) := by
  unfold answerSnoop
  dsimp only
  (repeat' split) <;> simp

@[simp] theorem snoopRow_sameCount (holder addr : Nat) (ok : SnoopMsg → Bool) (s : State) :
    SameCount s (snoopRow holder addr ok s) := by
  unfold snoopRow
  dsimp only
  split <;> simp

@[simp] theorem execSnpShared_keeps (holder : BitVec 9) (addr : BitVec 48) (s : State) :
    Keeps s (execSnpShared holder addr s) := by simp [execSnpShared]

@[simp] theorem execSnpUnique_keeps (holder : BitVec 9) (addr : BitVec 48) (s : State) :
    Keeps s (execSnpUnique holder addr s) := by simp [execSnpUnique]

@[simp] theorem execSnpInval_keeps (holder : BitVec 9) (addr : BitVec 48) (s : State) : Keeps s (execSnpInval holder addr s) := by
  simp [execSnpInval]

@[simp] theorem respDir_sameCount (m : SnoopMsg) (left : LState) (s : State) : SameCount s (respDir m left s) := by
  simp [respDir]

@[simp] theorem snpRespAt_sameCount (l addr : Nat) (m : SnoopMsg) (b : Busy) (x : Option Nat × Bool × LState) (s : State) :
    SameCount s (snpRespAt l addr m b x s) := by simp [snpRespAt]

@[simp] theorem execSnpResp_keeps (holder : BitVec 9) (addr : BitVec 48) (s : State) : Keeps s (execSnpResp holder addr s) := by
  unfold execSnpResp
  dsimp only
  (repeat' split) <;> simp

@[simp] theorem installLine_sameCount (b : Busy) (d : Nat) (s : State) : SameCount s (installLine b d s) := by
  unfold installLine
  split
  · simp
  next s1 w h =>
    have h1 := wayFor_sameCount h
    split
    next st d1 s2 e =>
    have h2 : SameCount s s2 := by
      split at e
      next r _ =>
        rcases lineAtomic b.addr r d with ⟨n, old, sw⟩
        rw [← (Prod.mk.inj (Prod.mk.inj e).2).2]
        simpa using h1
      · rw [← (Prod.mk.inj (Prod.mk.inj e).2).2]
        exact h1
    extract_lets s3 s4 s5
    have h4 : SameCount s s4 := by simp [s4, s3, h2]
    split <;> simp [s5, h4]

@[simp] theorem execData_keeps (agent : BitVec 9) (addr : BitVec 48) (s : State) : Keeps s (execData agent addr s) := by
  unfold execData
  (repeat' split) <;> simp

@[simp] theorem execCompAck_keeps (agent : BitVec 9) (addr : BitVec 48) (s : State) : Keeps s (execCompAck agent addr s) := by
  unfold execCompAck
  (repeat' split) <;> simp

@[simp] theorem execCacheMissFill_keeps (core : BitVec 8) (s : State) : Keeps s (execCacheMissFill core s) := by
  unfold execCacheMissFill
  dsimp only
  (repeat' split) <;> simp

@[simp] theorem execZeroLine_keeps (core : BitVec 8) (addr : BitVec 48) (s : State) : Keeps s (execZeroLine core addr s) := by
  unfold execZeroLine
  dsimp only
  split <;> simp

@[simp] theorem evictLine_sameCount (a l : Nat) (dirty : Bool) (s : State) : SameCount s (evictLine a l dirty s) := by
  simp [evictLine]

@[simp] theorem wbRow_sameCount (agent addr : Nat) (dirty : Bool) (s : State) : SameCount s (wbRow agent addr dirty s) := by
  unfold wbRow
  dsimp only
  (repeat' split) <;> simp

@[simp] theorem execWbDirty_keeps (agent : BitVec 9) (addr : BitVec 48) (s : State) : Keeps s (execWbDirty agent addr s) := by
  simp [execWbDirty]

@[simp] theorem execWbClean_keeps (agent : BitVec 9) (addr : BitVec 48) (s : State) : Keeps s (execWbClean agent addr s) := by
  simp [execWbClean]

@[simp] theorem execWbAck_keeps (agent : BitVec 9) (addr : BitVec 48) (s : State) : Keeps s (execWbAck agent addr s) := by
  unfold execWbAck
  dsimp only
  split <;> simp

@[simp] theorem flushCore_sameCount (direct : Bool) (n : Nat) (s : State) : SameCount s (flushCore direct n s) := by
  simp [flushCore]

@[simp] theorem execCacheFlush_keeps (core : BitVec 8) (s : State) : Keeps s (execCacheFlush core s) := by simp [execCacheFlush]

@[simp] theorem ioLine_sameCount (cls l a : Nat) (bs : List Byte) (s : State) : SameCount s (ioLine cls l a bs s) := by
  simp [ioLine]

@[simp] theorem ioWrite_sameCount (cls a : Nat) (bs : List Byte) (s : State) : SameCount s (ioWrite cls a bs s) := by
  simp [ioWrite]

@[simp] theorem execKeepWrite_keeps (w : Agent) (k : BitVec 3) (value : BitVec 64) (s : State) :
    Keeps s (execKeepWrite w k value s) := by
  unfold execKeepWrite
  dsimp only
  (repeat' split) <;> simp

/-! ### Die links (Tables 17-1, 17-2) -/

@[simp] theorem fenceLink_sameCount (i : Nat) (s : State) : SameCount s (fenceLink i s) := by simp [fenceLink]
@[simp] theorem raiseLink_sameCount (i : Nat) (s : State) : SameCount s (raiseLink i s) := by simp [raiseLink]
@[simp] theorem returnLinks_sameCount (d : Nat) (s : State) : SameCount s (returnLinks d s) := by simp [returnLinks]
@[simp] theorem trainLinks_sameCount (s : State) : SameCount s (trainLinks s) := by simp [trainLinks]

@[simp] theorem trainStack_sameCount (k : Nat) (s : State) : SameCount s (trainStack k s) := by
  unfold trainStack
  dsimp only
  (repeat' split) <;> simp

@[simp] theorem trainPackage_sameCount (s : State) : SameCount s (trainPackage s) := by simp [trainPackage]

end Sys2Proof.Machine
end

section
/-! Queues leave the bell count (R307). -/

namespace Sys2Proof.Machine

/-! ### Enabling, doorbells, fetching and completion records (chapter 08) -/

@[simp] theorem qResult_sameCount (q res : Nat) (s : State) : SameCount s (qResult q res s) := by simp [qResult]
@[simp] theorem queueEnable_sameCount (q : Nat) (s : State) : SameCount s (queueEnable q s) := by simp [queueEnable]
@[simp] theorem execQEnable_keeps (queue : BitVec 16) (s : State) : Keeps s (execQEnable queue s) := by simp [execQEnable]
@[simp] theorem queueDisable_sameCount (q : Nat) (s : State) : SameCount s (queueDisable q s) := by simp [queueDisable]
@[simp] theorem execQDisable_keeps (queue : BitVec 16) (s : State) : Keeps s (execQDisable queue s) := by simp [execQDisable]

@[simp] theorem queueDisableAbort_sameCount (q : Nat) (s : State) : SameCount s (queueDisableAbort q s) := by
  simp [queueDisableAbort]

@[simp] theorem execQDisableAbort_keeps (queue : BitVec 16) (s : State) : Keeps s (execQDisableAbort queue s) := by
  simp [execQDisableAbort]

@[simp] theorem queueStop_sameCount (q cause value first last : Nat) (s : State) :
    SameCount s (queueStop q cause value first last s) := by simp [queueStop]

@[simp] theorem badDoorbell_sameCount (s : State) : SameCount s (badDoorbell s) := by simp [badDoorbell]

@[simp] theorem failedDoorbell_sameCount (q cause value : Nat) (s : State) : SameCount s (failedDoorbell q cause value s) := by
  simp [failedDoorbell]

@[simp] theorem doorbell_sameCount (q : Nat) (v : BitVec 64) (s : State) : SameCount s (doorbell q v s) := by simp [doorbell]

@[simp] theorem execSqDoorbell_keeps (queue : BitVec 16) (value : BitVec 64) (s : State) :
    Keeps s (execSqDoorbell queue value s) := by simp [execSqDoorbell]

theorem queueWrite_sameCount {q target a kind tag : Nat} {bs : List Byte} {s t : State}
    (e : queueWrite q target a kind tag bs s = some t) : SameCount s t := by
  unfold queueWrite at e
  split at e
  · split at e <;> cases e
    simp
  · cases e; simp

@[simp] theorem irqBehind_sameCount (q kind vector : Nat) (s : State) : SameCount s (irqBehind q kind vector s) := by
  unfold irqBehind
  split <;> simp

@[simp] theorem completionIrq_sameCount (q : Nat) (s : State) : SameCount s (completionIrq q s) := by simp [completionIrq]

theorem writeBack_sameCount {q : Nat} {word : List Byte} {s : State} {t : State} (h : writeBack q word s = some t) :
    SameCount s t := by
  unfold writeBack at h
  dsimp only at h
  split at h
  · split at h
    · exact queueWrite_sameCount h
    · cases h; simp
  · exact queueWrite_sameCount h

@[simp] theorem sendHeld_sameCount (b : Bool) (w : ExtWrite) (s : State) : SameCount s (sendHeld b w s) := by
  unfold sendHeld
  split
  · split <;> simp
  · split
    · split
      next q _ =>
        rcases h : queueWrite q w.tag w.addr 1 0 w.bytes s with _ | t
        · simp
        · exact queueWrite_sameCount h
      · simp
    · simp

@[simp] theorem askIrq_sameCount (q : Nat) (s : State) : SameCount s (askIrq q s) := by simp [askIrq]

@[simp] theorem postRecord_sameCount (q r : Nat) (s : State) : SameCount s (postRecord q r s) := by
  unfold postRecord
  dsimp only
  split
  · simp
  · split
    · simp
    · split
      · simp
      next s1 h =>
        have h1 := queueWrite_sameCount h
        split
        · exact h1
        · split
          · simp [h1]
          next s3 h3 =>
            have h3 := writeBack_sameCount h3
            (repeat' split) <;> simp [h1, h3]

@[simp] theorem dropCmd_sameCount (c : CmdRef) (s : State) : SameCount s (dropCmd c s) := by simp [dropCmd]
@[simp] theorem endRetry_sameCount (q : Nat) (k : BitVec 32) (s : State) : SameCount s (endRetry q k s) := by simp [endRetry]

@[simp] theorem completeCmd_sameCount (e : Cmd) (s : State) : SameCount s (completeCmd e s) := by
  unfold completeCmd
  split <;> simp

@[simp] theorem completeReady_sameCount (e : Cmd) (s : State) : SameCount s (completeReady e s) := by simp [completeReady]

@[simp] theorem execCommandCompletion_keeps (queue : BitVec 16) (index : BitVec 32) (s : State) :
    Keeps s (execCommandCompletion queue index s) := by
  unfold execCommandCompletion
  split <;> simp

@[simp] theorem execIrqHoldoffExpiry_keeps (queue : BitVec 16) (s : State) : Keeps s (execIrqHoldoffExpiry queue s) := by
  simp [execIrqHoldoffExpiry]

@[simp] theorem queueRestart_sameCount (q : Nat) (s : State) : SameCount s (queueRestart q s) := by simp [queueRestart]
@[simp] theorem execQRestart_keeps (queue : BitVec 16) (s : State) : Keeps s (execQRestart queue s) := by simp [execQRestart]

@[simp] theorem execQueueDrained_keeps (queue : BitVec 16) (s : State) : Keeps s (execQueueDrained queue s) := by
  simp [execQueueDrained]

@[simp] theorem takeTurn_sameCount (q : Nat) (s : State) : SameCount s (takeTurn q s) := by simp [takeTurn]
@[simp] theorem notePacket_sameCount (x : Queue) (s : State) : SameCount s (notePacket x s) := by simp [notePacket]

@[simp] theorem consume_sameCount (q pk : Nat) (s : State) : SameCount s (consume q pk s) := by
  unfold consume
  dsimp only
  split <;> simp

@[simp] theorem execPacketFetch_keeps (queue : BitVec 16) (ext : Option (BitVec 512)) (s : State) :
    Keeps s (execPacketFetch queue ext s) := by
  unfold execPacketFetch
  dsimp only
  (repeat' split) <;> simp

@[simp] theorem notVisible_sameCount (q why : Nat) (s : State) : SameCount s (notVisible q why s) := by simp [notVisible]

@[simp] theorem execPacketRetry_keeps (queue : BitVec 16) (ext : Option (BitVec 512)) (s : State) :
    Keeps s (execPacketRetry queue ext s) := by
  unfold execPacketRetry
  dsimp only
  (repeat' split) <;> simp

end Sys2Proof.Machine
end

section
/-! Programs, epochs and placed steps leave the bell count (R307). -/

namespace Sys2Proof.Machine

/-! ### Placing programs (R200 to R209) -/

theorem takeTally_sameCount {die mode exp pdie pidx n peer : Nat} {s : State} {r : State × Nat}
    (e : takeTally die mode exp pdie pidx n peer s = some r) : SameCount s r.1 := by
  obtain ⟨i, -, rfl⟩ := Option.map_eq_some_iff.mp e
  simp

theorem takePair_sameCount {pd cd n : Nat} {s : State} {r : State × Nat × Nat} (h : takePair pd cd n s = some r) :
    SameCount s r.1 := by
  obtain ⟨⟨s1, pi⟩, h1, h⟩ := Option.bind_eq_some_iff.mp h
  obtain ⟨⟨s2, ci⟩, h2, h⟩ := Option.bind_eq_some_iff.mp h
  cases h
  have k1 := takeTally_sameCount h1
  have k2 := takeTally_sameCount h2
  simpa using k1.trans k2

theorem addStream_sameCount {h : Nat} {cores : List Nat} {inbound : Bool} {x : State × List Stream}
    {t : StreamEntry × List Nat × Nat} {r : State × List Stream} (e : addStream h cores inbound x t = some r) :
    SameCount x.1 r.1 := by
  unfold addStream at e
  dsimp only at e
  split at e
  · obtain ⟨⟨s1, pi⟩, h1, e⟩ := Option.bind_eq_some_iff.mp e
    cases e
    exact takeTally_sameCount h1
  · split at e
    · obtain ⟨⟨s1, pi⟩, h1, e⟩ := Option.bind_eq_some_iff.mp e
      cases e
      exact takeTally_sameCount h1
    · obtain ⟨⟨s1, pi, ci⟩, h1, e⟩ := Option.bind_eq_some_iff.mp e
      cases e
      exact takePair_sameCount h1

theorem addOwn_sameCount {die p tensor : Nat} {ring : List Nat} {x : State × List Stream} {r : State × List Stream}
    (e : addOwn die p tensor ring x = some r) : SameCount x.1 r.1 := by
  obtain ⟨⟨s1, pi, ci⟩, h1, e⟩ := Option.bind_eq_some_iff.mp e
  cases e
  exact takePair_sameCount h1

theorem reserveStreams_sameCount {h : Nat} {img : Image} {cores : List Nat} {l : Lay} {s : State}
    {r : State × List Stream × List Stream × List Stream} (e : reserveStreams h img cores l s = some r) : SameCount s r.1 := by
  obtain ⟨⟨s1, streams⟩, h1, e⟩ := Option.bind_eq_some_iff.mp e
  obtain ⟨⟨s2, locals⟩, h2, e⟩ := Option.bind_eq_some_iff.mp e
  obtain ⟨⟨s3, staging⟩, h3, e⟩ := Option.bind_eq_some_iff.mp e
  cases e
  have k1 := foldlM_sameCount _ (fun _ _ _ e => addStream_sameCount e) _ _ _ h1
  have k2 := foldlM_sameCount _ (fun _ _ _ e => addOwn_sameCount e) _ _ _ h2
  have k3 := foldlM_sameCount _ (fun _ _ _ e => addOwn_sameCount e) _ _ _ h3
  exact k1.trans (k2.trans k3)

@[simp] theorem fillPins_sameCount (ts : List Tensor) (homes : List (Option Seg)) (l : List Pin) (w : Work) :
    SameCount w.s (fillPins ts homes l w).s := by
  induction l generalizing w with
  | nil => simp [fillPins]
  | cons x l ih =>
    unfold fillPins
    repeat' split
    all_goals simp [ih]

@[simp] theorem findHomes_sameCount (l : List (Tensor × Nat)) (w : Work) : SameCount w.s (findHomes l w).1.s := by
  induction l generalizing w with
  | nil => simp [findHomes]
  | cons x l ih => simp [findHomes, ih]

@[simp] theorem place_sameCount (h ctx : Nat) (prog : Bref) (len : Nat) (img : Image) (homes : List (Option Seg)) (w : Work) :
    SameCount w.s (place h ctx prog len img homes w).1.s := by
  unfold place
  dsimp only
  split
  · simp
  · split
    · simp
    · split
      · simp
      next e =>
        have k : SameCount w.s _ := reserveStreams_sameCount e
        dsimp only at k
        simp [k]

@[simp] theorem fill_sameCount (h : Nat) (p : Program) (homes : List (Option Seg)) (w : Work) :
    SameCount w.s (fill h p homes w).1.s := by simp [fill]

@[simp] theorem dropLost_sameCount (h : Nat) (s : State) : SameCount s (dropLost h s) := by
  unfold dropLost
  split <;> simp

@[simp] theorem loadWork_sameCount (c : CmdRef) (handle : BitVec 16) (prog : Bref) (len : BitVec 32) (e : Cmd) (s : State) :
    SameCount s (loadWork c handle prog len e s).1.s := by
  unfold loadWork
  extract_lets h n used
  split
  · simp [used]
  · split
    · simp
    · split
      next w1 g e1 =>
      have h1 : SameCount s w1.s := .of_fst (by simp) e1
      split
      next w2 b e2 =>
      have h2 : SameCount s w2.s := .of_fst (by simp [h1]) e2
      split
      · exact h2
      · split
        · simp [h2]
        · split
          · simp [h2]
          · split
            · simp [h2]
            · split
              next w3 homes e3 =>
              have h3 : SameCount s w3.s := .of_fst (by simp [h2]) e3
              split
              · exact h3
              · split
                · simp [h3]
                · split
                  next w4 e4 => exact .of_fst (by simp [h3]) e4
                  next w4 p e4 =>
                    have h4 : SameCount s w4.s := .of_fst (by simp [h3]) e4
                    simp [used, h4]

@[simp] theorem loadBody_sameCount (c : CmdRef) (handle : BitVec 16) (prog : Bref) (len : BitVec 32) (e : Cmd) (s : State) :
    SameCount s (loadBody c handle prog len e s) := by simp [loadBody]

@[simp] theorem execStepLoad_keeps (c : CmdRef) (handle : BitVec 16) (prog : Bref) (len : BitVec 32) (s : State) :
    Keeps s (execStepLoad c handle prog len s) := by simp [execStepLoad]

@[simp] theorem unloadBody_sameCount (c : CmdRef) (h : Nat) (s : State) : SameCount s (unloadBody c h s) := by
  unfold unloadBody
  split <;> simp

@[simp] theorem execStepUnload_keeps (c : CmdRef) (handle : BitVec 16) (s : State) : Keeps s (execStepUnload c handle s) := by
  simp [execStepUnload]

@[simp] theorem Work.stagePin_sameCount (epoch : Nat) (src dst : TileAt) (w : Work) :
    SameCount w.s (Work.stagePin epoch src dst w).s := by
  unfold Work.stagePin
  dsimp only
  split <;> simp

@[simp] theorem stagePins_sameCount (k epoch : Nat) (src : Tref) (g : Seg) (l : List Pin) (w : Work) :
    SameCount w.s (stagePins k epoch src g l w).s := by
  induction l generalizing w with
  | nil => simp [stagePins]
  | cons x l ih => simp [stagePins, ih]

@[simp] theorem restage_sameCount (old : Program) (pins : List Pin) (k : Nat) (w : Work) :
    SameCount w.s (restage old pins k w).s := by
  unfold restage
  split <;> simp

@[simp] theorem replaceWork_sameCount (p : Program) (log : List Heard) (s : State) : SameCount s (replaceWork p log s).s := by
  simp [replaceWork]

@[simp] theorem loseProg_sameCount (h : Nat) (p : Program) (f : Option Fail) (s : State) : SameCount s (loseProg h p f s) := by
  unfold loseProg
  split <;> simp

@[simp] theorem refillFrom_sameCount (h : Nat) (log : List Heard) (s : State) : SameCount s (refillFrom h log s) := by
  unfold refillFrom
  split
  · simp
  · split
    next w1 homes e1 =>
    have h1 : SameCount s w1.s := .of_fst (by simp) e1
    split
    · simp [h1]
    · split
      next w2 _ e2 =>
        have h2 : SameCount s w2.s := .of_fst (by simp [h1]) e2
        exact h2.trans (foldl_work_sameCount _ (fun w k => restage_sameCount ..) _ _)
      next w2 e2 =>
        have h2 : SameCount s w2.s := .of_fst (by simp [h1]) e2
        simp [h2]

@[simp] theorem placeOld_sameCount (h : Nat) (old : Program) (s : State) : SameCount s (placeOld h old s) := by
  unfold placeOld
  split
  next w1 homes e1 =>
  have h1 : SameCount s w1.s := .of_fst (by simp) e1
  split
  · simp [h1]
  · split
    next w2 e2 =>
      have h2 : SameCount s w2.s := .of_fst (by simp [h1]) e2
      simp [h2]
    next w2 _ e2 =>
      have h2 : SameCount s w2.s := .of_fst (by simp [h1]) e2
      simp [h2]

@[simp] theorem refillAll_sameCount (s : State) : SameCount s (refillAll s) := by
  unfold refillAll
  refine foldl_sameCount _ (fun s x => ?_) _ _
  (repeat' split) <;> simp

@[simp] theorem replaceAll_sameCount (part : Nat) (s : State) : SameCount s (replaceAll part s) := by simp [replaceAll]

@[simp] theorem Work.args_sameCount (w : Work) (r : Bref) (g : Seg) (n i : Nat) : SameCount w.s (w.args r g n i).1.s := by
  induction n generalizing i w with
  | zero => simp [Work.args]
  | succ n ih => simp [Work.args, ih]

@[simp] theorem Work.bind_sameCount (w : Work) (p : Program) (l : List (Nat × Tref)) : SameCount w.s (w.bind p l).s := by
  induction l generalizing w with
  | nil => simp [Work.bind]
  | cons x l ih =>
    unfold Work.bind
    split
    · simp
    · split <;> simp [ih]

@[simp] theorem runWork_sameCount (c : CmdRef) (p : RunP) (pr : Program) (e : Cmd) (s : State) :
    SameCount s (runWork c p pr e s).1.s := by simp [runWork]

@[simp] theorem beginRun_sameCount (c : CmdRef) (h k : Nat) (pr : Program) (args : List Tref) (now : Nat) (s : State) :
    SameCount s (beginRun c h k pr args now s) := by simp [beginRun]

@[simp] theorem runBody_sameCount (c : CmdRef) (p : RunP) (e : Cmd) (s : State) : SameCount s (runBody c p e s) := by
  unfold runBody
  dsimp only
  (repeat' split) <;> simp

@[simp] theorem execStepRun_keeps (c : CmdRef) (p : RunP) (s : State) : Keeps s (execStepRun c p s) := by simp [execStepRun]

/-! ### Epoch slots (R292 to R294, R322 to R330) -/

@[simp] theorem modSlot_sameCount (h k : Nat) (f : Slot → Slot) (s : State) : SameCount s (modSlot h k f s) := by simp [modSlot]

@[simp] theorem stageWork_sameCount (c : CmdRef) (p : StageP) (e : Cmd) (s : State) : SameCount s (stageWork c p e s).s := by
  simp [stageWork]

@[simp] theorem stageBody_sameCount (c : CmdRef) (p : StageP) (e : Cmd) (s : State) : SameCount s (stageBody c p e s) := by
  unfold stageBody
  split <;> simp

@[simp] theorem execEpochStage_keeps (c : CmdRef) (p : StageP) (s : State) : Keeps s (execEpochStage c p s) := by
  simp [execEpochStage]

@[simp] theorem notePostpones_sameCount (h n b : Nat) (s : State) : SameCount s (notePostpones h n b s) := by
  induction n generalizing b s with
  | zero => simp [notePostpones]
  | succ n ih => simp [notePostpones, ih]

@[simp] theorem decideCommit_sameCount (h : Nat) (s : State) : SameCount s (decideCommit h s) := by
  unfold decideCommit
  split <;> simp

@[simp] theorem commitBody_sameCount (c : CmdRef) (h k bell : Nat) (parish : Bool) (s : State) :
    SameCount s (commitBody c h k bell parish s) := by
  unfold commitBody
  (repeat' split) <;> simp

@[simp] theorem execEpochCommit_keeps (c : CmdRef) (handle : BitVec 16) (slot : BitVec 8) (bell : BitVec 64) (s : State) :
    Keeps s (execEpochCommit c handle slot bell s) := by simp [execEpochCommit]

@[simp] theorem execEpochCommitParish_keeps (c : CmdRef) (handle : BitVec 16) (slot : BitVec 8) (bell : BitVec 64) (s : State) :
    Keeps s (execEpochCommitParish c handle slot bell s) := by simp [execEpochCommitParish]

@[simp] theorem meetCommit_sameCount (h src : Nat) (s : State) : SameCount s (meetCommit h src s).1 := by
  unfold meetCommit
  split <;> simp

@[simp] theorem prepared_sameCount (src h k epoch bell period : Nat) (s : State) :
    SameCount s (prepared src h k epoch bell period s) := by
  unfold prepared
  dsimp only
  (repeat' split) <;> simp

@[simp] theorem voted_sameCount (src h : Nat) (kind : VoteKind) (s : State) : SameCount s (voted src h kind s) := by
  unfold voted
  (repeat' split) <;> simp

@[simp] theorem decided_sameCount (h bell : Nat) (s : State) : SameCount s (decided h bell s) := by simp [decided]

@[simp] theorem aborted_sameCount (h : Nat) (s : State) : SameCount s (aborted h s) := by
  unfold aborted
  split <;> simp

@[simp] theorem execCommitDeadline_keeps (handle : BitVec 16) (s : State) : Keeps s (execCommitDeadline handle s) := by
  unfold execCommitDeadline
  dsimp only
  split <;> simp

@[simp] theorem commitsLost_sameCount (m : Nat) (s : State) : SameCount s (commitsLost m s) := by
  unfold commitsLost
  refine foldl_sameCount _ (fun s x => ?_) _ _
  (repeat' split) <;> simp

@[simp] theorem rejoin_sameCount (m : Nat) (s : State) : SameCount s (rejoin m s) := by
  unfold rejoin
  refine foldl_sameCount _ (fun s x => ?_) _ _
  (repeat' split) <;> simp

@[simp] theorem switchAt_sameCount (b h : Nat) (s : State) : SameCount s (switchAt b h s) := by
  unfold switchAt
  (repeat' split) <;> simp

@[simp] theorem switchEpochs_sameCount (b : Nat) (s : State) : SameCount s (switchEpochs b s) := by simp [switchEpochs]

@[simp] theorem pinBody_sameCount (c : CmdRef) (h k : Nat) (s : State) : SameCount s (pinBody c h k s) := by
  unfold pinBody
  (repeat' split) <;> simp

@[simp] theorem execEpochPin_keeps (c : CmdRef) (handle : BitVec 16) (slot : BitVec 8) (s : State) :
    Keeps s (execEpochPin c handle slot s) := by simp [execEpochPin]

@[simp] theorem unpinBody_sameCount (c : CmdRef) (h k : Nat) (s : State) : SameCount s (unpinBody c h k s) := by
  unfold unpinBody
  split <;> simp

@[simp] theorem execEpochUnpin_keeps (c : CmdRef) (handle : BitVec 16) (slot : BitVec 8) (s : State) :
    Keeps s (execEpochUnpin c handle slot s) := by simp [execEpochUnpin]

/-! ### Placed steps as cores run them (R171 to R175, R212 to R221) -/

@[simp] theorem modRun_sameCount (h r : Nat) (f : Run → Run) (s : State) : SameCount s (modRun h r f s) := by simp [modRun]
@[simp] theorem countMade_sameCount (h r key n : Nat) (s : State) : SameCount s (countMade h r key n s) := by simp [countMade]

@[simp] theorem sendAdd_sameCount (cmd : CmdRef) (peer die index n : Nat) (s : State) :
    SameCount s (sendAdd cmd peer die index n s) := by simp [sendAdd]

@[simp] theorem OwedAdd.apply_sameCount (cmd : CmdRef) (x : OwedAdd) (s : State) : SameCount s (OwedAdd.apply cmd x s).1 := by
  simp [OwedAdd.apply]

@[simp] theorem releaseAdd_sameCount (h r : Nat) (x : OwedAdd) (s : State) : SameCount s (releaseAdd h r x s).1 := by
  unfold releaseAdd
  split <;> simp

@[simp] theorem addP_sameCount (pr : Program) (h r core key : Nat) (t : Stream) (s : State) :
    SameCount s (addP pr h r core key t s).1 := by simp [addP]

@[simp] theorem addAll_sameCount {α : Type} (f : α → State → State × Option Fail) (h : ∀ x s, SameCount s (f x s).1) (l : List α)
    (s : State) : SameCount s (addAll f l s).1 := by
  induction l generalizing s with
  | nil => rfl
  | cons x l ih =>
    unfold addAll
    split
    next e => exact .of_state_fst (h x s) e
    next e => exact (SameCount.of_state_fst (h x s) e).trans (ih _)

@[simp] theorem At.produce_sameCount (a : At) (s : State) : SameCount s (a.produce s).1 := by simp [At.produce]

@[simp] theorem At.consume_sameCount (a : At) (u : Nat) (q : Numbered) (s : State) : SameCount s (a.consume u q s).1 := by
  simp [At.consume]

@[simp] theorem flushOwed_sameCount (h r : Nat) (s : State) : SameCount s (flushOwed h r s) := by
  unfold flushOwed
  split
  · simp
  · split
    · simp
    · split
      next e =>
        have k : SameCount s _ := .of_state_fst (by simp) e
        simp [k]
      next e =>
        have k : SameCount s _ := .of_state_fst (by simp) e
        simp [k]

@[simp] theorem flushPeer_sameCount (h r : Nat) (s : State) : SameCount s (flushPeer h r s) := by
  unfold flushPeer
  split
  · simp
  · refine foldl_sameCount _ (fun s x => ?_) _ _
    dsimp only
    split
    · simp
    · split <;> simp

@[simp] theorem flushRuns_sameCount (x : Nat) (s : State) : SameCount s (flushRuns x s) := by
  unfold flushRuns
  refine foldl_sameCount _ (fun s x => ?_) _ _
  (repeat' split) <;> simp

@[simp] theorem flushOwner_sameCount (b : Barrier) (s : State) : SameCount s (flushOwner b s) := by
  unfold flushOwner
  split <;> simp

theorem moveOne_sameCount {h l : Nat} {s : State} {t : State} (e : moveOne h l s = some t) : SameCount s t := by
  unfold moveOne at e
  split at e
  · cases e
  · extract_lets n away moved slot src at e
    split at e
    · cases e
    · split at e
      · cases e
      · extract_lets w0 w at e
        have h0 : SameCount s w.s := by simp [w, w0]
        split at e
        next w1 x e1 =>
        have h1 : SameCount s w1.s := .of_fst (by simp [h0]) e1
        extract_lets w2 at e
        have h2 : SameCount s w2.s := by
          unfold w2
          split <;> simp [h1]
        clear_value w2
        split at e
        · cases e
        · split at e
          · cases e; simp [h2]
          · split at e
            next s1 f e3 =>
            have h3 : SameCount s s1 := .of_state_fst (by simp [h2]) e3
            split at e
            · cases e; simp [h3]
            · split at e
              next e4 =>
                cases e
                have h4 : SameCount s _ := .of_state_fst (by simp [h3]) e4
                simp [h4]
              next e4 =>
                cases e
                have h4 : SameCount s _ := .of_state_fst (by simp [h3]) e4
                simp [h4]

@[simp] theorem moveTiles_sameCount (h l n : Nat) (s : State) : SameCount s (moveTiles h l n s) := by
  induction n generalizing s with
  | zero => simp [moveTiles]
  | succ n ih =>
    unfold moveTiles
    split
    · simp
    next e => exact (moveOne_sameCount e).trans (ih _)

@[simp] theorem moveOut_sameCount (h : Nat) (s : State) : SameCount s (moveOut h s) := by
  unfold moveOut
  split <;> simp

@[simp] theorem moveOutAll_sameCount (s : State) : SameCount s (moveOutAll s) := by simp [moveOutAll]

@[simp] theorem scanMax_sameCount (l : List At) (w : Work) : SameCount w.s (scanMax l w).1.s := by
  induction l generalizing w with
  | nil => simp [scanMax]
  | cons a l ih => simp [scanMax, ih]

@[simp] theorem At.scan_sameCount (a : At) (w : Work) : SameCount w.s (a.scan w).1.s := by simp [At.scan]
@[simp] theorem At.anchor_sameCount (a : At) (w : Work) : SameCount w.s (a.anchor w).1.s := by simp [At.anchor]
@[simp] theorem noteReady_sameCount (n : Nat) (s : State) : SameCount s (noteReady n s) := by simp [noteReady]

@[simp] theorem At.runChain_sameCount (a : At) (e : Nat) (anchor : Int) (w : Work) : SameCount w.s (a.runChain e anchor w).s := by
  unfold At.runChain
  dsimp only
  (repeat' split) <;> simp

@[simp] theorem At.copyUnit_sameCount (a : At) (u : Nat) (w : Work) : SameCount w.s (a.copyUnit u w).s := by
  unfold At.copyUnit
  dsimp only
  split <;> simp

@[simp] theorem At.zeroUnit_sameCount (a : At) (u : Nat) (w : Work) : SameCount w.s (a.zeroUnit u w).s := by
  unfold At.zeroUnit
  split
  · simp
  · split
    · simp
    · simp [-List.reduceReplicate]

@[simp] theorem At.fnUnit_sameCount (a : At) (fs : FSet) (u : Nat) (w : Work) : SameCount w.s (a.fnUnit fs u w).s := by
  simp [At.fnUnit]

@[simp] theorem At.noWindow_sameCount (a : At) (w : Work) : SameCount w.s (a.noWindow w).s := by simp [At.noWindow]

@[simp] theorem At.unit_sameCount (a : At) (e : Nat) (w : Work) : SameCount w.s (a.unit e w).s := by
  unfold At.unit
  dsimp only
  (repeat' split) <;> simp

@[simp] theorem endStep_sameCount (a : At) (s : State) : SameCount s (endStep a s) := by simp [endStep]

@[simp] theorem At.unstage_sameCount (a : At) (u : Nat) (s : State) : SameCount s (a.unstage u s) := by
  unfold At.unstage
  split <;> simp

@[simp] theorem afterUnit_sameCount (h r i : Nat) (s : State) : SameCount s (afterUnit h r i s) := by
  unfold afterUnit
  dsimp only
  (repeat' split) <;> simp

@[simp] theorem noteStall_sameCount (reg : Nat) (s0 : State) : SameCount s0 (noteStall reg s0) := by simp [noteStall]
@[simp] theorem At.streamStall_sameCount (a : At) (s : State) : SameCount s (a.streamStall s) := by simp [At.streamStall]

@[simp] theorem issueUnit_sameCount (a : At) (e : Nat) (s : State) : SameCount s (issueUnit a e s) := by
  unfold issueUnit
  dsimp only
  split <;> simp

end Sys2Proof.Machine
end

section
/-! The ladder, cores and power leave the bell count (R307). -/

namespace Sys2Proof.Machine

/-! ### The reset ladder (R556 to R566, R570 to R573) -/

@[simp] theorem resetRegs_sameCount (ds : List Domain) (s : State) : SameCount s (resetRegs ds s) := by simp [resetRegs]
@[simp] theorem resetEngRegs_sameCount (n e : Nat) (s : State) : SameCount s (resetEngRegs n e s) := by simp [resetEngRegs]
@[simp] theorem setSvc_sameCount (v : Nat) (s : State) : SameCount s (setSvc v s) := by simp [setSvc]

@[simp] theorem setCapture_sameCount (k : Nat) (v : CaptureSlot) (s : State) : SameCount s (setCapture k v s) := by
  simp [setCapture]

@[simp] theorem beginCapture_sameCount (trig : Nat) (s : State) : SameCount s (beginCapture trig s) := by
  unfold beginCapture
  split <;> simp

@[simp] theorem endCapture_sameCount (absent : Nat) (truncated abandoned : Bool) (s : State) :
    SameCount s (endCapture absent truncated abandoned s) := by
  unfold endCapture
  split <;> simp

@[simp] theorem rungCapture_sameCount (trig : Nat) (s : State) : SameCount s (rungCapture trig s) := by simp [rungCapture]

@[simp] theorem execCrashCapture_keeps (trigger : BitVec 8) (absent : BitVec 64) (s : State) :
    Keeps s (execCrashCapture trigger absent s) := by simp [execCrashCapture]

@[simp] theorem execCaptureCutoff_keeps (s : State) : Keeps s (execCaptureCutoff s) := by simp [execCaptureCutoff]
@[simp] theorem bumpChain_sameCount (s : State) : SameCount s (bumpChain s) := by simp [bumpChain]
@[simp] theorem raiseFence_sameCount (dom idx : Nat) (s : State) : SameCount s (raiseFence dom idx s) := by simp [raiseFence]
@[simp] theorem liftFence_sameCount (dom idx : Nat) (s : State) : SameCount s (liftFence dom idx s) := by simp [liftFence]

@[simp] theorem fencedLedger_sameCount (dom idx answered discarded : Nat) (s : State) :
    SameCount s (fencedLedger dom idx answered discarded s) := by simp [fencedLedger]

@[simp] theorem failCore_sameCount (n : Nat) (f : Fail) (s : State) : SameCount s (failCore n f s) := by simp [failCore]

@[simp] theorem endServed_sameCount (old : Engine) (f : Fail) (s : State) : SameCount s (endServed old f s) := by
  unfold endServed
  (repeat' split) <;> simp

@[simp] theorem tornOutput_sameCount (x : Flight) (s : State) : SameCount s (tornOutput x s) := by
  unfold tornOutput
  split <;> simp

@[simp] theorem clearEngine_sameCount (n e : Nat) (f : Fail) (s : State) : SameCount s (clearEngine n e f s) := by
  unfold clearEngine
  dsimp only
  split <;> simp

@[simp] theorem moduleCycle_sameCount (counts esc : Bool) (s : State) : SameCount s (moduleCycle counts esc s) := by
  simp [moduleCycle]

@[simp] theorem execModulePowerCycle_keeps (s : State) : Keeps s (execModulePowerCycle s) := by simp [execModulePowerCycle]

@[simp] theorem postAll_sameCount (s : State) : SameCount s (postAll s) := by
  unfold postAll
  refine foldl_sameCount _ (fun s x => ?_) _ _
  (repeat' split) <;> simp

@[simp] theorem clearLarders_sameCount (s : State) : SameCount s (clearLarders s) := by simp [clearLarders]

@[simp] theorem restoreTallies_sameCount (units : List Nat) (s : State) : SameCount s (restoreTallies units s) := by
  simp [restoreTallies]

@[simp] theorem chipResetEffects_sameCount (s : State) : SameCount s (chipResetEffects s) := by simp [chipResetEffects]
@[simp] theorem chipReset_sameCount (counts esc : Bool) (s : State) : SameCount s (chipReset counts esc s) := by simp [chipReset]
@[simp] theorem execChipReset_keeps (s : State) : Keeps s (execChipReset s) := by simp [execChipReset]
@[simp] theorem resetCore_sameCount (p n : Nat) (s : State) : SameCount s (resetCore p n s) := by simp [resetCore]

@[simp] theorem partitionResetNow_sameCount (p : Nat) (s : State) : SameCount s (partitionResetNow p s) := by
  simp [partitionResetNow]

@[simp] theorem partitionReset_sameCount (p : Nat) (counts esc : Bool) (s : State) :
    SameCount s (partitionReset p counts esc s) := by simp [partitionReset]

@[simp] theorem execPartitionReset_keeps (p : BitVec 4) (s : State) : Keeps s (execPartitionReset p s) := by
  simp [execPartitionReset]

@[simp] theorem resumeResets_sameCount (s : State) : SameCount s (resumeResets s) := by simp [resumeResets]

@[simp] theorem resetPartOf_sameCount (n : Nat) (counts esc : Bool) (s : State) : SameCount s (resetPartOf n counts esc s) := by
  unfold resetPartOf
  split <;> simp

@[simp] theorem retiredLedger_sameCount (n old new trigger engine sec : Nat) (s : State) :
    SameCount s (retiredLedger n old new trigger engine sec s) := by simp [retiredLedger]

@[simp] theorem dropLarder_sameCount (n : Nat) (s : State) : SameCount s (dropLarder n s) := by simp [dropLarder]

@[simp] theorem retireCore_sameCount (n trigger engine sec : Nat) (s : State) :
    SameCount s (retireCore n trigger engine sec s) := by
  unfold retireCore
  dsimp only
  (repeat' split) <;> simp

@[simp] theorem mapIn_sameCount (n : Nat) (s : State) : SameCount s (mapIn n s) := by
  unfold mapIn
  dsimp only
  split <;> simp

@[simp] theorem sparePatrol_sameCount (d k : Nat) (failed : BitVec 4) (s : State) : SameCount s (sparePatrol d k failed s) := by
  unfold sparePatrol
  dsimp only
  (repeat' split) <;> simp

@[simp] theorem noteEngineReset_sameCount (n : Nat) (s : State) : SameCount s (noteEngineReset n s).1 := by
  simp [noteEngineReset]

@[simp] theorem engineReset_sameCount (n e : Nat) (counts esc : Bool) (s : State) :
    SameCount s (engineReset n e counts esc s) := by simp [engineReset]

@[simp] theorem execEngineReset_keeps (core : BitVec 8) (engine : BitVec 2) (s : State) :
    Keeps s (execEngineReset core engine s) := by simp [execEngineReset]

@[simp] theorem execStepWatchdog_keeps (core : BitVec 8) (unit : BitVec 3) (s : State) :
    Keeps s (execStepWatchdog core unit s) := by
  unfold execStepWatchdog
  dsimp only
  (repeat' split) <;> simp

@[simp] theorem abortContext_sameCount (x : Nat) (s : State) : SameCount s (abortContext x s) := by simp [abortContext]

@[simp] theorem contextAbort_sameCount (x : Nat) (counts : Bool) (s : State) : SameCount s (contextAbort x counts s) := by
  simp [contextAbort]

@[simp] theorem execContextAbort_keeps (ctx : BitVec 32) (s : State) : Keeps s (execContextAbort ctx s) := by
  simp [execContextAbort]

@[simp] theorem escalate_sameCount (r t : Nat) (s : State) : SameCount s (escalate r t s) := by
  unfold escalate
  (repeat' split) <;> simp

@[simp] theorem execRungBoundExpiry_keeps (r : RungRef) (s : State) : Keeps s (execRungBoundExpiry r s) := by
  simp [execRungBoundExpiry]

@[simp] theorem requestRung_sameCount (r t : Nat) (s : State) : SameCount s (requestRung r t s) := by
  unfold requestRung
  (repeat' split) <;> simp

@[simp] theorem execFltResetReq_keeps (w : Agent) (value : BitVec 64) (s : State) : Keeps s (execFltResetReq w value s) := by
  unfold execFltResetReq
  dsimp only
  (repeat' split) <;> simp

@[simp] theorem resetLedger_sameCount (dom idx n : Nat) (s : State) : SameCount s (resetLedger dom idx n s) := by
  simp [resetLedger]

@[simp] theorem countReset_sameCount (dom idx limit : Nat) (s : State) : SameCount s (countReset dom idx limit s).1 := by
  simp [countReset]

@[simp] theorem domainReset_sameCount (dom idx limit : Nat) (s : State) : SameCount s (domainReset dom idx limit s).1 := by
  simp [domainReset]

@[simp] theorem saveFlight_sameCount (s : State) : SameCount s (saveFlight s) := by
  unfold saveFlight
  refine (foldl_sameCount _ (fun s m => ?_) _ _).trans (foldl_sameCount _ (fun s b => ?_) _ _)
  · split
    · simp
    · simp
  · split <;> simp

@[simp] theorem hostComplexReset_sameCount (cause : Nat) (s : State) : SameCount s (hostComplexReset cause s) := by
  simp [hostComplexReset]

@[simp] theorem execHostComplexReset_keeps (cause : BitVec 4) (s : State) : Keeps s (execHostComplexReset cause s) := by
  simp [execHostComplexReset]

@[simp] theorem zeroDdr_sameCount (s : State) : SameCount s (zeroDdr s) := by simp [zeroDdr]

@[simp] theorem execHcReady_keeps (s : State) : Keeps s (execHcReady s) := by
  unfold execHcReady
  split <;> simp

/-! ### Cores turned off, woken and moved (R192 to R198, R228) -/

@[simp] theorem noteRamp_sameCount (d : Nat) (s : State) : SameCount s (noteRamp d s) := by simp [noteRamp]
@[simp] theorem beginRamp_sameCount (n : Nat) (rise : Bool) (s : State) : SameCount s (beginRamp n rise s) := by simp [beginRamp]
@[simp] theorem askRamp_sameCount (n : Nat) (rise : Bool) (s : State) : SameCount s (askRamp n rise s) := by simp [askRamp]
@[simp] theorem copySlot_sameCount (n x m y : Nat) (s : State) : SameCount s (copySlot n x m y s) := by simp [copySlot]

theorem moveTally_sameCount {die index to_ : Nat} {s : State} {r : State × Nat} (e : moveTally die index to_ s = some r) :
    SameCount s r.1 := by
  unfold moveTally at e
  split at e
  · cases e; simp
  · obtain ⟨i, -, rfl⟩ := Option.map_eq_some_iff.mp e
    simp

@[simp] theorem repoint_sameCount (die index pdie pidx : Nat) (s : State) : SameCount s (repoint die index pdie pidx s) := by
  simp [repoint]

theorem moveTally_then_sameCount {here : Bool} {d i pd : Nat} {s : State} {k : State × Nat → Option (State × Stream)}
    {r : State × Stream} (hk : ∀ x r, k x = some r → SameCount x.1 r.1)
    (e : (if here then moveTally d i pd s >>= k else pure (s, i) >>= k) = some r) : SameCount s r.1 := by
  split at e
  · obtain ⟨x, hx, hr⟩ := Option.bind_eq_some_iff.mp e
    exact (moveTally_sameCount hx).trans (hk x r hr)
  · exact hk _ r e

theorem Stream.repointed_sameCount {t : Stream} {pd cd : Nat} {s : State} {r : State × Stream}
    (e : t.repointed pd cd s = some r) : SameCount s r.1 := by
  refine moveTally_then_sameCount (fun x r e => ?_) e
  refine moveTally_then_sameCount (fun y r e => ?_) e
  cases e
  simp

theorem Program.repoint_sameCount {p : Program} {s : State} {r : State × Program} (e : p.repoint s = some r) :
    SameCount s r.1 := by
  unfold Program.repoint at e
  extract_lets go at e
  have hgo (own : Bool) (x : State × List Stream) (t : Stream) (r) (e : go own x t = some r) : SameCount x.1 r.1 := by
    obtain ⟨⟨s1, u⟩, h1, e⟩ := Option.bind_eq_some_iff.mp e
    cases e
    exact Stream.repointed_sameCount h1
  obtain ⟨⟨s1, a⟩, h1, e⟩ := Option.bind_eq_some_iff.mp e
  obtain ⟨⟨s2, b⟩, h2, e⟩ := Option.bind_eq_some_iff.mp e
  obtain ⟨⟨s3, c⟩, h3, e⟩ := Option.bind_eq_some_iff.mp e
  cases e
  exact (foldlM_sameCount _ (hgo _) _ _ _ h1).trans
    ((foldlM_sameCount _ (hgo _) _ _ _ h2).trans (foldlM_sameCount _ (hgo _) _ _ _ h3))

@[simp] theorem moveProg_sameCount (h n m : Nat) (s : State) : SameCount s (moveProg h n m s) := by
  unfold moveProg
  split
  · simp
  · extract_lets old l mine
    split
    · simp
    next s0 q e =>
      have k : SameCount s s0 := Program.repoint_sameCount e
      extract_lets s2 cn s3 cm
      have h3 : SameCount s s3 := by simp [s3, s2, k]
      simp [h3]

@[simp] theorem moveContexts_sameCount (n : Nat) (s : State) : SameCount s (moveContexts n s) := by
  unfold moveContexts
  refine foldl_sameCount _ (fun s x => ?_) _ _
  (repeat' split) <;> simp

@[simp] theorem beginWake_sameCount (n : Nat) (s : State) : SameCount s (beginWake n s) := by simp [beginWake]

@[simp] theorem setEngines_sameCount (n : Nat) (f : Engine → Engine) (s : State) : SameCount s (setEngines n f s) := by
  simp [setEngines]

@[simp] theorem finishOff_sameCount (n : Nat) (s : State) : SameCount s (finishOff n s) := by simp [finishOff]
@[simp] theorem offProgress_sameCount (n : Nat) (s : State) : SameCount s (offProgress n s) := by simp [offProgress]
@[simp] theorem owedSpill_sameCount (n e : Nat) (s : State) : SameCount s (owedSpill n e s) := by simp [owedSpill]

@[simp] theorem turnOff_sameCount (n : Nat) (s : State) : SameCount s (turnOff n s) := by
  unfold turnOff
  dsimp only
  split <;> simp

@[simp] theorem wakeCore_sameCount (n : Nat) (s : State) : SameCount s (wakeCore n s) := by
  unfold wakeCore
  dsimp only
  split <;> simp

@[simp] theorem wokenCheck_sameCount (n : Nat) (s : State) : SameCount s (wokenCheck n s) := by simp [wokenCheck]

@[simp] theorem rampStage_sameCount (n : Nat) (s : State) : SameCount s (rampStage n s) := by
  unfold rampStage
  dsimp only
  (repeat' split) <;> simp

@[simp] theorem execRampStage_keeps (core : BitVec 8) (s : State) : Keeps s (execRampStage core s) := by simp [execRampStage]

@[simp] theorem execRampStart_keeps (core : BitVec 8) (rise : Bool) (s : State) : Keeps s (execRampStart core rise s) := by
  unfold execRampStart
  dsimp only
  (repeat' split) <;> simp

@[simp] theorem stopFall_sameCount (n : Nat) (s : State) : SameCount s (stopFall n s) := by
  unfold stopFall
  dsimp only
  split <;> simp

@[simp] theorem execCoreHold_keeps (w : Agent) (core : BitVec 8) (on : Bool) (s : State) : Keeps s (execCoreHold w core on s) := by
  unfold execCoreHold
  split <;> simp

@[simp] theorem execOffReq_keeps (core : BitVec 8) (s : State) : Keeps s (execOffReq core s) := by simp [execOffReq]
@[simp] theorem execWake_keeps (core : BitVec 8) (s : State) : Keeps s (execWake core s) := by simp [execWake]

@[simp] theorem execWakeHoldExpiry_keeps (core : BitVec 8) (s : State) : Keeps s (execWakeHoldExpiry core s) := by
  unfold execWakeHoldExpiry
  dsimp only
  split <;> simp

@[simp] theorem larderError_sameCount (n sec : Nat) (uncorr : Bool) (s : State) : SameCount s (larderError n sec uncorr s) := by
  simp [larderError]

@[simp] theorem execLarderScrub_keeps (core : BitVec 8) (found : List (BitVec 17 × Bool)) (s : State) :
    Keeps s (execLarderScrub core found s) := by
  unfold execLarderScrub
  dsimp only
  split <;> simp

/-! ### Cap, boost and heat (R528 to R546) -/

@[simp] theorem takeOff_sameCount (cause n : Nat) (s : State) : SameCount s (takeOff cause n s) := by simp [takeOff]

@[simp] theorem takeExcess_sameCount (x : Nat) (l : List Nat) (s : State) : SameCount s (takeExcess x l s) := by
  induction l generalizing x s with
  | nil => simp [takeExcess]
  | cons a l ih => simp [takeExcess, ih]

@[simp] theorem wakeOne_sameCount (o : OffCore) (s : State) : SameCount s (wakeOne o s) := by simp [wakeOne]

@[simp] theorem wakeRoom_sameCount (room : Nat) (l : List OffCore) (s : State) : SameCount s (wakeRoom room l s) := by
  induction l generalizing room s with
  | nil => simp [wakeRoom]
  | cons a l ih => simp [wakeRoom, ih]

@[simp] theorem sampleRegs_sameCount (watts mv current : Nat) (s : State) : SameCount s (sampleRegs watts mv current s) := by
  simp [sampleRegs]

@[simp] theorem noteEstimates_sameCount (es : List (BitVec 8 × BitVec 16 × BitVec 32)) (s : State) :
    SameCount s (noteEstimates es s) := by simp [noteEstimates]

@[simp] theorem capAction_sameCount (watts : Nat) (s : State) : SameCount s (capAction watts s) := by simp [capAction]

@[simp] theorem powerSample_sameCount (watts mv current : Nat) (es : List (BitVec 8 × BitVec 16 × BitVec 32)) (s : State) :
    SameCount s (powerSample watts mv current es s) := by simp [powerSample]

@[simp] theorem execPowerSample_keeps (watts : BitVec 13) (milliVolt current : BitVec 16)
    (estimates : List (BitVec 8 × BitVec 16 × BitVec 32)) (s : State) :
    Keeps s (execPowerSample watts milliVolt current estimates s) := by simp [execPowerSample]

@[simp] theorem execCapUnmet_keeps (s : State) : Keeps s (execCapUnmet s) := by
  unfold execCapUnmet
  split <;> simp

@[simp] theorem execPwrPeak_keeps (s : State) : Keeps s (execPwrPeak s) := by simp [execPwrPeak]

@[simp] theorem noteReading_sameCount (s : State) (r : SensorReading) : SameCount s (noteReading s r) := by
  unfold noteReading
  split <;> simp

@[simp] theorem thermalDie_sameCount (rs : List SensorReading) (s : State) (d : Nat) : SameCount s (thermalDie rs s d) := by
  simp [thermalDie]

@[simp] theorem thermalSample_sameCount (rs : List SensorReading) (loads : List (BitVec 8 × BitVec 32)) (s : State) :
    SameCount s (thermalSample rs loads s) := by
  unfold thermalSample
  split <;> simp

@[simp] theorem crossings_sameCount (before s : State) : SameCount s (crossings before s) := by simp [crossings]

@[simp] theorem execThermalSample_keeps (readings : List SensorReading) (loads : List (BitVec 8 × BitVec 32)) (s : State) :
    Keeps s (execThermalSample readings loads s) := by simp [execThermalSample]

@[simp] theorem execCoolantSample_keeps (inlet outlet flow : BitVec 12) (held : Bool) (s : State) :
    Keeps s (execCoolantSample inlet outlet flow held s) := by
  unfold execCoolantSample
  dsimp only
  (repeat' split) <;> simp

@[simp] theorem grantPoints_sameCount (room : Nat) (l : List Nat) (s : State) : SameCount s (grantPoints room l s) := by
  induction l generalizing room s with
  | nil => simp [grantPoints]
  | cons a l ih => simp [grantPoints, ih]

@[simp] theorem grantBoost_sameCount (s : State) : SameCount s (grantBoost s) := by simp [grantBoost]

@[simp] theorem execBoostPointChange_keeps (core : BitVec 8) (s : State) : Keeps s (execBoostPointChange core s) := by
  simp [execBoostPointChange]

end Sys2Proof.Machine
end

section
/-! The bell's discipline and the memory tiers leave the bell count (R307). -/

namespace Sys2Proof.Machine

/-! ### All the edge does but count, and discipline (R306 to R321) -/

@[simp] theorem latchReg_sameCount (r : RegRow) (d off : Nat) (s : State) : SameCount s (latchReg r d off s) := by
  simp [latchReg]

@[simp] theorem latchRow_sameCount (s : State) (r : RegRow) : SameCount s (latchRow s r) := by
  unfold latchRow
  split <;> simp

@[simp] theorem latchAll_sameCount (s : State) : SameCount s (latchAll s) := by simp [latchAll]
@[simp] theorem putTimeouts_sameCount (n t t2 : Nat) (s : State) : SameCount s (putTimeouts n t t2 s) := by simp [putTimeouts]
@[simp] theorem joinCore_sameCount (p : Nat) (s : State) (n : Nat) : SameCount s (joinCore p s n) := by simp [joinCore]
@[simp] theorem leaveCore_sameCount (s : State) (n : Nat) : SameCount s (leaveCore s n) := by simp [leaveCore]
@[simp] theorem applyCores_sameCount (p map : Nat) (s : State) : SameCount s (applyCores p map s) := by simp [applyCores]

@[simp] theorem applyItem_sameCount (i : StagedItem) (s : State) : SameCount s (applyItem i s) := by
  unfold applyItem
  split <;> simp

@[simp] theorem applyAllot_sameCount (i : StagedItem) (s : State) : SameCount s (applyAllot i s) := by
  unfold applyAllot
  split <;> simp

@[simp] theorem applyStaged_sameCount (s : State) : SameCount s (applyStaged s) := by simp [applyStaged]

@[simp] theorem completeLoads_sameCount (s : State) : SameCount s (completeLoads s) := by
  unfold completeLoads
  refine foldl_sameCount _ (fun s x => ?_) _ _
  (repeat' split) <;> simp

@[simp] theorem edgeCtxs_sameCount (s : State) : SameCount s (edgeCtxs s) := by simp [edgeCtxs]
@[simp] theorem setDiscipline_sameCount (st : Nat) (s : State) : SameCount s (setDiscipline st s) := by simp [setDiscipline]
@[simp] theorem measureOffset_sameCount (s : State) : SameCount s (measureOffset s) := by simp [measureOffset]
@[simp] theorem strike_sameCount (s : State) : SameCount s (strike s) := by simp [strike]

@[simp] theorem execLocalBalanceReset_keeps (core : BitVec 8) (s : State) : Keeps s (execLocalBalanceReset core s) := by
  simp [execLocalBalanceReset]

@[simp] theorem execBellSourceValid_keeps (source : BitVec 3) (s : State) : Keeps s (execBellSourceValid source s) := by
  unfold execBellSourceValid
  dsimp only
  split <;> simp

@[simp] theorem execBellLocked_keeps (s : State) : Keeps s (execBellLocked s) := by
  unfold execBellLocked
  split <;> simp

@[simp] theorem execBellHoldover_keeps (s : State) : Keeps s (execBellHoldover s) := by
  unfold execBellHoldover
  split <;> simp

@[simp] theorem execCtxPageStore_keeps (ctx : BitVec 32) (off : BitVec 7) (bytes : BitVec 4) (value : BitVec 64) (s : State) :
    Keeps s (execCtxPageStore ctx off bytes value s) := by
  unfold execCtxPageStore
  dsimp only
  split <;> simp

/-! ### Memory tiers (R361 to R389) -/

@[simp] theorem loadAnswer_sameCount (bs : List Byte) (fault : Bool) (s : State) : SameCount s (loadAnswer bs fault s) := by
  simp [loadAnswer]

@[simp] theorem startSparing_sameCount (k c : Nat) (s : State) : SameCount s (startSparing k c s) := by simp [startSparing]
@[simp] theorem repairRow_sameCount (k c row : Nat) (s : State) : SameCount s (repairRow k c row s) := by simp [repairRow]

@[simp] theorem stackError_sameCount (k sec : Nat) (uncorr : Bool) (s : State) : SameCount s (stackError k sec uncorr s) := by
  simp [stackError]

@[simp] theorem execStackScrub_keeps (stack : BitVec 4) (found : List (BitVec 31 × Bool)) (s : State) :
    Keeps s (execStackScrub stack found s) := by
  unfold execStackScrub
  dsimp only
  split <;> simp

@[simp] theorem execChannelSpareDone_keeps (stack : BitVec 4) (s : State) : Keeps s (execChannelSpareDone stack s) := by
  unfold execChannelSpareDone
  dsimp only
  (repeat' split) <;> simp

@[simp] theorem execChannelFail_keeps (stack channel : BitVec 4) (s : State) : Keeps s (execChannelFail stack channel s) := by
  unfold execChannelFail
  dsimp only
  (repeat' split) <;> simp

@[simp] theorem fenceStack_sameCount (k : Nat) (s : State) : SameCount s (fenceStack k s) := by simp [fenceStack]

@[simp] theorem execStackFence_keeps (stack : BitVec 4) (s : State) : Keeps s (execStackFence stack s) := by
  simp [execStackFence]

@[simp] theorem execStackReady_keeps (stack : BitVec 4) (s : State) : Keeps s (execStackReady stack s) := by
  unfold execStackReady
  dsimp only
  split <;> simp

@[simp] theorem ddrReset_sameCount (s : State) : SameCount s (ddrReset s) := by simp [ddrReset]
@[simp] theorem execDdrControllerReset_keeps (s : State) : Keeps s (execDdrControllerReset s) := by simp [execDdrControllerReset]

@[simp] theorem execDdrReady_keeps (speed : Bool) (s : State) : Keeps s (execDdrReady speed s) := by
  unfold execDdrReady
  dsimp only
  split <;> simp

@[simp] theorem execDdrRepair_keeps (channel : BitVec 3) (row : BitVec 48) (hard : Bool) (s : State) :
    Keeps s (execDdrRepair channel row hard s) := by simp [execDdrRepair]

@[simp] theorem execCellarWindowAccess_keeps (addr : BitVec 48) (write : Option (BitVec 64)) (s : State) :
    Keeps s (execCellarWindowAccess addr write s) := by
  unfold execCellarWindowAccess
  dsimp only
  (repeat' split) <;> simp

@[simp] theorem poisonVolTile_sameCount (v i : Nat) (s : State) : SameCount s (poisonVolTile v i s) := by simp [poisonVolTile]

@[simp] theorem execSlowChunkRead_keeps (volume : BitVec 8) (tile : BitVec 48) (good : BitVec 4) (s : State) :
    Keeps s (execSlowChunkRead volume tile good s) := by
  unfold execSlowChunkRead
  dsimp only
  split <;> simp

@[simp] theorem wearStick_sameCount (b : Nat) (s : State) : SameCount s (wearStick b s) := by simp [wearStick]

@[simp] theorem execReadDisturbRelocate_keeps (bay : BitVec 3) (_block : BitVec 32) (s : State) :
    Keeps s (execReadDisturbRelocate bay _block s) := by
  unfold execReadDisturbRelocate
  split <;> simp

@[simp] theorem execRetentionRewrite_keeps (bay : BitVec 3) (_block : BitVec 32) (s : State) :
    Keeps s (execRetentionRewrite bay _block s) := by
  unfold execRetentionRewrite
  split <;> simp

@[simp] theorem showCellar_sameCount (s : State) : SameCount s (showCellar s) := by simp [showCellar]
@[simp] theorem setBay_sameCount (b st : Nat) (s : State) : SameCount s (setBay b st s) := by simp [setBay]
@[simp] theorem showStick_sameCount (b : Nat) (s : State) : SameCount s (showStick b s) := by simp [showStick]

@[simp] theorem execBadBlockRetire_keeps (bay : BitVec 3) (_block : BitVec 32) (sparePct : BitVec 8) (s : State) :
    Keeps s (execBadBlockRetire bay _block sparePct s) := by
  unfold execBadBlockRetire
  dsimp only
  (repeat' split) <;> simp

@[simp] theorem execStickInsert_keeps (bay : BitVec 3) (kind : StickKind) (s : State) : Keeps s (execStickInsert bay kind s) := by
  unfold execStickInsert
  dsimp only
  (repeat' split) <;> simp

@[simp] theorem execStickRemove_keeps (bay : BitVec 3) (s : State) : Keeps s (execStickRemove bay s) := by
  unfold execStickRemove
  dsimp only
  split <;> simp

@[simp] theorem execRebuildComplete_keeps (bay : BitVec 3) (s : State) : Keeps s (execRebuildComplete bay s) := by
  unfold execRebuildComplete
  dsimp only
  split <;> simp

@[simp] theorem adoptBays_sameCount (bays : Nat) (s : State) : SameCount s (adoptBays bays s) := by simp [adoptBays]
@[simp] theorem execAdopt_keeps (bays : BitVec 8) (s : State) : Keeps s (execAdopt bays s) := by simp [execAdopt]

@[simp] theorem execStickFailure_keeps (bay : BitVec 3) (s : State) : Keeps s (execStickFailure bay s) := by
  unfold execStickFailure
  dsimp only
  split <;> simp

@[simp] theorem failOwner_sameCount (f : Fail) (c : CmdRef) (s : State) : SameCount s (failOwner f c s) := by
  unfold failOwner
  split <;> simp

@[simp] theorem failBarrier_sameCount (f : Fail) (b : Barrier) (s : State) : SameCount s (failBarrier f b s) := by
  unfold failBarrier
  split <;> simp

@[simp] theorem failWaiting_sameCount (t : StoreTarget) (f : Fail) (b : Barrier) (s : State) :
    SameCount s (failWaiting t f b s) := by
  unfold failWaiting
  split <;> simp

@[simp] theorem storeFailed_sameCount (t : StoreTarget) (a agent engine : Nat) (b : Barrier) (s : State) :
    SameCount s (storeFailed t a agent engine b s) := by simp [storeFailed]

@[simp] theorem execStoreDeclaredFailed_keeps (target : StoreTarget) (addr : BitVec 64) (agent : BitVec 16) (engine : BitVec 2)
    (barrier : Barrier) (s : State) : Keeps s (execStoreDeclaredFailed target addr agent engine barrier s) := by
  simp [execStoreDeclaredFailed]

@[simp] theorem poisonedData_sameCount (o : Barrier) (slot : Nat) (src : Place) (s : State) :
    SameCount s (poisonedData o slot src s) := by
  unfold poisonedData
  dsimp only
  split <;> simp

end Sys2Proof.Machine
end

section
/-! Dies, guests and external hosts leave the bell count (R307). -/

namespace Sys2Proof.Machine

/-! ### Die links (R490 to R494) -/

@[simp] theorem execBeat_keeps (link : BitVec 6) (s : State) : Keeps s (execBeat link s) := by
  unfold execBeat
  dsimp only
  split <;> simp

@[simp] theorem execDieLinkRepair_keeps (link : BitVec 6) (lane : BitVec 8) (dropped : Bool) (s : State) :
    Keeps s (execDieLinkRepair link lane dropped s) := by
  unfold execDieLinkRepair
  dsimp only
  split <;> simp

@[simp] theorem dropFromDirs_sameCount (a : Nat) (s : State) : SameCount s (dropFromDirs a s) := by simp [dropFromDirs]

@[simp] theorem loseAgent_sameCount (a : Nat) (s : State) : SameCount s (loseAgent a s) := by
  unfold loseAgent
  extract_lets s1 s2 s3 s4
  have h4 : SameCount s s4 := by simp [s4, s3, s2, s1]
  refine SameCount.trans (h4.trans ?_) (pump_sameCount _)
  refine foldl_sameCount _ (fun s m => ?_) _ _
  split <;> simp

@[simp] theorem fenceCoreState_sameCount (n : Nat) (s : State) : SameCount s (fenceCoreState n s) := by simp [fenceCoreState]

/-! ### Guest sites (R495 to R499) -/

@[simp] theorem setSite_sameCount (g st : Nat) (s : State) : SameCount s (setSite g st s) := by simp [setSite]
@[simp] theorem showLinks_sameCount (g : Nat) (s : State) : SameCount s (showLinks g s) := by simp [showLinks]
@[simp] theorem noteSite_sameCount (g1 : Bool) (was : Nat) (s : State) : SameCount s (noteSite g1 was s) := by simp [noteSite]

@[simp] theorem acceptCap_sameCount (g1 : Bool) (c : GuestCap) (s : State) : SameCount s (acceptCap g1 c s) := by
  simp [acceptCap]

@[simp] theorem execCap_keeps (g1 : Bool) (r : GuestCap) (s : State) : Keeps s (execCap g1 r s) := by
  unfold execCap
  dsimp only
  split <;> simp

@[simp] theorem guestAccept_sameCount (g1 : Bool) (s : State) : SameCount s (guestAccept g1 s) := by
  unfold guestAccept
  split <;> simp

@[simp] theorem execGuestAccept_keeps (g1 : Bool) (s : State) : Keeps s (execGuestAccept g1 s) := by simp [execGuestAccept]
@[simp] theorem stopSite_sameCount (g1 : Bool) (s : State) : SameCount s (stopSite g1 s) := by simp [stopSite]
@[simp] theorem guestFence_sameCount (g1 : Bool) (s : State) : SameCount s (guestFence g1 s) := by simp [guestFence]

@[simp] theorem execGuestSnoopTimeout_keeps (g1 : Bool) (addr : BitVec 48) (s : State) :
    Keeps s (execGuestSnoopTimeout g1 addr s) := by
  unfold execGuestSnoopTimeout
  split <;> simp

@[simp] theorem guestReset_sameCount (g1 : Bool) (s : State) : SameCount s (guestReset g1 s) := by
  unfold guestReset
  dsimp only
  (repeat' split) <;> simp

@[simp] theorem execGuestReset_keeps (g1 : Bool) (s : State) : Keeps s (execGuestReset g1 s) := by simp [execGuestReset]
@[simp] theorem guestEnable_sameCount (g1 on : Bool) (s : State) : SameCount s (guestEnable g1 on s) := by simp [guestEnable]

@[simp] theorem execGuestResponse_keeps (g1 : Bool) (tag : BitVec 12) (r : GuestRsp) (s : State) :
    Keeps s (execGuestResponse g1 tag r s) := by
  unfold execGuestResponse
  dsimp only
  (repeat' split) <;> simp

@[simp] theorem guestRefuse_sameCount (g1 : Bool) (tag : BitVec 12) (addr reason : Nat) (s : State) :
    SameCount s (guestRefuse g1 tag addr reason s) := by simp [guestRefuse]

@[simp] theorem guestRequest_sameCount (g1 : Bool) (tag : BitVec 12) (a n rights : Nat) (write : Bool) (held : HeldAccess)
    (act : Place → State → State) (s : State) (hact : ∀ x s, SameCount s (act x s)) :
    SameCount s (guestRequest g1 tag a n rights write held act s) := by
  unfold guestRequest
  (repeat' split) <;> simp [hact]

@[simp] theorem execGuestRead_keeps (g1 : Bool) (tag : BitVec 12) (addr : BitVec 48) (sectors : BitVec 7) (s : State) :
    Keeps s (execGuestRead g1 tag addr sectors s) := by simp [execGuestRead]

@[simp] theorem poisonPlace_sameCount (pl : Place) (n : Nat) (s : State) : SameCount s (poisonPlace pl n s) := by
  unfold poisonPlace
  split <;> simp

@[simp] theorem execGuestWrite_keeps (g1 : Bool) (tag : BitVec 12) (addr : BitVec 48) (bytes : List (BitVec 8)) (poison : Bool)
    (s : State) : Keeps s (execGuestWrite g1 tag addr bytes poison s) := by simp [execGuestWrite]

@[simp] theorem execGuestAtomic_keeps (g1 : Bool) (tag : BitVec 12) (addr : BitVec 48) (req : AtomicReq) (s : State) :
    Keeps s (execGuestAtomic g1 tag addr req s) := by simp [execGuestAtomic]

@[simp] theorem execGuestTallyOp_keeps (g1 : Bool) (tag : BitVec 12) (op : TallyOpKind) (t : TallyRef) (n : BitVec 64)
    (s : State) : Keeps s (execGuestTallyOp g1 tag op t n s) := by
  unfold execGuestTallyOp
  dsimp only
  (repeat' split) <;> simp

@[simp] theorem execGuestIrq_keeps (g1 : Bool) (tag : BitVec 12) (vector : BitVec 16) (s : State) :
    Keeps s (execGuestIrq g1 tag vector s) := by
  unfold execGuestIrq
  dsimp only
  (repeat' split) <;> simp

/-! ### External-host ports (R504 to R517) -/

@[simp] theorem setExtState_sameCount (b : Bool) (st : Nat) (s : State) : SameCount s (setExtState b st s) := by
  simp [setExtState]

@[simp] theorem enableFunction_sameCount (b on : Bool) (s : State) : SameCount s (enableFunction b on s) := by
  simp [enableFunction]

@[simp] theorem execExtLinkUp_keeps (portB : Bool) (gen : BitVec 4) (width : BitVec 5) (s : State) :
    Keeps s (execExtLinkUp portB gen width s) := by
  unfold execExtLinkUp
  dsimp only
  (repeat' split) <;> simp

@[simp] theorem resetFunction_sameCount (b : Bool) (s : State) : SameCount s (resetFunction b s) := by simp [resetFunction]

@[simp] theorem execExtHoldBegin_keeps (portB : Bool) (cause : HoldCause) (s : State) :
    Keeps s (execExtHoldBegin portB cause s) := by
  unfold execExtHoldBegin
  (repeat' split) <;> simp

@[simp] theorem stopHolding_sameCount (b : Bool) (s : State) : SameCount s (stopHolding b s) := by simp [stopHolding]
@[simp] theorem tryRelease_sameCount (b : Bool) (s : State) : SameCount s (tryRelease b s) := by simp [tryRelease]

@[simp] theorem execExtHoldEnd_keeps (portB l0 bme : Bool) (s : State) : Keeps s (execExtHoldEnd portB l0 bme s) := by
  simp [execExtHoldEnd]

@[simp] theorem resumePort_sameCount (b : Bool) (s : State) : SameCount s (resumePort b s) := by simp [resumePort]
@[simp] theorem execResume_keeps (portB : Bool) (s : State) : Keeps s (execResume portB s) := by simp [execResume]

@[simp] theorem loseQueue_sameCount (held : List ExtWrite) (q : Nat) (s : State) : SameCount s (loseQueue held q s) := by
  simp [loseQueue]

@[simp] theorem execExtHoldExpiry_keeps (portB : Bool) (s : State) : Keeps s (execExtHoldExpiry portB s) := by
  unfold execExtHoldExpiry
  extract_lets p writes s1 p1 s2 s3 s4
  have h4 : SameCount s s4 := by simp [s4, s3, s2, s1]
  split
  · simp
  · split <;> simp [h4]

@[simp] theorem execMsixUnmask_keeps (portB : Bool) (entry : BitVec 11) (s : State) : Keeps s (execMsixUnmask portB entry s) := by
  simp [execMsixUnmask]

@[simp] theorem outsideWrite_sameCount (cls a : Nat) (bs : List Byte) (s : State) : SameCount s (outsideWrite cls a bs s) := by
  unfold outsideWrite
  dsimp only
  (repeat' split) <;> simp

@[simp] theorem execBar4Write_keeps (portB : Bool) (off : BitVec 48) (bytes : List (BitVec 8)) (s : State) :
    Keeps s (execBar4Write portB off bytes s) := by
  unfold execBar4Write
  (repeat' split) <;> simp

@[simp] theorem execBar4Read_keeps (portB : Bool) (off : BitVec 48) (len : BitVec 13) (s : State) :
    Keeps s (execBar4Read portB off len s) := by
  unfold execBar4Read
  dsimp only
  (repeat' split) <;> simp

@[simp] theorem deviceMsi_sameCount (hart : Nat) (bs : List Byte) (s : State) : SameCount s (deviceMsi hart bs s) := by
  simp [deviceMsi]

@[simp] theorem execRootDeviceDma_keeps (portB : Bool) (addr : BitVec 48) (write : Option (List (BitVec 8))) (len : BitVec 13)
    (iommuOk : Bool) (s : State) : Keeps s (execRootDeviceDma portB addr write len iommuOk s) := by
  unfold execRootDeviceDma
  dsimp only
  (repeat' split) <;> simp

@[simp] theorem execRootSnoopTimeout_keeps (portB : Bool) (s : State) : Keeps s (execRootSnoopTimeout portB s) := by
  unfold execRootSnoopTimeout
  dsimp only
  split <;> simp

/-! ### A lost compute die (R500, R501) -/

@[simp] theorem sitesSilent_sameCount (s : State) : SameCount s (sitesSilent s) := by simp [sitesSilent]
@[simp] theorem dieFence_sameCount (d : Nat) (s : State) : SameCount s (dieFence d s) := by simp [dieFence]

@[simp] theorem returnCore_sameCount (n : Nat) (s : State) : SameCount s (returnCore n s) := by
  unfold returnCore
  dsimp only
  (repeat' split) <;> simp

@[simp] theorem execDieReturn_keeps (die : BitVec 2) (s : State) : Keeps s (execDieReturn die s) := by
  unfold execDieReturn
  dsimp only
  split <;> simp

end Sys2Proof.Machine
end

section
/-! The fabric below its messages, outages short of main power, and the boot store leave the bell count (R307). -/

namespace Sys2Proof.Machine

/-! ### Flits, links and routes (R465 to R483) -/

@[simp] theorem setPortState_sameCount (p st : Nat) (s : State) : SameCount s (setPortState p st s) := by simp [setPortState]
@[simp] theorem sendWaiting_sameCount (s : State) : SameCount s (sendWaiting s) := by simp [sendWaiting]
@[simp] theorem failReq_sameCount (f : Fail) (r : OutReq) (s : State) : SameCount s (failReq f r s) := by simp [failReq]

@[simp] theorem runsLost_sameCount (m : Nat) (s : State) : SameCount s (runsLost m s) := by
  unfold runsLost
  refine foldl_sameCount _ (fun s x => ?_) _ _
  (repeat' split) <;> simp

@[simp] theorem freeColl_sameCount (root coll : Nat) (s : State) : SameCount s (freeColl root coll s) := by simp [freeColl]

@[simp] theorem abortColl_sameCount (d : CollDesc) (f : Fail) (gone : List Nat) (s : State) :
    SameCount s (abortColl d f gone s) := by simp [abortColl]

@[simp] theorem collsLost_sameCount (m : Nat) (s : State) : SameCount s (collsLost m s) := by simp [collsLost]
@[simp] theorem declareLost_sameCount (m : Nat) (s : State) : SameCount s (declareLost m s) := by simp [declareLost]

@[simp] theorem execLinkTimeout_keeps (dest : BitVec 16) (cls : BitVec 2) (s : State) : Keeps s (execLinkTimeout dest cls s) := by
  simp [execLinkTimeout]

@[simp] theorem retransmit_sameCount (pick : OutReq → Bool) (s : State) : SameCount s (retransmit pick s) := by simp [retransmit]

@[simp] theorem execE2eRetransmit_keeps (dest : BitVec 16) (cls : BitVec 2) (s : State) :
    Keeps s (execE2eRetransmit dest cls s) := by simp [execE2eRetransmit]

@[simp] theorem flood_sameCount (l : Lsr) (s : State) : SameCount s (flood l s) := by simp [flood]
@[simp] theorem recomputing_sameCount (s : State) : SameCount s (recomputing s) := by simp [recomputing]
@[simp] theorem floodOwn_sameCount (s : State) : SameCount s (floodOwn s) := by simp [floodOwn]
@[simp] theorem execLsrRefresh_keeps (s : State) : Keeps s (execLsrRefresh s) := by simp [execLsrRefresh]
@[simp] theorem keepLsr_sameCount (l : Lsr) (s : State) : SameCount s (keepLsr l s) := by simp [keepLsr]

@[simp] theorem execLsr_keeps (l : Lsr) (s : State) : Keeps s (execLsr l s) := by
  unfold execLsr
  dsimp only
  (repeat' split) <;> simp

@[simp] theorem execLsrExpiry_keeps (origin : BitVec 16) (s : State) : Keeps s (execLsrExpiry origin s) := by
  simp [execLsrExpiry]

@[simp] theorem releaseHeld_sameCount (s : State) : SameCount s (releaseHeld s) := by simp [releaseHeld]
@[simp] theorem routeCompute_sameCount (s : State) : SameCount s (routeCompute s) := by simp [routeCompute]
@[simp] theorem execRouteCompute_keeps (s : State) : Keeps s (execRouteCompute s) := by simp [execRouteCompute]
@[simp] theorem writeRoute_sameCount (m v : Nat) (s : State) : SameCount s (writeRoute m v s) := by simp [writeRoute]

@[simp] theorem execFabRouteData_keeps (_w : Agent) (value : BitVec 64) (s : State) : Keeps s (execFabRouteData _w value s) := by
  simp [execFabRouteData]

@[simp] theorem leaveUp_sameCount (p : Nat) (s : State) : SameCount s (leaveUp p s) := by simp [leaveUp]

@[simp] theorem execPortTrain_keeps (port : BitVec 3) (peer : PeerInfo) (s : State) : Keeps s (execPortTrain port peer s) := by
  unfold execPortTrain
  dsimp only
  split <;> simp

@[simp] theorem portFault_sameCount (p code : Nat) (s : State) : SameCount s (portFault p code s) := by simp [portFault]

@[simp] theorem portRise_sameCount (p : Nat) (i : PeerInfo) (fresh : Bool) (s : State) : SameCount s (portRise p i fresh s) := by
  simp [portRise]

@[simp] theorem execTrainingComplete_keeps (port : BitVec 3) (s : State) : Keeps s (execTrainingComplete port s) := by
  unfold execTrainingComplete
  dsimp only
  (repeat' split) <;> simp

@[simp] theorem portRetrain_sameCount (p good : Nat) (s : State) : SameCount s (portRetrain p good s) := by simp [portRetrain]

@[simp] theorem execPortRetrain_keeps (port : BitVec 3) (goodLanes : BitVec 9) (s : State) :
    Keeps s (execPortRetrain port goodLanes s) := by simp [execPortRetrain]

@[simp] theorem execLaneSwap_keeps (port : BitVec 3) (lane : BitVec 4) (s : State) : Keeps s (execLaneSwap port lane s) := by
  unfold execLaneSwap
  dsimp only
  (repeat' split) <;> simp

@[simp] theorem enablePort_sameCount (p : Nat) (on : Bool) (s : State) : SameCount s (enablePort p on s) := by simp [enablePort]
@[simp] theorem retrainIf_sameCount (b : Bool) (p : Nat) (s : State) : SameCount s (retrainIf b p s) := by simp [retrainIf]
@[simp] theorem replayFrom_sameCount (p q : Nat) (s : State) : SameCount s (replayFrom p q s) := by simp [replayFrom]

@[simp] theorem execFlitNak_keeps (port : BitVec 3) (seq : BitVec 12) (s : State) : Keeps s (execFlitNak port seq s) := by
  simp [execFlitNak]

@[simp] theorem flitPayload_sameCount (p w0 : Nat) (payload : List Byte) (s : State) :
    SameCount s (flitPayload p w0 payload s) := by simp [flitPayload]

@[simp] theorem flitAcks_sameCount (p ackw credits : Nat) (s : State) : SameCount s (flitAcks p ackw credits s) := by
  simp [flitAcks]

@[simp] theorem badFlit_sameCount (p : Nat) (s : State) : SameCount s (badFlit p s) := by simp [badFlit]

@[simp] theorem flitReceive_sameCount (p : Nat) (flit : List Byte) (corrected : Nat) (s : State) :
    SameCount s (flitReceive p flit corrected s) := by simp [flitReceive]

@[simp] theorem execFlitReceive_keeps (port : BitVec 3) (flit : BitVec 2048) (corrected : BitVec 16) (s : State) :
    Keeps s (execFlitReceive port flit corrected s) := by simp [execFlitReceive]

/-! ### Fences and the Warden (R556) -/

@[simp] theorem setRstate_sameCount (v : Nat) (s : State) : SameCount s (setRstate v s) := by simp [setRstate]
@[simp] theorem setCause_sameCount (c : Nat) (s : State) : SameCount s (setCause c s) := by simp [setCause]
@[simp] theorem quiesceQueues_sameCount (s : State) : SameCount s (quiesceQueues s) := by simp [quiesceQueues]
@[simp] theorem resumeQuiesce_sameCount (s : State) : SameCount s (resumeQuiesce s) := by simp [resumeQuiesce]
@[simp] theorem beginQuiesce_sameCount (s : State) : SameCount s (beginQuiesce s) := by simp [beginQuiesce]

@[simp] theorem execCageOvercurrent_keeps (port : BitVec 3) (s : State) : Keeps s (execCageOvercurrent port s) := by
  unfold execCageOvercurrent
  dsimp only
  split <;> simp

@[simp] theorem coreFence_sameCount (n : Nat) (s : State) : SameCount s (coreFence n s) := by simp [coreFence]
@[simp] theorem plainFence_sameCount (dom idx : Nat) (s : State) : SameCount s (plainFence dom idx s) := by simp [plainFence]
@[simp] theorem portFence_sameCount (p : Nat) (s : State) : SameCount s (portFence p s) := by simp [portFence]

@[simp] theorem fenceDomain_sameCount (d : DomainRef) (s : State) : SameCount s (fenceDomain d s) := by
  unfold fenceDomain
  split <;> simp

@[simp] theorem answerRest_sameCount (d : DomainRef) (s : State) : SameCount s (answerRest d s) := by
  unfold answerRest
  split <;> simp

@[simp] theorem drainExpiry_sameCount (d : DomainRef) (answered discarded : Nat) (s : State) :
    SameCount s (drainExpiry d answered discarded s) := by simp [drainExpiry]

@[simp] theorem execDrainLimitExpiry_keeps (d : DomainRef) (answered discarded : BitVec 32) (s : State) :
    Keeps s (execDrainLimitExpiry d answered discarded s) := by simp [execDrainLimitExpiry]

@[simp] theorem execHeartbeat_keeps (s : State) : Keeps s (execHeartbeat s) := by simp [execHeartbeat]
@[simp] theorem noteBeat_sameCount (k v : Nat) (on : Bool) (s : State) : SameCount s (noteBeat k v on s) := by simp [noteBeat]
@[simp] theorem missLedger_sameCount (k : Nat) (s : State) : SameCount s (missLedger k s) := by simp [missLedger]

@[simp] theorem lookAt_sameCount (k v : Nat) (up : Bool) (act : State → State) (s : State) (hact : ∀ s, SameCount s (act s)) :
    SameCount s (lookAt k v up act s) := by simp [lookAt, hact]

@[simp] theorem swapWarden_sameCount (s : State) : SameCount s (swapWarden s) := by simp [swapWarden]
@[simp] theorem wardenTakeover_sameCount (s : State) : SameCount s (wardenTakeover s) := by simp [wardenTakeover]
@[simp] theorem execWardenTakeover_keeps (s : State) : Keeps s (execWardenTakeover s) := by simp [execWardenTakeover]
@[simp] theorem clearReason_sameCount (b : Nat) (s : State) : SameCount s (clearReason b s) := by simp [clearReason]

@[simp] theorem execWardenResetDone_keeps (ok : Bool) (s : State) : Keeps s (execWardenResetDone ok s) := by
  simp [execWardenResetDone]

@[simp] theorem supplyFence_sameCount (i : Nat) (s : State) : SameCount s (supplyFence i s) := by simp [supplyFence]
@[simp] theorem limitCores_sameCount (d limit : Nat) (s : State) : SameCount s (limitCores d limit s) := by simp [limitCores]
@[simp] theorem phaseFault_sameCount (i k cause : Nat) (s : State) : SameCount s (phaseFault i k cause s) := by simp [phaseFault]

@[simp] theorem execPhaseFault_keeps (supply phase : BitVec 5) (cause : PhaseCause) (s : State) :
    Keeps s (execPhaseFault supply phase cause s) := by simp [execPhaseFault]

@[simp] theorem mirrorOne_sameCount (s : State) : SameCount s (mirrorOne s) := by
  unfold mirrorOne
  (repeat' split) <;> simp

@[simp] theorem execLedgerMirrorWrite_keeps (s : State) : Keeps s (execLedgerMirrorWrite s) := by
  unfold execLedgerMirrorWrite
  split <;> simp

/-! ### A register's store (R5, R634) -/

@[simp] theorem storeReg_sameCount (w : Agent) (r : RegRow) (off v : Nat) (s : State) : SameCount s (storeReg w r off v s) := by
  unfold storeReg
  split <;> simp

@[simp] theorem afterStore_sameCount (r : RegRow) (off v : Nat) (old s : State) : SameCount s (afterStore r off v old s) := by
  unfold afterStore
  split <;> simp

@[simp] theorem putValue_sameCount (w : Agent) (off v : Nat) (s : State) : SameCount s (putValue w off v s) := by
  unfold putValue
  split <;> simp

/-! ### Boot store, attestation and update (R582 to R598) -/

@[simp] theorem setStage_sameCount (v : Nat) (s : State) : SameCount s (setStage v s) := by simp [setStage]

@[simp] theorem takeHostBank_sameCount (s : State) : SameCount s (takeHostBank s) := by
  unfold takeHostBank
  split <;> simp

@[simp] theorem hostBoot_sameCount (s : State) : SameCount s (hostBoot s) := by
  unfold hostBoot
  dsimp only
  (repeat' split) <;> simp

@[simp] theorem execHostBoot_keeps (s : State) : Keeps s (execHostBoot s) := by simp [execHostBoot]
@[simp] theorem pldmAnswer_sameCount (code : Nat) (s : State) : SameCount s (pldmAnswer code s) := by simp [pldmAnswer]

@[simp] theorem requestUpdate_sameCount (c : Component) (len : Nat) (s : State) : SameCount s (requestUpdate c len s) := by
  simp [requestUpdate]

@[simp] theorem execRequestUpdate_keeps (c : Component) (imageLen : BitVec 32) (s : State) :
    Keeps s (execRequestUpdate c imageLen s) := by simp [execRequestUpdate]

@[simp] theorem firmwareData_sameCount (off : Nat) (bs : List Byte) (s : State) : SameCount s (firmwareData off bs s) := by
  unfold firmwareData
  split <;> simp

@[simp] theorem execRequestFirmwareData_keeps (off : BitVec 32) (bytes : List (BitVec 8)) (s : State) :
    Keeps s (execRequestFirmwareData off bytes s) := by simp [execRequestFirmwareData]

@[simp] theorem verifyComplete_sameCount (s : State) : SameCount s (verifyComplete s) := by
  unfold verifyComplete
  split <;> simp

@[simp] theorem execVerifyComplete_keeps (s : State) : Keeps s (execVerifyComplete s) := by simp [execVerifyComplete]

@[simp] theorem cancelUpdate_sameCount (s : State) : SameCount s (cancelUpdate s) := by
  unfold cancelUpdate
  split <;> simp

@[simp] theorem execCancelUpdate_keeps (s : State) : Keeps s (execCancelUpdate s) := by simp [execCancelUpdate]
@[simp] theorem activate_sameCount (c : Component) (s : State) : SameCount s (activate c s) := by simp [activate]

@[simp] theorem execActivateFirmware_keeps (c : Component) (s : State) : Keeps s (execActivateFirmware c s) := by
  simp [execActivateFirmware]

@[simp] theorem wardenActivation_sameCount (ok : Bool) (s : State) : SameCount s (wardenActivation ok s) := by
  unfold wardenActivation
  split <;> simp

@[simp] theorem execWardenActivation_keeps (ok : Bool) (s : State) : Keeps s (execWardenActivation ok s) := by
  simp [execWardenActivation]

@[simp] theorem reeveActivation_sameCount (d : Nat) (ok : Bool) (s : State) : SameCount s (reeveActivation d ok s) := by
  unfold reeveActivation
  split <;> simp

@[simp] theorem execReeveActivation_keeps (die : BitVec 2) (ok : Bool) (s : State) : Keeps s (execReeveActivation die ok s) := by
  simp [execReeveActivation]

@[simp] theorem stickInstall_sameCount (b : Nat) (ok : Bool) (s : State) : SameCount s (stickInstall b ok s) := by
  unfold stickInstall
  split <;> simp

@[simp] theorem execStickFwInstall_keeps (bay : BitVec 3) (ok : Bool) (s : State) : Keeps s (execStickFwInstall bay ok s) := by
  simp [execStickFwInstall]

@[simp] theorem execGetMeasurements_keeps (index : BitVec 8) (s : State) : Keeps s (execGetMeasurements index s) := by
  unfold execGetMeasurements
  dsimp only
  (repeat' split) <;> simp

@[simp] theorem setSessions_sameCount (l : List Session) (s : State) : SameCount s (setSessions l s) := by simp [setSessions]

@[simp] theorem spdmAnswer_sameCount (k : SpdmKind) (s : State) : SameCount s (spdmAnswer k s) := by
  unfold spdmAnswer
  split <;> simp

@[simp] theorem execSpdmRequest_keeps (k : SpdmKind) (s : State) : Keeps s (execSpdmRequest k s) := by simp [execSpdmRequest]

end Sys2Proof.Machine
end

section
/-! Engine events, the face, walks and the service port leave the bell count (R307). -/

namespace Sys2Proof.Machine

/-! ### Engine events (R77, R91 to R97) -/

@[simp] theorem tryIssue_sameCount (a : At) (e : Nat) (prep : State → State) (s : State) (hprep : ∀ s, SameCount s (prep s)) :
    SameCount s (tryIssue a e prep s) := by simp [tryIssue, hprep]

@[simp] theorem startFresh_sameCount (a : At) (n e : Nat) (s : State) : SameCount s (startFresh a n e s) := by
  unfold startFresh
  refine tryIssue_sameCount _ _ _ _ fun s => ?_
  dsimp only
  split
  · simp
  · split <;> simp

@[simp] theorem atChoice_sameCount (n : Nat) (s : State) : SameCount s (atChoice n s) := by simp [atChoice]

@[simp] theorem execStepIssue_keeps (core : BitVec 8) (engine : BitVec 2) (s0 : State) :
    Keeps s0 (execStepIssue core engine s0) := by
  unfold execStepIssue
  dsimp only
  (repeat' split) <;> simp

@[simp] theorem execStallSwitch_keeps (core : BitVec 8) (engine : BitVec 2) (s0 : State) :
    Keeps s0 (execStallSwitch core engine s0) := by
  unfold execStallSwitch
  dsimp only
  (repeat' split) <;> simp

@[simp] theorem atBoundary_sameCount (n e : Nat) (s : State) : SameCount s (atBoundary n e s) := by simp [atBoundary]

@[simp] theorem execStepBoundary_keeps (core : BitVec 8) (engine : BitVec 2) (s0 : State) :
    Keeps s0 (execStepBoundary core engine s0) := by
  unfold execStepBoundary
  dsimp only
  split <;> simp

@[simp] theorem drainTiles_sameCount (n e h r i : Nat) (x : ChainAcc) (anchor : Int) (k : Nat) (s : State) :
    SameCount s (drainTiles n e h r i x anchor k s) := by
  induction k generalizing s with
  | zero => rfl
  | succ k ih =>
    unfold drainTiles
    split
    · split
      · simp
      · extract_lets w g s1
        have h1 : SameCount s w.s := by simp [w]
        split
        · split <;> simp
        · simp [h1]
        · have h2 : SameCount s s1 := by simp [s1, h1]
          split
          next e3 =>
            have h3 : SameCount s _ := .of_state_fst (by simp [h2]) e3
            simp [h3]
          next e3 =>
            have h3 : SameCount s _ := .of_state_fst (by simp [h2]) e3
            simp [ih, h3]
    · simp

@[simp] theorem endDrain_sameCount (n e h r i : Nat) (s : State) : SameCount s (endDrain n e h r i s) := by
  unfold endDrain
  split <;> simp

@[simp] theorem execDrain_keeps (core : BitVec 8) (engine : BitVec 2) (s : State) : Keeps s (execDrain core engine s) := by
  unfold execDrain
  dsimp only
  (repeat' split) <;> simp

@[simp] theorem execSpill_keeps (core : BitVec 8) (engine : BitVec 2) (s : State) : Keeps s (execSpill core engine s) := by
  unfold execSpill
  split <;> simp

@[simp] theorem execRestore_keeps (core : BitVec 8) (engine : BitVec 2) (s : State) : Keeps s (execRestore core engine s) := by
  unfold execRestore
  dsimp only
  (repeat' split) <;> simp

@[simp] theorem execEngHalt_keeps (w : Agent) (core : BitVec 8) (engine : BitVec 2) (on : Bool) (s : State) :
    Keeps s (execEngHalt w core engine on s) := by
  unfold execEngHalt
  split <;> simp

@[simp] theorem spillNow_sameCount (n e : Nat) (s : State) : SameCount s (spillNow n e s) := by simp [spillNow]

@[simp] theorem execSpillNow_keeps (w : Agent) (core : BitVec 8) (engine : BitVec 2) (s : State) :
    Keeps s (execSpillNow w core engine s) := by
  unfold execSpillNow
  split <;> simp

@[simp] theorem beginPatrol_sameCount (n e : Nat) (s : State) : SameCount s (beginPatrol n e s) := by simp [beginPatrol]
@[simp] theorem askPatrol_sameCount (n e : Nat) (s : State) : SameCount s (askPatrol n e s) := by simp [askPatrol]

@[simp] theorem execPatrolNow_keeps (w : Agent) (core : BitVec 8) (engine : BitVec 2) (s : State) :
    Keeps s (execPatrolNow w core engine s) := by
  unfold execPatrolNow
  split <;> simp

@[simp] theorem execPatrolDue_keeps (core : BitVec 8) (engine : BitVec 2) (s : State) : Keeps s (execPatrolDue core engine s) := by
  unfold execPatrolDue
  dsimp only
  (repeat' split) <;> simp

@[simp] theorem execPatrolStart_keeps (core : BitVec 8) (engine : BitVec 2) (s : State) :
    Keeps s (execPatrolStart core engine s) := by
  unfold execPatrolStart
  dsimp only
  split <;> simp

@[simp] theorem selftestDone_sameCount (c : CmdRef) (s : State) : SameCount s (selftestDone c s) := by simp [selftestDone]
@[simp] theorem notePatrolWait_sameCount (n e : Nat) (s : State) : SameCount s (notePatrolWait n e s) := by simp [notePatrolWait]

@[simp] theorem execPatrolComplete_keeps (core : BitVec 8) (engine : BitVec 2) (failed : BitVec 4) (s : State) :
    Keeps s (execPatrolComplete core engine failed s) := by
  unfold execPatrolComplete
  extract_lets n e g s1 sf c sg s2 s3
  have h1 : SameCount s s1 := by simp [s1]
  have hg : SameCount s sg := by simp [sg, sf, h1]
  have h2 : SameCount s s2 := by simp [s2, h1, hg]
  have h3 : SameCount s s3 := by
    unfold s3
    split <;> simp [h2]
  clear_value s3
  split <;> simp [h3]

@[simp] theorem execAllotDraw_keeps (core : BitVec 8) (ctx : BitVec 32) (cls : BitVec 2) (s : State) :
    Keeps s (execAllotDraw core ctx cls s) := by
  unfold execAllotDraw
  dsimp only
  (repeat' split) <;> simp

@[simp] theorem At.fetchTile_sameCount (a : At) (t : Stream) (k x slot : Nat) (s : State) :
    SameCount s (a.fetchTile t k x slot s).1 := by
  unfold At.fetchTile
  split
  · simp
  · extract_lets n w note s1
    have h1 : SameCount s w.s := by simp [w]
    split
    · dsimp only
      split <;> simp
    · simp [h1]
    · have h2 : SameCount s s1 := by simp [s1, h1]
      split
      next e3 =>
        have h3 : SameCount s _ := .of_state_fst (by simp [h2]) e3
        simp [h3]
      next e3 => exact .of_state_fst (by simp [h2]) e3

@[simp] theorem At.fetchAll_sameCount (a : At) (t : Stream) (l : List (Nat × Nat)) (m : List Nat) (s : State) :
    SameCount s (a.fetchAll t l m s) := by
  induction l generalizing m s with
  | nil => simp [At.fetchAll]
  | cons x l ih =>
    cases m with
    | nil => simp [At.fetchAll]
    | cons y m =>
      unfold At.fetchAll
      split
      next e =>
        have h1 : SameCount s _ := .of_state_fst (by simp) e
        simp [ih, h1]
      next e => exact .of_state_fst (by simp) e

@[simp] theorem yieldSlots_sameCount (h need : Nat) (t : Stream) (later : List (Nat × Nat)) (s : State) :
    SameCount s (yieldSlots h need t later s) := by
  unfold yieldSlots
  refine foldr_sameCount _ (fun x s => ?_) _ _
  split
  · simp
  · split <;> simp

@[simp] theorem execStagingFetchDone_keeps (core : BitVec 8) (handle : BitVec 16) (run : BitVec 32) (step : BitVec 20)
    (s : State) : Keeps s (execStagingFetchDone core handle run step s) := by
  unfold execStagingFetchDone
  dsimp only
  (repeat' split) <;> simp

@[simp] theorem tierFail_sameCount (n cause unit ctx h : Nat) (s : State) : SameCount s (tierFail n cause unit ctx h s) := by
  simp [tierFail]

@[simp] theorem execTierTimeout_keeps (core : BitVec 8) (cause unit : BitVec 4) (who : Stalled) (s : State) :
    Keeps s (execTierTimeout core cause unit who s) := by
  unfold execTierTimeout
  dsimp only
  (repeat' split) <;> simp

/-! ### What a person does (R601 to R613) -/

@[simp] theorem attend_sameCount (s : State) : SameCount s (attend s) := by simp [attend]
@[simp] theorem attention_sameCount (button : Bool) (s : State) : SameCount s (attention button s) := by simp [attention]

@[simp] theorem onWarden_keeps (f : State → State) (s : State) (hf : ∀ s, SameCount s (f s)) : Keeps s (onWarden f s) := by
  unfold onWarden
  split <;> simp [hf]

@[simp] theorem attentionFrom_sameCount (src : AttnSource) (s : State) : SameCount s (attentionFrom src s) := by
  unfold attentionFrom
  split <;> simp

@[simp] theorem execAttentionRequest_keeps (src : AttnSource) (s : State) : Keeps s (execAttentionRequest src s) := by
  simp [execAttentionRequest]

@[simp] theorem execArmedExpiry_keeps (s : State) : Keeps s (execArmedExpiry s) := by
  unfold execArmedExpiry
  split <;> simp

@[simp] theorem refuseBar_sameCount (cause : Nat) (s : State) : SameCount s (refuseBar cause s) := by simp [refuseBar]

@[simp] theorem execDrainDeadline_keeps (s : State) : Keeps s (execDrainDeadline s) := by
  unfold execDrainDeadline
  (repeat' split) <;> simp

@[simp] theorem release_sameCount (s : State) : SameCount s (release s) := by simp [release]
@[simp] theorem execRelease_keeps (s : State) : Keeps s (execRelease s) := by simp [execRelease]
@[simp] theorem cancelRemoval_sameCount (s : State) : SameCount s (cancelRemoval s) := by simp [cancelRemoval]
@[simp] theorem execCancel_keeps (s : State) : Keeps s (execCancel s) := by simp [execCancel]

@[simp] theorem execQuiesceAbortTimeout_keeps (s : State) : Keeps s (execQuiesceAbortTimeout s) := by
  unfold execQuiesceAbortTimeout
  split <;> simp

@[simp] theorem leverTouched_sameCount (ms : Nat) (s : State) : SameCount s (leverTouched ms s) := by simp [leverTouched]
@[simp] theorem execLeverTouch_keeps (ms : BitVec 16) (s : State) : Keeps s (execLeverTouch ms s) := by simp [execLeverTouch]

@[simp] theorem execLeverPushHome_keeps (s : State) : Keeps s (execLeverPushHome s) := by
  unfold execLeverPushHome
  split <;> simp

@[simp] theorem leaveSync_sameCount (b : Nat) (s : State) : SameCount s (leaveSync b s) := by simp [leaveSync]
@[simp] theorem bayButton_sameCount (b : Nat) (s : State) : SameCount s (bayButton b s) := by simp [bayButton]
@[simp] theorem execBayButton_keeps (bay : BitVec 3) (s : State) : Keeps s (execBayButton bay s) := by simp [execBayButton]

@[simp] theorem cableEvent_sameCount (p : Nat) (inserted : Bool) (s : State) : SameCount s (cableEvent p inserted s) := by
  simp [cableEvent]

@[simp] theorem execCableEvent_keeps (port : BitVec 3) (inserted : Bool) (s : State) :
    Keeps s (execCableEvent port inserted s) := by simp [execCableEvent]

/-! ### Descriptor walks and the tally registers (R348, R349, R395) -/

@[simp] theorem failWalk_sameCount (die ctx seg : Nat) (w : Walk) (s : State) : SameCount s (failWalk die ctx seg w s) := by
  simp [failWalk]

@[simp] theorem installWalk_sameCount (die key d : Nat) (w : Walk) (s : State) : SameCount s (installWalk die key d w s) := by
  simp [installWalk]

@[simp] theorem descriptorWalk_sameCount (die ctx seg : Nat) (s : State) : SameCount s (descriptorWalk die ctx seg s) := by
  unfold descriptorWalk
  dsimp only
  (repeat' split) <;> simp

@[simp] theorem execDescriptorWalk_keeps (die : BitVec 2) (ctx : BitVec 32) (seg : BitVec 4) (s : State) :
    Keeps s (execDescriptorWalk die ctx seg s) := by simp [execDescriptorWalk]

@[simp] theorem execWalkTimeout_keeps (die : BitVec 2) (ctx : BitVec 32) (seg : BitVec 4) (s : State) :
    Keeps s (execWalkTimeout die ctx seg s) := by
  unfold execWalkTimeout
  dsimp only
  split <;> simp

@[simp] theorem windowFault_sameCount (kind die i : Nat) (s : State) : SameCount s (windowFault kind die i s) := by
  simp [windowFault]

@[simp] theorem windowDone_sameCount (die i : Nat) (r : State × Option Fail) : SameCount r.1 (windowDone die i r) := by
  unfold windowDone
  split <;> simp

@[simp] theorem execTwAdd_keeps (t : TallyRef) (value : BitVec 64) (s : State) : Keeps s (execTwAdd t value s) := by
  unfold execTwAdd
  dsimp only
  split <;> simp

@[simp] theorem execTwSub_keeps (t : TallyRef) (value : BitVec 64) (s : State) : Keeps s (execTwSub t value s) := by
  unfold execTwSub
  dsimp only
  split <;> simp

@[simp] theorem tallyResult_sameCount (r : Nat) (s : State) : SameCount s (tallyResult r s) := by simp [tallyResult]

@[simp] theorem execTallyCmdRead_keeps (s : State) : Keeps s (execTallyCmdRead s) := by
  unfold execTallyCmdRead
  split <;> simp

@[simp] theorem execTallyCmdWrite_keeps (s : State) : Keeps s (execTallyCmdWrite s) := by
  unfold execTallyCmdWrite
  dsimp only
  split <;> simp

@[simp] theorem reoffer_sameCount (s : State) (w : Waiter) : SameCount s (reoffer s w) := by simp [reoffer]

@[simp] theorem execWaiterReoffer_keeps (die : BitVec 3) (s : State) : Keeps s (execWaiterReoffer die s) := by
  simp [execWaiterReoffer]

/-! ### Reads of the control window (R5) -/

@[simp] theorem readWindow_sameCount (off : Nat) (s : State) : SameCount s (readWindow off s).1 := by simp [readWindow]

/-! ### The service port (R614) -/

@[simp] theorem serveFrame_keeps (op : Nat) (tag : BitVec 32) (act : State → State × Nat × List Byte) (s : State)
    (hact : ∀ s, SameCount s (act s).1) : Keeps s (serveFrame op tag act s) := by
  unfold serveFrame
  split
  · simp
  · simp [hact]

@[simp] theorem execServiceIdent_keeps (tag : BitVec 32) (s : State) : Keeps s (execServiceIdent tag s) := by
  simp [execServiceIdent]

@[simp] theorem execServiceRead_keeps (tag off : BitVec 32) (s : State) : Keeps s (execServiceRead tag off s) := by
  simp [execServiceRead]

@[simp] theorem execServiceLedger_keeps (tag seq : BitVec 32) (count : BitVec 8) (s : State) :
    Keeps s (execServiceLedger tag seq count s) := by simp [execServiceLedger]

@[simp] theorem execServiceAttention_keeps (tag : BitVec 32) (s : State) : Keeps s (execServiceAttention tag s) := by
  simp [execServiceAttention]

@[simp] theorem execServiceCancel_keeps (tag : BitVec 32) (s : State) : Keeps s (execServiceCancel tag s) := by
  simp [execServiceCancel]

@[simp] theorem setLocate_sameCount (v : Nat) (s : State) : SameCount s (setLocate v s) := by simp [setLocate]

@[simp] theorem execServiceLocate_keeps (tag : BitVec 32) (value : BitVec 8) (s : State) :
    Keeps s (execServiceLocate tag value s) := by simp [execServiceLocate]

end Sys2Proof.Machine
end

section
/-! The mailbox, PLDM, register writes and diagnostics leave the bell count (R307). -/

namespace Sys2Proof.Machine

/-! ### The mailbox (R624 to R628) -/

@[simp] theorem mailAnswer_sameCount (m : MailRef) (op status : Nat) (payload : List Byte) (s : State) :
    SameCount s (mailAnswer m op status payload s) := by simp [mailAnswer]

@[simp] theorem mail_keeps (m : MailRef) (op : Nat) (acc : Access) (act : State → State × Nat × List Byte) (s : State)
    (hact : ∀ s, SameCount s (act s).1) : Keeps s (mail m op acc act s) := by
  unfold mail
  split
  · simp
  · split
    · simp
    · split
      · simp
      · split
        · simp
        · simp [hact]

@[simp] theorem done_sameCount (s : State) : SameCount s (done s).1 := by simp [done]
@[simp] theorem fails_sameCount (status : Nat) (s : State) : SameCount s (fails status s).1 := by simp [fails]
@[simp] theorem execMailboxIdent_keeps (m : MailRef) (s : State) : Keeps s (execMailboxIdent m s) := by simp [execMailboxIdent]

@[simp] theorem execRegRead_keeps (m : MailRef) (off : BitVec 32) (s : State) : Keeps s (execRegRead m off s) := by
  simp [execRegRead]

@[simp] theorem execLedgerRead_keeps (m : MailRef) (seq : BitVec 32) (count : BitVec 8) (s : State) :
    Keeps s (execLedgerRead m seq count s) := by simp [execLedgerRead]

@[simp] theorem execMirrorRead_keeps (m : MailRef) (seq : BitVec 32) (count : BitVec 8) (s : State) :
    Keeps s (execMirrorRead m seq count s) := by simp [execMirrorRead]

@[simp] theorem execCaptureRead_keeps (m : MailRef) (slot : BitVec 8) (off : BitVec 64) (s : State) :
    Keeps s (execCaptureRead m slot off s) := by simp [execCaptureRead]

@[simp] theorem execCapturePin_keeps (m : MailRef) (slot pin : BitVec 8) (s : State) : Keeps s (execCapturePin m slot pin s) := by
  simp [execCapturePin]

@[simp] theorem execCaptureNow_keeps (m : MailRef) (s : State) : Keeps s (execCaptureNow m s) := by simp [execCaptureNow]
@[simp] theorem mailRung_sameCount (r t : Nat) (s : State) : SameCount s (mailRung r t s).1 := by simp [mailRung]

@[simp] theorem execMailboxRung_keeps (m : MailRef) (value : BitVec 64) (s : State) : Keeps s (execMailboxRung m value s) := by
  simp [execMailboxRung]

@[simp] theorem execHostReset_keeps (m : MailRef) (s : State) : Keeps s (execHostReset m s) := by simp [execHostReset]
@[simp] theorem execDdrReset_keeps (m : MailRef) (s : State) : Keeps s (execDdrReset m s) := by simp [execDdrReset]
@[simp] theorem execPowerOn_keeps (m : MailRef) (s : State) : Keeps s (execPowerOn m s) := by simp [execPowerOn]
@[simp] theorem execPowerCycle_keeps (m : MailRef) (s : State) : Keeps s (execPowerCycle m s) := by simp [execPowerCycle]

@[simp] theorem execRetire_keeps (m : MailRef) (core : BitVec 8) (s : State) : Keeps s (execRetire m core s) := by
  simp [execRetire]

@[simp] theorem mailService_sameCount (v : Nat) (s : State) : SameCount s (mailService v s).1 := by simp [mailService]

@[simp] theorem execService_keeps (m : MailRef) (state : BitVec 8) (s : State) : Keeps s (execService m state s) := by
  simp [execService]

@[simp] theorem execConfigRead_keeps (m : MailRef) (s : State) : Keeps s (execConfigRead m s) := by simp [execConfigRead]

@[simp] theorem configReg_sameCount (s : State) (x : Nat × Nat) : SameCount s (configReg s x) := by
  unfold configReg
  split <;> simp

@[simp] theorem writeConfig_sameCount (r : ConfigRec) (s : State) : SameCount s (writeConfig r s) := by simp [writeConfig]

@[simp] theorem execConfigWrite_keeps (m : MailRef) (r : ConfigRec) (s : State) : Keeps s (execConfigWrite m r s) := by
  simp [execConfigWrite]

@[simp] theorem putSetKey_sameCount (k : Nat) (x : SetKey) (s : State) : SameCount s (putSetKey k x s) := by simp [putSetKey]

@[simp] theorem putDataKey_sameCount (k : Nat) (x : Option Nat) (s : State) : SameCount s (putDataKey k x s) := by
  simp [putDataKey]

@[simp] theorem execSetkeyEnrol_keeps (m : MailRef) (slot : BitVec 8) (key : BitVec 768) (s : State) :
    Keeps s (execSetkeyEnrol m slot key s) := by simp [execSetkeyEnrol]

@[simp] theorem execSetkeyRevoke_keeps (m : MailRef) (slot : BitVec 8) (s : State) : Keeps s (execSetkeyRevoke m slot s) := by
  simp [execSetkeyRevoke]

@[simp] theorem execDatakeySet_keeps (m : MailRef) (slot : BitVec 8) (key : BitVec 512) (s : State) :
    Keeps s (execDatakeySet m slot key s) := by simp [execDatakeySet]

@[simp] theorem execDatakeyErase_keeps (m : MailRef) (slot : BitVec 8) (s : State) : Keeps s (execDatakeyErase m slot s) := by
  simp [execDatakeyErase]

@[simp] theorem execCertSet_keeps (m : MailRef) (slot : BitVec 8) (chain : List (BitVec 8)) (s : State) :
    Keeps s (execCertSet m slot chain s) := by simp [execCertSet]

@[simp] theorem execAnchorSet_keeps (m : MailRef) (slot : BitVec 8) (anchor : List (BitVec 8)) (s : State) :
    Keeps s (execAnchorSet m slot anchor s) := by simp [execAnchorSet]

@[simp] theorem commitSvn_sameCount (c : Component) (s : State) : SameCount s (commitSvn c s) := by simp [commitSvn]

@[simp] theorem execSvnCommit_keeps (m : MailRef) (component : BitVec 16) (s : State) : Keeps s (execSvnCommit m component s) := by
  simp [execSvnCommit]

/-! ### PLDM (R618 to R620) -/

@[simp] theorem execSetEventReceiver_keeps (eid : BitVec 8) (b : Binding) (s : State) :
    Keeps s (execSetEventReceiver eid b s) := by
  unfold execSetEventReceiver
  split <;> simp

@[simp] theorem execEventAcknowledge_keeps (id : BitVec 16) (s : State) : Keeps s (execEventAcknowledge id s) := by
  simp [execEventAcknowledge]

@[simp] theorem execGetSensorReading_keeps (eid : BitVec 8) (id : BitVec 16) (s : State) :
    Keeps s (execGetSensorReading eid id s) := by
  unfold execGetSensorReading
  (repeat' split) <;> simp

theorem effect_sameCount {id v : Nat} {s t : State} (e : effect id v s = some t) : SameCount s t := by
  unfold effect at e
  split at e
  · split at e
    · rw [← Option.some.inj e]
      exact configReg_sameCount ..
    · exact nomatch e
  · split at e
    · rw [← Option.some.inj e]
      exact setLocate_sameCount ..
    · exact nomatch e
  · split at e
    · cases e; simp
    · split at e <;> cases e
      simp

@[simp] theorem execSetEffecter_keeps (m : MailRef) (id value : BitVec 16) (s : State) :
    Keeps s (execSetEffecter m id value s) := by
  unfold execSetEffecter
  dsimp only
  split
  · simp
  · split
    · simp
    · split
      · simp
      · split
        next e =>
          have h : SameCount s _ := effect_sameCount e
          simp [h]
        · simp

@[simp] theorem execSetEndpointId_keeps (b : Binding) (eid : BitVec 8) (s : State) : Keeps s (execSetEndpointId b eid s) := by
  unfold execSetEndpointId
  dsimp only
  (repeat' split) <;> simp

@[simp] theorem execDynamicAddressAssignment_keeps (addr : BitVec 7) (s : State) :
    Keeps s (execDynamicAddressAssignment addr s) := by
  unfold execDynamicAddressAssignment
  split <;> simp

/-! ### Writes to the control window (R5, R631 to R636) -/

@[simp] theorem after_sameCount {a : Ans} {s : State} (h : Keeps s a) : SameCount s (after a s) := by
  unfold after
  split
  · exact h _ rfl
  · simp

@[simp] theorem onlyIf_sameCount (b : Bool) (f : State → State) (s : State) (hf : ∀ s, SameCount s (f s)) :
    SameCount s (onlyIf b f s) := by simp [onlyIf, hf]

@[simp] theorem queueAction_sameCount (act q : Nat) (s : State) : SameCount s (queueAction act q s) := by
  unfold queueAction
  split <;> simp

@[simp] theorem queueCommand_sameCount (act q : Nat) (s : State) : SameCount s (queueCommand act q s) := by simp [queueCommand]

@[simp] theorem tallyAction_sameCount (act : Nat) (s : State) : SameCount s (tallyAction act s) := by
  unfold tallyAction
  (repeat' split) <;> simp

@[simp] theorem coreCtl_sameCount (w : Agent) (off n v : Nat) (s : State) : SameCount s (coreCtl w off n v s) := by
  simp [coreCtl]

@[simp] theorem engCtl_sameCount (w : Agent) (off n e v : Nat) (s : State) : SameCount s (engCtl w off n e v s) := by
  simp [engCtl]

@[simp] theorem fabPortCtl_sameCount (w : Agent) (off p v : Nat) (s : State) : SameCount s (fabPortCtl w off p v s) := by
  simp [fabPortCtl]

@[simp] theorem guestCtl_sameCount (w : Agent) (off g v : Nat) (s : State) : SameCount s (guestCtl w off g v s) := by
  simp [guestCtl]

@[simp] theorem svcCtl_sameCount (w : Agent) (off v : Nat) (s : State) : SameCount s (svcCtl w off v s) := by simp [svcCtl]

@[simp] theorem writeRow_sameCount (w : Agent) (r : RegRow) (ix : List Nat) (off v : Nat) (s : State) :
    SameCount s (writeRow w r ix off v s) := by
  unfold writeRow
  split <;> simp

@[simp] theorem badTally_sameCount (off : Nat) (s : State) : SameCount s (badTally off s) := by simp [badTally]
@[simp] theorem badWidth_sameCount (s : State) : SameCount s (badWidth s) := by simp [badWidth]

@[simp] theorem registerWrite_sameCount (w : Agent) (off n v : Nat) (s : State) : SameCount s (registerWrite w off n v s) := by
  unfold registerWrite
  (repeat' split) <;> simp

@[simp] theorem execRegisterWrite_keeps (w : Agent) (off : BitVec 32) (bytes : BitVec 4) (value : BitVec 64) (s : State) :
    Keeps s (execRegisterWrite w off bytes value s) := by simp [execRegisterWrite]

/-! ### Diagnostic commands (R301, R302) -/

@[simp] theorem testEngine_sameCount (c : CmdRef) (n : Nat) (s : State) (e : Nat) : SameCount s (testEngine c n s e) := by
  simp [testEngine]

@[simp] theorem patrolBody_sameCount (c : CmdRef) (cores : BitVec 256) (x : Cmd) (s : State) :
    SameCount s (patrolBody c cores x s) := by simp [patrolBody]

@[simp] theorem execSelftestPatrol_keeps (c : CmdRef) (cores : BitVec 256) (s : State) :
    Keeps s (execSelftestPatrol c cores s) := by simp [execSelftestPatrol]

@[simp] theorem loopbackBody_sameCount (c : CmdRef) (cores : BitVec 256) (x : Cmd) (s : State) :
    SameCount s (loopbackBody c cores x s) := by simp [loopbackBody]

@[simp] theorem execSelftestLoopback_keeps (c : CmdRef) (cores : BitVec 256) (s : State) :
    Keeps s (execSelftestLoopback c cores s) := by simp [execSelftestLoopback]

@[simp] theorem Work.dumpUnit_sameCount (w : Work) (dst : Bref) (g : Seg) (src : List Byte) (i : Nat) :
    SameCount w.s (w.dumpUnit dst g src i).s := by simp [Work.dumpUnit]

@[simp] theorem dumpWork_sameCount (c : CmdRef) (dst : Bref) (maxBytes : BitVec 32) (src : List Byte) (e : Cmd) (s : State) :
    SameCount s (dumpWork c dst maxBytes src e s).s := by simp [dumpWork]

@[simp] theorem dumpBody_sameCount (c : CmdRef) (dst : Bref) (maxBytes : BitVec 32) (src : List Byte) (e : Cmd) (s : State) :
    SameCount s (dumpBody c dst maxBytes src e s) := by simp [dumpBody]

@[simp] theorem execDumpCoreRegs_keeps (c : CmdRef) (core : BitVec 8) (dst : Bref) (maxBytes : BitVec 32) (s : State) :
    Keeps s (execDumpCoreRegs c core dst maxBytes s) := by simp [execDumpCoreRegs]

@[simp] theorem execDumpSpill_keeps (c : CmdRef) (dst : Bref) (maxBytes : BitVec 32) (s : State) :
    Keeps s (execDumpSpill c dst maxBytes s) := by simp [execDumpSpill]

@[simp] theorem execDumpLedger_keeps (c : CmdRef) (dst : Bref) (maxBytes : BitVec 32) (s : State) :
    Keeps s (execDumpLedger c dst maxBytes s) := by simp [execDumpLedger]

end Sys2Proof.Machine
end

section
/-! The fabric's messages and the accesses held for a fence leave the bell count (R307). -/

namespace Sys2Proof.Machine

/-! ### The messages as their destination acts on them (R472 to R486) -/

@[simp] theorem forward_sameCount (kind : Nat) (h : MsgHdr) (args : List Nat) (bs : List Byte) (s : State) :
    SameCount s (forward kind h args bs s) := by simp [forward]

@[simp] theorem sendAck_sameCount (src cls seq : Nat) (f : Fail) (s : State) : SameCount s (sendAck src cls seq f s) := by
  simp [sendAck]

@[simp] theorem receiveThen_sameCount (after : State → State) (kind : Nat) (h : MsgHdr) (args : List Nat) (bs : List Byte)
    (apply : State → State × Fail) (s : State) (hafter : ∀ s, SameCount s (after s)) (happly : ∀ s, SameCount s (apply s).1) :
    SameCount s (receiveThen after kind h args bs apply s) := by simp [receiveThen, hafter, happly]

@[simp] theorem receive_sameCount (kind : Nat) (h : MsgHdr) (args : List Nat) (bs : List Byte) (apply : State → State × Fail)
    (s : State) (happly : ∀ s, SameCount s (apply s).1) : SameCount s (receive kind h args bs apply s) := by
  simp [receive, happly]

@[simp] theorem receiveEpoch_sameCount (h : MsgHdr) (args : List Nat) (apply : State → State) (s : State)
    (happly : ∀ s, SameCount s (apply s)) : SameCount s (receiveEpoch h args apply s) := by simp [receiveEpoch, happly]

@[simp] theorem execPrepare_keeps (h : MsgHdr) (handle : BitVec 16) (slot : BitVec 8) (epoch : BitVec 32) (bell : BitVec 64)
    (period : BitVec 8) (s : State) : Keeps s (execPrepare h handle slot epoch bell period s) := by simp [execPrepare]

@[simp] theorem execVote_keeps (h : MsgHdr) (handle : BitVec 16) (kind : VoteKind) (s : State) :
    Keeps s (execVote h handle kind s) := by simp [execVote]

@[simp] theorem execDecide_keeps (h : MsgHdr) (d : Decision) (s : State) : Keeps s (execDecide h d s) := by simp [execDecide]

@[simp] theorem execAbort_keeps (m : AbortMsg) (s : State) : Keeps s (execAbort m s) := by
  unfold execAbort
  split <;> simp

@[simp] theorem remoteWrite_sameCount (sender : Nat) (r : RemoteRef) (bs : List Byte) (tile : Bool) (s : State) :
    SameCount s (remoteWrite sender r bs tile s).1 := by
  unfold remoteWrite
  (repeat' split) <;> simp

@[simp] theorem execFabWrite_keeps (h : MsgHdr) (r : RemoteRef) (bytes : List (BitVec 8)) (tile : Bool) (s : State) :
    Keeps s (execFabWrite h r bytes tile s) := by
  unfold execFabWrite
  split <;> simp

@[simp] theorem remoteRead_sameCount (h : MsgHdr) (r : RemoteRef) (n : Nat) (s : State) : SameCount s (remoteRead h r n s).1 := by
  unfold remoteRead
  split <;> simp

@[simp] theorem execReadReq_keeps (h : MsgHdr) (r : RemoteRef) (len : BitVec 16) (s : State) :
    Keeps s (execReadReq h r len s) := by
  unfold execReadReq
  split <;> simp

@[simp] theorem execReadResp_keeps (h : MsgHdr) (bytes : List (BitVec 8)) (poison : Bool) (s : State) :
    Keeps s (execReadResp h bytes poison s) := by
  unfold execReadResp
  (repeat' split) <;> simp

@[simp] theorem acked_sameCount (r : OutReq) (s : State) : SameCount s (acked r s) := by
  unfold acked
  (repeat' split) <;> simp

@[simp] theorem execAck_keeps (h : MsgHdr) (status detail : BitVec 16) (s : State) : Keeps s (execAck h status detail s) := by
  unfold execAck
  (repeat' split) <;> simp

@[simp] theorem remoteTally_sameCount (src : Nat) (op : TallyOpKind) (t : TallyRef) (n scope : Nat) (s : State) :
    SameCount s (remoteTally src op t n scope s).1 := by
  unfold remoteTally
  split <;> simp

@[simp] theorem execTallyOp_keeps (h : MsgHdr) (op : TallyOpKind) (t : TallyRef) (n : BitVec 64) (scope : BitVec 3) (s : State) :
    Keeps s (execTallyOp h op t n scope s) := by simp [execTallyOp]

@[simp] theorem dropSlot_sameCount (root coll tile : Nat) (s : State) : SameCount s (dropSlot root coll tile s) := by
  simp [dropSlot]

@[simp] theorem putSlot_sameCount (x : CollSlot) (s : State) : SameCount s (putSlot x s) := by simp [putSlot]

@[simp] theorem collDone_sameCount (d : CollDesc) (f : Option Fail) (trunc : Bool) (s : State) :
    SameCount s (collDone d f trunc s) := by
  unfold collDone
  split <;> simp

@[simp] theorem collWrite_sameCount (d : CollDesc) (x : CollSlot) (s : State) : SameCount s (collWrite d x s) := by
  simp [collWrite]

@[simp] theorem slotFull_sameCount (d : CollDesc) (x : CollSlot) (s : State) : SameCount s (slotFull d x s) := by simp [slotFull]

theorem collCombine_sameCount {d : CollDesc} {h : MsgHdr} {m : CollMsg} {s t : State} (e : collCombine d h m s = some t) :
    SameCount s t := by
  unfold collCombine at e
  extract_lets die put at e
  have hput (x : CollSlot) : SameCount s (put x) := by simp [put]
  clear_value put
  split at e
  · split at e
    · cases e; exact hput _
    · split at e <;> cases e
      simp
  · split at e <;> cases e
    exact hput _

@[simp] theorem execCollAdd_keeps (h : MsgHdr) (m : CollMsg) (s : State) : Keeps s (execCollAdd h m s) := by
  have combined (d : CollDesc) (s t : State) (ht : SameCount s t) : SameCount s ((collCombine d h m s).getD t) := by
    rcases e : collCombine d h m s with _ | u
    · exact ht
    · exact collCombine_sameCount e
  unfold execCollAdd
  dsimp only
  split
  · simp
  · split
    · split
      · simp
      · simp [combined]
    · split
      · simp
      · simp [combined]

@[simp] theorem maxDown_sameCount (d : CollDesc) (x : MaxSlot) (s : State) : SameCount s (maxDown d x s) := by
  unfold maxDown
  dsimp only
  (repeat' split) <;> simp

@[simp] theorem collMaxAt_sameCount (d : CollDesc) (h : MsgHdr) (m : CollMaxMsg) (s : State) :
    SameCount s (collMaxAt d h m s) := by simp [collMaxAt]

@[simp] theorem execCollMax_keeps (h : MsgHdr) (m : CollMaxMsg) (s : State) : Keeps s (execCollMax h m s) := by
  unfold execCollMax
  split <;> simp

@[simp] theorem noTarget_sameCount (w : Agent) (store : Bool) (s : State) : SameCount s (noTarget w store s) := by
  unfold noTarget
  split <;> simp

@[simp] theorem execRemotePortAccess_keeps (w : Agent) (addr : BitVec 48) (write : Option (List (BitVec 8))) (len : BitVec 7)
    (s : State) : Keeps s (execRemotePortAccess w addr write len s) := by
  unfold execRemotePortAccess
  dsimp only
  (repeat' split) <;> simp

/-! ### Held accesses (R197, R198, R571, R573) -/

@[simp] theorem orSame_sameCount {a : Ans} {s : State} (h : Keeps s a) : SameCount s (orSame s a) := by
  unfold orSame
  split
  · exact h _ rfl
  · simp

@[simp] theorem serveHeld_sameCount (a : HeldAccess) (s : State) : SameCount s (serveHeld a s) := by
  cases a <;> simp [serveHeld]

@[simp] theorem serveAllHeld_sameCount (s : State) : SameCount s (serveAllHeld s) := by simp [serveAllHeld]
@[simp] theorem execSpareMapIn_keeps (core : BitVec 8) (s : State) : Keeps s (execSpareMapIn core s) := by simp [execSpareMapIn]

@[simp] theorem execSparePatrol_keeps (die : BitVec 2) (phys : BitVec 7) (failed : BitVec 4) (s : State) :
    Keeps s (execSparePatrol die phys failed s) := by simp [execSparePatrol]

@[simp] theorem execDieFence_keeps (die : BitVec 2) (s : State) : Keeps s (execDieFence die s) := by simp [execDieFence]

@[simp] theorem execDomainFence_keeps (d : DomainRef) (s : State) : Keeps s (execDomainFence d s) := by
  unfold execDomainFence
  split <;> simp

@[simp] theorem lookDie_sameCount (d : Nat) (s : State) : SameCount s (lookDie d s) := by simp [lookDie]
@[simp] theorem lookHost_sameCount (s : State) : SameCount s (lookHost s) := by simp [lookHost]
@[simp] theorem execOwlCheck_keeps (s : State) : Keeps s (execOwlCheck s) := by simp [execOwlCheck]

@[simp] theorem execStileFence_keeps (link : BitVec 6) (s : State) : Keeps s (execStileFence link s) := by
  unfold execStileFence
  extract_lets i s1 lost
  have hlost (s : State) (x : Nat) : SameCount s (lost s x) := by
    unfold lost
    dsimp only
    (repeat' split) <;> simp
  clear_value lost
  split
  · simp
  · simp [s1, hlost]

end Sys2Proof.Machine
end

section
/-! Only the edge, a start and a loss of main power move the bell count, and BELL_COUNT reads it (R307, R312). -/

namespace Sys2Proof.Machine

/-! ### Every other command -/

/-- Every command but an edge, a start and a loss of main power, by the rule of its own. -/
theorem exec_keeps {i : Instr} (s : State) (h : movesTheBell i = false) : Keeps s (exec i s) := by
  cases i
  case bellEdge | coldStart | warmStart | powerOff | safeEntry | mainInputLoss | standbyInputLoss | prsntDeassert
    | cycleReqTimeout | thermalTrip => cases h
  all_goals dsimp only [exec]
  all_goals simp

/-! ### The edge -/

/-- What the count of an edge can be (R307): the next one, or at the lock jump the schedule's, which lies ahead (R312). -/
theorem nextCount_cases (schedule : Nat) (s : State) :
    (nextCount schedule s).bell = s.bell + 1 ∧ (nextCount schedule s).jumped = s.jumped ∨
    (nextCount schedule s).bell = BitVec.ofNat 64 schedule ∧ (nextCount schedule s).jumped = true ∧
      s.jumped = false ∧ getF s BELL_SYNC BELL_SYNC_STATE = 1 ∧ s.bell.toNat < schedule := by
  unfold nextCount
  split
  next => exact .inl ⟨rfl, rfl⟩
  next hfree =>
    rw [not_or, Classical.not_not, Bool.not_eq_true] at hfree
    obtain ⟨hstate, hjumped⟩ := hfree
    split
    next => exact .inl ⟨rfl, rfl⟩
    next hahead => exact .inr ⟨rfl, rfl, hjumped, hstate, Nat.lt_of_not_le hahead⟩

/-- What an edge does after it has counted leaves the count. -/
theorem bellEdge_sameCount_nextCount (schedule : Nat) (s : State) : SameCount (nextCount schedule s) (bellEdge schedule s) := by
  simp [bellEdge]

theorem exec_bellEdge_bell {schedule : BitVec 64} {s t : State} (e : exec (.bellEdge schedule) s = .next t) :
    t.bell = (nextCount schedule.toNat s).bell ∧ t.jumped = (nextCount schedule.toNat s).jumped := by
  have ht : t = bellEdge schedule.toNat s := (Host.Outcome.next.inj e).symm
  rw [ht]
  exact Prod.mk.inj (bellEdge_sameCount_nextCount schedule.toNat s)

/-! ### The register -/

theorem regRow_bellCount {r : RegRow} (h : regRow BELL_COUNT = some r) : r.name = "BELL_COUNT" ∧ r.width = 64 := by
  have hrow : (regRow BELL_COUNT).map (fun r => (r.name, r.width)) = some ("BELL_COUNT", 64) := by decide
  simpa [h] using hrow

theorem readReg_bellCount {r : RegRow} {s : State} (h : regRow BELL_COUNT = some r) (hserved : regServed s r BELL_COUNT = true) :
    readReg s BELL_COUNT = s.bell.toNat := by
  obtain ⟨hname, hwidth⟩ := regRow_bellCount h
  have hview (ix : List Nat) : viewReg s "BELL_COUNT" ix BELL_COUNT = some s.bell.toNat := rfl
  unfold readReg
  simp only [h, hserved, hname, hwidth, hview]
  exact Nat.mod_eq_of_lt s.bell.isLt

end Sys2Proof.Machine

namespace Sys2Proof
open Machine

/-- Settles O58: every other command keeps the count by its own rule; an edge counts in `nextCount` and keeps the count after it;
the view of BELL_COUNT is the count itself. -/
theorem onlyTheEdgeAndPowerMoveTheBell : Obligations.OnlyTheEdgeAndPowerMoveTheBell := by
  refine ⟨fun i s t e h => Prod.mk.inj (exec_keeps s h t e), fun schedule s t e => ?_, fun r s => readReg_bellCount⟩
  obtain ⟨hbell, hjumped⟩ := exec_bellEdge_bell e
  rw [hbell, hjumped]
  rcases nextCount_cases schedule.toNat s with ⟨hnext, hsame⟩ | ⟨hjump, hdone, hfirst, hstate, hahead⟩
  · refine ⟨.inl ⟨hnext, hsame⟩, fun hroom => ?_⟩
    rw [hnext]
    bv_omega
  · rw [BitVec.ofNat_toNat, BitVec.setWidth_eq] at hjump
    refine ⟨.inr ⟨hjump, hfirst, hdone, hstate⟩, fun _ => ?_⟩
    rw [hjump]
    exact hahead

end Sys2Proof
end

section
/-! What the operations of a tally unit change in the tally table (R394, R396): the commands they end leave it alone, and an
ADD, a SUB or a TAKE, with the waiters it serves, moves the COUNT and record of one tally, within its BOUND. -/

namespace Sys2Proof.Machine

/-! ### Reads of the table -/

theorem tallyKey_inj {d x e k : Nat} (hx : x < 65536) (hk : k < 65536) (h : tallyKey e k = tallyKey d x) : (e, k) = (d, x) := by
  unfold tallyKey at h
  rw [Prod.mk.injEq]
  omega

theorem tallyOf_of_tallies {s t : State} (h : t.tallies = s.tallies) (e k : Nat) : tallyOf t e k = tallyOf s e k := by
  rw [tallyOf, tallyOf, h]

theorem tallyOf_setTally {s : State} (w : Assoc.wf (fun _ => Tally.reset) s.tallies = true) (d x : Nat) (v : Tally) (e k : Nat) :
    tallyOf (setTally d x v s) e k = if tallyKey e k = tallyKey d x then v else tallyOf s e k :=
  Assoc.get_put w _

theorem tallyOf_setTally_same {s : State} (w : Assoc.wf (fun _ => Tally.reset) s.tallies = true) (d x : Nat) (v : Tally) :
    tallyOf (setTally d x v s) d x = v := by
  rw [tallyOf_setTally w, if_pos rfl]

theorem tallyOf_setTally_other {s : State} (w : Assoc.wf (fun _ => Tally.reset) s.tallies = true) {d x e k : Nat} (v : Tally)
    (hx : x < 65536) (hk : k < 65536) (hne : (e, k) ≠ (d, x)) : tallyOf (setTally d x v s) e k = tallyOf s e k := by
  rw [tallyOf_setTally w, if_neg fun h => hne (tallyKey_inj hx hk h)]

/-! ### What leaves the table alone -/

@[simp] theorem finishCode_tallies (c : CmdRef) (code detail : Nat) (s : State) :
    (finishCode c code detail s).tallies = s.tallies :=
  (congrArg State.tallies (finishCode_frame c code detail s) :)

@[simp] theorem finish_tallies (c : CmdRef) (st : Status) (detail : Nat) (s : State) :
    (finish c st detail s).tallies = s.tallies := finishCode_tallies ..

@[simp] theorem incOps_tallies (die : Nat) (s : State) : (incOps die s).tallies = s.tallies := rfl

@[simp] theorem acquireDone_tallies (o : CmdRef) (core : Nat) (a : Tally) (s : State) :
    (acquireDone o core a s).tallies = s.tallies := by
  unfold acquireDone
  (repeat' split) <;> simp

theorem foldl_acquireDone_tallies (a : Tally) (ws : List Waiter) (s : State) :
    (ws.foldl (fun s w => acquireDone w.owner w.core a s) s).tallies = s.tallies := by
  induction ws generalizing s with
  | nil => rfl
  | cons w ws ih => rw [List.foldl_cons, ih, acquireDone_tallies]

/-- Completing a WAIT_GE changes no entry (R394). -/
@[simp] theorem serveWaits_tallies (die i : Nat) (s : State) : (serveWaits die i s).tallies = s.tallies :=
  foldl_acquireDone_tallies ..

/-! ### One tally moves, within its bound -/

/-- The table is canonical, and COUNT of the tally is at most its BOUND (R391). -/
structure TallyWithin (d x : Nat) (s : State) : Prop where
  wf : Assoc.wf (fun _ => Tally.reset) s.tallies = true
  count_le : (tallyOf s d x).count.toNat ≤ (tallyOf s d x).bound.toNat

/-- From `s` to `t` the tally keeps its BOUND and stays within it, and every other tally is as it was. -/
structure MovesOnlyTally (d x : Nat) (s t : State) : Prop where
  within : TallyWithin d x t
  bound : (tallyOf t d x).bound = (tallyOf s d x).bound
  others : ∀ e k, k < 65536 → (e, k) ≠ (d, x) → tallyOf t e k = tallyOf s e k

variable {d x : Nat} {s t u : State}

theorem TallyWithin.of_tallies (h : TallyWithin d x s) (e : t.tallies = s.tallies) : TallyWithin d x t :=
  ⟨e ▸ h.wf, by rw [tallyOf_of_tallies e]; exact h.count_le⟩

theorem MovesOnlyTally.of_tallies (h : TallyWithin d x s) (e : t.tallies = s.tallies) : MovesOnlyTally d x s t :=
  ⟨h.of_tallies e, by rw [tallyOf_of_tallies e], fun _ _ _ _ => tallyOf_of_tallies e ..⟩

theorem MovesOnlyTally.trans (h : MovesOnlyTally d x s t) (k : MovesOnlyTally d x t u) : MovesOnlyTally d x s u :=
  ⟨k.within, k.bound.trans h.bound, fun e i hi hne => (k.others e i hi hne).trans (h.others e i hi hne)⟩

/-- A new entry with the old BOUND, and COUNT within it. -/
theorem MovesOnlyTally.setTally (h : TallyWithin d x s) (hx : x < 65536) {v : Tally} (hb : v.bound = (tallyOf s d x).bound)
    (hc : v.count.toNat ≤ v.bound.toNat) : MovesOnlyTally d x s (setTally d x v s) where
  within := ⟨Assoc.wf_put h.wf, by rwa [tallyOf_setTally_same h.wf]⟩
  bound := by rw [tallyOf_setTally_same h.wf, hb]
  others _ _ hk hne := tallyOf_setTally_other h.wf v hx hk hne

/-- COUNT less what it covers stays within the bound. -/
theorem count_sub_le {c b : BitVec 64} {n : Nat} (hn : n ≤ c.toNat) (hc : c.toNat ≤ b.toNat) :
    (c - BitVec.ofNat 64 n).toNat ≤ b.toNat := by bv_omega

/-- An ADD that the bound admits does not wrap (R394). -/
theorem count_add_le {c b : BitVec 64} {n : Nat} (h : c.toNat + n ≤ b.toNat) : (c + BitVec.ofNat 64 n).toNat ≤ b.toNat := by bv_omega

/-! ### The waiters that a change serves (R396) -/

theorem takeEffect_movesOnlyTally (h : TallyWithin d x s) (hx : x < 65536) {n : Nat} (hn : n ≤ (tallyOf s d x).count.toNat)
    (core : Nat) (o : CmdRef) : MovesOnlyTally d x s (takeEffect d x n core o s) := by
  have hrecord := MovesOnlyTally.of_tallies h (acquireDone_tallies o core (tallyOf s d x) s)
  unfold takeEffect
  dsimp only
  split
  next => exact hrecord
  next => exact hrecord.trans (.setTally hrecord.within hx hrecord.bound.symm (count_sub_le hn h.count_le))

theorem serveTakes_movesOnlyTally (hx : x < 65536) (ws : List Waiter) (h : TallyWithin d x s) :
    MovesOnlyTally d x s (serveTakes d x ws s) := by
  induction ws generalizing s with
  | nil => exact .of_tallies h rfl
  | cons w ws ih =>
    unfold serveTakes
    split
    next hn =>
      have hleft : MovesOnlyTally d x s { s with waiters := s.waiters.filter (· != w) } := .of_tallies h rfl
      have hserved := hleft.trans (takeEffect_movesOnlyTally hleft.within hx hn w.core w.owner)
      exact hserved.trans (ih hserved.within)
    next => exact .of_tallies h rfl

theorem serve_movesOnlyTally (h : TallyWithin d x s) (hx : x < 65536) : MovesOnlyTally d x s (serve d x s) :=
  have hwaits := MovesOnlyTally.of_tallies h (serveWaits_tallies d x s)
  hwaits.trans (serveTakes_movesOnlyTally hx _ hwaits.within)

/-- A change of the entry, within its bound, and the waiters it serves. -/
theorem serve_setTally_movesOnlyTally (h : TallyWithin d x s) (hx : x < 65536) {v : Tally}
    (hb : v.bound = (tallyOf s d x).bound) (hc : v.count.toNat ≤ v.bound.toNat) :
    MovesOnlyTally d x s (serve d x (setTally d x v s)) :=
  have hset := MovesOnlyTally.setTally h hx hb hc
  hset.trans (serve_movesOnlyTally hset.within hx)

end Sys2Proof.Machine
end

section
/-! ADD, SUB and TAKE with their checks (R394, R402): what a check that fails answers and leaves, and what one that passes moves. -/

namespace Sys2Proof.Machine

/-! ### The checks of ADD -/

theorem bitAt_fTally (up : Bool) (die i : Nat) (pair : Bool) : bitAt (fTally up die i pair).2 12 = pair := by
  cases pair <;> simp [fTally, bitAt, bnat] <;> omega

theorem addFault_overBound {a : Tally} {n : Nat} (h : a.bound.toNat < a.count.toNat + n) (die i v : Nat) :
    addFault die i n v a = some (fTally true die i false) := if_pos h

theorem addFault_pairP {a : Tally} {n v : Nat} (hb : a.count.toNat + n ≤ a.bound.toNat) (hm : taMode a.attr.toNat = 1)
    (hp : taPairN a.attr.toNat + v < a.count.toNat + n) (die i : Nat) :
    addFault die i n v a = some (fTally true die i true) := by
  unfold addFault
  dsimp only
  rw [if_neg (Nat.not_lt.mpr hb), if_pos ⟨hm, hp⟩]

theorem addFault_pairC {a : Tally} {n v : Nat} (hb : a.count.toNat + n ≤ a.bound.toNat) (hm : taMode a.attr.toNat = 2)
    (hp : v < a.count.toNat + n) (die i : Nat) : addFault die i n v a = some (fTally false die i true) := by
  unfold addFault
  dsimp only
  rw [if_neg (Nat.not_lt.mpr hb), if_neg (by simp [hm]), if_pos ⟨hm, hp⟩]

theorem addFault_eq_none_iff {a : Tally} {die i n v : Nat} :
    addFault die i n v a = none ↔ a.count.toNat + n ≤ a.bound.toNat ∧
      (taMode a.attr.toNat = 1 → a.count.toNat + n ≤ taPairN a.attr.toNat + v) ∧
      (taMode a.attr.toNat = 2 → a.count.toNat + n ≤ v) := by
  unfold addFault
  dsimp only
  split
  next hover => simp [hover]
  next hb =>
    split
    next hP => simp [hP]
    next hP =>
      split
      next hC => simp [hC]
      next hC =>
        rw [not_and, Nat.not_lt] at hP hC
        exact iff_of_true rfl ⟨Nat.le_of_not_lt hb, hP, hC⟩

variable {d x n : Nat} {s : State}

/-! ### What an operation answers -/

theorem applyAdd_of_fault {v : Nat} {f : Fail} (h : addFault d x n v (tallyOf s d x) = some f) (l inst : Nat) :
    applyAdd d x n v l inst s = (incFaults d (incOps d s), some f) := by
  unfold applyAdd
  dsimp only
  rw [h]

theorem applyAdd_of_passes {v : Nat} (h : addFault d x n v (tallyOf s d x) = none) (l inst : Nat) :
    applyAdd d x n v l inst s = (serve d x (setTally d x { tallyOf s d x with
      count := (tallyOf s d x).count + BitVec.ofNat 64 n
      scope := releaseScope (tallyOf s d x).scope l inst } (incOps d s)), none) := by
  unfold applyAdd
  dsimp only
  rw [h]

/-- An ADD that a check refuses answers its status and PAIR, and every entry is as it was (R394, R402). -/
theorem applyAdd_refused {v : Nat} {up pair : Bool} (h : addFault d x n v (tallyOf s d x) = some (fTally up d x pair)) (l inst : Nat) :
    (∃ w, (applyAdd d x n v l inst s).2 = some ((if up then Status.tallyOverflow else Status.tallyUnderflow).code, w) ∧
      bitAt w 12 = pair) ∧ (applyAdd d x n v l inst s).1.tallies = s.tallies := by
  rw [applyAdd_of_fault h]
  exact ⟨⟨_, rfl, bitAt_fTally up d x pair⟩, rfl⟩

/-! ### What an operation moves -/

theorem applyAdd_movesOnlyTally (h : TallyWithin d x s) (hx : x < 65536) (v l inst : Nat) :
    MovesOnlyTally d x s (applyAdd d x n v l inst s).1 := by
  cases hf : addFault d x n v (tallyOf s d x) with
  | some f => rw [applyAdd_of_fault hf]; exact .of_tallies h rfl
  | none =>
    have hcounted := MovesOnlyTally.of_tallies h (incOps_tallies d s)
    rw [applyAdd_of_passes hf]
    exact hcounted.trans (serve_setTally_movesOnlyTally hcounted.within hx rfl (count_add_le (addFault_eq_none_iff.mp hf).1))

theorem applySub_movesOnlyTally (h : TallyWithin d x s) (hx : x < 65536) (l inst : Nat) :
    MovesOnlyTally d x s (applySub d x n l inst s).1 := by
  have hcounted := MovesOnlyTally.of_tallies h (incOps_tallies d s)
  unfold applySub
  dsimp only
  split
  next => exact .of_tallies h rfl
  next =>
    split
    next => exact .of_tallies h rfl
    next hn =>
      exact hcounted.trans
        (serve_setTally_movesOnlyTally hcounted.within hx rfl (count_sub_le (Nat.le_of_not_lt hn) h.count_le))

theorem applyTake_movesOnlyTally (h : TallyWithin d x s) (hx : x < 65536) (core : Nat) (o : CmdRef) :
    MovesOnlyTally d x s (applyTake d x n core o s).1 := by
  have hcounted := MovesOnlyTally.of_tallies h (incOps_tallies d s)
  unfold applyTake
  dsimp only
  split
  next => exact .of_tallies h rfl
  next =>
    split
    next => exact .of_tallies h rfl
    next =>
      split
      next hcovered =>
        have htaken := hcounted.trans (takeEffect_movesOnlyTally hcounted.within hx hcovered.1 core o)
        dsimp only
        split
        next => exact htaken
        next => exact htaken.trans (serve_movesOnlyTally htaken.within hx)
      next => exact .of_tallies h rfl

end Sys2Proof.Machine

namespace Sys2Proof
open Machine

/-- Settles O57: `addFault` tests the bound first, so each refusal has its own fault; an operation that passes moves its own
tally within its bound, and so does each TAKE waiter that the count covers when it is served. -/
theorem tallyOperationsAreChecked : Obligations.TallyOperationsAreChecked := by
  intro d x n v l inst s a sum add fails hx _
  refine ⟨fun hover => applyAdd_refused (addFault_overBound hover d x v) l inst,
    fun hb hm hp => applyAdd_refused (addFault_pairP hb hm hp d x) l inst,
    fun hb hm hp => applyAdd_refused (addFault_pairC hb hm hp d x) l inst,
    fun hb hP hC => congrArg Prod.snd (applyAdd_of_passes (addFault_eq_none_iff.mpr ⟨hb, hP, hC⟩) l inst), ?_⟩
  intro hwf hcount core o r hr
  have hwithin : TallyWithin d x s := ⟨hwf, hcount⟩
  have hmoves : MovesOnlyTally d x s r := by
    rcases hr with rfl | rfl | rfl
    · exact applyAdd_movesOnlyTally hwithin hx v l inst
    · exact applySub_movesOnlyTally hwithin hx l inst
    · exact applyTake_movesOnlyTally hwithin hx core o
  exact ⟨hmoves.within.count_le, hmoves.bound, hmoves.others⟩

end Sys2Proof
end

section
/-! Sums in the accumulator's window (R98, R118, R119), the shape of a step, and the state after reset. -/

namespace Sys2Proof

/-! ### Sums -/

/-- Saturation at the ends of the window (R98), written out. -/
theorem accClamp_eq (i : Int) : accClamp i =
    if 2 ^ 127 - 1 < i then (2 ^ 127 - 1, true) else if i < -(2 ^ 127) + 4 then (-(2 ^ 127) + 4, true) else (i, false) := rfl

theorem accClamp_of_within {i : Int} (h : (i.natAbs : Int) ≤ 2 ^ 127 - 4) : accClamp i = (i, false) := by
  rw [accClamp_eq, if_neg (by omega), if_neg (by omega)]

/-- Adding one more contribution to a sum. -/
theorem addInts_append (start : Int) (is : List Int) (i : Int) :
    addInts start (is ++ [i]) =
      ((accClamp ((addInts start is).1 + i)).1, (addInts start is).2 || (accClamp ((addInts start is).1 + i)).2) := by
  simp [addInts, List.foldl_append]

theorem addInts_cons_of_within {start i : Int} (h : ((start + i).natAbs : Int) ≤ 2 ^ 127 - 4) (is : List Int) :
    addInts start (i :: is) = addInts (start + i) is := by
  simp [addInts, accClamp_of_within h]

/-- Contributions within the window's reach add to their exact sum. -/
theorem addInts_exact (is : List Int) (start : Int)
    (h : (start.natAbs : Int) + ((is.map Int.natAbs).sum : Nat) ≤ 2 ^ 127 - 4) : addInts start is = (start + is.sum, false) := by
  induction is generalizing start with
  | nil => simp [addInts]
  | cons i is ih =>
    simp only [List.map_cons, List.sum_cons] at h ⊢
    rw [addInts_cons_of_within (by omega), ih _ (by omega), add_assoc]

theorem natAbs_add_sum_le (start : Int) (is : List Int) :
    (start + is.sum).natAbs ≤ start.natAbs + (is.map Int.natAbs).sum := by
  induction is generalizing start with
  | nil => simp
  | cons i is ih =>
    have := ih (start + i)
    simp only [List.map_cons, List.sum_cons] at *
    omega

/-- Settles O56: within the window's reach no addition clamps, so the sum is that of the integers, in any order. -/
theorem accumulationIsExactInEveryOrder : Obligations.AccumulationIsExactInEveryOrder := by
  refine ⟨fun start is js h perm => ?_, fun start is i hfit => ?_⟩
  · have hjs : addInts start js = (start + is.sum, false) := by
      rw [perm.sum_eq]
      exact addInts_exact js start (by rwa [← (perm.map Int.natAbs).sum_eq])
    refine ⟨addInts_exact is start h, hjs.trans (addInts_exact is start h).symm, fun t => ?_⟩
    have hstart : (BitVec.ofInt 128 start).toInt = start := by
      rw [BitVec.toInt_ofInt]
      exact Int.bmod_eq_of_le (by omega) (by omega)
    have hsum := natAbs_add_sum_le start is
    simp only [Acc.add, hstart, hjs, BitVec.toInt_ofInt]
    exact Int.bmod_eq_of_le (by omega) (by omega)
  · exact (addInts_append start is i).trans (by rw [hfit, Bool.false_or]; exact accClamp_eq _)

open Machine

/-! ### The shape of a step -/

/-- Settles O1: the two cases of `step`. -/
theorem stepRunsTheFrontCommand : Obligations.StepRunsTheFrontCommand :=
  fun _ => ⟨fun _ _ => rfl, fun hidle => by simp [Machine.step, hidle]⟩

/-- Settles O4: every map of the state after reset is empty. -/
theorem resetIsCanonical : Obligations.ResetIsCanonical :=
  ⟨⟨rfl, rfl, rfl⟩, rfl⟩

end Sys2Proof
end

section
/-! Packet commands that take place: the answer of the body of their meaning, and how that answer is read. -/

namespace Sys2Proof.Machine

/-! ### Taking place -/

/-- A command of which the meaning is `runCmd` answers, where it takes place, what its own effect makes of the marked state. -/
theorem exec_of_takesPlace {i : Instr} {c : CmdRef} {n : Bool} {s : State} {body : Cmd → State → State}
    (hexec : exec i s = .next (runCmd i c n s body)) (h : TakesPlace i c n s) :
    exec i s = .next (body (runEntry i c s) (markStarted i c s)) := by
  rw [hexec, runCmd_takesPlace h]

/-- Marking a command started changes the command table only. -/
theorem markStarted_eq (i : Instr) (c : CmdRef) (s : State) : ∃ l, markStarted i c s = { s with cmds := l } := by
  unfold markStarted putCmd
  split <;> exact ⟨_, rfl⟩

/-- Fixing a result changes the command table and the count of draws only. -/
theorem finishCode_eq (c : CmdRef) (code detail : Nat) (s : State) :
    ∃ l k, finishCode c code detail s = { s with cmds := l, tick := k } := by
  unfold finishCode putCmd advance
  dsimp only
  (repeat' split) <;> exact ⟨_, _, rfl⟩

/-- A command that ends at once changes the command table and the count of draws only. -/
theorem finish_markStarted_eq (i : Instr) (c : CmdRef) (st : Status) (detail : Nat) (s : State) :
    ∃ l k, finish c st detail (markStarted i c s) = { s with cmds := l, tick := k } := by
  obtain ⟨l, hl⟩ := markStarted_eq i c s
  obtain ⟨l', k, hk⟩ := finishCode_eq c st.code detail (markStarted i c s)
  exact ⟨l', k, by rw [finish, hk, hl]⟩

/-! ### Completion -/

/-- Only an entry of the table has a result. -/
theorem cmdOf_result_eq_some {s : State} {c : CmdRef} {r : Nat × Nat × Nat × Nat × Nat} :
    (cmdOf s c).result = some r ↔ ∃ e, s.cmds.find? (isCmd c) = some e ∧ e.result = some r := by
  unfold cmdOf
  split
  next e he => simp [he]
  next he => simp [he]

theorem CompletedWith.of_cmds {s t : State} {c : CmdRef} {code detail : Nat} (h : CompletedWith c code detail s)
    (hcmds : t.cmds = s.cmds) : CompletedWith c code detail t := by
  obtain ⟨m, hm⟩ := h
  exact ⟨m, cmdOf_result_eq_some.mpr (by rw [hcmds]; exact cmdOf_result_eq_some.mp hm)⟩

theorem finish_completedWith {c : CmdRef} {st : Status} {detail : Nat} {s : State} (hfresh : (cmdOf s c).result = none)
    (hd : detail < 65536) : CompletedWith c st.code detail (finish c st detail s) :=
  ⟨_, by rw [finish, finishCode_result c st.code detail s hfresh, Nat.mod_eq_of_lt hd]⟩

/-- A command that takes place and ends at once with ST_OK completes, and changes nothing but its entry. -/
theorem finish_ok_markStarted {i : Instr} {c : CmdRef} {n : Bool} {s : State} {detail : Nat} (h : TakesPlace i c n s)
    (hd : detail < 65536) :
    CompletedWith c 0x0000 detail (finish c .ok detail (markStarted i c s)) ∧
      { finish c .ok detail (markStarted i c s) with cmds := s.cmds, tick := s.tick } = s := by
  obtain ⟨l, k, hk⟩ := finish_markStarted_eq i c .ok detail s
  exact ⟨finish_completedWith (markStarted_result h.fresh) hd, by rw [hk]⟩

/-! ### Commands at work -/

/-- Ending a command's work answers as `Answers` says. -/
theorem answers_of_finish {i : Instr} {s : State} {w : Work} {detail : Nat} (h : exec i s = .next (w.finish detail)) :
    Answers i s w detail := by
  refine ⟨fun hdone => ?_, fun hparked => ?_⟩
  · obtain ⟨hfail, hparked⟩ : w.fail = none ∧ w.parked = none := by simpa [Work.failed] using hdone
    rw [h, Work.finish, hparked, hfail]
    rfl
  · rw [h, Work.finish, if_pos hparked]

/-- A command whose own effect is its work, ended with a detail. -/
theorem answers_of_takesPlace {i : Instr} {c : CmdRef} {n : Bool} {s : State} {work : Cmd → State → Work} {detail : Work → Nat}
    (hexec : exec i s = .next (runCmd i c n s fun e s => (work e s).finish (detail (work e s)))) (h : TakesPlace i c n s) :
    Answers i s (work (runEntry i c s) (markStarted i c s)) (detail (work (runEntry i c s) (markStarted i c s))) :=
  answers_of_finish (exec_of_takesPlace hexec h)

/-- A command that names a set which is ready on its core. -/
theorem answers_of_withSet {i : Instr} {c : CmdRef} {n : Bool} {s : State} {id : Nat} {fs : FSet} {work : FSet → Cmd → State → Work}
    {detail : Work → Nat} (hexec : exec i s = .next (runCmd i c n s (withSet c id fun fs e s => (work fs e s).finish (detail (work fs e s)))))
    (h : TakesPlace i c n s) (hready : setFor (markStarted i c s) (runEntry i c s) id = .ready fs) :
    Answers i s (work fs (runEntry i c s) (markStarted i c s)) (detail (work fs (runEntry i c s) (markStarted i c s))) :=
  answers_of_finish (by rw [exec_of_takesPlace hexec h, withSet, hready])

end Sys2Proof.Machine

namespace Sys2Proof
open Machine

/-- Settles O8: each movement command is its work, ended. -/
theorem movementCommandsComplete : Obligations.MovementCommandsComplete := fun c _ =>
  ⟨fun p => answers_of_takesPlace (work := copyWork c p) (detail := fun _ => 0) rfl,
    fun p => answers_of_takesPlace (work := gatherWork c p) (detail := fun _ => 0) rfl,
    fun p => answers_of_takesPlace (work := scatterWork c p) (detail := fun _ => 0) rfl,
    fun p => answers_of_takesPlace (work := zeroWork c p) (detail := fun _ => 0) rfl,
    fun p => answers_of_takesPlace (work := cellarReadWork c p) (detail := fun _ => 0) rfl,
    fun p => answers_of_takesPlace (work := cellarWriteWork c p) (detail := fun _ => 0) rfl⟩

/-- Settles O11: each matrix or lane command is its work, ended. -/
theorem tensorCommandsComplete : Obligations.TensorCommandsComplete := fun c _ =>
  ⟨fun p => answers_of_takesPlace (work := matmulWork c p none) (detail := fun _ => 0) rfl,
    fun p => answers_of_takesPlace (work := matmulWork c p.base (some p.c)) (detail := fun _ => 0) rfl,
    fun p => answers_of_takesPlace (work := scanWork c p) (detail := fun _ => 0) rfl,
    fun p => answers_of_takesPlace (work := reduceWork c p) (detail := fun _ => 0) rfl,
    fun p => answers_of_takesPlace (work := elemWork c p) (detail := fun w => w.flags.code) rfl⟩

end Sys2Proof
end

section
/-! Function, row, set and tally commands (R286 to R289, R141 to R144, R394 to R396). -/

namespace Sys2Proof.Machine

/-! ### Sets -/

theorem giveSet_stages (c : CmdRef) (part : Nat) (fs : FSet) (s : State) :
    ⟨part, .setLoad fs.setId, c⟩ ∈ (giveSet c part fs s).staged := by
  simp [giveSet]

/-- An image that passes the loader's checks is given to the cores that lack the set (R143). -/
theorem setLoadBody_gives {c : CmdRef} {img : Bref} {n : BitVec 32} {e : Cmd} {s : State} {r : Work × FSet}
    (hr : setLoadWork c img n e s = r) (hdone : r.1.failed = false)
    (hheld : setHeld r.1.s (ctxOf r.1.s r.1.ctx).part r.2 = false) :
    setLoadBody c img n e s = giveSet c (ctxOf r.1.s r.1.ctx).part r.2 r.1.s := by
  unfold setLoadBody
  rw [hr]
  exact if_neg (by simp [hdone, hheld])

/-- Changing cores one after another changes the cores only. -/
theorem foldl_setCore_eq {α : Type} (core : State → α → Nat) (new : State → α → Core) (l : List α) (s : State) :
    ∃ m, l.foldl (fun s a => setCore (core s a) (new s a) s) s = { s with cores := m } := by
  induction l generalizing s with
  | nil => exact ⟨_, rfl⟩
  | cons a l ih => exact ih _

/-- An unload that the loader does not refuse is staged; it changes the cores' sets and what is staged (R144). -/
theorem setUnloadBody_stages {c : CmdRef} {set : BitVec 32} {e : Cmd} {s : State} (hship : isShipped set.toNat = false)
    (hwaits : unloadWaits s (ctxOf s c.ctx.toNat).part set.toNat = false)
    (hhas : (s.partSets.any fun x => x.1 == (ctxOf s c.ctx.toNat).part && x.2.setId == set.toNat) = true) :
    ∃ m, setUnloadBody c set e s = sweep { s with
      cores := m, staged := s.staged ++ [⟨(ctxOf s c.ctx.toNat).part, .setUnload set.toNat, c⟩] } := by
  unfold setUnloadBody
  dsimp only
  rw [if_neg (by simp [hship]), if_neg (by simp [hhas, hwaits])]
  obtain ⟨m, hm⟩ := foldl_setCore_eq (fun _ n => n) (fun s n => { coreOf s n with sets := (coreOf s n).sets.map fun l =>
    if l.set.setId = set.toNat ∧ !l.leaving then { l with unloading := true } else l })
    (targetCores s (ctxOf s c.ctx.toNat).part) s
  exact ⟨m, by rw [hm]⟩

/-! ### Tallies -/

theorem tallyOf_markStarted (i : Instr) (c : CmdRef) (s : State) (d x : Nat) :
    tallyOf (markStarted i c s) d x = tallyOf s d x := by
  obtain ⟨l, hl⟩ := markStarted_eq i c s
  rw [hl]
  rfl

/-- An ADD whose partner value, where it needs one, is `v`. -/
theorem addWithPartner_eq {d x n v l inst : Nat} {s : State}
    (hv : if taPair (tallyOf s d x).attr.toNat then partnerValue s (tallyOf s d x).attr.toNat = .ok v else v = 0) :
    addWithPartner d x n l inst s = applyAdd d x n v l inst s := by
  unfold addWithPartner
  dsimp only
  split at hv
  next hp => rw [if_pos hp, hv]
  next hp => rw [if_neg hp, hv]

/-- An ADD that no check refuses, in a state with the table of `s`. -/
theorem applyAdd_passes {d x n v l inst : Nat} {s : State} (h : addFault d x n v (tallyOf s d x) = none) :
    applyAdd d x n v l inst s = (serve d x (setTally d x { tallyOf s d x with
      count := (tallyOf s d x).count + BitVec.ofNat 64 n, scope := releaseScope (tallyOf s d x).scope l inst } (incOps d s)), none) :=
  applyAdd_of_passes h l inst

theorem applySub_passes {d x n : Nat} {s : State} (hpair : taPair (tallyOf s d x).attr.toNat = false)
    (hn : n ≤ (tallyOf s d x).count.toNat) (l inst : Nat) :
    applySub d x n l inst s = (serve d x (setTally d x { tallyOf s d x with
      count := (tallyOf s d x).count - BitVec.ofNat 64 n, scope := releaseScope (tallyOf s d x).scope l inst } (incOps d s)), none) := by
  unfold applySub
  dsimp only
  rw [if_neg (by simp [hpair]), if_neg (by omega)]

theorem applyWait_passes {d x n core : Nat} {o : CmdRef} {s : State} (hn : n ≤ (tallyOf s d x).bound.toNat) :
    applyWait d x n core o s = (if n ≤ (tallyOf s d x).count.toNat then acquireDone o core (tallyOf s d x) (incOps d s)
      else addWaiter ⟨d, x, false, n, core, o, false⟩ (incOps d s), none) := by
  unfold applyWait
  dsimp only
  rw [if_neg (by omega)]
  split <;> rfl

theorem applyTake_passes {d x n core : Nat} {o : CmdRef} {s : State} (hpair : taPair (tallyOf s d x).attr.toNat = false)
    (hn : n ≤ (tallyOf s d x).bound.toNat) (hcount : n ≤ (tallyOf s d x).count.toNat)
    (hfirst : (s.waiters.any fun w => onTally d x w && w.take) = false) (hscope : strictShort s o core (tallyOf s d x) = false) :
    applyTake d x n core o s = (serve d x (takeEffect d x n core o (incOps d s)), none) := by
  unfold applyTake
  dsimp only
  rw [if_neg (by simp [hpair]), if_neg (by omega), if_pos ⟨hcount, by simp [hfirst]⟩, if_neg (by simp [hscope])]

end Sys2Proof.Machine

namespace Sys2Proof
open Machine

/-- Settles O12: a function or row command is its work, ended, where its set is ready; a load gives its set to the cores that
lack it, and an unload is staged. -/
theorem functionCommandsComplete : Obligations.FunctionCommandsComplete := by
  intro c s
  refine ⟨fun p fs h hset => ?_, fun p fs h hset => ?_, fun p fs h hset => ?_, fun p st fs h hset => ?_,
    fun img n h hdone hheld => ?_, fun set h hship hwaits hhas => ?_⟩
  · exact answers_of_withSet (work := fun fs => funcWork c p fs) (detail := fun w => w.flags.code) rfl h hset
  · exact answers_of_withSet (work := fun fs => rowWork c p .softmax none fs) (detail := fun w => w.rowCode) rfl h hset
  · exact answers_of_withSet (work := fun fs => rowWork c p.row (.norm p.rms p.eps.toNat) (some p.gb) fs)
      (detail := fun w => w.rowCode) rfl h hset
  · by_cases hzero : p.set = 0
    · rw [if_pos hzero] at hset
      subst hset
      exact answers_of_finish (by rw [exec_of_takesPlace (i := .rowstat c p st) rfl h, if_pos hzero]; rfl)
    · rw [if_neg hzero] at hset
      exact answers_of_finish (by rw [exec_of_takesPlace (i := .rowstat c p st) rfl h, if_neg hzero, withSet, hset]; rfl)
  · refine ⟨_, exec_of_takesPlace rfl h, ?_⟩
    rw [setLoadBody_gives rfl hdone hheld]
    exact ⟨rfl, giveSet_stages ..⟩
  · obtain ⟨l, hl⟩ := markStarted_eq (.microprogUnload c set) c s
    obtain ⟨m, hm⟩ := setUnloadBody_stages (c := c) (e := runEntry (.microprogUnload c set) c s) (s := { s with cmds := l })
      hship hwaits hhas
    rw [exec_of_takesPlace rfl h, hl, hm]
    exact ⟨_, _, rfl, rfl, List.mem_append_right _ (List.mem_singleton.mpr rfl), rfl⟩

/-- Settles O13: each tally command that no check refuses is the operation that its checks let pass. -/
theorem tallyCommandsTakeEffect : Obligations.TallyCommandsTakeEffect := by
  intro c t n s d x
  refine ⟨fun scope v h => ?_, fun scope h => ?_, fun h => ?_, fun h => ?_⟩
  · intro e s1 a hfault hv hadd
    have htally : tallyOf s1 d x = a := tallyOf_markStarted ..
    rw [exec_of_takesPlace rfl h, hfault, addWithPartner_eq (htally ▸ hv), applyAdd_passes (htally ▸ hadd), htally]
    rfl
  · intro e s1 a hfault hpair hn
    have htally : tallyOf s1 d x = a := tallyOf_markStarted ..
    rw [exec_of_takesPlace rfl h, hfault, applySub_passes (htally ▸ hpair) (htally ▸ hn), htally]
    rfl
  · intro e s1 a hfault hn
    have htally : tallyOf s1 d x = a := tallyOf_markStarted ..
    rw [exec_of_takesPlace rfl h, hfault, applyWait_passes (htally ▸ hn), htally]
    rfl
  · intro e s1 a hfault hpair hn hcount hfirst hscope
    have htally : tallyOf s1 d x = a := tallyOf_markStarted ..
    rw [exec_of_takesPlace rfl h, hfault,
      applyTake_passes (htally ▸ hpair) (htally ▸ hn) (htally ▸ hcount) hfirst (htally ▸ hscope)]
    rfl

end Sys2Proof
end

section
/-! Three statements that fail: a mark in a queue table that lists a queue twice, a stage of a program that has gone, and the
timeouts of a partition, which show in registers at once. -/

namespace Sys2Proof.Machine

/-- The first command of queue 0, of context 1. -/
def firstCmd : CmdRef := ⟨0, 0, 1⟩

/-- Its entry, fetched in NORMAL, with core 0. -/
def firstEntry : Cmd := ⟨firstCmd, false, false, none, 1, 0, 0, false, none, [], []⟩

/-- An allotment that no command here spends. -/
def ampleBudget : Budget := ⟨1000, 100000, 100000, 0, 100000, [], []⟩

/-- An active context with such allotments. -/
def ampleCtx : Ctx := { Ctx.free with
  state := .active, segTable := 0x1000, engine := ampleBudget, stack := ampleBudget, fabric := ampleBudget, host := ampleBudget }

/-- The state after reset, with that command fetched, its context active, and segment 0 of the context the near segment of
R340's example: 128 MiB at 0x4000_0000. -/
def fetchedState : State := { State.reset with
  cmds := [firstEntry]
  ctxs := [(1, ampleCtx)]
  mem := [(0x1003, 0x40), (0x1008, 0x40), (0x100C, 2), (0x100D, 15), (0x100E, 1)] }

/-- The conditions of `TakesPlace` as a test. -/
def takesPlaceTest (i : Instr) (c : CmdRef) (s : State) : Bool :=
  mayStart s (runEntry i c s) && (cmdOf s c).result.isNone && !inHand s c && (ctxOf s c.ctx.toNat).state != .aborting &&
  (noCore s (runEntry i c s)).isNone && coreTakesWork s (runEntry i c s).core && !s.walks.any (walkFor s (runEntry i c s) i)

theorem takesPlace_of_test {i : Instr} {c : CmdRef} {n : Bool} {s : State} (h : takesPlaceTest i c s = true) :
    TakesPlace i c n s := by
  simp only [takesPlaceTest, Bool.and_eq_true, Option.isNone_iff_eq_none, Bool.not_eq_true', bne_iff_ne] at h
  obtain ⟨⟨⟨⟨⟨⟨hstart, hfresh⟩, hhand⟩, hctx⟩, hcore⟩, hon⟩, hwalk⟩ := h
  exact ⟨hstart, hfresh, hhand, hctx, fun _ => hcore, fun _ => hon, hwalk⟩

end Sys2Proof.Machine

namespace Sys2Proof
open Machine

/-- Refutes O7: the statement asks nothing of the queue table, and where that lists queue 0 twice, restarting its count of
failures takes the first entry out, so that the second shows, with a count of its own. -/
theorem not_queueControlCommandsComplete : ¬ Obligations.QueueControlCommandsComplete := by
  intro h
  let s : State := { fetchedState with queues := [(0, { Queue.reset with markFails := 1 }), (0, { Queue.reset with markFails := 2 })] }
  let r : Bref := ⟨0, 0⟩
  obtain ⟨-, -, hstores, -⟩ := h firstCmd s
  obtain ⟨t, ht, -, hcount⟩ := hstores ⟨some (r, 7)⟩ r 7 (takesPlace_of_test (by decide +kernel)) (by decide +kernel) rfl
    (by decide +kernel) (by decide +kernel) (by decide +kernel) (by decide +kernel)
  cases ht
  exact absurd hcount (by decide +kernel)

/-- Refutes O15: a stage that has begun and whose program has gone meanwhile fails with ST_BAD_PARAM, though its work, which
reads a sound source and has no pins to write, meets no failed check. -/
theorem not_epochCommandsTakeEffect : ¬ Obligations.EpochCommandsTakeEffect := by
  intro h
  let s : State := { fetchedState with cmds := [{ firstEntry with descs := [⟨0, 0⟩] }] }
  obtain ⟨hstage, -⟩ := h firstCmd s
  obtain ⟨hdone, -⟩ := hstage ⟨9, 2, ⟨0, 0⟩, 3, 1⟩ (takesPlace_of_test (by decide +kernel)) (fun hd => absurd hd (by decide +kernel))
  have ht := Host.Outcome.next.inj (hdone (by decide +kernel))
  have hcode := congrArg (fun t => (cmdOf t firstCmd).result.map (·.1)) ht
  exact absurd hcode (by decide +kernel)

/-- Refutes O17: PART_SET of the timeouts shows the pending values in the registers of the partition's cores at once (R9), so
more than the command table and what is staged changes. -/
theorem not_partitionItemsAreStaged : ¬ Obligations.PartitionItemsAreStaged := by
  intro h
  obtain ⟨-, -, -, htimeouts, -⟩ := h firstCmd 0 fetchedState
  obtain ⟨t, ht, -, hsame, -⟩ := htimeouts 1 2 (takesPlace_of_test (by decide +kernel))
  have ht := (Host.Outcome.next.inj ht).symm
  rw [ht] at hsame
  exact absurd (congrArg (fun s => getReg s (TIER_TMO 0)) hsame) (by decide +kernel)

end Sys2Proof
end

section
/-! Administration, program and diagnostic commands (R295 to R302). -/

namespace Sys2Proof

/-- What a map reads is its default or one of its entries. -/
theorem Assoc.get_mem {α : Type} (d : Nat → α) (m : Assoc α) (k : Nat) :
    Assoc.get d m k = d k ∨ ∃ e ∈ m, Assoc.get d m k = e.2 := by
  induction m with
  | nil => exact .inl rfl
  | cons e r ih =>
    simp only [Assoc.get]
    split
    · exact .inr ⟨e, List.mem_cons_self, rfl⟩
    · split
      · exact .inl rfl
      · exact ih.imp_right fun ⟨x, hx, h⟩ => ⟨x, List.mem_cons_of_mem _ hx, h⟩

end Sys2Proof

namespace Sys2Proof.Machine

theorem cmdOf_result_congr {s t : State} (h : t.cmds = s.cmds) (c : CmdRef) : (cmdOf t c).result = (cmdOf s c).result := by
  unfold cmdOf
  rw [h]
  split <;> rfl

theorem writeMem_cmds (a : Nat) (bs : List Byte) (s : State) : (writeMem a bs s).cmds = s.cmds := by
  obtain ⟨k, hk⟩ := writeMem_eq a bs s
  rw [hk]

theorem writeMem_ctxs (a : Nat) (bs : List Byte) (s : State) : (writeMem a bs s).ctxs = s.ctxs := by
  obtain ⟨k, hk⟩ := writeMem_eq a bs s
  rw [hk]

/-- A store changes memory, what is poisoned, and which sectors of a failed channel are restored. -/
theorem writeMem_frame (a : Nat) (bs : List Byte) (s : State) :
    { writeMem a bs s with mem := s.mem, poison := s.poison, stackDies := s.stackDies } = s := by
  obtain ⟨k, hk⟩ := writeMem_eq a bs s
  rw [hk]

/-- A CTX_CREATE that no check refuses makes the context and zeroes its segment table (R295). -/
theorem createBody_creates {c : CmdRef} {part : Nat} {carry : Bool} {a : Nat} {s : State}
    (hcreate : createFault s c.ctx.toNat a = none) (hplace : refusal s true (tgtOf s a) = none) :
    createBody c part carry a s =
      finish c .ok 0 (setCtx c.ctx.toNat (newCtx part a carry) (writeMem a (List.replicate 512 0) s)) := by
  rw [createBody, hcreate]
  dsimp only
  rw [hplace]

theorem destroyBody_tearsDown {c : CmdRef} {full : Bool} {s : State} (h : (ctxOf s c.ctx.toNat).state ≠ .free) :
    destroyBody c full s = settleAborts (if (progsOf (tearDown c full s) c.ctx.toNat).isEmpty then
        finish c .ok 0 (endTeardown c.ctx.toNat (tearDown c full s))
      else (progsOf (tearDown c full s) c.ctx.toNat).foldl (fun s e => startUnload e.1 c s) (tearDown c full s)) := by
  unfold destroyBody
  exact if_neg (by simpa using h)

theorem ctxOf_endTeardown_free {x : Nat} {u : State} (hwf : Assoc.wf (fun _ => Ctx.free) u.ctxs = true)
    (hprogs : progsOf u x = []) (hstate : (ctxOf u x).state = .destroying) : ctxOf (endTeardown x u) x = Ctx.free := by
  unfold endTeardown
  rw [if_neg (by simp [hprogs]), hstate]
  exact (Assoc.get_put hwf x).trans (if_pos rfl)

theorem segSetBody_stores {c : CmdRef} {g d : Nat} {s : State} (hdesc : segDescFault s (ctxOf s c.ctx.toNat).part d = none)
    (hplace : refusal s true (tgtOf s ((ctxOf s c.ctx.toNat).segTable + 32 * g)) = none) :
    segSetBody c g d s =
      let k := descKey (ctxOf s c.ctx.toNat).part c.ctx.toNat g
      awaitDescs c k (k + 1) (dropDescs k (k + 1) (writeMem ((ctxOf s c.ctx.toNat).segTable + 32 * g) (leBytes 32 d)
        { s with segs := Assoc.put (fun _ => 0) s.segs (c.ctx.toNat * 16 + g) d })) := by
  unfold segSetBody
  dsimp only
  rw [hdesc]
  dsimp only
  rw [hplace]

/-- No pool keeps a descriptor whose key lies in the range dropped (R349). -/
theorem lookup_dropDescs {lo hi key : Nat} (hlo : lo ≤ key) (hhi : key < hi) (die : Nat) (s : State) :
    lookup key (poolOf (dropDescs lo hi s) die key) = none := by
  have hpool : poolOf (dropDescs lo hi s) die key = [] ∨
      ∃ l : List CachedDesc, poolOf (dropDescs lo hi s) die key = l.filter fun d => !(decide (lo ≤ d.key) && decide (d.key < hi)) := by
    refine (Assoc.get_mem _ _ _).imp_right fun ⟨e, he, heq⟩ => ?_
    obtain ⟨x, -, rfl⟩ := List.mem_map.mp (List.mem_of_mem_filter he)
    exact ⟨x.2, heq⟩
  obtain hempty | ⟨l, hl⟩ := hpool
  · rw [hempty]
    rfl
  · rw [hl, lookup, Option.map_eq_none_iff, List.find?_eq_none]
    intro d hd hkey
    have := (List.mem_filter.mp hd).2
    simp_all

end Sys2Proof.Machine

namespace Sys2Proof
open Machine

/-- Settles O16: each command that its checks let pass, on the marked state, which differs from the state in the command table
only. -/
theorem contextCommandsTakeEffect : Obligations.ContextCommandsTakeEffect := by
  intro c s
  refine ⟨fun p carry a h hwf => ?_, fun full => ?_, fun g d h => ?_, fun p h => ?_, fun p h => ?_⟩
  · intro s1 hcreate hplace
    obtain ⟨l, hl⟩ : ∃ l, s1 = { s with cmds := l } := markStarted_eq (.ctxCreate c p carry a) c s
    rw [exec_of_takesPlace rfl h, createBody_creates hcreate hplace]
    have hbyte := memByte_writeMem (s := s1) (by rw [hl]; exact hwf) a.toNat (List.replicate 512 0)
    have hcmds := writeMem_cmds a.toNat (List.replicate 512 0) s1
    have hctxs := writeMem_ctxs a.toNat (List.replicate 512 0) s1
    have hframe := writeMem_frame a.toNat (List.replicate 512 0) s1
    simp only [List.length_replicate] at hbyte
    generalize writeMem a.toNat (List.replicate 512 0) s1 = u at *
    obtain ⟨l', n, ht⟩ := finishCode_eq c (Status.ok).code 0 (setCtx c.ctx.toNat (newCtx p.toNat a.toNat carry) u)
    have hresult : (cmdOf (setCtx c.ctx.toNat (newCtx p.toNat a.toNat carry) u) c).result = none :=
      (cmdOf_result_congr (t := setCtx _ _ u) hcmds c).trans (markStarted_result h.fresh)
    refine ⟨_, rfl, finish_completedWith hresult (by decide), ?_, fun j hj => ?_, fun x hx => ?_, ?_⟩
    · rw [finish, ht, setCtx, hctxs, hl]
      rfl
    · rw [finish, ht]
      refine (hbyte _).trans ?_
      rw [if_pos (by omega), List.getD_replicate _ (by omega)]
    · rw [finish, ht]
      refine (hbyte _).trans ?_
      rw [if_neg (by omega), hl]
      rfl
    · rw [finish, ht]
      rw [hl] at hframe
      exact congrArg (fun v : State => { v with cmds := s.cmds, ctxs := s.ctxs, tick := s.tick }) hframe
  · intro i h hctx x u
    refine ⟨?_, fun hfull hwf hprogs hstate => ctxOf_endTeardown_free hwf hprogs hstate⟩
    cases full <;>
    · obtain ⟨l, hl⟩ := markStarted_eq i c s
      rw [exec_of_takesPlace rfl h]
      exact congrArg _ (destroyBody_tearsDown (by rw [hl]; exact hctx))
  · intro s1 cx a k hdesc hplace
    obtain ⟨l, hl⟩ : ∃ l, s1 = { s with cmds := l } := markStarted_eq (.segSet c g d) c s
    have hcx : ctxOf s1 c.ctx.toNat = cx := by rw [hl]; rfl
    rw [exec_of_takesPlace rfl h]
    refine congrArg _ ((segSetBody_stores (by rw [hcx]; exact hdesc) (by rw [hcx]; exact hplace)).trans ?_)
    rw [hcx]
    have hsegs : s1.segs = s.segs := by rw [hl]
    rw [hsegs]
  · intro s1 r
    obtain ⟨l, hl⟩ : ∃ l, s1 = { s with cmds := l } := markStarted_eq (.segInvalidate c p) c s
    refine ⟨?_, fun key die hlo hhi => lookup_dropDescs hlo hhi die s1⟩
    rw [exec_of_takesPlace rfl h]
    cases p with
    | some p => rfl
    | none =>
      have hcx : ctxOf s1 c.ctx.toNat = ctxOf s c.ctx.toNat := by rw [hl]; rfl
      refine congrArg _ ?_
      show awaitDescs c (ctxKeys (ctxOf s1 c.ctx.toNat).part c.ctx.toNat).1 (ctxKeys (ctxOf s1 c.ctx.toNat).part c.ctx.toNat).2
        (dropDescs _ _ s1) = _
      rw [hcx]
      rfl
  · obtain ⟨l, hl⟩ := markStarted_eq (.allotSet c p) c s
    rw [exec_of_takesPlace rfl h, hl]
    exact ⟨_, rfl, rfl, rfl⟩

/-- Settles O18: a load is its work, ended; an unload and a run that no check refuses begin. -/
theorem programCommandsTakeEffect : Obligations.ProgramCommandsTakeEffect := by
  intro c s
  refine ⟨fun h r n ht => answers_of_finish (exec_of_takesPlace rfl ht), fun h p ht hp hload hunload hpart => ?_,
    fun p pr k ht hp => ?_⟩
  · obtain ⟨l, hl⟩ := markStarted_eq (.stepUnload c h) c s
    have hprog : progOf (markStarted (.stepUnload c h) c s) h.toNat = some p := by rw [hl]; exact hp
    have hctx : ctxOf (markStarted (.stepUnload c h) c s) c.ctx.toNat = ctxOf s c.ctx.toNat := by rw [hl]; rfl
    rw [exec_of_takesPlace rfl ht, unloadBody, hprog]
    exact congrArg _ (if_neg (by simp [hload, hunload, hpart, hctx]))
  · intro s1 x hslot hdone
    obtain ⟨l, hl⟩ : ∃ l, s1 = { s with cmds := l } := markStarted_eq (.stepRun c p) c s
    have hprog : progOf s1 p.handle.toNat = some pr := by rw [hl]; exact hp
    rw [exec_of_takesPlace rfl ht]
    change Host.Outcome.next (runBody c p _ s1) = _
    rw [runBody, hprog]
    dsimp only
    rw [hslot]
    exact congrArg _ (if_neg (by simp [x, hdone]))

/-- Settles O19: a self-test asks its cores or passes at once, and a dump is its work, ended. -/
theorem diagnosticCommandsTakeEffect : Obligations.DiagnosticCommandsTakeEffect := by
  intro c s
  refine ⟨fun m h hallowed => ?_, fun m h => ?_, fun n r b h => ?_,
    fun r b h => answers_of_finish (exec_of_takesPlace rfl h), fun r b h hadmin => ?_⟩
  · obtain ⟨l, hl⟩ := markStarted_eq (.selftestLoopback c m) c s
    rw [exec_of_takesPlace rfl h, loopbackBody,
      if_neg (by rw [hl, show coresAllowed { s with cmds := l } c (mapCores m) = true from hallowed]; decide)]
    exact ⟨_, rfl, finish_ok_markStarted h (by decide)⟩
  · intro s1 on hallowed hbusy hon
    rw [exec_of_takesPlace rfl h]
    refine congrArg _ ?_
    unfold patrolBody
    dsimp only
    rw [if_neg (by simpa using hallowed), if_neg (by simpa only [Bool.not_eq_true] using hbusy),
      if_neg (by simpa only [List.isEmpty_iff] using hon)]
  · intro s1 src w hmine
    obtain ⟨l, hl⟩ := markStarted_eq (.dumpCoreRegs c n r b) c s
    refine answers_of_finish ?_
    rw [exec_of_takesPlace rfl h, if_pos (by rw [hl]; exact hmine)]
    rfl
  · obtain ⟨l, hl⟩ := markStarted_eq (.dumpLedger c r b) c s
    refine answers_of_finish ?_
    rw [exec_of_takesPlace rfl h, if_pos (by rw [hl]; exact hadmin), hl]
    rfl

end Sys2Proof
end

section
/-! Queues and their events (chapter 08). -/

namespace Sys2Proof
open Machine

/-- Settles O20: the state of the queue chooses what an action does. -/
theorem queueActionsTakeEffect : Obligations.QueueActionsTakeEffect := by
  intro q s n a raw
  refine ⟨fun hoff hread hdesc => ?_, fun hstate => ?_, fun hstate => ?_, fun hstate => ?_, fun hstate hnone => ?_,
    fun hstate => ?_, fun hstate => ?_, fun hstate => ?_, fun hstate => ?_⟩
  · exact ⟨_, congrArg _ ((if_neg (not_not.mpr hoff)).trans ((if_neg (by rw [hread]; decide)).trans
      (if_neg (by rw [hdesc]; decide)))), rfl, rfl, rfl, rfl, rfl, rfl, rfl, rfl⟩
  · exact ⟨drainQueue (queueOf s n), congrArg _ (if_pos hstate), rfl, rfl, rfl, rfl, rfl, rfl⟩
  · exact congrArg _ (if_neg hstate)
  · refine ⟨{ queueOf s n with state := .enabled, errCause := 0, errValue := 0, hostLost := false, held := [] },
      congrArg _ (if_neg (not_not.mpr hstate)), rfl, rfl, rfl, rfl⟩
  · exact ⟨{ queueOf s n with state := .disabled, discard := false, hostLost := false }, congrArg _ (if_pos ⟨hstate, hnone⟩),
      rfl, rfl, rfl⟩
  · exact congrArg _ (if_pos hstate)
  · exact congrArg _ (if_neg (by rcases hstate with h | h <;> rw [h] <;> decide))
  · exact congrArg _ (if_pos hstate)
  · exact congrArg _ (if_pos hstate)

/-- Settles O21: what an event of a queue finds chooses what it does. -/
theorem queueEventsTakeEffect : Obligations.QueueEventsTakeEffect := by
  intro q ext s n x
  refine ⟨fun pk hf ht hv => ?_, fun why hf ht hv => ?_, fun k pk hstate hk hle hsq hcq hv => ?_,
    fun k why hstate hk hsq hcq hv hlt => ?_, fun i e r hfind hready hr hi => ?_, fun hw => ?_, fun hw => ?_, fun v => ?_⟩
  · refine congrArg _ ((if_neg (by rw [hf, ht]; decide)).trans ?_)
    rw [hv]
  · refine congrArg _ ((if_neg (by rw [hf, ht]; decide)).trans ?_)
    rw [hv]
  · refine congrArg Host.Outcome.next (Eq.trans (by dsimp only; rw [hk])
      ((if_neg (not_or.mpr ⟨not_not.mpr hstate, by rw [hsq, hcq]; simpa using hle⟩)).trans ?_))
    rw [hv]
    exact congrArg (fun r => consume n pk (setQueue n { x with retries := min 65535 (x.retries + 1), retrying := r } s)) hk.symm
  · refine congrArg Host.Outcome.next (Eq.trans (by dsimp only; rw [hk])
      ((if_neg (not_or.mpr ⟨not_not.mpr hstate, by rw [hsq, hcq]; simpa using hlt.le⟩)).trans ?_))
    rw [hv]
    exact if_neg (by omega)
  · show Host.Outcome.next _ = _
    rw [hfind]
    refine congrArg _ ((if_pos hready).trans ?_)
    rw [completeCmd, hr]
    dsimp only
    rw [if_neg (by simp [Option.isSome_iff_ne_none.mp hi]), completedAt]
    rw [if_pos hi]
  · exact congrArg _ (if_pos hw)
  · exact congrArg _ (if_neg (by rw [hw]; decide))
  · intro n x p cc hon
    have hoff : ¬ (x.state = .disabled ∨ x.state = .draining) := by rw [hon]; decide
    refine ⟨fun hp hring hcc hw => ?_, fun hp => ?_, fun hp hring => ?_⟩
    · exact congrArg _ ((if_neg hoff).trans ((if_neg (by rw [hp]; decide)).trans ((if_neg (not_lt.mpr hring)).trans
        (if_neg (by rw [hcc, hw]; decide)))))
    · exact congrArg _ ((if_neg hoff).trans (if_pos (by rw [hp]; decide)))
    · exact congrArg _ ((if_neg hoff).trans ((if_neg (by rw [show atOrAfter _ x.p = true from hp]; decide)).trans
        ((if_pos hring).trans (if_pos hon))))

end Sys2Proof
end

section
/-! Engines: issue, boundaries, chains, staging and timeouts (chapters 03 and 07). -/

namespace Sys2Proof.Machine
open Sys2Proof

/-! ### The function that carries out a command -/

theorem stepIssue_exec {core engine} {s : State} : exec (.stepIssue core engine) s = execStepIssue core engine s := rfl
theorem stallSwitch_exec {core engine} {s : State} : exec (.stallSwitch core engine) s = execStallSwitch core engine s := rfl
theorem stepBoundary_exec {core engine} {s : State} : exec (.stepBoundary core engine) s = execStepBoundary core engine s := rfl
theorem drain_exec {core engine} {s : State} : exec (.drain core engine) s = execDrain core engine s := rfl
theorem spill_exec {core engine} {s : State} : exec (.spill core engine) s = execSpill core engine s := rfl
theorem restore_exec {core engine} {s : State} : exec (.restore core engine) s = execRestore core engine s := rfl
theorem allotDraw_exec {core ctx cls} {s : State} : exec (.allotDraw core ctx cls) s = execAllotDraw core ctx cls s := rfl
theorem stagingFetchDone_exec {core handle run step} {s : State} : exec (.stagingFetchDone core handle run step) s = execStagingFetchDone core handle run step s := rfl
theorem tierTimeout_exec {core cause unit who} {s : State} : exec (.tierTimeout core cause unit who) s = execTierTimeout core cause unit who s := rfl
theorem engHalt_exec {w core engine on} {s : State} : exec (.engHalt w core engine on) s = execEngHalt w core engine on s := rfl
theorem spillNow_exec {w core engine} {s : State} : exec (.spillNow w core engine) s = execSpillNow w core engine s := rfl
theorem patrolNow_exec {w core engine} {s : State} : exec (.patrolNow w core engine) s = execPatrolNow w core engine s := rfl
theorem patrolDue_exec {core engine} {s : State} : exec (.patrolDue core engine) s = execPatrolDue core engine s := rfl
theorem patrolStart_exec {core engine} {s : State} : exec (.patrolStart core engine) s = execPatrolStart core engine s := rfl
theorem patrolComplete_exec {core engine failed} {s : State} : exec (.patrolComplete core engine failed) s = execPatrolComplete core engine failed s := rfl
theorem engineReset_exec {core engine} {s : State} : exec (.engineReset core engine) s = execEngineReset core engine s := rfl
theorem stepWatchdog_exec {core unit} {s : State} : exec (.stepWatchdog core unit) s = execStepWatchdog core unit s := rfl
theorem coreHold_exec {w core on} {s : State} : exec (.coreHold w core on) s = execCoreHold w core on s := rfl
theorem offReq_exec {core} {s : State} : exec (.offReq core) s = execOffReq core s := rfl
theorem wake_exec {core} {s : State} : exec (.wake core) s = execWake core s := rfl
theorem wakeHoldExpiry_exec {core} {s : State} : exec (.wakeHoldExpiry core) s = execWakeHoldExpiry core s := rfl
theorem rampStage_exec {core} {s : State} : exec (.rampStage core) s = execRampStage core s := rfl
theorem rampStart_exec {core rise} {s : State} : exec (.rampStart core rise) s = execRampStart core rise s := rfl
theorem larderScrub_exec {core found} {s : State} : exec (.larderScrub core found) s = execLarderScrub core found s := rfl
theorem zeroLine_exec {core addr} {s : State} : exec (.zeroLine core addr) s = execZeroLine core addr s := rfl
theorem cacheMissFill_exec {core} {s : State} : exec (.cacheMissFill core) s = execCacheMissFill core s := rfl
theorem setLoadComplete_exec {core} {s : State} : exec (.setLoadComplete core) s = execSetLoadComplete core s := rfl
theorem atomic_exec {agent addr req} {s : State} : exec (.atomic agent addr req) s = execAtomic agent addr req s := rfl
theorem snpShared_exec {holder addr} {s : State} : exec (.snpShared holder addr) s = execSnpShared holder addr s := rfl
theorem snpUnique_exec {holder addr} {s : State} : exec (.snpUnique holder addr) s = execSnpUnique holder addr s := rfl
theorem snpInval_exec {holder addr} {s : State} : exec (.snpInval holder addr) s = execSnpInval holder addr s := rfl
theorem snpResp_exec {holder addr} {s : State} : exec (.snpResp holder addr) s = execSnpResp holder addr s := rfl
theorem data_exec {agent addr} {s : State} : exec (.data agent addr) s = execData agent addr s := rfl
theorem compAck_exec {agent addr} {s : State} : exec (.compAck agent addr) s = execCompAck agent addr s := rfl
theorem wbAck_exec {agent addr} {s : State} : exec (.wbAck agent addr) s = execWbAck agent addr s := rfl
theorem baseDieAtomic_exec {addr req} {s : State} : exec (.baseDieAtomic addr req) s = execBaseDieAtomic addr req s := rfl
theorem localBalanceReset_exec {core} {s : State} : exec (.localBalanceReset core) s = execLocalBalanceReset core s := rfl
theorem bellSourceValid_exec {source} {s : State} : exec (.bellSourceValid source) s = execBellSourceValid source s := rfl
theorem twAdd_exec {t value} {s : State} : exec (.twAdd t value) s = execTwAdd t value s := rfl
theorem twSub_exec {t value} {s : State} : exec (.twSub t value) s = execTwSub t value s := rfl

/-! ### Issue and staging -/

/-- What a unit needs of its allotment and of its tiles to be issued on an engine (R91, R315). -/
theorem tryIssue_covered {a : At} {e n : Nat} {prep : State → State} {v : State} (hcore : a.p.core = n)
    (hbal : 0 < localBal (ctxOf v a.r.ctx).engine n ∨ (ctxOf v a.r.ctx).engine.pool ≠ 0)
    (hallot : allotCovers v n a.r.ctx (a.cycles v e) = true) (hsealed : a.unsealed v e = false) :
    tryIssue a e prep v = issueUnit a e (prep (stopFall n v)) := by
  unfold tryIssue
  dsimp only
  rw [hcore, if_neg (by omega), if_neg (by simp [hallot, hsealed])]

/-- A step whose buffers have room takes no buffer from a later one. -/
theorem yieldSlots_of_room {h need : Nat} {t : Stream} {s : State} {p : Program} (hp : progOf s h = some p)
    (hroom : need ≤ (p.freeStaging t).length) (later : List (Nat × Nat)) : yieldSlots h need t later s = s := by
  induction later with
  | nil => rfl
  | cons x later ih =>
    rw [yieldSlots, List.foldr_cons, ← yieldSlots, ih, hp]
    exact if_pos hroom

/-- The program a step is placed in is the one its handle names. -/
theorem progOf_of_atOf {s : State} {h r i : Nat} {a : At} (ha : atOf s h r i = some a) : progOf s h = some a.pr := by
  obtain ⟨pr, hpr, ha⟩ := Option.bind_eq_some_iff.mp ha
  obtain ⟨x, -, ha⟩ := Option.bind_eq_some_iff.mp ha
  obtain ⟨p, -, rfl⟩ := Option.map_eq_some_iff.mp ha
  exact hpr

/-- The stall counter that a cause of Table 06-9 names, whatever stands for the causes beyond it. -/
theorem getD_stall {l : List Nat} {k x : Nat} (h1 : 1 ≤ k) (h6 : k ≤ l.length) : l.getD (k - 1) x = l.getD (k - 1) 0 := by
  rw [List.getD_eq_getElem _ _ (by omega), List.getD_eq_getElem _ _ (by omega)]

end Sys2Proof.Machine

namespace Sys2Proof
open Machine

/-- Settles O23: what an event of an engine finds chooses what it does. -/
theorem engineEventsTakeEffect : Obligations.EngineEventsTakeEffect := by
  intro core engine s
  dsimp only
  generalize hn : core.toNat = n
  generalize he : engine.toNat = e
  have hpos : ∀ cause : BitVec 4, cause ≠ 0 → cause.toNat ≠ 0 := fun cause h h0 => h (BitVec.eq_of_toNat_eq h0)
  refine ⟨fun a c hon hfree hc hlive hstep hready ⟨hcore, _, hbal, hallot, hsealed⟩ => ?_,
    fun a hon hlive hfresh hspilled ⟨hcore, heng, hbal, hallot, hsealed⟩ => ?_,
    fun a b c hctl hon hfree hlive hc hstep hready hfresh htakes => ?_, fun f p r hf hp hr hok => ?_,
    fun c a hc hcmd hlive hflight hk hstate ha => ?_, fun c hc hlive hflight => ?_,
    fun x a rest hon hfree hlive hc hspilled hcmd ha hok hdue => ?_, fun x k hstate hbal => ?_,
    fun h r i a ha hcore hopen hon hturn harr hahead t ht hroom => ?_,
    fun cause unit h r i a h0 h6 ha hcore hmiss htally => ?_, fun cause unit c h0 h6 hres hhand hmiss htally => ?_⟩
  · simp only [stepIssue_exec, execStepIssue, hn, he, hon, hfree, hlive, hc, hstep, hready, Bool.not_true, if_true, and_self, Option.bind_some,
      Option.filter_some, Bool.false_eq_true, if_false]
    exact congrArg _ (tryIssue_covered (prep := id) hcore hbal hallot hsealed)
  · simp only [stepIssue_exec, execStepIssue, hn, he, hon, hlive, Bool.not_true, and_false, Bool.false_eq_true, if_false, hfresh, startFresh]
    rw [tryIssue_covered hcore hbal hallot hsealed]
    simp [heng, hspilled]
  · simp only [stallSwitch_exec, execStallSwitch, hn, he, hctl, hon, hfree, hlive, htakes, hc, hstep, hready, hfresh, Option.bind_some,
      Bool.not_true, Bool.false_eq_true, or_self, if_false]
    exact ⟨fun h => congrArg _ (if_pos (Option.isSome_iff_ne_none.mpr h)), fun h => congrArg _ (if_neg (by rw [h]; decide))⟩
  · have hrun : ∀ x, (((progOf (setEng n e x (advance s)) f.handle).bind fun p => runOf p f.run).map fun r =>
        r.failed.isSome).getD true = false := fun x => by simp [hp, hr, hok]
    simp only [stepBoundary_exec, execStepBoundary, hn, he, show getEng (advance s) n e = getEng s n e from rfl, hf, hrun,
      Bool.false_eq_true, if_false]
    exact ⟨fun h => by rw [if_neg h], fun h => by rw [if_pos h]⟩
  · simp only [drain_exec, execDrain, hn, he, hc, hcmd, hlive, hflight, ha, not_lt.mpr hk]
    exact if_neg (by rcases hstate with h | h <;> simp [h])
  · simp [spill_exec, execSpill, hn, he, hflight, spillOwn, hc]
  · have hdue' : (decide (x.chain.kt ≤ x.chain.k) || a.ready s) = true := by simpa using hdue
    simp [restore_exec, execRestore, hn, he, hon, hfree, hlive, hc, hspilled, hcmd, ha, hok, hdue']
  · simp only [allotDraw_exec, execAllotDraw, hn, if_neg hstate]
    exact if_neg (by omega)
  · simp only [stagingFetchDone_exec, execStagingFetchDone, hn, ha, ht, hopen, hon, hturn, harr, hahead, Bool.not_true]
    rw [if_neg (by simp [hcore]), yieldSlots_of_room (progOf_of_atOf ha) hroom, progOf_of_atOf ha]
  · have h1 := hpos cause h0
    simp only [tierTimeout_exec, execTierTimeout, hn, ha]
    rw [if_neg (by omega), if_neg (by simp [hcore, hmiss]), getD_stall (x := STALL_STACK n) (by omega) h6]
  · have h1 := hpos cause h0
    simp only [tierTimeout_exec, execTierTimeout, hn]
    rw [if_neg (by omega), if_neg (by simp [hres, hhand, hmiss])]

end Sys2Proof
end

section
/-! Spilled chains and the control of engines (chapter 03). -/

namespace Sys2Proof.Machine
open Sys2Proof

theorem coreOf_setCore {s : State} (hwf : Assoc.wf coreReset s.cores = true) (n : Nat) (v : Core) (m : Nat) :
    coreOf (setCore n v s) m = if m = n then v else coreOf s m := Assoc.get_put hwf m

theorem wf_setCore {s : State} (hwf : Assoc.wf coreReset s.cores = true) (n : Nat) (v : Core) :
    Assoc.wf coreReset (setCore n v s).cores = true := Assoc.wf_put hwf

theorem engineOf_putEngine (c : Core) (e : BitVec 2) (v : Engine) : engineOf (putEngine c e.toNat v) e.toNat = v := by
  have := e.isLt
  rcases (by omega : e.toNat = 0 ∨ e.toNat = 1 ∨ e.toNat = 2 ∨ e.toNat = 3) with h | h | h | h <;> rw [h] <;> rfl

theorem spilled_putEngine (c : Core) (e : Nat) (v : Engine) : (putEngine c e v).spilled = c.spilled := by
  unfold putEngine
  split <;> rfl

/-- The engine that a spilled chain returns to. -/
theorem restoreChain_engine {s : State} (hwf : Assoc.wf coreReset s.cores = true) (n : Nat) (e : BitVec 2) (x : Spilled) :
    getEng (restoreChain n e.toNat x s) n e.toNat =
      { engineOf (coreOf s n) e.toNat with chain := some x.chain, h0 := x.h0, h1 := x.h1 } := by
  rw [getEng, restoreChain, coreOf_incF, coreOf_setCore hwf, if_pos rfl, engineOf_putEngine]

theorem restoreChain_mem (n e : Nat) (x : Spilled) (s : State) : (restoreChain n e x s).mem = s.mem := by
  rw [restoreChain, incF_mem, setCore_mem]

theorem restoreChain_ctxs (n e : Nat) (x : Spilled) (s : State) : (restoreChain n e x s).ctxs = s.ctxs := by
  rw [restoreChain, incF_ctxs, setCore_ctxs]

/-- What a spill of the chain of engine `g` leaves: the engine without it, its halves among the core's spilled chains. -/
def spillDone (n e : Nat) (x : Spilled) (g : Engine) (s : State) : State :=
  incF (ENG_SPILLS n e) ENG_SPILLS_SPILLS (liveHalves g)
    (setCore n (putEngine { coreOf s n with spilled := (coreOf s n).spilled ++ [x] } e
      { g with chain := none, h0 := .reset, h1 := .reset }) s)

theorem exec_spill {core : BitVec 8} {engine : BitVec 2} {c : Chain} {s : State}
    (hc : (getEng s core.toNat engine.toNat).chain = some c) (hlive : (getEng s core.toNat engine.toNat).live = true)
    (hflight : (getEng s core.toNat engine.toNat).flight = none) :
    exec (.spill core engine) s = .next (spillDone core.toNat engine.toNat
      ⟨c, (getEng s core.toNat engine.toNat).h0, (getEng s core.toNat engine.toNat).h1, chainCtx s c, engine.toNat⟩
      (getEng s core.toNat engine.toNat) s) := by
  have hc' : (engineOf (coreOf s core.toNat) engine.toNat).chain = some c := hc
  have hlive' : (engineOf (coreOf s core.toNat) engine.toNat).live = true := hlive
  simp only [spill_exec, execSpill, hflight, spillOwn, hc, spillEngine, hc', hlive']
  rfl

theorem spillDone_spilled {s : State} (hwf : Assoc.wf coreReset s.cores = true) (n e : Nat) (x : Spilled) (g : Engine) :
    (coreOf (spillDone n e x g s) n).spilled = (coreOf s n).spilled ++ [x] := by
  rw [spillDone, coreOf_incF, coreOf_setCore hwf, if_pos rfl, spilled_putEngine]

theorem spillDone_engine {s : State} (hwf : Assoc.wf coreReset s.cores = true) (n : Nat) (e : BitVec 2) (x : Spilled) (g : Engine) :
    getEng (spillDone n e.toNat x g s) n e.toNat = { g with chain := none, h0 := .reset, h1 := .reset } := by
  rw [getEng, spillDone, coreOf_incF, coreOf_setCore hwf, if_pos rfl, engineOf_putEngine]

theorem spillDone_mem (n e : Nat) (x : Spilled) (g : Engine) (s : State) : (spillDone n e x g s).mem = s.mem := by
  rw [spillDone, incF_mem, setCore_mem]

theorem spillDone_ctxs (n e : Nat) (x : Spilled) (g : Engine) (s : State) : (spillDone n e x g s).ctxs = s.ctxs := by
  rw [spillDone, incF_ctxs, setCore_ctxs]

theorem spillDone_wf {s : State} (hwf : Assoc.wf coreReset s.cores = true) (n e : Nat) (x : Spilled) (g : Engine) :
    Assoc.wf coreReset (spillDone n e x g s).cores = true := by
  rw [spillDone, incF_cores]
  exact wf_setCore hwf _ _

end Sys2Proof.Machine

namespace Sys2Proof
open Machine

/-- Settles O24: a spill moves the chain and its halves to the core's spilled chains, and a restore moves them back. -/
theorem spilledChainsReturnUnchanged : Obligations.SpilledChainsReturnUnchanged := by
  intro core engine other c s hwf n g x hc hlive hflight
  refine ⟨spillDone n engine.toNat x g s, exec_spill hc hlive hflight, ?_, ?_, ?_, spillDone_mem .., spillDone_ctxs .., ?_⟩
  · rw [spillDone_spilled hwf]
    exact List.mem_append_right _ (List.mem_singleton_self _)
  · rw [spillDone_engine hwf]
    rfl
  · rw [spillDone_engine hwf]
  · intro u
    have heng : getEng u n other.toNat = _ := restoreChain_engine (spillDone_wf hwf _ _ _ _) n other x
    refine ⟨by rw [heng], by rw [heng], by rw [heng], ?_, ?_⟩
    · rw [restoreChain_mem, spillDone_mem]
    · rw [restoreChain_ctxs, spillDone_ctxs]

/-- Settles O25: what an engine's control finds chooses what it does. -/
theorem engineControlTakesEffect : Obligations.EngineControlTakesEffect := by
  intro core engine w s
  dsimp only
  generalize hn : core.toNat = n
  generalize he : engine.toNat = e
  refine ⟨fun hw => ⟨fun b => ?_, fun hf => ?_, fun hf => ?_, fun hfree => ?_, fun hfree => ?_⟩, fun hon hfree => ?_,
    fun hon hfree hstate => ?_, fun hfree hdue => ?_, fun hstate hfor => ⟨?_, fun f hf => ?_⟩, fun hspent hday => ?_,
    fun u hu hf => ?_, fun u hu => ?_⟩
  · simp [engHalt_exec, execEngHalt, hw, hn, he]
  · simp [spillNow_exec, execSpillNow, spillNow, hw, hn, he, hf]
  · simp [spillNow_exec, execSpillNow, spillNow, hw, hn, he, Option.isSome_iff_ne_none.mpr hf]
  · simp [patrolNow_exec, execPatrolNow, askPatrol, beginPatrol, hw, hn, he, hfree]
  · simp [patrolNow_exec, execPatrolNow, askPatrol, hw, hn, he, hfree]
  · simp only [patrolDue_exec, execPatrolDue, beginPatrol, hn, he, hfree, if_true]
    exact if_neg (by tauto)
  · simp only [patrolDue_exec, execPatrolDue, hn, he, hfree, Bool.false_eq_true, if_false, if_neg hstate]
    exact if_neg (by tauto)
  · simp [patrolStart_exec, execPatrolStart, beginPatrol, hn, he, hfree, hdue]
  · simp [patrolComplete_exec, execPatrolComplete, hn, he, hstate, hfor]
  · simp [patrolComplete_exec, execPatrolComplete, hn, he, hstate, hfor, show ¬ f = 0#4 from hf]
  · simp [engineReset_exec, execEngineReset, engineReset, hn, he, hspent, hday]
  · simp [stepWatchdog_exec, engineReset_exec, execStepWatchdog, execEngineReset, hn, hu, Option.isSome_iff_ne_none.mpr hf, Nat.mod_eq_of_lt hu]
  · simp [stepWatchdog_exec, execStepWatchdog, hn, not_lt.mpr hu]

end Sys2Proof
end

section
/-! Cores: the handshake, ramps, scrubs and their caches (chapter 06). -/

namespace Sys2Proof.Machine
open Sys2Proof

/-! ### What a line put in the L3 cache or in memory leaves of the caches above -/

/-- What no step of a loop changes, the loop does not change. -/
theorem foldl_proj {α β : Type} (π : State → β) {f : State → α → State} (h : ∀ s x, π (f s x) = π s) (l : List α) (s : State) :
    π (l.foldl f s) = π s := by
  induction l generalizing s with
  | nil => rfl
  | cons x l ih => exact (ih _).trans (h s x)

theorem writeMem_hc (a : Nat) (bs : List Byte) (s : State) : (writeMem a bs s).hc = s.hc := by
  obtain ⟨k, hk⟩ := writeMem_eq a bs s
  rw [hk]

theorem putLine_hc (l d : Nat) (s : State) : (putLine l d s).hc = s.hc := by
  unfold putLine
  split
  · rfl
  · exact writeMem_hc _ _ s

theorem setL3_caches (l : Nat) (v : Option L3Line) (s : State) : (setL3 l v s).hc.caches = s.hc.caches := rfl

theorem l3Evict_caches (l : Nat) (s : State) : (l3Evict l s).hc.caches = s.hc.caches := by
  unfold l3Evict
  split
  · rfl
  · rw [setL3_caches]
    split
    · rw [putLine_hc]
    · rfl

theorem l3Alloc_caches (cls l d : Nat) (dirty : Bool) (s : State) : (l3Alloc cls l d dirty s).hc.caches = s.hc.caches := by
  unfold l3Alloc
  split
  · rfl
  · dsimp only
    split
    · rfl
    · split
      · exact l3Evict_caches _ s
      · split
        · rw [putLine_hc]
        · rfl

/-- A flush empties the core's cache and its buffer (R182). -/
theorem flushCore_empty {direct : Bool} {n : Nat} {s : State} (hwf : Assoc.wf (fun _ => PCache.empty) s.hc.caches = true) :
    pcacheOf (flushCore direct n s) (128 + n) = { pcacheOf s (128 + n) with lines := [], wb := [] } := by
  unfold flushCore
  dsimp only
  refine (Assoc.get_put ?_ _).trans (if_pos rfl)
  have hdir : ∀ (l : List Nat) (u : State),
      (l.foldl (fun s l => setDir l ((dirOf s l).drop (128 + n)) s) u).hc.caches = u.hc.caches :=
    foldl_proj (fun s => s.hc.caches) fun _ _ => rfl
  have hdirty : ∀ (l : List (Nat × Nat)) (u : State),
      (l.foldl (fun s e => if direct then putLine e.1 e.2 s else l3Alloc 12 e.1 e.2 true s) u).hc.caches = u.hc.caches :=
    foldl_proj (fun s => s.hc.caches) fun s e => by
      split
      · rw [putLine_hc]
      · exact l3Alloc_caches _ _ _ _ s
  dsimp only
  rw [hdir, hdirty]
  exact hwf

end Sys2Proof.Machine

namespace Sys2Proof
open Machine

/-- Settles O26: the state of the core chooses what an event does to it. -/
theorem coreCommandsTakeEffect : Obligations.CoreCommandsTakeEffect := by
  intro core s
  dsimp only
  generalize hn : core.toNat = n
  refine ⟨fun w b hw => ?_, fun hon => ?_, fun hw => ?_, ⟨fun hoff => ?_, fun hoff => ?_⟩, fun hoff => ?_,
    fun hwait => ⟨fun k hk hlt => ?_, fun k hk hle hw => ?_, fun k hup hk hlt => ?_, fun k hup hk hle hoff hstage => ?_⟩,
    fun hwait b => ?_, fun hwait hon hup hdown b => ⟨fun hlt => ?_, fun hle => ?_⟩, fun found hu hm hall => ?_,
    ⟨_, rfl, ?_, fun hwf => ?_⟩, fun a hdom => ⟨fun hc => ?_, fun hc => ?_⟩, fun l hmiss hdone => ?_, ?_⟩
  · simp [coreHold_exec, execCoreHold, hw, hn]
  · simp only [offReq_exec, execOffReq, turnOff, hn]
    rcases hon with h | h | h <;> rw [h]
  · simp only [offReq_exec, execOffReq, turnOff, hn, hw]
  · simp only [wake_exec, execWake, wakeCore, hn, coreOf] at hoff ⊢
    rw [hoff]
    rfl
  · simp only [wake_exec, execWake, wakeCore, hn, coreOf] at hoff ⊢
    rw [hoff]
  · simp [wakeHoldExpiry_exec, execWakeHoldExpiry, hn, hoff]
  · simp [rampStage_exec, execRampStage, rampStage, hn, hwait, hk, hlt]
  · simp [rampStage_exec, execRampStage, rampStage, hn, hwait, hk, not_lt.mpr hle, hw]
  · simp [rampStage_exec, execRampStage, rampStage, hn, hwait, hup, hk, hlt]
  · simp [rampStage_exec, execRampStage, rampStage, hn, hwait, hup, hk, not_lt.mpr hle, hoff, hstage]
  · simp [rampStart_exec, execRampStart, hn, hwait]
  · simp [rampStart_exec, execRampStart, hn, hwait, hon, hup, hdown, askRamp, hlt]
  · simp [rampStart_exec, execRampStart, hn, hwait, hon, hup, hdown, askRamp, not_lt.mpr hle]
  · simp only [larderScrub_exec, execLarderScrub, hn, hu, hm, or_self, if_false]
    refine congrArg _ (List.foldl_ext _ _ _ fun s f hf => ?_)
    exact if_pos (by simpa using List.all_eq_true.mp hall f hf)
  · rw [hn]
  · have hempty := flushCore_empty (direct := getF s HC_STATUS HC_STATUS_DIR_UP == 0) (n := n) hwf
    rw [hn, hempty]
    exact ⟨rfl, rfl⟩
  · simp [zeroLine_exec, execZeroLine, hn, hdom, hc]
  · simp [zeroLine_exec, execZeroLine, hn, hc]
  · have : ¬ (asking s (128 + n) l = true ∧ coreCaches s n = true) := by rcases hdone with h | h <;> simp [h]
    simp only [cacheMissFill_exec, execCacheMissFill, hn, hmiss, if_neg this]
  · simp [setLoadComplete_exec, execSetLoadComplete, hn]

end Sys2Proof
end

section
/-! Coherence requests (R187, R188, R450): the checks of a cache, and what reaches the home. -/

namespace Sys2Proof.Machine
open Sys2Proof

/-- A cache that is no core's checks no line, and a core's finds a sound line sound. -/
theorem checkLine_sound {a l : Nat} {s : State} (h : isCore a = true → (plineOf s a l).state = .i ∨
    (s.upsets.contains (.tag (a - 128) l) = false ∧ s.upsets.contains (.data (a - 128) l) = false ∧
      (plineOf s a l).data < 2 ^ 512)) : checkLine a l s = (s, true) := by
  unfold checkLine
  dsimp only
  split
  · rfl
  · rename_i hcore
    obtain ⟨hcore, hstate⟩ := not_or.mp hcore
    obtain ⟨htag, hdata, hsound⟩ := (h (by simpa using hcore)).resolve_left hstate
    rw [if_neg (by rw [htag]; decide), if_neg (by rw [hdata]; decide), if_neg (not_le.mpr hsound)]

/-- The request that an access to a line in state `x` makes of the line's home (R187, R450). -/
def homeRequest (k : ReqKind) (x : LState) : Option ReqKind :=
  match k, x with
  | .readShared, .i => some .readShared
  | .readUnique, .i => some .readUnique
  | .readUnique, .s | .readUnique, .o | .upgrade, .i | .upgrade, .s | .upgrade, .o => some .upgrade
  | .zeroUnique, .i | .zeroUnique, .s | .zeroUnique, .o => some .zeroUnique
  | _, _ => none

section
variable {a addr : Nat} {s : State} (hlive : agentLive s a = true) (hdom : inDomain (addr / 64) = true)
  (hmiss : isCore a = true → (pcacheOf s a).miss ≠ some (addr / 64)) (hcheck : checkLine a (addr / 64) s = (s, true))
include hlive hdom hmiss hcheck

/-- An access that its own cache cannot serve. -/
theorem access_miss {k j : ReqKind} (hk : homeRequest k (plineOf s a (addr / 64)).state = some j) :
    access a addr k s = missLine a addr j s := by
  unfold access
  dsimp only
  rw [hcheck]
  dsimp only
  rw [if_neg (by simp [hlive, hdom]), if_neg (by simpa using hmiss), if_neg (by decide)]
  cases hx : (plineOf s a (addr / 64)).state <;> rw [hx] at hk <;> cases k <;> cases hk <;> rfl

/-- A read that its own cache serves. -/
theorem access_hit {k : ReqKind} (hk : k = .readShared ∧ (plineOf s a (addr / 64)).state ≠ .i ∨
    (k = .readUnique ∨ k = .upgrade) ∧ ((plineOf s a (addr / 64)).state = .m ∨ (plineOf s a (addr / 64)).state = .e)) :
    access a addr k s = hitLine a (addr / 64) s := by
  unfold access
  dsimp only
  rw [hcheck]
  dsimp only
  rw [if_neg (by simp [hlive, hdom]), if_neg (by simpa using hmiss), if_neg (by decide)]
  obtain ⟨rfl, hx⟩ | ⟨rfl | rfl, hx | hx⟩ := hk
  · cases hstate : (plineOf s a (addr / 64)).state with
    | i => exact absurd hstate hx
    | _ => rfl
  all_goals rw [hx]

/-- A line that its own cache may write is zeroed there (R188). -/
theorem access_zero (hx : (plineOf s a (addr / 64)).state = .m ∨ (plineOf s a (addr / 64)).state = .e) :
    access a addr .zeroUnique s =
      hitLine a (addr / 64) (setPline a (addr / 64) { plineOf s a (addr / 64) with state := .m, data := 0 } s) := by
  unfold access
  dsimp only
  rw [hcheck]
  dsimp only
  rw [if_neg (by simp [hlive, hdom]), if_neg (by simpa using hmiss), if_neg (by decide)]
  rcases hx with hx | hx <;> rw [hx]

end

/-- An access to a line that a miss of its core's cache is filling waits for the fill. -/
theorem access_waits {a addr : Nat} {k : ReqKind} {s : State} (hlive : agentLive s a = true) (hdom : inDomain (addr / 64) = true)
    (hcore : isCore a = true) (hmiss : (pcacheOf s a).miss = some (addr / 64)) :
    access a addr k s = setPcache a { pcacheOf s a with waits := (pcacheOf s a).waits ++ [(addr, k)] } s := by
  unfold access
  dsimp only
  rw [if_neg (by simp [hlive, hdom]), if_pos ⟨hcore, hmiss⟩]

/-- An error that the check of a line finds ends the access. -/
theorem access_error {a addr : Nat} {k : ReqKind} {s t : State} (hlive : agentLive s a = true) (hdom : inDomain (addr / 64) = true)
    (hmiss : (pcacheOf s a).miss ≠ some (addr / 64)) (hcheck : checkLine a (addr / 64) s = (t, false)) : access a addr k s = t := by
  unfold access
  dsimp only
  rw [hcheck]
  dsimp only
  rw [if_neg (by simp [hlive, hdom]), if_neg (fun h => hmiss h.2)]
  exact if_pos rfl

/-- A line that the cache of an agent that is no core does not hold is asked of its home. -/
theorem missLine_request {a addr : Nat} {k : ReqKind} {s : State} (hcore : isCore a = false) :
    missLine a addr k s = request a addr k s := if_pos (by rw [hcore]; rfl)

/-- A home takes up a request that nothing is ahead of (R450). -/
theorem request_accepted {a addr : Nat} {k : ReqKind} {s t : State} (hup : getF s HC_STATUS HC_STATUS_DIR_UP = 1)
    (hlive : agentLive s a = true) (hdom : inDomain (addr / 64) = true) (hbusy : busyOf s (addr / 64) = none)
    (hahead : (s.hc.waiting.any fun w => w.2.1 / 64 == addr / 64) = false) (ht : accept a addr k s = some t) :
    request a addr k s = t := by
  unfold request
  rw [if_neg (by simp [hup, hlive, hdom])]
  dsimp only
  rw [hahead, hbusy, if_neg (by decide), ht]
  rfl

/-- A request to a busy line waits (R450). -/
theorem request_waits {a addr : Nat} {k : ReqKind} {s : State} (hup : getF s HC_STATUS HC_STATUS_DIR_UP = 1)
    (hlive : agentLive s a = true) (hdom : inDomain (addr / 64) = true) (hbusy : busyOf s (addr / 64) ≠ none) :
    request a addr k s = { s with hc := { s.hc with waiting := s.hc.waiting ++ [(a, addr, k)] } } := by
  unfold request
  rw [if_neg (by simp [hup, hlive, hdom])]
  exact if_pos (by simp [Option.isSome_iff_ne_none.mpr hbusy])

end Sys2Proof.Machine

namespace Sys2Proof
open Machine

/-- Settles O27: the check of the line, its state in the agent's cache and what is ahead of it at its home choose. -/
theorem coherenceRequestsTakeEffect : Obligations.CoherenceRequestsTakeEffect := by
  intro agent addr s
  dsimp only
  generalize ha : agent.toNat = a
  generalize hl : addr.toNat / 64 = l
  refine ⟨fun hlive hdom => ⟨fun hp hsound => ?_, fun hp hsound => ?_, fun hcore hmiss hp herr => ?_,
    fun hcore hmiss i k hi => ?_, fun hcore hp i k hi => ?_⟩, fun i k hi hcore hopen => ?_, fun i k hi hopen => ?_⟩
  all_goals subst hl
  · rw [← access_hit hlive hdom (fun h => (hsound h).1) (checkLine_sound fun h => .inr (hsound h).2) (.inl ⟨rfl, hp⟩), ← ha]
    rfl
  · have hmiss := fun h => (hsound h).1
    have hcheck := checkLine_sound fun h => .inr (hsound h).2
    rw [← access_zero hlive hdom hmiss hcheck hp]
    refine ⟨?_, ?_, by rw [← ha]; rfl⟩
    · rw [← access_hit hlive hdom hmiss hcheck (.inr ⟨.inl rfl, hp⟩), ← ha]
      rfl
    · rw [← access_hit hlive hdom hmiss hcheck (.inr ⟨.inr rfl, hp⟩), ← ha]
      rfl
  · have hcheck : checkLine a (addr.toNat / 64) s =
        (cacheError (a - 128) (addr.toNat / 64) (s.upsets.contains (.tag (a - 128) (addr.toNat / 64))) s, false) := by
      unfold checkLine
      dsimp only
      rw [if_neg (by simp [hcore, hp])]
      obtain ⟨htag, hdirty⟩ | ⟨htag, hdata⟩ := herr
      · rw [htag, if_pos rfl, hdirty]
        rfl
      · rw [htag, if_neg (by decide), if_pos hdata]
    rw [← access_error (k := .readShared) hlive hdom hmiss hcheck, ← ha]
    rfl
  · rw [← access_waits hlive hdom hcore hmiss, ← ha]
    obtain ⟨rfl, rfl⟩ | ⟨rfl, rfl⟩ | ⟨rfl, rfl⟩ | ⟨rfl, rfl⟩ := hi <;> rfl
  · have hmissed : (pcacheOf s a).miss ≠ some (addr.toNat / 64) → exec i s = .next (missLine a addr.toNat k s) := fun hmiss => by
      have hcheck := checkLine_sound (s := s) (a := a) (l := addr.toNat / 64) fun _ => .inl hp
      have hexec : exec i s = .next (access a addr.toNat k s) ∧ homeRequest k (plineOf s a (addr.toNat / 64)).state = some k := by
        rw [hp, ← ha]
        obtain ⟨rfl, rfl⟩ | ⟨rfl, rfl⟩ | ⟨rfl, rfl⟩ | ⟨rfl, rfl⟩ := hi <;> exact ⟨rfl, rfl⟩
      exact hexec.1.trans (congrArg _ (access_miss hlive hdom (fun _ => hmiss) hcheck hexec.2))
    refine ⟨fun hcaches hmiss => ?_, fun hcaches x hmiss hx => ?_, fun hcaches hmiss => ?_⟩
    · simp [hmissed (by simp [hmiss]), missLine, hcore, hcaches, hmiss]
    · simp [hmissed (by simpa [hmiss] using hx), missLine, hcore, hcaches, hmiss]
    · simp [hmissed hmiss, missLine, hcore, hcaches]
  · obtain ⟨hup, hlive, hdom⟩ := hopen
    have hasked : exec i s = .next (request a addr.toNat k s) := by
      obtain ⟨j, hexec, hk⟩ : ∃ j, exec i s = .next (access a addr.toNat j s) ∧
          homeRequest j (plineOf s a (addr.toNat / 64)).state = some k := by
        obtain ⟨rfl, rfl, hp⟩ | ⟨rfl, ⟨rfl, hp⟩ | ⟨rfl, hp | hp⟩⟩ | ⟨rfl, rfl, hm, he⟩ | ⟨rfl, rfl, hm, he⟩ := hi
        · exact ⟨.readShared, by rw [← ha]; rfl, by rw [hp]; rfl⟩
        · exact ⟨.readUnique, by rw [← ha]; rfl, by rw [hp]; rfl⟩
        · exact ⟨.readUnique, by rw [← ha]; rfl, by rw [hp]; rfl⟩
        · exact ⟨.readUnique, by rw [← ha]; rfl, by rw [hp]; rfl⟩
        · exact ⟨.upgrade, by rw [← ha]; rfl, by cases h : (plineOf s a (addr.toNat / 64)).state <;> simp_all [homeRequest]⟩
        · exact ⟨.zeroUnique, by rw [← ha]; rfl, by cases h : (plineOf s a (addr.toNat / 64)).state <;> simp_all [homeRequest]⟩
      rw [hexec, access_miss hlive hdom (by simp [hcore]) (checkLine_sound (by simp [hcore])) hk, missLine_request hcore]
    exact ⟨fun t ⟨hbusy, hahead⟩ ht => hasked.trans (congrArg _ (request_accepted hup hlive hdom hbusy hahead ht)),
      fun hbusy => hasked.trans (congrArg _ (request_waits hup hlive hdom hbusy))⟩
  · obtain ⟨hup, hlive, hdom⟩ := hopen
    have hasked : exec i s = .next (request a addr.toNat k s) := by
      obtain ⟨r, rfl, rfl, hr⟩ | ⟨rfl, rfl⟩ | ⟨rfl, rfl⟩ | ⟨rfl, rfl⟩ := hi
      · simp [atomic_exec, execAtomic, hr, ha]
      all_goals rw [← ha]; rfl
    exact ⟨fun t ⟨hbusy, hahead⟩ ht => hasked.trans (congrArg _ (request_accepted hup hlive hdom hbusy hahead ht)),
      fun hbusy => hasked.trans (congrArg _ (request_waits hup hlive hdom hbusy))⟩

end Sys2Proof
end

section
/-! Coherence responses (R451, R452, R454). -/

namespace Sys2Proof
open Machine

/-- Settles O28: the first message that fits is the one taken. -/
theorem coherenceResponsesTakeEffect : Obligations.CoherenceResponsesTakeEffect := by
  intro agent addr s
  dsimp only
  generalize ha : agent.toNat = a
  generalize hl : addr.toNat / 64 = l
  refine ⟨fun m rest hm hline hholder hans => ?_, fun m x b rest hm hline hholder hans hb => ?_, fun b d hb hagent hsn hdel hd => ?_,
    fun b hb hagent hdel => ?_, fun hup hp w rest i hw hline hi => ?_, fun k rest hk => ?_⟩
  · refine ⟨fun h => ?_, fun h h' => ?_, fun h => ?_⟩ <;>
      simp [snpShared_exec, snpUnique_exec, snpInval_exec, execSnpShared, execSnpUnique, execSnpInval, snoopRow, *]
  · simp [snpResp_exec, execSnpResp, ha, hl, hm, hline, hholder, hans, hb]
  · simp [data_exec, execData, ha, hl, hb, hagent, hsn, hdel, hd]
  · simp [compAck_exec, execCompAck, ha, hl, hb, hagent, hdel]
  · have hrow : exec i s = .next (wbRow a addr.toNat w.was.dirty s) := by
      obtain ⟨rfl, hd⟩ | ⟨rfl, hd⟩ := hi <;> rw [hd, ← ha] <;> rfl
    have hevict : evictLine a l w.was.dirty s = s := if_pos (.inl hp)
    have hfound : (pcacheOf s a).wb.find? (fun x => x.line == l && x.was.dirty == w.was.dirty) = some w := by
      rw [hw, List.find?_cons_of_pos (by simp [hline])]
    rw [hrow]
    simp only [wbRow, hl, hup, hevict, hfound]
    exact ⟨fun hb hwait => by simp [hb, hwait], fun hb hnew => by
      rw [if_neg (by decide), if_neg (by simp [hb]), if_neg (by rw [hnew]; decide)]⟩
  · simp [wbAck_exec, execWbAck, ha, hl, hk]

end Sys2Proof
end

section
/-! A cold read (R449, R450, R452). -/

namespace Sys2Proof.Machine
open Sys2Proof

/-- A read after a write of a value that is not the default, whatever the form of the map. -/
theorem Assoc.get_put_of_ne {α : Type} [DecidableEq α] {d : Nat → α} {m : Assoc α} {k : Nat} {v : α} (hv : v ≠ d k) (j : Nat) :
    Assoc.get d (Assoc.put d m k v) j = if j = k then v else Assoc.get d m j := by
  induction m with
  | nil =>
    simp only [Assoc.put, if_neg hv, Assoc.get]
    split <;> simp
  | cons e r ih =>
    simp only [Assoc.put, if_neg hv]
    split
    · rename_i hk
      subst hk
      simp only [Assoc.get]
      split <;> simp
    · split
      · simp only [Assoc.get]
        grind
      · simp only [Assoc.get]
        grind

/-- The entry that a directory without entries makes for a line (R453). -/
def freshEntry (s : State) : DirEntry := { DirEntry.none with present := true, stamp := s.tick }

theorem dirEnsure_reset {l : Nat} {s : State} (hhc : s.hc = HostComplex.reset) :
    dirEnsure l s = some (advance (setDir l (freshEntry s) s)) := by
  simp [dirEnsure, dirOf, dirSet, hhc, HostComplex.reset, Assoc.get, DirEntry.none, freshEntry]

theorem dirOf_fresh {l : Nat} {s : State} (hhc : s.hc = HostComplex.reset) :
    dirOf (advance (setDir l (freshEntry s) s)) l = freshEntry s := by
  simp [dirOf, advance, setDir, hhc, HostComplex.reset, Assoc.put, Assoc.get, freshEntry, DirEntry.none]

theorem noteRead_hc (x n : Nat) (s : State) : (noteRead x n s).hc = s.hc := by
  unfold noteRead
  (repeat' split) <;> rfl

theorem nearK_congr {s t : State} (hregs : t.regs = s.regs) : nearK t = nearK s := by
  rw [nearK, nearK, getF, getF, getReg, getReg, hregs]

theorem stackOf_congr {s t : State} (hdies : t.stackDies = s.stackDies) (k : Nat) : stackOf t k = stackOf s k :=
  congrArg (fun m => Assoc.get (fun _ => Stack.reset) m k) hdies

theorem channelLost_congr {s t : State} (hdies : t.stackDies = s.stackDies) (hregs : t.regs = s.regs) (x : Nat) :
    channelLost t x = channelLost s x := by
  unfold channelLost
  rw [nearK_congr hregs]
  obtain ⟨k, c⟩ := sectorChannel (nearK s) x
  dsimp only
  rw [hdies, stackOf_congr hdies]

theorem poisoned_congr {s t : State} (hpoison : t.poison = s.poison) (hdies : t.stackDies = s.stackDies) (hregs : t.regs = s.regs)
    (a n : Nat) : poisoned t a n = poisoned s a n := by
  rw [poisoned, poisoned, hpoison]
  simp only [channelLost_congr hdies hregs]

theorem tgtOf_congr {s t : State} (hcores : t.cores = s.cores) (hregs : t.regs = s.regs) (a : Nat) : tgtOf t a = tgtOf s a := by
  have hcore : ∀ n, coreOf t n = coreOf s n := fun n => by rw [coreOf, coreOf, hcores]
  have hvariant : getF t ID_DEVICE ID_DEVICE_VARIANT = getF s ID_DEVICE ID_DEVICE_VARIANT := by rw [getF, getF, getReg, getReg, hregs]
  unfold tgtOf
  rw [nearK_congr hregs, hvariant]
  simp only [hcore]

theorem noteRead_mem (x n : Nat) (s : State) : (noteRead x n s).mem = s.mem := by
  unfold noteRead
  (repeat' split) <;> rfl

theorem memLine_congr {s t : State} (hmem : t.mem = s.mem) (hpoison : t.poison = s.poison) (hdies : t.stackDies = s.stackDies)
    (hregs : t.regs = s.regs) (l : Nat) : memLine t l = memLine s l := by
  rw [memLine, memLine, poisoned_congr hpoison hdies hregs, readMem, readMem]
  simp only [memByte, hmem]

/-- The home takes up the read of a line that nobody holds. -/
theorem access_cold {a addr : Nat} {s : State} (ha : a < 96) (hdom : inDomain (addr / 64) = true)
    (hup : getF s HC_STATUS HC_STATUS_DIR_UP = 1) (hhc : s.hc = HostComplex.reset) :
    access a addr .readShared s = setBusy ⟨addr / 64, addr, a, .readShared, .e, some (memLine s (addr / 64)), [], false, false⟩
      (setDir (addr / 64) { freshEntry s with state := .e, owner := a }
        (noteRead (64 * (addr / 64)) 64 (advance (setDir (addr / 64) (freshEntry s) s)))) := by
  have hcore : isCore a = false := by simp [isCore]; omega
  have hlive : agentLive s a = true := by simp [agentLive, agentOk, ha]; omega
  have hline : (plineOf s a (addr / 64)).state = .i := by simp [plineOf, pcacheOf, hhc, HostComplex.reset, Assoc.get, PCache.empty, PLine.none]
  rw [access_miss hlive hdom (by simp [hcore]) (checkLine_sound (by simp [hcore])) (by rw [hline]; rfl), missLine_request hcore]
  refine request_accepted hup hlive hdom (by simp [busyOf, hhc, HostComplex.reset]) (by simp [hhc, HostComplex.reset]) ?_
  have hown : ownBuffer a (addr / 64) s = none := by simp [ownBuffer, pcacheOf, hhc, HostComplex.reset, Assoc.get, PCache.empty]
  have hl3 : ∀ l, l3Of (advance (setDir (addr / 64) (freshEntry s) s)) l = none := fun l => by
    simp [l3Of, advance, setDir, hhc, HostComplex.reset, Assoc.get]
  have hmem : memLine (advance (setDir (addr / 64) (freshEntry s) s)) (addr / 64) = memLine s (addr / 64) :=
    memLine_congr (by simp) (by simp) (by simp) (by simp) _
  have hnote : ∀ l, l3Of (noteRead (64 * (addr / 64)) 64 (advance (setDir (addr / 64) (freshEntry s) s))) l = none := fun l => by
    rw [l3Of, noteRead_hc]
    exact hl3 l
  have hdir : dirOf (noteRead (64 * (addr / 64)) 64 (advance (setDir (addr / 64) (freshEntry s) s))) (addr / 64) = freshEntry s := by
    rw [dirOf, noteRead_hc]
    exact dirOf_fresh hhc
  have hkind : ReqKind.readShared.unique = false := rfl
  have hread : (ReqKind.readShared == ReqKind.readShared) = true := rfl
  have hwb : ¬ ReqKind.readShared = ReqKind.wb := by decide
  unfold accept
  simp only [hown, if_neg hwb, hkind, Bool.false_and, Bool.false_eq_true, if_false, hread, Bool.false_or, Bool.not_false,
    Bool.and_self, if_true, dirEnsure_reset hhc, Option.map_some, dirOf_fresh hhc]
  show some (settled addr ⟨addr / 64, addr, a, .readShared, .e, none, [], false,
    (plineOf s a (addr / 64)).state.dirty && false && true⟩ (advance (setDir (addr / 64) (freshEntry s) s))) = _
  simp [settled, hl3, hnote, noteHome, touchL3, grantDir, homeData, hmem, hdir]
  rfl

/-- An entry made in a directory that held one entry, and the transaction that makes it. -/
theorem setBusy_setDir_reset {l : Nat} {d e : DirEntry} {b : Busy} {n : State} (he : e ≠ DirEntry.none)
    (hn : n.hc = { HostComplex.reset with dir := [(l, d)] }) :
    setBusy b (setDir l e n) = { n with hc := { HostComplex.reset with dir := [(l, e)], busy := [b] } } := by
  simp [setBusy, setDir, hn, HostComplex.reset, Assoc.put, he]

/-- STK_ECC says that poison was read (R366), whatever the form of the registers' map. -/
theorem getF_poisonRead {k : Nat} (hk : k < 12) (s : State) :
    getF (setF (STK_ECC k) STK_ECC_POISON_READ 1 s) (STK_ECC k) STK_ECC_POISON_READ = 1 := by
  have hreset : regReset (STK_ECC k) = 0 := by
    interval_cases k <;> decide
  have hw : (Assoc.get regReset s.regs (STK_ECC k)).toNat < 2 ^ 64 := (Assoc.get regReset s.regs (STK_ECC k)).isLt
  have hword : (BitVec.ofNat 64 (setBits (getReg s (STK_ECC k)) 2 2 1)).toNat = setBits (getReg s (STK_ECC k)) 2 2 1 := by
    rw [BitVec.toNat_ofNat, Nat.mod_eq_of_lt]
    simp only [setBits, bits, getReg]
    omega
  have hbit : setBits (getReg s (STK_ECC k)) 2 2 1 / 4 % 2 = 1 := by
    simp only [setBits, bits]
    omega
  have hne : BitVec.ofNat 64 (setBits (getReg s (STK_ECC k)) 2 2 1) ≠ regReset (STK_ECC k) := fun h => by
    rw [h, hreset] at hword
    rw [← hword] at hbit
    exact absurd hbit (by decide)
  rw [getF, getReg, setF, setReg, STK_ECC_POISON_READ]
  dsimp only
  rw [Assoc.get_put_of_ne hne, if_pos rfl, hword]
  exact hbit

/-- A stack address lies in one of the twelve stacks (R361 to R363). -/
theorem stackPlace_lt (k a : Nat) : (stackPlace k a).1 < 12 := by
  unfold stackPlace
  split
  · rename_i h
    have : a / (24 * k * gib) < 4 := Nat.div_lt_of_lt_mul (by linarith)
    dsimp only
    omega
  · exact Nat.mod_lt _ (by decide)

theorem stack_lt_of_tgtOf {s : State} {a k : Nat} (h : tgtOf s a = .stack k) : k < 12 := by
  unfold tgtOf at h
  dsimp only at h
  split at h
  · cases h
    exact stackPlace_lt _ _
  · (repeat' split at h) <;> cases h

/-- The entry of a cold read at its home, and the line it grants. -/
def coldBusy (a addr : Nat) (s : State) (delivered : Bool) : Busy :=
  ⟨addr / 64, addr, a, .readShared, .e, some (memLine s (addr / 64)), [], delivered, false⟩

def coldLine (addr : Nat) (s : State) : PLine := ⟨.e, memLine s (addr / 64), false, 0⟩

/-- The data of a cold read reaches the reader. -/
theorem installLine_cold {a addr : Nat} {s t : State} (hcore : isCore a = false) :
    installLine (coldBusy a addr s false) (memLine s (addr / 64)) t =
      setBusy (coldBusy a addr s true) (setPline a (addr / 64) (coldLine addr s) t) := by
  simp only [installLine, wayFor, coldBusy, coldLine, hcore, Bool.not_false, if_true]
  exact (if_neg (not_and_of_not_left _ (by decide))).trans (by rw [if_neg (by decide)])

theorem exec_data_cold {agent : BitVec 9} {addr : BitVec 48} {s t : State} (hcore : isCore agent.toNat = false)
    (hbusy : busyOf t (addr.toNat / 64) = some (coldBusy agent.toNat addr.toNat s false)) :
    exec (.data agent addr) t = .next (setBusy (coldBusy agent.toNat addr.toNat s true)
      (setPline agent.toNat (addr.toNat / 64) (coldLine addr.toNat s) t)) := by
  simp only [data_exec, execData, hbusy]
  exact (if_pos ⟨rfl, rfl, rfl⟩).trans (congrArg _ (installLine_cold hcore))

/-- CompAck, where no request waits. -/
theorem exec_compAck_alone {agent : BitVec 9} {addr : BitVec 48} {b : Busy} {t : State} (hbusy : busyOf t (addr.toNat / 64) = some b)
    (hagent : b.agent = agent.toNat) (hdelivered : b.delivered = true) (hwaiting : t.hc.waiting = []) :
    exec (.compAck agent addr) t = .next (freeLine b.line t) := by
  simp only [compAck_exec, execCompAck, hbusy]
  refine (if_pos ⟨hagent, hdelivered⟩).trans (congrArg Host.Outcome.next ?_)
  rw [pump, show (freeLine b.line t).hc.waiting = [] from hwaiting]
  rfl

end Sys2Proof.Machine

namespace Sys2Proof
open Machine

/-- Settles O29: request, data and CompAck of a host core's read, one after the other. -/
theorem aColdReadEndsExclusive : Obligations.AColdReadEndsExclusive := by
  intro agent addr s
  dsimp only
  generalize ha : agent.toNat = a
  intro hlt hdom hup hhc
  have hcore : isCore a = false := by simp [isCore]; omega
  generalize hl : addr.toNat / 64 = l at hdom ⊢
  generalize hx : advance (setDir l (freshEntry s) s) = x
  have hxhc : x.hc = { HostComplex.reset with dir := [(l, freshEntry s)] } := by
    rw [← hx]
    simp [setDir, hhc, HostComplex.reset, Assoc.put, freshEntry, DirEntry.none]
  have hregs : x.regs = s.regs := by rw [← hx]; rfl
  have hpoison : poisoned x (64 * l) 64 = poisoned s (64 * l) 64 :=
    poisoned_congr (by rw [← hx]; rfl) (by rw [← hx]; rfl) hregs _ _
  have htgt : tgtOf x (64 * l) = tgtOf s (64 * l) := tgtOf_congr (by rw [← hx]; rfl) hregs _
  let e : DirEntry := { freshEntry s with state := .e, owner := a }
  let n := noteRead (64 * l) 64 x
  let t : State := { n with hc := { HostComplex.reset with dir := [(l, e)], busy := [coldBusy a addr.toNat s false] } }
  let c : PCache := { PCache.empty with lines := [(l, coldLine addr.toNat s)] }
  let u : State := { t with hc := { t.hc with caches := [(a, c)], busy := [coldBusy a addr.toNat s true] } }
  refine ⟨t, u, { u with hc := { u.hc with busy := [] } }, ?_, ?_, ?_, ?_, rfl, ?_, ?_, ?_, fun b m hbm => ?_, ?_, fun hp => ?_,
    fun k hk hp => ?_⟩
  · show Host.Outcome.next (access agent.toNat addr.toNat .readShared s) = _
    have hb : coldBusy a addr.toNat s false = ⟨l, addr.toNat, a, .readShared, .e, some (memLine s l), [], false, false⟩ := by
      rw [coldBusy, hl]
    rw [ha, access_cold hlt (hl ▸ hdom) hup hhc, hl, hx, ← hb]
    exact congrArg Host.Outcome.next (setBusy_setDir_reset (e := e) (fun h => nomatch congrArg DirEntry.state h) ((noteRead_hc _ _ x).trans hxhc))
  · rw [exec_data_cold (s := s) (ha ▸ hcore) (by simp [busyOf, t, coldBusy, ha, hl] : busyOf t (addr.toNat / 64) = _), ha]
    simp [setBusy, setPline, setPcache, pcacheOf, t, u, c, coldBusy, coldLine, Assoc.get, Assoc.put, PCache.empty, PLine.none,
      HostComplex.reset, hl]
  · rw [exec_compAck_alone (b := coldBusy a addr.toNat s true) (by simp [busyOf, u, coldBusy]) (by rw [ha]; rfl) rfl rfl]
    simp [freeLine, u, t, coldBusy, HostComplex.reset]
  · simp [plineOf, pcacheOf, u, c, coldLine, Assoc.get, hl]
  · simp [dirOf, u, t, e, Assoc.get]
  · simp [dirOf, u, t, e, Assoc.get]
  · simp [dirOf, u, t, e, Assoc.get, freshEntry, DirEntry.none, DirEntry.all]
  · have hother : (pcacheOf { u with hc := { u.hc with busy := [] } } b).lines = if b = a then [(l, coldLine addr.toNat s)] else [] := by
      simp only [pcacheOf, u, c, Assoc.get]
      split <;> simp [PCache.empty]
    rw [plineOf, hother]
    split
    · rename_i hb
      have hm : m ≠ l := fun h => hbm (by rw [hb, h])
      simp [Assoc.get, hm]
    · rfl
  · exact (noteRead_mem _ _ x).trans (by rw [← hx]; rfl)
  · exact (congrArg State.regs (if_pos (by rw [hpoison, hp]; rfl) : n = x)).trans hregs
  · have hn : n = setF (STK_ECC k) STK_ECC_POISON_READ 1 x := by
      show noteRead (64 * l) 64 x = _
      rw [noteRead, hpoison, hp, htgt, hk]
      rfl
    show getF n (STK_ECC k) STK_ECC_POISON_READ = 1
    rw [hn]
    exact getF_poisonRead (stack_lt_of_tgtOf hk) x

end Sys2Proof
end

section
/-! Atomics at a base die (R372, R373). -/

namespace Sys2Proof.Machine
open Sys2Proof

theorem length_leBytes (n v : Nat) : (leBytes n v).length = n := by
  induction n generalizing v with
  | zero => rfl
  | succ n ih => rw [leBytes, List.length_cons, ih]

/-- What a store has written reads back. -/
theorem readMem_writeMem_same {s : State} (hwf : Memory.wf s.mem = true) (a : Nat) (bs : List Byte) :
    readMem (writeMem a bs s) a bs.length = bs := by
  refine List.ext_getElem (by simp [readMem]) fun i hi hlen => ?_
  simp only [readMem, List.getElem_map, List.getElem_range, memByte_writeMem hwf]
  rw [if_pos (by omega), Nat.add_sub_cancel_left, List.getD_eq_getElem _ _ hlen]

theorem signedOf_toNat (v : BitVec 64) : signedOf 64 v.toNat = v.toInt := by
  have := v.isLt
  simp only [signedOf, BitVec.toInt]
  split <;> split <;> omega

/-- What a 64-bit operation of Table 12-2 works on: its own operand, whole. -/
theorem atSize_wide (op : AtomicOp) (v : BitVec 64) : 8 * atSize ⟨op, true, v⟩ = 64 := rfl

end Sys2Proof.Machine

namespace Sys2Proof
open Machine

/-- Settles O30: the store of the new word, and Table 12-2 operation by operation. -/
theorem baseDieAtomicsReadModifyWrite : Obligations.BaseDieAtomicsReadModifyWrite := by
  refine ⟨fun addr r k s => ?_, fun old v x => ?_⟩
  · intro a old hwf htgt halign href hplace hsound
    refine ⟨result 511 old (atApply r old).2 (writeMem a (leBytes (atSize r) (atApply r old).1) s), ?_, ?_, fun x hx => ?_, ?_, ?_⟩
    · have hatomic : baseAtomic 511 a r s = result 511 old (atApply r old).2 (writeMem a (leBytes (atSize r) (atApply r old).1) s) := by
        rw [baseAtomic, hplace]
        exact if_neg (by rw [show placePoison s (.mem a none) (atSize r) = poisoned s a (atSize r) from rfl, hsound]; decide)
      simp only [baseDieAtomic_exec, execBaseDieAtomic]
      rw [htgt]
      exact (if_pos ⟨halign, by rw [href]; rfl⟩).trans (congrArg _ hatomic)
    · have hread := readMem_writeMem_same hwf a (leBytes (atSize r) (atApply r old).1)
      rw [length_leBytes] at hread
      exact hread
    · refine (memByte_writeMem hwf a _ x).trans (if_neg ?_)
      rw [length_leBytes]
      omega
    · exact congrArg (· ++ _) (congrArg HostComplex.results (writeMem_hc a _ s))
    · obtain ⟨d, hd⟩ := writeMem_eq a (leBytes (atSize r) (atApply r old).1) s
      rw [hd]
      rfl
  · have hv : v.toNat % 2 ^ 64 = v.toNat := Nat.mod_eq_of_lt v.isLt
    have hx : x.toNat % 2 ^ 64 = x.toNat := Nat.mod_eq_of_lt x.isLt
    simp only [atApply, atSize_wide, hv, hx, signedOf_toNat, BitVec.toNat_add, BitVec.toNat_and, BitVec.toNat_or, BitVec.toNat_xor,
      BitVec.slt_iff_toInt_lt, BitVec.ult_iff_toNat_lt, BitVec.toNat_inj, true_and]
    simp only [apply_ite BitVec.toNat, Prod.mk.injEq, and_true, true_and]
    exact ⟨by split <;> omega, by split <;> omega⟩

end Sys2Proof
end

section
/-! The bell and the edge of a period: fields of words, budgets and pages (chapter 10). -/

namespace Sys2Proof
open Machine

/-! ### Fields of a word -/

/-- A word with a field set, part by part: above the field, the field, below it. -/
theorem setBits_eq (w hi lo v : Nat) :
    setBits w hi lo v = 2 ^ lo * (2 ^ (hi + 1 - lo) * (w / 2 ^ lo / 2 ^ (hi + 1 - lo)) + v % 2 ^ (hi + 1 - lo)) + w % 2 ^ lo := by
  have hlow := Nat.div_add_mod w (2 ^ lo)
  have hhigh := Nat.div_add_mod (w / 2 ^ lo) (2 ^ (hi + 1 - lo))
  unfold setBits bits
  generalize w / 2 ^ lo / 2 ^ (hi + 1 - lo) = a at *
  generalize w / 2 ^ lo % 2 ^ (hi + 1 - lo) = b at *
  generalize v % 2 ^ (hi + 1 - lo) = c
  generalize w % 2 ^ lo = d at *
  rw [← hhigh] at hlow
  have : w = 2 ^ lo * (2 ^ (hi + 1 - lo) * a) + b * 2 ^ lo + d := by rw [← hlow]; ring
  rw [this, Nat.add_right_comm, Nat.add_sub_cancel]
  ring

theorem bits_setBits_same (w hi lo v : Nat) : bits (setBits w hi lo v) hi lo = v % 2 ^ (hi + 1 - lo) := by
  rw [setBits_eq, bits, Nat.mul_add_div (Nat.two_pow_pos lo), Nat.div_eq_of_lt (Nat.mod_lt _ (Nat.two_pow_pos lo)), Nat.add_zero,
    Nat.mul_add_mod, Nat.mod_mod]

/-- A field below the one set. -/
theorem bits_setBits_below {w hi lo h l : Nat} (hbelow : h < lo) (v : Nat) :
    bits (setBits w hi lo v) h l = bits w h l := by
  have hmod : setBits w hi lo v % 2 ^ lo = w % 2 ^ lo := by
    rw [setBits_eq, Nat.mul_add_mod, Nat.mod_mod]
  have hfield : ∀ x, bits x h l = x % 2 ^ lo % 2 ^ (l + (h + 1 - l)) / 2 ^ l ∨ h + 1 < l := fun x => by
    refine (le_or_gt l (h + 1)).imp (fun hl => ?_) id
    rw [Nat.mod_mod_of_dvd _ (Nat.pow_dvd_pow 2 (by omega)), Nat.pow_add, Nat.mod_mul_right_div_self, bits]
  obtain hx | hl := hfield (setBits w hi lo v)
  · obtain hw | hl := hfield w
    · rw [hx, hw, hmod]
    · simp [bits, Nat.sub_eq_zero_of_le hl.le, Nat.mod_one]
  · simp [bits, Nat.sub_eq_zero_of_le hl.le, Nat.mod_one]

/-- A field above the one set. -/
theorem bits_setBits_above {w hi lo h l : Nat} (hle : lo ≤ hi) (habove : hi < l) (v : Nat) :
    bits (setBits w hi lo v) h l = bits w h l := by
  have hdiv : setBits w hi lo v / 2 ^ (hi + 1) = w / 2 ^ (hi + 1) := by
    have hpow : 2 ^ (hi + 1) = 2 ^ lo * 2 ^ (hi + 1 - lo) := by rw [← Nat.pow_add]; congr 1; omega
    rw [hpow, ← Nat.div_div_eq_div_mul, ← Nat.div_div_eq_div_mul, setBits_eq, Nat.mul_add_div (Nat.two_pow_pos lo),
      Nat.div_eq_of_lt (Nat.mod_lt _ (Nat.two_pow_pos lo)), Nat.add_zero, Nat.mul_add_div (Nat.two_pow_pos _),
      Nat.div_eq_of_lt (Nat.mod_lt _ (Nat.two_pow_pos _)), Nat.add_zero]
  have hl : 2 ^ l = 2 ^ (hi + 1) * 2 ^ (l - (hi + 1)) := by rw [← Nat.pow_add]; congr 1; omega
  rw [bits, bits, hl, ← Nat.div_div_eq_div_mul, ← Nat.div_div_eq_div_mul, hdiv]

end Sys2Proof

namespace Sys2Proof.Machine
open Sys2Proof

/-! ### Budgets -/

theorem budgetOf_putBudget (x : Ctx) (cls : Nat) (b : Budget) : budgetOf (putBudget x cls b) cls = b := by
  match cls with
  | 0 | 1 | 2 | 3 => rfl
  | _ + 4 => rfl

theorem localBal_put {b : Budget} (hwf : Assoc.wf (fun _ => (0 : Int)) b.locals = true) (core k : Nat) (v : Int) :
    localBal { b with locals := Assoc.put (fun _ => (0 : Int)) b.locals core v } k = if k = core then v else localBal b k :=
  Assoc.get_put hwf k

/-- What a draw takes of the pool (R315). -/
def drawnBlock (cls n : Nat) (b : Budget) : Nat := min b.pool (max (ceilDiv (b.eff / granule cls) 64 * granule cls) n)

theorem pool_drawBlock (cls core n : Nat) (b : Budget) : (drawBlock cls core n b).pool = b.pool - drawnBlock cls n b := rfl

theorem localBal_drawBlock {cls core n : Nat} {b : Budget} (hwf : Assoc.wf (fun _ => (0 : Int)) b.locals = true) (k : Nat) :
    localBal (drawBlock cls core n b) k = if k = core then localBal b core + drawnBlock cls n b else localBal b k :=
  Assoc.get_put hwf k

/-- A budget whose core has drawn what it needs: pool and balances together hold what they held. -/
theorem drawn_spec {cls core n : Nat} {b : Budget} (hwf : Assoc.wf (fun _ => (0 : Int)) b.locals = true) :
    let b1 := if (n : Int) ≤ localBal b core then b else drawBlock cls core n b
    Assoc.wf (fun _ => (0 : Int)) b1.locals = true ∧ (b1.pool : Int) + localBal b1 core = b.pool + localBal b core ∧
      (∀ k, k ≠ core → localBal b1 k = localBal b k) ∧
      (localBal b1 core < n → 0 ≤ localBal b core → b1.pool = 0) := by
  dsimp only
  split
  · exact ⟨hwf, rfl, fun _ _ => rfl, fun h => by omega⟩
  · rename_i hshort
    have hle : drawnBlock cls n b ≤ b.pool := Nat.min_le_left _ _
    refine ⟨Assoc.wf_put hwf, ?_, fun k hk => ?_, fun hlt hnonneg => ?_⟩
    · rw [pool_drawBlock, localBal_drawBlock hwf, if_pos rfl]
      omega
    · rw [localBal_drawBlock hwf, if_neg hk]
    · rw [localBal_drawBlock hwf, if_pos rfl] at hlt
      rw [pool_drawBlock]
      have : drawnBlock cls n b < n := by omega
      simp only [drawnBlock] at this ⊢
      omega

end Sys2Proof.Machine

namespace Sys2Proof
open Machine

/-- Settles O31: what an edge counts is `nextCount`, and what it does after it leaves the count. -/
theorem theBellCountsItsEdges : Obligations.TheBellCountsItsEdges := by
  intro schedule s
  obtain ⟨hbell, hjumped⟩ := exec_bellEdge_bell (s := s) (schedule := schedule) rfl
  refine ⟨_, rfl, fun h => ?_, fun hstate hfirst hahead => ?_, ?_⟩
  · rw [hbell, hjumped]
    obtain hnext | ⟨-, -, hfirst, hstate, hahead⟩ := nextCount_cases schedule.toNat s
    · exact hnext
    · exact absurd h (by simp [hfirst, hstate, hahead])
  · rw [hbell, hjumped, nextCount, if_neg (by simp [hstate, hfirst]),
      if_neg (not_le.mpr (show bellNow s < schedule.toNat from hahead))]
    exact ⟨by simp, rfl⟩
  · have hs1 : (applyStaged (latchAll (measureOffset (advance (nextCount schedule.toNat s))))).bell =
        (nextCount schedule.toNat s).bell := by
      have hsame : ∀ u : State, SameCount u (applyStaged (latchAll (measureOffset (advance u)))) := fun u => by simp
      exact (Prod.mk.inj (hsame (nextCount schedule.toNat s))).1
    have hnow : (bellEdge schedule.toNat s).bell.toNat =
        bellNow (applyStaged (latchAll (measureOffset (advance (nextCount schedule.toNat s))))) := by
      rw [hbell, bellNow, hs1]
    exact (congrArg (fun b => strike (settle (grantBoost (switchEpochs b (refillAll (completeLoads (edgeCtxs
      (applyStaged (latchAll (measureOffset (advance (nextCount schedule.toNat s)))))))))))) hnow).symm

/-- Settles O32: each command in the state that takes it. -/
theorem bellCommandsTakeEffect : Obligations.BellCommandsTakeEffect := by
  intro core s
  refine ⟨fun x cx hctxs hcx => ?_, rfl, fun k hk1 hk3 hpref hsrc hstate => ?_, fun hstate hj => ?_, fun hstate => ?_,
    fun x off v hx hfree h8 h64 => ?_⟩
  · intro u hu
    have hctx : ctxOf s x = cx := by simp [ctxOf, hctxs, Assoc.get]
    simp only [localBalanceReset_exec, execLocalBalanceReset, hctxs, List.foldl_cons, List.foldl_nil, hctx]
    refine congrArg Host.Outcome.next ?_
    simp only [setCtx, hctxs, Assoc.put, if_true]
    rw [if_neg hu]
  · simp only [bellSourceValid_exec, execBellSourceValid, hpref, hsrc]
    rw [if_neg (by simp; omega), if_pos hstate, if_pos (.inl trivial)]
  · exact if_pos ⟨hstate, hj⟩
  · exact if_pos hstate
  · have hx0 : x.toNat ≠ 0 := fun h => hx (BitVec.eq_of_toNat_eq h)
    refine ⟨_, if_neg (by simp [hx0, hfree, h8]; omega), rfl, ?_⟩
    rw [bits_setBits_same]
    exact Nat.mod_eq_of_lt (lt_of_lt_of_eq v.isLt (congrArg (2 ^ ·) (by omega)))

/-- Settles O33: the sums of a refill, the words of a page and the balances of a charge. -/
theorem theEdgeRefillsPoolsAndSwapsPages : Obligations.TheEdgeRefillsPoolsAndSwapsPages := by
  refine ⟨fun e carry b => ?_, fun s x _ => ?_, fun cls core n x hn hwf => ?_⟩
  · dsimp only [refill]
    generalize debtOf b + b.owed = due
    have hkept : (if carry then min (unspentOf b) e else 0) ≤ e := by split <;> omega
    refine ⟨rfl, rfl, ?_, by omega, by omega, fun hcarry hdue => ?_⟩
    · generalize (if carry then min (unspentOf b) e else 0) = kept at *
      omega
    · rw [hcarry, hdue]
      simp
  · dsimp only [edgeCtx]
    refine ⟨?_, ?_, ?_, ?_, ?_⟩
    · rw [bits_setBits_below (by omega), bits_setBits_below (by omega)]
    · rw [bits_setBits_above (by omega) (by omega), bits_setBits_above (by omega) (by omega)]
    · rw [bits_setBits_below (by omega)]
    · rw [bits_setBits_same, Nat.zero_mod]
    · rw [bits_setBits_above (by omega) (by omega)]
  · dsimp only
    obtain ⟨hwf1, hsum, hothers, hspent⟩ := drawn_spec (cls := cls) (core := core) (n := n) hwf
    unfold payUnit
    dsimp only
    generalize (if (n : Int) ≤ localBal (budgetOf x cls) core then budgetOf x cls else drawBlock cls core n (budgetOf x cls)) = b1 at *
    have hbal := localBal_put hwf1 core
    by_cases hpays : (if cls = 1 then 0 < localBal b1 core else (n : Int) ≤ localBal b1 core)
    · rw [if_pos hpays]
      refine ⟨fun y hy => ?_, fun hnone => nomatch hnone⟩
      obtain rfl := Option.some.inj hy
      rw [budgetOf_putBudget, hbal, if_pos rfl]
      refine ⟨by dsimp only; omega, ?_, fun hcls => ?_, fun k hk => ?_⟩
      · split at hpays <;> omega
      · rw [if_neg hcls] at hpays
        omega
      · rw [hbal, if_neg hk]
        exact hothers k hk
    · rw [if_neg hpays]
      refine ⟨fun _ hy => (nomatch hy), fun _ hnonneg => ⟨fun hcls => ?_, fun hcls => ?_⟩⟩
      · rw [if_pos hcls] at hpays
        have := hspent (by omega) hnonneg
        omega
      · rw [if_neg hcls] at hpays
        have := hspent (by omega) hnonneg
        omega

end Sys2Proof
end

section
/-! A statement about parish commits that fails: what a participant's slot was before it became PENDING. -/

namespace Sys2Proof.Machine
open Sys2Proof

theorem transmit_progs (p : Nat) (m : FabMsg) (s : State) : (transmit p m s).progs = s.progs := rfl

theorem launch_progs (m : FabMsg) (s : State) : (launch m s).progs = s.progs := by
  unfold launch
  split <;> rfl

theorem sendEpoch_progs (dest op : Nat) (args : List Nat) (s : State) : (sendEpoch dest op args s).progs = s.progs := by
  rw [sendEpoch, sendReq, sendReqAt]
  dsimp only
  split
  · rw [launch_progs]
  · rfl

/-- A program whose slot 1 is STAGED with epoch 2. -/
def stagedProgram : Program where
  ctx := 1
  part := 0
  img := ⟨0, 0⟩
  len := 0
  runnable := true
  unloading := none
  mapMode := false
  tuneMask := 0
  sets := []
  tensors := []
  steps := []
  streams := []
  argTensors := []
  pins := []
  locals := []
  staging := []
  refill := none
  s0 := ⟨.current, 1, none, []⟩
  s1 := ⟨.staged, 2, none, []⟩
  s2 := .empty
  commit := none
  runs := []
  nextRun := 0
  anchors := []
  loading := none

/-- The state after reset, with the bell LOCKED and the program under handle 9. -/
def stagedState : State := setF BELL_SYNC BELL_SYNC_STATE 2 { State.reset with progs := [(9, some stagedProgram)] }

/-- What the slot was, as the commit that a PREPARE begins keeps it. -/
def prevOf (s : State) : Option SlotState := ((progOf s 9).bind (·.commit)).map (·.prev)

end Sys2Proof.Machine

namespace Sys2Proof
open Machine

/-- Refutes O34: a PREPARE from module 4 for slot 1 of handle 9 makes the STAGED slot PENDING first and then keeps what it was
before, so that the commit keeps PENDING where the slot was STAGED. -/
theorem not_parishMessagesTakeEffect : ¬ Obligations.ParishMessagesTakeEffect := by
  intro h
  obtain ⟨-, hprepare, -⟩ := h 4 9 stagedState
  obtain ⟨hgo, -, -⟩ := hprepare 1 2 20 8
  obtain ⟨q, hq, -, -, hcommit⟩ := hgo stagedProgram rfl rfl (by decide +kernel) (by decide)
  have hpending : prevOf (prepared 4 9 1 2 20 8 stagedState) = some .pending := by decide +kernel
  have hstaged : prevOf (sendEpoch 4 1 [9, 0] (setProg 9 (some q) stagedState)) = some .staged := by
    obtain ⟨m, hm, hfields⟩ := Option.map_eq_some_iff.mp hcommit
    rw [prevOf, progOf, sendEpoch_progs, show Assoc.get _ (setProg 9 (some q) stagedState).progs 9 = some q from rfl,
      Option.bind_some, hm]
    exact congrArg (fun x => some x.2.2.1) hfields
  exact absurd (hpending.symm.trans ((congrArg prevOf hq).trans hstaged)) (by decide)

end Sys2Proof
end

section
/-! The tally window, tally configuration and descriptor walks (chapters 11 and 13). -/

namespace Sys2Proof.Machine
open Sys2Proof

/-- The window's ADD of a value other than 0. -/
theorem exec_twAdd {r : TallyRef} {n : BitVec 64} {s : State} (hn : n ≠ 0) (hw : windowTally s r.die.toNat r.index.toNat = true) :
    exec (.twAdd r n) s =
      .next (windowDone r.die.toNat r.index.toNat (addWithPartner r.die.toNat r.index.toNat n.toNat 4 0 s)) :=
  if_pos (by simpa [hw] using hn)

theorem exec_twSub {r : TallyRef} {n : BitVec 64} {s : State} (hn : n ≠ 0) (hw : windowTally s r.die.toNat r.index.toNat = true) :
    exec (.twSub r n) s = .next (windowDone r.die.toNat r.index.toNat (applySub r.die.toNat r.index.toNat n.toNat 4 0 s)) :=
  if_pos (by simpa [hw] using hn)

/-- An overflow without a pair is the window's kind 1 (R410). -/
theorem windowKind_overflow {f : Fail} (hf : f.1 = Status.tallyOverflow.code) (hpair : bitAt f.2 12 = false) : windowKind f = 1 := by
  rw [windowKind, if_neg (by rw [hf]; decide), if_neg (by rw [hpair]; decide), if_pos hf]

end Sys2Proof.Machine

namespace Sys2Proof
open Machine

/-- Settles O35: the checks of the window and of the configuration, and what a walk finds, choose. -/
theorem tallyWindowAndWalksTakeEffect : Obligations.TallyWindowAndWalksTakeEffect := by
  intro s
  refine ⟨fun r => ⟨?_, ?_⟩, fun r n v hn hw => ?_, fun r n hn hw => ?_, ?_, fun die w hwait => ?_, fun die ctx seg => ?_⟩
  · simp [twAdd_exec, execTwAdd]
  · simp [twSub_exec, execTwSub]
  · intro d x a hv
    rw [exec_twAdd hn hw, addWithPartner_eq hv]
    refine ⟨fun hpass => ?_, fun f hfault hcode hpair => ?_⟩
    · rw [applyAdd_passes hpass, BitVec.ofNat_toNat, BitVec.setWidth_eq]
      rfl
    · rw [applyAdd_of_fault hfault]
      simp [windowDone, windowKind_overflow hcode hpair, d, x]
  · intro d x a hpair hle
    rw [exec_twSub hn hw, applySub_passes hpair hle, BitVec.ofNat_toNat, BitVec.setWidth_eq]
    rfl
  · intro d x a hcfg
    refine ⟨?_, fun hplaced hle hattr => ?_⟩
    · show execTallyCmdRead s = _
      rw [execTallyCmdRead, hcfg]
    · show execTallyCmdWrite s = _
      unfold execTallyCmdWrite
      dsimp only
      rw [hcfg]
      dsimp only
      rw [if_neg (by rw [hplaced]; decide), if_neg (not_lt.mpr hle), if_neg (by rw [hattr]; decide)]
  · show Host.Outcome.next _ = _
    rw [hwait]
    rfl
  · intro d x k hfree
    refine ⟨fun hnone hmiss => ?_, fun w hfound hwalk hstale => ⟨fun v hv => ?_, fun hv => ?_⟩, fun w hfound => ?_⟩
    · refine ⟨walkWaiters s ⟨k, d, false, []⟩, congrArg Host.Outcome.next ?_⟩
      unfold descriptorWalk
      dsimp only
      rw [if_neg hfree, hnone]
      exact if_neg (by rw [hmiss]; decide)
    · refine congrArg Host.Outcome.next ?_
      unfold descriptorWalk
      dsimp only
      rw [if_neg hfree, hfound]
      dsimp only
      rw [if_neg (by rw [hwalk]; decide), if_neg (by rw [hstale]; decide), hv]
    · refine congrArg Host.Outcome.next ?_
      unfold descriptorWalk
      dsimp only
      rw [if_neg hfree, hfound]
      dsimp only
      rw [if_neg (by rw [hwalk]; decide), if_neg (by rw [hstale]; decide), hv]
    · show execWalkTimeout die ctx seg s = _
      rw [execWalkTimeout, hfound]

end Sys2Proof
end

section
/-! Stacks and the DDR5 controller (chapter 12). -/

namespace Sys2Proof
open Machine

/-- Settles O36: each event's own checks choose the branch its clause names. -/
theorem stackAndDdrEventsTakeEffect : Obligations.StackAndDdrEventsTakeEffect := by
  intro stack s
  dsimp only
  generalize hk : stack.toNat = k
  refine ⟨fun hlt hfree found => ?_, fun c r hsparing hfree hspares => ?_, fun c hlt hfailed hsparing => ⟨fun hroom => ?_, fun hfull => ?_⟩,
    fun hlt hfree => ⟨fun hin => ?_, fun hbeyond => ?_⟩, fun hlt hstate => ?_, fun hfree => ?_, fun b hstate hreason => ?_, fun ch row hard => rfl⟩
  · show execStackScrub stack found s = _
    unfold execStackScrub
    rw [hk]
    exact if_neg (by simp [hfree, hlt])
  · refine ⟨{ stackOf s k with
      sparing := r
      spares := (stackOf s k).spares ++ [c]
      chErrs := Assoc.put (fun _ => RowErr.zero) (stackOf s k).chErrs c .zero
      badRows := (stackOf s k).badRows.filter fun r => r.1 != c
      spareRows := Assoc.put (fun _ => 0) (stackOf s k).spareRows c 0 }, ?_, by simp [hspares], rfl, rfl⟩
    show execChannelSpareDone stack s = _
    simp [execChannelSpareDone, hk, hsparing, hfree, hspares]
  · show execChannelFail stack c s = _
    simp [-List.contains_eq_mem, execChannelFail, hk, hfailed, hsparing, Stack.unfree, not_le.mpr hlt, not_le.mpr hroom]
  · show execChannelFail stack c s = _
    simp [-List.contains_eq_mem, execChannelFail, hk, hfailed, hsparing, Stack.unfree, not_le.mpr hlt, hfull]
  · show Host.Outcome.next (fenceStack stack.toNat s) = _
    simp [fenceStack, hk, hfree, hin, not_le.mpr hlt]
  · show Host.Outcome.next (fenceStack stack.toNat s) = _
    simp [fenceStack, hk, hfree, hbeyond, not_le.mpr hlt]
  · show execStackReady stack s = _
    unfold execStackReady
    rw [hk]
    exact if_neg (by simp [hstate, hlt])
  · show Host.Outcome.next (ddrReset s) = _
    simp [ddrReset, hfree]
  · exact if_neg (by simp [hstate, hreason])

end Sys2Proof
end

section
/-! The cellar's window, sticks and states (chapter 12). -/

namespace Sys2Proof.Machine
open Sys2Proof

/-- The number of bays in sync is the number of bits of `inSync` below 8 that are set. -/
theorem popcount8_eq (v : Nat) : popcount8 v = ((List.range 8).filter fun b => bitAt v b).length := rfl

theorem bitAt_two_pow {b : Nat} (hb : b < 8) {i : Nat} (hi : i < 8) : bitAt (2 ^ b) i = decide (i = b) := by
  revert i
  revert b
  decide

theorem range_eight_split {b : Nat} (hb : b < 8) : List.range 8 = List.range b ++ b :: (List.range (7 - b)).map (b + 1 + ·) := by
  revert b
  decide

/-- Adopting the one bay `b`. -/
theorem adoptBays_one {b : Nat} (hb : b < 8) {s : State} (hforeign : bitAt s.tray.foreign b = true) :
    adoptBays (2 ^ b) s = setBay b bayRebuilding (setF (CELLAR_BAY b) CELLAR_BAY_REBUILT_GIB 0 s) := by
  have hstep : ∀ (l : List Nat), b ∉ l → (∀ i ∈ l, i < 8) → ∀ t, l.foldl (fun s i =>
      if bitAt (2 ^ b) i && bitAt s.tray.foreign i then setBay i bayRebuilding (setF (CELLAR_BAY i) CELLAR_BAY_REBUILT_GIB 0 s) else s) t = t := by
    intro l
    induction l with
    | nil => intros; rfl
    | cons a r ih =>
      intro hmem hlt t
      have ha : a ≠ b := fun h => hmem (h ▸ List.mem_cons_self)
      rw [List.foldl_cons, bitAt_two_pow hb (hlt a (by simp)), if_neg (by simp [ha])]
      exact ih (fun h => hmem (List.mem_cons_of_mem _ h)) (fun i h => hlt i (List.mem_cons_of_mem _ h)) t
  have hsplit : List.range 8 = List.range b ++ b :: (List.range (7 - b)).map (b + 1 + ·) := range_eight_split hb
  rw [adoptBays, hsplit, List.foldl_append, List.foldl_cons, hstep (List.range b) (by simp) (by simp; omega),
    bitAt_two_pow hb hb, if_pos (by simp [hforeign]), hstep _ (by simp; omega) (by simp; omega)]

theorem exec_cellarWindow_write {a : BitVec 48} {x : BitVec 64} {v o : Nat} {s : State}
    (hin : ¬ (a.toNat % 8 ≠ 0 ∨ a.toNat < 0x060000000000 ∨ 0x070000000000 ≤ a.toNat))
    (hplace : windowPlace s a.toNat true = .ok (v, o)) :
    exec (.cellarWindowAccess a (some x)) s = .next (buffered v (o / 4096) (writeCellar v o (leBytes 8 x.toNat) s)) := by
  have hplace' : windowPlace s a.toNat (some x).isSome = .ok (v, o) := hplace
  show execCellarWindowAccess a (some x) s = _
  unfold execCellarWindowAccess
  dsimp only
  rw [if_neg hin, hplace']

theorem exec_cellarWindow_read {a : BitVec 48} {v o : Nat} {s : State}
    (hin : ¬ (a.toNat % 8 ≠ 0 ∨ a.toNat < 0x060000000000 ∨ 0x070000000000 ≤ a.toNat))
    (hplace : windowPlace s a.toNat false = .ok (v, o)) :
    exec (.cellarWindowAccess a none) s = if cellarPoisoned s v o 8 then .next (emit (.load [] true) s)
      else .next (emit (.load (readCellar s v o 8) false) s) := by
  have hplace' : windowPlace s a.toNat (none : Option (BitVec 64)).isSome = .ok (v, o) := hplace
  show execCellarWindowAccess a none s = _
  unfold execCellarWindowAccess
  dsimp only
  rw [if_neg hin, hplace']
  rfl

end Sys2Proof.Machine

namespace Sys2Proof
open Machine

/-- Settles O37: each event's own checks choose the branch its clause names. -/
theorem cellarEventsTakeEffect : Obligations.CellarEventsTakeEffect := by
  intro bay s
  dsimp only
  generalize hb : bay.toNat = b
  refine ⟨fun a v o halign hlow hhigh => ?_, fun v i g hg hi => ?_, fun hmember x => ⟨?_, ?_, fun p hp => ?_, fun p hp hsync hret => ?_⟩,
    fun habsent => ⟨?_, ?_, ?_⟩, fun hpresent => ⟨?_, fun hfailed => ?_⟩, fun hrebuilding => ?_, fun hforeign => ?_, fun t ht => ?_⟩
  · have hin : ¬ (a.toNat % 8 ≠ 0 ∨ a.toNat < 0x060000000000 ∨ 0x070000000000 ≤ a.toNat) := by omega
    refine ⟨fun x hplace => ?_, fun hplace hsound => ?_, fun hplace hbad => ?_⟩
    · exact exec_cellarWindow_write hin hplace
    · rw [exec_cellarWindow_read hin hplace, if_neg (by simp [hsound])]
    · rw [exec_cellarWindow_read hin hplace, if_pos hbad]
  · exact if_neg (by omega)
  · show execReadDisturbRelocate bay x s = _
    simp [execReadDisturbRelocate, hb, hmember]
  · show execRetentionRewrite bay x s = _
    simp [execRetentionRewrite, hb, hmember]
  · show execBadBlockRetire bay x p s = _
    simp [execBadBlockRetire, hb, hmember, not_lt.mpr hp]
  · show execBadBlockRetire bay x p s = _
    simp [execBadBlockRetire, hb, hmember, hp, hsync, hret]
  · show execStickInsert bay .blank s = _
    simp [execStickInsert, hb, habsent]
  · show execStickInsert bay .member s = execStickInsert bay .blank s
    simp [execStickInsert]
  · show execStickInsert bay .foreign s = _
    simp [execStickInsert, hb, habsent]
  · show execStickRemove bay s = _
    simp [execStickRemove, hb, hpresent]
  · show execStickFailure bay s = _
    simp [execStickFailure, hb, hpresent, hfailed]
  · show execRebuildComplete bay s = _
    simp [execRebuildComplete, hb, hrebuilding]
  · have hlt : b < 8 := hb ▸ bay.isLt
    have hpow : (BitVec.ofNat 8 (2 ^ b)).toNat = 2 ^ b := by
      rw [BitVec.toNat_ofNat]
      exact Nat.mod_eq_of_lt (Nat.pow_lt_pow_right (by omega) hlt)
    show Host.Outcome.next (adoptBays _ s) = _
    rw [hpow, adoptBays_one hlt hforeign]
  · rw [← popcount8_eq]
    unfold cellarState
    dsimp only
    refine ⟨fun h => by rw [h]; rfl, fun h => by rw [h]; rfl, fun h => by rw [h]; rfl, fun h => ?_⟩
    rw [if_neg (by omega), if_neg (by omega), if_neg (by omega)]

end Sys2Proof
end

section
/-! A register that no other write reaches (chapter 24), and accesses of the host complex and stores that fail (chapters 06 and 14). -/

namespace Sys2Proof.Machine
open Sys2Proof

/-! ### What leaves a register -/

/-- The step from `s` to `t` leaves register `r`, and keeps the registers canonical. -/
def LeavesReg (r : Nat) (s t : State) : Prop :=
  Assoc.wf regReset s.regs = true → Assoc.wf regReset t.regs = true ∧ getReg t r = getReg s r

namespace LeavesReg

variable {r : Nat} {s t u : State}

theorem of_regs (h : t.regs = s.regs) : LeavesReg r s t := fun hwf => ⟨h ▸ hwf, by rw [getReg, getReg, h]⟩

theorem refl (s : State) : LeavesReg r s s := of_regs rfl

theorem trans (h : LeavesReg r s t) (k : LeavesReg r t u) : LeavesReg r s u := fun hwf =>
  ⟨(k (h hwf).1).1, (k (h hwf).1).2.trans (h hwf).2⟩

theorem ite {c : Prop} [Decidable c] (h : LeavesReg r s t) (k : LeavesReg r s u) : LeavesReg r s (if c then t else u) := by
  split
  · exact h
  · exact k

theorem setReg (h : LeavesReg r s t) {o : Nat} (hne : r ≠ o) (v : Nat) : LeavesReg r s (Machine.setReg o v t) :=
  h.trans fun hwf => ⟨Assoc.wf_put hwf, by rw [getReg_setReg hwf, if_neg hne]⟩

theorem setF (h : LeavesReg r s t) {o : Nat} (hne : r ≠ o) (f : Fld) (v : Nat) : LeavesReg r s (Machine.setF o f v t) :=
  h.setReg hne _

theorem setExt (h : LeavesReg r s t) (b : Bool) (v : ExtPort) : LeavesReg r s (Machine.setExt b v t) :=
  h.trans (of_regs (by cases b <;> rfl))

theorem pldmEvent (h : LeavesReg r s t) (c : Nat) : LeavesReg r s (Machine.pldmEvent c t) := by
  unfold Machine.pldmEvent
  split
  · exact h
  · exact h.trans (of_regs rfl)

/-- A record of the ledger writes LEDGER_STATUS at most. -/
theorem ledger (h : LeavesReg r s t) (hne : r ≠ LEDGER_STATUS) (kind sev dom addr data : Nat) :
    LeavesReg r s (Machine.ledger kind sev dom addr data t) := by
  unfold Machine.ledger ledgerF
  split
  · exact h.trans (of_regs rfl)
  · extract_lets rec lost faults s1 s2 s3
    have h1 : LeavesReg r s s1 := h.trans (of_regs rfl)
    have h2 : LeavesReg r s s2 := ite (h1.setF hne _ _) h1
    have h3 : LeavesReg r s s3 := ite (h2.pldmEvent _) h2
    exact h3.trans (of_regs rfl)

/-- What raising an interrupt can write. -/
structure NotIrqReg (r : Nat) : Prop where
  drop : r ≠ HC_IRQ_DROP
  extDrop (b : Bool) : r ≠ EXT_IRQ_DROP (portIx b)
  hold (b : Bool) : r ≠ EXT_HOLD (portIx b)
  status (b : Bool) : r ≠ EXT_PORT_STATUS (portIx b)

theorem beginHold (h : LeavesReg r s t) (hr : NotIrqReg r) (b hostReset : Bool) : LeavesReg r s (Machine.beginHold b hostReset t) := by
  unfold Machine.beginHold
  extract_lets i x s1 ms left
  have h1 : LeavesReg r s s1 := ite (h.setF (hr.status b) _ _) h
  exact ite h1 ((((h1.setExt _ _).setF (hr.hold b) _ _).setF (hr.status b) _ _).setF (hr.status b) _ _)

theorem extWrite (h : LeavesReg r s t) (hr : NotIrqReg r) (b : Bool) (w : ExtWrite) : LeavesReg r s (Machine.extWrite b w t) := by
  unfold Machine.extWrite
  extract_lets s1 x
  have h1 : LeavesReg r s s1 := ite (h.beginHold hr _ _) h
  exact ite (h.setF (hr.hold b) _ _) (ite (h1.setExt _ _) (h1.trans (of_regs rfl)))

theorem msixSend (h : LeavesReg r s t) (hr : NotIrqReg r) (b : Bool) (v : Nat) (q : Option Nat) :
    LeavesReg r s (Machine.msixSend b v q t) := by
  unfold Machine.msixSend
  extract_lets x e
  exact ite (h.setF (hr.extDrop b) _ _) (ite (h.setExt _ _) (h.extWrite hr _ _))

theorem raiseIrq (h : LeavesReg r s t) (hr : NotIrqReg r) (kind v : Nat) (q : Option Nat) :
    LeavesReg r s (Machine.raiseIrq kind v q t) := by
  unfold Machine.raiseIrq
  split
  · unfold hostIrq
    exact ite (h.trans (of_regs rfl)) (h.setF hr.drop _ _)
  · exact h.msixSend hr _ _ _
  · exact h.msixSend hr _ _ _
  · exact h

end LeavesReg

/-! ### Stores that cannot be made -/

theorem notIrqReg_ordErr : LeavesReg.NotIrqReg ORD_ERR where
  drop := by decide
  extDrop := by decide
  hold := by decide
  status := by decide

theorem storeFail_bit_lt (s : State) (t : StoreTarget) : (storeFail s t).1 < 8 := by
  cases t <;> simp [storeFail]

theorem getReg_orReg {s : State} (hwf : Assoc.wf regReset s.regs = true) (o v : Nat) :
    getReg (orReg o v s) o = (getReg s o ||| v) % 2 ^ 64 := by
  rw [orReg, getReg_setReg hwf, if_pos rfl]

theorem bitAt_eq_testBit (v i : Nat) : bitAt v i = v.testBit i := by
  rw [bitAt, Nat.testBit_eq_decide_div_mod_eq]
  rfl

/-- Setting bit `b` of a register with `orReg` shows in it. -/
theorem bitAt_orReg {s : State} (hwf : Assoc.wf regReset s.regs = true) (o : Nat) {b : Nat} (hb : b < 64) :
    bitAt (getReg (orReg o (2 ^ b) s) o) b = true := by
  rw [getReg_orReg hwf, bitAt_eq_testBit, Nat.testBit_mod_two_pow, Nat.testBit_or, Nat.testBit_two_pow_self]
  simp [hb]

end Sys2Proof.Machine
end

section
/-! Accesses of the host complex (chapters 06 and 14). -/

namespace Sys2Proof.Machine
open Sys2Proof

theorem wakeLarder_mem (p : Place) (s : State) : (wakeLarder p s).mem = s.mem := by
  unfold wakeLarder
  (repeat' split) <;> rfl

section
variable {w : Agent} {a : BitVec 48} {n : Nat} {s : State} (hn : tgtOf s a.toNat = .larder n)
include hn

theorem exec_port_load {len : BitVec 7} (hin : a.toNat + len.toNat ≤ larderBase n + larderBytes)
    (hfree : placeHeld s (.mem a.toNat none) = false) :
    exec (.remotePortAccess w a none len) s =
      if (refusal s false (.larder n)).isSome then .next (emit (.load [] true) s)
      else if poisoned (wakeLarder (.mem a.toNat none) s) a.toNat len.toNat then
        .next (emit (.load [] true) (notePoisonRead (wakeLarder (.mem a.toNat none) s) (.mem a.toNat none)))
      else .next (emit (.load (readMem (wakeLarder (.mem a.toNat none) s) a.toNat len.toNat) false)
        (wakeLarder (.mem a.toNat none) s)) := by
  show execRemotePortAccess w a none len s = _
  unfold execRemotePortAccess
  dsimp only
  rw [hn]
  dsimp only
  rw [if_neg (not_lt.mpr hin), hfree, if_neg (by decide)]
  rfl

theorem exec_port_store {bs : List (BitVec 8)} {len : BitVec 7} (hin : a.toNat + bs.length ≤ larderBase n + larderBytes)
    (hfree : placeHeld s (.mem a.toNat none) = false) :
    exec (.remotePortAccess w a (some bs) len) s =
      if (refusal s true (.larder n)).isSome then .next (storeFailed (.larder (BitVec.ofNat 8 n)) a.toNat (srcOf w) 0 .none s)
      else .next (writeMem a.toNat bs (wakeLarder (.mem a.toNat none) s)) := by
  show execRemotePortAccess w a (some bs) len s = _
  unfold execRemotePortAccess
  dsimp only
  rw [hn]
  dsimp only
  rw [if_neg (not_lt.mpr hin), hfree, if_neg (by decide)]

end

theorem exec_port_noTarget {w : Agent} {a : BitVec 48} {wr : Option (List (BitVec 8))} {len : BitVec 7} {s : State}
    (hout : ∀ n, tgtOf s a.toNat = .larder n →
      larderBase n + larderBytes < a.toNat + (match wr with | some bs => bs.length | none => len.toNat)) :
    exec (.remotePortAccess w a wr len) s = .next (noTarget w wr.isSome s) := by
  show execRemotePortAccess w a wr len s = _
  unfold execRemotePortAccess
  dsimp only
  split
  · exact if_pos (hout _ ‹_›)
  · rfl

theorem readMem_wakeLarder (p : Place) (s : State) (a n : Nat) : readMem (wakeLarder p s) a n = readMem s a n := by
  simp only [readMem, memByte, wakeLarder_mem]

end Sys2Proof.Machine

namespace Sys2Proof
open Machine

/-- Settles O38: an access by the place it names, and a store that is declared failed by the bit of its target. -/
theorem remoteAccessesLandOrAreDeclaredFailed : Obligations.RemoteAccessesLandOrAreDeclaredFailed := by
  intro s
  refine ⟨fun w a n hn => ?_, fun w a wr len hout => ?_, fun t a ag e b => ?_⟩
  · intro p s1
    refine ⟨fun hfree => ⟨fun len hin => ⟨fun hopen => ⟨fun hsound => ?_, fun hbad => ?_⟩, fun hshut => ?_⟩,
      fun len bs hin => ⟨fun hopen hwf => ?_, fun hshut => ?_⟩⟩, fun hheld wr len hin => ?_⟩
    · rw [exec_port_load hn hin hfree, hopen]
      rw [Option.isSome_none, if_neg (by decide), if_neg (by rw [hsound]; decide), readMem_wakeLarder]
    · rw [exec_port_load hn hin hfree, hopen]
      exact if_pos hbad
    · rw [exec_port_load hn hin hfree, if_pos (Option.isSome_iff_ne_none.mpr hshut)]
    · have hmem : s1.mem = s.mem := wakeLarder_mem p s
      refine ⟨writeMem a.toNat bs s1, ?_, readMem_writeMem_same (hmem ▸ hwf) _ _, fun x hx => ?_⟩
      · rw [exec_port_store hn hin hfree, hopen]
        rfl
      · rw [memByte_writeMem (hmem ▸ hwf), if_neg (by omega), memByte, memByte, hmem]
    · rw [exec_port_store hn hin hfree, if_pos (Option.isSome_iff_ne_none.mpr hshut)]
    · show execRemotePortAccess w a wr len s = _
      unfold execRemotePortAccess
      dsimp only
      rw [hn]
      exact (if_neg (not_lt.mpr hin)).trans (if_pos hheld)
  · rw [exec_port_noTarget hout]
    cases w <;> cases wr <;> rfl
  · intro bit f at_ src s1 s2 s3
    refine ⟨rfl, fun hwf => ?_⟩
    have h1 : LeavesReg ORD_ERR (orReg ORD_ERR (2 ^ bit) s) s1 := (LeavesReg.refl _).setF (by decide) _ _
    have h2 : LeavesReg ORD_ERR (orReg ORD_ERR (2 ^ bit) s) s2 :=
      (LeavesReg.ite h1 ((h1.setReg (by decide) _).setReg (by decide) _)).ledger (by decide) _ _ _ _ _
    have hleaves : LeavesReg ORD_ERR (orReg ORD_ERR (2 ^ bit) s) s3 := LeavesReg.ite h2 (h2.raiseIrq notIrqReg_ordErr _ _ _)
    rw [(hleaves (Assoc.wf_put hwf)).2]
    exact bitAt_orReg hwf _ (by have := storeFail_bit_lt s t; omega)

end Sys2Proof
end

section
/-! Fabric ports (chapter 16). -/

namespace Sys2Proof.Machine
open Sys2Proof

theorem bits_mod_two_pow {w n hi lo : Nat} (hlo : lo ≤ hi) (hhi : hi < n) : bits (w % 2 ^ n) hi lo = bits w hi lo := by
  refine Nat.eq_of_testBit_eq fun i => ?_
  simp only [bits, Nat.testBit_mod_two_pow, Nat.testBit_div_two_pow]
  by_cases hi' : i < hi + 1 - lo
  · simp [hi', show i + lo < n by omega]
  · simp [hi']

/-- A field reads as it was written, where it is not what the register's reset value has there, whatever the form of the map. -/
theorem getF_setF_same {o v : Nat} {f : Fld} (hlo : f.lo ≤ f.hi) (hhi : f.hi < 64)
    (hne : v % 2 ^ (f.hi + 1 - f.lo) ≠ bits (regReset o).toNat f.hi f.lo) (s : State) :
    getF (setF o f v s) o f = v % 2 ^ (f.hi + 1 - f.lo) := by
  have hword : bits (BitVec.ofNat 64 (setBits (getReg s o) f.hi f.lo v)).toNat f.hi f.lo = v % 2 ^ (f.hi + 1 - f.lo) := by
    rw [BitVec.toNat_ofNat, bits_mod_two_pow hlo hhi, bits_setBits_same]
  have hreset : BitVec.ofNat 64 (setBits (getReg s o) f.hi f.lo v) ≠ regReset o := fun h => hne (by rw [← hword, h])
  rw [getF, getReg, setF, setReg]
  dsimp only
  rw [Assoc.get_put_of_ne hreset, if_pos rfl, hword]

theorem portState_setPortState_retraining {p : Nat} (hp : p < 8) (s : State) :
    portState (setPortState p ptRetraining s) p = ptRetraining := by
  refine getF_setF_same (by decide) (by decide) ?_ s
  revert p
  decide

section
variable {p : Nat} {s : State} (hup : portState s p = ptUp)
include hup

theorem portUp_of_state : portUp s p = true := by
  rw [portUp, beq_iff_eq]
  exact hup

theorem flitReceive_good {flit : List Byte} {n : Nat} (hcrc : leNat (slice flit 252 4) = crc32c (flit.take 252))
    (hseq : bits (leNat (flit.take 2)) 11 0 = (fport s p).rxSeq) :
    flitReceive p flit n s = flitAcks p (leNat (slice flit 2 2)) (leNat (slice flit 4 4))
      (flitPayload p (leNat (flit.take 2)) (slice flit 8 240)
        (setFport p { fport s p with rxSeq := ((fport s p).rxSeq + 1) % 4096, naksInRow := 0 }
          (incF (FAB_PORT_FEC p) FAB_PORT_FEC_CORR_SYMBOLS n s))) := by
  unfold flitReceive
  dsimp only
  rw [portUp_of_state hup, if_neg (by decide), if_neg (by simp [hcrc]), if_neg (by simp [hseq])]

theorem flitReceive_bad {flit : List Byte} {n : Nat} (hcrc : leNat (slice flit 252 4) ≠ crc32c (flit.take 252)) :
    flitReceive p flit n s = badFlit p (incF (FAB_PORT_FEC p) FAB_PORT_FEC_CORR_SYMBOLS n s) := by
  unfold flitReceive
  dsimp only
  rw [portUp_of_state hup, if_neg (by decide), if_pos (by simp [hcrc])]

theorem portRetrain_narrow {g : Nat} (hg : ((List.range 9).filter fun l => bitAt g l).length < 4) :
    portRetrain p g s = leaveUp p (portFault p 5 (incF (FAB_PORT_RETRY p) FAB_PORT_RETRY_RETRAINS 1 s)) := by
  unfold portRetrain
  dsimp only
  rw [if_neg (by simp [hup]), if_pos hg]

/-- A retrain over enough lanes. -/
theorem portRetrain_wide {g : Nat} (hp : p < 8) (hg : 4 ≤ ((List.range 9).filter fun l => bitAt g l).length) :
    ∃ u, portRetrain p g s = leaveUp p u ∧ portState u p = ptRetraining ∧ u.mem = s.mem := by
  unfold portRetrain
  dsimp only
  rw [if_neg (by simp [hup]), if_neg (not_lt.mpr hg)]
  exact ⟨_, rfl, portState_setPortState_retraining hp _, rfl⟩

end

end Sys2Proof.Machine

namespace Sys2Proof
open Machine

/-- Settles O39: the port's state, the flit's checks and the good lanes choose. -/
theorem fabricPortsTakeEffect : Obligations.FabricPortsTakeEffect := by
  intro port s
  dsimp only
  have hp : port.toNat < 8 := port.isLt
  refine ⟨fun i hen hid hid' hdown => ?_, fun i hpeer => ⟨fun htrain hfault => ?_, fun htrain hfault => ?_, fun hre => ?_⟩,
    fun hup => ⟨fun x n => ⟨fun hcrc hseq => ?_, fun hcrc => ?_⟩, fun q => ?_, fun g hg => ?_, fun g hg => ?_,
      fun l hl hlane hspare => ?_⟩⟩
  · exact if_neg (by simp [hen, hid, hid', hdown])
  · show execTrainingComplete port s = _
    simp [execTrainingComplete, hpeer, htrain, hfault]
  · show execTrainingComplete port s = _
    simp [execTrainingComplete, hpeer, htrain, hfault]
  · show execTrainingComplete port s = _
    simp [execTrainingComplete, hpeer, hre, ptRetraining, ptTraining]
  · exact congrArg Host.Outcome.next (flitReceive_good hup hcrc hseq)
  · refine congrArg Host.Outcome.next ((flitReceive_bad hup hcrc).trans ?_)
    unfold badFlit retrainIf
    simp only [Bool.or_eq_true, decide_eq_true_eq]
    rfl
  · refine congrArg Host.Outcome.next ((if_pos (portUp_of_state hup)).trans ?_)
    unfold replayFrom retrainIf
    simp only [decide_eq_true_eq]
  · exact congrArg Host.Outcome.next (portRetrain_narrow hup hg)
  · obtain ⟨u, hu, hstate, hmem⟩ := portRetrain_wide hup hp hg
    exact ⟨u, congrArg Host.Outcome.next hu, hstate.trans (portState_setPortState_retraining hp s).symm, hmem⟩
  · show execLaneSwap port l s = _
    unfold execLaneSwap
    dsimp only
    rw [if_neg (by simp [hup, hl, hlane]), if_neg (by simp [hspare])]

end Sys2Proof
end

section
/-! Routing (chapter 16). -/

namespace Sys2Proof.Machine
open Sys2Proof

theorem flood_fab (l : Lsr) (s : State) : (flood l s).fab = s.fab := foldl_proj State.fab (fun s p => emit_fab s (.lsr p l)) _ _
theorem flood_mem (l : Lsr) (s : State) : (flood l s).mem = s.mem := foldl_proj State.mem (fun s p => emit_mem s (.lsr p l)) _ _
theorem flood_regs (l : Lsr) (s : State) : (flood l s).regs = s.regs := foldl_proj State.regs (fun s p => emit_regs s (.lsr p l)) _ _

end Sys2Proof.Machine

namespace Sys2Proof
open Machine

/-- Settles O40: the record that is kept, or the entry that is read, chooses. -/
theorem routingTakesEffect : Obligations.RoutingTakesEffect := by
  intro s
  refine ⟨fun l o hfound hother hnewer => ?_, fun l hfound hother hroom => ?_, fun l o hfound hother hold => ?_, ?_,
    fun o hany => ?_, rfl, fun w v => ?_, fun d c => rfl, fun d c hany => ?_⟩
  · show execLsr l s = _
    simp [execLsr, hfound, hother, not_le.mpr hnewer]
  · show execLsr l s = _
    simp only [execLsr, hfound, if_neg hother, if_neg (not_le.mpr hroom)]
  · show execLsr l s = _
    simp only [execLsr, hfound, if_neg hother, if_pos hold]
  · refine ⟨floodOwn s, rfl, ?_, ?_, ?_⟩
    · rw [floodOwn, flood_fab]
    · rw [floodOwn, flood_mem]
    · rw [floodOwn, flood_regs]
  · exact congrArg Host.Outcome.next (if_pos hany)
  · exact congrArg Host.Outcome.next rfl
  · exact congrArg Host.Outcome.next (if_pos hany)

end Sys2Proof
end

section
/-! Fabric messages (chapter 16). -/

namespace Sys2Proof.Machine
open Sys2Proof

/-- The number of the request that is next from the source of `h` in its class. -/
def nextSeq (h : MsgHdr) (s : State) : Nat := Assoc.get (fun _ => 0) s.fab.expected (h.src.toNat * 4 + h.cls.toNat)

/-- The state after the request that is next has been counted. -/
def countReq (h : MsgHdr) (s : State) : State :=
  { s with fab := { s.fab with
    expected := Assoc.put (fun _ => 0) s.fab.expected (h.src.toNat * 4 + h.cls.toNat) ((nextSeq h s + 1) % 2 ^ 32) } }

/-- The state after the answer of the request that was next. -/
def ackReq (h : MsgHdr) (want : Nat) (r : State × Fail) : State :=
  settle (sendAck h.src.toNat h.cls.toNat want r.2 (if r.2.1 = 0 then r.1 else
    { r.1 with fab := { r.1.fab with faultAcks := r.1.fab.faultAcks ++ [(h.src.toNat * 4 + h.cls.toNat, want, r.2.1, r.2.2)] } }))

/-- The state without the requests that `h` answers. -/
def dropReq (h : MsgHdr) (s : State) : State :=
  { s with fab := { s.fab with outstanding := s.fab.outstanding.filter fun x => !isReq h x } }

section
variable {h : MsgHdr} {s : State} (hdest : h.dest.toNat = moduleId s)
include hdest

theorem receive_next (hseq : h.seq.toNat = nextSeq h s) (kind : Nat) (args : List Nat) (bs : List Byte) (apply : State → State × Fail) :
    receive kind h args bs apply s = ackReq h (nextSeq h s) (apply (countReq h s)) := by
  unfold receive receiveThen
  dsimp only
  rw [if_neg (not_not.mpr hdest)]
  exact if_pos hseq

theorem receive_before (hseq : h.seq.toNat ≠ nextSeq h s) (hbefore : counterBefore h.seq (BitVec.ofNat 32 (nextSeq h s)) = true)
    (kind : Nat) (args : List Nat) (bs : List Byte) (apply : State → State × Fail) :
    receive kind h args bs apply s = sendAck h.src.toNat h.cls.toNat h.seq.toNat
      (((s.fab.faultAcks.find? fun e => e.1 == h.src.toNat * 4 + h.cls.toNat && e.2.1 == h.seq.toNat).map (·.2.2)).getD okAck) s := by
  unfold receive receiveThen
  dsimp only
  rw [if_neg (not_not.mpr hdest)]
  exact (if_neg hseq).trans (if_pos hbefore)

theorem exec_readResp_some {bs : List (BitVec 8)} {bad : Bool} {r : OutReq}
    (hfound : (s.fab.outstanding.find? fun r => isReq h r && r.kind == 2) = some r) :
    exec (.readResp h bs bad) s =
      .next (if bad then settle (poisonedData r.owner r.slot (.far r.dest (r.args.headD 0)) s) else s) := by
  show execReadResp h bs bad s = _
  rw [execReadResp, if_neg (not_not.mpr hdest), hfound]

theorem exec_readResp_none {bs : List (BitVec 8)} {bad : Bool}
    (hnone : (s.fab.outstanding.find? fun r => isReq h r && r.kind == 2) = none) : exec (.readResp h bs bad) s = .next s := by
  show execReadResp h bs bad s = _
  rw [execReadResp, if_neg (not_not.mpr hdest), hnone]

theorem exec_ack {r : OutReq} (hfound : (s.fab.outstanding.find? fun r => isReq h r && r.sent) = some r) (hparts : r.parts = [])
    (st d : BitVec 16) :
    exec (.ack h st d) s = .next (settle (sendWaiting (if failing st.toNat then
      failBarrier (asLocal r (st.toNat, d.toNat)) r.owner (dropReq h s) else acked r (dropReq h s)))) := by
  show execAck h st d s = _
  unfold execAck
  rw [if_neg (not_not.mpr hdest), hfound]
  dsimp only
  rw [hparts]
  rfl

end

theorem exec_fabWrite {h : MsgHdr} {r : RemoteRef} {bs : List (BitVec 8)} {b : Bool} {s : State}
    (hfree : remoteHeld s h r bs.length true b = false) : exec (.fabWrite h r bs b) s =
      .next (receive 0x01 h [r.ctx.toNat, r.seg.toNat, r.off.toNat, bnat b] bs (remoteWrite h.src.toNat r bs b) s) :=
  if_neg (by rw [hfree]; decide)

theorem exec_readReq {h : MsgHdr} {r : RemoteRef} {n : BitVec 16} {s : State}
    (hfree : remoteHeld s h r n.toNat false false = false) : exec (.readReq h r n) s =
      .next (receive 0x02 h [r.ctx.toNat, r.seg.toNat, r.off.toNat, n.toNat] [] (remoteRead h r n.toNat) s) :=
  if_neg (by rw [hfree]; decide)

theorem poisonedData_none {o : Barrier} {slot m a : Nat} {s : State} (h : rawDest s o slot a = none) :
    poisonedData o slot (.far m a) s =
      failBarrier (fTile slot .corrupt) o (ledgerCorrupt slot (.far m a) (Header.ofBytes []) s) := by
  unfold poisonedData
  dsimp only
  rw [h]

theorem poisonedData_mem {o : Barrier} {slot m a d : Nat} {k : Option Nat} {s : State}
    (h : rawDest s o slot a = some (.mem d k)) : poisonedData o slot (.far m a) s = placePoisonWrite (.mem d k) s := by
  unfold poisonedData
  dsimp only
  rw [h]

end Sys2Proof.Machine

namespace Sys2Proof
open Machine

/-- Settles O41: what is held, the message's place in the order, and the request it answers choose. -/
theorem fabricMessagesTakeEffect : Obligations.FabricMessagesTakeEffect := by
  intro h s hdest k want s1 answered
  refine ⟨fun hseq => ⟨fun r bs b hfree => ?_, fun r n hfree => ?_, fun op t n sc => ?_, fun m d hd hroot u hu => ?_, fun m d hd => ?_⟩,
    fun r bs b hheld => if_pos hheld, fun r n hheld => if_pos hheld, fun r bs b hfree hseq hbefore => ?_,
    fun r bs hfound => ⟨?_, fun hnone => ?_, fun a k hmem => ?_⟩, fun bs bad hnone => ?_, fun r hfound hparts => ⟨?_, fun st d hfail => ?_⟩⟩
  · exact (exec_fabWrite hfree).trans (congrArg Host.Outcome.next (receive_next hdest hseq ..))
  · exact (exec_readReq hfree).trans (congrArg Host.Outcome.next (receive_next hdest hseq ..))
  · exact congrArg Host.Outcome.next (receive_next hdest hseq ..)
  · show execCollAdd h m s = _
    unfold execCollAdd
    dsimp only
    rw [hd]
    dsimp only
    rw [if_pos hroot, hu, if_neg (by simp)]
    exact congrArg Host.Outcome.next (receive_next hdest hseq ..)
  · show execCollMax h m s = _
    have hback : (BitVec.ofNat 16 (moduleId s)).toNat = moduleId s := by
      rw [← hdest, BitVec.ofNat_toNat, BitVec.setWidth_eq]
    unfold execCollMax
    dsimp only
    rw [hd]
    exact congrArg Host.Outcome.next (receive_next (h := { h with dest := BitVec.ofNat 16 (moduleId s) }) hback hseq ..)
  · exact (exec_fabWrite hfree).trans (congrArg Host.Outcome.next (receive_before hdest hseq hbefore ..))
  · exact exec_readResp_some hdest hfound
  · exact (exec_readResp_some hdest hfound).trans (congrArg (Host.Outcome.next ∘ settle) (poisonedData_none hnone))
  · exact (exec_readResp_some hdest hfound).trans (congrArg (Host.Outcome.next ∘ settle) (poisonedData_mem hmem))
  · exact exec_readResp_none hdest hnone
  · exact exec_ack hdest hfound hparts 0 0
  · rw [exec_ack hdest hfound hparts, if_pos hfail]
    rfl

end Sys2Proof
end

section
/-! Die links and compute dies (chapter 17). -/

namespace Sys2Proof.Machine
open Sys2Proof

theorem foldl_addSet_faults (l : List FSet) (n : Nat) (s : State) : (l.foldl (fun s f => addSet f s n) s).faults = s.faults :=
  foldl_proj State.faults (f := fun s f => addSet f s n) (fun _ _ => rfl) l s

theorem joinCore_faults (p n : Nat) (s : State) : (joinCore p s n).faults = s.faults := by
  unfold joinCore putTimeouts
  extract_lets pt held c0 s0 s1 c1 usable s2 new
  calc (new.foldl (fun s f => addSet f s n) s2).faults = s2.faults := foldl_addSet_faults new n s2
    _ = s1.faults := rfl
    _ = s0.faults := foldl_addSet_faults held n s0
    _ = s.faults := rfl

/-- A core that returns with its die changes no fence. -/
theorem returnCore_faults (s : State) (n : Nat) : (returnCore n s).faults = s.faults := by
  unfold returnCore
  dsimp only
  split
  · rfl
  · split
    · rw [joinCore_faults, setCore_faults]
    · rfl

theorem loadReeve_faults (d : Nat) (s : State) : (loadReeve d s).faults = s.faults := by
  unfold loadReeve setFail
  split
  · rfl
  · split <;> rfl

theorem isFenced_congr {s t : State} (h : t.faults = s.faults) (dom k : Nat) : isFenced t dom k = isFenced s dom k := by
  rw [isFenced, isFenced, h]

theorem isFenced_liftFence (dom k : Nat) (s : State) : isFenced (liftFence dom k s) dom k = false := by
  simp [isFenced, liftFence, setErase]

/-- What a stile between two compute dies that are not silent changes. -/
theorem exec_stileFence {l : BitVec 6} {s : State} (hl : l.toNat < 44) (ha : (linkEnds l.toNat).1 < 4) (hb : (linkEnds l.toNat).2 < 4)
    (hsa : dieSilent (fenceLink l.toNat s) (linkEnds l.toNat).1 = false)
    (hsb : dieSilent (fenceLink l.toNat s) (linkEnds l.toNat).2 = false) :
    exec (.stileFence l) s = .next (fenceLink l.toNat s) := by
  show execStileFence l s = _
  unfold execStileFence
  dsimp only
  rw [if_neg (not_le.mpr hl), if_pos ha, hsa, if_neg Bool.false_ne_true, if_pos hb, hsb, if_neg Bool.false_ne_true]

/-- The state of a die's return before its reset is noted. -/
def returnedDie (d : Nat) (s : State) : State :=
  let s1 := sitesSilent (returnLinks d s)
  (List.range 64).foldl (fun s i => returnCore (64 * d + i) s)
    (loadReeve d (liftFence domDie d (restoreTallies [d] { s1 with regs := s1.regs.filter fun e => !dieReg d e.1 })))

theorem returnedDie_free (d : Nat) (s : State) : isFenced (returnedDie d s) domDie d = false := by
  unfold returnedDie
  rw [isFenced_congr (foldl_proj State.faults (fun s i => returnCore_faults s (64 * d + i)) _ _), isFenced_congr (loadReeve_faults d _),
    isFenced_liftFence]

end Sys2Proof.Machine

namespace Sys2Proof
open Machine

/-- Settles O42: the link's state and the die's own choose. -/
theorem dieEventsTakeEffect : Obligations.DieEventsTakeEffect := by
  intro s
  refine ⟨fun l hl hup => if_pos ⟨hl, hup⟩, fun l n hl => ⟨?_, ?_⟩, fun l hl hup ha hb => ?_, fun d hfree => ⟨_, rfl, rfl⟩,
    fun d hf hstuck => ?_⟩
  · show execDieLinkRepair l n false s = _
    simp [execDieLinkRepair, not_le.mpr hl, bnat]
  · show execDieLinkRepair l n true s = _
    simp [execDieLinkRepair, not_le.mpr hl, bnat]
  · intro s1 hsa hsb
    exact exec_stileFence hl ha hb hsa hsb
  · refine ⟨_, returnedDie d.toNat s, ?_, rfl, returnedDie_free d.toNat s⟩
    exact if_neg (by simp [hf, hstuck])

end Sys2Proof
end

section
/-! Guest sites (chapter 17). -/

namespace Sys2Proof.Machine
open Sys2Proof

/-- A run of context 1 with an add that waits for the context's writes (R423). -/
def owedRun : Run where
  id := 0
  ctx := 1
  slot := 0
  args := []
  cmd := ⟨0, 0, 1⟩
  page := 0
  descs := []
  progress := []
  staged := []
  done := []
  paid := []
  readyAt := []
  made := []
  owed := [⟨0, 0, 0, 1, 0, 0, 0, 0⟩]
  trunc := false
  failed := none

/-- The request for that write, which guest site 0 has not answered yet. -/
def owedRequest : GuestReq := ⟨0, .cmd ⟨0, 0, 1⟩, 0, 0, true, 0, 64⟩

/-- The state after reset with the run, in a program under handle 9, and its request. -/
def owedState : State := { State.reset with
  progs := [(9, some { stagedProgram with runs := [owedRun] })]
  g0 := { Guest.reset with requests := [owedRequest] } }

/-- How many adds of each run of handle 9 wait in the state that an answer gives. -/
def owedOf : Ans → List Nat
  | .next t => ((progOf t 9).map fun p => p.runs.map (·.owed.length)).getD []
  | _ => []

end Sys2Proof.Machine

namespace Sys2Proof
open Machine

/-- Refutes O43: the answer to a write of context 1 lets the adds that waited for it go (R423), which is more than the request's
removal: the run's waiting add is gone, where the statement's state still has it. -/
theorem not_guestCommandsTakeEffect : ¬ Obligations.GuestCommandsTakeEffect := by
  intro h
  obtain ⟨-, -, -, -, hresponse, -⟩ := h false 0 owedState
  obtain ⟨hdone, -⟩ := hresponse owedRequest (by decide +kernel)
  have hgone : owedOf (exec (.guestResponse false 0 .done) owedState) ≠ [1] := by decide +kernel
  have hleft : owedOf (.next (settle (setGuest false
      { guestOf owedState false with requests := (guestOf owedState false).requests.erase owedRequest } owedState))) = [1] := by
    decide +kernel
  exact hgone ((congrArg owedOf hdone).trans hleft)

end Sys2Proof
end

section
/-! External hosts (chapter 18). -/

namespace Sys2Proof.Machine
open Sys2Proof

theorem extPort_setExt (b : Bool) (v : ExtPort) (s : State) : extPort (setExt b v s) b = v := by
  cases b <;> rfl

/-- What a lost write's end leaves: the ports and memory. -/
theorem signalHeld_lost (b : Bool) (s : State) (e : Cmd) (c : Bool) :
    extPort (signalHeld b true s e) c = extPort s c ∧ (signalHeld b true s e).mem = s.mem := by
  unfold signalHeld finishFail
  simp only [if_true]
  (repeat' split)
  case h_1.isFalse =>
    rename_i c _ _ _ _ _ _ _
    obtain ⟨l, k, hk⟩ := finishCode_eq c (fHost (bnat b + 1)).1 (fHost (bnat b + 1)).2 s
    rw [hk]
    exact ⟨rfl, rfl⟩
  all_goals exact ⟨rfl, rfl⟩

/-- The lost writes' ends together. -/
theorem foldl_signalHeld_lost (b c : Bool) (l : List Cmd) (s : State) :
    extPort (l.foldl (signalHeld b true) s) c = extPort s c ∧ (l.foldl (signalHeld b true) s).mem = s.mem :=
  ⟨foldl_proj (extPort · c) (fun s e => (signalHeld_lost b s e c).1) l s,
    foldl_proj State.mem (fun s e => (signalHeld_lost b s e c).2) l s⟩

/-- The state in which a hold without held writes has expired, before the commands hear of it. -/
def holdExpired (b : Bool) (s : State) : State :=
  let s1 := incF (EXT_HOLD (portIx b)) EXT_HOLD_DROPPED 0 (stopHolding b s)
  setExt b { extPort s1 b with lost := true } s1

theorem extPort_stopHolding (b : Bool) (s : State) :
    extPort (stopHolding b s) b = { extPort s b with holding := false, held := [] } := by
  unfold stopHolding setExtState setF
  dsimp only
  rw [extPort_setReg, extPort_setReg, extPort_setReg, extPort_setExt]

theorem stopHolding_mem (b : Bool) (s : State) : (stopHolding b s).mem = s.mem := by
  cases b <;> rfl

theorem extPort_holdExpired (b : Bool) (s : State) :
    extPort (holdExpired b s) b = { extPort s b with holding := false, held := [], lost := true } := by
  unfold holdExpired incF setF
  dsimp only
  rw [extPort_setExt, extPort_setReg, extPort_stopHolding]

theorem holdExpired_mem (b : Bool) (s : State) : (holdExpired b s).mem = s.mem := by
  unfold holdExpired
  rw [setExt_mem, incF_mem, stopHolding_mem]

theorem exec_extHoldExpiry {b : Bool} {s : State} (hhold : (extPort s b).holding = true) (hheld : (extPort s b).held = []) :
    exec (.extHoldExpiry b) s =
      .next (settle ((holdExpired b s).cmds.foldl (signalHeld b true) (holdExpired b s))) := by
  show execExtHoldExpiry b s = _
  unfold execExtHoldExpiry
  dsimp only
  rw [hheld, hhold]
  rfl

end Sys2Proof.Machine

namespace Sys2Proof
open Machine

/-- Settles O44: the port's mode, its hold and the place of an access choose. -/
theorem externalHostCommandsTakeEffect : Obligations.ExternalHostCommandsTakeEffect := by
  intro b s
  dsimp only
  refine ⟨fun gen width hmode h5 h6 hlow hhigh hwidth hfree => ?_, fun hend => ⟨?_, ?_, ?_, fun l0 bme => ?_⟩,
    fun hhold => ⟨?_, fun hheld => ?_⟩, fun off bs a ha => ⟨fun hfree => ?_, fun hheld => ?_⟩, fun off n a bs ha hfree hread => ?_,
    fun e hpending => ?_, fun hmode hstate a hstack => ⟨fun n bs hread => ?_, fun n bs => ?_, fun bs hlen => if_neg (by simp [hlen])⟩,
    fun hsnoop => if_pos hsnoop⟩
  · show execExtLinkUp b gen width s = _
    unfold execExtLinkUp
    dsimp only
    rw [hmode, if_neg (by decide), if_neg (not_or.mpr ⟨h5, h6⟩), Nat.min_eq_right hhigh, if_neg (by omega), hfree]
    rfl
  · show execExtHoldBegin b .linkDown s = _
    simp [execExtHoldBegin, hend]
  · show execExtHoldBegin b .hostReset s = _
    simp [execExtHoldBegin, hend]
  · show execExtHoldBegin b .bmeClear s = _
    simp [execExtHoldBegin, hend]
  · show execExtHoldEnd b l0 bme s = _
    simp [execExtHoldEnd, hend]
  · exact congrArg Host.Outcome.next (if_pos hhold)
  · obtain ⟨hport, hmem⟩ := foldl_signalHeld_lost b b (holdExpired b s).cmds (holdExpired b s)
    rw [extPort_holdExpired] at hport
    exact ⟨_, exec_extHoldExpiry hhold hheld, by rw [hport], by rw [hport], hmem.trans (holdExpired_mem b s)⟩
  · show execBar4Write b off bs s = _
    rw [execBar4Write, ha]
    exact if_neg (by rw [hfree]; decide)
  · show execBar4Write b off bs s = _
    rw [execBar4Write, ha]
    exact if_pos hheld
  · show execBar4Read b off n s = _
    simp [execBar4Read, ha, hfree, hread]
  · show execMsixUnmask b e s = _
    simp [execMsixUnmask, hpending]
  · obtain ⟨k, hk⟩ := hstack
    show execRootDeviceDma b a none n true s = _
    simp [execRootDeviceDma, hmode, hstate, hk, hread]
  · obtain ⟨k, hk⟩ := hstack
    show execRootDeviceDma b a (some bs) n true s = _
    unfold execRootDeviceDma
    simp only [hmode, hstate, hk, deviceMsi, beq_self_eq_true, Bool.and_self, if_true, Option.bind_some, Bool.not_true,
      Bool.false_eq_true, if_false]
    cases msiHart b a.toNat bs s with
    | none => rfl
    | some h => rfl

end Sys2Proof
end

section
/-! Maps of any form (a write that deletes an entry), power samples and coolant (chapter 19). -/

namespace Sys2Proof
open Machine

/-- Every entry of the map from key `c` on comes after one with a key up to `a`, which a read of `c` stops at. -/
def Assoc.Shields {α : Type} (c a : Nat) : Assoc α → Prop
  | [] => False
  | (j, _) :: r => if j < c then Shields c a r else j ≤ a

namespace Assoc.Shields

variable {α : Type} [DecidableEq α] {d : Nat → α} {c a : Nat}

/-- A write of a value that is not the default shields the keys below. -/
theorem put_self {v : α} (hv : v ≠ d a) (hca : c < a) (m : Assoc α) : Shields c a (Assoc.put d m a v) := by
  induction m with
  | nil => simp [Assoc.put, hv, Shields, Nat.lt_asymm hca]
  | cons e r ih =>
    obtain ⟨j, w⟩ := e
    simp only [Assoc.put, if_neg hv]
    split
    · simp [Shields, Nat.lt_asymm hca]
    · split
      · simp [Shields, Nat.lt_asymm hca]
      · simp only [Shields]
        split
        · exact ih
        · omega

/-- A write beyond the shield, of any value, leaves the shield and the read below it. -/
theorem put_above {m : Assoc α} (h : Shields c a m) {b : Nat} (hab : a < b) (hca : c ≤ a) (v : α) :
    Shields c a (Assoc.put d m b v) ∧ Assoc.get d (Assoc.put d m b v) c = Assoc.get d m c := by
  induction m with
  | nil => exact h.elim
  | cons e r ih =>
    obtain ⟨j, w⟩ := e
    simp only [Shields] at h
    have hj : j ≤ a := by
      by_cases hjc : j < c
      · omega
      · simpa [hjc] using h
    simp only [Assoc.put, if_neg (show ¬ b = j by omega), if_neg (show ¬ b < j by omega), Shields, Assoc.get]
    by_cases hjc : j < c
    · rw [if_pos hjc] at h ⊢
      rw [if_neg (by omega), if_neg (by omega), if_neg (by omega), if_neg (by omega)]
      exact ih h
    · rw [if_neg hjc]
      refine ⟨hj, ?_⟩
      by_cases hcj : c = j
      · rw [if_pos hcj, if_pos hcj]
      · rw [if_neg hcj, if_neg hcj, if_pos (by omega), if_pos (by omega)]

end Assoc.Shields

end Sys2Proof

namespace Sys2Proof.Machine
open Sys2Proof

/-! ### The cap that a power sample meets -/

/-- The registers of `t` shield PWR_CAP, which reads as in `s`. -/
def CapShielded (s t : State) : Prop := Assoc.Shields PWR_CAP PWR_INPUT t.regs ∧ getReg t PWR_CAP = getReg s PWR_CAP

/-- A write beyond PWR_INPUT. -/
theorem CapShielded.setReg {s t : State} (h : CapShielded s t) {o : Nat} (ho : PWR_INPUT < o) (v : Nat) :
    CapShielded s (setReg o v t) := by
  obtain ⟨hshield, hget⟩ := Assoc.Shields.put_above (d := regReset) h.1 ho (by decide) (BitVec.ofNat 64 v)
  exact ⟨hshield, (congrArg BitVec.toNat hget).trans h.2⟩

theorem ofNat_ne_reset_input {v : Nat} (hlow : 0 < v) (hhigh : v < 2 ^ 64) : BitVec.ofNat 64 v ≠ regReset PWR_INPUT := by
  have hreset : (regReset PWR_INPUT).toNat = 0 := by decide
  intro h
  have := congrArg BitVec.toNat h
  rw [BitVec.toNat_ofNat, Nat.mod_eq_of_lt hhigh, hreset] at this
  omega

/-- The write of PWR_INPUT by a sample of some watts. -/
theorem capShielded_input {v : Nat} (hlow : 0 < v) (hhigh : v < 2 ^ 64) (s : State) : CapShielded s (setReg PWR_INPUT v s) := by
  have hne := ofNat_ne_reset_input hlow hhigh
  refine ⟨Assoc.Shields.put_self hne (by decide) s.regs, ?_⟩
  rw [getReg, getReg, Machine.setReg, Assoc.get_put_of_ne hne, if_neg (by decide)]

theorem foldl_energy_capShielded {s : State} (draw : Nat → Nat) (l : List Nat) {t : State} (h : CapShielded s t) :
    CapShielded s (l.foldl (fun t k => incF (PWR_ENERGY k) PWR_ENERGY_UJ (draw k) t) t) := by
  induction l generalizing t with
  | nil => exact h
  | cons k l ih =>
    exact ih (h.setReg (Nat.lt_of_lt_of_le (by decide : PWR_INPUT < 0x21d0040) (Nat.le_add_right _ _)) _)

/-- A sample of some watts leaves PWR_CAP, whatever the form of the registers. -/
theorem getReg_sampleRegs_cap {w : Nat} (hlow : 0 < w) (hhigh : w < 8192) (mv cur : Nat) (s : State) :
    getReg (sampleRegs w mv cur s) PWR_CAP = getReg s PWR_CAP := by
  unfold sampleRegs
  extract_lets seq s1 s2 draw
  have h1 : CapShielded s s1 := capShielded_input (by omega) (by omega) s
  have h2 : CapShielded s s2 := h1.setReg (by decide) _
  rw [getReg_advance]
  exact (foldl_energy_capShielded draw _ h2).2

theorem noteEstimates_regs (es : List (BitVec 8 × BitVec 16 × BitVec 32)) (s : State) : (noteEstimates es s).regs = s.regs := by
  unfold noteEstimates
  refine foldl_proj State.regs (fun s e => ?_) es s
  rfl

theorem noteEstimates_cooling (es : List (BitVec 8 × BitVec 16 × BitVec 32)) (s : State) :
    (noteEstimates es s).power.cooling = s.power.cooling := by
  unfold noteEstimates
  refine foldl_proj (fun s => s.power.cooling) (fun s e => ?_) es s
  rfl

theorem noteEstimates_moving (es : List (BitVec 8 × BitVec 16 × BitVec 32)) (s : State) :
    (noteEstimates es s).power.moving = s.power.moving := by
  unfold noteEstimates
  refine foldl_proj (fun s => s.power.moving) (fun s e => ?_) es s
  rfl

theorem sampleRegs_power (w mv cur : Nat) (s : State) : (sampleRegs w mv cur s).power = s.power := by
  unfold sampleRegs
  extract_lets seq s1 s2 draw
  have h2 : s2.power = s.power := by rw [setF_power, setReg_power]
  rw [advance_power, ← h2]
  exact foldl_proj State.power (f := fun t k => incF (PWR_ENERGY k) PWR_ENERGY_UJ (draw k) t) (fun _ _ => rfl) _ s2

theorem capWatts_congr {s t : State} (hreg : getReg t PWR_CAP = getReg s PWR_CAP) : capWatts t = capWatts s := by
  have hfield : getF t PWR_CAP PWR_CAP_WATTS = getF s PWR_CAP PWR_CAP_WATTS := by
    rw [getF, getF, hreg]
  exact congrArg (fun x => max 1200 (min 4000 x)) hfield

theorem effectiveCap_congr {s t : State} (hreg : getReg t PWR_CAP = getReg s PWR_CAP) (hcool : t.power.cooling = s.power.cooling) :
    effectiveCap t = effectiveCap s := by
  unfold effectiveCap
  rw [capWatts_congr hreg, hcool]

/-- A write of PWR_STATUS that leaves OVER set leaves PWR_CAP, whatever the form of the registers. -/
theorem getReg_setStatus_cap {f : Fld} {v : Nat} {s : State}
    (hover : bits (setBits (getReg s PWR_STATUS) f.hi f.lo v) PWR_STATUS_OVER.hi PWR_STATUS_OVER.lo = 1) :
    getReg (setF PWR_STATUS f v s) PWR_CAP = getReg s PWR_CAP := by
  have hne : BitVec.ofNat 64 (setBits (getReg s PWR_STATUS) f.hi f.lo v) ≠ regReset PWR_STATUS := by
    intro h
    have hbits := congrArg (fun x : BitVec 64 => bits x.toNat PWR_STATUS_OVER.hi PWR_STATUS_OVER.lo) h
    rw [BitVec.toNat_ofNat, bits_mod_two_pow (by decide) (by decide), hover] at hbits
    exact absurd hbits (by decide)
  rw [getReg, getReg, setF, setReg, Assoc.get_put_of_ne hne, if_neg (by decide)]

/-- The state in which a sample above the cap is judged: OVER set, SETTLING clear. -/
def overState (p : Power) (s : State) : State :=
  setF PWR_STATUS PWR_STATUS_SETTLING 0 { setF PWR_STATUS PWR_STATUS_OVER 1 s with power := p }

theorem getReg_overState_cap (p : Power) (s : State) : getReg (overState p s) PWR_CAP = getReg s PWR_CAP := by
  have hover : getF (setF PWR_STATUS PWR_STATUS_OVER 1 s) PWR_STATUS PWR_STATUS_OVER = 1 :=
    getF_setF_same (by decide) (by decide) (by decide) s
  rw [overState, getReg_setStatus_cap]
  · exact getReg_setStatus_cap (bits_setBits_same ..)
  · rw [bits_setBits_below (by decide)]
    exact hover

/-- The power figures after a sample of `w` watts. -/
def countSample (w : Nat) (p : Power) : Power := { p with sumWatts := p.sumWatts + w, samples := p.samples + 1 }

/-- A sample above the cap, with no core on the move, in the state that it judges. -/
theorem powerSample_over {w mv cur : Nat} {es : List (BitVec 8 × BitVec 16 × BitVec 32)} {s s1 u : State} (hw : w < 8192)
    (hmoving : s.power.moving = []) (hcap : effectiveCap s < w) (hs1 : s1 = noteEstimates es (sampleRegs w mv cur s))
    (hu : u = overState { countSample w s1.power with moving := [] } { s1 with power := countSample w s1.power }) :
    effectiveCap s1 = effectiveCap s ∧ effectiveCap u = effectiveCap s ∧ powerSample w mv cur es s = capAction w u := by
  have hreg : getReg s1 PWR_CAP = getReg s PWR_CAP := by
    rw [getReg, hs1, noteEstimates_regs, ← getReg]
    exact getReg_sampleRegs_cap (Nat.zero_lt_of_lt hcap) hw mv cur s
  have hcool : s1.power.cooling = s.power.cooling := by rw [hs1, noteEstimates_cooling, sampleRegs_power]
  have hstill : s1.power.moving = [] := by rw [hs1, noteEstimates_moving, sampleRegs_power, hmoving]
  have hcap1 : effectiveCap s1 = effectiveCap s := effectiveCap_congr hreg hcool
  refine ⟨hcap1, effectiveCap_congr ?_ ?_, ?_⟩
  · rw [hu, getReg_overState_cap]
    exact hreg
  · rw [hu, overState, setF_power]
    exact hcool
  · have hover : bnat (decide (effectiveCap s1 < w)) = 1 := by simp [bnat, hcap1, hcap]
    unfold powerSample
    dsimp only
    rw [← hs1, hover, setF_power]
    dsimp only
    rw [hstill, List.isEmpty_nil, List.filter_nil, Bool.not_true, if_neg Bool.false_ne_true, hu]
    rfl

theorem insertKey_congr {s t : State} (h : ∀ n, offKey t n = offKey s n) (n : Nat) (l : List Nat) : insertKey t n l = insertKey s n l := by
  induction l with
  | nil => rfl
  | cons m r ih => rw [insertKey, insertKey, h, h, ih]

theorem sortOff_congr {s t : State} (h : ∀ n, offKey t n = offKey s n) (l : List Nat) : sortOff t l = sortOff s l := by
  induction l with
  | nil => rfl
  | cons n r ih => rw [sortOff, sortOff, ih, insertKey_congr h]

/-- How long a sample has been quiet chooses no core. -/
theorem offCandidates_quiet (k : Nat) (s : State) (p : Nat → Bool) :
    offCandidates { s with power := { s.power with quiet := k } } p = offCandidates s p := by
  refine sortOff_congr (fun n => ?_) _
  rfl

theorem capAction_over {w : Nat} {s : State} (hcap : effectiveCap s < w) :
    capAction w s = takeExcess (1000 * (w - effectiveCap s))
      (offCandidates { s with power := { s.power with quiet := 0 } } fun _ => true) { s with power := { s.power with quiet := 0 } } := by
  rw [offCandidates_quiet]
  exact if_pos hcap

end Sys2Proof.Machine
end

section
/-! The ladder of resets (chapter 20): a chip reset can write the cellar. -/

namespace Sys2Proof.Machine
open Sys2Proof

/-- A QUEUE_MARK of context 1 whose word goes to a cellar volume, started, with the descriptor that it has had. -/
def cellarMark : Cmd where
  ref := ⟨0, 0, 1⟩
  irq := false
  barrier := false
  instr := some (.queueMark ⟨0, 0, 1⟩ ⟨some (⟨0, 0⟩, 1)⟩)
  svc := 0
  core := 256
  fetchBell := 0
  started := true
  result := none
  heard := [{ Heard.ok with num := clsCellar * 256 ^ 12 }]
  descs := []

/-- A run of the command `cmd`, waiting behind the runs before it. -/
def blockedRun (id : Nat) (cmd : CmdRef) : Run := { owedRun with id := id, cmd := cmd, owed := [] }

/-- The mark's command runs behind another run of one program; nothing is captured at a reset, and the mark's queue takes no records. -/
def cellarMarkState : State :=
  setF FLT_CTL_LIVE FLT_CTL_CAPTURE 0 <| setF CELLAR_STATUS CELLAR_STATUS_STATE 0 { State.reset with
    cmds := [cellarMark]
    queues := [(0, { queueOf State.reset 0 with discard := true })]
    progs := [(9, some { stagedProgram with runs := [blockedRun 0 ⟨0, 7, 1⟩, blockedRun 1 ⟨0, 0, 1⟩] })] }

/-- The chip reset fails the first run; the mark's turn comes, and its word is in the cellar. -/
theorem cellar_chipReset_cellarMarkState : (chipReset true false cellarMarkState).cellar.isEmpty = false := by
  decide +kernel

/-- Refutes O47: of a chip reset, which aborts every command and run, the word that a started QUEUE_MARK still stores may reach the
cellar, which the statement says the reset leaves as it is. -/
theorem not_ladderCommandsTakeEffect : ¬ Obligations.LadderCommandsTakeEffect := by
  unfold Obligations.LadderCommandsTakeEffect
  intro h
  obtain ⟨-, -, -, -, hchip, -⟩ := h cellarMarkState
  obtain ⟨t, -, ht, -, -, -, hcellar, -⟩ := hchip (by decide +kernel)
  have hnone : cellarMarkState.cellar.isEmpty = true := rfl
  have hsome := cellar_chipReset_cellarMarkState
  rw [← ht, hcellar, hnone] at hsome
  cases hsome

end Sys2Proof.Machine
end

section
/-! The frames of the events: poisoned data can end a commit, which is sent to the coordinator. -/

namespace Sys2Proof.Machine
open Sys2Proof

/-- A step on core 0. -/
def coreStep : PStep := ⟨0, 0, 0, 0, 0, 0, 0, 0, 0, 0, 0, 0, 0, 0, 0, 0, 0, 0, 0, 0, 0, 0, 0, 0⟩

/-- A program that is being unloaded, whose one run has begun its step on core 0, and which holds its vote on a commit that
module 4 coordinates. -/
def votingProgram : Program := { stagedProgram with
  unloading := some ⟨0, 0, 1⟩
  steps := [coreStep]
  runs := [{ owedRun with owed := [], progress := [(0, 1)] }]
  commit := some ⟨0, 0, 0, .staging, true, 4, [], false, 0, none⟩ }

/-- A read of line 0 by the sequencer of core 0, whose data has come as poison. -/
def poisonedRead : Busy := ⟨0, 0, 128, .readShared, .s, some (2 ^ 512), [], false, false⟩

/-- That program and that read, with a route to module 4 by port 0, which is UP. -/
def votingState : State :=
  setF (FAB_PORT_STATUS 0) FAB_PORT_STATUS_STATE 3 { State.reset with
    progs := [(9, some votingProgram)]
    fab := { Fabric.reset with routes := [(4, ⟨0, 1, 0, false, true, false, false, false⟩)] }
    hc := { HostComplex.reset with busy := [poisonedRead] } }

/-- How many messages the state that an answer gives has sent. -/
def sentOf : Ans → Option Nat
  | .next t => some t.out.length
  | _ => none

theorem sentOf_eq_some {a : Ans} {n : Nat} (h : sentOf a = some n) : ∃ t, a = .next t ∧ t.out.length = n := by
  unfold sentOf at h
  split at h
  · exact ⟨_, rfl, Option.some.inj h⟩
  · cases h

end Sys2Proof.Machine

namespace Sys2Proof
open Machine

/-- Refutes O60: poisoned data fails the run of the core that asked for it (R180), the unload that waited for the run ends the
commit, and the vote that was held goes out to module 4; the statement has `data` send nothing. -/
theorem not_eventsKeepTheirFrame : ¬ Obligations.EventsKeepTheirFrame := by
  intro h
  obtain ⟨t, ht, hsent⟩ := sentOf_eq_some (show sentOf (exec (.data 128 0) votingState) = some 1 by decide +kernel)
  obtain ⟨-, -, -, hmove, -⟩ := h (.data 128 0) votingState t ht
  obtain ⟨-, -, -, -, -, -, -, hdata⟩ := hmove rfl
  obtain ⟨-, -, hout⟩ := hdata 128 0 rfl
  rw [hout] at hsent
  cases hsent

end Sys2Proof
end

section
/-! Heartbeats, the owls, the Wardens, phases, the ledger's mirror and captures (chapter 20). -/

namespace Sys2Proof.Machine
open Sys2Proof

/-- An event for the platform's management can change the events that are held, and sends. -/
theorem pldmEvent_eq (c : Nat) (s : State) : ∃ evs n o, pldmEvent c s =
    { s with mgmt := { s.mgmt with events := evs, nextEvent := n }, out := o } := by
  unfold pldmEvent
  split
  · exact ⟨s.mgmt.events, s.mgmt.nextEvent, s.out, rfl⟩
  · exact ⟨_, _, _, rfl⟩

/-- A record of the ledger changes the ring and what goes with it, LEDGER_STATUS, the events and the tick. -/
theorem ledger_eq (kind sev dom addr data : Nat) (s : State) : ∃ k regs ring seq un evs n o, ledger kind sev dom addr data s =
    { s with
      tick := k, regs := regs, out := o
      faults := { s.faults with ring := ring, nextSeq := seq, unmirrored := un }
      mgmt := { s.mgmt with events := evs, nextEvent := n } } := by
  unfold ledger ledgerF
  split
  · exact ⟨_, s.regs, _, s.faults.nextSeq, _, s.mgmt.events, s.mgmt.nextEvent, s.out, rfl⟩
  · extract_lets rec lost faults s1 s2 s3
    have h2 : ∃ regs, s2 = { s1 with regs := regs } := by
      unfold s2
      split
      · exact ⟨_, rfl⟩
      · exact ⟨s1.regs, rfl⟩
    have h3 : ∃ evs n o, s3 = { s2 with mgmt := { s2.mgmt with events := evs, nextEvent := n }, out := o } := by
      unfold s3
      split
      · exact pldmEvent_eq _ _
      · exact ⟨s2.mgmt.events, s2.mgmt.nextEvent, s2.out, rfl⟩
    obtain ⟨regs, h2⟩ := h2
    obtain ⟨evs, n, o, h3⟩ := h3
    rw [h3, h2]
    exact ⟨_, _, _, _, _, _, _, _, rfl⟩

theorem ledger_capturing (kind sev dom addr data : Nat) (s : State) :
    (ledger kind sev dom addr data s).faults.capturing = s.faults.capturing := by
  obtain ⟨_, _, _, _, _, _, _, _, h⟩ := ledger_eq kind sev dom addr data s
  rw [h]

theorem ledger_activating (kind sev dom addr data : Nat) (s : State) :
    (ledger kind sev dom addr data s).mgmt.activating = s.mgmt.activating := by
  obtain ⟨_, _, _, _, _, _, _, _, h⟩ := ledger_eq kind sev dom addr data s
  rw [h]

theorem setReason_activating (b : Nat) (s : State) : (setReason b s).mgmt.activating = s.mgmt.activating := by
  unfold setReason
  split
  · rfl
  · extract_lets was s1
    have h1 : s1.mgmt.activating = s.mgmt.activating := ledger_activating ..
    split
    · obtain ⟨_, _, _, h⟩ := pldmEvent_eq (2 ^ 512 + 0x41 * 2 ^ 32 + 1) s1
      rw [sensorEvent, h]
      exact h1
    · exact h1

theorem activating_self {s : State} (h : s.mgmt.activating = none) :
    { s with mgmt := { s.mgmt with activating := none } } = s := by
  rw [← h]

/-! ### The owls -/

section
variable {k v : Nat} {on : Bool} {s : State}

theorem noteBeat_faults : { noteBeat k v on s with faults := s.faults } = s := rfl

theorem watched_noteBeat (hwf : Assoc.wf (fun _ => false) s.faults.watch = true) (j : Nat) :
    watched (noteBeat k v on s) j = if j = k then on else watched s j := Assoc.get_put hwf j

theorem seenOf_noteBeat (hwf : Assoc.wf (fun _ => 0) s.faults.seen = true) (j : Nat) :
    seenOf (noteBeat k v on s) j = if j = k then v else seenOf s j := Assoc.get_put hwf j

theorem noteBeat_wf_watch (hwf : Assoc.wf (fun _ => false) s.faults.watch = true) :
    Assoc.wf (fun _ => false) (noteBeat k v on s).faults.watch = true := Assoc.wf_put hwf

theorem noteBeat_wf_seen (hwf : Assoc.wf (fun _ => 0) s.faults.seen = true) :
    Assoc.wf (fun _ => 0) (noteBeat k v on s).faults.seen = true := Assoc.wf_put hwf

theorem lookAt_down (act : State → State) : lookAt k v false act s = noteBeat k v false s := rfl

theorem lookAt_counted {act : State → State} (hup : on = true) (hv : v ≠ seenOf s k) :
    lookAt k v on act s = noteBeat k v true s := by
  unfold lookAt
  rw [hup, if_neg (by decide), if_pos hv]

theorem lookAt_silent {act : State → State} (hup : on = true) (hv : v = seenOf s k) (hw : watched s k = true) :
    lookAt k v on act s = act (missLedger k (noteBeat k v false s)) := by
  unfold lookAt
  rw [hup, if_neg (by decide), if_neg (not_not.mpr hv), if_pos hw]

end

theorem lookDie_of_off {d : Nat} {s : State} (hoff : s.tray.mainOn = false) :
    lookDie d s = noteBeat d (getF s (OWL_BEAT d) OWL_BEAT_BEAT) false s := by
  unfold lookDie
  rw [hoff]
  rfl

theorem lookHost_of_off {s : State} (hoff : getF s OWL_CTL OWL_CTL_HOST_EN = 0) :
    lookHost s = noteBeat 4 (getF s OWL_BEAT_HOST OWL_BEAT_HOST_BEAT) false s := by
  unfold lookHost
  rw [hoff]
  rfl

/-- A die whose count has moved is noted with its count. -/
theorem lookDie_of_counted {d : Nat} {s : State} (hon : s.tray.mainOn = true) (hrung : underRung s 4 0 = false)
    (hfenced : isFenced s domDie d = false) (hbeat : getF s (OWL_BEAT d) OWL_BEAT_BEAT ≠ seenOf s d) :
    lookDie d s = noteBeat d (getF s (OWL_BEAT d) OWL_BEAT_BEAT) true s := by
  refine lookAt_counted ?_ hbeat
  rw [hon, hrung, hfenced]
  rfl

/-- The state once the owls of the dies below a number have noted their dies, watched or not. -/
def notedTo (on : Bool) (s : State) : Nat → State
  | 0 => s
  | k + 1 => noteBeat k (getF s (OWL_BEAT k) OWL_BEAT_BEAT) on (notedTo on s k)

section
variable (on : Bool) (s : State) (k : Nat)

theorem notedTo_eq : ∃ seen watch, notedTo on s k = { s with faults := { s.faults with seen := seen, watch := watch } } := by
  induction k with
  | zero => exact ⟨s.faults.seen, s.faults.watch, rfl⟩
  | succ k ih =>
    obtain ⟨seen, watch, h⟩ := ih
    exact ⟨_, _, by rw [notedTo, h, noteBeat]⟩

theorem getF_notedTo (r : Nat) (f : Fld) : getF (notedTo on s k) r f = getF s r f := by
  obtain ⟨_, _, h⟩ := notedTo_eq on s k
  rw [h]
  rfl

theorem notedTo_faults : { notedTo on s k with faults := s.faults } = s := by
  obtain ⟨_, _, h⟩ := notedTo_eq on s k
  rw [h]

variable {s k}

theorem notedTo_wf_watch (hwf : Assoc.wf (fun _ => false) s.faults.watch = true) :
    Assoc.wf (fun _ => false) (notedTo on s k).faults.watch = true := by
  induction k with
  | zero => exact hwf
  | succ k ih => exact noteBeat_wf_watch ih

theorem notedTo_wf_seen (hwf : Assoc.wf (fun _ => 0) s.faults.seen = true) :
    Assoc.wf (fun _ => 0) (notedTo on s k).faults.seen = true := by
  induction k with
  | zero => exact hwf
  | succ k ih => exact noteBeat_wf_seen ih

theorem watched_notedTo (hwf : Assoc.wf (fun _ => false) s.faults.watch = true) {d : Nat} (hd : d < k) :
    watched (notedTo on s k) d = on := by
  induction k with
  | zero => omega
  | succ k ih =>
    rw [notedTo, watched_noteBeat (notedTo_wf_watch on hwf)]
    split
    · rfl
    · exact ih (by omega)

theorem seenOf_notedTo (hwf : Assoc.wf (fun _ => 0) s.faults.seen = true) (d : Nat) :
    seenOf (notedTo on s k) d = if d < k then getF s (OWL_BEAT d) OWL_BEAT_BEAT else seenOf s d := by
  induction k with
  | zero => rfl
  | succ k ih =>
    rw [notedTo, seenOf_noteBeat (notedTo_wf_seen on hwf), ih]
    by_cases hdk : d = k
    · rw [if_pos hdk, if_pos (by omega), hdk]
    · rw [if_neg hdk]
      exact if_congr (by omega) rfl rfl

end

theorem lookDie_notedTo_of_off (d : Nat) {s : State} (hoff : s.tray.mainOn = false) :
    lookDie d (notedTo false s d) = notedTo false s (d + 1) := by
  rw [lookDie_of_off, getF_notedTo, notedTo]
  obtain ⟨_, _, h⟩ := notedTo_eq false s d
  rw [h]
  exact hoff

theorem lookDie_notedTo_of_counted {d : Nat} {s : State} (hwf : Assoc.wf (fun _ => 0) s.faults.seen = true)
    (hon : s.tray.mainOn = true) (hrung : underRung s 4 0 = false) (hfenced : isFenced s domDie d = false)
    (hbeat : getF s (OWL_BEAT d) OWL_BEAT_BEAT ≠ seenOf s d) :
    lookDie d (notedTo true s d) = notedTo true s (d + 1) := by
  obtain ⟨_, _, h⟩ := notedTo_eq true s d
  rw [lookDie_of_counted (s := notedTo true s d) (by rw [h]; exact hon) (by rw [h]; exact hrung) (by rw [h]; exact hfenced),
    getF_notedTo, notedTo]
  rw [getF_notedTo, seenOf_notedTo true hwf, if_neg (Nat.lt_irrefl d)]
  exact hbeat

/-- The state once the owls have noted every die, watched or not, and the host complex, which no owl watches. -/
def allNoted (on : Bool) (s : State) : State := noteBeat 4 (getF s OWL_BEAT_HOST OWL_BEAT_HOST_BEAT) false (notedTo on s 4)

theorem allNoted_faults (on : Bool) (s : State) : { allNoted on s with faults := s.faults } = s := by
  obtain ⟨_, _, h⟩ := notedTo_eq on s 4
  rw [allNoted, h, noteBeat]

theorem watched_allNoted {on : Bool} {s : State} (hwf : Assoc.wf (fun _ => false) s.faults.watch = true) {d : Nat} (hd : d < 4) :
    watched (allNoted on s) d = on := by
  rw [allNoted, watched_noteBeat (notedTo_wf_watch on hwf), if_neg (by omega), watched_notedTo on hwf hd]

theorem seenOf_allNoted {on : Bool} {s : State} (hwf : Assoc.wf (fun _ => 0) s.faults.seen = true) {d : Nat} (hd : d < 4) :
    seenOf (allNoted on s) d = getF s (OWL_BEAT d) OWL_BEAT_BEAT := by
  rw [allNoted, seenOf_noteBeat (notedTo_wf_seen on hwf), if_neg (by omega), seenOf_notedTo on hwf, if_pos hd]

/-- Where every owl only notes its die and the host complex's owl is off, OWL_CHECK notes them all. -/
theorem owlCheck_of_noted {on : Bool} {s : State} (hhost : getF s OWL_CTL OWL_CTL_HOST_EN = 0)
    (h : ∀ d, d < 4 → lookDie d (notedTo on s d) = notedTo on s (d + 1)) : execOwlCheck s = .next (allNoted on s) := by
  have h0 : lookDie 0 (notedTo on s 0) = notedTo on s 1 := h 0 (by decide)
  have h1 : lookDie 1 (notedTo on s 1) = notedTo on s 2 := h 1 (by decide)
  have h2 : lookDie 2 (notedTo on s 2) = notedTo on s 3 := h 2 (by decide)
  have h3 : lookDie 3 (notedTo on s 3) = notedTo on s 4 := h 3 (by decide)
  have hlast : lookHost (notedTo on s 4) = allNoted on s := by
    rw [lookHost_of_off ((getF_notedTo on s 4 _ _).trans hhost), getF_notedTo, allNoted]
  unfold execOwlCheck
  rw [← hlast, ← h3, ← h2, ← h1, ← h0, notedTo]

/-! ### Captures -/

theorem endCapture_capturing {s : State} {k : Nat} (h : s.faults.capturing = some k) (absent : Nat) (truncated abandoned : Bool) :
    (endCapture absent truncated abandoned s).faults.capturing = none := by
  unfold endCapture
  rw [h]
  dsimp only
  rw [ledger_capturing]
  cases abandoned <;> rfl

end Sys2Proof.Machine

namespace Sys2Proof
open Machine

/-- Settles O48: the owls note what they see, and act on a count that stood still; the rest is each command's own case. -/
theorem watchAndRecordCommandsTakeEffect : Obligations.WatchAndRecordCommandsTakeEffect := by
  intro s
  refine ⟨fun hoff => ?_, fun hoff hhost => ?_, fun hwatch hseen hon hrung hhost hbeats => ?_, rfl, fun d hon hf hr hw hb => ?_,
    fun hen hrun hw hb => ?_, fun hok hbeat hnone => ?_, rfl, fun i k c hi hk hmap => ?_, fun r q hup hun hring hq hmir => ?_,
    fun trig absent hnone => ?_, fun k hk => ⟨_, rfl, rfl, endCapture_capturing (s := advance s) hk _ _ _⟩⟩
  · show execHeartbeat s = _
    simp [execHeartbeat, hoff]
  · exact ⟨_, owlCheck_of_noted hhost fun d _ => lookDie_notedTo_of_off d hoff, allNoted_faults _ _,
      fun d hd hwf => watched_allNoted hwf hd⟩
  · refine ⟨_, owlCheck_of_noted hhost fun d hd => ?_, allNoted_faults _ _,
      fun d hd => ⟨watched_allNoted hwatch hd, seenOf_allNoted hseen hd⟩⟩
    obtain ⟨hfenced, hbeat⟩ := hbeats d hd
    exact lookDie_notedTo_of_counted hseen hon hrung hfenced hbeat
  · refine lookAt_silent ?_ hb hw
    rw [hon, hf, hr]
    rfl
  · refine lookAt_silent ?_ hb hw
    rw [hen, hrun]
    rfl
  · show Host.Outcome.next (wardenTakeover s) = _
    have hstay : (swapWarden (setReason 5 (missLedger 5
        (setF WARDEN_STATUS WARDEN_STATUS_STANDBY_OK 0 (setF OWL_STATUS OWL_STATUS_WARDEN 1 s))))).mgmt.activating = none := by
      rw [swapWarden, ledger_activating, setF_mgmt, setReason_activating, missLedger, ledger_activating]
      exact hnone
    unfold wardenTakeover
    rw [if_neg (by rw [hok]; decide), if_neg (not_not.mpr hbeat)]
    dsimp only
    rw [hstay]
    exact congrArg Host.Outcome.next (activating_self hstay)
  · intro s1 hworks
    show Host.Outcome.next (phaseFault _ _ _ s) = _
    unfold phaseFault
    rw [if_neg (by simp [hmap, Nat.not_le.mpr hi, Nat.not_le.mpr hk])]
    dsimp only
    rw [if_pos hworks, if_pos hworks]
  · show execLedgerMirrorWrite s = _
    unfold execLedgerMirrorWrite mirrorOne
    simp [hup, hun, hring, hq, hmir]
  · intro s1
    show execCrashCapture trig absent s = _
    simp [execCrashCapture, hnone, s1]

end Sys2Proof
end

section
/-! Starts, firmware updates, measurements and SPDM requests (chapter 21). -/

namespace Sys2Proof.Machine
open Sys2Proof

theorem quiesceQueues_mgmt (s : State) : (quiesceQueues s).mgmt = s.mgmt := by
  refine foldl_proj State.mgmt (fun s e => ?_) s.queues s
  split <;> rfl

theorem resumeQuiesce_mgmt (s : State) : (resumeQuiesce s).mgmt = s.mgmt := by
  unfold resumeQuiesce
  split
  · exact quiesceQueues_mgmt s
  · rfl

/-- While a Warden's or a Reeve's activation runs, no quiesce goes on. -/
theorem resumeQuiesce_of_runs {s : State} (h : activationRuns s = true) : resumeQuiesce s = s := by
  unfold resumeQuiesce
  rw [h]
  exact if_neg (by simp)

theorem bankOf_setBank {c : Component} {b : Nat} {x : Bank} {s : State} (hwf : Assoc.wf factoryBank s.mgmt.banks = true) :
    bankOf (setBank c b x s) c b = x := by
  rw [bankOf, setBank, Assoc.get_put hwf, if_pos rfl]

/-! ### Updates -/

section
variable {s : State} {u : Update}

@[simp] theorem pldmAnswer_mgmt (code : Nat) : (pldmAnswer code s).mgmt = s.mgmt := by simp [pldmAnswer, emit]
@[simp] theorem pldmAnswer_mem (code : Nat) : (pldmAnswer code s).mem = s.mem := by simp [pldmAnswer, emit]
@[simp] theorem pldmAnswer_out (code : Nat) : (pldmAnswer code s).out = s.out ++ [.pldm 0 code []] := by simp [pldmAnswer, emit]
@[simp] theorem fwState_mgmt (st c bytes : Nat) : (fwState st c bytes s).mgmt = s.mgmt := by simp [fwState]
@[simp] theorem fwState_mem (st c bytes : Nat) : (fwState st c bytes s).mem = s.mem := by simp [fwState]
@[simp] theorem fwState_out (st c bytes : Nat) : (fwState st c bytes s).out = s.out := by simp [fwState]

theorem requestUpdate_of_free {c : Component} {len : Nat} (hfree : updateBusy s = false) (hlen : len ≤ bankBytes c) :
    requestUpdate c len s = pldmAnswer 0 (fwState 1 (Component.id c) 0 (setBank c (idleBank s c) Bank.empty
      { s with mgmt := { s.mgmt with update := some ⟨c, len, 0, false⟩ } })) :=
  if_neg (by simp [hfree, Nat.not_lt.mpr hlen])

theorem firmwareData_of_fits {o : Nat} {bs : List Byte} (hup : s.mgmt.update = some u) (hver : u.verified = false)
    (hbs : bs.length ≤ 4096) (hlen : o + bs.length ≤ u.len) :
    firmwareData o bs s = pldmAnswer 0 (fwState 1 (Component.id u.comp) (u.received + bs.length)
      (setBank u.comp (idleBank s u.comp) { bankOf s u.comp (idleBank s u.comp) with
          image := patchBytes (bankOf s u.comp (idleBank s u.comp)).image o bs }
        { s with mgmt := { s.mgmt with update := some { u with received := u.received + bs.length } } })) := by
  unfold firmwareData
  rw [hup]
  exact if_neg (by simp [hver, Nat.not_lt.mpr hbs, Nat.not_lt.mpr hlen])

theorem verifyComplete_of_signed (hup : s.mgmt.update = some u)
    (hsigned : imageSigned u.comp (bankOf s u.comp (idleBank s u.comp)).image = true)
    (hsvn : minSvn s u.comp ≤ imgAt (bankOf s u.comp (idleBank s u.comp)).image 12 1) :
    verifyComplete s = pldmAnswer 0 (fwState 2 (Component.id u.comp) u.received (setBank u.comp (idleBank s u.comp)
      { bankOf s u.comp (idleBank s u.comp) with valid := true, used := false }
      { s with mgmt := { s.mgmt with update := some { u with verified := true } } })) := by
  unfold verifyComplete
  rw [hup]
  exact if_pos ⟨hsigned, hsvn⟩

theorem verifyComplete_of_bad (hup : s.mgmt.update = some u)
    (hbad : imageSigned u.comp (bankOf s u.comp (idleBank s u.comp)).image = false) :
    verifyComplete s = pldmAnswer 2 (fwState 4 (Component.id u.comp) u.received { s with mgmt := { s.mgmt with update := none } }) := by
  unfold verifyComplete
  rw [hup]
  exact if_neg (by simp [hbad])

theorem cancelUpdate_of_update (hup : s.mgmt.update = some u) :
    cancelUpdate s = pldmAnswer 0 (fwState 0 0 0 (setBank u.comp (idleBank s u.comp) Bank.empty
      { s with mgmt := { s.mgmt with update := none } })) := by
  unfold cancelUpdate
  rw [hup]

theorem activate_of_valid {c : Component} (hup : s.mgmt.update = none) (hact : s.mgmt.activating = none)
    (hvalid : bankValid s c (idleBank s c) = true) :
    activate c s = pldmAnswer 0 (setF FW_UPDATE FW_UPDATE_STATE 3 (setF FW_UPDATE FW_UPDATE_COMPONENT (Component.id c)
      { s with mgmt := { s.mgmt with update := none, activating := some (c, 0) } })) := by
  unfold activate
  rw [hup]
  exact if_neg (by simp [hact, hvalid])

theorem keyExchange_of_room {a : Bool} (hroom : s.mgmt.sessions.length < 4) :
    spdmAnswer (.keyExchange a) s = emit (.spdm 0 (leBytes 4 s.mgmt.nextSession ++ Config.spdmAnswer s.tick))
      (advance (setSessions (s.mgmt.sessions ++ [⟨s.mgmt.nextSession, a⟩])
        { s with mgmt := { s.mgmt with nextSession := (s.mgmt.nextSession + 1) % 2 ^ 32 } })) :=
  if_neg (Nat.not_le.mpr hroom)

end

/-! ### Activations -/

theorem ledger_activeBank (kind sev dom addr data : Nat) (s : State) :
    (ledger kind sev dom addr data s).mgmt.activeBank = s.mgmt.activeBank := by
  obtain ⟨_, _, _, _, _, _, _, _, h⟩ := ledger_eq kind sev dom addr data s
  rw [h]

theorem swapWarden_activeBank (s : State) : (swapWarden s).mgmt.activeBank = s.mgmt.activeBank := ledger_activeBank ..

theorem activated_activating (c : Component) (s : State) : (activated c s).mgmt.activating = none := rfl

/-- An activation makes the idle bank the active one. -/
theorem activeOf_activated {c : Component} {s : State} (hwf : Assoc.wf (fun _ => 0) s.mgmt.activeBank = true) :
    activeOf (activated c s) c = idleBank s c := by
  show Assoc.get _ (Assoc.put _ s.mgmt.activeBank _ _) _ = _
  rw [Assoc.get_put hwf, if_pos rfl]

theorem wardenActivation_of_ok {s : State} {n : Nat} (hact : s.mgmt.activating = some (.warden, n))
    (hok : getF s WARDEN_STATUS WARDEN_STATUS_STANDBY_OK = 1) :
    ∃ u, wardenActivation true s = activated .warden u ∧ u.mgmt.activeBank = s.mgmt.activeBank := by
  unfold wardenActivation
  rw [hact]
  dsimp only
  rw [if_pos ⟨rfl, hok⟩]
  exact ⟨_, rfl, swapWarden_activeBank s⟩

/-- With another die to visit, the activation of the Reeves loads this die and goes on. -/
theorem reeveActivation_of_more {s : State} {d n : Nat} (hact : s.mgmt.activating = some (.reeve, n))
    (hnext : nextVisit s n = some d) (hfree : reeveBusy s d = false) (hmore : (nextVisit s (d + 1)).isSome = true) :
    (reeveActivation d true s).mgmt = { s.mgmt with
      activating := some (.reeve, d + 1)
      reeveDigest := Assoc.put (fun _ => 0) s.mgmt.reeveDigest d (digestOf s .reeve (idleBank s .reeve)) } := by
  unfold reeveActivation
  rw [hact]
  dsimp only
  rw [if_neg (by simp [hnext, hfree]), if_neg (by decide)]
  refine (congrArg State.mgmt (if_pos ?_)).trans rfl
  exact hmore

theorem stickInstall_last {s : State} (hact : s.mgmt.activating = some (.stick, 7)) (hin : bitAt s.tray.present 7 = true)
    (hgood : bitAt s.tray.failed 7 = false) (hstate : getF s CELLAR_STATUS CELLAR_STATUS_STATE = 0) :
    stickInstall 7 true s = activated .stick (setBay 7 bayRebuilding s) := by
  unfold stickInstall
  rw [hact]
  dsimp only
  rw [if_neg (by simp [List.range_succ, hin, hgood, hstate]), if_neg (by decide), if_neg (by simp [List.range_succ])]

end Sys2Proof.Machine

namespace Sys2Proof
open Machine

/-- Settles O49: each command by the case its hypotheses choose. -/
theorem startAndFirmwareCommandsTakeEffect : Obligations.StartAndFirmwareCommandsTakeEffect := by
  intro s
  refine ⟨fun r u hoff hu => ?_, fun r hstandby hmain hhold hsafe hbank => ?_, fun c n hfree hlen => ?_,
    fun u o bs hup hver hbs hlen => ?_, fun u hup => ⟨fun hsigned hsvn => ?_, fun hbad => ?_, ?_⟩, fun c hup hact hvalid => ?_,
    fun n hact hok _ => ?_, fun d n hact hnext hfree hmore _ => ?_, fun hact hin hgood hstate => ?_, fun i h0 hff hblock => ?_,
    fun k hcert => ?_, fun a hroom => ?_⟩
  · show Host.Outcome.next (coldStart r s) = _
    unfold coldStart
    rw [if_neg (by simp [hoff])]
    dsimp only
    rw [hoff, if_neg Bool.false_ne_true, hu]
  · show Host.Outcome.next (warmStart r s) = _
    unfold warmStart
    rw [if_neg (by simp [hstandby, hmain, hhold, hbank, Nat.not_le.mpr hsafe])]
  · refine ⟨_, congrArg Host.Outcome.next (requestUpdate_of_free hfree hlen), ?_, ?_, ?_, ?_⟩
    all_goals simp [setBank, activeOf]
  · refine ⟨_, congrArg Host.Outcome.next (firmwareData_of_fits hup hver hbs hlen), ?_, fun hwf => ?_, ?_⟩
    · simp [setBank]
    · rw [bankOf, pldmAnswer_mgmt, fwState_mgmt]
      exact bankOf_setBank hwf
    · simp [setBank]
  · refine ⟨_, congrArg Host.Outcome.next (verifyComplete_of_signed hup hsigned hsvn), ?_, ?_, fun hwf => ?_⟩
    · simp [setBank]
    · simp [setBank]
    · rw [bankOf, pldmAnswer_mgmt, fwState_mgmt]
      exact congrArg Bank.valid (bankOf_setBank hwf)
  · refine ⟨_, congrArg Host.Outcome.next (verifyComplete_of_bad hup hbad), ?_, ?_⟩
    all_goals simp
  · refine ⟨_, congrArg Host.Outcome.next (cancelUpdate_of_update hup), ?_, ?_⟩
    all_goals simp [setBank]
  · refine ⟨_, congrArg Host.Outcome.next (activate_of_valid hup hact hvalid), ?_, ?_⟩
    all_goals simp
  · obtain ⟨u, hu, hbank⟩ := wardenActivation_of_ok hact hok
    refine ⟨_, rfl, ?_, fun hwf => ?_⟩
    · rw [resumeQuiesce_mgmt, hu, activated_activating]
    · rw [activeOf, resumeQuiesce_mgmt, hu]
      refine (activeOf_activated (c := .warden) (by rw [hbank]; exact hwf)).trans ?_
      rw [idleBank, activeOf, hbank]
      rfl
  · have hmgmt := reeveActivation_of_more hact hnext hfree hmore
    refine ⟨_, rfl, ?_, fun hwf => ?_⟩
    · rw [resumeQuiesce_mgmt, hmgmt]
    · rw [resumeQuiesce_mgmt, hmgmt, Assoc.get_put hwf, if_pos rfl]
  · exact congrArg Host.Outcome.next (stickInstall_last hact hin hgood hstate)
  · obtain ⟨b, hb⟩ := Option.isSome_iff_exists.mp hblock
    show execGetMeasurements i s = _
    unfold execGetMeasurements
    dsimp only
    rw [if_neg (by simpa [← BitVec.toNat_inj] using h0), if_neg (by simpa [← BitVec.toNat_inj] using hff), hb]
  · show Host.Outcome.next (spdmAnswer (.getCertificate k) s) = _
    unfold spdmAnswer
    dsimp only
    rw [if_neg (by simp [hcert])]
  · exact ⟨_, congrArg Host.Outcome.next (keyExchange_of_room hroom), rfl, rfl⟩

end Sys2Proof
end

section
/-! What a step leaves as it was: the commands that wait, the canonical form, and those pieces of the state that it is asked
to leave. The rules for how steps are put together, and for each update of a piece of the state. -/

namespace Sys2Proof.Machine
open Sys2Proof

/-! ### What is kept -/

/-- The pieces of the state that frames speak of. `unswept` is what is staged and the partitions' sets, where no set unload and no
descriptor waits. -/
inductive Piece where
  | mem | poison | cellar | cellarPoison | wbuf | regs | queues | cmds | ctxs | parts | staged | segs | dpool | walks | tallies
  | waiters | cores | progs | partSets | stackDies | hc | fab | g0 | g1 | pA | pB | power | faults | mgmt | tray | chainGen
  | chainPosted | out | unswept
  deriving DecidableEq

/-- The piece is the same in `s` and `t`. -/
def Piece.Same (s t : State) : Piece → Prop
  | .mem => t.mem = s.mem
  | .poison => t.poison = s.poison
  | .cellar => t.cellar = s.cellar
  | .cellarPoison => t.cellarPoison = s.cellarPoison
  | .wbuf => t.wbuf = s.wbuf
  | .regs => t.regs = s.regs
  | .queues => t.queues = s.queues
  | .cmds => t.cmds = s.cmds
  | .ctxs => t.ctxs = s.ctxs
  | .parts => t.parts = s.parts
  | .staged => t.staged = s.staged
  | .segs => t.segs = s.segs
  | .dpool => t.dpool = s.dpool
  | .walks => t.walks = s.walks
  | .tallies => t.tallies = s.tallies
  | .waiters => t.waiters = s.waiters
  | .cores => t.cores = s.cores
  | .progs => t.progs = s.progs
  | .partSets => t.partSets = s.partSets
  | .stackDies => t.stackDies = s.stackDies
  | .hc => t.hc = s.hc
  | .fab => t.fab = s.fab
  | .g0 => t.g0 = s.g0
  | .g1 => t.g1 = s.g1
  | .pA => t.pA = s.pA
  | .pB => t.pB = s.pB
  | .power => t.power = s.power
  | .faults => t.faults = s.faults
  | .mgmt => t.mgmt = s.mgmt
  | .tray => t.tray = s.tray
  | .chainGen => t.chainGen = s.chainGen
  | .chainPosted => t.chainPosted = s.chainPosted
  | .out => t.out = s.out
  | .unswept => noneWaits s = true → t.staged = s.staged ∧ t.partSets = s.partSets

/-- Which pieces are to be left. -/
abbrev Mask := Piece → Bool

/-- No piece in particular. -/
def Mask.none : Mask := fun _ => false

@[simp] theorem Mask.none_apply (p : Piece) : Mask.none p = false := by cases p <;> rfl

/-- What the mask names is as it was. -/
def Left {α : Type} (named : Bool) (now was : α) : Prop := named = true → now = was

@[congr] theorem left_congr {α : Type} {b c : Bool} (h : b = c) (x y : α) : Left b x y = Left c x y := h ▸ rfl

@[simp] theorem left_self {α : Type} (b : Bool) (x : α) : Left b x x := fun _ => rfl

@[simp] theorem left_unnamed {α : Type} (x y : α) : Left false x y := fun h => by cases h

/-- A map in its canonical form stays so. -/
def StaysWf {α : Type} [DecidableEq α] (d : Nat → α) (x y : Assoc α) : Prop := Assoc.wf d x = true → Assoc.wf d y = true

@[simp] theorem staysWf_self {α : Type} [DecidableEq α] (d : Nat → α) (x : Assoc α) : StaysWf d x x := id

@[simp] theorem staysWf_nil {α : Type} [DecidableEq α] (d : Nat → α) (x : Assoc α) : StaysWf d x [] := fun _ => rfl

@[simp] theorem staysWf_put {α : Type} [DecidableEq α] (d : Nat → α) (x : Assoc α) (k : Nat) (w : α) :
    StaysWf d x (Assoc.put d x k w) := Assoc.wf_put

@[simp] theorem staysWf_putBytes (d : Nat → Byte) (x : List Host.Cell) (a : Nat) (bs : List Byte) :
    StaysWf d x (putBytes d x a bs) := wf_putBytes bs

theorem wf_foldl_put {α β : Type} [DecidableEq α] (d : Nat → α) (k : β → Nat) (w : β → α) (l : List β) {x : Assoc α}
    (h : Assoc.wf d x = true) : Assoc.wf d (l.foldl (fun y c => Assoc.put d y (k c) (w c)) x) = true := by
  induction l generalizing x with
  | nil => exact h
  | cons c l ih => exact ih (Assoc.wf_put h)

@[simp] theorem staysWf_foldl_put {α β : Type} [DecidableEq α] (d : Nat → α) (x : Assoc α) (k : β → Nat) (w : β → α)
    (l : List β) : StaysWf d x (l.foldl (fun y c => Assoc.put d y (k c) (w c)) []) := fun _ => wf_foldl_put d k w l rfl

@[simp] theorem staysWf_filter {α : Type} [DecidableEq α] (d : Nat → α) (x : Assoc α) (p : Nat × α → Bool) :
    StaysWf d x (x.filter p) := Assoc.wfFrom_filter p

/-- In `t` the commands that wait are those of `s`, what was canonical is, and the pieces of the mask are the same. -/
structure Kept (μ : Mask) (s t : State) : Prop where
  pending : t.pending = s.pending
  mem : StaysWf memReset s.mem t.mem
  cellar : StaysWf memReset s.cellar t.cellar
  regs : StaysWf regReset s.regs t.regs
  pieces : ∀ p, μ p = true → p.Same s t

section
variable {μ : Mask} {σ s t u : State}

@[refl, simp] theorem Kept.refl (s : State) : Kept μ s s where
  pending := rfl
  mem := id
  cellar := id
  regs := id
  pieces := fun p _ => by cases p <;> simp [Piece.Same]

theorem Piece.Same.trans {p : Piece} (h : p.Same s t) (k : p.Same t u) : p.Same s u := by
  cases p
  case unswept =>
    intro hnone
    obtain ⟨hstaged, hsets⟩ := h hnone
    have hstill : noneWaits t = true := by rwa [noneWaits, hstaged]
    obtain ⟨kstaged, ksets⟩ := k hstill
    exact ⟨kstaged.trans hstaged, ksets.trans hsets⟩
  all_goals exact Eq.trans k h

theorem Kept.trans (h : Kept μ s t) (k : Kept μ t u) : Kept μ s u where
  pending := k.pending.trans h.pending
  mem := k.mem ∘ h.mem
  cellar := k.cellar ∘ h.cellar
  regs := k.regs ∘ h.regs
  pieces := fun p hp => (h.pieces p hp).trans (k.pieces p hp)

/-- For a `let (t, a) := …` on the way of a step. -/
theorem Kept.of_state_fst {α : Type} {p : State × α} {a : α} (h : Kept μ s p.1) (e : p = (t, a)) : Kept μ s t := by
  subst e
  exact h

/-- For a `let (w, a) := …` on the way of a command's work. -/
theorem Kept.of_fst {α : Type} {p : Work × α} {w : Work} {a : α} (h : Kept μ s p.1.s) (e : p = (w, a)) : Kept μ s w.s := by
  subst e
  exact h

/-- `Kept` under a name that simplification leaves alone. -/
def Residue (μ : Mask) (σ t : State) : Prop := Kept μ σ t

@[congr] theorem residue_congr (μ : Mask) (σ t : State) : Residue μ σ t = Residue μ σ t := rfl

/-- What `σ` has and `s` has kept, `t` has kept. As an equivalence, simplification can use it: it takes the last step away from
the state that is to have kept it. -/
abbrev Spares (μ : Mask) (σ s t : State) : Prop := Kept μ σ t ↔ Kept μ σ s ∨ Residue μ σ t

theorem Spares.of (h : Kept μ s t) : Spares μ σ s t := ⟨.inr, fun k => k.elim (·.trans h) id⟩

theorem Spares.kept (h : Spares μ s s t) : Kept μ s t := h.mpr (.inl (.refl s))

theorem Spares.refl (s : State) : Spares μ σ s s := .of (.refl s)

/-! ### Choices and loops -/

@[simp] theorem kept_ite (c : Prop) [Decidable c] (s t : State) :
    Kept μ σ (if c then s else t) ↔ if c then Kept μ σ s else Kept μ σ t := by split <;> rfl

theorem foldl_kept {α : Type} (f : State → α → State) (h : ∀ s x, Kept μ s (f s x)) (l : List α) (s : State) :
    Kept μ s (l.foldl f s) := by
  induction l generalizing s with
  | nil => exact .refl s
  | cons x xs ih => exact (h s x).trans (ih _)

@[simp] theorem foldl_spares {α : Type} (f : State → α → State) (h : ∀ s x, Kept μ s (f s x)) (l : List α) (s : State) :
    Spares μ σ s (l.foldl f s) := .of (foldl_kept f h l s)

theorem foldl_work_kept {α : Type} (f : Work → α → Work) (h : ∀ w x, Kept μ w.s (f w x).s) (l : List α) (w : Work) :
    Kept μ w.s (l.foldl f w).s := by
  induction l generalizing w with
  | nil => exact .refl w.s
  | cons x xs ih => exact (h w x).trans (ih _)

@[simp] theorem foldl_work_spares {α : Type} (f : Work → α → Work) (h : ∀ w x, Kept μ w.s (f w x).s) (l : List α) (w : Work) :
    Spares μ σ w.s (l.foldl f w).s := .of (foldl_work_kept f h l w)

theorem foldr_kept {α : Type} (f : α → State → State) (h : ∀ x s, Kept μ s (f x s)) (l : List α) (s : State) :
    Kept μ s (l.foldr f s) := by
  induction l with
  | nil => exact .refl s
  | cons x xs ih => exact ih.trans (h x _)

@[simp] theorem foldr_spares {α : Type} (f : α → State → State) (h : ∀ x s, Kept μ s (f x s)) (l : List α) (s : State) :
    Spares μ σ s (l.foldr f s) := .of (foldr_kept f h l s)

theorem foldlM_kept {α β : Type} (f : State × β → α → Option (State × β))
    (hf : ∀ x a r, f x a = some r → Kept μ x.1 r.1) (l : List α) (x r : State × β) (h : l.foldlM f x = some r) :
    Kept μ x.1 r.1 := by
  induction l generalizing x with
  | nil =>
    cases h
    exact .refl _
  | cons a l ih =>
    obtain ⟨y, hy, hr⟩ := Option.bind_eq_some_iff.mp ((List.foldlM_cons ..).symm.trans h)
    exact (hf x a y hy).trans (ih y hr)

/-- The answer is a state that has kept what `s` has. -/
def Gives (μ : Mask) (s : State) (a : Ans) : Prop := ∃ t, a = .next t ∧ Kept μ s t

@[simp] theorem gives_next (s t : State) : Gives μ s (.next t) ↔ Kept μ s t :=
  ⟨fun ⟨_, e, h⟩ => Host.Outcome.next.inj e ▸ h, fun h => ⟨t, rfl, h⟩⟩

@[simp] theorem gives_ite (c : Prop) [Decidable c] (s : State) (a b : Ans) :
    Gives μ s (if c then a else b) ↔ if c then Gives μ s a else Gives μ s b := by split <;> rfl

/-! ### Updates of the state -/

/-- A record update `{ t with … }`: of pieces that the mask does not name, with what is canonical left so. -/
@[simp] theorem state_mk_spares {t : State}
    {tick mem poison cellar cellarPoison wbuf regs queues cmds ctxs parts staged segs dpool walks tallies waiters cores progs
    partSets stackDies hc fab g0 g1 pA pB power faults mgmt tray chainGen chainPosted out heldPort turns actionEnd tallyEnd
    upsets bell jumped}
    (hmem : Left (μ .mem) mem t.mem) (hpoison : Left (μ .poison) poison t.poison) (hcellar : Left (μ .cellar) cellar t.cellar)
    (hcellarPoison : Left (μ .cellarPoison) cellarPoison t.cellarPoison) (hwbuf : Left (μ .wbuf) wbuf t.wbuf)
    (hregs : Left (μ .regs) regs t.regs) (hqueues : Left (μ .queues) queues t.queues) (hcmds : Left (μ .cmds) cmds t.cmds)
    (hctxs : Left (μ .ctxs) ctxs t.ctxs) (hparts : Left (μ .parts) parts t.parts) (hstaged : Left (μ .staged) staged t.staged)
    (hsegs : Left (μ .segs) segs t.segs) (hdpool : Left (μ .dpool) dpool t.dpool) (hwalks : Left (μ .walks) walks t.walks)
    (htallies : Left (μ .tallies) tallies t.tallies) (hwaiters : Left (μ .waiters) waiters t.waiters)
    (hcores : Left (μ .cores) cores t.cores) (hprogs : Left (μ .progs) progs t.progs)
    (hpartSets : Left (μ .partSets) partSets t.partSets) (hstackDies : Left (μ .stackDies) stackDies t.stackDies)
    (hhc : Left (μ .hc) hc t.hc) (hfab : Left (μ .fab) fab t.fab) (hg0 : Left (μ .g0) g0 t.g0) (hg1 : Left (μ .g1) g1 t.g1)
    (hpA : Left (μ .pA) pA t.pA) (hpB : Left (μ .pB) pB t.pB) (hpower : Left (μ .power) power t.power)
    (hfaults : Left (μ .faults) faults t.faults) (hmgmt : Left (μ .mgmt) mgmt t.mgmt) (htray : Left (μ .tray) tray t.tray)
    (hchainGen : Left (μ .chainGen) chainGen t.chainGen) (hchainPosted : Left (μ .chainPosted) chainPosted t.chainPosted)
    (hout : Left (μ .out) out t.out) (hunswept : Left (μ .unswept) (staged, partSets) (t.staged, t.partSets))
    (wmem : StaysWf memReset t.mem mem) (wcellar : StaysWf memReset t.cellar cellar) (wregs : StaysWf regReset t.regs regs) :
    Spares μ σ t
      ⟨t.pending, tick, mem, poison, cellar, cellarPoison, wbuf, regs, bell, jumped, queues, cmds, ctxs, parts, staged, segs,
      dpool, walks, tallies, waiters, cores, progs, partSets, stackDies, hc, fab, g0, g1, pA, pB, power, faults, mgmt, tray,
      chainGen, chainPosted, out, heldPort, turns, actionEnd, tallyEnd, upsets⟩ :=
  .of {
    pending := rfl
    mem := wmem
    cellar := wcellar
    regs := wregs
    pieces := fun p hp => by
      cases p
      case unswept => exact fun _ => Prod.mk.inj (hunswept hp)
      case mem => exact hmem hp
      case poison => exact hpoison hp
      case cellar => exact hcellar hp
      case cellarPoison => exact hcellarPoison hp
      case wbuf => exact hwbuf hp
      case regs => exact hregs hp
      case queues => exact hqueues hp
      case cmds => exact hcmds hp
      case ctxs => exact hctxs hp
      case parts => exact hparts hp
      case staged => exact hstaged hp
      case segs => exact hsegs hp
      case dpool => exact hdpool hp
      case walks => exact hwalks hp
      case tallies => exact htallies hp
      case waiters => exact hwaiters hp
      case cores => exact hcores hp
      case progs => exact hprogs hp
      case partSets => exact hpartSets hp
      case stackDies => exact hstackDies hp
      case hc => exact hhc hp
      case fab => exact hfab hp
      case g0 => exact hg0 hp
      case g1 => exact hg1 hp
      case pA => exact hpA hp
      case pB => exact hpB hp
      case power => exact hpower hp
      case faults => exact hfaults hp
      case mgmt => exact hmgmt hp
      case tray => exact htray hp
      case chainGen => exact hchainGen hp
      case chainPosted => exact hchainPosted hp
      case out => exact hout hp }

@[simp] theorem setReg_spares (off v : Nat) (s : State) (hm : μ .regs = false) : Spares μ σ s (setReg off v s) :=
  .of <| by simp [setReg, hm]

@[simp] theorem setF_spares (off : Nat) (f : Fld) (v : Nat) (s : State) (hm : μ .regs = false) :
    Spares μ σ s (setF off f v s) := .of <| by simp [setF, hm]

@[simp] theorem incF_spares (off : Nat) (f : Fld) (n : Nat) (s : State) (hm : μ .regs = false) :
    Spares μ σ s (incF off f n s) := .of <| by simp [incF, hm]

@[simp] theorem satF_spares (off : Nat) (f : Fld) (n : Nat) (s : State) (hm : μ .regs = false) :
    Spares μ σ s (satF off f n s) := .of <| by simp [satF, hm]

@[simp] theorem orReg_spares (off v : Nat) (s : State) (hm : μ .regs = false) : Spares μ σ s (orReg off v s) :=
  .of <| by simp [orReg, hm]

@[simp] theorem clearBits_spares (off v : Nat) (s : State) (hm : μ .regs = false) : Spares μ σ s (clearBits off v s) :=
  .of <| by simp [clearBits, hm]

@[simp] theorem setStack_spares (k : Nat) (v : Stack) (s : State) (hm : μ .stackDies = false) :
    Spares μ σ s (setStack k v s) := .of <| by simp [setStack, hm]

@[simp] theorem poisonSector_spares (sec : Nat) (s : State) (hm : μ .poison = false) : Spares μ σ s (poisonSector sec s) :=
  .of <| by simp [poisonSector, hm]

@[simp] theorem writeCellar_spares (v b : Nat) (bs : List Byte) (s : State) (hm : μ .cellar = false ∧ μ .cellarPoison = false) :
    Spares μ σ s (writeCellar v b bs s) := .of <| by simp [writeCellar, hm]

@[simp] theorem setQueue_spares (q : Nat) (x : Queue) (s : State) (hm : μ .queues = false) : Spares μ σ s (setQueue q x s) :=
  .of <| by simp [setQueue, hm]

@[simp] theorem setCtx_spares (x : Nat) (v : Ctx) (s : State) (hm : μ .ctxs = false) : Spares μ σ s (setCtx x v s) :=
  .of <| by simp [setCtx, hm]

@[simp] theorem setPart_spares (p : Nat) (v : Part) (s : State) (hm : μ .parts = false) : Spares μ σ s (setPart p v s) :=
  .of <| by simp [setPart, hm]

@[simp] theorem setCore_spares (n : Nat) (v : Core) (s : State) (hm : μ .cores = false) : Spares μ σ s (setCore n v s) :=
  .of <| by simp [setCore, hm]

@[simp] theorem setEng_spares (n e : Nat) (v : Engine) (s : State) (hm : μ .cores = false) : Spares μ σ s (setEng n e v s) :=
  .of <| by simp [setEng, hm]

@[simp] theorem setTally_spares (die index : Nat) (v : Tally) (s : State) (hm : μ .tallies = false) :
    Spares μ σ s (setTally die index v s) := .of <| by simp [setTally, hm]

@[simp] theorem setProg_spares (h : Nat) (v : Option Program) (s : State) (hm : μ .progs = false) :
    Spares μ σ s (setProg h v s) := .of <| by simp [setProg, hm]

@[simp] theorem setFport_spares (p : Nat) (v : FPort) (s : State) (hm : μ .fab = false) : Spares μ σ s (setFport p v s) :=
  .of <| by simp [setFport, hm]

@[simp] theorem setRoute_spares (m : Nat) (v : Route) (s : State) (hm : μ .fab = false) : Spares μ σ s (setRoute m v s) :=
  .of <| by simp [setRoute, hm]

@[simp] theorem setGuest_spares (g1 : Bool) (v : Guest) (s : State) (hm : μ .g0 = false ∧ μ .g1 = false) :
    Spares μ σ s (setGuest g1 v s) := .of <| by simp [setGuest, hm]

@[simp] theorem setExt_spares (b : Bool) (v : ExtPort) (s : State) (hm : μ .pA = false ∧ μ .pB = false) :
    Spares μ σ s (setExt b v s) := .of <| by simp [setExt, hm]

@[simp] theorem setPcache_spares (a : Nat) (v : PCache) (s : State) (hm : μ .hc = false) : Spares μ σ s (setPcache a v s) :=
  .of <| by simp [setPcache, hm]

@[simp] theorem setDir_spares (l : Nat) (v : DirEntry) (s : State) (hm : μ .hc = false) : Spares μ σ s (setDir l v s) :=
  .of <| by simp [setDir, hm]

@[simp] theorem emit_spares (m : Out) (s : State) (hm : μ .out = false) : Spares μ σ s (emit m s) := .of <| by simp [emit, hm]

@[simp] theorem advance_spares (s : State) : Spares μ σ s (advance s) := .of <| by simp [advance]

@[simp] theorem putCmd_spares (e : Cmd) (s : State) (hm : μ .cmds = false) : Spares μ σ s (putCmd e s) :=
  .of <| by simp [putCmd, hm]

end

end Sys2Proof.Machine
end

section
/-! What steps share leaves the bell count: registers, memory, records, operands, tallies, and how runs and commands end (R307). -/

namespace Sys2Proof.Machine
open Sys2Proof

section
variable {μ : Mask} {σ : State}

/-! ### Registers, memory, records and messages -/

@[simp] theorem restoreSector_spares (sec : Nat) (s : State) (hm : μ .stackDies = false) :
    Spares μ σ s (restoreSector sec s) := .of <| by simp [restoreSector, hm]
@[simp] theorem clearPoison_spares (secs : List Nat) (s : State) (hm : μ .poison = false ∧ μ .stackDies = false) :
    Spares μ σ s (clearPoison secs s) := .of <| by simp [clearPoison, hm]
@[simp] theorem writeMem_spares (a : Nat) (bs : List Byte) (s : State)
    (hm : μ .mem = false ∧ μ .poison = false ∧ μ .stackDies = false) : Spares μ σ s (writeMem a bs s) :=
  .of <| by simp [writeMem, hm]
@[simp] theorem remapStacks_spares (k : Nat) (s : State) (hm : μ .mem = false ∧ μ .poison = false ∧ μ .stackDies = false) :
    Spares μ σ s (remapStacks k s) := .of <| by simp [remapStacks, hm]

@[simp] theorem pldmEvent_spares (content : Nat) (s : State) (hm : μ .mgmt = false ∧ μ .out = false) :
    Spares μ σ s (pldmEvent content s) := by
  refine .of ?_
  unfold pldmEvent
  split <;> simp [hm]

@[simp] theorem sensorEvent_spares (id v : Nat) (s : State) (hm : μ .mgmt = false ∧ μ .out = false) :
    Spares μ σ s (sensorEvent id v s) := .of <| by simp [sensorEvent, hm]
@[simp] theorem bumpMeas_spares (s : State) (hm : μ .regs = false) : Spares μ σ s (bumpMeas s) :=
  .of <| by simp [bumpMeas, hm]

@[simp] theorem ledgerF_spares (kind sev flags dom addr data : Nat) (s : State)
    (hm : μ .regs = false ∧ μ .faults = false ∧ μ .mgmt = false ∧ μ .out = false) :
    Spares μ σ s (ledgerF kind sev flags dom addr data s) := .of <| by simp [ledgerF, hm]

@[simp] theorem ledger_spares (kind sev dom addr data : Nat) (s : State)
    (hm : μ .regs = false ∧ μ .faults = false ∧ μ .mgmt = false ∧ μ .out = false) :
    Spares μ σ s (ledger kind sev dom addr data s) := .of <| by simp [ledger, hm]

@[simp] theorem cfgReject_spares (w : Agent) (off v reason : Nat) (s : State) (hm : μ .regs = false) :
    Spares μ σ s (cfgReject w off v reason s) := .of <| by simp [cfgReject, hm]

@[simp] theorem noteUnreached_spares (before s : State)
    (hm : μ .regs = false ∧ μ .faults = false ∧ μ .mgmt = false ∧ μ .out = false) : Spares μ σ s (noteUnreached before s) :=
  .of <| by simp [noteUnreached, hm]
@[simp] theorem hostIrq_spares (v : Nat) (s : State) (hm : μ .regs = false ∧ μ .hc = false) : Spares μ σ s (hostIrq v s) :=
  .of <| by simp [hostIrq, hm]

@[simp] theorem beginHold_spares (b hostReset : Bool) (s : State) (hm : μ .regs = false ∧ μ .pA = false ∧ μ .pB = false) :
    Spares μ σ s (beginHold b hostReset s) := .of <| by simp [beginHold, hm]

@[simp] theorem waitBehind_spares (b : Bool) (w : ExtWrite) (s : State) (hm : μ .pA = false ∧ μ .pB = false) :
    Spares μ σ s (waitBehind b w s) := .of <| by simp [waitBehind, hm]

@[simp] theorem extWrite_spares (b : Bool) (w : ExtWrite) (s : State)
    (hm : μ .regs = false ∧ μ .pA = false ∧ μ .pB = false ∧ μ .out = false) : Spares μ σ s (extWrite b w s) :=
  .of <| by simp [extWrite, hm]

@[simp] theorem msixSend_spares (b : Bool) (v : Nat) (q : Option Nat) (s : State)
    (hm : μ .regs = false ∧ μ .pA = false ∧ μ .pB = false ∧ μ .out = false) : Spares μ σ s (msixSend b v q s) :=
  .of <| by simp [msixSend, hm]

/-- The mask names nothing that `raiseIrq` can change. -/
@[simp] abbrev Mask.AllowsRaiseIrq (μ : Mask) : Prop :=
  μ .regs = false ∧ μ .hc = false ∧ μ .pA = false ∧ μ .pB = false ∧ μ .out = false

@[simp] theorem raiseIrq_spares (kind v : Nat) (q : Option Nat) (s : State) (hm : μ.AllowsRaiseIrq) :
    Spares μ σ s (raiseIrq kind v q s) := by
  refine .of ?_
  unfold raiseIrq
  split <;> simp [hm]

@[simp] theorem raiseReg_spares (off : Nat) (s : State) (hm : μ.AllowsRaiseIrq) : Spares μ σ s (raiseReg off s) :=
  .of <| by simp [raiseReg, hm]

@[simp] theorem finishCode_spares (c : CmdRef) (code detail : Nat) (s : State) (hm : μ .cmds = false) :
    Spares μ σ s (finishCode c code detail s) := .of <| by simp [finishCode, hm]

@[simp] theorem finish_spares (c : CmdRef) (st : Status) (detail : Nat) (s : State) (hm : μ .cmds = false) :
    Spares μ σ s (finish c st detail s) := .of <| by simp [finish, hm]

@[simp] theorem finishFail_spares (c : CmdRef) (f : Fail) (s : State) (hm : μ .cmds = false) :
    Spares μ σ s (finishFail c f s) := .of <| by simp [finishFail, hm]

@[simp] theorem markStarted_spares (i : Instr) (c : CmdRef) (s : State) (hm : μ .cmds = false) :
    Spares μ σ s (markStarted i c s) := .of <| by simp [markStarted, hm]

@[simp] theorem waitWalk_spares (i : Instr) (e : Cmd) (s : State) (hm : μ .walks = false) : Spares μ σ s (waitWalk i e s) :=
  .of <| by simp [waitWalk, hm]

theorem runCmd_kept (i : Instr) (c : CmdRef) (needsCore : Bool) (s : State) (body : Cmd → State → State)
    (h : ∀ e s, Kept μ s (body e s)) (hm : μ .cmds = false ∧ μ .walks = false) : Kept μ s (runCmd i c needsCore s body) := by
  unfold runCmd
  dsimp only
  split
  · simp
  · split
    · simp [hm]
    · split <;> simp [Spares.of (h ..), hm]

@[simp] theorem runCmd_spares (i : Instr) (c : CmdRef) (needsCore : Bool) (s : State) (body : Cmd → State → State)
    (h : ∀ e s, Kept μ s (body e s)) (hm : μ .cmds = false ∧ μ .walks = false) : Spares μ σ s (runCmd i c needsCore s body) :=
  .of (runCmd_kept i c needsCore s body h hm)

@[simp] theorem failStored_spares (c : CmdRef) (f : Fail) (s : State) (hm : μ .cmds = false) :
    Spares μ σ s (failStored c f s) := by
  refine .of ?_
  unfold failStored
  dsimp only
  (repeat' split) <;> simp [hm]

@[simp] theorem transmit_spares (p : Nat) (m : FabMsg) (s : State) (hm : μ .fab = false ∧ μ .out = false) :
    Spares μ σ s (transmit p m s) := .of <| by simp [transmit, hm]

@[simp] theorem launch_spares (m : FabMsg) (s : State) (hm : μ .fab = false ∧ μ .out = false) : Spares μ σ s (launch m s) :=
  by
  refine .of ?_
  unfold launch
  split <;> simp [hm]

@[simp] theorem sendReqAt_spares (sl : Nat × Nat) (parts : List (Nat × Nat)) (dest cls kind : Nat) (args : List Nat)
    (bs : List Byte) (owner : Barrier) (s : State) (hm : μ .fab = false ∧ μ .out = false) :
    Spares μ σ s (sendReqAt sl parts dest cls kind args bs owner s) := .of <| by simp [sendReqAt, hm]

@[simp] theorem sendReq_spares (dest cls kind : Nat) (args : List Nat) (bs : List Byte) (owner : Barrier) (s : State)
    (hm : μ .fab = false ∧ μ .out = false) : Spares μ σ s (sendReq dest cls kind args bs owner s) :=
  .of <| by simp [sendReq, hm]

/-! ### Segments, places and the work of a command -/

@[simp] theorem noteRead_spares (a n : Nat) (s : State) (hm : μ .regs = false) : Spares μ σ s (noteRead a n s) := by
  refine .of ?_
  unfold noteRead
  (repeat' split) <;> simp [hm]

@[simp] theorem noteDescRead_spares (ctx seg : Nat) (s : State) (hm : μ .regs = false) :
    Spares μ σ s (noteDescRead ctx seg s) := .of <| by simp [noteDescRead, hm]

@[simp] theorem putPool_spares (die key : Nat) (l : List CachedDesc) (s : State) (hm : μ .dpool = false) :
    Spares μ σ s (putPool die key l s) := .of <| by simp [putPool, hm]

@[simp] theorem fillCore_spares (n key desc : Nat) (s : State) (hm : μ .cores = false) :
    Spares μ σ s (fillCore n key desc s) := .of <| by simp [fillCore, hm]

@[simp] theorem noteWalkFail_spares (die ctx seg : Nat) (s : State)
    (hm : μ .regs = false ∧ μ .faults = false ∧ μ .mgmt = false ∧ μ .out = false) : Spares μ σ s (noteWalkFail die ctx seg s) :=
  .of <| by simp [noteWalkFail, hm]

/-- The mask names nothing that `resolveDesc` can change. -/
@[simp] abbrev Mask.AllowsResolveDesc (μ : Mask) : Prop :=
  μ .regs = false ∧ μ .dpool = false ∧ μ .cores = false ∧ μ .faults = false ∧ μ .mgmt = false ∧ μ .out = false

@[simp] theorem resolveDesc_spares (core ctx seg : Nat) (s : State) (hm : μ.AllowsResolveDesc) :
    Spares μ σ s (resolveDesc core ctx seg s).1 := by
  refine .of ?_
  unfold resolveDesc
  dsimp only
  (repeat' split) <;> simp [hm]

@[simp] theorem farRequest_spares (sl : Nat × Nat) (where_ addr n : Nat) (write : Option (List Byte)) (owner : Barrier)
    (s : State) (hm : μ .fab = false ∧ μ .g0 = false ∧ μ .g1 = false ∧ μ .out = false) :
    Spares μ σ s (farRequest sl where_ addr n write owner s) := by
  refine .of ?_
  unfold farRequest
  (repeat' split) <;> simp [hm]

/-- The mask names nothing that `placeWrite` can change. -/
@[simp] abbrev Mask.AllowsPlaceWrite (μ : Mask) : Prop :=
  μ .mem = false ∧ μ .poison = false ∧ μ .cellar = false ∧ μ .cellarPoison = false ∧ μ .stackDies = false ∧ μ .fab = false ∧
  μ .g0 = false ∧ μ .g1 = false ∧ μ .out = false

@[simp] theorem placeWrite_spares (sl : Nat × Nat) (p : Place) (bs : List Byte) (owner : Barrier) (s : State)
    (hm : μ.AllowsPlaceWrite) : Spares μ σ s (placeWrite sl p bs owner s) := by
  refine .of ?_
  unfold placeWrite
  split <;> simp [hm]

@[simp] theorem placePoisonWrite_spares (p : Place) (s : State) (hm : μ .poison = false) :
    Spares μ σ s (placePoisonWrite p s) := by
  refine .of ?_
  unfold placePoisonWrite
  split <;> simp [hm]

@[simp] theorem placeWriteBad_spares (sl : Nat × Nat) (p : Place) (bs : List Byte) (owner : Barrier) (s : State)
    (hm : μ.AllowsPlaceWrite) : Spares μ σ s (placeWriteBad sl p bs owner s) := by
  refine .of ?_
  unfold placeWriteBad
  split <;> simp [hm]

@[simp] theorem charge_spares (cls ctx core n : Nat) (s : State) (hm : μ .ctxs = false) :
    Spares μ σ s (charge cls ctx core n s) := .of <| by simp [charge, hm]
@[simp] theorem parkCtx_spares (x n cls : Nat) (s : State) (hm : μ .ctxs = false) : Spares μ σ s (parkCtx x n cls s) :=
  .of <| by simp [parkCtx, hm]

@[simp] theorem Work.start_spares (c : CmdRef) (core : Nat) (s : State) : Spares μ σ s (Work.start c core s).s :=
  .of <| by simp [Work.start]

@[simp] theorem Work.stop_spares (w : Work) (f : Fail) : Spares μ σ w.s (w.stop f).s := .of <| by simp [Work.stop]

@[simp] theorem kept_upd (w : Work) (f : State → State) : Kept μ σ (w.upd f).s ↔ Kept μ σ (f w.s) := Iff.rfl

theorem Work.hear_kept (w : Work) (f : Work → Work × Heard) (hf : ∀ w, Kept μ w.s (f w).1.s) : Kept μ w.s (w.hear f).1.s := by
  unfold Work.hear
  split
  · simp
  · split
    · simp
    · simp [Spares.of (hf ..)]

@[simp] theorem Work.hear_spares (w : Work) (f : Work → Work × Heard) (hf : ∀ w, Kept μ w.s (f w).1.s) :
    Spares μ σ w.s (w.hear f).1.s := .of (Work.hear_kept w f hf)

theorem Work.mod_kept (w : Work) (f : State → State) (hf : ∀ s, Kept μ s (f s)) : Kept μ w.s (w.mod f).s :=
  by simp [Work.mod, Spares.of (hf ..)]

@[simp] theorem Work.mod_spares (w : Work) (f : State → State) (hf : ∀ s, Kept μ s (f s)) : Spares μ σ w.s (w.mod f).s :=
  .of (Work.mod_kept w f hf)

@[simp] theorem Work.read_spares (w : Work) (f : State → Nat) : Spares μ σ w.s (w.read f).1.s := .of <| by simp [Work.read]

@[simp] theorem Work.check_spares (w : Work) (f : State → Option Fail) : Spares μ σ w.s (w.check f).s := by
  refine .of ?_
  unfold Work.check
  split
  · simp
  · refine Work.hear_kept _ _ fun w => ?_
    dsimp only
    split <;> simp

@[simp] theorem Work.payNow_spares (w : Work) (cls n : Nat) (hm : μ .ctxs = false) : Spares μ σ w.s (w.payNow cls n).s := by
  refine .of ?_
  unfold Work.payNow
  (repeat' split) <;> simp [hm]

@[simp] theorem Work.charge_spares (w : Work) (cls n : Nat) (hm : μ .ctxs = false) : Spares μ σ w.s (w.charge cls n).s :=
  .of <| by simp [Work.charge, hm]

@[simp] theorem Work.traffic_spares (w : Work) (g : Seg) (n : Nat) (hm : μ .ctxs = false) :
    Spares μ σ w.s (w.traffic g n).s := by
  induction n generalizing σ w with
  | zero => exact .of <| by simp [Work.traffic]
  | succ n ih => exact .of <| by simp [Work.traffic, ih, hm]

@[simp] theorem Work.seg_spares (w : Work) (slot seg rights : Nat) (classOk : Nat → Bool) (hm : μ.AllowsResolveDesc) :
    Spares μ σ w.s (w.seg slot seg rights classOk).1.s := by
  refine .of ?_
  unfold Work.seg
  dsimp only
  split <;> simp [hm]

@[simp] theorem Work.hold_spares (w : Work) (d : CachedDesc) : Spares μ σ w.s (w.hold d).s := .of <| by simp [Work.hold]

theorem Work.ref_kept (w : Work) (seg : Nat) (f : Work → Work × Nat) (hf : ∀ w, Kept μ w.s (f w).1.s) :
    Kept μ w.s (w.ref seg f).1.s := by simp [Work.ref, Spares.of (hf ..)]

@[simp] theorem Work.ref_spares (w : Work) (seg : Nat) (f : Work → Work × Nat) (hf : ∀ w, Kept μ w.s (f w).1.s) :
    Spares μ σ w.s (w.ref seg f).1.s := .of (Work.ref_kept w seg f hf)

@[simp] theorem Work.tilesRef_spares (w : Work) (slot : Nat) (r : Tref) (last rights : Nat) (classOk : Nat → Bool)
    (hm : μ.AllowsResolveDesc) : Spares μ σ w.s (w.tilesRef slot r last rights classOk).1.s := by
  refine .of ?_
  unfold Work.tilesRef
  refine Work.ref_kept _ _ _ fun w => ?_
  dsimp only
  (repeat' split) <;> simp [hm]

@[simp] theorem Work.bytesRef_spares (w : Work) (slot : Nat) (r : Bref) (n rights : Nat) (classOk : Nat → Bool)
    (hm : μ.AllowsResolveDesc) : Spares μ σ w.s (w.bytesRef slot r n rights classOk).1.s := by
  refine .of ?_
  unfold Work.bytesRef
  refine Work.ref_kept _ _ _ fun w => ?_
  dsimp only
  (repeat' split) <;> simp [hm]

@[simp] theorem Work.allot_spares (w : Work) (cls unit : Nat) : Spares μ σ w.s (w.allot cls unit).s :=
  .of <| by simp [Work.allot]
@[simp] theorem Work.allotSeg_spares (w : Work) (g : Seg) : Spares μ σ w.s (w.allotSeg g).s := .of <| by simp [Work.allotSeg]

@[simp] theorem notePoisonRead_spares (s : State) (p : Place) (hm : μ .regs = false) : Spares μ σ s (notePoisonRead s p) := by
  refine .of ?_
  unfold notePoisonRead
  (repeat' split) <;> simp [hm]

@[simp] theorem ledgerTile_spares (dom slot : Nat) (p : Place) (h : Header) (s : State)
    (hm : μ .regs = false ∧ μ .faults = false ∧ μ .mgmt = false ∧ μ .out = false) : Spares μ σ s (ledgerTile dom slot p h s) :=
  .of <| by simp [ledgerTile, hm]

@[simp] theorem ledgerCorrupt_spares (slot : Nat) (p : Place) (h : Header) (s : State)
    (hm : μ .regs = false ∧ μ .faults = false ∧ μ .mgmt = false ∧ μ .out = false) : Spares μ σ s (ledgerCorrupt slot p h s) :=
  .of <| by simp [ledgerCorrupt, hm]

@[simp] theorem wakeLarder_spares (p : Place) (s : State) (hm : μ .cores = false) : Spares μ σ s (wakeLarder p s) := by
  refine .of ?_
  unfold wakeLarder
  (repeat' split) <;> simp [hm]

@[simp] theorem Work.await_spares (w : Work) : Spares μ σ w.s w.await.s := .of <| by simp [Work.await]
@[simp] theorem holdAccess_spares (i : HeldAccess) (s : State) : Spares μ σ s (holdAccess i s) := .of <| by simp [holdAccess]

@[simp] theorem Work.ask_spares (w : Work) (slot seg : Nat) (p : Place) (n : Nat)
    (hm : μ .fab = false ∧ μ .g0 = false ∧ μ .g1 = false ∧ μ .out = false) : Spares μ σ w.s (w.ask slot seg p n).s := by
  refine .of ?_
  unfold Work.ask
  split <;> simp [hm]

/-- The mask names nothing that `Work.loadNow` can change. -/
@[simp] abbrev Mask.AllowsWorkLoadNow (μ : Mask) : Prop :=
  μ .regs = false ∧ μ .cores = false ∧ μ .fab = false ∧ μ .g0 = false ∧ μ .g1 = false ∧ μ .faults = false ∧ μ .mgmt = false ∧
  μ .out = false

@[simp] theorem Work.loadNow_spares (w : Work) (slot seg : Nat) (pp ph : Place) (accepts : Fmt → Bool)
    (hm : μ.AllowsWorkLoadNow) : Spares μ σ w.s (w.loadNow slot seg pp ph accepts).1.s := by
  refine .of ?_
  unfold Work.loadNow
  dsimp only
  (repeat' split) <;> simp [hm]

@[simp] theorem Work.loadAt_spares (w : Work) (slot seg : Nat) (pp ph : Place) (accepts : Fmt → Bool)
    (hm : μ.AllowsWorkLoadNow) : Spares μ σ w.s (w.loadAt slot seg pp ph accepts).1.s := .of <| by simp [Work.loadAt, hm]

@[simp] theorem Work.headerAt_spares (w : Work) (slot seg : Nat) (pp ph : Place) (hm : μ.AllowsWorkLoadNow) :
    Spares μ σ w.s (w.headerAt slot seg pp ph).1.s := by
  refine .of ?_
  unfold Work.headerAt
  split
  · simp
  · refine Work.hear_kept _ _ fun w => ?_
    (repeat' split) <;> simp [hm]

@[simp] theorem openTile_spares (slot seg : Nat) (ph : Place) (gen : Nat) (own : Barrier) (s : State)
    (hm : μ.AllowsPlaceWrite) : Spares μ σ s (openTile slot seg ph gen own s) := .of <| by simp [openTile, hm]

theorem Work.transfer_kept (w : Work) (pp : Place) (t : Tile) (o : Nat) (put : Tile → Work → Work)
    (hput : ∀ x w, Kept μ w.s (put x w).s) (hm : μ .regs = false ∧ μ .faults = false ∧ μ .mgmt = false ∧ μ .out = false) :
    Kept μ w.s (w.transfer pp t o put).s := by
  unfold Work.transfer
  split <;> simp [Spares.of (hput ..), hm]

@[simp] theorem Work.transfer_spares (w : Work) (pp : Place) (t : Tile) (o : Nat) (put : Tile → Work → Work)
    (hput : ∀ x w, Kept μ w.s (put x w).s) (hm : μ .regs = false ∧ μ .faults = false ∧ μ .mgmt = false ∧ μ .out = false) :
    Spares μ σ w.s (w.transfer pp t o put).s := .of (Work.transfer_kept w pp t o put hput hm)

/-- The mask names nothing that `Work.storeAt` can change. -/
@[simp] abbrev Mask.AllowsWorkStoreAt (μ : Mask) : Prop :=
  μ .mem = false ∧ μ .poison = false ∧ μ .cellar = false ∧ μ .cellarPoison = false ∧ μ .regs = false ∧ μ .cores = false ∧
  μ .stackDies = false ∧ μ .fab = false ∧ μ .g0 = false ∧ μ .g1 = false ∧ μ .faults = false ∧ μ .mgmt = false ∧ μ .out = false

@[simp] theorem Work.storeAt_spares (w : Work) (slot seg : Nat) (pp ph : Place) (h : Header) (payload : List Byte)
    (hm : μ.AllowsWorkStoreAt) : Spares μ σ w.s (w.storeAt slot seg pp ph h payload).s := by
  refine .of ?_
  unfold Work.storeAt
  split
  · simp
  · refine Work.hear_kept _ _ fun w => ?_
    (repeat' split) <;> simp [hm]

/-- The mask names nothing that `Work.storeBytes` can change. -/
@[simp] abbrev Mask.AllowsWorkStoreBytes (μ : Mask) : Prop :=
  μ .mem = false ∧ μ .poison = false ∧ μ .cellar = false ∧ μ .cellarPoison = false ∧ μ .cores = false ∧ μ .stackDies = false ∧
  μ .fab = false ∧ μ .g0 = false ∧ μ .g1 = false ∧ μ .out = false

@[simp] theorem Work.storeBytes_spares (w : Work) (slot seg : Nat) (p : Place) (bs : List Byte) (hm : μ.AllowsWorkStoreBytes)
    : Spares μ σ w.s (w.storeBytes slot seg p bs).s := by
  refine .of ?_
  unfold Work.storeBytes
  split
  · simp
  · refine Work.hear_kept _ _ fun w => ?_
    (repeat' split) <;> simp [hm]

@[simp] theorem Work.payTile_spares (w : Work) (write : Bool) (slot seg : Nat) (g : Seg) (pp : Place) (hm : μ .ctxs = false) :
    Spares μ σ w.s (w.payTile write slot seg g pp).s := .of <| by simp [Work.payTile, hm]

/-- The mask names nothing that `Work.store` can change. -/
@[simp] abbrev Mask.AllowsWorkStore (μ : Mask) : Prop :=
  μ .mem = false ∧ μ .poison = false ∧ μ .cellar = false ∧ μ .cellarPoison = false ∧ μ .regs = false ∧ μ .ctxs = false ∧
  μ .cores = false ∧ μ .stackDies = false ∧ μ .fab = false ∧ μ .g0 = false ∧ μ .g1 = false ∧ μ .faults = false ∧ μ .mgmt = false
  ∧ μ .out = false

@[simp] theorem Work.store_spares (w : Work) (slot seg : Nat) (g : Seg) (i : Nat) (h : Header) (payload : List Byte)
    (hm : μ.AllowsWorkStore) : Spares μ σ w.s (w.store slot seg g i h payload).s := .of <| by simp [Work.store, hm]

theorem Work.each_kept (f : Nat → Work → Work) (h : ∀ i w, Kept μ w.s (f i w).s) (n i : Nat) (w : Work) :
    Kept μ w.s (Work.each f n i w).s := by
  induction n generalizing i w with
  | zero => simp [Work.each]
  | succ n ih => simp [Work.each, Spares.of (ih ..), Spares.of (h ..)]

@[simp] theorem Work.each_spares (f : Nat → Work → Work) (h : ∀ i w, Kept μ w.s (f i w).s) (n i : Nat) (w : Work) :
    Spares μ σ w.s (Work.each f n i w).s := .of (Work.each_kept f h n i w)

theorem Work.each'_kept (f : Nat → Work → Seg → Work × Seg) (h : ∀ i w g, Kept μ w.s (f i w g).1.s) (n i : Nat) (g : Seg)
    (w : Work) : Kept μ w.s (Work.each' f n i g w).1.s := by
  induction n generalizing i g w with
  | zero => simp [Work.each']
  | succ n ih => simp [Work.each', Spares.of (ih ..), Spares.of (h ..)]

@[simp] theorem Work.each'_spares (f : Nat → Work → Seg → Work × Seg) (h : ∀ i w g, Kept μ w.s (f i w g).1.s) (n i : Nat)
    (g : Seg) (w : Work) : Spares μ σ w.s (Work.each' f n i g w).1.s := .of (Work.each'_kept f h n i g w)

@[simp] theorem Work.storeInvalid_spares (w : Work) (slot seg : Nat) (g : Seg) (i : Nat) (h : Header) :
    Spares .none σ w.s (w.storeInvalid slot seg g i h).s := by
  refine .of ?_
  unfold Work.storeInvalid
  exact (Work.store_spares { w with fail := none } _ _ _ _ _ _ (by simp)).kept

@[simp] theorem Work.quit_spares (w : Work) (hm : μ .cmds = false) : Spares μ σ w.s w.quit := by
  refine .of ?_
  unfold Work.quit
  split <;> simp [hm]

/-- The mask names nothing that `Work.bytes` can change. -/
@[simp] abbrev Mask.AllowsWorkBytes (μ : Mask) : Prop :=
  μ .regs = false ∧ μ .cores = false ∧ μ .fab = false ∧ μ .g0 = false ∧ μ .g1 = false ∧ μ .out = false

@[simp] theorem Work.bytes_spares (w : Work) (bad : Fail) (slot seg : Nat) (g : Seg) (o n : Nat) (hm : μ.AllowsWorkBytes) :
    Spares μ σ w.s (w.bytes bad slot seg g o n).1.s := by
  refine .of ?_
  unfold Work.bytes
  split
  · simp
  · refine Work.hear_kept _ _ fun w => ?_
    dsimp only
    (repeat' split) <;> simp [hm]

@[simp] theorem Work.word_spares (w : Work) (slot seg : Nat) (g : Seg) (o : Nat) (hm : μ.AllowsWorkBytes) :
    Spares μ σ w.s (w.word slot seg g o).1.s := .of <| by simp [Work.word, hm]

/-! ### Tallies (R391 to R412) -/

@[simp] theorem incOps_spares (die : Nat) (s : State) (hm : μ .regs = false) : Spares μ σ s (incOps die s) :=
  .of <| by simp [incOps, hm]
@[simp] theorem incFaults_spares (die : Nat) (s : State) (hm : μ .regs = false) : Spares μ σ s (incFaults die s) :=
  .of <| by simp [incFaults, hm]

@[simp] theorem acquireDone_spares (o : CmdRef) (core : Nat) (t : Tally) (s : State) (hm : μ .cmds = false) :
    Spares μ σ s (acquireDone o core t s) := by
  refine .of ?_
  unfold acquireDone
  split <;> simp [hm]

@[simp] theorem takeEffect_spares (die i n core : Nat) (o : CmdRef) (s : State) (hm : μ .cmds = false ∧ μ .tallies = false) :
    Spares μ σ s (takeEffect die i n core o s) := .of <| by simp [takeEffect, hm]

@[simp] theorem serveWaits_spares (die i : Nat) (s : State) (hm : μ .cmds = false ∧ μ .waiters = false) :
    Spares μ σ s (serveWaits die i s) := .of <| by simp [serveWaits, hm]

@[simp] theorem serveTakes_spares (die i : Nat) (l : List Waiter) (s : State)
    (hm : μ .cmds = false ∧ μ .tallies = false ∧ μ .waiters = false) : Spares μ σ s (serveTakes die i l s) := by
  induction l generalizing σ s with
  | nil => exact .of <| by simp [serveTakes]
  | cons w l ih => exact .of <| by simp [serveTakes, ih, hm]

@[simp] theorem serve_spares (die i : Nat) (s : State) (hm : μ .cmds = false ∧ μ .tallies = false ∧ μ .waiters = false) :
    Spares μ σ s (serve die i s) := .of <| by simp [serve, hm]

@[simp] theorem applyAdd_spares (die i n v l inst : Nat) (s : State)
    (hm : μ .regs = false ∧ μ .cmds = false ∧ μ .tallies = false ∧ μ .waiters = false) :
    Spares μ σ s (applyAdd die i n v l inst s).1 := by
  refine .of ?_
  unfold applyAdd
  dsimp only
  split <;> simp [hm]

@[simp] theorem applySub_spares (die i n l inst : Nat) (s : State)
    (hm : μ .regs = false ∧ μ .cmds = false ∧ μ .tallies = false ∧ μ .waiters = false) :
    Spares μ σ s (applySub die i n l inst s).1 := .of <| by simp [applySub, hm]

@[simp] theorem addWithPartner_spares (die i n l inst : Nat) (s : State)
    (hm : μ .regs = false ∧ μ .cmds = false ∧ μ .tallies = false ∧ μ .waiters = false) :
    Spares μ σ s (addWithPartner die i n l inst s).1 := by
  refine .of ?_
  unfold addWithPartner
  dsimp only
  (repeat' split) <;> simp [hm]

@[simp] theorem addWaiter_spares (w : Waiter) (s : State) (hm : μ .waiters = false) : Spares μ σ s (addWaiter w s) :=
  .of <| by simp [addWaiter, hm]

@[simp] theorem applyWait_spares (die i n core : Nat) (o : CmdRef) (s : State)
    (hm : μ .regs = false ∧ μ .cmds = false ∧ μ .waiters = false) : Spares μ σ s (applyWait die i n core o s).1 :=
  .of <| by simp [applyWait, hm]

@[simp] theorem applyTake_spares (die i n core : Nat) (o : CmdRef) (s : State)
    (hm : μ .regs = false ∧ μ .cmds = false ∧ μ .tallies = false ∧ μ .waiters = false) :
    Spares μ σ s (applyTake die i n core o s).1 := .of <| by simp [applyTake, hm]

@[simp] theorem dropWaiters_spares (p : Waiter → Bool) (f : Fail) (s : State) (hm : μ .cmds = false ∧ μ .waiters = false) :
    Spares μ σ s (dropWaiters p f s) := .of <| by simp [dropWaiters, hm]

/-! ### How runs and commands end (R218 to R223, R261, R296) -/

@[simp] theorem modProg_spares (h : Nat) (f : Program → Program) (s : State) (hm : μ .progs = false) :
    Spares μ σ s (modProg h f s) := by
  refine .of ?_
  unfold modProg
  split <;> simp [hm]

@[simp] theorem dropRun_spares (h r : Nat) (s : State) (hm : μ .cores = false) : Spares μ σ s (dropRun h r s) :=
  .of <| by simp [dropRun, hm]

@[simp] theorem dropCmdChain_spares (c : CmdRef) (n : Nat) (s : State) (hm : μ .cores = false) :
    Spares μ σ s (dropCmdChain c n s) := .of <| by simp [dropCmdChain, hm]

@[simp] theorem setCount_spares (d i n : Nat) (s : State) (hm : μ .tallies = false) : Spares μ σ s (setCount d i n s) :=
  .of <| by simp [setCount, hm]
@[simp] theorem resetStreams_spares (p : Program) (s : State) (hm : μ .tallies = false) : Spares μ σ s (resetStreams p s) :=
  .of <| by simp [resetStreams, hm]

@[simp] theorem dropStaged_spares (h r : Nat) (drop : StagedIn → Bool) (s : State)
    (hm : μ .tallies = false ∧ μ .progs = false) : Spares μ σ s (dropStaged h r drop s) := by
  refine .of ?_
  unfold dropStaged
  (repeat' split) <;> simp [hm]

@[simp] theorem unresident_spares (x : Nat) (s : State) (hm : μ .cores = false) : Spares μ σ s (unresident x s) :=
  .of <| by simp [unresident, hm]
@[simp] theorem takeIn_spares (x n : Nat) (s : State) (hm : μ .cores = false) : Spares μ σ s (takeIn x n s) :=
  .of <| by simp [takeIn, hm]
@[simp] theorem forgetTiles_spares (h : Nat) (s : State) (hm : μ .cores = false) : Spares μ σ s (forgetTiles h s) :=
  .of <| by simp [forgetTiles, hm]

@[simp] theorem releaseProg_spares (h : Nat) (p : Program) (s : State)
    (hm : μ .tallies = false ∧ μ .cores = false ∧ μ .progs = false) : Spares μ σ s (releaseProg h p s) :=
  .of <| by simp [releaseProg, hm]

@[simp] theorem dropLeft_spares (s : State) (hm : μ .cores = false) : Spares μ σ s (dropLeft s) :=
  .of <| by simp [dropLeft, hm]
@[simp] theorem dropSet_spares (part id : Nat) (s : State) (hm : μ .cores = false ∧ μ .partSets = false ∧ μ .unswept = false)
    : Spares μ σ s (dropSet part id s) := .of <| by simp [dropSet, hm]

/-- The mask names nothing that `sweep` can change. -/
@[simp] abbrev Mask.AllowsSweep (μ : Mask) : Prop :=
  μ .regs = false ∧ μ .cmds = false ∧ μ .staged = false ∧ μ .cores = false ∧ μ .partSets = false

theorem foldl_eq_self {α β : Type} {f : α → β → α} {l : List β} {a : α} (h : ∀ b ∈ l, f a b = a) : l.foldl f a = a := by
  induction l with
  | nil => rfl
  | cons b l ih =>
    rw [List.foldl_cons, h b (List.mem_cons_self ..)]
    exact ih fun c hc => h c (List.mem_cons_of_mem _ hc)

theorem dropLeft_staged (s : State) : (dropLeft s).staged = s.staged :=
  (dropLeft_spares (μ := fun p => p == .staged) s rfl).kept.pieces .staged rfl

theorem dropLeft_partSets (s : State) : (dropLeft s).partSets = s.partSets :=
  (dropLeft_spares (μ := fun p => p == .partSets) s rfl).kept.pieces .partSets rfl

/-- Where nothing waits for the last user of a set or a descriptor, sweeping only drops the sets that cores have let go. -/
theorem sweep_of_noneWaits {s : State} (h : noneWaits s = true) : sweep s = dropLeft s := by
  refine foldl_eq_self fun i hi => ?_
  rw [dropLeft_staged] at hi
  have hitem := List.all_eq_true.mp h i hi
  cases hit : i.item <;> simp_all

theorem Kept.with_unswept {s t : State} (h : Kept (fun p => μ p && p != .unswept) s t) (hu : Piece.Same s t .unswept) : Kept μ s t where
  pending := h.pending
  mem := h.mem
  cellar := h.cellar
  regs := h.regs
  pieces := fun p hp => by
    cases p
    case unswept => exact hu
    all_goals exact h.pieces _ (by simp [hp])

@[simp] theorem sweep_spares (s : State) (hm : μ.AllowsSweep) : Spares μ σ s (sweep s) := by
  refine .of (Kept.with_unswept (((dropLeft_spares s ?_).kept).trans (foldl_kept _ (fun s i => ?_) _ _)) fun hnone => ?_)
  · simp [hm]
  · (repeat' split) <;> simp [hm]
  · rw [sweep_of_noneWaits hnone]
    exact ⟨dropLeft_staged s, dropLeft_partSets s⟩

@[simp] theorem endTeardown_spares (x : Nat) (s : State) (hm : μ .ctxs = false ∧ μ .segs = false) :
    Spares μ σ s (endTeardown x s) := by
  refine .of ?_
  unfold endTeardown
  (repeat' split) <;> simp [hm]

@[simp] theorem sendEpoch_spares (dest op : Nat) (args : List Nat) (s : State) (hm : μ .fab = false ∧ μ .out = false) :
    Spares μ σ s (sendEpoch dest op args s) := .of <| by simp [sendEpoch, hm]

@[simp] theorem endCommit_spares (h : Nat) (s : State) (hm : μ .progs = false) : Spares μ σ s (endCommit h s) :=
  .of <| by simp [endCommit, hm]

@[simp] theorem failCommit_spares (h : Nat) (f : Fail) (s : State)
    (hm : μ .cmds = false ∧ μ .progs = false ∧ μ .fab = false ∧ μ .out = false) : Spares μ σ s (failCommit h f s) := by
  refine .of ?_
  unfold failCommit
  (repeat' split) <;> simp [hm]

@[simp] theorem failCommits_spares (pick : Program → Bool) (f : Fail) (s : State)
    (hm : μ .cmds = false ∧ μ .progs = false ∧ μ .fab = false ∧ μ .out = false) : Spares μ σ s (failCommits pick f s) :=
  .of <| by simp [failCommits, hm]

@[simp] theorem abortCommit_spares (c : CmdRef) (f : Fail) (s : State)
    (hm : μ .cmds = false ∧ μ .progs = false ∧ μ .fab = false ∧ μ .out = false) : Spares μ σ s (abortCommit c f s) := by
  refine .of ?_
  unfold abortCommit
  split <;> simp [hm]

@[simp] theorem castVote_spares (h : Nat) (s : State) (hm : μ .progs = false ∧ μ .fab = false ∧ μ .out = false) :
    Spares μ σ s (castVote h s) := by
  refine .of ?_
  unfold castVote
  split <;> simp [hm]

/-- The mask names nothing that `finishUnload` can change. -/
@[simp] abbrev Mask.AllowsFinishUnload (μ : Mask) : Prop :=
  μ .cmds = false ∧ μ .ctxs = false ∧ μ .segs = false ∧ μ .tallies = false ∧ μ .cores = false ∧ μ .progs = false ∧
  μ .fab = false ∧ μ .out = false

@[simp] theorem finishUnload_spares (h : Nat) (s : State) (hm : μ.AllowsFinishUnload) : Spares μ σ s (finishUnload h s) := by
  refine .of ?_
  unfold finishUnload
  (repeat' split) <;> simp [hm]

@[simp] theorem endFailed_spares (h : Nat) (r : Run) (f : Fail) (s : State)
    (hm : μ .cmds = false ∧ μ .tallies = false ∧ μ .cores = false ∧ μ .progs = false) : Spares μ σ s (endFailed h r f s) := by
  refine .of ?_
  unfold endFailed
  split <;> simp [hm]

@[simp] theorem reapList_spares (h : Nat) (l : List Nat) (s : State)
    (hm : μ .cmds = false ∧ μ .tallies = false ∧ μ .cores = false ∧ μ .progs = false) : Spares μ σ s (reapList h l s) := by
  induction l generalizing σ s with
  | nil => exact .of <| by simp [reapList]
  | cons i l ih =>
    refine .of ?_
    unfold reapList
    (repeat' split) <;> simp [ih, hm]

/-- The mask names nothing that `reap` can change. -/
@[simp] abbrev Mask.AllowsReap (μ : Mask) : Prop :=
  μ .regs = false ∧ μ .cmds = false ∧ μ .ctxs = false ∧ μ .staged = false ∧ μ .segs = false ∧ μ .tallies = false ∧
  μ .cores = false ∧ μ .progs = false ∧ μ .partSets = false ∧ μ .fab = false ∧ μ .out = false

@[simp] theorem reap_spares (h : Nat) (s : State) (hm : μ.AllowsReap) : Spares μ σ s (reap h s) := by
  refine .of ?_
  unfold reap
  split <;> simp [hm]

@[simp] theorem failRun_spares (h r : Nat) (f : Fail) (s : State) (hm : μ.AllowsReap) : Spares μ σ s (failRun h r f s) :=
  .of <| by simp [failRun, hm]

@[simp] theorem completeRuns_spares (h : Nat) (l : List Nat) (s : State)
    (hm : μ .cmds = false ∧ μ .cores = false ∧ μ .progs = false) : Spares μ σ s (completeRuns h l s) := by
  induction l generalizing σ s with
  | nil => exact .of <| by simp [completeRuns]
  | cons i l ih =>
    refine .of ?_
    unfold completeRuns
    (repeat' split) <;> simp [ih, hm]

@[simp] theorem checkRuns_spares (h : Nat) (s : State) (hm : μ.AllowsReap) : Spares μ σ s (checkRuns h s) := by
  refine .of ?_
  unfold checkRuns
  split <;> simp [hm]

@[simp] theorem restoreHead_spares (x : Nat) (s : State) (hm : μ .ctxs = false) : Spares μ σ s (restoreHead x s) :=
  .of <| by simp [restoreHead, hm]
/-- The mask names nothing that `unwait` can change. -/
@[simp] abbrev Mask.AllowsUnwait (μ : Mask) : Prop :=
  μ .ctxs = false ∧ μ .staged = false ∧ μ .walks = false ∧ μ .waiters = false ∧ μ .cores = false ∧ μ .unswept = false

@[simp] theorem unwait_spares (c : CmdRef) (s0 : State) (hm : μ.AllowsUnwait) : Spares μ σ s0 (unwait c s0) :=
  .of <| by simp [unwait, hm]

@[simp] theorem dropStage_spares (e : Cmd) (s : State) (hm : μ .progs = false ∧ μ .fab = false ∧ μ .out = false) :
    Spares μ σ s (dropStage e s) := by
  refine .of ?_
  unfold dropStage
  split <;> simp [hm]

@[simp] theorem Work.park_spares (w : Work) (hm : μ .cmds = false) : Spares μ σ w.s w.park := .of <| by simp [Work.park, hm]
@[simp] theorem Work.letGo_spares (w : Work) (s : State) (hm : μ.AllowsSweep) : Spares μ σ s (w.letGo s) :=
  .of <| by simp [Work.letGo, hm]

@[simp] theorem Work.finish_spares (w : Work) (detail : Nat) (hm : μ.AllowsSweep) : Spares μ σ w.s (w.finish detail) := by
  refine .of ?_
  unfold Work.finish
  (repeat' split) <;> simp [hm]

end

end Sys2Proof.Machine
end

section
/-! Queue control, tally and movement commands spare what is to be left. -/

namespace Sys2Proof.Machine
open Sys2Proof

section
variable {μ : Mask} {σ : State}

/-! ### Queue control and tally commands (R274 to R276) -/

@[simp] theorem execNop_gives (c : CmdRef) (s : State) (hm : μ .cmds = false ∧ μ .walks = false) : Gives μ s (execNop c s) :=
  by simp [execNop, hm]

/-- The mask names nothing that `markEffect` can change. -/
@[simp] abbrev Mask.AllowsMarkEffect (μ : Mask) : Prop :=
  μ .mem = false ∧ μ .poison = false ∧ μ .cellar = false ∧ μ .cellarPoison = false ∧ μ .regs = false ∧ μ .queues = false ∧
  μ .cmds = false ∧ μ .dpool = false ∧ μ .cores = false ∧ μ .stackDies = false ∧ μ .fab = false ∧ μ .g0 = false ∧ μ .g1 = false
  ∧ μ .faults = false ∧ μ .mgmt = false ∧ μ .out = false

@[simp] theorem markEffect_spares (c : CmdRef) (p : MarkP) (s : State) (hm : μ.AllowsMarkEffect) :
    Spares μ σ s (markEffect c p s) := by
  refine .of ?_
  unfold markEffect
  split <;> simp [hm]

/-- The mask names nothing that `execQueueMark` can change. -/
@[simp] abbrev Mask.AllowsExecQueueMark (μ : Mask) : Prop :=
  μ .mem = false ∧ μ .poison = false ∧ μ .cellar = false ∧ μ .cellarPoison = false ∧ μ .regs = false ∧ μ .queues = false ∧
  μ .cmds = false ∧ μ .dpool = false ∧ μ .walks = false ∧ μ .cores = false ∧ μ .stackDies = false ∧ μ .fab = false ∧
  μ .g0 = false ∧ μ .g1 = false ∧ μ .faults = false ∧ μ .mgmt = false ∧ μ .out = false

@[simp] theorem execQueueMark_gives (c : CmdRef) (p : MarkP) (s : State) (hm : μ.AllowsExecQueueMark) :
    Gives μ s (execQueueMark c p s) := by simp [execQueueMark, hm]

@[simp] theorem fenceEffect_spares (c : CmdRef) (k : FenceKind) (s : State) (hm : μ .cmds = false) :
    Spares μ σ s (fenceEffect c k s) := .of <| by simp [fenceEffect, hm]

@[simp] theorem execFence_gives (c : CmdRef) (k : FenceKind) (s : State) (hm : μ .cmds = false ∧ μ .walks = false) :
    Gives μ s (execFence c k s) := by simp [execFence, hm]

@[simp] theorem finishOp_spares (c : CmdRef) (r : State × Option Fail) (hm : μ .cmds = false) :
    Spares μ σ r.1 (finishOp c r) := by
  refine .of ?_
  unfold finishOp
  split <;> simp [hm]

/-- The mask names nothing that `execTallyAdd` can change. -/
@[simp] abbrev Mask.AllowsExecTallyAdd (μ : Mask) : Prop :=
  μ .regs = false ∧ μ .cmds = false ∧ μ .walks = false ∧ μ .tallies = false ∧ μ .waiters = false

@[simp] theorem execTallyAdd_gives (c : CmdRef) (t : TallyRef) (scope : BitVec 8) (n : BitVec 64) (s : State)
    (hm : μ.AllowsExecTallyAdd) : Gives μ s (execTallyAdd c t scope n s) := by
  unfold execTallyAdd
  refine (gives_next _ _).mpr (runCmd_kept _ _ _ _ _ (fun e s => ?_) (by simp [hm]))
  (repeat' split) <;> simp [hm]

@[simp] theorem execTallySub_gives (c : CmdRef) (t : TallyRef) (scope : BitVec 8) (n : BitVec 64) (s : State)
    (hm : μ.AllowsExecTallyAdd) : Gives μ s (execTallySub c t scope n s) := by
  unfold execTallySub
  refine (gives_next _ _).mpr (runCmd_kept _ _ _ _ _ (fun e s => ?_) (by simp [hm]))
  (repeat' split) <;> simp [hm]

@[simp] theorem waitOp_spares (c : CmdRef) (r : State × Option Fail) (hm : μ .cmds = false) : Spares μ σ r.1 (waitOp c r) :=
  by
  refine .of ?_
  unfold waitOp
  split <;> simp [hm]

@[simp] theorem execTallyWait_gives (c : CmdRef) (t : TallyRef) (n : BitVec 64) (s : State)
    (hm : μ .regs = false ∧ μ .cmds = false ∧ μ .walks = false ∧ μ .waiters = false) : Gives μ s (execTallyWait c t n s) := by
  unfold execTallyWait
  refine (gives_next _ _).mpr (runCmd_kept _ _ _ _ _ (fun e s => ?_) (by simp [hm]))
  (repeat' split) <;> simp [hm]

@[simp] theorem execTallyTake_gives (c : CmdRef) (t : TallyRef) (n : BitVec 64) (s : State) (hm : μ.AllowsExecTallyAdd) :
    Gives μ s (execTallyTake c t n s) := by
  unfold execTallyTake
  refine (gives_next _ _).mpr (runCmd_kept _ _ _ _ _ (fun e s => ?_) (by simp [hm]))
  (repeat' split) <;> simp [hm]

/-- The mask names nothing that `execSignalRemote` can change. -/
@[simp] abbrev Mask.AllowsExecSignalRemote (μ : Mask) : Prop :=
  μ .regs = false ∧ μ .cmds = false ∧ μ .walks = false ∧ μ .tallies = false ∧ μ .waiters = false ∧ μ .fab = false ∧
  μ .out = false

@[simp] theorem execSignalRemote_gives (c : CmdRef) (t : TallyRef) (scope : BitVec 8) (module : BitVec 16) (n : BitVec 64)
    (s : State) (hm : μ.AllowsExecSignalRemote) : Gives μ s (execSignalRemote c t scope module n s) := by
  unfold execSignalRemote
  refine (gives_next _ _).mpr (runCmd_kept _ _ _ _ _ (fun e s => ?_) (by simp [hm]))
  dsimp only
  (repeat' split) <;> simp [hm]

/-- The mask names nothing that `signalWork` can change. -/
@[simp] abbrev Mask.AllowsSignalWork (μ : Mask) : Prop :=
  μ .mem = false ∧ μ .poison = false ∧ μ .cellar = false ∧ μ .cellarPoison = false ∧ μ .regs = false ∧ μ .dpool = false ∧
  μ .cores = false ∧ μ .stackDies = false ∧ μ .fab = false ∧ μ .g0 = false ∧ μ .g1 = false ∧ μ .faults = false ∧ μ .mgmt = false
  ∧ μ .out = false

@[simp] theorem signalWork_spares (add : Bool) (c : CmdRef) (p : SignalP) (r : Bref) (e : Cmd) (s : State)
    (hm : μ.AllowsSignalWork) : Spares μ σ s (signalWork add c p r e s).s := .of <| by simp [signalWork, hm]

/-- The mask names nothing that `signalHost` can change. -/
@[simp] abbrev Mask.AllowsSignalHost (μ : Mask) : Prop :=
  μ .mem = false ∧ μ .poison = false ∧ μ .cellar = false ∧ μ .cellarPoison = false ∧ μ .regs = false ∧ μ .cmds = false ∧
  μ .staged = false ∧ μ .dpool = false ∧ μ .cores = false ∧ μ .partSets = false ∧ μ .stackDies = false ∧ μ .hc = false ∧
  μ .fab = false ∧ μ .g0 = false ∧ μ .g1 = false ∧ μ .pA = false ∧ μ .pB = false ∧ μ .faults = false ∧ μ .mgmt = false ∧
  μ .out = false

@[simp] theorem signalHost_spares (add : Bool) (c : CmdRef) (p : SignalP) (e : Cmd) (s : State) (hm : μ.AllowsSignalHost) :
    Spares μ σ s (signalHost add c p e s) := by
  refine .of ?_
  unfold signalHost
  split <;> simp [hm]

/-- The mask names nothing that `signalHeld` can change. -/
@[simp] abbrev Mask.AllowsSignalHeld (μ : Mask) : Prop :=
  μ .regs = false ∧ μ .cmds = false ∧ μ .hc = false ∧ μ .pA = false ∧ μ .pB = false ∧ μ .out = false

@[simp] theorem signalHeld_spares (b lost : Bool) (s : State) (e : Cmd) (hm : μ.AllowsSignalHeld) :
    Spares μ σ s (signalHeld b lost s e) := by
  refine .of ?_
  unfold signalHeld
  (repeat' split) <;> simp [hm]

/-- The mask names nothing that `execSignalHost` can change. -/
@[simp] abbrev Mask.AllowsExecSignalHost (μ : Mask) : Prop :=
  μ .mem = false ∧ μ .poison = false ∧ μ .cellar = false ∧ μ .cellarPoison = false ∧ μ .regs = false ∧ μ .cmds = false ∧
  μ .staged = false ∧ μ .dpool = false ∧ μ .walks = false ∧ μ .cores = false ∧ μ .partSets = false ∧ μ .stackDies = false ∧
  μ .hc = false ∧ μ .fab = false ∧ μ .g0 = false ∧ μ .g1 = false ∧ μ .pA = false ∧ μ .pB = false ∧ μ .faults = false ∧
  μ .mgmt = false ∧ μ .out = false

@[simp] theorem execSignalHost_gives (c : CmdRef) (p : SignalP) (s : State) (hm : μ.AllowsExecSignalHost) :
    Gives μ s (execSignalHost c p s) := by simp [execSignalHost, hm]

@[simp] theorem execSignalHostAdd_gives (c : CmdRef) (p : SignalP) (s : State) (hm : μ.AllowsExecSignalHost) :
    Gives μ s (execSignalHostAdd c p s) := by simp [execSignalHostAdd, hm]

@[simp] theorem signalOn_spares (c : CmdRef) (add : Bool) (p : SignalP) (e : Cmd) (s : State) (hm : μ.AllowsSignalHost) :
    Spares μ σ s (signalOn c add p e s) := .of <| by simp [signalOn, hm]

/-- The mask names nothing that `settleOne` can change. -/
@[simp] abbrev Mask.AllowsSettleOne (μ : Mask) : Prop :=
  μ .mem = false ∧ μ .poison = false ∧ μ .cellar = false ∧ μ .cellarPoison = false ∧ μ .regs = false ∧ μ .queues = false ∧
  μ .cmds = false ∧ μ .staged = false ∧ μ .dpool = false ∧ μ .cores = false ∧ μ .partSets = false ∧ μ .stackDies = false ∧
  μ .hc = false ∧ μ .fab = false ∧ μ .g0 = false ∧ μ .g1 = false ∧ μ .pA = false ∧ μ .pB = false ∧ μ .faults = false ∧
  μ .mgmt = false ∧ μ .out = false

@[simp] theorem settleOne_spares (s : State) (e : Cmd) (hm : μ.AllowsSettleOne) : Spares μ σ s (settleOne s e) := by
  refine .of ?_
  unfold settleOne
  (repeat' split) <;> simp [hm]

@[simp] theorem settle_spares (s : State) (hm : μ.AllowsSettleOne) : Spares μ σ s (settle s) := .of <| by simp [settle, hm]

@[simp] theorem abortOne_spares (f : Fail) (s : State) (e : Cmd) : Spares .none σ s (abortOne f s e) := by
  refine .of ?_
  unfold abortOne
  (repeat' split) <;> simp

@[simp] theorem abortWhere_spares (p : Cmd → Bool) (f : Fail) (s : State) : Spares .none σ s (abortWhere p f s) :=
  .of <| by simp [abortWhere]

/-! ### The dispatcher and the engines (R74, R77, R172) -/

@[simp] theorem spillEngine_spares (n e ctx : Nat) (s : State) (hm : μ .regs = false ∧ μ .cores = false) :
    Spares μ σ s (spillEngine n e ctx s) := by
  refine .of ?_
  unfold spillEngine
  dsimp only
  split <;> simp [hm]

@[simp] theorem spillOwn_spares (n e : Nat) (s : State) (hm : μ .regs = false ∧ μ .cores = false) :
    Spares μ σ s (spillOwn n e s) := by
  refine .of ?_
  unfold spillOwn
  split <;> simp [hm]

@[simp] theorem restoreChain_spares (n e : Nat) (x : Spilled) (s : State) (hm : μ .regs = false ∧ μ .cores = false) :
    Spares μ σ s (restoreChain n e x s) := .of <| by simp [restoreChain, hm]

@[simp] theorem takeEngine_spares (n e ctx : Nat) (chain : Bool) (s : State) (hm : μ .regs = false ∧ μ .cores = false) :
    Spares μ σ s (takeEngine n e ctx chain s) := by
  refine .of ?_
  unfold takeEngine
  split <;> simp [hm]

@[simp] theorem Work.newEngine_spares (w : Work) (chain : Bool) (i : Nat) (hm : μ .regs = false ∧ μ .cores = false) :
    Spares μ σ w.s (w.newEngine chain i).1.s := by
  refine .of ?_
  unfold Work.newEngine
  refine Work.hear_kept _ _ fun w => ?_
  dsimp only
  split <;> simp [hm]

@[simp] theorem Work.onEngine_spares (w : Work) (e : Nat) (hm : μ .regs = false ∧ μ .cores = false) :
    Spares μ σ w.s (w.onEngine e).s := by
  refine .of (Work.hear_kept _ _ fun w => ?_)
  split <;> simp [hm]

@[simp] theorem Work.sameEngine_spares (w : Work) (hm : μ .regs = false ∧ μ .cores = false) :
    Spares μ σ w.s w.sameEngine.1.s := by
  refine .of ?_
  unfold Work.sameEngine
  refine Work.hear_kept _ _ fun w => ?_
  dsimp only
  split
  · split <;> simp
  · split <;> simp [hm]

@[simp] theorem Work.dispatched_spares (w : Work) : Spares μ σ w.s w.dispatched.s := .of <| by simp [Work.dispatched]

@[simp] theorem Work.held_spares (w : Work) (e : Nat) (id : List Nat) (k : Nat) : Spares μ σ w.s (w.held e id k).1.s :=
  .of <| by simp [Work.held]

@[simp] theorem fillShadow_spares (n e : Nat) (l : List HeldTile) (s : State) (hm : μ .cores = false) :
    Spares μ σ s (fillShadow n e l s) := .of <| by simp [fillShadow, hm]

@[simp] theorem swapBlock_spares (n e : Nat) (s : State) (hm : μ .cores = false) : Spares μ σ s (swapBlock n e s) :=
  .of <| by simp [swapBlock, hm]

@[simp] theorem engFlag_spares (n e : Nat) (f : Fld) (on : Bool) (s : State) (hm : μ .regs = false) :
    Spares μ σ s (engFlag n e f on s) := .of <| by simp [engFlag, hm]

@[simp] theorem vflagsInto_spares (n e : Nat) (v : VFlags) (s : State) (hm : μ .regs = false) :
    Spares μ σ s (vflagsInto n e v s) := .of <| by simp [vflagsInto, hm]

@[simp] theorem addBusy_spares (n e cycles rows : Nat) (s : State) (hm : μ .regs = false) :
    Spares μ σ s (addBusy n e cycles rows s) := .of <| by simp [addBusy, hm]

@[simp] theorem noteIssue_spares (n : Nat) (s : State) (hm : μ .regs = false) : Spares μ σ s (noteIssue n s) :=
  .of <| by simp [noteIssue, hm]

/-! ### Movement commands (R277 to R280) -/

@[simp] theorem Work.pay_spares (w : Work) (write : Bool) (t : TileAt) (hm : μ .ctxs = false) :
    Spares μ σ w.s (w.pay write t).s := by
  refine .of ?_
  unfold Work.pay
  split <;> simp [hm]

@[simp] theorem Work.moveTile_spares (w : Work) (src dst : TileAt) (hm : μ.AllowsWorkStore) :
    Spares μ σ w.s (w.moveTile src dst).s := by
  refine .of ?_
  unfold Work.moveTile
  dsimp only
  split <;> simp [hm]

/-- The mask names nothing that `Work.copySector` can change. -/
@[simp] abbrev Mask.AllowsWorkCopySector (μ : Mask) : Prop :=
  μ .mem = false ∧ μ .poison = false ∧ μ .cellar = false ∧ μ .cellarPoison = false ∧ μ .regs = false ∧ μ .ctxs = false ∧
  μ .cores = false ∧ μ .stackDies = false ∧ μ .fab = false ∧ μ .g0 = false ∧ μ .g1 = false ∧ μ .out = false

@[simp] theorem Work.copySector_spares (w : Work) (src dst : Bref) (gs gd : Seg) (i : Nat)
    (hm : μ.AllowsWorkCopySector) : Spares μ σ w.s (w.copySector src dst gs gd i).s := by
  have paid : Kept μ w.s (if i % 64 = 0 then (w.traffic gs 1).traffic gd 1 else w).s := by
    split <;> simp [hm]
  have stored (bad : Bool) (p : Place) (bs : List Byte) (owner : Barrier) (s : State) :
      Kept μ s ((if bad then placeWriteBad else placeWrite) (8, dst.seg.toNat) p bs owner s) := by
    split <;> simp [hm]
  refine .of ?_
  unfold Work.copySector
  extract_lets w1
  split
  · exact paid
  · refine paid.trans (Work.hear_kept _ _ fun w => ?_)
    dsimp only
    split
    · simp
    · split
      · simp
      · split <;> simp [Spares.of (stored ..), hm]

/-- The mask names nothing that `copyWork` can change. -/
@[simp] abbrev Mask.AllowsCopyWork (μ : Mask) : Prop :=
  μ .mem = false ∧ μ .poison = false ∧ μ .cellar = false ∧ μ .cellarPoison = false ∧ μ .regs = false ∧ μ .ctxs = false ∧
  μ .dpool = false ∧ μ .cores = false ∧ μ .stackDies = false ∧ μ .fab = false ∧ μ .g0 = false ∧ μ .g1 = false ∧
  μ .faults = false ∧ μ .mgmt = false ∧ μ .out = false

@[simp] theorem copyWork_spares (c : CmdRef) (p : CopyP) (e : Cmd) (s : State) (hm : μ.AllowsCopyWork) :
    Spares μ σ s (copyWork c p e s).s := by
  refine .of ?_
  unfold copyWork
  split <;> simp [hm]

/-- The mask names nothing that `execCopy` can change. -/
@[simp] abbrev Mask.AllowsExecCopy (μ : Mask) : Prop :=
  μ .mem = false ∧ μ .poison = false ∧ μ .cellar = false ∧ μ .cellarPoison = false ∧ μ .regs = false ∧ μ .cmds = false ∧
  μ .ctxs = false ∧ μ .staged = false ∧ μ .dpool = false ∧ μ .walks = false ∧ μ .cores = false ∧ μ .partSets = false ∧
  μ .stackDies = false ∧ μ .fab = false ∧ μ .g0 = false ∧ μ .g1 = false ∧ μ .faults = false ∧ μ .mgmt = false ∧ μ .out = false

@[simp] theorem execCopy_gives (c : CmdRef) (p : CopyP) (s : State) (hm : μ.AllowsExecCopy) : Gives μ s (execCopy c p s) :=
  by simp [execCopy, hm]

/-- The mask names nothing that `Work.entry` can change. -/
@[simp] abbrev Mask.AllowsWorkEntry (μ : Mask) : Prop :=
  μ .regs = false ∧ μ .ctxs = false ∧ μ .cores = false ∧ μ .fab = false ∧ μ .g0 = false ∧ μ .g1 = false ∧ μ .out = false

@[simp] theorem Work.entry_spares (w : Work) (r : Bref) (g : Seg) (i : Nat) (hm : μ.AllowsWorkEntry) :
    Spares μ σ w.s (w.entry r g i).1.s := .of <| by simp [Work.entry, hm]

@[simp] theorem Work.named_spares (w : Work) (slot : Nat) (t : Tref) (rights : Nat) (hm : μ.AllowsResolveDesc) :
    Spares μ σ w.s (w.named slot t rights).1.s := .of <| by simp [Work.named, hm]

@[simp] theorem gatherWork_spares (c : CmdRef) (p : IdxP) (e : Cmd) (s : State) (hm : μ.AllowsCopyWork) :
    Spares μ σ s (gatherWork c p e s).s := .of <| by simp [gatherWork, hm]

@[simp] theorem execGather_gives (c : CmdRef) (p : IdxP) (s : State) (hm : μ.AllowsExecCopy) : Gives μ s (execGather c p s) :=
  by simp [execGather, hm]

@[simp] theorem scatterWork_spares (c : CmdRef) (p : IdxP) (e : Cmd) (s : State) (hm : μ.AllowsCopyWork) :
    Spares μ σ s (scatterWork c p e s).s := .of <| by simp [scatterWork, hm]

@[simp] theorem execScatter_gives (c : CmdRef) (p : IdxP) (s : State) (hm : μ.AllowsExecCopy) : Gives μ s (execScatter c p s) :=
  by simp [execScatter, hm]

@[simp] theorem zeroWork_spares (c : CmdRef) (p : ZeroP) (e : Cmd) (s : State) (hm : μ.AllowsCopyWork) :
    Spares μ σ s (zeroWork c p e s).s := by
  refine .of ?_
  unfold zeroWork
  dsimp only
  split <;> simp [-List.reduceReplicate, hm]

@[simp] theorem execZero_gives (c : CmdRef) (p : ZeroP) (s : State) (hm : μ.AllowsExecCopy) : Gives μ s (execZero c p s) :=
  by simp [execZero, hm]

@[simp] theorem Work.volume_spares (w : Work) (slot : Nat) (p : CellarP) : Spares μ σ w.s (w.volume slot p).s :=
  .of <| by simp [Work.volume]

@[simp] theorem buffered_spares (v i : Nat) (s : State) (hm : μ .wbuf = false) : Spares μ σ s (buffered v i s) :=
  .of <| by simp [buffered, hm]

@[simp] theorem cellarReadWork_spares (c : CmdRef) (p : CellarP) (e : Cmd) (s : State) (hm : μ.AllowsCopyWork) :
    Spares μ σ s (cellarReadWork c p e s).s := .of <| by simp [cellarReadWork, hm]

@[simp] theorem execCellarRead_gives (c : CmdRef) (p : CellarP) (s : State) (hm : μ.AllowsExecCopy) :
    Gives μ s (execCellarRead c p s) := by simp [execCellarRead, hm]

/-- The mask names nothing that `cellarWriteWork` can change. -/
@[simp] abbrev Mask.AllowsCellarWriteWork (μ : Mask) : Prop :=
  μ .mem = false ∧ μ .poison = false ∧ μ .cellar = false ∧ μ .cellarPoison = false ∧ μ .wbuf = false ∧ μ .regs = false ∧
  μ .ctxs = false ∧ μ .dpool = false ∧ μ .cores = false ∧ μ .stackDies = false ∧ μ .fab = false ∧ μ .g0 = false ∧ μ .g1 = false
  ∧ μ .faults = false ∧ μ .mgmt = false ∧ μ .out = false

@[simp] theorem cellarWriteWork_spares (c : CmdRef) (p : CellarP) (e : Cmd) (s : State) (hm : μ.AllowsCellarWriteWork) :
    Spares μ σ s (cellarWriteWork c p e s).s := by
  have moved (i : Nat) (w w1 : Work) (h : Kept μ w.s w1.s) :
      Kept μ w.s (if w1.failed then w1 else w1.mod (buffered p.volume.toNat i)).s := by
    split <;> simp [h, hm]
  refine .of ?_
  unfold cellarWriteWork
  dsimp only
  refine Kept.trans ?_ (Work.each_kept _ (fun i w => moved _ _ _ ?_) _ _ _)
  · simp [hm]
  · simp [hm]

/-- The mask names nothing that `execCellarWrite` can change. -/
@[simp] abbrev Mask.AllowsExecCellarWrite (μ : Mask) : Prop :=
  μ .mem = false ∧ μ .poison = false ∧ μ .cellar = false ∧ μ .cellarPoison = false ∧ μ .wbuf = false ∧ μ .regs = false ∧
  μ .cmds = false ∧ μ .ctxs = false ∧ μ .staged = false ∧ μ .dpool = false ∧ μ .walks = false ∧ μ .cores = false ∧
  μ .partSets = false ∧ μ .stackDies = false ∧ μ .fab = false ∧ μ .g0 = false ∧ μ .g1 = false ∧ μ .faults = false ∧
  μ .mgmt = false ∧ μ .out = false

@[simp] theorem execCellarWrite_gives (c : CmdRef) (p : CellarP) (s : State) (hm : μ.AllowsExecCellarWrite) :
    Gives μ s (execCellarWrite c p s) := by simp [execCellarWrite, hm]

end

end Sys2Proof.Machine
end

section
/-! Matrix, tensor, function and row commands spare what is to be left. -/

namespace Sys2Proof.Machine
open Sys2Proof

section
variable {μ : Mask} {σ : State}

/-! ### The matrix array (R281, R282) -/

@[simp] theorem Work.stageOf_spares (w : Work) (o : Opnd) (i : Nat) (hm : μ .ctxs = false) :
    Spares μ σ w.s (w.stageOf o i).s := .of <| by simp [Work.stageOf, hm]

/-- The mask names nothing that `Work.take` can change. -/
@[simp] abbrev Mask.AllowsWorkTake (μ : Mask) : Prop :=
  μ .regs = false ∧ μ .ctxs = false ∧ μ .cores = false ∧ μ .fab = false ∧ μ .g0 = false ∧ μ .g1 = false ∧ μ .faults = false ∧
  μ .mgmt = false ∧ μ .out = false

@[simp] theorem Work.take_spares (w : Work) (o : Opnd) (i : Nat) (accepts : Fmt → Bool) (hm : μ.AllowsWorkTake) :
    Spares μ σ w.s (w.take o i accepts).1.s := by
  refine .of ?_
  have h (p : Work × _) (e : (w.stageOf o i).loadAt o.slot (o.at (w.stageOf o i).s i).seg (o.at (w.stageOf o i).s i).payload
      (o.at (w.stageOf o i).s i).header accepts = p) : Kept μ w.s p.1.s := by
    rw [← e]
    simp [hm]
  unfold Work.take
  dsimp only
  split
  next e => exact h _ e
  next w1 f t e =>
    have h1 : Kept μ w.s w1.s := h _ e
    split <;> simp [h1]

theorem Work.take_kept {w w1 : Work} {o : Opnd} {i : Nat} {a : Fmt → Bool} {r : Option (Fmt × Tile)} (hm : μ.AllowsWorkTake)
    (h : w.take o i a = (w1, r)) : Kept μ w.s w1.s := (Work.take_spares w o i a hm).kept.of_fst h

@[simp] theorem Work.peek_spares (w : Work) (o : Opnd) (i : Nat) (hm : μ.AllowsWorkLoadNow) :
    Spares μ σ w.s (w.peek o i).1.s := .of <| by simp [Work.peek, hm]

@[simp] theorem Work.putAt_spares (h : Header) (payload : List Byte) (w : Work) (t : TileAt) (hm : μ.AllowsWorkStore) :
    Spares μ σ w.s (Work.putAt h payload w t).s := .of <| by simp [Work.putAt, hm]

@[simp] theorem Work.put_spares (w : Work) (o : Opnd) (i : Nat) (h : Header) (payload : List Byte) (hm : μ.AllowsWorkStore) :
    Spares μ σ w.s (w.put o i h payload).s := .of <| by simp [Work.put, hm]

@[simp] theorem Work.void_spares (w : Work) (o : Opnd) (i : Nat) (h : Header) (hm : μ.AllowsWorkStore) :
    Spares μ σ w.s (w.void o i h).s := by
  refine .of ?_
  unfold Work.void
  exact (Work.put_spares { w with fail := none } _ _ _ _ hm).kept

@[simp] theorem Work.maxexpAt_spares (w : Work) (o : Opnd) (i : Nat) (hm : μ.AllowsWorkTake) :
    Spares μ σ w.s (w.maxexpAt o i).1.s := by
  refine .of ?_
  unfold Work.maxexpAt
  dsimp only
  (repeat' split) <;> simp [hm]

@[simp] theorem Work.maxOver_spares (w : Work) (o : Opnd) (l : List Nat) (hm : μ.AllowsWorkTake) :
    Spares μ σ w.s (w.maxOver o l).1.s := by
  induction l generalizing σ w with
  | nil => exact .of <| by simp [Work.maxOver]
  | cons i l ih => exact .of <| by simp [Work.maxOver, ih, hm]

@[simp] theorem putChain_spares (n e : Nat) (c : Chain) (x : ChainAcc) (anchor : Int) (s : State) (hm : μ .cores = false) :
    Spares μ σ s (putChain n e c x anchor s) := .of <| by simp [putChain, hm]

@[simp] theorem MM.maxBlocks_spares (p : MM) (w : Work) (l : List (Nat × Nat)) (hm : μ.AllowsWorkTake) :
    Spares μ σ w.s (p.maxBlocks w l).1.s := by
  induction l generalizing σ w with
  | nil => exact .of <| by simp [MM.maxBlocks]
  | cons x l ih => exact .of <| by simp [MM.maxBlocks, ih, hm]

@[simp] theorem MM.maxWeights_spares (p : MM) (w : Work) (hm : μ.AllowsWorkTake) : Spares μ σ w.s (p.maxWeights w).1.s :=
  .of <| by simp [MM.maxWeights, hm]

@[simp] theorem MM.heldBlock_spares (p : MM) (e j k : Nat) (w : Work) : Spares μ σ w.s (p.heldBlock e j k w).1.s := by
  refine .of ?_
  unfold MM.heldBlock
  dsimp only
  split
  next e => exact .of_fst (by simp) e
  next w1 _ _ e =>
    have h : Kept μ w.s w1.s := .of_fst (by simp) e
    split
    · exact h
    · split
      next e2 => exact .of_fst (by simp [h]) e2
      next e2 => exact .of_fst (by simp [h]) e2

@[simp] theorem MM.loadBlock_spares (p : MM) (e j k : Nat) (w : Work) (hm : μ.AllowsWorkTake) :
    Spares μ σ w.s (p.loadBlock e j k w).1.s := by
  refine .of ?_
  unfold MM.loadBlock
  dsimp only
  split
  next e => exact Work.take_kept (μ := μ) (by simp [hm]) e
  next e =>
    have h := Work.take_kept (μ := μ) (by simp [hm]) e
    split
    · simp [h]
    · split
      · simp [h, hm]
      · split
        next e2 => exact h.trans (Work.take_kept (μ := μ) (by simp [hm]) e2)
        next e2 =>
          have h2 := h.trans (Work.take_kept (μ := μ) (by simp [hm]) e2)
          split <;> simp [h2, hm]

@[simp] theorem MM.block_spares (p : MM) (e j k : Nat) (held : Option (List (Fmt × Tile))) (w : Work) (hm : μ.AllowsWorkTake)
    : Spares μ σ w.s (p.block e j k held w).1.s := by
  refine .of ?_
  unfold MM.block
  split <;> simp [hm]

@[simp] theorem MM.loadC_spares (p : MM) (o : Opnd) (i j n : Nat) (x : ChainAcc) (u t : Nat) (w : Work)
    (hm : μ.AllowsWorkTake) : Spares μ σ w.s (p.loadC o i j n x u t w).1.s := by
  induction u generalizing σ x t w with
  | zero => exact .of <| by simp [MM.loadC]
  | succ u ih =>
    refine .of ?_
    unfold MM.loadC
    split
    next e => exact Work.take_kept (μ := μ) (by simp [hm]) e
    next e =>
      have h := Work.take_kept (μ := μ) (by simp [hm]) e
      simp [ih, h]

@[simp] theorem MM.voidBlock_spares (p : MM) (e epoch i j m n : Nat) (w : Work) (hm : μ.AllowsWorkStore) :
    Spares μ σ w.s (p.voidBlock e epoch i j m n w).s := .of <| by simp [MM.voidBlock, hm]

@[simp] theorem MM.overflow_spares (p : MM) (e epoch i j : Nat) (x : ChainAcc) (w : Work) (hm : μ.AllowsWorkStore) :
    Spares μ σ w.s (p.overflow e epoch i j x w).s := .of <| by simp [MM.overflow, hm]

@[simp] theorem MM.drainOne_spares (p : MM) (e epoch i j : Nat) (x : ChainAcc) (t : Nat) (w : Work) (hm : μ.AllowsWorkStore) :
    Spares μ σ w.s (p.drainOne e epoch i j x t w).s := .of <| by simp [MM.drainOne, hm]

@[simp] theorem MM.drain_spares (p : MM) (epoch i j e : Nat) (x : ChainAcc) (w : Work) (hm : μ.AllowsWorkStore) :
    Spares μ σ w.s (p.drain epoch i j e x w).s := .of <| by simp [MM.drain, hm]

@[simp] theorem ChainAcc.note_spares (x : ChainAcc) (n e : Nat) (s : State) (hm : μ .regs = false) :
    Spares μ σ s (x.note n e s) := .of <| by simp [ChainAcc.note, hm]

@[simp] theorem MM.lowerSlot_spares (p : MM) (i k : Nat) (w : Work) (hm : μ.AllowsWorkTake) :
    Spares μ σ w.s (p.lowerSlot i k w).s := by
  refine .of ?_
  unfold MM.lowerSlot
  split
  · simp
  · dsimp only
    split
    next e =>
      have h : Kept μ w.s _ := Work.take_kept (μ := μ) (by simp [hm]) (w := { w with fail := none }) e
      split <;> simp [h]
    next e => exact Work.take_kept (μ := μ) (by simp [hm]) (w := { w with fail := none }) e

@[simp] theorem MM.chainStep_spares (p : MM) (e epoch i j k : Nat) (held : Option (List (Fmt × Tile))) (x : Option ChainAcc)
    (w : Work) (hm : μ.AllowsWorkStore) : Spares μ σ w.s (p.chainStep e epoch i j k held x w).1.s := by
  refine .of ?_
  unfold MM.chainStep
  dsimp only
  split
  · simp [hm]
  · split
    · simp [hm]
    · split
      next w2 e =>
        have h2 : Kept μ w.s w2.s := .trans (by simp [hm]) (Work.take_kept (μ := μ) (by simp [hm]) e)
        simp [h2, hm]
      next w2 fa ta e =>
        have h2 : Kept μ w.s w2.s := .trans (by simp [hm]) (Work.take_kept (μ := μ) (by simp [hm]) e)
        split
        · simp [h2, hm]
        · rcases x with _ | x
          · rcases p.c with _ | o
            all_goals dsimp only
            all_goals (repeat' split) <;> simp [h2, hm]
          · dsimp only
            (repeat' split) <;> simp [h2, hm]

@[simp] theorem MM.keep_spares (p : MM) (e i j k : Nat) (x : Option ChainAcc) (w : Work) (hm : μ .cores = false) :
    Spares μ σ w.s (p.keep e i j k x w).s := by
  refine .of ?_
  unfold MM.keep
  (repeat' split) <;> simp [hm]

@[simp] theorem MM.chainFrom_spares (p : MM) (epoch i j e u k : Nat) (x : Option ChainAcc) (w : Work) (hm : μ.AllowsWorkStore)
    : Spares μ σ w.s (p.chainFrom epoch i j e u k x w).s := by
  induction u generalizing σ e k x w with
  | zero => exact .of <| by cases x <;> simp [MM.chainFrom, hm]
  | succ u ih => exact .of <| by simp [MM.chainFrom, ih, hm]

@[simp] theorem MM.run_spares (p : MM) (epoch : Nat) (w : Work) (hm : μ.AllowsWorkStore) : Spares μ σ w.s (p.run epoch w).s :=
  .of <| by simp [MM.run, hm]

@[simp] theorem MM.noWindow_spares (p : MM) (epoch : Nat) (w : Work) (hm : μ.AllowsWorkStore) :
    Spares μ σ w.s (p.noWindow epoch w).s := .of <| by simp [MM.noWindow, hm]

@[simp] theorem Work.within_spares (w : Work) (slot seg : Nat) (g : Seg) (last : Nat) :
    Spares μ σ w.s (w.within slot seg g last).s := .of <| by simp [Work.within]

@[simp] theorem Work.peeks_spares (w : Work) (o : Opnd) (l : List Nat) (hm : μ.AllowsWorkLoadNow) :
    Spares μ σ w.s (w.peeks o l).1.s := by
  induction l generalizing σ w with
  | nil => exact .of <| by simp [Work.peeks]
  | cons i l ih => exact .of <| by simp [Work.peeks, ih, hm]

@[simp] theorem Work.anchorRef_spares (w : Work) (a : AWord) (hm : μ.AllowsResolveDesc) :
    Spares μ σ w.s (w.anchorRef a).1.s := by
  refine .of ?_
  unfold Work.anchorRef
  split <;> simp [hm]

@[simp] theorem Work.scannedAnchor_spares (w : Work) (r : Bref) (g : Seg) (hm : μ.AllowsWorkBytes) :
    Spares μ σ w.s (w.scannedAnchor r g).1.s := .of <| by simp [Work.scannedAnchor, hm]

@[simp] theorem matmulWork_spares (c : CmdRef) (p : MatmulP) (acc : Option Tref) (e : Cmd) (s : State) (hm : μ.AllowsCopyWork)
    : Spares μ σ s (matmulWork c p acc e s).s := by
  refine .of ?_
  unfold matmulWork
  extract_lets mt kt nt tpb aStr d0 dn onA onC
  split
  next w1 ga e1 =>
  have h1 : Kept μ s w1.s := .of_fst (by simp [hm]) e1
  split
  next w2 gb e2 =>
  have h2 : Kept μ s w2.s := .of_fst (by simp [h1, hm]) e2
  split
  next w3 gc e3 =>
  have h3 : Kept μ s w3.s := .of_fst (by split <;> simp [h2, hm]) e3
  split
  next w4 gd e4 =>
  have h4 : Kept μ s w4.s := .of_fst (by simp [h3, hm]) e4
  split
  next w5 gw e5 =>
  have h5 : Kept μ s w5.s := .of_fst (by simp [h4, hm]) e5
  extract_lets w6 oa ob
  have h6 : Kept μ s w6.s := by simp [w6, h5]
  split
  next w7 rowHs e7 =>
  have h7 : Kept μ s w7.s := .of_fst (by simp [h6, hm]) e7
  split
  next w8 colHs e8 =>
  have h8 : Kept μ s w8.s := .of_fst (by simp [h7, hm]) e8
  split
  next w9 hb e9 =>
  have h9 : Kept μ s w9.s := .of_fst (by simp [h8, hm]) e9
  extract_lets bpb bStr fa ms ks fp32 onB mm wt maxStep w10
  have h10 : Kept μ s w10.s := by simp [w10, h9]
  split
  · exact h10
  · split
    · simp [h10]
    · split
      · simp [h10]
      · split
        next w11 raw e11 =>
        have h11 : Kept μ s w11.s := .of_fst (by split <;> simp [h10, hm]) e11
        split
        · exact h11
        · split <;> simp [h11, hm]

@[simp] theorem execMatmul_gives (c : CmdRef) (p : MatmulP) (s : State) (hm : μ.AllowsExecCopy) :
    Gives μ s (execMatmul c p s) := by simp [execMatmul, hm]

@[simp] theorem execMatmulAcc_gives (c : CmdRef) (p : MatmulAccP) (s : State) (hm : μ.AllowsExecCopy) :
    Gives μ s (execMatmulAcc c p s) := by simp [execMatmulAcc, hm]

@[simp] theorem Work.scanGrid_spares (w : Work) (slot : Nat) (r : Tref) (g : Seg) (tiles : List Nat) (hm : μ.AllowsWorkTake) :
    Spares μ σ w.s (w.scanGrid slot r g tiles).1.s := by
  refine .of ?_
  unfold Work.scanGrid
  split
  · simp [hm]
  · split
    · simp
    · refine Work.hear_kept _ _ fun w => ?_
      split <;> simp [hm]

@[simp] theorem scanWork_spares (c : CmdRef) (p : ScanP) (e : Cmd) (s : State) (hm : μ.AllowsCopyWork) :
    Spares μ σ s (scanWork c p e s).s := by
  refine .of ?_
  unfold scanWork
  split <;> simp [hm]

@[simp] theorem execAnchorScan_gives (c : CmdRef) (p : ScanP) (s : State) (hm : μ.AllowsExecCopy) :
    Gives μ s (execAnchorScan c p s) := by simp [execAnchorScan, hm]

/-! ### Sums of tiles and lanes (R284, R285) -/

@[simp] theorem Red.addFrom_spares (p : Red) (t : Nat) (f0 : Fmt) (t0 : Tile) (anchor : Int) (u i : Nat) (w : Work)
    (x : List (Acc × Bool) × Bool) (hm : μ.AllowsWorkTake) : Spares μ σ w.s (p.addFrom t f0 t0 anchor u i w x).1.s := by
  induction u generalizing σ i w x with
  | zero => exact .of <| by simp [Red.addFrom]
  | succ u ih =>
    refine .of ?_
    unfold Red.addFrom
    split
    next e => exact Work.take_kept (μ := μ) (by simp [hm]) e
    next e =>
      have h := Work.take_kept (μ := μ) (by simp [hm]) e
      (repeat' split) <;> simp [ih, h]

@[simp] theorem Red.tile_spares (p : Red) (e epoch : Nat) (scope : Int) (t : Nat) (w : Work) (hm : μ.AllowsWorkStore) :
    Spares μ σ w.s (p.tile e epoch scope t w).s := by
  refine .of ?_
  unfold Red.tile
  split
  next e =>
    have h := Work.take_kept (μ := μ) (by simp [hm]) e
    simp [h, hm]
  next w1 _ _ e =>
    have h : Kept μ w.s w1.s := Work.take_kept (μ := μ) (by simp [hm]) e
    extract_lets rows cols n anchor hdr open0 w2 start
    split
    · simp [h]
    · split
      · simp [h]
      · split
        next w3 _ _ e3 =>
        have h3 : Kept μ w.s w3.s := .of_fst (by simp [w2, h, hm]) e3
        split
        · simp [h3, hm]
        · extract_lets w4
          split <;> simp [w4, h3, hm]

@[simp] theorem Red.run_spares (p : Red) (epoch : Nat) (scope : Int) (w : Work) (hm : μ.AllowsWorkStore) :
    Spares μ σ w.s (p.run epoch scope w).s := .of <| by simp [Red.run, hm]

@[simp] theorem Red.noWindow_spares (p : Red) (epoch : Nat) (w : Work) (hm : μ.AllowsWorkStore) :
    Spares μ σ w.s (p.noWindow epoch w).s := .of <| by simp [Red.noWindow, hm]

@[simp] theorem Red.maxAll_spares (p : Red) (n : Nat) (w : Work) (hm : μ.AllowsWorkTake) :
    Spares μ σ w.s (p.maxAll n w).1.s := by
  induction n generalizing σ w with
  | zero => exact .of <| by simp [Red.maxAll]
  | succ n ih => exact .of <| by simp [Red.maxAll, ih, hm]

@[simp] theorem Red.under_spares (p : Red) (epoch : Nat) (raw : Int) (w : Work) (hm : μ.AllowsWorkStore) :
    Spares μ σ w.s (p.under epoch raw w).s := by
  refine .of ?_
  unfold Red.under
  split <;> simp [hm]

@[simp] theorem reduceWork_spares (c : CmdRef) (p : ReduceP) (e : Cmd) (s : State) (hm : μ.AllowsCopyWork) :
    Spares μ σ s (reduceWork c p e s).s := by
  refine .of ?_
  unfold reduceWork
  extract_lets n cnt first laps
  split
  next w1 gi e1 =>
  have h1 : Kept μ s w1.s := .of_fst (by simp [hm]) e1
  split
  next w2 gd e2 =>
  have h2 : Kept μ s w2.s := .of_fst (by simp [h1, hm]) e2
  split
  next w3 gw e3 =>
  have h3 : Kept μ s w3.s := .of_fst (by simp [h2, hm]) e3
  extract_lets red
  split
  next w4 hs e4 =>
  have h4 : Kept μ s w4.s := .of_fst (by simp [h3, hm]) e4
  extract_lets most w5 acc
  have h5 : Kept μ s w5.s := by simp [w5, h4]
  clear_value red acc laps w5
  split
  · exact h3
  · split
    · simp [h3]
    · split
      · exact h5
      · split
        · simp [h5, hm]
        · split
          next e6 =>
          have h6 : Kept μ s _ := .of_fst (by simp [h5, hm]) e6
          split <;> simp [h6, hm]
        · split
          · simp [h5, hm]
          · split
            next e6 =>
            have h6 : Kept μ s _ := .of_fst (by simp [h5, hm]) e6
            split <;> simp [h6, hm]

@[simp] theorem execReduce_gives (c : CmdRef) (p : ReduceP) (s : State) (hm : μ.AllowsExecCopy) :
    Gives μ s (execReduce c p s) := by simp [execReduce, hm]

@[simp] theorem Lanes.regs_spares (p : Lanes) (n e : Nat) (xs ys zs : List Nat) (s : State) (hm : μ .cores = false) :
    Spares μ σ s (p.regs n e xs ys zs s) := .of <| by simp [Lanes.regs, hm]

@[simp] theorem Lanes.other_spares (o : Option Opnd) (t rows cols : Nat) (w : Work) (hm : μ.AllowsWorkTake) :
    Spares μ σ w.s (Lanes.other o t rows cols w).1.s := by
  refine .of ?_
  unfold Lanes.other
  split
  · simp
  · split
    next e => exact Work.take_kept (μ := μ) (by simp [hm]) e
    next e =>
      have h := Work.take_kept (μ := μ) (by simp [hm]) e
      split <;> simp [h]

@[simp] theorem Lanes.vaccTile_spares (p : Lanes) (e epoch t : Nat) (x : Tile) (xs : List Nat) (w : Work)
    (hm : μ.AllowsWorkStore) : Spares μ σ w.s (p.vaccTile e epoch t x xs w).s := by
  refine .of ?_
  unfold Lanes.vaccTile
  dsimp only
  split
  next e => exact Work.take_kept (μ := μ) (by simp [hm]) e
  next e =>
    have h := Work.take_kept (μ := μ) (by simp [hm]) e
    (repeat' split) <;> simp [h, hm]

@[simp] theorem Lanes.tile_spares (p : Lanes) (e epoch t : Nat) (w : Work) (hm : μ.AllowsWorkStore) :
    Spares μ σ w.s (p.tile e epoch t w).s := by
  refine .of ?_
  unfold Lanes.tile
  split
  next e =>
    have h := Work.take_kept (μ := μ) (by simp [hm]) e
    simp [h, hm]
  next w1 _ _ e =>
    have h : Kept μ w.s w1.s := Work.take_kept (μ := μ) (by simp [hm]) e
    extract_lets rows cols n
    split
    next w2 _ e2 =>
    have h2 : Kept μ w.s w2.s := .of_fst (by simp [h, hm]) e2
    split
    next w3 _ e3 =>
    have h3 : Kept μ w.s w3.s := .of_fst (by simp [h2, hm]) e3
    (repeat' split) <;> simp [h3, hm]

@[simp] theorem Lanes.run_spares (p : Lanes) (epoch : Nat) (w : Work) (hm : μ.AllowsWorkStore) :
    Spares μ σ w.s (p.run epoch w).s := .of <| by simp [Lanes.run, hm]

@[simp] theorem elemWork_spares (c : CmdRef) (p : ElemP) (e : Cmd) (s : State) (hm : μ.AllowsCopyWork) :
    Spares μ σ s (elemWork c p e s).s := .of <| by simp [elemWork, hm]

@[simp] theorem execElementwise_gives (c : CmdRef) (p : ElemP) (s : State) (hm : μ.AllowsExecCopy) :
    Gives μ s (execElementwise c p s) := by simp [execElementwise, hm]

/-! ### Special functions and rows (R286 to R288) -/

/-- The mask names nothing that `setEccError` can change. -/
@[simp] abbrev Mask.AllowsSetEccError (μ : Mask) : Prop :=
  μ .regs = false ∧ μ .cores = false ∧ μ .faults = false ∧ μ .mgmt = false ∧ μ .out = false

@[simp] theorem setEccError_spares (n id : Nat) (s : State) (hm : μ.AllowsSetEccError) : Spares μ σ s (setEccError n id s) :=
  .of <| by simp [setEccError, hm]
@[simp] theorem Work.useSet_spares (w : Work) (id : Nat) (hm : μ.AllowsSetEccError) : Spares μ σ w.s (w.useSet id).s :=
  .of <| by simp [Work.useSet, hm]

@[simp] theorem FnOp.tile_spares (p : FnOp) (epoch t : Nat) (w : Work) (hm : μ.AllowsWorkStore) :
    Spares μ σ w.s (p.tile epoch t w).s := by
  refine .of ?_
  unfold FnOp.tile
  dsimp only
  split
  next w1 e => exact .trans (by simp [hm]) (Work.take_kept (μ := μ) (by simp [hm]) e)
  next w1 f x e =>
    have h1 : Kept μ w.s w1.s := .trans (by simp [hm]) (Work.take_kept (by simp [hm]) e)
    simp [h1, hm]

@[simp] theorem FnOp.run_spares (p : FnOp) (epoch : Nat) (w : Work) (hm : μ.AllowsWorkStore) :
    Spares μ σ w.s (p.run epoch w).s := .of <| by simp [FnOp.run, hm]

@[simp] theorem funcWork_spares (c : CmdRef) (p : FuncP) (fs : FSet) (e : Cmd) (s : State) (hm : μ.AllowsCopyWork) :
    Spares μ σ s (funcWork c p fs e s).s := .of <| by simp [funcWork, hm]

theorem withSet_kept (c : CmdRef) (id : Nat) (body : FSet → Cmd → State → State) (e : Cmd) (s : State)
    (hbody : ∀ x y s, Kept μ s (body x y s)) (hm : μ .cmds = false) : Kept μ s (withSet c id body e s) := by
  unfold withSet
  split <;> simp [Spares.of (hbody ..), hm]

@[simp] theorem withSet_spares (c : CmdRef) (id : Nat) (body : FSet → Cmd → State → State) (e : Cmd) (s : State)
    (hbody : ∀ x y s, Kept μ s (body x y s)) (hm : μ .cmds = false) : Spares μ σ s (withSet c id body e s) :=
  .of (withSet_kept c id body e s hbody hm)

@[simp] theorem execFunc_gives (c : CmdRef) (p : FuncP) (s : State) (hm : μ.AllowsExecCopy) : Gives μ s (execFunc c p s) :=
  (gives_next _ _).mpr <| runCmd_kept _ _ _ _ _
    (fun _ _ => withSet_kept _ _ _ _ _ (fun _ _ _ => by simp [hm]) (by simp [hm])) (by simp [hm])

@[simp] theorem Rows.takeRow_spares (p : Rows) (i u j : Nat) (w : Work) (hm : μ.AllowsWorkTake) :
    Spares μ σ w.s (p.takeRow i u j w).1.s := by
  induction u generalizing σ j w with
  | zero => exact .of <| by simp [Rows.takeRow]
  | succ u ih =>
    refine .of ?_
    unfold Rows.takeRow
    split
    next e => exact Work.take_kept (μ := μ) (by simp [hm]) e
    next e =>
      have h := Work.take_kept (μ := μ) (by simp [hm]) e
      simp [ih, h]

@[simp] theorem Rows.takeVec_spares (p : Rows) (o : Opnd) (l : List (Fmt × Tile)) (j : Nat) (w : Work) (hm : μ.AllowsWorkTake)
    : Spares μ σ w.s (p.takeVec o l j w).1.s := by
  induction l generalizing σ j w with
  | nil => exact .of <| by simp [Rows.takeVec]
  | cons x l ih =>
    refine .of ?_
    unfold Rows.takeVec
    split
    next e => exact Work.take_kept (μ := μ) (by simp [hm]) e
    next e =>
      have h := Work.take_kept (μ := μ) (by simp [hm]) e
      split <;> simp [ih, h]

@[simp] theorem noteRow_spares (n : Nat) (f : RowFlags) (invalid : Bool) (s : State) (hm : μ .regs = false) :
    Spares μ σ s (noteRow n f invalid s) := .of <| by simp [noteRow, hm]

@[simp] theorem Rows.write_spares (p : Rows) (epoch i rows row0 : Nat) (vals : List (List Val)) (trunc : Bool)
    (j at_ cols : Nat) (w : Work) (hm : μ.AllowsWorkStore) :
    Spares μ σ w.s (p.write epoch i rows row0 vals trunc j at_ cols w).s := .of <| by simp [Rows.write, hm]

@[simp] theorem Rows.sfu_spares (p : Rows) (f : RowFlags) (s : State) (core : Nat) (hm : μ .regs = false) :
    Spares μ σ s (p.sfu f s core) := by
  refine .of ?_
  unfold Rows.sfu
  split <;> simp [hm]

@[simp] theorem Rows.gridRow_spares (p : Rows) (epoch i row0 : Nat) (only : Option Nat) (w : Work) (hm : μ.AllowsWorkStore) :
    Spares μ σ w.s (p.gridRow epoch i row0 only w).1.s := by
  refine .of ?_
  unfold Rows.gridRow
  extract_lets w0 first
  have h0 : Kept μ w.s w0.s := by simp [w0, hm]
  split
  next w1 ts e1 =>
  have h1 : Kept μ w.s w1.s := .of_fst (by simp [h0, hm]) e1
  split
  · exact h1
  · split
    · simp [h1]
    · split
      next w2 gv e2 =>
      have h2 : Kept μ w.s w2.s := .of_fst (by split <;> simp [h1, hm]) e2
      split
      next w3 bv e3 =>
      have h3 : Kept μ w.s w3.s := .of_fst (by split <;> simp [h2, hm]) e3
      split
      · exact h3
      · extract_lets rows w4 dec res w5 fl trunc flags w6 outs js w7
        have h4 : Kept μ w.s w4.s := by simp [w4, h3, hm]
        have hsfu (s : State) : Kept μ s (res.foldl (fun s x => p.sfu x.2.1 (noteRow w.core x.2.1 x.2.2 s) w.core) s) :=
          foldl_kept _ (fun s x => by simp [hm]) _ _
        have h5 : Kept μ w.s w5.s := by simp [w5, hsfu, h4]
        simp [w7, w6, h5, hm]

@[simp] theorem Rows.runFrom_spares (p : Rows) (epoch u i row0 : Nat) (w : Work) (hm : μ.AllowsWorkStore) :
    Spares μ σ w.s (p.runFrom epoch u i row0 w).s := by
  induction u generalizing σ i row0 w with
  | zero => exact .of <| by simp [Rows.runFrom]
  | succ u ih => exact .of <| by simp [Rows.runFrom, ih, hm]

@[simp] theorem Rows.run_spares (p : Rows) (epoch : Nat) (w : Work) (hm : μ.AllowsWorkStore) :
    Spares μ σ w.s (p.run epoch w).s := .of <| by simp [Rows.run, hm]

@[simp] theorem rowWork_spares (c : CmdRef) (p : RowP) (kind : RowKind) (gb : Option Tref) (fs : FSet) (e : Cmd) (s : State)
    (hm : μ.AllowsCopyWork) : Spares μ σ s (rowWork c p kind gb fs e s).s := by
  refine .of ?_
  unfold rowWork
  extract_lets rt ct stat rms dn
  clear_value stat rms
  split
  · simp
  · split
    next w1 gx e1 =>
    have h1 : Kept μ s w1.s := .of_fst (by simp [hm]) e1
    split
    next w2 gg e2 =>
    have h2 : Kept μ s w2.s := .of_fst (by split <;> simp [h1, hm]) e2
    split
    next w3 _ e3 =>
    have h3 : Kept μ s w3.s := .of_fst (by split <;> simp [h2, hm]) e3
    split
    next w4 gd e4 =>
    have h4 : Kept μ s w4.s := .of_fst (by simp [h3, hm]) e4
    extract_lets rows
    split
    next w5 hs e5 =>
    have h5 : Kept μ s w5.s := .of_fst (by simp [h4, hm]) e5
    extract_lets most w6
    have h6 : Kept μ s w6.s := by simp [w6, h5]
    split <;> simp [h6, hm]

/-- The mask names nothing that `rowBody` can change. -/
@[simp] abbrev Mask.AllowsRowBody (μ : Mask) : Prop :=
  μ .mem = false ∧ μ .poison = false ∧ μ .cellar = false ∧ μ .cellarPoison = false ∧ μ .regs = false ∧ μ .cmds = false ∧
  μ .ctxs = false ∧ μ .staged = false ∧ μ .dpool = false ∧ μ .cores = false ∧ μ .partSets = false ∧ μ .stackDies = false ∧
  μ .fab = false ∧ μ .g0 = false ∧ μ .g1 = false ∧ μ .faults = false ∧ μ .mgmt = false ∧ μ .out = false

@[simp] theorem rowBody_spares (c : CmdRef) (p : RowP) (kind : RowKind) (gb : Option Tref) (fs : FSet) (e : Cmd) (s : State)
    (hm : μ.AllowsRowBody) : Spares μ σ s (rowBody c p kind gb fs e s) := .of <| by simp [rowBody, hm]

@[simp] theorem execSoftmax_gives (c : CmdRef) (p : RowP) (s : State) (hm : μ.AllowsExecCopy) : Gives μ s (execSoftmax c p s) :=
  (gives_next _ _).mpr <| runCmd_kept _ _ _ _ _
    (fun _ _ => withSet_kept _ _ _ _ _ (fun _ _ _ => by simp [hm]) (by simp [hm])) (by simp [hm])

@[simp] theorem execNorm_gives (c : CmdRef) (p : NormP) (s : State) (hm : μ.AllowsExecCopy) : Gives μ s (execNorm c p s) :=
  (gives_next _ _).mpr <| runCmd_kept _ _ _ _ _
    (fun _ _ => withSet_kept _ _ _ _ _ (fun _ _ _ => by simp [hm]) (by simp [hm])) (by simp [hm])

@[simp] theorem execRowstat_gives (c : CmdRef) (p : RowP) (stats : BitVec 8) (s : State) (hm : μ.AllowsExecCopy) :
    Gives μ s (execRowstat c p stats s) := by
  refine (gives_next _ _).mpr (runCmd_kept _ _ _ _ _ (fun e s => ?_) (by simp [hm]))
  split
  · simp [hm]
  · exact withSet_kept _ _ _ _ _ (fun _ _ _ => by simp [hm]) (by simp [hm])

@[simp] theorem addSet_spares (fs : FSet) (s : State) (n : Nat) (hm : μ .cores = false) : Spares μ σ s (addSet fs s n) :=
  .of <| by simp [addSet, hm]

/-- The mask names nothing that `setLoadWork` can change. -/
@[simp] abbrev Mask.AllowsSetLoadWork (μ : Mask) : Prop :=
  μ .regs = false ∧ μ .dpool = false ∧ μ .cores = false ∧ μ .fab = false ∧ μ .g0 = false ∧ μ .g1 = false ∧ μ .faults = false ∧
  μ .mgmt = false ∧ μ .out = false

@[simp] theorem setLoadWork_spares (c : CmdRef) (img : Bref) (bytes : BitVec 32) (e : Cmd) (s : State)
    (hm : μ.AllowsSetLoadWork) : Spares μ σ s (setLoadWork c img bytes e s).1.s := by
  refine .of ?_
  unfold setLoadWork
  dsimp only
  (repeat' split) <;> simp [hm]

@[simp] theorem giveSet_spares (c : CmdRef) (part : Nat) (fs : FSet) (s : State)
    (hm : μ .staged = false ∧ μ .cores = false ∧ μ .unswept = false) : Spares μ σ s (giveSet c part fs s) :=
  .of <| by simp [giveSet, hm]

@[simp] theorem setLoadBody_spares (c : CmdRef) (img : Bref) (bytes : BitVec 32) (e : Cmd) (s : State) :
    Spares .none σ s (setLoadBody c img bytes e s) := .of <| by simp [setLoadBody]

@[simp] theorem execMicroprogLoad_gives (c : CmdRef) (img : Bref) (bytes : BitVec 32) (s : State) :
    Gives .none s (execMicroprogLoad c img bytes s) := by simp [execMicroprogLoad]

/-- The mask names nothing that `setUnloadBody` can change. -/
@[simp] abbrev Mask.AllowsSetUnloadBody (μ : Mask) : Prop :=
  μ .regs = false ∧ μ .cmds = false ∧ μ .staged = false ∧ μ .cores = false ∧ μ .partSets = false ∧ μ .unswept = false

@[simp] theorem setUnloadBody_spares (c : CmdRef) (set : BitVec 32) (x : Cmd) (s : State) (hm : μ.AllowsSetUnloadBody) :
    Spares μ σ s (setUnloadBody c set x s) := .of <| by simp [setUnloadBody, hm]

/-- The mask names nothing that `execMicroprogUnload` can change. -/
@[simp] abbrev Mask.AllowsExecMicroprogUnload (μ : Mask) : Prop :=
  μ .regs = false ∧ μ .cmds = false ∧ μ .staged = false ∧ μ .walks = false ∧ μ .cores = false ∧ μ .partSets = false ∧
  μ .unswept = false

@[simp] theorem execMicroprogUnload_gives (c : CmdRef) (set : BitVec 32) (s : State) (hm : μ.AllowsExecMicroprogUnload) :
    Gives μ s (execMicroprogUnload c set s) := by simp [execMicroprogUnload, hm]

@[simp] theorem execSetLoadComplete_gives (core : BitVec 8) (s : State) (hm : μ .cores = false) :
    Gives μ s (execSetLoadComplete core s) := by simp [execSetLoadComplete, hm]

end

end Sys2Proof.Machine
end

section
/-! Administration commands spare what is to be left. -/

namespace Sys2Proof.Machine
open Sys2Proof

section
variable {μ : Mask} {σ : State}

/-! ### Banks of the boot store (R582) -/

@[simp] theorem setBank_spares (c : Component) (b : Nat) (x : Bank) (s : State) (hm : μ .mgmt = false) :
    Spares μ σ s (setBank c b x s) := .of <| by simp [setBank, hm]

@[simp] theorem setRun_spares (c : Component) (b : Nat) (s : State) (hm : μ .mgmt = false) : Spares μ σ s (setRun c b s) :=
  .of <| by simp [setRun, hm]
@[simp] theorem setFail_spares (b : Nat) (on : Bool) (s : State) (hm : μ .regs = false) : Spares μ σ s (setFail b on s) :=
  .of <| by simp [setFail, hm]
@[simp] theorem fwState_spares (st c bytes : Nat) (s : State) (hm : μ .regs = false) : Spares μ σ s (fwState st c bytes s) :=
  .of <| by simp [fwState, hm]
@[simp] theorem switched_spares (c : Component) (s : State) (hm : μ .regs = false ∧ μ .mgmt = false) :
    Spares μ σ s (switched c s) := .of <| by simp [switched, hm]
@[simp] theorem activationFails_spares (s : State) (hm : μ .regs = false ∧ μ .mgmt = false) :
    Spares μ σ s (activationFails s) := .of <| by simp [activationFails, hm]
@[simp] theorem activated_spares (c : Component) (s : State) (hm : μ .regs = false ∧ μ .mgmt = false) :
    Spares μ σ s (activated c s) := .of <| by simp [activated, hm]

@[simp] theorem loadReeve_spares (d : Nat) (s : State) (hm : μ .regs = false ∧ μ .mgmt = false) :
    Spares μ σ s (loadReeve d s) := by
  refine .of ?_
  unfold loadReeve
  split <;> simp [hm]

@[simp] theorem reloadReeves_spares (s : State) (hm : μ .regs = false ∧ μ .mgmt = false) : Spares μ σ s (reloadReeves s) := by
  refine .of ?_
  unfold reloadReeves
  dsimp only
  (repeat' split) <;> simp [hm]

@[simp] theorem stickBack_spares (b : Nat) (s : State) (hm : μ .regs = false ∧ μ .mgmt = false) :
    Spares μ σ s (stickBack b s) := by
  refine .of ?_
  unfold stickBack
  split <;> simp [hm]

/-! ### Coherent accesses of the module (R235, R434) -/

@[simp] theorem patchFlight_spares (a : Nat) (bs : List Byte) (s : State) (hm : μ .hc = false) :
    Spares μ σ s (patchFlight a bs s) := .of <| by simp [patchFlight, hm]

@[simp] theorem cohWrite_spares (a : Nat) (bs : List Byte) (s : State)
    (hm : μ .mem = false ∧ μ .poison = false ∧ μ .stackDies = false ∧ μ .hc = false) : Spares μ σ s (cohWrite a bs s) :=
  .of <| by simp [cohWrite, hm]

/-! ### The ladder's books (R558, R559) -/

@[simp] theorem setReason_spares (b : Nat) (s : State)
    (hm : μ .regs = false ∧ μ .faults = false ∧ μ .mgmt = false ∧ μ .out = false) : Spares μ σ s (setReason b s) :=
  .of <| by simp [setReason, hm]

@[simp] theorem beginRung_spares (r t : Nat) (counts esc : Bool) (s : State)
    (hm : μ .regs = false ∧ μ .faults = false ∧ μ .mgmt = false ∧ μ .out = false) : Spares μ σ s (beginRung r t counts esc s) :=
  .of <| by simp [beginRung, hm]

@[simp] theorem endRung_spares (r t : Nat) (s : State) (hm : μ .regs = false ∧ μ .faults = false) :
    Spares μ σ s (endRung r t s) := .of <| by simp [endRung, hm]
@[simp] theorem abandonRung_spares (r t : Nat) (s : State) (hm : μ .regs = false ∧ μ .faults = false) :
    Spares μ σ s (abandonRung r t s) := .of <| by simp [abandonRung, hm]
@[simp] theorem settleAborts_spares (s : State) (hm : μ .regs = false ∧ μ .ctxs = false ∧ μ .faults = false) :
    Spares μ σ s (settleAborts s) := .of <| by simp [settleAborts, hm]
@[simp] theorem dropSpills_spares (p : Nat → Bool) (s : State) (hm : μ .cores = false) : Spares μ σ s (dropSpills p s) :=
  .of <| by simp [dropSpills, hm]

/-! ### Contexts, segments and partitions (R295 to R299, R333 to R342) -/

/-- The mask names nothing that `createBody` can change. -/
@[simp] abbrev Mask.AllowsCreateBody (μ : Mask) : Prop :=
  μ .mem = false ∧ μ .poison = false ∧ μ .cmds = false ∧ μ .ctxs = false ∧ μ .stackDies = false

@[simp] theorem createBody_spares (c : CmdRef) (p : Nat) (carry : Bool) (tab : Nat) (s : State) (hm : μ.AllowsCreateBody) :
    Spares μ σ s (createBody c p carry tab s) := by
  refine .of ?_
  unfold createBody
  dsimp only
  repeat' split
  all_goals simp [-List.reduceReplicate, hm]

/-- The mask names nothing that `execCtxCreate` can change. -/
@[simp] abbrev Mask.AllowsExecCtxCreate (μ : Mask) : Prop :=
  μ .mem = false ∧ μ .poison = false ∧ μ .cmds = false ∧ μ .ctxs = false ∧ μ .walks = false ∧ μ .stackDies = false

@[simp] theorem execCtxCreate_gives (c : CmdRef) (part : BitVec 8) (carry : Bool) (segTable : BitVec 64) (s : State)
    (hm : μ.AllowsExecCtxCreate) : Gives μ s (execCtxCreate c part carry segTable s) := by simp [execCtxCreate, hm]

@[simp] theorem dropDescs_spares (lo hi : Nat) (s : State) (hm : μ .dpool = false ∧ μ .walks = false ∧ μ .cores = false) :
    Spares μ σ s (dropDescs lo hi s) := .of <| by simp [dropDescs, hm]
@[simp] theorem evictCtx_spares (x : Nat) (s : State) (hm : μ .cores = false) : Spares μ σ s (evictCtx x s) :=
  .of <| by simp [evictCtx, hm]

@[simp] theorem unpinAll_spares (x : Nat) (s : State) (hm : μ .progs = false) : Spares μ σ s (unpinAll x s) := by
  refine .of ?_
  unfold unpinAll
  refine foldl_kept _ (fun s x => ?_) _ _
  (repeat' split) <;> simp [hm]

@[simp] theorem startUnload_spares (h : Nat) (c : CmdRef) (s : State) (hm : μ.AllowsFinishUnload) :
    Spares μ σ s (startUnload h c s) := .of <| by simp [startUnload, hm]

@[simp] theorem tearDown_spares (c : CmdRef) (full : Bool) (s : State) : Spares .none σ s (tearDown c full s) :=
  .of <| by simp [tearDown]

@[simp] theorem destroyBody_spares (c : CmdRef) (full : Bool) (s : State) : Spares .none σ s (destroyBody c full s) :=
  .of <| by simp [destroyBody]

@[simp] theorem execCtxDestroy_gives (c : CmdRef) (s : State) : Gives .none s (execCtxDestroy c s) := by simp [execCtxDestroy]

@[simp] theorem execCtxDestroyAbortOnly_gives (c : CmdRef) (s : State) : Gives .none s (execCtxDestroyAbortOnly c s) :=
  by simp [execCtxDestroyAbortOnly]

@[simp] theorem awaitDescs_spares (c : CmdRef) (lo hi : Nat) (s : State) (hm : μ.AllowsSetUnloadBody) :
    Spares μ σ s (awaitDescs c lo hi s) := .of <| by simp [awaitDescs, hm]

/-- The mask names nothing that `segSetBody` can change. -/
@[simp] abbrev Mask.AllowsSegSetBody (μ : Mask) : Prop :=
  μ .mem = false ∧ μ .poison = false ∧ μ .regs = false ∧ μ .cmds = false ∧ μ .staged = false ∧ μ .segs = false ∧
  μ .dpool = false ∧ μ .walks = false ∧ μ .cores = false ∧ μ .partSets = false ∧ μ .stackDies = false ∧ μ .unswept = false

@[simp] theorem segSetBody_spares (c : CmdRef) (seg d : Nat) (s : State) (hm : μ.AllowsSegSetBody) :
    Spares μ σ s (segSetBody c seg d s) := by
  refine .of ?_
  unfold segSetBody
  dsimp only
  (repeat' split) <;> simp [hm]

@[simp] theorem execSegSet_gives (c : CmdRef) (seg : BitVec 8) (desc : BitVec 256) (s : State) (hm : μ.AllowsSegSetBody) :
    Gives μ s (execSegSet c seg desc s) := by simp [execSegSet, hm]

/-- The mask names nothing that `execSegInvalidate` can change. -/
@[simp] abbrev Mask.AllowsExecSegInvalidate (μ : Mask) : Prop :=
  μ .regs = false ∧ μ .cmds = false ∧ μ .staged = false ∧ μ .dpool = false ∧ μ .walks = false ∧ μ .cores = false ∧
  μ .partSets = false ∧ μ .unswept = false

@[simp] theorem execSegInvalidate_gives (c : CmdRef) (wholePart : Option (BitVec 8)) (s : State)
    (hm : μ.AllowsExecSegInvalidate) : Gives μ s (execSegInvalidate c wholePart s) := by simp [execSegInvalidate, hm]

@[simp] theorem stage_spares (target : Nat) (i : Staged) (c : CmdRef) (s : State)
    (hm : μ .staged = false ∧ μ .unswept = false) : Spares μ σ s (stage target i c s) := .of <| by simp [stage, hm]

@[simp] theorem allotBody_spares (c : CmdRef) (p : AllotP) (s : State)
    (hm : μ .ctxs = false ∧ μ .staged = false ∧ μ .unswept = false) : Spares μ σ s (allotBody c p s) :=
  .of <| by simp [allotBody, hm]
/-- The mask names nothing that `execAllotSet` can change. -/
@[simp] abbrev Mask.AllowsExecAllotSet (μ : Mask) : Prop :=
  μ .cmds = false ∧ μ .ctxs = false ∧ μ .staged = false ∧ μ .walks = false ∧ μ .unswept = false

@[simp] theorem execAllotSet_gives (c : CmdRef) (p : AllotP) (s : State) (hm : μ.AllowsExecAllotSet) :
    Gives μ s (execAllotSet c p s) := by simp [execAllotSet, hm]

@[simp] theorem execPartSetCores_gives (c : CmdRef) (part : BitVec 8) (map : BitVec 256) (s : State)
    (hm : μ .cmds = false ∧ μ .staged = false ∧ μ .walks = false ∧ μ .unswept = false) :
    Gives μ s (execPartSetCores c part map s) := by simp [execPartSetCores, hm]

@[simp] theorem execPartSetCaps_gives (c : CmdRef) (part : BitVec 8) (engine stack fabric host : BitVec 32)
    (priority : BitVec 8) (s : State) (hm : μ .cmds = false ∧ μ .staged = false ∧ μ .walks = false ∧ μ .unswept = false) :
    Gives μ s (execPartSetCaps c part engine stack fabric host priority s) := by simp [execPartSetCaps, hm]

@[simp] theorem execPartSetKey_gives (c : CmdRef) (part : BitVec 8) (stack ddr : Bool) (slot : BitVec 8) (s : State)
    (hm : μ .cmds = false ∧ μ .parts = false ∧ μ .walks = false) : Gives μ s (execPartSetKey c part stack ddr slot s) :=
  by simp [execPartSetKey, hm]

@[simp] theorem execPartSetMode_gives (c : CmdRef) (part : BitVec 8) (strict : Bool) (s : State)
    (hm : μ .cmds = false ∧ μ .staged = false ∧ μ .walks = false ∧ μ .unswept = false) :
    Gives μ s (execPartSetMode c part strict s) := by simp [execPartSetMode, hm]

@[simp] theorem pendTimeouts_spares (p t t2 : Nat) (s : State) (hm : μ .regs = false) :
    Spares μ σ s (pendTimeouts p t t2 s) := .of <| by simp [pendTimeouts, hm]

/-- The mask names nothing that `execPartSetTimeouts` can change. -/
@[simp] abbrev Mask.AllowsExecPartSetTimeouts (μ : Mask) : Prop :=
  μ .regs = false ∧ μ .cmds = false ∧ μ .staged = false ∧ μ .walks = false ∧ μ .unswept = false

@[simp] theorem execPartSetTimeouts_gives (c : CmdRef) (part : BitVec 8) (tmo tmo2 : BitVec 64) (s : State)
    (hm : μ.AllowsExecPartSetTimeouts) : Gives μ s (execPartSetTimeouts c part tmo tmo2 s) := by simp [execPartSetTimeouts, hm]

@[simp] theorem execPartSetVectors_gives (c : CmdRef) (part : BitVec 8) (base count : BitVec 16) (kind : BitVec 8) (s : State)
    (hm : μ .cmds = false ∧ μ .staged = false ∧ μ .walks = false ∧ μ .unswept = false) :
    Gives μ s (execPartSetVectors c part base count kind s) := by simp [execPartSetVectors, hm]

@[simp] theorem execPartSetVolumes_gives (c : CmdRef) (part : BitVec 8) (map : BitVec 256) (s : State)
    (hm : μ .cmds = false ∧ μ .staged = false ∧ μ .walks = false ∧ μ .unswept = false) :
    Gives μ s (execPartSetVolumes c part map s) := by simp [execPartSetVolumes, hm]

@[simp] theorem stageTallies_spares (p : Nat) (i : Staged) (f : Option Fail) (c : CmdRef) (s : State)
    (hm : μ .staged = false ∧ μ .unswept = false) : Spares μ σ s (stageTallies p i f c s) := .of <| by simp [stageTallies, hm]

@[simp] theorem execPartSetTalliesGrant_gives (c : CmdRef) (part die : BitVec 8) (first count : BitVec 16) (s : State)
    (hm : μ .cmds = false ∧ μ .staged = false ∧ μ .walks = false ∧ μ .unswept = false) :
    Gives μ s (execPartSetTalliesGrant c part die first count s) := by simp [execPartSetTalliesGrant, hm]

@[simp] theorem execPartSetTalliesRevoke_gives (c : CmdRef) (part die : BitVec 8) (first count : BitVec 16) (s : State)
    (hm : μ .cmds = false ∧ μ .staged = false ∧ μ .walks = false ∧ μ .unswept = false) :
    Gives μ s (execPartSetTalliesRevoke c part die first count s) := by simp [execPartSetTalliesRevoke, hm]

end

end Sys2Proof.Machine
end

section
/-! The coherence domain spares what is to be left. -/

namespace Sys2Proof.Machine
open Sys2Proof

section
variable {μ : Mask} {σ : State}

/-! ### Homes, snoops and transactions (R444 to R463) -/

@[simp] theorem setPline_spares (a l : Nat) (v : PLine) (s : State) (hm : μ .hc = false) : Spares μ σ s (setPline a l v s) :=
  .of <| by simp [setPline, hm]
@[simp] theorem dropLine_spares (a l : Nat) (s : State) (hm : μ .hc = false) : Spares μ σ s (dropLine a l s) :=
  .of <| by simp [dropLine, hm]
@[simp] theorem putLine_spares (l d : Nat) (s : State) (hm : μ .mem = false ∧ μ .poison = false ∧ μ .stackDies = false) :
    Spares μ σ s (putLine l d s) := .of <| by simp [putLine, hm]
@[simp] theorem setL3_spares (l : Nat) (v : Option L3Line) (s : State) (hm : μ .hc = false) : Spares μ σ s (setL3 l v s) :=
  .of <| by simp [setL3, hm]

@[simp] theorem l3Evict_spares (l : Nat) (s : State)
    (hm : μ .mem = false ∧ μ .poison = false ∧ μ .stackDies = false ∧ μ .hc = false) : Spares μ σ s (l3Evict l s) := by
  refine .of ?_
  unfold l3Evict
  split <;> simp [hm]

@[simp] theorem l3Alloc_spares (cls l d : Nat) (dirty : Bool) (s : State)
    (hm : μ .mem = false ∧ μ .poison = false ∧ μ .stackDies = false ∧ μ .hc = false) : Spares μ σ s (l3Alloc cls l d dirty s) :=
  by
  refine .of ?_
  unfold l3Alloc
  dsimp only
  (repeat' split) <;> simp [hm]

@[simp] theorem setBusy_spares (b : Busy) (s : State) (hm : μ .hc = false) : Spares μ σ s (setBusy b s) :=
  .of <| by simp [setBusy, hm]
@[simp] theorem freeLine_spares (l : Nat) (s : State) (hm : μ .hc = false) : Spares μ σ s (freeLine l s) :=
  .of <| by simp [freeLine, hm]

@[simp] theorem takeBack_spares (l a : Nat) (s : State)
    (hm : μ .mem = false ∧ μ .poison = false ∧ μ .stackDies = false ∧ μ .hc = false) : Spares μ σ s (takeBack l a s) := by
  refine .of ?_
  unfold takeBack
  dsimp only
  split <;> simp [hm]

/-- The mask names nothing that `dirEnsure` can change. -/
@[simp] abbrev Mask.AllowsDirEnsure (μ : Mask) : Prop :=
  μ .mem = false ∧ μ .poison = false ∧ μ .regs = false ∧ μ .stackDies = false ∧ μ .hc = false

theorem dirEnsure_kept {l : Nat} {s t : State} (e : dirEnsure l s = some t) (hm : μ.AllowsDirEnsure) : Kept μ s t := by
  unfold dirEnsure at e
  extract_lets here set none_ fresh at e
  have hfresh (s : State) : Kept μ s (fresh s) := by simp [fresh, hm]
  clear_value fresh
  split at e
  · cases e; simp [hm]
  · split at e
    · cases e; exact hfresh s
    · split at e
      · cases e
      · cases e; simp [Spares.of (hfresh ..), hm]

@[simp] theorem magpieUpdate_spares (agent l : Nat) (s : State) (hm : μ .hc = false) :
    Spares μ σ s (magpieUpdate agent l s) := .of <| by simp [magpieUpdate, hm]

@[simp] theorem result_spares (agent old : Nat) (sw : Bool) (s : State) (hm : μ .hc = false) :
    Spares μ σ s (result agent old sw s) := .of <| by simp [result, hm]

/-- The mask names nothing that `baseAtomic` can change. -/
@[simp] abbrev Mask.AllowsBaseAtomic (μ : Mask) : Prop :=
  μ .mem = false ∧ μ .poison = false ∧ μ .cellar = false ∧ μ .cellarPoison = false ∧ μ .regs = false ∧ μ .stackDies = false ∧
  μ .hc = false ∧ μ .fab = false ∧ μ .g0 = false ∧ μ .g1 = false ∧ μ .out = false

@[simp] theorem baseAtomic_spares (agent addr : Nat) (r : AtomicReq) (s : State) (hm : μ.AllowsBaseAtomic) :
    Spares μ σ s (baseAtomic agent addr r s) := .of <| by simp [baseAtomic, hm]

@[simp] theorem execBaseDieAtomic_gives (addr : BitVec 48) (req : AtomicReq) (s : State) (hm : μ.AllowsBaseAtomic) :
    Gives μ s (execBaseDieAtomic addr req s) := by
  unfold execBaseDieAtomic
  dsimp only
  (repeat' split) <;> simp [hm]

@[simp] theorem noteHome_spares (b : Busy) (s : State) (hm : μ .regs = false) : Spares μ σ s (noteHome b s) :=
  .of <| by simp [noteHome, hm]

@[simp] theorem touchL3_spares (b : Busy) (s : State) (hm : μ .hc = false) : Spares μ σ s (touchL3 b s) := by
  refine .of ?_
  unfold touchL3
  split <;> simp [hm]

@[simp] theorem addSnoop_spares (l a : Nat) (shared inval : Bool) (s : State) (hm : μ .hc = false) :
    Spares μ σ s (addSnoop l a shared inval s) := .of <| by simp [addSnoop, hm]

@[simp] theorem l3Clean_spares (k : ReqKind) (l : Nat) (s : State)
    (hm : μ .mem = false ∧ μ .poison = false ∧ μ .stackDies = false ∧ μ .hc = false) : Spares μ σ s (l3Clean k l s) := by
  refine .of ?_
  unfold l3Clean
  split <;> simp [hm]

@[simp] theorem ownCopy_spares (k : ReqKind) (a l : Nat) (s : State)
    (hm : μ .mem = false ∧ μ .poison = false ∧ μ .stackDies = false ∧ μ .hc = false) : Spares μ σ s (ownCopy k a l s) := by
  refine .of ?_
  unfold ownCopy
  dsimp only
  (repeat' split) <;> simp [hm]

@[simp] theorem grantDir_spares (b : Busy) (s : State) (hm : μ .hc = false) : Spares μ σ s (grantDir b s) :=
  .of <| by simp [grantDir, hm]

@[simp] theorem nearAtomic_spares (b : Busy) (r : AtomicReq) (addr : Nat) (s : State) (hm : μ.AllowsBaseAtomic) :
    Spares μ σ s (nearAtomic b r addr s) := by
  refine .of ?_
  unfold nearAtomic
  dsimp only
  (repeat' split) <;> simp [hm]

@[simp] theorem settled_spares (addr : Nat) (b : Busy) (s : State) (hm : μ.AllowsBaseAtomic) :
    Spares μ σ s (settled addr b s) := by
  refine .of ?_
  unfold settled
  split <;> simp [hm]

@[simp] theorem answerWb_spares (a l code : Nat) (s : State) (hm : μ .hc = false) : Spares μ σ s (answerWb a l code s) :=
  .of <| by simp [answerWb, hm]
@[simp] theorem takeUp_spares (a l : Nat) (w : WbLine) (s : State) (hm : μ.AllowsDirEnsure) : Spares μ σ s (takeUp a l w s) :=
  .of <| by simp [takeUp, hm]

theorem accept_kept {agent addr : Nat} {k : ReqKind} {s0 : State} {t : State} (e : accept agent addr k s0 = some t)
    (hm : μ.AllowsBaseAtomic) : Kept μ s0 t := by
  unfold accept at e
  extract_lets l s s2 near needs own start mark at e
  have hs : Kept μ s0 s := by
    unfold s
    split <;> simp [hm]
  have hs1 : Kept μ s0 s2 := by simp [s2, hs, hm]
  have hstart (s : State) : Kept μ s (start s) := by
    unfold start
    extract_lets d others owner supplier ownD b go s1
    have hclean : Kept μ s s1 := by simp [s1, hm]
    have hgo (a b c : List Nat) (s : State) : Kept μ s (go a b c s) := by
      simp [go, hm]
    clear_value supplier owner
    (repeat' split) <;> simp [Spares.of (hgo ..), hclean, hm]
  have hmark (t : State) : Kept μ t (mark t) := by simp [mark, hm]
  split at e
  · cases e
    split <;> simp [hs, hm]
  · split at e
    · obtain ⟨u, hu, rfl⟩ := Option.map_eq_some_iff.mp e
      simp [Spares.of (hstart ..), Spares.of (hmark ..), hs1, Spares.of (dirEnsure_kept (μ := μ) hu (by simp [hm]))]
    · split at e <;> cases e <;> simp [Spares.of (hstart ..), hs1, hm]

@[simp] theorem pumpList_spares (l : List (Nat × Nat × ReqKind)) (s : State) (hm : μ.AllowsBaseAtomic) :
    Spares μ σ s (pumpList l s) := by
  induction l generalizing σ s with
  | nil => exact .refl _
  | cons a l ih =>
    refine .of ?_
    unfold pumpList
    refine .trans ?_ (ih _).kept
    split
    · split
      next e => simp [Spares.of (accept_kept (μ := μ) e (by simp [hm])), hm]
      · rfl
    · rfl

@[simp] theorem pump_spares (s : State) (hm : μ.AllowsBaseAtomic) : Spares μ σ s (pump s) := .of <| by simp [pump, hm]

@[simp] theorem request_spares (a addr : Nat) (k : ReqKind) (s : State) (hm : μ.AllowsBaseAtomic) :
    Spares μ σ s (request a addr k s) := by
  refine .of ?_
  unfold request
  dsimp only
  rcases h : accept a addr k s with _ | t
  · (repeat' split) <;> simp [hm]
  · (repeat' split) <;> simp [Spares.of (accept_kept (μ := μ) h (by simp [hm])), hm]

@[simp] theorem touchWay_spares (a l w : Nat) (s : State) (hm : μ .hc = false) : Spares μ σ s (touchWay a l w s) :=
  .of <| by simp [touchWay, hm]
@[simp] theorem toBuffer_spares (a l : Nat) (s : State) (hm : μ .hc = false) : Spares μ σ s (toBuffer a l s) :=
  .of <| by simp [toBuffer, hm]

theorem wayFor_kept {a l : Nat} {s : State} {r : State × Nat} (e : wayFor a l s = some r) (hm : μ .hc = false) : Kept μ s r.1 :=
  by
  unfold wayFor at e
  dsimp only at e
  split at e
  · cases e; simp
  · split at e
    · cases e; simp
    · cases e; simp
    · split at e
      · split at e <;> cases e
        simp [hm]
      · cases e; simp

@[simp] theorem hitLine_spares (a l : Nat) (s : State) (hm : μ .regs = false ∧ μ .hc = false) :
    Spares μ σ s (hitLine a l s) := .of <| by simp [hitLine, hm]

@[simp] theorem missLine_spares (a addr : Nat) (k : ReqKind) (s : State) (hm : μ.AllowsBaseAtomic) :
    Spares μ σ s (missLine a addr k s) := .of <| by simp [missLine, hm]

/-- The mask names nothing that `failCurrent` can change. -/
@[simp] abbrev Mask.AllowsFailCurrent (μ : Mask) : Prop :=
  μ .regs = false ∧ μ .cmds = false ∧ μ .ctxs = false ∧ μ .staged = false ∧ μ .segs = false ∧ μ .walks = false ∧
  μ .tallies = false ∧ μ .waiters = false ∧ μ .cores = false ∧ μ .progs = false ∧ μ .partSets = false ∧ μ .fab = false ∧
  μ .out = false ∧ μ .unswept = false

@[simp] theorem failCurrent_spares (n : Nat) (f : Fail) (s : State) (hm : μ.AllowsFailCurrent) :
    Spares μ σ s (failCurrent n f s) := by
  refine .of ?_
  unfold failCurrent
  dsimp only
  (repeat' split) <;> simp [hm]

@[simp] theorem cacheError_spares (n l : Nat) (tag : Bool) (s0 : State) : Spares .none σ s0 (cacheError n l tag s0) :=
  .of <| by simp [cacheError]

@[simp] theorem checkLine_spares (a l : Nat) (s : State) : Spares .none σ s (checkLine a l s).1 := .of <| by simp [checkLine]

@[simp] theorem access_spares (a addr : Nat) (k : ReqKind) (s0 : State) : Spares .none σ s0 (access a addr k s0) := by
  refine .of ?_
  unfold access
  dsimp only
  (repeat' split) <;> simp

@[simp] theorem execReadShared_gives (agent : BitVec 9) (addr : BitVec 48) (s : State) :
    Gives .none s (execReadShared agent addr s) := by simp [execReadShared]

@[simp] theorem execReadUnique_gives (agent : BitVec 9) (addr : BitVec 48) (s : State) :
    Gives .none s (execReadUnique agent addr s) := by simp [execReadUnique]

@[simp] theorem execUpgrade_gives (agent : BitVec 9) (addr : BitVec 48) (s : State) :
    Gives .none s (execUpgrade agent addr s) := by simp [execUpgrade]

@[simp] theorem execZeroUnique_gives (agent : BitVec 9) (addr : BitVec 48) (s : State) :
    Gives .none s (execZeroUnique agent addr s) := by simp [execZeroUnique]

@[simp] theorem execAtomic_gives (agent : BitVec 9) (addr : BitVec 48) (req : AtomicReq) (s : State) (hm : μ.AllowsBaseAtomic) :
    Gives μ s (execAtomic agent addr req s) := by
  unfold execAtomic
  split <;> simp [hm]

@[simp] theorem execCleanReq_gives (agent : BitVec 9) (addr : BitVec 48) (s : State) (hm : μ.AllowsBaseAtomic) :
    Gives μ s (execCleanReq agent addr s) := by simp [execCleanReq, hm]

@[simp] theorem execFlushReq_gives (agent : BitVec 9) (addr : BitVec 48) (s : State) (hm : μ.AllowsBaseAtomic) :
    Gives μ s (execFlushReq agent addr s) := by simp [execFlushReq, hm]

@[simp] theorem execInvalReq_gives (agent : BitVec 9) (addr : BitVec 48) (s : State) (hm : μ.AllowsBaseAtomic) :
    Gives μ s (execInvalReq agent addr s) := by simp [execInvalReq, hm]

@[simp] theorem answerSnoop_spares (m : SnoopMsg) (clean : Bool) (s : State) (hm : μ .hc = false) :
    Spares μ σ s (answerSnoop m clean s) := by
  refine .of ?_
  unfold answerSnoop
  dsimp only
  (repeat' split) <;> simp [hm]

@[simp] theorem snoopRow_spares (holder addr : Nat) (ok : SnoopMsg → Bool) (s : State) (hm : μ .hc = false) :
    Spares μ σ s (snoopRow holder addr ok s) := by
  refine .of ?_
  unfold snoopRow
  dsimp only
  split <;> simp [hm]

@[simp] theorem execSnpShared_gives (holder : BitVec 9) (addr : BitVec 48) (s : State) (hm : μ .hc = false) :
    Gives μ s (execSnpShared holder addr s) := by simp [execSnpShared, hm]

@[simp] theorem execSnpUnique_gives (holder : BitVec 9) (addr : BitVec 48) (s : State) (hm : μ .hc = false) :
    Gives μ s (execSnpUnique holder addr s) := by simp [execSnpUnique, hm]

@[simp] theorem execSnpInval_gives (holder : BitVec 9) (addr : BitVec 48) (s : State) (hm : μ .hc = false) :
    Gives μ s (execSnpInval holder addr s) := by simp [execSnpInval, hm]

@[simp] theorem respDir_spares (m : SnoopMsg) (left : LState) (s : State) (hm : μ .hc = false) :
    Spares μ σ s (respDir m left s) := .of <| by simp [respDir, hm]

@[simp] theorem snpRespAt_spares (l addr : Nat) (m : SnoopMsg) (b : Busy) (x : Option Nat × Bool × LState) (s : State)
    (hm : μ.AllowsBaseAtomic) : Spares μ σ s (snpRespAt l addr m b x s) := .of <| by simp [snpRespAt, hm]

@[simp] theorem execSnpResp_gives (holder : BitVec 9) (addr : BitVec 48) (s : State) (hm : μ.AllowsBaseAtomic) :
    Gives μ s (execSnpResp holder addr s) := by
  unfold execSnpResp
  dsimp only
  (repeat' split) <;> simp [hm]

@[simp] theorem installLine_spares (b : Busy) (d : Nat) (s : State) : Spares .none σ s (installLine b d s) := by
  refine .of ?_
  unfold installLine
  split
  · simp
  next s1 w h =>
    have h1 : Kept .none s s1 := wayFor_kept h (by simp)
    split
    next st d1 s2 e =>
    have h2 : Kept .none s s2 := by
      split at e
      next r _ =>
        rcases lineAtomic b.addr r d with ⟨n, old, sw⟩
        rw [← (Prod.mk.inj (Prod.mk.inj e).2).2]
        simp [h1]
      · rw [← (Prod.mk.inj (Prod.mk.inj e).2).2]
        exact h1
    extract_lets s3 s4 s5
    have h4 : Kept .none s s4 := by simp [s4, s3, h2]
    split <;> simp [s5, h4]

@[simp] theorem execData_gives (agent : BitVec 9) (addr : BitVec 48) (s : State) : Gives .none s (execData agent addr s) := by
  unfold execData
  (repeat' split) <;> simp

@[simp] theorem execCompAck_gives (agent : BitVec 9) (addr : BitVec 48) (s : State) (hm : μ.AllowsBaseAtomic) :
    Gives μ s (execCompAck agent addr s) := by
  unfold execCompAck
  (repeat' split) <;> simp [hm]

@[simp] theorem execCacheMissFill_gives (core : BitVec 8) (s : State) : Gives .none s (execCacheMissFill core s) := by
  unfold execCacheMissFill
  dsimp only
  (repeat' split) <;> simp

@[simp] theorem execZeroLine_gives (core : BitVec 8) (addr : BitVec 48) (s : State) :
    Gives .none s (execZeroLine core addr s) := by
  unfold execZeroLine
  dsimp only
  split <;> simp

@[simp] theorem evictLine_spares (a l : Nat) (dirty : Bool) (s : State) (hm : μ .hc = false) :
    Spares μ σ s (evictLine a l dirty s) := .of <| by simp [evictLine, hm]

@[simp] theorem wbRow_spares (agent addr : Nat) (dirty : Bool) (s : State) (hm : μ.AllowsDirEnsure) :
    Spares μ σ s (wbRow agent addr dirty s) := by
  refine .of ?_
  unfold wbRow
  dsimp only
  (repeat' split) <;> simp [hm]

@[simp] theorem execWbDirty_gives (agent : BitVec 9) (addr : BitVec 48) (s : State) (hm : μ.AllowsDirEnsure) :
    Gives μ s (execWbDirty agent addr s) := by simp [execWbDirty, hm]

@[simp] theorem execWbClean_gives (agent : BitVec 9) (addr : BitVec 48) (s : State) (hm : μ.AllowsDirEnsure) :
    Gives μ s (execWbClean agent addr s) := by simp [execWbClean, hm]

@[simp] theorem execWbAck_gives (agent : BitVec 9) (addr : BitVec 48) (s : State) (hm : μ .hc = false) :
    Gives μ s (execWbAck agent addr s) := by
  unfold execWbAck
  dsimp only
  split <;> simp [hm]

@[simp] theorem flushCore_spares (direct : Bool) (n : Nat) (s : State)
    (hm : μ .mem = false ∧ μ .poison = false ∧ μ .stackDies = false ∧ μ .hc = false) : Spares μ σ s (flushCore direct n s) :=
  .of <| by simp [flushCore, hm]

@[simp] theorem execCacheFlush_gives (core : BitVec 8) (s : State)
    (hm : μ .mem = false ∧ μ .poison = false ∧ μ .stackDies = false ∧ μ .hc = false) : Gives μ s (execCacheFlush core s) :=
  by simp [execCacheFlush, hm]

@[simp] theorem ioLine_spares (cls l a : Nat) (bs : List Byte) (s : State) (hm : μ.AllowsDirEnsure) :
    Spares μ σ s (ioLine cls l a bs s) := .of <| by simp [ioLine, hm]

@[simp] theorem ioWrite_spares (cls a : Nat) (bs : List Byte) (s : State) (hm : μ.AllowsDirEnsure) :
    Spares μ σ s (ioWrite cls a bs s) := .of <| by simp [ioWrite, hm]

@[simp] theorem execKeepWrite_gives (w : Agent) (k : BitVec 3) (value : BitVec 64) (s : State) (hm : μ .regs = false) :
    Gives μ s (execKeepWrite w k value s) := by
  unfold execKeepWrite
  dsimp only
  (repeat' split) <;> simp [hm]

/-! ### Die links (Tables 17-1, 17-2) -/

@[simp] theorem fenceLink_spares (i : Nat) (s : State) (hm : μ .regs = false) : Spares μ σ s (fenceLink i s) :=
  .of <| by simp [fenceLink, hm]
@[simp] theorem raiseLink_spares (i : Nat) (s : State) : Spares .none σ s (raiseLink i s) := .of <| by simp [raiseLink]
@[simp] theorem returnLinks_spares (d : Nat) (s : State) : Spares .none σ s (returnLinks d s) := .of <| by simp [returnLinks]
@[simp] theorem trainLinks_spares (s : State) : Spares .none σ s (trainLinks s) := .of <| by simp [trainLinks]

@[simp] theorem trainStack_spares (k : Nat) (s : State) (hm : μ .regs = false) : Spares μ σ s (trainStack k s) := by
  refine .of ?_
  unfold trainStack
  dsimp only
  (repeat' split) <;> simp [hm]

@[simp] theorem trainPackage_spares (s : State) : Spares .none σ s (trainPackage s) := .of <| by simp [trainPackage]

end

end Sys2Proof.Machine
end

section
/-! Queues spare what is to be left. -/

namespace Sys2Proof.Machine
open Sys2Proof

section
variable {μ : Mask} {σ : State}

/-! ### Enabling, doorbells, fetching and completion records (chapter 08) -/

@[simp] theorem qResult_spares (q res : Nat) (s : State) (hm : μ .regs = false) : Spares μ σ s (qResult q res s) :=
  .of <| by simp [qResult, hm]
@[simp] theorem queueEnable_spares (q : Nat) (s : State) (hm : μ .regs = false ∧ μ .queues = false) :
    Spares μ σ s (queueEnable q s) := .of <| by simp [queueEnable, hm]
@[simp] theorem execQEnable_gives (queue : BitVec 16) (s : State) (hm : μ .regs = false ∧ μ .queues = false) :
    Gives μ s (execQEnable queue s) := by simp [execQEnable, hm]
@[simp] theorem queueDisable_spares (q : Nat) (s : State) (hm : μ .regs = false ∧ μ .queues = false) :
    Spares μ σ s (queueDisable q s) := .of <| by simp [queueDisable, hm]
@[simp] theorem execQDisable_gives (queue : BitVec 16) (s : State) (hm : μ .regs = false ∧ μ .queues = false) :
    Gives μ s (execQDisable queue s) := by simp [execQDisable, hm]

@[simp] theorem queueDisableAbort_spares (q : Nat) (s : State) : Spares .none σ s (queueDisableAbort q s) :=
  .of <| by simp [queueDisableAbort]

@[simp] theorem execQDisableAbort_gives (queue : BitVec 16) (s : State) : Gives .none s (execQDisableAbort queue s) :=
  by simp [execQDisableAbort]

/-- The mask names nothing that `queueStop` can change. -/
@[simp] abbrev Mask.AllowsQueueStop (μ : Mask) : Prop :=
  μ .regs = false ∧ μ .queues = false ∧ μ .hc = false ∧ μ .pA = false ∧ μ .pB = false ∧ μ .faults = false ∧ μ .mgmt = false ∧
  μ .out = false

@[simp] theorem queueStop_spares (q cause value first last : Nat) (s : State) (hm : μ.AllowsQueueStop) :
    Spares μ σ s (queueStop q cause value first last s) := .of <| by simp [queueStop, hm]

@[simp] theorem badDoorbell_spares (s : State) (hm : μ .regs = false) : Spares μ σ s (badDoorbell s) :=
  .of <| by simp [badDoorbell, hm]

@[simp] theorem failedDoorbell_spares (q cause value : Nat) (s : State) (hm : μ.AllowsQueueStop) :
    Spares μ σ s (failedDoorbell q cause value s) := .of <| by simp [failedDoorbell, hm]

@[simp] theorem doorbell_spares (q : Nat) (v : BitVec 64) (s : State) (hm : μ.AllowsQueueStop) :
    Spares μ σ s (doorbell q v s) := .of <| by simp [doorbell, hm]

@[simp] theorem execSqDoorbell_gives (queue : BitVec 16) (value : BitVec 64) (s : State) (hm : μ.AllowsQueueStop) :
    Gives μ s (execSqDoorbell queue value s) := by simp [execSqDoorbell, hm]

/-- The mask names nothing that `queueWrite` can change. -/
@[simp] abbrev Mask.AllowsQueueWrite (μ : Mask) : Prop :=
  μ .mem = false ∧ μ .poison = false ∧ μ .regs = false ∧ μ .stackDies = false ∧ μ .hc = false ∧ μ .pA = false ∧ μ .pB = false ∧
  μ .out = false

theorem queueWrite_kept {q target a kind tag : Nat} {bs : List Byte} {s t : State}
    (e : queueWrite q target a kind tag bs s = some t) (hm : μ.AllowsQueueWrite) : Kept μ s t := by
  unfold queueWrite at e
  split at e
  · split at e <;> cases e
    simp [hm]
  · cases e; simp [hm]

@[simp] theorem irqBehind_spares (q kind vector : Nat) (s : State) (hm : μ.AllowsRaiseIrq) :
    Spares μ σ s (irqBehind q kind vector s) := by
  refine .of ?_
  unfold irqBehind
  split <;> simp [hm]

@[simp] theorem completionIrq_spares (q : Nat) (s : State) (hm : μ.AllowsRaiseIrq) : Spares μ σ s (completionIrq q s) :=
  .of <| by simp [completionIrq, hm]

theorem writeBack_kept {q : Nat} {word : List Byte} {s : State} {t : State} (h : writeBack q word s = some t)
    (hm : μ.AllowsQueueWrite) : Kept μ s t := by
  unfold writeBack at h
  dsimp only at h
  split at h
  · split at h
    · exact (queueWrite_kept (μ := μ) h (by simp [hm]))
    · cases h; simp [hm]
  · exact (queueWrite_kept (μ := μ) h (by simp [hm]))

/-- The mask names nothing that `sendHeld` can change. -/
@[simp] abbrev Mask.AllowsSendHeld (μ : Mask) : Prop :=
  μ .mem = false ∧ μ .poison = false ∧ μ .regs = false ∧ μ .queues = false ∧ μ .stackDies = false ∧ μ .hc = false ∧
  μ .pA = false ∧ μ .pB = false ∧ μ .faults = false ∧ μ .mgmt = false ∧ μ .out = false

@[simp] theorem sendHeld_spares (b : Bool) (w : ExtWrite) (s : State) (hm : μ.AllowsSendHeld) :
    Spares μ σ s (sendHeld b w s) := by
  refine .of ?_
  unfold sendHeld
  split
  · split <;> simp [hm]
  · split
    · split
      next q _ =>
        rcases h : queueWrite q w.tag w.addr 1 0 w.bytes s with _ | t
        · simp [hm]
        · exact (queueWrite_kept (μ := μ) h (by simp [hm]))
      · simp
    · simp [hm]

/-- The mask names nothing that `askIrq` can change. -/
@[simp] abbrev Mask.AllowsAskIrq (μ : Mask) : Prop :=
  μ .regs = false ∧ μ .queues = false ∧ μ .hc = false ∧ μ .pA = false ∧ μ .pB = false ∧ μ .out = false

@[simp] theorem askIrq_spares (q : Nat) (s : State) (hm : μ.AllowsAskIrq) : Spares μ σ s (askIrq q s) :=
  .of <| by simp [askIrq, hm]

@[simp] theorem postRecord_spares (q r : Nat) (s : State) (hm : μ.AllowsSendHeld) : Spares μ σ s (postRecord q r s) := by
  refine .of ?_
  unfold postRecord
  dsimp only
  split
  · simp
  · split
    · simp [hm]
    · split
      · simp [hm]
      next s1 h =>
        have h1 := (queueWrite_kept (μ := μ) h (by simp [hm]))
        split
        · exact h1
        · split
          · simp [h1, hm]
          next s3 h3 =>
            have h3 := (writeBack_kept (μ := μ) h3 (by simp [hm]))
            (repeat' split) <;> simp [h1, Spares.of h3, hm]

@[simp] theorem dropCmd_spares (c : CmdRef) (s : State) (hm : μ .cmds = false) : Spares μ σ s (dropCmd c s) :=
  .of <| by simp [dropCmd, hm]
@[simp] theorem endRetry_spares (q : Nat) (k : BitVec 32) (s : State) (hm : μ.AllowsQueueStop) :
    Spares μ σ s (endRetry q k s) := .of <| by simp [endRetry, hm]

@[simp] theorem completeCmd_spares (e : Cmd) (s : State) (hm : μ.AllowsSettleOne) : Spares μ σ s (completeCmd e s) := by
  refine .of ?_
  unfold completeCmd
  split <;> simp [hm]

@[simp] theorem completeReady_spares (e : Cmd) (s : State) (hm : μ.AllowsSettleOne) : Spares μ σ s (completeReady e s) :=
  .of <| by simp [completeReady, hm]

@[simp] theorem execCommandCompletion_gives (queue : BitVec 16) (index : BitVec 32) (s : State) :
    Gives .none s (execCommandCompletion queue index s) := by
  unfold execCommandCompletion
  split <;> simp

@[simp] theorem execIrqHoldoffExpiry_gives (queue : BitVec 16) (s : State) (hm : μ.AllowsAskIrq) :
    Gives μ s (execIrqHoldoffExpiry queue s) := by simp [execIrqHoldoffExpiry, hm]

@[simp] theorem queueRestart_spares (q : Nat) (s : State) (hm : μ.AllowsSendHeld) : Spares μ σ s (queueRestart q s) :=
  .of <| by simp [queueRestart, hm]
@[simp] theorem execQRestart_gives (queue : BitVec 16) (s : State) (hm : μ.AllowsSendHeld) : Gives μ s (execQRestart queue s) :=
  by simp [execQRestart, hm]

@[simp] theorem execQueueDrained_gives (queue : BitVec 16) (s : State) (hm : μ .queues = false) :
    Gives μ s (execQueueDrained queue s) := by simp [execQueueDrained, hm]

@[simp] theorem takeTurn_spares (q : Nat) (s : State) : Spares μ σ s (takeTurn q s) := .of <| by simp [takeTurn]
@[simp] theorem notePacket_spares (x : Queue) (s : State) (hm : μ .regs = false) : Spares μ σ s (notePacket x s) :=
  .of <| by simp [notePacket, hm]

@[simp] theorem consume_spares (q pk : Nat) (s : State) (hm : μ.AllowsSettleOne) : Spares μ σ s (consume q pk s) := by
  refine .of ?_
  unfold consume
  dsimp only
  split <;> simp [hm]

@[simp] theorem execPacketFetch_gives (queue : BitVec 16) (ext : Option (BitVec 512)) (s : State) :
    Gives .none s (execPacketFetch queue ext s) := by
  unfold execPacketFetch
  dsimp only
  (repeat' split) <;> simp

@[simp] theorem notVisible_spares (q why : Nat) (s : State) : Spares .none σ s (notVisible q why s) :=
  .of <| by simp [notVisible]

@[simp] theorem execPacketRetry_gives (queue : BitVec 16) (ext : Option (BitVec 512)) (s : State) :
    Gives .none s (execPacketRetry queue ext s) := by
  unfold execPacketRetry
  dsimp only
  (repeat' split) <;> simp

end

end Sys2Proof.Machine
end

section
/-! Programs, epochs and placed steps spare what is to be left. -/

namespace Sys2Proof.Machine
open Sys2Proof

section
variable {μ : Mask} {σ : State}

/-! ### Placing programs (R200 to R209) -/

theorem takeTally_kept {die mode exp pdie pidx n peer : Nat} {s : State} {r : State × Nat}
    (e : takeTally die mode exp pdie pidx n peer s = some r) (hm : μ .tallies = false) : Kept μ s r.1 := by
  obtain ⟨i, -, rfl⟩ := Option.map_eq_some_iff.mp e
  simp [hm]

theorem takePair_kept {pd cd n : Nat} {s : State} {r : State × Nat × Nat} (h : takePair pd cd n s = some r)
    (hm : μ .tallies = false) : Kept μ s r.1 := by
  obtain ⟨⟨s1, pi⟩, h1, h⟩ := Option.bind_eq_some_iff.mp h
  obtain ⟨⟨s2, ci⟩, h2, h⟩ := Option.bind_eq_some_iff.mp h
  cases h
  have k1 := (takeTally_kept (μ := μ) h1 (by simp [hm]))
  have k2 := (takeTally_kept (μ := μ) h2 (by simp [hm]))
  simp [k1.trans k2, hm]

theorem addStream_kept {h : Nat} {cores : List Nat} {inbound : Bool} {x : State × List Stream}
    {t : StreamEntry × List Nat × Nat} {r : State × List Stream} (e : addStream h cores inbound x t = some r)
    (hm : μ .tallies = false) : Kept μ x.1 r.1 := by
  unfold addStream at e
  dsimp only at e
  split at e
  · obtain ⟨⟨s1, pi⟩, h1, e⟩ := Option.bind_eq_some_iff.mp e
    cases e
    exact (takeTally_kept (μ := μ) h1 (by simp [hm]))
  · split at e
    · obtain ⟨⟨s1, pi⟩, h1, e⟩ := Option.bind_eq_some_iff.mp e
      cases e
      exact (takeTally_kept (μ := μ) h1 (by simp [hm]))
    · obtain ⟨⟨s1, pi, ci⟩, h1, e⟩ := Option.bind_eq_some_iff.mp e
      cases e
      exact (takePair_kept (μ := μ) h1 (by simp [hm]))

theorem addOwn_kept {die p tensor : Nat} {ring : List Nat} {x : State × List Stream} {r : State × List Stream}
    (e : addOwn die p tensor ring x = some r) (hm : μ .tallies = false) : Kept μ x.1 r.1 := by
  obtain ⟨⟨s1, pi, ci⟩, h1, e⟩ := Option.bind_eq_some_iff.mp e
  cases e
  exact (takePair_kept (μ := μ) h1 (by simp [hm]))

theorem reserveStreams_kept {h : Nat} {img : Image} {cores : List Nat} {l : Lay} {s : State}
    {r : State × List Stream × List Stream × List Stream} (e : reserveStreams h img cores l s = some r)
    (hm : μ .tallies = false) : Kept μ s r.1 := by
  obtain ⟨⟨s1, streams⟩, h1, e⟩ := Option.bind_eq_some_iff.mp e
  obtain ⟨⟨s2, locals⟩, h2, e⟩ := Option.bind_eq_some_iff.mp e
  obtain ⟨⟨s3, staging⟩, h3, e⟩ := Option.bind_eq_some_iff.mp e
  cases e
  have k1 := foldlM_kept _ (fun _ _ _ e => (addStream_kept (μ := μ) e (by simp [hm]))) _ _ _ h1
  have k2 := foldlM_kept _ (fun _ _ _ e => (addOwn_kept (μ := μ) e (by simp [hm]))) _ _ _ h2
  have k3 := foldlM_kept _ (fun _ _ _ e => (addOwn_kept (μ := μ) e (by simp [hm]))) _ _ _ h3
  exact k1.trans (k2.trans k3)

@[simp] theorem fillPins_spares (ts : List Tensor) (homes : List (Option Seg)) (l : List Pin) (w : Work)
    (hm : μ.AllowsWorkStore) : Spares μ σ w.s (fillPins ts homes l w).s := by
  induction l generalizing σ w with
  | nil => exact .of <| by simp [fillPins]
  | cons x l ih =>
    refine .of ?_
    unfold fillPins
    repeat' split
    all_goals simp [ih, hm]

@[simp] theorem findHomes_spares (l : List (Tensor × Nat)) (w : Work) (hm : μ.AllowsResolveDesc) :
    Spares μ σ w.s (findHomes l w).1.s := by
  induction l generalizing σ w with
  | nil => exact .of <| by simp [findHomes]
  | cons x l ih => exact .of <| by simp [findHomes, ih, hm]

@[simp] theorem place_spares (h ctx : Nat) (prog : Bref) (len : Nat) (img : Image) (homes : List (Option Seg)) (w : Work)
    (hm : μ .tallies = false ∧ μ .cores = false ∧ μ .progs = false) : Spares μ σ w.s (place h ctx prog len img homes w).1.s :=
  by
  refine .of ?_
  unfold place
  dsimp only
  split
  · simp
  · split
    · simp
    · split
      · simp
      next e =>
        have k : Kept μ w.s _ := (reserveStreams_kept (μ := μ) e (by simp [hm]))
        dsimp only at k
        simp [k, hm]

/-- The mask names nothing that `fill` can change. -/
@[simp] abbrev Mask.AllowsFill (μ : Mask) : Prop :=
  μ .mem = false ∧ μ .poison = false ∧ μ .cellar = false ∧ μ .cellarPoison = false ∧ μ .regs = false ∧ μ .ctxs = false ∧
  μ .tallies = false ∧ μ .cores = false ∧ μ .progs = false ∧ μ .stackDies = false ∧ μ .fab = false ∧ μ .g0 = false ∧
  μ .g1 = false ∧ μ .faults = false ∧ μ .mgmt = false ∧ μ .out = false

@[simp] theorem fill_spares (h : Nat) (p : Program) (homes : List (Option Seg)) (w : Work) (hm : μ.AllowsFill) :
    Spares μ σ w.s (fill h p homes w).1.s := .of <| by simp [fill, hm]

@[simp] theorem dropLost_spares (h : Nat) (s : State) (hm : μ .tallies = false ∧ μ .cores = false ∧ μ .progs = false) :
    Spares μ σ s (dropLost h s) := by
  refine .of ?_
  unfold dropLost
  split <;> simp [hm]

/-- The mask names nothing that `loadWork` can change. -/
@[simp] abbrev Mask.AllowsLoadWork (μ : Mask) : Prop :=
  μ .mem = false ∧ μ .poison = false ∧ μ .cellar = false ∧ μ .cellarPoison = false ∧ μ .regs = false ∧ μ .ctxs = false ∧
  μ .dpool = false ∧ μ .tallies = false ∧ μ .cores = false ∧ μ .progs = false ∧ μ .stackDies = false ∧ μ .fab = false ∧
  μ .g0 = false ∧ μ .g1 = false ∧ μ .faults = false ∧ μ .mgmt = false ∧ μ .out = false

@[simp] theorem loadWork_spares (c : CmdRef) (handle : BitVec 16) (prog : Bref) (len : BitVec 32) (e : Cmd) (s : State)
    (hm : μ.AllowsLoadWork) : Spares μ σ s (loadWork c handle prog len e s).1.s := by
  refine .of ?_
  unfold loadWork
  extract_lets h n used
  split
  · simp [used, hm]
  · split
    · simp
    · split
      next w1 g e1 =>
      have h1 : Kept μ s w1.s := .of_fst (by simp [hm]) e1
      split
      next w2 b e2 =>
      have h2 : Kept μ s w2.s := .of_fst (by simp [h1, hm]) e2
      split
      · exact h2
      · split
        · simp [h2]
        · split
          · simp [h2]
          · split
            · simp [h2]
            · split
              next w3 homes e3 =>
              have h3 : Kept μ s w3.s := .of_fst (by simp [h2, hm]) e3
              split
              · exact h3
              · split
                · simp [h3]
                · split
                  next w4 e4 => exact .of_fst (by simp [h3, hm]) e4
                  next w4 p e4 =>
                    have h4 : Kept μ s w4.s := .of_fst (by simp [h3, hm]) e4
                    simp [used, h4, hm]

/-- The mask names nothing that `loadBody` can change. -/
@[simp] abbrev Mask.AllowsLoadBody (μ : Mask) : Prop :=
  μ .mem = false ∧ μ .poison = false ∧ μ .cellar = false ∧ μ .cellarPoison = false ∧ μ .regs = false ∧ μ .cmds = false ∧
  μ .ctxs = false ∧ μ .staged = false ∧ μ .dpool = false ∧ μ .tallies = false ∧ μ .cores = false ∧ μ .progs = false ∧
  μ .partSets = false ∧ μ .stackDies = false ∧ μ .fab = false ∧ μ .g0 = false ∧ μ .g1 = false ∧ μ .faults = false ∧
  μ .mgmt = false ∧ μ .out = false

@[simp] theorem loadBody_spares (c : CmdRef) (handle : BitVec 16) (prog : Bref) (len : BitVec 32) (e : Cmd) (s : State)
    (hm : μ.AllowsLoadBody) : Spares μ σ s (loadBody c handle prog len e s) := .of <| by simp [loadBody, hm]

/-- The mask names nothing that `execStepLoad` can change. -/
@[simp] abbrev Mask.AllowsExecStepLoad (μ : Mask) : Prop :=
  μ .mem = false ∧ μ .poison = false ∧ μ .cellar = false ∧ μ .cellarPoison = false ∧ μ .regs = false ∧ μ .cmds = false ∧
  μ .ctxs = false ∧ μ .staged = false ∧ μ .dpool = false ∧ μ .walks = false ∧ μ .tallies = false ∧ μ .cores = false ∧
  μ .progs = false ∧ μ .partSets = false ∧ μ .stackDies = false ∧ μ .fab = false ∧ μ .g0 = false ∧ μ .g1 = false ∧
  μ .faults = false ∧ μ .mgmt = false ∧ μ .out = false

@[simp] theorem execStepLoad_gives (c : CmdRef) (handle : BitVec 16) (prog : Bref) (len : BitVec 32) (s : State)
    (hm : μ.AllowsExecStepLoad) : Gives μ s (execStepLoad c handle prog len s) := by simp [execStepLoad, hm]

@[simp] theorem unloadBody_spares (c : CmdRef) (h : Nat) (s : State) (hm : μ.AllowsFinishUnload) :
    Spares μ σ s (unloadBody c h s) := by
  refine .of ?_
  unfold unloadBody
  split <;> simp [hm]

/-- The mask names nothing that `execStepUnload` can change. -/
@[simp] abbrev Mask.AllowsExecStepUnload (μ : Mask) : Prop :=
  μ .cmds = false ∧ μ .ctxs = false ∧ μ .segs = false ∧ μ .walks = false ∧ μ .tallies = false ∧ μ .cores = false ∧
  μ .progs = false ∧ μ .fab = false ∧ μ .out = false

@[simp] theorem execStepUnload_gives (c : CmdRef) (handle : BitVec 16) (s : State) (hm : μ.AllowsExecStepUnload) :
    Gives μ s (execStepUnload c handle s) := by simp [execStepUnload, hm]

@[simp] theorem Work.stagePin_spares (epoch : Nat) (src dst : TileAt) (w : Work) (hm : μ.AllowsWorkStore) :
    Spares μ σ w.s (Work.stagePin epoch src dst w).s := by
  refine .of ?_
  unfold Work.stagePin
  dsimp only
  split <;> simp [hm]

@[simp] theorem stagePins_spares (k epoch : Nat) (src : Tref) (g : Seg) (l : List Pin) (w : Work) (hm : μ.AllowsWorkStore) :
    Spares μ σ w.s (stagePins k epoch src g l w).s := by
  induction l generalizing σ w with
  | nil => exact .of <| by simp [stagePins]
  | cons x l ih => exact .of <| by simp [stagePins, ih, hm]

@[simp] theorem restage_spares (old : Program) (pins : List Pin) (k : Nat) (w : Work) :
    Spares .none σ w.s (restage old pins k w).s := by
  refine .of ?_
  unfold restage
  split <;> simp

@[simp] theorem replaceWork_spares (p : Program) (log : List Heard) (s : State) : Spares μ σ s (replaceWork p log s).s :=
  .of <| by simp [replaceWork]

/-- The mask names nothing that `loseProg` can change. -/
@[simp] abbrev Mask.AllowsLoseProg (μ : Mask) : Prop :=
  μ .regs = false ∧ μ .tallies = false ∧ μ .cores = false ∧ μ .progs = false ∧ μ .faults = false ∧ μ .mgmt = false ∧
  μ .out = false

@[simp] theorem loseProg_spares (h : Nat) (p : Program) (f : Option Fail) (s : State) (hm : μ.AllowsLoseProg) :
    Spares μ σ s (loseProg h p f s) := by
  refine .of ?_
  unfold loseProg
  split <;> simp [hm]

@[simp] theorem refillFrom_spares (h : Nat) (log : List Heard) (s : State) : Spares .none σ s (refillFrom h log s) := by
  refine .of ?_
  unfold refillFrom
  split
  · simp
  · split
    next w1 homes e1 =>
    have h1 : Kept .none s w1.s := .of_fst (by simp) e1
    split
    · simp [h1]
    · split
      next w2 _ e2 =>
        have h2 : Kept .none s w2.s := .of_fst (by simp [h1]) e2
        exact h2.trans (foldl_work_kept _ (fun w k => (restage_spares ..).kept) _ { w2 with parks := false })
      next w2 e2 =>
        have h2 : Kept .none s w2.s := .of_fst (by simp [h1]) e2
        simp [h2]

@[simp] theorem placeOld_spares (h : Nat) (old : Program) (s : State) : Spares .none σ s (placeOld h old s) := by
  refine .of ?_
  unfold placeOld
  split
  next w1 homes e1 =>
  have h1 : Kept .none s w1.s := .of_fst (by simp) e1
  split
  · simp [h1]
  · split
    next w2 e2 =>
      have h2 : Kept .none s w2.s := .of_fst (by simp [h1]) e2
      simp [h2]
    next w2 _ e2 =>
      have h2 : Kept .none s w2.s := .of_fst (by simp [h1]) e2
      simp [h2]

@[simp] theorem refillAll_spares (s : State) : Spares .none σ s (refillAll s) := by
  refine .of ?_
  unfold refillAll
  refine foldl_kept _ (fun s x => ?_) _ _
  (repeat' split) <;> simp

@[simp] theorem replaceAll_spares (part : Nat) (s : State) : Spares .none σ s (replaceAll part s) :=
  .of <| by simp [replaceAll]

@[simp] theorem Work.args_spares (w : Work) (r : Bref) (g : Seg) (n i : Nat) (hm : μ.AllowsWorkBytes) :
    Spares μ σ w.s (w.args r g n i).1.s := by
  induction n generalizing σ i w with
  | zero => exact .of <| by simp [Work.args]
  | succ n ih => exact .of <| by simp [Work.args, ih, hm]

@[simp] theorem Work.bind_spares (w : Work) (p : Program) (l : List (Nat × Tref)) (hm : μ.AllowsResolveDesc) :
    Spares μ σ w.s (w.bind p l).s := by
  induction l generalizing σ w with
  | nil => exact .of <| by simp [Work.bind]
  | cons x l ih =>
    refine .of ?_
    unfold Work.bind
    split
    · simp
    · split <;> simp [ih, hm]

@[simp] theorem runWork_spares (c : CmdRef) (p : RunP) (pr : Program) (e : Cmd) (s : State) (hm : μ.AllowsSetLoadWork) :
    Spares μ σ s (runWork c p pr e s).1.s := .of <| by simp [runWork, hm]

@[simp] theorem beginRun_spares (c : CmdRef) (h k : Nat) (pr : Program) (args : List Tref) (now : Nat) (s : State)
    (hm : μ .cmds = false ∧ μ .cores = false ∧ μ .progs = false) : Spares μ σ s (beginRun c h k pr args now s) :=
  .of <| by simp [beginRun, hm]

/-- The mask names nothing that `runBody` can change. -/
@[simp] abbrev Mask.AllowsRunBody (μ : Mask) : Prop :=
  μ .regs = false ∧ μ .cmds = false ∧ μ .staged = false ∧ μ .dpool = false ∧ μ .cores = false ∧ μ .progs = false ∧
  μ .partSets = false ∧ μ .fab = false ∧ μ .g0 = false ∧ μ .g1 = false ∧ μ .faults = false ∧ μ .mgmt = false ∧ μ .out = false

@[simp] theorem runBody_spares (c : CmdRef) (p : RunP) (e : Cmd) (s : State) (hm : μ.AllowsRunBody) :
    Spares μ σ s (runBody c p e s) := by
  refine .of ?_
  unfold runBody
  dsimp only
  (repeat' split) <;> simp [hm]

/-- The mask names nothing that `execStepRun` can change. -/
@[simp] abbrev Mask.AllowsExecStepRun (μ : Mask) : Prop :=
  μ .regs = false ∧ μ .cmds = false ∧ μ .staged = false ∧ μ .dpool = false ∧ μ .walks = false ∧ μ .cores = false ∧
  μ .progs = false ∧ μ .partSets = false ∧ μ .fab = false ∧ μ .g0 = false ∧ μ .g1 = false ∧ μ .faults = false ∧ μ .mgmt = false
  ∧ μ .out = false

@[simp] theorem execStepRun_gives (c : CmdRef) (p : RunP) (s : State) (hm : μ.AllowsExecStepRun) :
    Gives μ s (execStepRun c p s) := by simp [execStepRun, hm]

/-! ### Epoch slots (R292 to R294, R322 to R330) -/

@[simp] theorem modSlot_spares (h k : Nat) (f : Slot → Slot) (s : State) (hm : μ .progs = false) :
    Spares μ σ s (modSlot h k f s) := .of <| by simp [modSlot, hm]

/-- The mask names nothing that `stageWork` can change. -/
@[simp] abbrev Mask.AllowsStageWork (μ : Mask) : Prop :=
  μ .mem = false ∧ μ .poison = false ∧ μ .cellar = false ∧ μ .cellarPoison = false ∧ μ .regs = false ∧ μ .ctxs = false ∧
  μ .dpool = false ∧ μ .cores = false ∧ μ .progs = false ∧ μ .stackDies = false ∧ μ .fab = false ∧ μ .g0 = false ∧ μ .g1 = false
  ∧ μ .faults = false ∧ μ .mgmt = false ∧ μ .out = false

@[simp] theorem stageWork_spares (c : CmdRef) (p : StageP) (e : Cmd) (s : State) (hm : μ.AllowsStageWork) :
    Spares μ σ s (stageWork c p e s).s := .of <| by simp [stageWork, hm]

/-- The mask names nothing that `stageBody` can change. -/
@[simp] abbrev Mask.AllowsStageBody (μ : Mask) : Prop :=
  μ .mem = false ∧ μ .poison = false ∧ μ .cellar = false ∧ μ .cellarPoison = false ∧ μ .regs = false ∧ μ .cmds = false ∧
  μ .ctxs = false ∧ μ .staged = false ∧ μ .dpool = false ∧ μ .cores = false ∧ μ .progs = false ∧ μ .partSets = false ∧
  μ .stackDies = false ∧ μ .fab = false ∧ μ .g0 = false ∧ μ .g1 = false ∧ μ .faults = false ∧ μ .mgmt = false ∧ μ .out = false

@[simp] theorem stageBody_spares (c : CmdRef) (p : StageP) (e : Cmd) (s : State) (hm : μ.AllowsStageBody) :
    Spares μ σ s (stageBody c p e s) := by
  refine .of ?_
  unfold stageBody
  split <;> simp [hm]

/-- The mask names nothing that `execEpochStage` can change. -/
@[simp] abbrev Mask.AllowsExecEpochStage (μ : Mask) : Prop :=
  μ .mem = false ∧ μ .poison = false ∧ μ .cellar = false ∧ μ .cellarPoison = false ∧ μ .regs = false ∧ μ .cmds = false ∧
  μ .ctxs = false ∧ μ .staged = false ∧ μ .dpool = false ∧ μ .walks = false ∧ μ .cores = false ∧ μ .progs = false ∧
  μ .partSets = false ∧ μ .stackDies = false ∧ μ .fab = false ∧ μ .g0 = false ∧ μ .g1 = false ∧ μ .faults = false ∧
  μ .mgmt = false ∧ μ .out = false

@[simp] theorem execEpochStage_gives (c : CmdRef) (p : StageP) (s : State) (hm : μ.AllowsExecEpochStage) :
    Gives μ s (execEpochStage c p s) := by simp [execEpochStage, hm]

@[simp] theorem notePostpones_spares (h n b : Nat) (s : State)
    (hm : μ .regs = false ∧ μ .faults = false ∧ μ .mgmt = false ∧ μ .out = false) : Spares μ σ s (notePostpones h n b s) := by
  induction n generalizing σ b s with
  | zero => exact .of <| by simp [notePostpones]
  | succ n ih => exact .of <| by simp [notePostpones, ih, hm]

/-- The mask names nothing that `decideCommit` can change. -/
@[simp] abbrev Mask.AllowsDecideCommit (μ : Mask) : Prop :=
  μ .regs = false ∧ μ .progs = false ∧ μ .fab = false ∧ μ .faults = false ∧ μ .mgmt = false ∧ μ .out = false

@[simp] theorem decideCommit_spares (h : Nat) (s : State) (hm : μ.AllowsDecideCommit) : Spares μ σ s (decideCommit h s) := by
  refine .of ?_
  unfold decideCommit
  split <;> simp [hm]

/-- The mask names nothing that `commitBody` can change. -/
@[simp] abbrev Mask.AllowsCommitBody (μ : Mask) : Prop :=
  μ .regs = false ∧ μ .cmds = false ∧ μ .progs = false ∧ μ .fab = false ∧ μ .faults = false ∧ μ .mgmt = false ∧ μ .out = false

@[simp] theorem commitBody_spares (c : CmdRef) (h k bell : Nat) (parish : Bool) (s : State) (hm : μ.AllowsCommitBody) :
    Spares μ σ s (commitBody c h k bell parish s) := by
  refine .of ?_
  unfold commitBody
  (repeat' split) <;> simp [hm]

/-- The mask names nothing that `execEpochCommit` can change. -/
@[simp] abbrev Mask.AllowsExecEpochCommit (μ : Mask) : Prop :=
  μ .regs = false ∧ μ .cmds = false ∧ μ .walks = false ∧ μ .progs = false ∧ μ .fab = false ∧ μ .faults = false ∧ μ .mgmt = false
  ∧ μ .out = false

@[simp] theorem execEpochCommit_gives (c : CmdRef) (handle : BitVec 16) (slot : BitVec 8) (bell : BitVec 64) (s : State)
    (hm : μ.AllowsExecEpochCommit) : Gives μ s (execEpochCommit c handle slot bell s) := by simp [execEpochCommit, hm]

@[simp] theorem execEpochCommitParish_gives (c : CmdRef) (handle : BitVec 16) (slot : BitVec 8) (bell : BitVec 64) (s : State)
    (hm : μ.AllowsExecEpochCommit) : Gives μ s (execEpochCommitParish c handle slot bell s) :=
  by simp [execEpochCommitParish, hm]

@[simp] theorem meetCommit_spares (h src : Nat) (s : State)
    (hm : μ .cmds = false ∧ μ .progs = false ∧ μ .fab = false ∧ μ .out = false) : Spares μ σ s (meetCommit h src s).1 := by
  refine .of ?_
  unfold meetCommit
  split <;> simp [hm]

@[simp] theorem prepared_spares (src h k epoch bell period : Nat) (s : State)
    (hm : μ .cmds = false ∧ μ .progs = false ∧ μ .fab = false ∧ μ .out = false) :
    Spares μ σ s (prepared src h k epoch bell period s) := by
  refine .of ?_
  unfold prepared
  dsimp only
  (repeat' split) <;> simp [hm]

@[simp] theorem voted_spares (src h : Nat) (kind : VoteKind) (s : State) (hm : μ.AllowsCommitBody) :
    Spares μ σ s (voted src h kind s) := by
  refine .of ?_
  unfold voted
  (repeat' split) <;> simp [hm]

@[simp] theorem decided_spares (h bell : Nat) (s : State) (hm : μ .progs = false) : Spares μ σ s (decided h bell s) :=
  .of <| by simp [decided, hm]

@[simp] theorem aborted_spares (h : Nat) (s : State) (hm : μ .progs = false) : Spares μ σ s (aborted h s) := by
  refine .of ?_
  unfold aborted
  split <;> simp [hm]

/-- The mask names nothing that `execCommitDeadline` can change. -/
@[simp] abbrev Mask.AllowsExecCommitDeadline (μ : Mask) : Prop :=
  μ .regs = false ∧ μ .progs = false ∧ μ .faults = false ∧ μ .mgmt = false ∧ μ .out = false

@[simp] theorem execCommitDeadline_gives (handle : BitVec 16) (s : State) (hm : μ.AllowsExecCommitDeadline) :
    Gives μ s (execCommitDeadline handle s) := by
  unfold execCommitDeadline
  dsimp only
  split <;> simp [hm]

@[simp] theorem commitsLost_spares (m : Nat) (s : State)
    (hm : μ .cmds = false ∧ μ .progs = false ∧ μ .fab = false ∧ μ .out = false) : Spares μ σ s (commitsLost m s) := by
  refine .of ?_
  unfold commitsLost
  refine foldl_kept _ (fun s x => ?_) _ _
  (repeat' split) <;> simp [hm]

@[simp] theorem rejoin_spares (m : Nat) (s : State) (hm : μ .progs = false) : Spares μ σ s (rejoin m s) := by
  refine .of ?_
  unfold rejoin
  refine foldl_kept _ (fun s x => ?_) _ _
  (repeat' split) <;> simp [hm]

@[simp] theorem switchAt_spares (b h : Nat) (s : State) (hm : μ .cmds = false ∧ μ .progs = false) :
    Spares μ σ s (switchAt b h s) := by
  refine .of ?_
  unfold switchAt
  (repeat' split) <;> simp [hm]

@[simp] theorem switchEpochs_spares (b : Nat) (s : State) (hm : μ .cmds = false ∧ μ .progs = false) :
    Spares μ σ s (switchEpochs b s) := .of <| by simp [switchEpochs, hm]

@[simp] theorem pinBody_spares (c : CmdRef) (h k : Nat) (s : State) (hm : μ .cmds = false ∧ μ .progs = false) :
    Spares μ σ s (pinBody c h k s) := by
  refine .of ?_
  unfold pinBody
  (repeat' split) <;> simp [hm]

@[simp] theorem execEpochPin_gives (c : CmdRef) (handle : BitVec 16) (slot : BitVec 8) (s : State)
    (hm : μ .cmds = false ∧ μ .walks = false ∧ μ .progs = false) : Gives μ s (execEpochPin c handle slot s) :=
  by simp [execEpochPin, hm]

@[simp] theorem unpinBody_spares (c : CmdRef) (h k : Nat) (s : State) (hm : μ .cmds = false ∧ μ .progs = false) :
    Spares μ σ s (unpinBody c h k s) := by
  refine .of ?_
  unfold unpinBody
  split <;> simp [hm]

@[simp] theorem execEpochUnpin_gives (c : CmdRef) (handle : BitVec 16) (slot : BitVec 8) (s : State)
    (hm : μ .cmds = false ∧ μ .walks = false ∧ μ .progs = false) : Gives μ s (execEpochUnpin c handle slot s) :=
  by simp [execEpochUnpin, hm]

/-! ### Placed steps as cores run them (R171 to R175, R212 to R221) -/

@[simp] theorem modRun_spares (h r : Nat) (f : Run → Run) (s : State) (hm : μ .progs = false) :
    Spares μ σ s (modRun h r f s) := .of <| by simp [modRun, hm]
@[simp] theorem countMade_spares (h r key n : Nat) (s : State) (hm : μ .progs = false) :
    Spares μ σ s (countMade h r key n s) := .of <| by simp [countMade, hm]

@[simp] theorem sendAdd_spares (cmd : CmdRef) (peer die index n : Nat) (s : State) (hm : μ .fab = false ∧ μ .out = false) :
    Spares μ σ s (sendAdd cmd peer die index n s) := .of <| by simp [sendAdd, hm]

/-- The mask names nothing that `OwedAdd.apply` can change. -/
@[simp] abbrev Mask.AllowsOwedAddApply (μ : Mask) : Prop :=
  μ .regs = false ∧ μ .cmds = false ∧ μ .tallies = false ∧ μ .waiters = false ∧ μ .fab = false ∧ μ .out = false

@[simp] theorem OwedAdd.apply_spares (cmd : CmdRef) (x : OwedAdd) (s : State) (hm : μ.AllowsOwedAddApply) :
    Spares μ σ s (OwedAdd.apply cmd x s).1 := .of <| by simp [OwedAdd.apply, hm]

/-- The mask names nothing that `releaseAdd` can change. -/
@[simp] abbrev Mask.AllowsReleaseAdd (μ : Mask) : Prop :=
  μ .regs = false ∧ μ .cmds = false ∧ μ .tallies = false ∧ μ .waiters = false ∧ μ .progs = false ∧ μ .fab = false ∧
  μ .out = false

@[simp] theorem releaseAdd_spares (h r : Nat) (x : OwedAdd) (s : State) (hm : μ.AllowsReleaseAdd) :
    Spares μ σ s (releaseAdd h r x s).1 := by
  refine .of ?_
  unfold releaseAdd
  split <;> simp [hm]

@[simp] theorem addP_spares (pr : Program) (h r core key : Nat) (t : Stream) (s : State) (hm : μ.AllowsReleaseAdd) :
    Spares μ σ s (addP pr h r core key t s).1 := .of <| by simp [addP, hm]

theorem addAll_kept {α : Type} (f : α → State → State × Option Fail) (h : ∀ x s, Kept μ s (f x s).1) (l : List α) (s : State) :
    Kept μ s (addAll f l s).1 := by
  induction l generalizing s with
  | nil => exact .refl _
  | cons x l ih =>
    unfold addAll
    split
    next e => exact .of_state_fst (h x s) e
    next e => exact (Kept.of_state_fst (h x s) e).trans (ih _)

@[simp] theorem addAll_spares {α : Type} (f : α → State → State × Option Fail) (h : ∀ x s, Kept μ s (f x s).1) (l : List α)
    (s : State) : Spares μ σ s (addAll f l s).1 := .of (addAll_kept f h l s)

@[simp] theorem At.produce_spares (a : At) (s : State) (hm : μ.AllowsReleaseAdd) : Spares μ σ s (a.produce s).1 :=
  .of <| by simp [At.produce, hm]

@[simp] theorem At.consume_spares (a : At) (u : Nat) (q : Numbered) (s : State) (hm : μ.AllowsReleaseAdd) :
    Spares μ σ s (a.consume u q s).1 := .of <| by simp [At.consume, hm]

/-- The mask names nothing that `flushOwed` can change. -/
@[simp] abbrev Mask.AllowsFlushOwed (μ : Mask) : Prop :=
  μ .regs = false ∧ μ .cmds = false ∧ μ .ctxs = false ∧ μ .staged = false ∧ μ .segs = false ∧ μ .tallies = false ∧
  μ .waiters = false ∧ μ .cores = false ∧ μ .progs = false ∧ μ .partSets = false ∧ μ .fab = false ∧ μ .out = false

@[simp] theorem flushOwed_spares (h r : Nat) (s : State) (hm : μ.AllowsFlushOwed) : Spares μ σ s (flushOwed h r s) := by
  refine .of ?_
  unfold flushOwed
  split
  · simp
  · split
    · simp
    · split
      next e =>
        have k : Kept μ s _ := .of_state_fst (by simp [hm]) e
        simp [k, hm]
      next e =>
        have k : Kept μ s _ := .of_state_fst (by simp [hm]) e
        simp [k, hm]

@[simp] theorem flushPeer_spares (h r : Nat) (s : State) (hm : μ .progs = false ∧ μ .fab = false ∧ μ .out = false) :
    Spares μ σ s (flushPeer h r s) := by
  refine .of ?_
  unfold flushPeer
  split
  · simp
  · refine foldl_kept _ (fun s x => ?_) _ _
    dsimp only
    split
    · simp
    · split <;> simp [hm]

@[simp] theorem flushRuns_spares (x : Nat) (s : State) (hm : μ.AllowsFlushOwed) : Spares μ σ s (flushRuns x s) := by
  refine .of ?_
  unfold flushRuns
  refine foldl_kept _ (fun s x => ?_) _ _
  (repeat' split) <;> simp [hm]

@[simp] theorem flushOwner_spares (b : Barrier) (s : State) (hm : μ.AllowsFlushOwed) : Spares μ σ s (flushOwner b s) := by
  refine .of ?_
  unfold flushOwner
  split <;> simp [hm]

theorem moveOne_kept {h l : Nat} {s : State} {t : State} (e : moveOne h l s = some t) : Kept .none s t := by
  unfold moveOne at e
  split at e
  · cases e
  · extract_lets n away moved slot src at e
    split at e
    · cases e
    · split at e
      · cases e
      · extract_lets w0 w at e
        have h0 : Kept .none s w.s := by simp [w, w0]
        split at e
        next w1 x e1 =>
        have h1 : Kept .none s w1.s := .of_fst (by simp [h0]) e1
        extract_lets w2 at e
        have h2 : Kept .none s w2.s := by
          unfold w2
          split <;> simp [h1]
        clear_value w2
        split at e
        · cases e
        · split at e
          · cases e; simp [h2]
          · split at e
            next s1 f e3 =>
            have h3 : Kept .none s s1 := .of_state_fst (by simp [h2]) e3
            split at e
            · cases e; simp [h3]
            · split at e
              next e4 =>
                cases e
                have h4 : Kept .none s _ := .of_state_fst (by simp [h3]) e4
                simp [h4]
              next e4 =>
                cases e
                have h4 : Kept .none s _ := .of_state_fst (by simp [h3]) e4
                simp [h4]

@[simp] theorem moveTiles_spares (h l n : Nat) (s : State) : Spares .none σ s (moveTiles h l n s) := by
  induction n generalizing σ s with
  | zero => exact .of <| by simp [moveTiles]
  | succ n ih =>
    refine .of ?_
    unfold moveTiles
    split
    · simp
    next e => exact ((moveOne_kept e)).trans (ih _).kept

@[simp] theorem moveOut_spares (h : Nat) (s : State) : Spares .none σ s (moveOut h s) := by
  refine .of ?_
  unfold moveOut
  split <;> simp

@[simp] theorem moveOutAll_spares (s : State) : Spares .none σ s (moveOutAll s) := .of <| by simp [moveOutAll]

@[simp] theorem scanMax_spares (l : List At) (w : Work) (hm : μ.AllowsWorkTake) : Spares μ σ w.s (scanMax l w).1.s := by
  induction l generalizing σ w with
  | nil => exact .of <| by simp [scanMax]
  | cons a l ih => exact .of <| by simp [scanMax, ih, hm]

/-- The mask names nothing that `At.scan` can change. -/
@[simp] abbrev Mask.AllowsAtScan (μ : Mask) : Prop :=
  μ .regs = false ∧ μ .ctxs = false ∧ μ .cores = false ∧ μ .progs = false ∧ μ .fab = false ∧ μ .g0 = false ∧ μ .g1 = false ∧
  μ .faults = false ∧ μ .mgmt = false ∧ μ .out = false

@[simp] theorem At.scan_spares (a : At) (w : Work) (hm : μ.AllowsAtScan) : Spares μ σ w.s (a.scan w).1.s :=
  .of <| by simp [At.scan, hm]
@[simp] theorem At.anchor_spares (a : At) (w : Work) (hm : μ.AllowsAtScan) : Spares μ σ w.s (a.anchor w).1.s :=
  .of <| by simp [At.anchor, hm]
@[simp] theorem noteReady_spares (n : Nat) (s : State) (hm : μ .progs = false) : Spares μ σ s (noteReady n s) :=
  .of <| by simp [noteReady, hm]

@[simp] theorem At.runChain_spares (a : At) (e : Nat) (anchor : Int) (w : Work) :
    Spares .none σ w.s (a.runChain e anchor w).s := by
  refine .of ?_
  unfold At.runChain
  dsimp only
  (repeat' split) <;> simp

@[simp] theorem At.copyUnit_spares (a : At) (u : Nat) (w : Work) : Spares .none σ w.s (a.copyUnit u w).s := by
  refine .of ?_
  unfold At.copyUnit
  dsimp only
  split <;> simp

@[simp] theorem At.zeroUnit_spares (a : At) (u : Nat) (w : Work) : Spares .none σ w.s (a.zeroUnit u w).s := by
  refine .of ?_
  unfold At.zeroUnit
  split
  · simp
  · split
    · simp
    · simp [-List.reduceReplicate]

@[simp] theorem At.fnUnit_spares (a : At) (fs : FSet) (u : Nat) (w : Work) : Spares .none σ w.s (a.fnUnit fs u w).s :=
  .of <| by simp [At.fnUnit]

@[simp] theorem At.noWindow_spares (a : At) (w : Work) : Spares .none σ w.s (a.noWindow w).s := .of <| by simp [At.noWindow]

@[simp] theorem At.unit_spares (a : At) (e : Nat) (w : Work) : Spares .none σ w.s (a.unit e w).s := by
  refine .of ?_
  unfold At.unit
  dsimp only
  (repeat' split) <;> simp

@[simp] theorem endStep_spares (a : At) (s : State) (hm : μ .progs = false) : Spares μ σ s (endStep a s) :=
  .of <| by simp [endStep, hm]

@[simp] theorem At.unstage_spares (a : At) (u : Nat) (s : State) (hm : μ .tallies = false ∧ μ .progs = false) :
    Spares μ σ s (a.unstage u s) := by
  refine .of ?_
  unfold At.unstage
  split <;> simp [hm]

@[simp] theorem afterUnit_spares (h r i : Nat) (s : State) : Spares .none σ s (afterUnit h r i s) := by
  refine .of ?_
  unfold afterUnit
  dsimp only
  (repeat' split) <;> simp

@[simp] theorem noteStall_spares (reg : Nat) (s0 : State) (hm : μ .regs = false) : Spares μ σ s0 (noteStall reg s0) :=
  .of <| by simp [noteStall, hm]
@[simp] theorem At.streamStall_spares (a : At) (s : State) (hm : μ .regs = false) : Spares μ σ s (a.streamStall s) :=
  .of <| by simp [At.streamStall, hm]

@[simp] theorem issueUnit_spares (a : At) (e : Nat) (s : State) : Spares .none σ s (issueUnit a e s) := by
  refine .of ?_
  unfold issueUnit
  dsimp only
  split <;> simp

end

end Sys2Proof.Machine
end

section
/-! The ladder, cores and power spare what is to be left. -/

namespace Sys2Proof.Machine
open Sys2Proof

section
variable {μ : Mask} {σ : State}

/-! ### The reset ladder (R556 to R566, R570 to R573) -/

@[simp] theorem resetRegs_spares (ds : List Domain) (s : State) (hm : μ .regs = false) : Spares μ σ s (resetRegs ds s) :=
  .of <| by simp [resetRegs, hm]
@[simp] theorem resetEngRegs_spares (n e : Nat) (s : State) (hm : μ .regs = false) : Spares μ σ s (resetEngRegs n e s) :=
  .of <| by simp [resetEngRegs, hm]
@[simp] theorem setSvc_spares (v : Nat) (s : State) (hm : μ .regs = false ∧ μ .mgmt = false ∧ μ .out = false) :
    Spares μ σ s (setSvc v s) := .of <| by simp [setSvc, hm]

@[simp] theorem setCapture_spares (k : Nat) (v : CaptureSlot) (s : State) (hm : μ .faults = false) :
    Spares μ σ s (setCapture k v s) := .of <| by simp [setCapture, hm]

@[simp] theorem beginCapture_spares (trig : Nat) (s : State) (hm : μ .regs = false ∧ μ .faults = false) :
    Spares μ σ s (beginCapture trig s) := by
  refine .of ?_
  unfold beginCapture
  split <;> simp [hm]

@[simp] theorem endCapture_spares (absent : Nat) (truncated abandoned : Bool) (s : State)
    (hm : μ .regs = false ∧ μ .faults = false ∧ μ .mgmt = false ∧ μ .out = false) :
    Spares μ σ s (endCapture absent truncated abandoned s) := by
  refine .of ?_
  unfold endCapture
  split <;> simp [hm]

@[simp] theorem rungCapture_spares (trig : Nat) (s : State)
    (hm : μ .regs = false ∧ μ .faults = false ∧ μ .mgmt = false ∧ μ .out = false) : Spares μ σ s (rungCapture trig s) :=
  .of <| by simp [rungCapture, hm]

@[simp] theorem execCrashCapture_gives (trigger : BitVec 8) (absent : BitVec 64) (s : State)
    (hm : μ .regs = false ∧ μ .faults = false ∧ μ .mgmt = false ∧ μ .out = false) :
    Gives μ s (execCrashCapture trigger absent s) := by simp [execCrashCapture, hm]

@[simp] theorem execCaptureCutoff_gives (s : State)
    (hm : μ .regs = false ∧ μ .faults = false ∧ μ .mgmt = false ∧ μ .out = false) : Gives μ s (execCaptureCutoff s) :=
  by simp [execCaptureCutoff, hm]
@[simp] theorem bumpChain_spares (s : State) (hm : μ .chainGen = false) : Spares μ σ s (bumpChain s) :=
  .of <| by simp [bumpChain, hm]
@[simp] theorem raiseFence_spares (dom idx : Nat) (s : State) (hm : μ .faults = false) :
    Spares μ σ s (raiseFence dom idx s) := .of <| by simp [raiseFence, hm]
@[simp] theorem liftFence_spares (dom idx : Nat) (s : State) (hm : μ .faults = false) : Spares μ σ s (liftFence dom idx s) :=
  .of <| by simp [liftFence, hm]

@[simp] theorem fencedLedger_spares (dom idx answered discarded : Nat) (s : State)
    (hm : μ .regs = false ∧ μ .faults = false ∧ μ .mgmt = false ∧ μ .out = false) :
    Spares μ σ s (fencedLedger dom idx answered discarded s) := .of <| by simp [fencedLedger, hm]

@[simp] theorem failCore_spares (n : Nat) (f : Fail) (s : State) (hm : μ.AllowsReap) : Spares μ σ s (failCore n f s) :=
  .of <| by simp [failCore, hm]

@[simp] theorem endServed_spares (old : Engine) (f : Fail) (s : State) : Spares .none σ s (endServed old f s) := by
  refine .of ?_
  unfold endServed
  (repeat' split) <;> simp

@[simp] theorem tornOutput_spares (x : Flight) (s : State) (hm : μ.AllowsPlaceWrite) : Spares μ σ s (tornOutput x s) := by
  refine .of ?_
  unfold tornOutput
  split <;> simp [hm]

@[simp] theorem clearEngine_spares (n e : Nat) (f : Fail) (s : State) : Spares .none σ s (clearEngine n e f s) := by
  refine .of ?_
  unfold clearEngine
  dsimp only
  split <;> simp

/-- The mask names nothing that `moduleCycle` can change. -/
@[simp] abbrev Mask.AllowsModuleCycle (μ : Mask) : Prop :=
  μ .regs = false ∧ μ .faults = false ∧ μ .mgmt = false ∧ μ .tray = false ∧ μ .out = false

@[simp] theorem moduleCycle_spares (counts esc : Bool) (s : State) (hm : μ.AllowsModuleCycle) :
    Spares μ σ s (moduleCycle counts esc s) := .of <| by simp [moduleCycle, hm]

@[simp] theorem execModulePowerCycle_gives (s : State) (hm : μ.AllowsModuleCycle) : Gives μ s (execModulePowerCycle s) :=
  by simp [execModulePowerCycle, hm]

@[simp] theorem postAll_spares (s : State) (hm : μ.AllowsSettleOne) : Spares μ σ s (postAll s) := by
  refine .of ?_
  unfold postAll
  refine foldl_kept _ (fun s x => ?_) _ _
  (repeat' split) <;> simp [hm]

@[simp] theorem clearLarders_spares (s : State) (hm : μ .mem = false ∧ μ .poison = false) : Spares μ σ s (clearLarders s) :=
  .of <| by simp [clearLarders, hm]

/-- The mask names nothing that `restoreTallies` can change. -/
@[simp] abbrev Mask.AllowsRestoreTallies (μ : Mask) : Prop :=
  μ .regs = false ∧ μ .tallies = false ∧ μ .faults = false ∧ μ .mgmt = false ∧ μ .out = false

@[simp] theorem restoreTallies_spares (units : List Nat) (s : State) (hm : μ.AllowsRestoreTallies) :
    Spares μ σ s (restoreTallies units s) := .of <| by simp [restoreTallies, hm]

@[simp] theorem chipResetEffects_spares (s : State) : Spares .none σ s (chipResetEffects s) :=
  .of <| by simp [chipResetEffects]
@[simp] theorem chipReset_spares (counts esc : Bool) (s : State) : Spares .none σ s (chipReset counts esc s) :=
  .of <| by simp [chipReset]
@[simp] theorem execChipReset_gives (s : State) : Gives .none s (execChipReset s) := by simp [execChipReset]
@[simp] theorem resetCore_spares (p n : Nat) (s : State) : Spares .none σ s (resetCore p n s) := .of <| by simp [resetCore]

@[simp] theorem partitionResetNow_spares (p : Nat) (s : State) : Spares .none σ s (partitionResetNow p s) :=
  .of <| by simp [partitionResetNow]

@[simp] theorem partitionReset_spares (p : Nat) (counts esc : Bool) (s : State) :
    Spares .none σ s (partitionReset p counts esc s) := .of <| by simp [partitionReset]

@[simp] theorem execPartitionReset_gives (p : BitVec 4) (s : State) : Gives .none s (execPartitionReset p s) :=
  by simp [execPartitionReset]

@[simp] theorem resumeResets_spares (s : State) : Spares .none σ s (resumeResets s) := .of <| by simp [resumeResets]

@[simp] theorem resetPartOf_spares (n : Nat) (counts esc : Bool) (s : State) :
    Spares .none σ s (resetPartOf n counts esc s) := by
  refine .of ?_
  unfold resetPartOf
  split <;> simp

@[simp] theorem retiredLedger_spares (n old new trigger engine sec : Nat) (s : State)
    (hm : μ .regs = false ∧ μ .faults = false ∧ μ .mgmt = false ∧ μ .out = false) :
    Spares μ σ s (retiredLedger n old new trigger engine sec s) := .of <| by simp [retiredLedger, hm]

@[simp] theorem dropLarder_spares (n : Nat) (s : State) (hm : μ .mem = false ∧ μ .poison = false) :
    Spares μ σ s (dropLarder n s) := .of <| by simp [dropLarder, hm]

@[simp] theorem retireCore_spares (n trigger engine sec : Nat) (s : State) :
    Spares .none σ s (retireCore n trigger engine sec s) := by
  refine .of ?_
  unfold retireCore
  dsimp only
  (repeat' split) <;> simp

@[simp] theorem mapIn_spares (n : Nat) (s : State) : Spares .none σ s (mapIn n s) := by
  refine .of ?_
  unfold mapIn
  dsimp only
  split <;> simp

@[simp] theorem sparePatrol_spares (d k : Nat) (failed : BitVec 4) (s : State) :
    Spares .none σ s (sparePatrol d k failed s) := by
  refine .of ?_
  unfold sparePatrol
  dsimp only
  (repeat' split) <;> simp

@[simp] theorem noteEngineReset_spares (n : Nat) (s : State) (hm : μ .faults = false) :
    Spares μ σ s (noteEngineReset n s).1 := .of <| by simp [noteEngineReset, hm]

@[simp] theorem engineReset_spares (n e : Nat) (counts esc : Bool) (s : State) :
    Spares .none σ s (engineReset n e counts esc s) := .of <| by simp [engineReset]

@[simp] theorem execEngineReset_gives (core : BitVec 8) (engine : BitVec 2) (s : State) :
    Gives .none s (execEngineReset core engine s) := by simp [execEngineReset]

@[simp] theorem execStepWatchdog_gives (core : BitVec 8) (unit : BitVec 3) (s : State) :
    Gives .none s (execStepWatchdog core unit s) := by
  unfold execStepWatchdog
  dsimp only
  (repeat' split) <;> simp

@[simp] theorem abortContext_spares (x : Nat) (s : State) : Spares .none σ s (abortContext x s) :=
  .of <| by simp [abortContext]

@[simp] theorem contextAbort_spares (x : Nat) (counts : Bool) (s : State) : Spares .none σ s (contextAbort x counts s) :=
  .of <| by simp [contextAbort]

@[simp] theorem execContextAbort_gives (ctx : BitVec 32) (s : State) : Gives .none s (execContextAbort ctx s) :=
  by simp [execContextAbort]

@[simp] theorem escalate_spares (r t : Nat) (s : State) : Spares .none σ s (escalate r t s) := by
  refine .of ?_
  unfold escalate
  (repeat' split) <;> simp

@[simp] theorem execRungBoundExpiry_gives (r : RungRef) (s : State) : Gives .none s (execRungBoundExpiry r s) :=
  by simp [execRungBoundExpiry]

@[simp] theorem requestRung_spares (r t : Nat) (s : State) : Spares .none σ s (requestRung r t s) := by
  refine .of ?_
  unfold requestRung
  (repeat' split) <;> simp

@[simp] theorem execFltResetReq_gives (w : Agent) (value : BitVec 64) (s : State) : Gives .none s (execFltResetReq w value s) :=
  by
  unfold execFltResetReq
  dsimp only
  (repeat' split) <;> simp

@[simp] theorem resetLedger_spares (dom idx n : Nat) (s : State)
    (hm : μ .regs = false ∧ μ .faults = false ∧ μ .mgmt = false ∧ μ .out = false) : Spares μ σ s (resetLedger dom idx n s) :=
  .of <| by simp [resetLedger, hm]

@[simp] theorem countReset_spares (dom idx limit : Nat) (s : State) (hm : μ .faults = false) :
    Spares μ σ s (countReset dom idx limit s).1 := .of <| by simp [countReset, hm]

@[simp] theorem domainReset_spares (dom idx limit : Nat) (s : State)
    (hm : μ .regs = false ∧ μ .faults = false ∧ μ .mgmt = false ∧ μ .out = false) :
    Spares μ σ s (domainReset dom idx limit s).1 := .of <| by simp [domainReset, hm]

@[simp] theorem saveFlight_spares (s : State) (hm : μ .mem = false ∧ μ .poison = false ∧ μ .stackDies = false) :
    Spares μ σ s (saveFlight s) := by
  refine .of ?_
  unfold saveFlight
  refine (foldl_kept _ (fun s m => ?_) _ _).trans (foldl_kept _ (fun s b => ?_) _ _)
  · split
    · simp [hm]
    · simp
  · split <;> simp [hm]

/-- The mask names nothing that `hostComplexReset` can change. -/
@[simp] abbrev Mask.AllowsHostComplexReset (μ : Mask) : Prop :=
  μ .mem = false ∧ μ .poison = false ∧ μ .regs = false ∧ μ .cmds = false ∧ μ .ctxs = false ∧ μ .staged = false ∧ μ .segs = false
  ∧ μ .walks = false ∧ μ .tallies = false ∧ μ .waiters = false ∧ μ .cores = false ∧ μ .progs = false ∧ μ .partSets = false ∧
  μ .stackDies = false ∧ μ .hc = false ∧ μ .fab = false ∧ μ .faults = false ∧ μ .mgmt = false ∧ μ .out = false ∧
  μ .unswept = false

@[simp] theorem hostComplexReset_spares (cause : Nat) (s : State) (hm : μ.AllowsHostComplexReset) :
    Spares μ σ s (hostComplexReset cause s) := .of <| by simp [hostComplexReset, hm]

@[simp] theorem execHostComplexReset_gives (cause : BitVec 4) (s : State) : Gives .none s (execHostComplexReset cause s) :=
  by simp [execHostComplexReset]

@[simp] theorem zeroDdr_spares (s : State) (hm : μ .mem = false ∧ μ .poison = false) : Spares μ σ s (zeroDdr s) :=
  .of <| by simp [zeroDdr, hm]

@[simp] theorem execHcReady_gives (s : State) (hm : μ .regs = false) : Gives μ s (execHcReady s) := by
  unfold execHcReady
  split <;> simp [hm]

/-! ### Cores turned off, woken and moved (R192 to R198, R228) -/

@[simp] theorem noteRamp_spares (d : Nat) (s : State) (hm : μ .power = false) : Spares μ σ s (noteRamp d s) :=
  .of <| by simp [noteRamp, hm]
@[simp] theorem beginRamp_spares (n : Nat) (rise : Bool) (s : State) (hm : μ .cores = false ∧ μ .power = false) :
    Spares μ σ s (beginRamp n rise s) := .of <| by simp [beginRamp, hm]
@[simp] theorem askRamp_spares (n : Nat) (rise : Bool) (s : State)
    (hm : μ .regs = false ∧ μ .cores = false ∧ μ .power = false) : Spares μ σ s (askRamp n rise s) :=
  .of <| by simp [askRamp, hm]
@[simp] theorem copySlot_spares (n x m y : Nat) (s : State)
    (hm : μ .mem = false ∧ μ .poison = false ∧ μ .cores = false ∧ μ .stackDies = false) : Spares μ σ s (copySlot n x m y s) :=
  .of <| by simp [copySlot, hm]

theorem moveTally_kept {die index to_ : Nat} {s : State} {r : State × Nat} (e : moveTally die index to_ s = some r)
    (hm : μ .tallies = false) : Kept μ s r.1 := by
  unfold moveTally at e
  split at e
  · cases e; simp
  · obtain ⟨i, -, rfl⟩ := Option.map_eq_some_iff.mp e
    simp [hm]

@[simp] theorem repoint_spares (die index pdie pidx : Nat) (s : State) (hm : μ .tallies = false) :
    Spares μ σ s (repoint die index pdie pidx s) := .of <| by simp [repoint, hm]

theorem moveTally_then_kept {here : Bool} {d i pd : Nat} {s : State} {k : State × Nat → Option (State × Stream)}
    {r : State × Stream} (hk : ∀ x r, k x = some r → Kept μ x.1 r.1) (hm : μ .tallies = false)
    (e : (if here then moveTally d i pd s >>= k else pure (s, i) >>= k) = some r) : Kept μ s r.1 := by
  split at e
  · obtain ⟨x, hx, hr⟩ := Option.bind_eq_some_iff.mp e
    exact (moveTally_kept (μ := μ) hx hm).trans (hk x r hr)
  · exact hk _ r e

theorem Stream.repointed_kept {t : Stream} {pd cd : Nat} {s : State} {r : State × Stream} (e : t.repointed pd cd s = some r)
    (hm : μ .tallies = false) : Kept μ s r.1 := by
  refine moveTally_then_kept (fun x r e => ?_) hm e
  refine moveTally_then_kept (fun y r e => ?_) hm e
  cases e
  simp [hm]

theorem Program.repoint_kept {p : Program} {s : State} {r : State × Program} (e : p.repoint s = some r)
    (hm : μ .tallies = false) : Kept μ s r.1 := by
  unfold Program.repoint at e
  extract_lets go at e
  have hgo (own : Bool) (x : State × List Stream) (t : Stream) (r) (e : go own x t = some r) : Kept μ x.1 r.1 := by
    obtain ⟨⟨s1, u⟩, h1, e⟩ := Option.bind_eq_some_iff.mp e
    cases e
    exact (Stream.repointed_kept (μ := μ) h1 (by simp [hm]))
  obtain ⟨⟨s1, a⟩, h1, e⟩ := Option.bind_eq_some_iff.mp e
  obtain ⟨⟨s2, b⟩, h2, e⟩ := Option.bind_eq_some_iff.mp e
  obtain ⟨⟨s3, c⟩, h3, e⟩ := Option.bind_eq_some_iff.mp e
  cases e
  exact (foldlM_kept _ (hgo _) _ _ _ h1).trans
    ((foldlM_kept _ (hgo _) _ _ _ h2).trans (foldlM_kept _ (hgo _) _ _ _ h3))

/-- The mask names nothing that `moveProg` can change. -/
@[simp] abbrev Mask.AllowsMoveProg (μ : Mask) : Prop :=
  μ .mem = false ∧ μ .poison = false ∧ μ .tallies = false ∧ μ .cores = false ∧ μ .progs = false ∧ μ .stackDies = false

@[simp] theorem moveProg_spares (h n m : Nat) (s : State) (hm : μ.AllowsMoveProg) : Spares μ σ s (moveProg h n m s) := by
  refine .of ?_
  unfold moveProg
  split
  · simp
  · extract_lets old l mine
    split
    · simp
    next s0 q e =>
      have k : Kept μ s s0 := (Program.repoint_kept (μ := μ) e (by simp [hm]))
      extract_lets s2 cn s3 cm
      have h3 : Kept μ s s3 := by simp [s3, s2, k, hm]
      simp [h3, hm]

@[simp] theorem moveContexts_spares (n : Nat) (s : State) (hm : μ.AllowsMoveProg) : Spares μ σ s (moveContexts n s) := by
  refine .of ?_
  unfold moveContexts
  extract_lets s1 c
  have h1 : Kept μ s s1 := foldl_kept _ (fun s x => by (repeat' split) <;> simp [hm]) _ _
  simp [h1, hm]

@[simp] theorem beginWake_spares (n : Nat) (s : State) (hm : μ .regs = false ∧ μ .cores = false ∧ μ .power = false) :
    Spares μ σ s (beginWake n s) := .of <| by simp [beginWake, hm]

@[simp] theorem setEngines_spares (n : Nat) (f : Engine → Engine) (s : State) (hm : μ .cores = false) :
    Spares μ σ s (setEngines n f s) := .of <| by simp [setEngines, hm]

/-- The mask names nothing that `finishOff` can change. -/
@[simp] abbrev Mask.AllowsFinishOff (μ : Mask) : Prop :=
  μ .mem = false ∧ μ .poison = false ∧ μ .regs = false ∧ μ .tallies = false ∧ μ .cores = false ∧ μ .progs = false ∧
  μ .stackDies = false ∧ μ .power = false

@[simp] theorem finishOff_spares (n : Nat) (s : State) (hm : μ.AllowsFinishOff) : Spares μ σ s (finishOff n s) :=
  .of <| by simp [finishOff, hm]
/-- The mask names nothing that `offProgress` can change. -/
@[simp] abbrev Mask.AllowsOffProgress (μ : Mask) : Prop :=
  μ .mem = false ∧ μ .poison = false ∧ μ .regs = false ∧ μ .cores = false ∧ μ .stackDies = false ∧ μ .hc = false ∧
  μ .power = false

@[simp] theorem offProgress_spares (n : Nat) (s : State) (hm : μ.AllowsOffProgress) : Spares μ σ s (offProgress n s) :=
  .of <| by simp [offProgress, hm]
@[simp] theorem owedSpill_spares (n e : Nat) (s : State) (hm : μ .regs = false ∧ μ .cores = false) :
    Spares μ σ s (owedSpill n e s) := .of <| by simp [owedSpill, hm]

@[simp] theorem turnOff_spares (n : Nat) (s : State) (hm : μ.AllowsOffProgress) : Spares μ σ s (turnOff n s) := by
  refine .of ?_
  unfold turnOff
  dsimp only
  split <;> simp [hm]

@[simp] theorem wakeCore_spares (n : Nat) (s : State) (hm : μ .regs = false ∧ μ .cores = false ∧ μ .power = false) :
    Spares μ σ s (wakeCore n s) := by
  refine .of ?_
  unfold wakeCore
  dsimp only
  split <;> simp [hm]

@[simp] theorem wokenCheck_spares (n : Nat) (s : State) (hm : μ.AllowsOffProgress) : Spares μ σ s (wokenCheck n s) :=
  .of <| by simp [wokenCheck, hm]

/-- The mask names nothing that `rampStage` can change. -/
@[simp] abbrev Mask.AllowsRampStage (μ : Mask) : Prop :=
  μ .mem = false ∧ μ .poison = false ∧ μ .regs = false ∧ μ .tallies = false ∧ μ .cores = false ∧ μ .progs = false ∧
  μ .stackDies = false ∧ μ .hc = false ∧ μ .power = false

@[simp] theorem rampStage_spares (n : Nat) (s : State) (hm : μ.AllowsRampStage) : Spares μ σ s (rampStage n s) := by
  refine .of ?_
  unfold rampStage
  dsimp only
  (repeat' split) <;> simp [hm]

@[simp] theorem execRampStage_gives (core : BitVec 8) (s : State) (hm : μ.AllowsRampStage) : Gives μ s (execRampStage core s) :=
  by simp [execRampStage, hm]

@[simp] theorem execRampStart_gives (core : BitVec 8) (rise : Bool) (s : State)
    (hm : μ .regs = false ∧ μ .cores = false ∧ μ .power = false) : Gives μ s (execRampStart core rise s) := by
  unfold execRampStart
  dsimp only
  (repeat' split) <;> simp [hm]

@[simp] theorem stopFall_spares (n : Nat) (s : State) (hm : μ .cores = false) : Spares μ σ s (stopFall n s) := by
  refine .of ?_
  unfold stopFall
  dsimp only
  split <;> simp [hm]

@[simp] theorem execCoreHold_gives (w : Agent) (core : BitVec 8) (on : Bool) (s : State) (hm : μ .regs = false) :
    Gives μ s (execCoreHold w core on s) := by
  unfold execCoreHold
  split <;> simp [hm]

@[simp] theorem execOffReq_gives (core : BitVec 8) (s : State) (hm : μ.AllowsOffProgress) : Gives μ s (execOffReq core s) :=
  by simp [execOffReq, hm]
@[simp] theorem execWake_gives (core : BitVec 8) (s : State) (hm : μ .regs = false ∧ μ .cores = false ∧ μ .power = false) :
    Gives μ s (execWake core s) := by simp [execWake, hm]

@[simp] theorem execWakeHoldExpiry_gives (core : BitVec 8) (s : State) (hm : μ .cores = false) :
    Gives μ s (execWakeHoldExpiry core s) := by
  unfold execWakeHoldExpiry
  dsimp only
  split <;> simp [hm]

@[simp] theorem larderError_spares (n sec : Nat) (uncorr : Bool) (s : State) :
    Spares .none σ s (larderError n sec uncorr s) := .of <| by simp [larderError]

@[simp] theorem execLarderScrub_gives (core : BitVec 8) (found : List (BitVec 17 × Bool)) (s : State) :
    Gives .none s (execLarderScrub core found s) := by
  unfold execLarderScrub
  dsimp only
  split <;> simp

/-! ### Cap, boost and heat (R528 to R546) -/

@[simp] theorem takeOff_spares (cause n : Nat) (s : State) (hm : μ.AllowsOffProgress) : Spares μ σ s (takeOff cause n s) :=
  .of <| by simp [takeOff, hm]

@[simp] theorem takeExcess_spares (x : Nat) (l : List Nat) (s : State) (hm : μ.AllowsOffProgress) :
    Spares μ σ s (takeExcess x l s) := by
  induction l generalizing σ x s with
  | nil => exact .of <| by simp [takeExcess]
  | cons a l ih => exact .of <| by simp [takeExcess, ih, hm]

@[simp] theorem wakeOne_spares (o : OffCore) (s : State) (hm : μ .regs = false ∧ μ .cores = false ∧ μ .power = false) :
    Spares μ σ s (wakeOne o s) := .of <| by simp [wakeOne, hm]

@[simp] theorem wakeRoom_spares (room : Nat) (l : List OffCore) (s : State)
    (hm : μ .regs = false ∧ μ .cores = false ∧ μ .power = false) : Spares μ σ s (wakeRoom room l s) := by
  induction l generalizing σ room s with
  | nil => exact .of <| by simp [wakeRoom]
  | cons a l ih => exact .of <| by simp [wakeRoom, ih, hm]

@[simp] theorem sampleRegs_spares (watts mv current : Nat) (s : State) (hm : μ .regs = false) :
    Spares μ σ s (sampleRegs watts mv current s) := .of <| by simp [sampleRegs, hm]

@[simp] theorem noteEstimates_spares (es : List (BitVec 8 × BitVec 16 × BitVec 32)) (s : State) (hm : μ .power = false) :
    Spares μ σ s (noteEstimates es s) := .of <| by simp [noteEstimates, hm]

@[simp] theorem capAction_spares (watts : Nat) (s : State) (hm : μ.AllowsOffProgress) : Spares μ σ s (capAction watts s) :=
  .of <| by simp [capAction, hm]

@[simp] theorem powerSample_spares (watts mv current : Nat) (es : List (BitVec 8 × BitVec 16 × BitVec 32)) (s : State)
    (hm : μ.AllowsOffProgress) : Spares μ σ s (powerSample watts mv current es s) := by
  refine .of ?_
  unfold powerSample
  extract_lets s1 p1 s2 skip p2 s3
  have hpower (t : State) (p : Power) (off : Nat) (f : Fld) (v : Nat) : Kept μ t (setF off f v { t with power := p }) := by simp [hm]
  have h1 : Kept μ s s1 := by simp [s1, hm]
  have h3 : Kept μ s s3 := (h1.trans (hpower s1 _ _ _ _)).trans (hpower s2 _ _ _ _)
  split <;> simp [h3, hm]

@[simp] theorem execPowerSample_gives (watts : BitVec 13) (milliVolt current : BitVec 16)
    (estimates : List (BitVec 8 × BitVec 16 × BitVec 32)) (s : State) (hm : μ.AllowsOffProgress) :
    Gives μ s (execPowerSample watts milliVolt current estimates s) := by simp [execPowerSample, hm]

/-- The mask names nothing that `execCapUnmet` can change. -/
@[simp] abbrev Mask.AllowsExecCapUnmet (μ : Mask) : Prop :=
  μ .regs = false ∧ μ .hc = false ∧ μ .pA = false ∧ μ .pB = false ∧ μ .faults = false ∧ μ .mgmt = false ∧ μ .out = false

@[simp] theorem execCapUnmet_gives (s : State) (hm : μ.AllowsExecCapUnmet) : Gives μ s (execCapUnmet s) := by
  unfold execCapUnmet
  split <;> simp [hm]

@[simp] theorem execPwrPeak_gives (s : State) (hm : μ .regs = false ∧ μ .out = false) : Gives μ s (execPwrPeak s) :=
  by simp [execPwrPeak, hm]

/-- The mask names nothing that `noteReading` can change. -/
@[simp] abbrev Mask.AllowsNoteReading (μ : Mask) : Prop :=
  μ .regs = false ∧ μ .power = false ∧ μ .faults = false ∧ μ .mgmt = false ∧ μ .out = false

@[simp] theorem noteReading_spares (s : State) (r : SensorReading) (hm : μ.AllowsNoteReading) :
    Spares μ σ s (noteReading s r) := by
  refine .of ?_
  unfold noteReading
  split <;> simp [hm]

@[simp] theorem thermalDie_spares (rs : List SensorReading) (s : State) (d : Nat) (hm : μ.AllowsOffProgress) :
    Spares μ σ s (thermalDie rs s d) := .of <| by simp [thermalDie, hm]

/-- The mask names nothing that `thermalSample` can change. -/
@[simp] abbrev Mask.AllowsThermalSample (μ : Mask) : Prop :=
  μ .mem = false ∧ μ .poison = false ∧ μ .regs = false ∧ μ .cores = false ∧ μ .stackDies = false ∧ μ .hc = false ∧ μ .pA = false
  ∧ μ .pB = false ∧ μ .power = false ∧ μ .faults = false ∧ μ .mgmt = false ∧ μ .out = false

@[simp] theorem thermalSample_spares (rs : List SensorReading) (loads : List (BitVec 8 × BitVec 32)) (s : State)
    (hm : μ.AllowsThermalSample) : Spares μ σ s (thermalSample rs loads s) := by
  refine .of ?_
  unfold thermalSample
  split <;> simp [hm]

@[simp] theorem crossings_spares (before s : State) (hm : μ .mgmt = false ∧ μ .out = false) :
    Spares μ σ s (crossings before s) := .of <| by simp [crossings, hm]

@[simp] theorem execThermalSample_gives (readings : List SensorReading) (loads : List (BitVec 8 × BitVec 32)) (s : State)
    (hm : μ.AllowsThermalSample) : Gives μ s (execThermalSample readings loads s) := by simp [execThermalSample, hm]

@[simp] theorem execCoolantSample_gives (inlet outlet flow : BitVec 12) (held : Bool) (s : State) (hm : μ.AllowsNoteReading) :
    Gives μ s (execCoolantSample inlet outlet flow held s) := by
  unfold execCoolantSample
  extract_lets bad s1 note
  have h1 : Kept μ s s1 := (setReg_spares _ _ s hm.1).kept
  have hnote (b : Bool) (s : State) : Kept μ s (note b s) := by
    show Kept μ s (ledger _ _ _ _ _ _)
    simp [hm]
  (repeat' split) <;> simp [Spares.of (hnote ..), h1, hm]

@[simp] theorem grantPoints_spares (room : Nat) (l : List Nat) (s : State) (hm : μ .power = false) :
    Spares μ σ s (grantPoints room l s) := by
  induction l generalizing σ room s with
  | nil => exact .of <| by simp [grantPoints]
  | cons a l ih => exact .of <| by simp [grantPoints, ih, hm]

@[simp] theorem grantBoost_spares (s : State) (hm : μ .power = false) : Spares μ σ s (grantBoost s) :=
  .of <| by simp [grantBoost, hm]

@[simp] theorem execBoostPointChange_gives (core : BitVec 8) (s : State) (hm : μ .power = false) :
    Gives μ s (execBoostPointChange core s) := by simp [execBoostPointChange, hm]

end

end Sys2Proof.Machine
end

section
/-! The bell's discipline and the memory tiers spare what is to be left. -/

namespace Sys2Proof.Machine
open Sys2Proof

section
variable {μ : Mask} {σ : State}

/-! ### All the edge does but count, and discipline (R306 to R321) -/

@[simp] theorem latchReg_spares (r : RegRow) (d off : Nat) (s : State) (hm : μ .regs = false) :
    Spares μ σ s (latchReg r d off s) := .of <| by simp [latchReg, hm]

@[simp] theorem latchRow_spares (s : State) (r : RegRow) (hm : μ .regs = false) : Spares μ σ s (latchRow s r) := by
  refine .of ?_
  unfold latchRow
  split <;> simp [hm]

@[simp] theorem latchAll_spares (s : State) (hm : μ .regs = false) : Spares μ σ s (latchAll s) :=
  .of <| by simp [latchAll, hm]
@[simp] theorem putTimeouts_spares (n t t2 : Nat) (s : State) (hm : μ .regs = false) : Spares μ σ s (putTimeouts n t t2 s) :=
  .of <| by simp [putTimeouts, hm]
@[simp] theorem joinCore_spares (p : Nat) (s : State) (n : Nat) (hm : μ .regs = false ∧ μ .cores = false) :
    Spares μ σ s (joinCore p s n) := .of <| by simp [joinCore, hm]
@[simp] theorem leaveCore_spares (s : State) (n : Nat) (hm : μ.AllowsMoveProg) : Spares μ σ s (leaveCore s n) :=
  .of <| by simp [leaveCore, hm]
/-- The mask names nothing that `applyCores` can change. -/
@[simp] abbrev Mask.AllowsApplyCores (μ : Mask) : Prop :=
  μ .mem = false ∧ μ .poison = false ∧ μ .regs = false ∧ μ .cmds = false ∧ μ .parts = false ∧ μ .staged = false ∧
  μ .tallies = false ∧ μ .cores = false ∧ μ .progs = false ∧ μ .partSets = false ∧ μ .stackDies = false

@[simp] theorem applyCores_spares (p map : Nat) (s : State) (hm : μ.AllowsApplyCores) : Spares μ σ s (applyCores p map s) :=
  .of <| by simp [applyCores, hm]

/-- The mask names nothing that `applyItem` can change. -/
@[simp] abbrev Mask.AllowsApplyItem (μ : Mask) : Prop :=
  μ .mem = false ∧ μ .poison = false ∧ μ .regs = false ∧ μ .cmds = false ∧ μ .parts = false ∧ μ .staged = false ∧
  μ .tallies = false ∧ μ .waiters = false ∧ μ .cores = false ∧ μ .progs = false ∧ μ .partSets = false ∧ μ .stackDies = false

@[simp] theorem applyItem_spares (i : StagedItem) (s : State) (hm : μ.AllowsApplyItem) : Spares μ σ s (applyItem i s) := by
  refine .of ?_
  unfold applyItem
  split <;> simp [hm]

@[simp] theorem applyAllot_spares (i : StagedItem) (s : State) (hm : μ .cmds = false ∧ μ .ctxs = false) :
    Spares μ σ s (applyAllot i s) := by
  refine .of ?_
  unfold applyAllot
  split <;> simp [hm]

@[simp] theorem applyStaged_spares (s : State) : Spares .none σ s (applyStaged s) := .of <| by simp [applyStaged]

@[simp] theorem completeLoads_spares (s : State) (hm : μ.AllowsSetUnloadBody) : Spares μ σ s (completeLoads s) := by
  refine .of ?_
  unfold completeLoads
  refine foldl_kept _ (fun s x => ?_) _ _
  (repeat' split) <;> simp [hm]

@[simp] theorem edgeCtxs_spares (s : State) (hm : μ .ctxs = false) : Spares μ σ s (edgeCtxs s) :=
  .of <| by simp [edgeCtxs, hm]
@[simp] theorem setDiscipline_spares (st : Nat) (s : State)
    (hm : μ .regs = false ∧ μ .faults = false ∧ μ .mgmt = false ∧ μ .out = false) : Spares μ σ s (setDiscipline st s) :=
  .of <| by simp [setDiscipline, hm]
@[simp] theorem measureOffset_spares (s : State) (hm : μ .regs = false ∧ μ .faults = false ∧ μ .mgmt = false ∧ μ .out = false)
    : Spares μ σ s (measureOffset s) := .of <| by simp [measureOffset, hm]
@[simp] theorem strike_spares (s : State) : Spares μ σ s (strike s) := .of <| by simp [strike]

@[simp] theorem execLocalBalanceReset_gives (core : BitVec 8) (s : State) (hm : μ .ctxs = false) :
    Gives μ s (execLocalBalanceReset core s) := by simp [execLocalBalanceReset, hm]

@[simp] theorem execBellSourceValid_gives (source : BitVec 3) (s : State)
    (hm : μ .regs = false ∧ μ .faults = false ∧ μ .mgmt = false ∧ μ .out = false) : Gives μ s (execBellSourceValid source s) :=
  by
  unfold execBellSourceValid
  dsimp only
  split <;> simp [hm]

@[simp] theorem execBellLocked_gives (s : State) (hm : μ .regs = false ∧ μ .faults = false ∧ μ .mgmt = false ∧ μ .out = false) :
    Gives μ s (execBellLocked s) := by
  unfold execBellLocked
  split <;> simp [hm]

@[simp] theorem execBellHoldover_gives (s : State) (hm : μ .regs = false ∧ μ .faults = false ∧ μ .mgmt = false ∧ μ .out = false)
    : Gives μ s (execBellHoldover s) := by
  unfold execBellHoldover
  split <;> simp [hm]

@[simp] theorem execCtxPageStore_gives (ctx : BitVec 32) (off : BitVec 7) (bytes : BitVec 4) (value : BitVec 64) (s : State)
    (hm : μ .ctxs = false) : Gives μ s (execCtxPageStore ctx off bytes value s) := by
  unfold execCtxPageStore
  dsimp only
  split <;> simp [hm]

/-! ### Memory tiers (R361 to R389) -/

@[simp] theorem loadAnswer_spares (bs : List Byte) (fault : Bool) (s : State) (hm : μ .out = false) :
    Spares μ σ s (loadAnswer bs fault s) := .of <| by simp [loadAnswer, hm]

@[simp] theorem startSparing_spares (k c : Nat) (s : State) (hm : μ .regs = false ∧ μ .stackDies = false) :
    Spares μ σ s (startSparing k c s) := .of <| by simp [startSparing, hm]
/-- The mask names nothing that `repairRow` can change. -/
@[simp] abbrev Mask.AllowsRepairRow (μ : Mask) : Prop :=
  μ .regs = false ∧ μ .stackDies = false ∧ μ .faults = false ∧ μ .mgmt = false ∧ μ .out = false

@[simp] theorem repairRow_spares (k c row : Nat) (s : State) (hm : μ.AllowsRepairRow) : Spares μ σ s (repairRow k c row s) :=
  .of <| by simp [repairRow, hm]

/-- The mask names nothing that `stackError` can change. -/
@[simp] abbrev Mask.AllowsStackError (μ : Mask) : Prop :=
  μ .poison = false ∧ μ .regs = false ∧ μ .stackDies = false ∧ μ .faults = false ∧ μ .mgmt = false ∧ μ .out = false

@[simp] theorem stackError_spares (k sec : Nat) (uncorr : Bool) (s : State) (hm : μ.AllowsStackError) :
    Spares μ σ s (stackError k sec uncorr s) := .of <| by simp [stackError, hm]

@[simp] theorem execStackScrub_gives (stack : BitVec 4) (found : List (BitVec 31 × Bool)) (s : State) (hm : μ.AllowsStackError)
    : Gives μ s (execStackScrub stack found s) := by
  unfold execStackScrub
  dsimp only
  split <;> simp [hm]

@[simp] theorem execChannelSpareDone_gives (stack : BitVec 4) (s : State) (hm : μ.AllowsRepairRow) :
    Gives μ s (execChannelSpareDone stack s) := by
  unfold execChannelSpareDone
  dsimp only
  (repeat' split) <;> simp [hm]

@[simp] theorem execChannelFail_gives (stack channel : BitVec 4) (s : State) (hm : μ.AllowsRepairRow) :
    Gives μ s (execChannelFail stack channel s) := by
  unfold execChannelFail
  dsimp only
  (repeat' split) <;> simp [hm]

@[simp] theorem fenceStack_spares (k : Nat) (s : State)
    (hm : μ .regs = false ∧ μ .faults = false ∧ μ .mgmt = false ∧ μ .out = false) : Spares μ σ s (fenceStack k s) :=
  .of <| by simp [fenceStack, hm]

@[simp] theorem execStackFence_gives (stack : BitVec 4) (s : State)
    (hm : μ .regs = false ∧ μ .faults = false ∧ μ .mgmt = false ∧ μ .out = false) : Gives μ s (execStackFence stack s) :=
  by simp [execStackFence, hm]

@[simp] theorem execStackReady_gives (stack : BitVec 4) (s : State) : Gives .none s (execStackReady stack s) := by
  unfold execStackReady
  dsimp only
  split <;> simp

/-- The mask names nothing that `ddrReset` can change. -/
@[simp] abbrev Mask.AllowsDdrReset (μ : Mask) : Prop :=
  μ .mem = false ∧ μ .poison = false ∧ μ .regs = false ∧ μ .faults = false ∧ μ .mgmt = false ∧ μ .out = false

@[simp] theorem ddrReset_spares (s : State) (hm : μ.AllowsDdrReset) : Spares μ σ s (ddrReset s) :=
  .of <| by simp [ddrReset, hm]
@[simp] theorem execDdrControllerReset_gives (s : State) (hm : μ.AllowsDdrReset) : Gives μ s (execDdrControllerReset s) :=
  by simp [execDdrControllerReset, hm]

@[simp] theorem execDdrReady_gives (speed : Bool) (s : State) : Gives .none s (execDdrReady speed s) := by
  unfold execDdrReady
  dsimp only
  split <;> simp

@[simp] theorem execDdrRepair_gives (channel : BitVec 3) (row : BitVec 48) (hard : Bool) (s : State)
    (hm : μ .regs = false ∧ μ .faults = false ∧ μ .mgmt = false ∧ μ .out = false) :
    Gives μ s (execDdrRepair channel row hard s) := by simp [execDdrRepair, hm]

@[simp] theorem execCellarWindowAccess_gives (addr : BitVec 48) (write : Option (BitVec 64)) (s : State)
    (hm : μ .cellar = false ∧ μ .cellarPoison = false ∧ μ .wbuf = false ∧ μ .out = false) :
    Gives μ s (execCellarWindowAccess addr write s) := by
  unfold execCellarWindowAccess
  dsimp only
  (repeat' split) <;> simp [hm]

@[simp] theorem poisonVolTile_spares (v i : Nat) (s : State) (hm : μ .cellarPoison = false) :
    Spares μ σ s (poisonVolTile v i s) := .of <| by simp [poisonVolTile, hm]

/-- The mask names nothing that `execSlowChunkRead` can change. -/
@[simp] abbrev Mask.AllowsExecSlowChunkRead (μ : Mask) : Prop :=
  μ .cellarPoison = false ∧ μ .regs = false ∧ μ .faults = false ∧ μ .mgmt = false ∧ μ .out = false

@[simp] theorem execSlowChunkRead_gives (volume : BitVec 8) (tile : BitVec 48) (good : BitVec 4) (s : State)
    (hm : μ.AllowsExecSlowChunkRead) : Gives μ s (execSlowChunkRead volume tile good s) := by
  unfold execSlowChunkRead
  dsimp only
  split <;> simp [hm]

@[simp] theorem wearStick_spares (b : Nat) (s : State) (hm : μ .regs = false) : Spares μ σ s (wearStick b s) :=
  .of <| by simp [wearStick, hm]

@[simp] theorem execReadDisturbRelocate_gives (bay : BitVec 3) (_block : BitVec 32) (s : State) (hm : μ .regs = false) :
    Gives μ s (execReadDisturbRelocate bay _block s) := by
  unfold execReadDisturbRelocate
  split <;> simp [hm]

@[simp] theorem execRetentionRewrite_gives (bay : BitVec 3) (_block : BitVec 32) (s : State) (hm : μ .regs = false) :
    Gives μ s (execRetentionRewrite bay _block s) := by
  unfold execRetentionRewrite
  split <;> simp [hm]

@[simp] theorem showCellar_spares (s : State) (hm : μ .regs = false ∧ μ .tray = false) : Spares μ σ s (showCellar s) :=
  .of <| by simp [showCellar, hm]
@[simp] theorem setBay_spares (b st : Nat) (s : State) (hm : μ.AllowsModuleCycle) : Spares μ σ s (setBay b st s) :=
  .of <| by simp [setBay, hm]
@[simp] theorem showStick_spares (b : Nat) (s : State) (hm : μ .regs = false) : Spares μ σ s (showStick b s) :=
  .of <| by simp [showStick, hm]

@[simp] theorem execBadBlockRetire_gives (bay : BitVec 3) (_block : BitVec 32) (sparePct : BitVec 8) (s : State)
    (hm : μ.AllowsModuleCycle) : Gives μ s (execBadBlockRetire bay _block sparePct s) := by
  unfold execBadBlockRetire
  dsimp only
  (repeat' split) <;> simp [hm]

@[simp] theorem execStickInsert_gives (bay : BitVec 3) (kind : StickKind) (s : State) (hm : μ.AllowsModuleCycle) :
    Gives μ s (execStickInsert bay kind s) := by
  unfold execStickInsert
  dsimp only
  (repeat' split) <;> simp [hm]

@[simp] theorem execStickRemove_gives (bay : BitVec 3) (s : State) (hm : μ.AllowsModuleCycle) :
    Gives μ s (execStickRemove bay s) := by
  unfold execStickRemove
  dsimp only
  split <;> simp [hm]

@[simp] theorem execRebuildComplete_gives (bay : BitVec 3) (s : State) (hm : μ.AllowsModuleCycle) :
    Gives μ s (execRebuildComplete bay s) := by
  unfold execRebuildComplete
  dsimp only
  split <;> simp [hm]

@[simp] theorem adoptBays_spares (bays : Nat) (s : State) (hm : μ.AllowsModuleCycle) : Spares μ σ s (adoptBays bays s) :=
  .of <| by simp [adoptBays, hm]
@[simp] theorem execAdopt_gives (bays : BitVec 8) (s : State) (hm : μ.AllowsModuleCycle) : Gives μ s (execAdopt bays s) :=
  by simp [execAdopt, hm]

@[simp] theorem execStickFailure_gives (bay : BitVec 3) (s : State) (hm : μ.AllowsModuleCycle) :
    Gives μ s (execStickFailure bay s) := by
  unfold execStickFailure
  dsimp only
  split <;> simp [hm]

@[simp] theorem failOwner_spares (f : Fail) (c : CmdRef) (s : State) : Spares .none σ s (failOwner f c s) := by
  refine .of ?_
  unfold failOwner
  split <;> simp

@[simp] theorem failBarrier_spares (f : Fail) (b : Barrier) (s : State) : Spares .none σ s (failBarrier f b s) := by
  refine .of ?_
  unfold failBarrier
  split <;> simp

@[simp] theorem failWaiting_spares (t : StoreTarget) (f : Fail) (b : Barrier) (s : State) (hm : μ .cmds = false) :
    Spares μ σ s (failWaiting t f b s) := by
  refine .of ?_
  unfold failWaiting
  split <;> simp [hm]

@[simp] theorem storeFailed_spares (t : StoreTarget) (a agent engine : Nat) (b : Barrier) (s : State) :
    Spares .none σ s (storeFailed t a agent engine b s) := .of <| by simp [storeFailed]

@[simp] theorem execStoreDeclaredFailed_gives (target : StoreTarget) (addr : BitVec 64) (agent : BitVec 16) (engine : BitVec 2)
    (barrier : Barrier) (s : State) : Gives .none s (execStoreDeclaredFailed target addr agent engine barrier s) :=
  by simp [execStoreDeclaredFailed]

@[simp] theorem poisonedData_spares (o : Barrier) (slot : Nat) (src : Place) (s : State) :
    Spares .none σ s (poisonedData o slot src s) := by
  refine .of ?_
  unfold poisonedData
  dsimp only
  split <;> simp

end

end Sys2Proof.Machine
end

section
/-! Dies, guests and external hosts spare what is to be left. -/

namespace Sys2Proof.Machine
open Sys2Proof

section
variable {μ : Mask} {σ : State}

/-! ### Die links (R490 to R494) -/

@[simp] theorem execBeat_gives (link : BitVec 6) (s : State) (hm : μ .out = false) : Gives μ s (execBeat link s) := by
  unfold execBeat
  dsimp only
  split <;> simp [hm]

@[simp] theorem execDieLinkRepair_gives (link : BitVec 6) (lane : BitVec 8) (dropped : Bool) (s : State)
    (hm : μ .regs = false ∧ μ .faults = false ∧ μ .mgmt = false ∧ μ .out = false) :
    Gives μ s (execDieLinkRepair link lane dropped s) := by
  unfold execDieLinkRepair
  dsimp only
  split <;> simp [hm]

@[simp] theorem dropFromDirs_spares (a : Nat) (s : State) (hm : μ .hc = false) : Spares μ σ s (dropFromDirs a s) :=
  .of <| by simp [dropFromDirs, hm]

@[simp] theorem loseAgent_spares (a : Nat) (s : State) (hm : μ.AllowsBaseAtomic) : Spares μ σ s (loseAgent a s) := by
  refine .of ?_
  unfold loseAgent
  extract_lets s1 hc1 s2 s3 hc3 s4
  have h4 : Kept μ s s4 := by simp [s4, hc3, s3, s2, hc1, s1, hm]
  refine Kept.trans (h4.trans ?_) (pump_spares _ (by simp [hm])).kept
  refine foldl_kept _ (fun s m => ?_) _ _
  split <;> simp [hm]

@[simp] theorem fenceCoreState_spares (n : Nat) (s : State) (hm : μ .cores = false ∧ μ .power = false) :
    Spares μ σ s (fenceCoreState n s) := .of <| by simp [fenceCoreState, hm]

/-! ### Guest sites (R495 to R499) -/

@[simp] theorem setSite_spares (g st : Nat) (s : State) (hm : μ .regs = false) : Spares μ σ s (setSite g st s) :=
  .of <| by simp [setSite, hm]
@[simp] theorem showLinks_spares (g : Nat) (s : State) (hm : μ .regs = false) : Spares μ σ s (showLinks g s) :=
  .of <| by simp [showLinks, hm]
@[simp] theorem noteSite_spares (g1 : Bool) (was : Nat) (s : State) (hm : μ .regs = false) :
    Spares μ σ s (noteSite g1 was s) := .of <| by simp [noteSite, hm]

@[simp] theorem acceptCap_spares (g1 : Bool) (c : GuestCap) (s : State) : Spares .none σ s (acceptCap g1 c s) :=
  .of <| by simp [acceptCap]

@[simp] theorem execCap_gives (g1 : Bool) (r : GuestCap) (s : State) : Gives .none s (execCap g1 r s) := by
  unfold execCap
  dsimp only
  split <;> simp

@[simp] theorem guestAccept_spares (g1 : Bool) (s : State) : Spares .none σ s (guestAccept g1 s) := by
  refine .of ?_
  unfold guestAccept
  split <;> simp

@[simp] theorem execGuestAccept_gives (g1 : Bool) (s : State) : Gives .none s (execGuestAccept g1 s) :=
  by simp [execGuestAccept]
@[simp] theorem stopSite_spares (g1 : Bool) (s : State) : Spares .none σ s (stopSite g1 s) := .of <| by simp [stopSite]
@[simp] theorem guestFence_spares (g1 : Bool) (s : State) : Spares .none σ s (guestFence g1 s) := .of <| by simp [guestFence]

@[simp] theorem execGuestSnoopTimeout_gives (g1 : Bool) (addr : BitVec 48) (s : State) :
    Gives .none s (execGuestSnoopTimeout g1 addr s) := by
  unfold execGuestSnoopTimeout
  split <;> simp

@[simp] theorem guestReset_spares (g1 : Bool) (s : State) : Spares .none σ s (guestReset g1 s) := by
  refine .of ?_
  unfold guestReset
  dsimp only
  (repeat' split) <;> simp

@[simp] theorem execGuestReset_gives (g1 : Bool) (s : State) : Gives .none s (execGuestReset g1 s) := by simp [execGuestReset]
@[simp] theorem guestEnable_spares (g1 on : Bool) (s : State) : Spares .none σ s (guestEnable g1 on s) :=
  .of <| by simp [guestEnable]

@[simp] theorem execGuestResponse_gives (g1 : Bool) (tag : BitVec 12) (r : GuestRsp) (s : State) :
    Gives .none s (execGuestResponse g1 tag r s) := by
  unfold execGuestResponse
  dsimp only
  (repeat' split) <;> simp

@[simp] theorem guestRefuse_spares (g1 : Bool) (tag : BitVec 12) (addr reason : Nat) (s : State)
    (hm : μ .regs = false ∧ μ .out = false) : Spares μ σ s (guestRefuse g1 tag addr reason s) :=
  .of <| by simp [guestRefuse, hm]

theorem guestRequest_kept (g1 : Bool) (tag : BitVec 12) (a n rights : Nat) (write : Bool) (held : HeldAccess)
    (act : Place → State → State) (s : State) (hact : ∀ x s, Kept μ s (act x s))
    (hm : μ .regs = false ∧ μ .cores = false ∧ μ .out = false) : Kept μ s (guestRequest g1 tag a n rights write held act s) :=
  by
  unfold guestRequest
  (repeat' split) <;> simp [Spares.of (hact ..), hm]

@[simp] theorem guestRequest_spares (g1 : Bool) (tag : BitVec 12) (a n rights : Nat) (write : Bool) (held : HeldAccess)
    (act : Place → State → State) (s : State) (hact : ∀ x s, Kept μ s (act x s))
    (hm : μ .regs = false ∧ μ .cores = false ∧ μ .out = false) :
    Spares μ σ s (guestRequest g1 tag a n rights write held act s) :=
  .of (guestRequest_kept g1 tag a n rights write held act s hact hm)

@[simp] theorem execGuestRead_gives (g1 : Bool) (tag : BitVec 12) (addr : BitVec 48) (sectors : BitVec 7) (s : State)
    (hm : μ .regs = false ∧ μ .cores = false ∧ μ .out = false) : Gives μ s (execGuestRead g1 tag addr sectors s) :=
  by simp [execGuestRead, hm]

@[simp] theorem poisonPlace_spares (pl : Place) (n : Nat) (s : State) (hm : μ .poison = false) :
    Spares μ σ s (poisonPlace pl n s) := by
  refine .of ?_
  unfold poisonPlace
  split <;> simp [hm]

/-- The mask names nothing that `execGuestWrite` can change. -/
@[simp] abbrev Mask.AllowsExecGuestWrite (μ : Mask) : Prop :=
  μ .mem = false ∧ μ .poison = false ∧ μ .cellar = false ∧ μ .cellarPoison = false ∧ μ .regs = false ∧ μ .cores = false ∧
  μ .stackDies = false ∧ μ .fab = false ∧ μ .g0 = false ∧ μ .g1 = false ∧ μ .out = false

@[simp] theorem execGuestWrite_gives (g1 : Bool) (tag : BitVec 12) (addr : BitVec 48) (bytes : List (BitVec 8)) (poison : Bool)
    (s : State) (hm : μ.AllowsExecGuestWrite) : Gives μ s (execGuestWrite g1 tag addr bytes poison s) :=
  by simp [execGuestWrite, hm]

@[simp] theorem execGuestAtomic_gives (g1 : Bool) (tag : BitVec 12) (addr : BitVec 48) (req : AtomicReq) (s : State)
    (hm : μ.AllowsExecGuestWrite) : Gives μ s (execGuestAtomic g1 tag addr req s) := by simp [execGuestAtomic, hm]

@[simp] theorem execGuestTallyOp_gives (g1 : Bool) (tag : BitVec 12) (op : TallyOpKind) (t : TallyRef) (n : BitVec 64)
    (s : State) : Gives .none s (execGuestTallyOp g1 tag op t n s) := by
  unfold execGuestTallyOp
  dsimp only
  (repeat' split) <;> simp

@[simp] theorem execGuestIrq_gives (g1 : Bool) (tag : BitVec 12) (vector : BitVec 16) (s : State) (hm : μ.AllowsRaiseIrq) :
    Gives μ s (execGuestIrq g1 tag vector s) := by
  unfold execGuestIrq
  dsimp only
  (repeat' split) <;> simp [hm]

/-! ### External-host ports (R504 to R517) -/

@[simp] theorem setExtState_spares (b : Bool) (st : Nat) (s : State) (hm : μ .regs = false) :
    Spares μ σ s (setExtState b st s) := .of <| by simp [setExtState, hm]

@[simp] theorem enableFunction_spares (b on : Bool) (s : State) (hm : μ .regs = false ∧ μ .pA = false ∧ μ .pB = false) :
    Spares μ σ s (enableFunction b on s) := .of <| by simp [enableFunction, hm]

@[simp] theorem execExtLinkUp_gives (portB : Bool) (gen : BitVec 4) (width : BitVec 5) (s : State)
    (hm : μ .regs = false ∧ μ .pA = false ∧ μ .pB = false) : Gives μ s (execExtLinkUp portB gen width s) := by
  unfold execExtLinkUp
  dsimp only
  (repeat' split) <;> simp [hm]

@[simp] theorem resetFunction_spares (b : Bool) (s : State) (hm : μ .regs = false ∧ μ .pA = false ∧ μ .pB = false) :
    Spares μ σ s (resetFunction b s) := .of <| by simp [resetFunction, hm]

@[simp] theorem execExtHoldBegin_gives (portB : Bool) (cause : HoldCause) (s : State)
    (hm : μ .regs = false ∧ μ .pA = false ∧ μ .pB = false) : Gives μ s (execExtHoldBegin portB cause s) := by
  unfold execExtHoldBegin
  (repeat' split) <;> simp [hm]

@[simp] theorem stopHolding_spares (b : Bool) (s : State) (hm : μ .regs = false ∧ μ .pA = false ∧ μ .pB = false) :
    Spares μ σ s (stopHolding b s) := .of <| by simp [stopHolding, hm]
@[simp] theorem tryRelease_spares (b : Bool) (s : State) : Spares .none σ s (tryRelease b s) := .of <| by simp [tryRelease]

@[simp] theorem execExtHoldEnd_gives (portB l0 bme : Bool) (s : State) : Gives .none s (execExtHoldEnd portB l0 bme s) :=
  by simp [execExtHoldEnd]

@[simp] theorem resumePort_spares (b : Bool) (s : State) : Spares .none σ s (resumePort b s) := .of <| by simp [resumePort]
@[simp] theorem execResume_gives (portB : Bool) (s : State) : Gives .none s (execResume portB s) := by simp [execResume]

@[simp] theorem loseQueue_spares (held : List ExtWrite) (q : Nat) (s : State) (hm : μ.AllowsQueueStop) :
    Spares μ σ s (loseQueue held q s) := .of <| by simp [loseQueue, hm]

@[simp] theorem execExtHoldExpiry_gives (portB : Bool) (s : State) : Gives .none s (execExtHoldExpiry portB s) := by
  unfold execExtHoldExpiry
  extract_lets p writes s1 p1 s2 s3 s4
  have h4 : Kept .none s s4 := by simp [s4, s3, s2, s1]
  split
  · simp
  · split <;> simp [h4]

@[simp] theorem execMsixUnmask_gives (portB : Bool) (entry : BitVec 11) (s : State)
    (hm : μ .regs = false ∧ μ .pA = false ∧ μ .pB = false ∧ μ .out = false) : Gives μ s (execMsixUnmask portB entry s) :=
  by simp [execMsixUnmask, hm]

@[simp] theorem outsideWrite_spares (cls a : Nat) (bs : List Byte) (s : State) : Spares .none σ s (outsideWrite cls a bs s) :=
  by
  refine .of ?_
  unfold outsideWrite
  dsimp only
  (repeat' split) <;> simp

@[simp] theorem execBar4Write_gives (portB : Bool) (off : BitVec 48) (bytes : List (BitVec 8)) (s : State) :
    Gives .none s (execBar4Write portB off bytes s) := by
  unfold execBar4Write
  (repeat' split) <;> simp

@[simp] theorem execBar4Read_gives (portB : Bool) (off : BitVec 48) (len : BitVec 13) (s : State)
    (hm : μ .regs = false ∧ μ .cores = false ∧ μ .out = false) : Gives μ s (execBar4Read portB off len s) := by
  unfold execBar4Read
  dsimp only
  (repeat' split) <;> simp [hm]

@[simp] theorem deviceMsi_spares (hart : Nat) (bs : List Byte) (s : State) (hm : μ .regs = false ∧ μ .hc = false) :
    Spares μ σ s (deviceMsi hart bs s) := .of <| by simp [deviceMsi, hm]

@[simp] theorem execRootDeviceDma_gives (portB : Bool) (addr : BitVec 48) (write : Option (List (BitVec 8))) (len : BitVec 13)
    (iommuOk : Bool) (s : State) : Gives .none s (execRootDeviceDma portB addr write len iommuOk s) := by
  unfold execRootDeviceDma
  dsimp only
  (repeat' split) <;> simp

@[simp] theorem execRootSnoopTimeout_gives (portB : Bool) (s : State) : Gives .none s (execRootSnoopTimeout portB s) := by
  unfold execRootSnoopTimeout
  dsimp only
  split <;> simp

/-! ### A lost compute die (R500, R501) -/

@[simp] theorem sitesSilent_spares (s : State) : Spares .none σ s (sitesSilent s) := .of <| by simp [sitesSilent]
@[simp] theorem dieFence_spares (d : Nat) (s : State) : Spares .none σ s (dieFence d s) := .of <| by simp [dieFence]

@[simp] theorem returnCore_spares (n : Nat) (s : State) (hm : μ .regs = false ∧ μ .cores = false) :
    Spares μ σ s (returnCore n s) := by
  refine .of ?_
  unfold returnCore
  dsimp only
  (repeat' split) <;> simp [hm]

@[simp] theorem execDieReturn_gives (die : BitVec 2) (s : State) : Gives .none s (execDieReturn die s) := by
  unfold execDieReturn
  dsimp only
  split <;> simp

end

end Sys2Proof.Machine
end

section
/-! The fabric below its messages, outages short of main power, and the boot store spare what is to be left. -/

namespace Sys2Proof.Machine
open Sys2Proof

section
variable {μ : Mask} {σ : State}

/-! ### Flits, links and routes (R465 to R483) -/

@[simp] theorem setPortState_spares (p st : Nat) (s : State) (hm : μ .regs = false) : Spares μ σ s (setPortState p st s) :=
  .of <| by simp [setPortState, hm]
@[simp] theorem sendWaiting_spares (s : State) (hm : μ .fab = false ∧ μ .out = false) : Spares μ σ s (sendWaiting s) :=
  .of <| by simp [sendWaiting, hm]
@[simp] theorem failReq_spares (f : Fail) (r : OutReq) (s : State) : Spares .none σ s (failReq f r s) :=
  .of <| by simp [failReq]

@[simp] theorem runsLost_spares (m : Nat) (s : State) (hm : μ.AllowsReap) : Spares μ σ s (runsLost m s) := by
  refine .of ?_
  unfold runsLost
  refine foldl_kept _ (fun s x => ?_) _ _
  (repeat' split) <;> simp [hm]

@[simp] theorem freeColl_spares (root coll : Nat) (s : State) (hm : μ .fab = false) : Spares μ σ s (freeColl root coll s) :=
  .of <| by simp [freeColl, hm]

@[simp] theorem abortColl_spares (d : CollDesc) (f : Fail) (gone : List Nat) (s : State) :
    Spares .none σ s (abortColl d f gone s) := .of <| by simp [abortColl]

@[simp] theorem collsLost_spares (m : Nat) (s : State) : Spares .none σ s (collsLost m s) := .of <| by simp [collsLost]
@[simp] theorem declareLost_spares (m : Nat) (s : State) : Spares .none σ s (declareLost m s) := .of <| by simp [declareLost]

@[simp] theorem execLinkTimeout_gives (dest : BitVec 16) (cls : BitVec 2) (s : State) :
    Gives .none s (execLinkTimeout dest cls s) := by simp [execLinkTimeout]

@[simp] theorem retransmit_spares (pick : OutReq → Bool) (s : State) (hm : μ .regs = false ∧ μ .fab = false ∧ μ .out = false)
    : Spares μ σ s (retransmit pick s) := .of <| by simp [retransmit, hm]

@[simp] theorem execE2eRetransmit_gives (dest : BitVec 16) (cls : BitVec 2) (s : State)
    (hm : μ .regs = false ∧ μ .fab = false ∧ μ .out = false) : Gives μ s (execE2eRetransmit dest cls s) :=
  by simp [execE2eRetransmit, hm]

@[simp] theorem flood_spares (l : Lsr) (s : State) (hm : μ .out = false) : Spares μ σ s (flood l s) :=
  .of <| by simp [flood, hm]
@[simp] theorem recomputing_spares (s : State) (hm : μ .regs = false) : Spares μ σ s (recomputing s) :=
  .of <| by simp [recomputing, hm]
@[simp] theorem floodOwn_spares (s : State) (hm : μ .fab = false ∧ μ .out = false) : Spares μ σ s (floodOwn s) :=
  .of <| by simp [floodOwn, hm]
@[simp] theorem execLsrRefresh_gives (s : State) (hm : μ .fab = false ∧ μ .out = false) : Gives μ s (execLsrRefresh s) :=
  by simp [execLsrRefresh, hm]
@[simp] theorem keepLsr_spares (l : Lsr) (s : State)
    (hm : μ .regs = false ∧ μ .progs = false ∧ μ .fab = false ∧ μ .out = false) : Spares μ σ s (keepLsr l s) :=
  .of <| by simp [keepLsr, hm]

@[simp] theorem execLsr_gives (l : Lsr) (s : State) (hm : μ.AllowsDecideCommit) : Gives μ s (execLsr l s) := by
  unfold execLsr
  dsimp only
  (repeat' split) <;> simp [hm]

@[simp] theorem execLsrExpiry_gives (origin : BitVec 16) (s : State) (hm : μ .regs = false ∧ μ .fab = false) :
    Gives μ s (execLsrExpiry origin s) := by simp [execLsrExpiry, hm]

@[simp] theorem releaseHeld_spares (s : State) (hm : μ .fab = false ∧ μ .out = false) : Spares μ σ s (releaseHeld s) :=
  .of <| by simp [releaseHeld, hm]
@[simp] theorem routeCompute_spares (s : State) : Spares .none σ s (routeCompute s) := .of <| by simp [routeCompute]
@[simp] theorem execRouteCompute_gives (s : State) : Gives .none s (execRouteCompute s) := by simp [execRouteCompute]
@[simp] theorem writeRoute_spares (m v : Nat) (s : State) (hm : μ .regs = false ∧ μ .fab = false ∧ μ .out = false) :
    Spares μ σ s (writeRoute m v s) := .of <| by simp [writeRoute, hm]

@[simp] theorem execFabRouteData_gives (_w : Agent) (value : BitVec 64) (s : State)
    (hm : μ .regs = false ∧ μ .fab = false ∧ μ .out = false) : Gives μ s (execFabRouteData _w value s) :=
  by simp [execFabRouteData, hm]

@[simp] theorem leaveUp_spares (p : Nat) (s : State) (hm : μ .regs = false ∧ μ .fab = false ∧ μ .out = false) :
    Spares μ σ s (leaveUp p s) := .of <| by simp [leaveUp, hm]

@[simp] theorem execPortTrain_gives (port : BitVec 3) (peer : PeerInfo) (s : State) (hm : μ .regs = false ∧ μ .fab = false) :
    Gives μ s (execPortTrain port peer s) := by
  unfold execPortTrain
  dsimp only
  split <;> simp [hm]

@[simp] theorem portFault_spares (p code : Nat) (s : State) (hm : μ .regs = false) : Spares μ σ s (portFault p code s) :=
  .of <| by simp [portFault, hm]

@[simp] theorem portRise_spares (p : Nat) (i : PeerInfo) (fresh : Bool) (s : State)
    (hm : μ .regs = false ∧ μ .fab = false ∧ μ .faults = false ∧ μ .out = false) : Spares μ σ s (portRise p i fresh s) :=
  .of <| by simp [portRise, hm]

@[simp] theorem execTrainingComplete_gives (port : BitVec 3) (s : State)
    (hm : μ .regs = false ∧ μ .fab = false ∧ μ .faults = false ∧ μ .out = false) : Gives μ s (execTrainingComplete port s) := by
  unfold execTrainingComplete
  dsimp only
  (repeat' split) <;> simp [hm]

@[simp] theorem portRetrain_spares (p good : Nat) (s : State) (hm : μ .regs = false ∧ μ .fab = false ∧ μ .out = false) :
    Spares μ σ s (portRetrain p good s) := .of <| by simp [portRetrain, hm]

@[simp] theorem execPortRetrain_gives (port : BitVec 3) (goodLanes : BitVec 9) (s : State)
    (hm : μ .regs = false ∧ μ .fab = false ∧ μ .out = false) : Gives μ s (execPortRetrain port goodLanes s) :=
  by simp [execPortRetrain, hm]

/-- The mask names nothing that `execLaneSwap` can change. -/
@[simp] abbrev Mask.AllowsExecLaneSwap (μ : Mask) : Prop :=
  μ .regs = false ∧ μ .fab = false ∧ μ .faults = false ∧ μ .mgmt = false ∧ μ .out = false

@[simp] theorem execLaneSwap_gives (port : BitVec 3) (lane : BitVec 4) (s : State) (hm : μ.AllowsExecLaneSwap) :
    Gives μ s (execLaneSwap port lane s) := by
  unfold execLaneSwap
  dsimp only
  (repeat' split) <;> simp [hm]

@[simp] theorem enablePort_spares (p : Nat) (on : Bool) (s : State) (hm : μ .regs = false ∧ μ .fab = false ∧ μ .out = false) :
    Spares μ σ s (enablePort p on s) := .of <| by simp [enablePort, hm]
@[simp] theorem retrainIf_spares (b : Bool) (p : Nat) (s : State) (hm : μ .regs = false ∧ μ .fab = false ∧ μ .out = false) :
    Spares μ σ s (retrainIf b p s) := .of <| by simp [retrainIf, hm]
@[simp] theorem replayFrom_spares (p q : Nat) (s : State) (hm : μ .regs = false ∧ μ .fab = false ∧ μ .out = false) :
    Spares μ σ s (replayFrom p q s) := .of <| by simp [replayFrom, hm]

@[simp] theorem execFlitNak_gives (port : BitVec 3) (seq : BitVec 12) (s : State)
    (hm : μ .regs = false ∧ μ .fab = false ∧ μ .out = false) : Gives μ s (execFlitNak port seq s) := by simp [execFlitNak, hm]

@[simp] theorem flitPayload_spares (p w0 : Nat) (payload : List Byte) (s : State) (hm : μ .regs = false ∧ μ .fab = false) :
    Spares μ σ s (flitPayload p w0 payload s) := .of <| by simp [flitPayload, hm]

@[simp] theorem flitAcks_spares (p ackw credits : Nat) (s : State) (hm : μ .regs = false ∧ μ .fab = false ∧ μ .out = false) :
    Spares μ σ s (flitAcks p ackw credits s) := .of <| by simp [flitAcks, hm]

@[simp] theorem badFlit_spares (p : Nat) (s : State) (hm : μ .regs = false ∧ μ .fab = false ∧ μ .out = false) :
    Spares μ σ s (badFlit p s) := .of <| by simp [badFlit, hm]

@[simp] theorem flitReceive_spares (p : Nat) (flit : List Byte) (corrected : Nat) (s : State)
    (hm : μ .regs = false ∧ μ .fab = false ∧ μ .out = false) : Spares μ σ s (flitReceive p flit corrected s) :=
  .of <| by simp [flitReceive, hm]

@[simp] theorem execFlitReceive_gives (port : BitVec 3) (flit : BitVec 2048) (corrected : BitVec 16) (s : State)
    (hm : μ .regs = false ∧ μ .fab = false ∧ μ .out = false) : Gives μ s (execFlitReceive port flit corrected s) :=
  by simp [execFlitReceive, hm]

/-! ### Fences and the Warden (R556) -/

/-- The mask names nothing that `setRstate` can change. -/
@[simp] abbrev Mask.AllowsSetRstate (μ : Mask) : Prop :=
  μ .regs = false ∧ μ .hc = false ∧ μ .pA = false ∧ μ .pB = false ∧ μ .mgmt = false ∧ μ .tray = false ∧ μ .out = false

@[simp] theorem setRstate_spares (v : Nat) (s : State) (hm : μ.AllowsSetRstate) : Spares μ σ s (setRstate v s) :=
  .of <| by simp [setRstate, hm]
@[simp] theorem setCause_spares (c : Nat) (s : State) (hm : μ .regs = false) : Spares μ σ s (setCause c s) :=
  .of <| by simp [setCause, hm]
@[simp] theorem quiesceQueues_spares (s : State) (hm : μ .queues = false) : Spares μ σ s (quiesceQueues s) :=
  .of <| by simp [quiesceQueues, hm]
@[simp] theorem resumeQuiesce_spares (s : State) (hm : μ .queues = false) : Spares μ σ s (resumeQuiesce s) :=
  .of <| by simp [resumeQuiesce, hm]
/-- The mask names nothing that `beginQuiesce` can change. -/
@[simp] abbrev Mask.AllowsBeginQuiesce (μ : Mask) : Prop :=
  μ .regs = false ∧ μ .queues = false ∧ μ .hc = false ∧ μ .pA = false ∧ μ .pB = false ∧ μ .mgmt = false ∧ μ .tray = false ∧
  μ .out = false

@[simp] theorem beginQuiesce_spares (s : State) (hm : μ.AllowsBeginQuiesce) : Spares μ σ s (beginQuiesce s) :=
  .of <| by simp [beginQuiesce, hm]

@[simp] theorem execCageOvercurrent_gives (port : BitVec 3) (s : State) (hm : μ .regs = false ∧ μ .fab = false ∧ μ .out = false)
    : Gives μ s (execCageOvercurrent port s) := by
  unfold execCageOvercurrent
  dsimp only
  split <;> simp [hm]

@[simp] theorem coreFence_spares (n : Nat) (s : State) : Spares .none σ s (coreFence n s) := .of <| by simp [coreFence]
@[simp] theorem plainFence_spares (dom idx : Nat) (s : State) (hm : μ .faults = false) :
    Spares μ σ s (plainFence dom idx s) := .of <| by simp [plainFence, hm]
@[simp] theorem portFence_spares (p : Nat) (s : State)
    (hm : μ .regs = false ∧ μ .fab = false ∧ μ .faults = false ∧ μ .out = false) : Spares μ σ s (portFence p s) :=
  .of <| by simp [portFence, hm]

@[simp] theorem fenceDomain_spares (d : DomainRef) (s : State) : Spares .none σ s (fenceDomain d s) := by
  refine .of ?_
  unfold fenceDomain
  split <;> simp

@[simp] theorem answerRest_spares (d : DomainRef) (s : State) : Spares .none σ s (answerRest d s) := by
  refine .of ?_
  unfold answerRest
  split <;> simp

@[simp] theorem drainExpiry_spares (d : DomainRef) (answered discarded : Nat) (s : State) :
    Spares .none σ s (drainExpiry d answered discarded s) := .of <| by simp [drainExpiry]

@[simp] theorem execDrainLimitExpiry_gives (d : DomainRef) (answered discarded : BitVec 32) (s : State) :
    Gives .none s (execDrainLimitExpiry d answered discarded s) := by simp [execDrainLimitExpiry]

@[simp] theorem execHeartbeat_gives (s : State) (hm : μ .regs = false ∧ μ .faults = false) : Gives μ s (execHeartbeat s) :=
  by simp [execHeartbeat, hm]
@[simp] theorem noteBeat_spares (k v : Nat) (on : Bool) (s : State) (hm : μ .faults = false) :
    Spares μ σ s (noteBeat k v on s) := .of <| by simp [noteBeat, hm]
@[simp] theorem missLedger_spares (k : Nat) (s : State)
    (hm : μ .regs = false ∧ μ .faults = false ∧ μ .mgmt = false ∧ μ .out = false) : Spares μ σ s (missLedger k s) :=
  .of <| by simp [missLedger, hm]

theorem lookAt_kept (k v : Nat) (up : Bool) (act : State → State) (s : State) (hact : ∀ s, Kept μ s (act s))
    (hm : μ .regs = false ∧ μ .faults = false ∧ μ .mgmt = false ∧ μ .out = false) : Kept μ s (lookAt k v up act s) :=
  by simp [lookAt, Spares.of (hact ..), hm]

@[simp] theorem lookAt_spares (k v : Nat) (up : Bool) (act : State → State) (s : State) (hact : ∀ s, Kept μ s (act s))
    (hm : μ .regs = false ∧ μ .faults = false ∧ μ .mgmt = false ∧ μ .out = false) : Spares μ σ s (lookAt k v up act s) :=
  .of (lookAt_kept k v up act s hact hm)

@[simp] theorem swapWarden_spares (s : State) (hm : μ .regs = false ∧ μ .faults = false ∧ μ .mgmt = false ∧ μ .out = false) :
    Spares μ σ s (swapWarden s) := .of <| by simp [swapWarden, hm]
@[simp] theorem wardenTakeover_spares (s : State)
    (hm : μ .regs = false ∧ μ .faults = false ∧ μ .mgmt = false ∧ μ .out = false) : Spares μ σ s (wardenTakeover s) :=
  .of <| by simp [wardenTakeover, hm]
@[simp] theorem execWardenTakeover_gives (s : State)
    (hm : μ .regs = false ∧ μ .faults = false ∧ μ .mgmt = false ∧ μ .out = false) : Gives μ s (execWardenTakeover s) :=
  by simp [execWardenTakeover, hm]
@[simp] theorem clearReason_spares (b : Nat) (s : State) (hm : μ .regs = false ∧ μ .mgmt = false ∧ μ .out = false) :
    Spares μ σ s (clearReason b s) := .of <| by simp [clearReason, hm]

@[simp] theorem execWardenResetDone_gives (ok : Bool) (s : State) (hm : μ .regs = false ∧ μ .mgmt = false ∧ μ .out = false) :
    Gives μ s (execWardenResetDone ok s) := by simp [execWardenResetDone, hm]

@[simp] theorem supplyFence_spares (i : Nat) (s : State) : Spares .none σ s (supplyFence i s) := .of <| by simp [supplyFence]
@[simp] theorem limitCores_spares (d limit : Nat) (s : State) (hm : μ.AllowsOffProgress) :
    Spares μ σ s (limitCores d limit s) := .of <| by simp [limitCores, hm]
@[simp] theorem phaseFault_spares (i k cause : Nat) (s : State) : Spares .none σ s (phaseFault i k cause s) :=
  .of <| by simp [phaseFault]

@[simp] theorem execPhaseFault_gives (supply phase : BitVec 5) (cause : PhaseCause) (s : State) :
    Gives .none s (execPhaseFault supply phase cause s) := by simp [execPhaseFault]

@[simp] theorem mirrorOne_spares (s : State) (hm : μ .faults = false) : Spares μ σ s (mirrorOne s) := by
  refine .of ?_
  unfold mirrorOne
  (repeat' split) <;> simp [hm]

@[simp] theorem execLedgerMirrorWrite_gives (s : State) (hm : μ .faults = false) : Gives μ s (execLedgerMirrorWrite s) := by
  unfold execLedgerMirrorWrite
  split <;> simp [hm]

/-! ### A register's store (R5, R634) -/

@[simp] theorem storeReg_spares (w : Agent) (r : RegRow) (off v : Nat) (s : State) (hm : μ .regs = false) :
    Spares μ σ s (storeReg w r off v s) := by
  refine .of ?_
  unfold storeReg
  split <;> simp [hm]

/-- The mask names nothing that `afterStore` can change. -/
@[simp] abbrev Mask.AllowsAfterStore (μ : Mask) : Prop :=
  μ .mem = false ∧ μ .poison = false ∧ μ .cellar = false ∧ μ .cellarPoison = false ∧ μ .regs = false ∧ μ .stackDies = false ∧
  μ .mgmt = false ∧ μ .out = false

@[simp] theorem afterStore_spares (r : RegRow) (off v : Nat) (old s : State) (hm : μ.AllowsAfterStore) :
    Spares μ σ s (afterStore r off v old s) := by
  refine .of ?_
  unfold afterStore
  split <;> simp [hm]

@[simp] theorem putValue_spares (w : Agent) (off v : Nat) (s : State) (hm : μ.AllowsAfterStore) :
    Spares μ σ s (putValue w off v s) := by
  refine .of ?_
  unfold putValue
  split <;> simp [hm]

/-! ### Boot store, attestation and update (R582 to R598) -/

@[simp] theorem setStage_spares (v : Nat) (s : State) (hm : μ .regs = false) : Spares μ σ s (setStage v s) :=
  .of <| by simp [setStage, hm]

@[simp] theorem takeHostBank_spares (s : State) (hm : μ .regs = false ∧ μ .mgmt = false) : Spares μ σ s (takeHostBank s) := by
  refine .of ?_
  unfold takeHostBank
  split <;> simp [hm]

/-- The mask names nothing that `hostBoot` can change. -/
@[simp] abbrev Mask.AllowsHostBoot (μ : Mask) : Prop :=
  μ .mem = false ∧ μ .poison = false ∧ μ .regs = false ∧ μ .faults = false ∧ μ .mgmt = false

@[simp] theorem hostBoot_spares (s : State) (hm : μ.AllowsHostBoot) : Spares μ σ s (hostBoot s) := by
  refine .of ?_
  unfold hostBoot
  dsimp only
  (repeat' split) <;> simp [hm]

@[simp] theorem execHostBoot_gives (s : State) (hm : μ.AllowsHostBoot) : Gives μ s (execHostBoot s) :=
  by simp [execHostBoot, hm]
@[simp] theorem pldmAnswer_spares (code : Nat) (s : State) (hm : μ .out = false) : Spares μ σ s (pldmAnswer code s) :=
  .of <| by simp [pldmAnswer, hm]

@[simp] theorem requestUpdate_spares (c : Component) (len : Nat) (s : State)
    (hm : μ .regs = false ∧ μ .mgmt = false ∧ μ .out = false) : Spares μ σ s (requestUpdate c len s) :=
  .of <| by simp [requestUpdate, hm]

@[simp] theorem execRequestUpdate_gives (c : Component) (imageLen : BitVec 32) (s : State)
    (hm : μ .regs = false ∧ μ .mgmt = false ∧ μ .out = false) : Gives μ s (execRequestUpdate c imageLen s) :=
  by simp [execRequestUpdate, hm]

@[simp] theorem firmwareData_spares (off : Nat) (bs : List Byte) (s : State)
    (hm : μ .regs = false ∧ μ .mgmt = false ∧ μ .out = false) : Spares μ σ s (firmwareData off bs s) := by
  refine .of ?_
  unfold firmwareData
  split <;> simp [hm]

@[simp] theorem execRequestFirmwareData_gives (off : BitVec 32) (bytes : List (BitVec 8)) (s : State)
    (hm : μ .regs = false ∧ μ .mgmt = false ∧ μ .out = false) : Gives μ s (execRequestFirmwareData off bytes s) :=
  by simp [execRequestFirmwareData, hm]

@[simp] theorem verifyComplete_spares (s : State) (hm : μ .regs = false ∧ μ .mgmt = false ∧ μ .out = false) :
    Spares μ σ s (verifyComplete s) := by
  refine .of ?_
  unfold verifyComplete
  split <;> simp [hm]

@[simp] theorem execVerifyComplete_gives (s : State) (hm : μ .regs = false ∧ μ .mgmt = false ∧ μ .out = false) :
    Gives μ s (execVerifyComplete s) := by simp [execVerifyComplete, hm]

@[simp] theorem cancelUpdate_spares (s : State) (hm : μ .regs = false ∧ μ .mgmt = false ∧ μ .out = false) :
    Spares μ σ s (cancelUpdate s) := by
  refine .of ?_
  unfold cancelUpdate
  split <;> simp [hm]

@[simp] theorem execCancelUpdate_gives (s : State) (hm : μ .regs = false ∧ μ .mgmt = false ∧ μ .out = false) :
    Gives μ s (execCancelUpdate s) := by simp [execCancelUpdate, hm]
@[simp] theorem activate_spares (c : Component) (s : State) (hm : μ .regs = false ∧ μ .mgmt = false ∧ μ .out = false) :
    Spares μ σ s (activate c s) := .of <| by simp [activate, hm]

@[simp] theorem execActivateFirmware_gives (c : Component) (s : State) (hm : μ .regs = false ∧ μ .mgmt = false ∧ μ .out = false)
    : Gives μ s (execActivateFirmware c s) := by simp [execActivateFirmware, hm]

@[simp] theorem wardenActivation_spares (ok : Bool) (s : State)
    (hm : μ .regs = false ∧ μ .faults = false ∧ μ .mgmt = false ∧ μ .out = false) : Spares μ σ s (wardenActivation ok s) := by
  refine .of ?_
  unfold wardenActivation
  split <;> simp [hm]

/-- The mask names nothing that `execWardenActivation` can change. -/
@[simp] abbrev Mask.AllowsExecWardenActivation (μ : Mask) : Prop :=
  μ .regs = false ∧ μ .queues = false ∧ μ .faults = false ∧ μ .mgmt = false ∧ μ .out = false

@[simp] theorem execWardenActivation_gives (ok : Bool) (s : State) (hm : μ.AllowsExecWardenActivation) :
    Gives μ s (execWardenActivation ok s) := by simp [execWardenActivation, hm]

@[simp] theorem reeveActivation_spares (d : Nat) (ok : Bool) (s : State)
    (hm : μ .regs = false ∧ μ .faults = false ∧ μ .mgmt = false ∧ μ .chainGen = false) :
    Spares μ σ s (reeveActivation d ok s) := by
  refine .of ?_
  unfold reeveActivation
  split <;> simp [hm]

/-- The mask names nothing that `execReeveActivation` can change. -/
@[simp] abbrev Mask.AllowsExecReeveActivation (μ : Mask) : Prop :=
  μ .regs = false ∧ μ .queues = false ∧ μ .faults = false ∧ μ .mgmt = false ∧ μ .chainGen = false

@[simp] theorem execReeveActivation_gives (die : BitVec 2) (ok : Bool) (s : State) (hm : μ.AllowsExecReeveActivation) :
    Gives μ s (execReeveActivation die ok s) := by simp [execReeveActivation, hm]

@[simp] theorem stickInstall_spares (b : Nat) (ok : Bool) (s : State) (hm : μ.AllowsModuleCycle) :
    Spares μ σ s (stickInstall b ok s) := by
  refine .of ?_
  unfold stickInstall
  split <;> simp [hm]

@[simp] theorem execStickFwInstall_gives (bay : BitVec 3) (ok : Bool) (s : State) (hm : μ.AllowsModuleCycle) :
    Gives μ s (execStickFwInstall bay ok s) := by simp [execStickFwInstall, hm]

@[simp] theorem execGetMeasurements_gives (index : BitVec 8) (s : State) (hm : μ .out = false) :
    Gives μ s (execGetMeasurements index s) := by
  unfold execGetMeasurements
  dsimp only
  (repeat' split) <;> simp [hm]

@[simp] theorem setSessions_spares (l : List Session) (s : State) (hm : μ .regs = false ∧ μ .mgmt = false) :
    Spares μ σ s (setSessions l s) := .of <| by simp [setSessions, hm]

@[simp] theorem spdmAnswer_spares (k : SpdmKind) (s : State) (hm : μ .regs = false ∧ μ .mgmt = false ∧ μ .out = false) :
    Spares μ σ s (spdmAnswer k s) := by
  refine .of ?_
  unfold spdmAnswer
  split <;> simp [hm]

@[simp] theorem execSpdmRequest_gives (k : SpdmKind) (s : State) (hm : μ .regs = false ∧ μ .mgmt = false ∧ μ .out = false) :
    Gives μ s (execSpdmRequest k s) := by simp [execSpdmRequest, hm]

end

end Sys2Proof.Machine
end

section
/-! Engine events, the face, walks and the service port spare what is to be left. -/

namespace Sys2Proof.Machine
open Sys2Proof

section
variable {μ : Mask} {σ : State}

/-! ### Engine events (R77, R91 to R97) -/

theorem tryIssue_kept (a : At) (e : Nat) (prep : State → State) (s : State) (hprep : ∀ s, Kept .none s (prep s)) :
    Kept .none s (tryIssue a e prep s) := by simp [tryIssue, Spares.of (hprep ..)]

@[simp] theorem tryIssue_spares (a : At) (e : Nat) (prep : State → State) (s : State) (hprep : ∀ s, Kept .none s (prep s)) :
    Spares .none σ s (tryIssue a e prep s) := .of (tryIssue_kept a e prep s hprep)

@[simp] theorem startFresh_spares (a : At) (n e : Nat) (s : State) : Spares .none σ s (startFresh a n e s) := by
  refine .of ?_
  unfold startFresh
  refine tryIssue_kept _ _ _ _ fun s => ?_
  dsimp only
  split
  · simp
  · split <;> simp

@[simp] theorem atChoice_spares (n : Nat) (s : State) : Spares .none σ s (atChoice n s) := .of <| by simp [atChoice]

@[simp] theorem execStepIssue_gives (core : BitVec 8) (engine : BitVec 2) (s0 : State) :
    Gives .none s0 (execStepIssue core engine s0) := by
  unfold execStepIssue
  dsimp only
  (repeat' split) <;> simp

@[simp] theorem execStallSwitch_gives (core : BitVec 8) (engine : BitVec 2) (s0 : State) :
    Gives .none s0 (execStallSwitch core engine s0) := by
  unfold execStallSwitch
  dsimp only
  (repeat' split) <;> simp

@[simp] theorem atBoundary_spares (n e : Nat) (s : State) (hm : μ.AllowsOffProgress) : Spares μ σ s (atBoundary n e s) :=
  .of <| by simp [atBoundary, hm]

@[simp] theorem execStepBoundary_gives (core : BitVec 8) (engine : BitVec 2) (s0 : State) :
    Gives .none s0 (execStepBoundary core engine s0) := by
  unfold execStepBoundary
  dsimp only
  split <;> simp

@[simp] theorem drainTiles_spares (n e h r i : Nat) (x : ChainAcc) (anchor : Int) (k : Nat) (s : State) :
    Spares .none σ s (drainTiles n e h r i x anchor k s) := by
  induction k generalizing σ s with
  | zero => exact .refl _
  | succ k ih =>
    refine .of ?_
    unfold drainTiles
    split
    · split
      · simp
      · extract_lets w g s1
        have h1 : Kept .none s w.s := by simp [w]
        split
        · split <;> simp
        · simp [h1]
        · have h2 : Kept .none s s1 := by simp [s1, h1]
          split
          next e3 =>
            have h3 : Kept .none s _ := .of_state_fst (by simp [h2]) e3
            simp [h3]
          next e3 =>
            have h3 : Kept .none s _ := .of_state_fst (by simp [h2]) e3
            simp [ih, h3]
    · simp

@[simp] theorem endDrain_spares (n e h r i : Nat) (s : State) (hm : μ.AllowsReap) : Spares μ σ s (endDrain n e h r i s) := by
  refine .of ?_
  unfold endDrain
  split <;> simp [hm]

@[simp] theorem execDrain_gives (core : BitVec 8) (engine : BitVec 2) (s : State) : Gives .none s (execDrain core engine s) :=
  by
  unfold execDrain
  dsimp only
  (repeat' split) <;> simp

@[simp] theorem execSpill_gives (core : BitVec 8) (engine : BitVec 2) (s : State) (hm : μ .regs = false ∧ μ .cores = false) :
    Gives μ s (execSpill core engine s) := by
  unfold execSpill
  split <;> simp [hm]

@[simp] theorem execRestore_gives (core : BitVec 8) (engine : BitVec 2) (s : State) (hm : μ .regs = false ∧ μ .cores = false) :
    Gives μ s (execRestore core engine s) := by
  unfold execRestore
  dsimp only
  (repeat' split) <;> simp [hm]

@[simp] theorem execEngHalt_gives (w : Agent) (core : BitVec 8) (engine : BitVec 2) (on : Bool) (s : State)
    (hm : μ .regs = false) : Gives μ s (execEngHalt w core engine on s) := by
  unfold execEngHalt
  split <;> simp [hm]

@[simp] theorem spillNow_spares (n e : Nat) (s : State) (hm : μ .regs = false ∧ μ .cores = false) :
    Spares μ σ s (spillNow n e s) := .of <| by simp [spillNow, hm]

@[simp] theorem execSpillNow_gives (w : Agent) (core : BitVec 8) (engine : BitVec 2) (s : State)
    (hm : μ .regs = false ∧ μ .cores = false) : Gives μ s (execSpillNow w core engine s) := by
  unfold execSpillNow
  split <;> simp [hm]

@[simp] theorem beginPatrol_spares (n e : Nat) (s : State) (hm : μ .cores = false) : Spares μ σ s (beginPatrol n e s) :=
  .of <| by simp [beginPatrol, hm]
@[simp] theorem askPatrol_spares (n e : Nat) (s : State) (hm : μ .cores = false) : Spares μ σ s (askPatrol n e s) :=
  .of <| by simp [askPatrol, hm]

@[simp] theorem execPatrolNow_gives (w : Agent) (core : BitVec 8) (engine : BitVec 2) (s : State) (hm : μ .cores = false) :
    Gives μ s (execPatrolNow w core engine s) := by
  unfold execPatrolNow
  split <;> simp [hm]

@[simp] theorem execPatrolDue_gives (core : BitVec 8) (engine : BitVec 2) (s : State) (hm : μ .regs = false ∧ μ .cores = false)
    : Gives μ s (execPatrolDue core engine s) := by
  unfold execPatrolDue
  dsimp only
  (repeat' split) <;> simp [hm]

@[simp] theorem execPatrolStart_gives (core : BitVec 8) (engine : BitVec 2) (s : State) (hm : μ .cores = false) :
    Gives μ s (execPatrolStart core engine s) := by
  unfold execPatrolStart
  dsimp only
  split <;> simp [hm]

@[simp] theorem selftestDone_spares (c : CmdRef) (s : State) (hm : μ .cmds = false ∧ μ .cores = false) :
    Spares μ σ s (selftestDone c s) := .of <| by simp [selftestDone, hm]
@[simp] theorem notePatrolWait_spares (n e : Nat) (s : State) (hm : μ .regs = false) : Spares μ σ s (notePatrolWait n e s) :=
  .of <| by simp [notePatrolWait, hm]

@[simp] theorem execPatrolComplete_gives (core : BitVec 8) (engine : BitVec 2) (failed : BitVec 4) (s : State) :
    Gives .none s (execPatrolComplete core engine failed s) := by
  unfold execPatrolComplete
  extract_lets n e g s1 sf c sg s2 s3
  have h1 : Kept .none s s1 := by simp [s1]
  have hg : Kept .none s sg := by simp [sg, sf, h1]
  have h2 : Kept .none s s2 := by simp [s2, h1, hg]
  have h3 : Kept .none s s3 := by
    unfold s3
    split <;> simp [h2]
  clear_value s3
  split <;> simp [h3]

@[simp] theorem execAllotDraw_gives (core : BitVec 8) (ctx : BitVec 32) (cls : BitVec 2) (s : State) (hm : μ .ctxs = false) :
    Gives μ s (execAllotDraw core ctx cls s) := by
  unfold execAllotDraw
  dsimp only
  (repeat' split) <;> simp [hm]

@[simp] theorem At.fetchTile_spares (a : At) (t : Stream) (k x slot : Nat) (s : State) :
    Spares .none σ s (a.fetchTile t k x slot s).1 := by
  refine .of ?_
  unfold At.fetchTile
  split
  · simp
  · extract_lets n w note s1
    have h1 : Kept .none s w.s := by simp [w]
    split
    · dsimp only
      split <;> simp
    · simp [h1]
    · have h2 : Kept .none s s1 := by simp [s1, h1]
      split
      next e3 =>
        have h3 : Kept .none s _ := .of_state_fst (by simp [h2]) e3
        simp [h3]
      next e3 => exact .of_state_fst (by simp [h2]) e3

@[simp] theorem At.fetchAll_spares (a : At) (t : Stream) (l : List (Nat × Nat)) (m : List Nat) (s : State) :
    Spares .none σ s (a.fetchAll t l m s) := by
  induction l generalizing σ m s with
  | nil => exact .of <| by simp [At.fetchAll]
  | cons x l ih =>
    refine .of ?_
    cases m with
    | nil => simp [At.fetchAll]
    | cons y m =>
      unfold At.fetchAll
      split
      next e =>
        have h1 : Kept .none s _ := .of_state_fst (by simp) e
        simp [ih, h1]
      next e => exact .of_state_fst (by simp) e

@[simp] theorem yieldSlots_spares (h need : Nat) (t : Stream) (later : List (Nat × Nat)) (s : State)
    (hm : μ .tallies = false ∧ μ .progs = false) : Spares μ σ s (yieldSlots h need t later s) := by
  refine .of ?_
  unfold yieldSlots
  refine foldr_kept _ (fun x s => ?_) _ _
  split
  · simp
  · split <;> simp [hm]

@[simp] theorem execStagingFetchDone_gives (core : BitVec 8) (handle : BitVec 16) (run : BitVec 32) (step : BitVec 20)
    (s : State) : Gives .none s (execStagingFetchDone core handle run step s) := by
  unfold execStagingFetchDone
  dsimp only
  (repeat' split) <;> simp

@[simp] theorem tierFail_spares (n cause unit ctx h : Nat) (s : State)
    (hm : μ .regs = false ∧ μ .faults = false ∧ μ .mgmt = false ∧ μ .out = false) :
    Spares μ σ s (tierFail n cause unit ctx h s) := .of <| by simp [tierFail, hm]

@[simp] theorem execTierTimeout_gives (core : BitVec 8) (cause unit : BitVec 4) (who : Stalled) (s : State) :
    Gives .none s (execTierTimeout core cause unit who s) := by
  unfold execTierTimeout
  dsimp only
  (repeat' split) <;> simp

/-! ### What a person does (R601 to R613) -/

@[simp] theorem attend_spares (s : State) (hm : μ.AllowsSetRstate) : Spares μ σ s (attend s) := .of <| by simp [attend, hm]
@[simp] theorem attention_spares (button : Bool) (s : State) (hm : μ.AllowsSetRstate) : Spares μ σ s (attention button s) :=
  .of <| by simp [attention, hm]

@[simp] theorem onWarden_gives (f : State → State) (s : State) (hf : ∀ s, Kept μ s (f s)) : Gives μ s (onWarden f s) := by
  unfold onWarden
  split <;> simp [Spares.of (hf ..)]

@[simp] theorem attentionFrom_spares (src : AttnSource) (s : State) (hm : μ.AllowsSetRstate) :
    Spares μ σ s (attentionFrom src s) := by
  refine .of ?_
  unfold attentionFrom
  split <;> simp [hm]

@[simp] theorem execAttentionRequest_gives (src : AttnSource) (s : State) (hm : μ.AllowsSetRstate) :
    Gives μ s (execAttentionRequest src s) := by simp [execAttentionRequest, hm]

@[simp] theorem execArmedExpiry_gives (s : State) (hm : μ.AllowsSetRstate) : Gives μ s (execArmedExpiry s) := by
  unfold execArmedExpiry
  split <;> simp [hm]

@[simp] theorem refuseBar_spares (cause : Nat) (s : State) (hm : μ .regs = false ∧ μ .tray = false) :
    Spares μ σ s (refuseBar cause s) := .of <| by simp [refuseBar, hm]

@[simp] theorem execDrainDeadline_gives (s : State) (hm : μ.AllowsBeginQuiesce) : Gives μ s (execDrainDeadline s) := by
  unfold execDrainDeadline
  (repeat' split) <;> simp [hm]

@[simp] theorem release_spares (s : State) (hm : μ.AllowsBeginQuiesce) : Spares μ σ s (release s) :=
  .of <| by simp [release, hm]
@[simp] theorem execRelease_gives (s : State) (hm : μ.AllowsBeginQuiesce) : Gives μ s (execRelease s) :=
  by simp [execRelease, hm]
@[simp] theorem cancelRemoval_spares (s : State) (hm : μ.AllowsSetRstate) : Spares μ σ s (cancelRemoval s) :=
  .of <| by simp [cancelRemoval, hm]
@[simp] theorem execCancel_gives (s : State) (hm : μ.AllowsSetRstate) : Gives μ s (execCancel s) := by simp [execCancel, hm]

@[simp] theorem execQuiesceAbortTimeout_gives (s : State) : Gives .none s (execQuiesceAbortTimeout s) := by
  unfold execQuiesceAbortTimeout
  split <;> simp

@[simp] theorem leverTouched_spares (ms : Nat) (s : State) (hm : μ.AllowsSetRstate) : Spares μ σ s (leverTouched ms s) :=
  .of <| by simp [leverTouched, hm]
@[simp] theorem execLeverTouch_gives (ms : BitVec 16) (s : State) (hm : μ.AllowsSetRstate) : Gives μ s (execLeverTouch ms s) :=
  by simp [execLeverTouch, hm]

@[simp] theorem execLeverPushHome_gives (s : State) (hm : μ.AllowsSetRstate) : Gives μ s (execLeverPushHome s) := by
  unfold execLeverPushHome
  split <;> simp [hm]

@[simp] theorem leaveSync_spares (b : Nat) (s : State) (hm : μ .regs = false ∧ μ .tray = false) :
    Spares μ σ s (leaveSync b s) := .of <| by simp [leaveSync, hm]
@[simp] theorem bayButton_spares (b : Nat) (s : State) (hm : μ.AllowsModuleCycle) : Spares μ σ s (bayButton b s) :=
  .of <| by simp [bayButton, hm]
@[simp] theorem execBayButton_gives (bay : BitVec 3) (s : State) (hm : μ.AllowsModuleCycle) : Gives μ s (execBayButton bay s) :=
  by simp [execBayButton, hm]

@[simp] theorem cableEvent_spares (p : Nat) (inserted : Bool) (s : State)
    (hm : μ .regs = false ∧ μ .fab = false ∧ μ .out = false) : Spares μ σ s (cableEvent p inserted s) :=
  .of <| by simp [cableEvent, hm]

@[simp] theorem execCableEvent_gives (port : BitVec 3) (inserted : Bool) (s : State)
    (hm : μ .regs = false ∧ μ .fab = false ∧ μ .out = false) : Gives μ s (execCableEvent port inserted s) :=
  by simp [execCableEvent, hm]

/-! ### Descriptor walks and the tally registers (R348, R349, R395) -/

/-- The mask names nothing that `failWalk` can change. -/
@[simp] abbrev Mask.AllowsFailWalk (μ : Mask) : Prop :=
  μ .regs = false ∧ μ .cmds = false ∧ μ .walks = false ∧ μ .faults = false ∧ μ .mgmt = false ∧ μ .out = false

@[simp] theorem failWalk_spares (die ctx seg : Nat) (w : Walk) (s : State) (hm : μ.AllowsFailWalk) :
    Spares μ σ s (failWalk die ctx seg w s) := .of <| by simp [failWalk, hm]

@[simp] theorem installWalk_spares (die key d : Nat) (w : Walk) (s : State)
    (hm : μ .regs = false ∧ μ .dpool = false ∧ μ .walks = false ∧ μ .cores = false) :
    Spares μ σ s (installWalk die key d w s) := .of <| by simp [installWalk, hm]

/-- The mask names nothing that `descriptorWalk` can change. -/
@[simp] abbrev Mask.AllowsDescriptorWalk (μ : Mask) : Prop :=
  μ .regs = false ∧ μ .cmds = false ∧ μ .dpool = false ∧ μ .walks = false ∧ μ .cores = false ∧ μ .faults = false ∧
  μ .mgmt = false ∧ μ .out = false

@[simp] theorem descriptorWalk_spares (die ctx seg : Nat) (s : State) (hm : μ.AllowsDescriptorWalk) :
    Spares μ σ s (descriptorWalk die ctx seg s) := by
  refine .of ?_
  unfold descriptorWalk
  dsimp only
  (repeat' split) <;> simp [hm]

@[simp] theorem execDescriptorWalk_gives (die : BitVec 2) (ctx : BitVec 32) (seg : BitVec 4) (s : State)
    (hm : μ.AllowsDescriptorWalk) : Gives μ s (execDescriptorWalk die ctx seg s) := by simp [execDescriptorWalk, hm]

@[simp] theorem execWalkTimeout_gives (die : BitVec 2) (ctx : BitVec 32) (seg : BitVec 4) (s : State) (hm : μ.AllowsFailWalk) :
    Gives μ s (execWalkTimeout die ctx seg s) := by
  unfold execWalkTimeout
  dsimp only
  split <;> simp [hm]

@[simp] theorem windowFault_spares (kind die i : Nat) (s : State) (hm : μ .regs = false) :
    Spares μ σ s (windowFault kind die i s) := .of <| by simp [windowFault, hm]

@[simp] theorem windowDone_spares (die i : Nat) (r : State × Option Fail) : Spares .none σ r.1 (windowDone die i r) := by
  refine .of ?_
  unfold windowDone
  split <;> simp

@[simp] theorem execTwAdd_gives (t : TallyRef) (value : BitVec 64) (s : State) : Gives .none s (execTwAdd t value s) := by
  unfold execTwAdd
  dsimp only
  split <;> simp

@[simp] theorem execTwSub_gives (t : TallyRef) (value : BitVec 64) (s : State) : Gives .none s (execTwSub t value s) := by
  unfold execTwSub
  dsimp only
  split <;> simp

@[simp] theorem tallyResult_spares (r : Nat) (s : State) (hm : μ .regs = false) : Spares μ σ s (tallyResult r s) :=
  .of <| by simp [tallyResult, hm]

@[simp] theorem execTallyCmdRead_gives (s : State) (hm : μ .regs = false) : Gives μ s (execTallyCmdRead s) := by
  unfold execTallyCmdRead
  split <;> simp [hm]

@[simp] theorem execTallyCmdWrite_gives (s : State) : Gives .none s (execTallyCmdWrite s) := by
  unfold execTallyCmdWrite
  dsimp only
  split <;> simp

@[simp] theorem reoffer_spares (s : State) (w : Waiter)
    (hm : μ .regs = false ∧ μ .cmds = false ∧ μ .tallies = false ∧ μ .waiters = false) : Spares μ σ s (reoffer s w) :=
  .of <| by simp [reoffer, hm]

@[simp] theorem execWaiterReoffer_gives (die : BitVec 3) (s : State) : Gives .none s (execWaiterReoffer die s) :=
  by simp [execWaiterReoffer]

/-! ### Reads of the control window (R5) -/

@[simp] theorem readWindow_spares (off : Nat) (s : State) (hm : μ .regs = false) : Spares μ σ s (readWindow off s).1 :=
  .of <| by simp [readWindow, hm]

/-! ### The service port (R614) -/

@[simp] theorem serveFrame_gives (op : Nat) (tag : BitVec 32) (act : State → State × Nat × List Byte) (s : State)
    (hact : ∀ s, Kept μ s (act s).1) (hm : μ .regs = false ∧ μ .out = false) : Gives μ s (serveFrame op tag act s) := by
  unfold serveFrame
  split
  · simp
  · simp [Spares.of (hact ..), hm]

@[simp] theorem execServiceIdent_gives (tag : BitVec 32) (s : State) (hm : μ .regs = false ∧ μ .out = false) :
    Gives μ s (execServiceIdent tag s) := by simp [execServiceIdent, hm]

@[simp] theorem execServiceRead_gives (tag off : BitVec 32) (s : State) (hm : μ .regs = false ∧ μ .out = false) :
    Gives μ s (execServiceRead tag off s) := by simp [execServiceRead, hm]

@[simp] theorem execServiceLedger_gives (tag seq : BitVec 32) (count : BitVec 8) (s : State)
    (hm : μ .regs = false ∧ μ .out = false) : Gives μ s (execServiceLedger tag seq count s) := by simp [execServiceLedger, hm]

@[simp] theorem execServiceAttention_gives (tag : BitVec 32) (s : State) (hm : μ.AllowsSetRstate) :
    Gives μ s (execServiceAttention tag s) := by simp [execServiceAttention, hm]

@[simp] theorem execServiceCancel_gives (tag : BitVec 32) (s : State) (hm : μ.AllowsSetRstate) :
    Gives μ s (execServiceCancel tag s) := by simp [execServiceCancel, hm]

@[simp] theorem setLocate_spares (v : Nat) (s : State) (hm : μ .regs = false) : Spares μ σ s (setLocate v s) :=
  .of <| by simp [setLocate, hm]

@[simp] theorem execServiceLocate_gives (tag : BitVec 32) (value : BitVec 8) (s : State) (hm : μ .regs = false ∧ μ .out = false)
    : Gives μ s (execServiceLocate tag value s) := by simp [execServiceLocate, hm]

end

end Sys2Proof.Machine
end

section
/-! The mailbox, PLDM, register writes and diagnostics spare what is to be left. -/

namespace Sys2Proof.Machine
open Sys2Proof

section
variable {μ : Mask} {σ : State}

/-! ### The mailbox (R624 to R628) -/

@[simp] theorem mailAnswer_spares (m : MailRef) (op status : Nat) (payload : List Byte) (s : State)
    (hm : μ .mgmt = false ∧ μ .out = false) : Spares μ σ s (mailAnswer m op status payload s) := .of <| by simp [mailAnswer, hm]

@[simp] theorem mail_gives (m : MailRef) (op : Nat) (acc : Access) (act : State → State × Nat × List Byte) (s : State)
    (hact : ∀ s, Kept μ s (act s).1) (hm : μ .mgmt = false ∧ μ .out = false) : Gives μ s (mail m op acc act s) := by
  unfold mail
  split
  · simp
  · split
    · simp [hm]
    · split
      · simp [hm]
      · split
        · simp [hm]
        · simp [Spares.of (hact ..), hm]

@[simp] theorem done_spares (s : State) : Spares μ σ s (done s).1 := .of <| by simp [done]
@[simp] theorem fails_spares (status : Nat) (s : State) : Spares μ σ s (fails status s).1 := .of <| by simp [fails]
@[simp] theorem execMailboxIdent_gives (m : MailRef) (s : State) (hm : μ .mgmt = false ∧ μ .out = false) :
    Gives μ s (execMailboxIdent m s) := by simp [execMailboxIdent, hm]

@[simp] theorem execRegRead_gives (m : MailRef) (off : BitVec 32) (s : State)
    (hm : μ .regs = false ∧ μ .mgmt = false ∧ μ .out = false) : Gives μ s (execRegRead m off s) := by simp [execRegRead, hm]

@[simp] theorem execLedgerRead_gives (m : MailRef) (seq : BitVec 32) (count : BitVec 8) (s : State)
    (hm : μ .mgmt = false ∧ μ .out = false) : Gives μ s (execLedgerRead m seq count s) := by simp [execLedgerRead, hm]

@[simp] theorem execMirrorRead_gives (m : MailRef) (seq : BitVec 32) (count : BitVec 8) (s : State)
    (hm : μ .mgmt = false ∧ μ .out = false) : Gives μ s (execMirrorRead m seq count s) := by simp [execMirrorRead, hm]

@[simp] theorem execCaptureRead_gives (m : MailRef) (slot : BitVec 8) (off : BitVec 64) (s : State)
    (hm : μ .mgmt = false ∧ μ .out = false) : Gives μ s (execCaptureRead m slot off s) := by simp [execCaptureRead, hm]

@[simp] theorem execCapturePin_gives (m : MailRef) (slot pin : BitVec 8) (s : State)
    (hm : μ .faults = false ∧ μ .mgmt = false ∧ μ .out = false) : Gives μ s (execCapturePin m slot pin s) :=
  by simp [execCapturePin, hm]

@[simp] theorem execCaptureNow_gives (m : MailRef) (s : State)
    (hm : μ .regs = false ∧ μ .faults = false ∧ μ .mgmt = false ∧ μ .out = false) : Gives μ s (execCaptureNow m s) :=
  by simp [execCaptureNow, hm]
@[simp] theorem mailRung_spares (r t : Nat) (s : State) : Spares .none σ s (mailRung r t s).1 := .of <| by simp [mailRung]

@[simp] theorem execMailboxRung_gives (m : MailRef) (value : BitVec 64) (s : State) :
    Gives .none s (execMailboxRung m value s) := by simp [execMailboxRung]

@[simp] theorem execHostReset_gives (m : MailRef) (s : State) : Gives .none s (execHostReset m s) := by simp [execHostReset]
@[simp] theorem execDdrReset_gives (m : MailRef) (s : State) (hm : μ.AllowsDdrReset) : Gives μ s (execDdrReset m s) :=
  by simp [execDdrReset, hm]
@[simp] theorem execPowerOn_gives (m : MailRef) (s : State) (hm : μ .mgmt = false ∧ μ .tray = false ∧ μ .out = false) :
    Gives μ s (execPowerOn m s) := by simp [execPowerOn, hm]
@[simp] theorem execPowerCycle_gives (m : MailRef) (s : State) : Gives .none s (execPowerCycle m s) := by simp [execPowerCycle]

@[simp] theorem execRetire_gives (m : MailRef) (core : BitVec 8) (s : State) : Gives .none s (execRetire m core s) :=
  by simp [execRetire]

@[simp] theorem mailService_spares (v : Nat) (s : State) (hm : μ .regs = false ∧ μ .mgmt = false ∧ μ .out = false) :
    Spares μ σ s (mailService v s).1 := .of <| by simp [mailService, hm]

@[simp] theorem execService_gives (m : MailRef) (state : BitVec 8) (s : State)
    (hm : μ .regs = false ∧ μ .mgmt = false ∧ μ .out = false) : Gives μ s (execService m state s) := by simp [execService, hm]

@[simp] theorem execConfigRead_gives (m : MailRef) (s : State) (hm : μ .mgmt = false ∧ μ .out = false) :
    Gives μ s (execConfigRead m s) := by simp [execConfigRead, hm]

@[simp] theorem configReg_spares (s : State) (x : Nat × Nat) (hm : μ.AllowsAfterStore) : Spares μ σ s (configReg s x) := by
  refine .of ?_
  unfold configReg
  split <;> simp [hm]

@[simp] theorem writeConfig_spares (r : ConfigRec) (s : State) (hm : μ.AllowsAfterStore) : Spares μ σ s (writeConfig r s) :=
  .of <| by simp [writeConfig, hm]

@[simp] theorem execConfigWrite_gives (m : MailRef) (r : ConfigRec) (s : State) (hm : μ.AllowsAfterStore) :
    Gives μ s (execConfigWrite m r s) := by simp [execConfigWrite, hm]

@[simp] theorem putSetKey_spares (k : Nat) (x : SetKey) (s : State) (hm : μ .mgmt = false) : Spares μ σ s (putSetKey k x s) :=
  .of <| by simp [putSetKey, hm]

@[simp] theorem putDataKey_spares (k : Nat) (x : Option Nat) (s : State) (hm : μ .mgmt = false) :
    Spares μ σ s (putDataKey k x s) := .of <| by simp [putDataKey, hm]

@[simp] theorem execSetkeyEnrol_gives (m : MailRef) (slot : BitVec 8) (key : BitVec 768) (s : State)
    (hm : μ .mgmt = false ∧ μ .out = false) : Gives μ s (execSetkeyEnrol m slot key s) := by simp [execSetkeyEnrol, hm]

@[simp] theorem execSetkeyRevoke_gives (m : MailRef) (slot : BitVec 8) (s : State) (hm : μ .mgmt = false ∧ μ .out = false) :
    Gives μ s (execSetkeyRevoke m slot s) := by simp [execSetkeyRevoke, hm]

@[simp] theorem execDatakeySet_gives (m : MailRef) (slot : BitVec 8) (key : BitVec 512) (s : State)
    (hm : μ .mgmt = false ∧ μ .out = false) : Gives μ s (execDatakeySet m slot key s) := by simp [execDatakeySet, hm]

@[simp] theorem execDatakeyErase_gives (m : MailRef) (slot : BitVec 8) (s : State) (hm : μ .mgmt = false ∧ μ .out = false) :
    Gives μ s (execDatakeyErase m slot s) := by simp [execDatakeyErase, hm]

@[simp] theorem execCertSet_gives (m : MailRef) (slot : BitVec 8) (chain : List (BitVec 8)) (s : State)
    (hm : μ .mgmt = false ∧ μ .out = false) : Gives μ s (execCertSet m slot chain s) := by simp [execCertSet, hm]

@[simp] theorem execAnchorSet_gives (m : MailRef) (slot : BitVec 8) (anchor : List (BitVec 8)) (s : State)
    (hm : μ .mgmt = false ∧ μ .out = false) : Gives μ s (execAnchorSet m slot anchor s) := by simp [execAnchorSet, hm]

@[simp] theorem commitSvn_spares (c : Component) (s : State) (hm : μ .regs = false) : Spares μ σ s (commitSvn c s) :=
  .of <| by simp [commitSvn, hm]

@[simp] theorem execSvnCommit_gives (m : MailRef) (component : BitVec 16) (s : State)
    (hm : μ .regs = false ∧ μ .mgmt = false ∧ μ .out = false) : Gives μ s (execSvnCommit m component s) :=
  by simp [execSvnCommit, hm]

/-! ### PLDM (R618 to R620) -/

@[simp] theorem execSetEventReceiver_gives (eid : BitVec 8) (b : Binding) (s : State) (hm : μ .mgmt = false ∧ μ .out = false) :
    Gives μ s (execSetEventReceiver eid b s) := by
  unfold execSetEventReceiver
  split <;> simp [hm]

@[simp] theorem execEventAcknowledge_gives (id : BitVec 16) (s : State) (hm : μ .mgmt = false) :
    Gives μ s (execEventAcknowledge id s) := by simp [execEventAcknowledge, hm]

@[simp] theorem execGetSensorReading_gives (eid : BitVec 8) (id : BitVec 16) (s : State) (hm : μ .out = false) :
    Gives μ s (execGetSensorReading eid id s) := by
  unfold execGetSensorReading
  (repeat' split) <;> simp [hm]

/-- The mask names nothing that `effect` can change. -/
@[simp] abbrev Mask.AllowsEffect (μ : Mask) : Prop :=
  μ .mem = false ∧ μ .poison = false ∧ μ .cellar = false ∧ μ .cellarPoison = false ∧ μ .regs = false ∧ μ .stackDies = false ∧
  μ .hc = false ∧ μ .pA = false ∧ μ .pB = false ∧ μ .mgmt = false ∧ μ .tray = false ∧ μ .out = false

theorem effect_kept {id v : Nat} {s t : State} (e : effect id v s = some t) (hm : μ.AllowsEffect) : Kept μ s t := by
  unfold effect at e
  split at e
  · split at e
    · rw [← Option.some.inj e]
      simp [hm]
    · exact nomatch e
  · split at e
    · rw [← Option.some.inj e]
      simp [hm]
    · exact nomatch e
  · split at e
    · cases e; simp [hm]
    · split at e <;> cases e
      simp [hm]

@[simp] theorem execSetEffecter_gives (m : MailRef) (id value : BitVec 16) (s : State) (hm : μ.AllowsEffect) :
    Gives μ s (execSetEffecter m id value s) := by
  unfold execSetEffecter
  dsimp only
  split
  · simp
  · split
    · simp [hm]
    · split
      · simp [hm]
      · split
        next e =>
          have h : Kept μ s _ := (effect_kept (μ := μ) e (by simp [hm]))
          simp [h, hm]
        · simp [hm]

@[simp] theorem execSetEndpointId_gives (b : Binding) (eid : BitVec 8) (s : State) (hm : μ .mgmt = false) :
    Gives μ s (execSetEndpointId b eid s) := by
  unfold execSetEndpointId
  dsimp only
  (repeat' split) <;> simp [hm]

@[simp] theorem execDynamicAddressAssignment_gives (addr : BitVec 7) (s : State) (hm : μ .mgmt = false) :
    Gives μ s (execDynamicAddressAssignment addr s) := by
  unfold execDynamicAddressAssignment
  split <;> simp [hm]

/-! ### Writes to the control window (R5, R631 to R636) -/

@[simp] theorem after_spares {a : Ans} {s : State} (h : Gives μ s a) : Spares μ σ s (after a s) := by
  obtain ⟨t, rfl, k⟩ := h
  exact .of k

@[simp] theorem after_execHcReady_spares (s : State) (hm : μ .regs = false) : Spares μ σ s (after (execHcReady s) s) :=
  after_spares (by simp [hm])

@[simp] theorem after_execWake_spares (n : BitVec 8) (s : State)
    (hm : μ .regs = false ∧ μ .cores = false ∧ μ .power = false) : Spares μ σ s (after (execWake n s) s) :=
  after_spares (by simp [hm])

@[simp] theorem after_execCacheFlush_spares (n : BitVec 8) (s : State)
    (hm : μ .mem = false ∧ μ .poison = false ∧ μ .stackDies = false ∧ μ .hc = false) :
    Spares μ σ s (after (execCacheFlush n s) s) :=
  after_spares (by simp [hm])

theorem onlyIf_kept (b : Bool) (f : State → State) (s : State) (hf : ∀ s, Kept μ s (f s)) : Kept μ s (onlyIf b f s) :=
  by simp [onlyIf, Spares.of (hf ..)]

@[simp] theorem onlyIf_spares (b : Bool) (f : State → State) (s : State) (hf : ∀ s, Kept μ s (f s)) :
    Spares μ σ s (onlyIf b f s) := .of (onlyIf_kept b f s hf)

@[simp] theorem queueAction_spares (act q : Nat) (s : State) : Spares .none σ s (queueAction act q s) := by
  refine .of ?_
  unfold queueAction
  split <;> simp

@[simp] theorem queueCommand_spares (act q : Nat) (s : State) : Spares .none σ s (queueCommand act q s) :=
  .of <| by simp [queueCommand]

@[simp] theorem tallyAction_spares (act : Nat) (s : State) : Spares .none σ s (tallyAction act s) := by
  refine .of ?_
  unfold tallyAction
  (repeat' split) <;> simp

/-- The mask names nothing that `coreCtl` can change. -/
@[simp] abbrev Mask.AllowsCoreCtl (μ : Mask) : Prop :=
  μ .mem = false ∧ μ .poison = false ∧ μ .cellar = false ∧ μ .cellarPoison = false ∧ μ .regs = false ∧ μ .cores = false ∧
  μ .stackDies = false ∧ μ .hc = false ∧ μ .power = false ∧ μ .mgmt = false ∧ μ .out = false

@[simp] theorem coreCtl_spares (w : Agent) (off n v : Nat) (s : State) (hm : μ.AllowsCoreCtl) :
    Spares μ σ s (coreCtl w off n v s) := .of <| by simp [coreCtl, hm]

/-- The mask names nothing that `engCtl` can change. -/
@[simp] abbrev Mask.AllowsEngCtl (μ : Mask) : Prop :=
  μ .mem = false ∧ μ .poison = false ∧ μ .cellar = false ∧ μ .cellarPoison = false ∧ μ .regs = false ∧ μ .cores = false ∧
  μ .stackDies = false ∧ μ .mgmt = false ∧ μ .out = false

@[simp] theorem engCtl_spares (w : Agent) (off n e v : Nat) (s : State) (hm : μ.AllowsEngCtl) :
    Spares μ σ s (engCtl w off n e v s) := .of <| by simp [engCtl, hm]

/-- The mask names nothing that `fabPortCtl` can change. -/
@[simp] abbrev Mask.AllowsFabPortCtl (μ : Mask) : Prop :=
  μ .mem = false ∧ μ .poison = false ∧ μ .cellar = false ∧ μ .cellarPoison = false ∧ μ .regs = false ∧ μ .stackDies = false ∧
  μ .fab = false ∧ μ .mgmt = false ∧ μ .out = false

@[simp] theorem fabPortCtl_spares (w : Agent) (off p v : Nat) (s : State) (hm : μ.AllowsFabPortCtl) :
    Spares μ σ s (fabPortCtl w off p v s) := .of <| by simp [fabPortCtl, hm]

@[simp] theorem guestCtl_spares (w : Agent) (off g v : Nat) (s : State) : Spares .none σ s (guestCtl w off g v s) :=
  .of <| by simp [guestCtl]

@[simp] theorem svcCtl_spares (w : Agent) (off v : Nat) (s : State) : Spares .none σ s (svcCtl w off v s) :=
  .of <| by simp [svcCtl]

@[simp] theorem writeRow_spares (w : Agent) (r : RegRow) (ix : List Nat) (off v : Nat) (s : State) :
    Spares .none σ s (writeRow w r ix off v s) := by
  refine .of ?_
  unfold writeRow
  split <;> simp

@[simp] theorem badTally_spares (off : Nat) (s : State) (hm : μ .regs = false) : Spares μ σ s (badTally off s) :=
  .of <| by simp [badTally, hm]
@[simp] theorem badWidth_spares (s : State) (hm : μ .regs = false) : Spares μ σ s (badWidth s) :=
  .of <| by simp [badWidth, hm]

@[simp] theorem registerWrite_spares (w : Agent) (off n v : Nat) (s : State) : Spares .none σ s (registerWrite w off n v s) :=
  by
  refine .of ?_
  unfold registerWrite
  (repeat' split) <;> simp

@[simp] theorem execRegisterWrite_gives (w : Agent) (off : BitVec 32) (bytes : BitVec 4) (value : BitVec 64) (s : State) :
    Gives .none s (execRegisterWrite w off bytes value s) := by simp [execRegisterWrite]

/-! ### Diagnostic commands (R301, R302) -/

@[simp] theorem testEngine_spares (c : CmdRef) (n : Nat) (s : State) (e : Nat) (hm : μ .cores = false) :
    Spares μ σ s (testEngine c n s e) := .of <| by simp [testEngine, hm]

@[simp] theorem patrolBody_spares (c : CmdRef) (cores : BitVec 256) (x : Cmd) (s : State)
    (hm : μ .cmds = false ∧ μ .cores = false) : Spares μ σ s (patrolBody c cores x s) := .of <| by simp [patrolBody, hm]

@[simp] theorem execSelftestPatrol_gives (c : CmdRef) (cores : BitVec 256) (s : State)
    (hm : μ .cmds = false ∧ μ .walks = false ∧ μ .cores = false) : Gives μ s (execSelftestPatrol c cores s) :=
  by simp [execSelftestPatrol, hm]

@[simp] theorem loopbackBody_spares (c : CmdRef) (cores : BitVec 256) (x : Cmd) (s : State) (hm : μ .cmds = false) :
    Spares μ σ s (loopbackBody c cores x s) := .of <| by simp [loopbackBody, hm]

@[simp] theorem execSelftestLoopback_gives (c : CmdRef) (cores : BitVec 256) (s : State)
    (hm : μ .cmds = false ∧ μ .walks = false) : Gives μ s (execSelftestLoopback c cores s) := by simp [execSelftestLoopback, hm]

@[simp] theorem Work.dumpUnit_spares (w : Work) (dst : Bref) (g : Seg) (src : List Byte) (i : Nat)
    (hm : μ.AllowsWorkStoreBytes) : Spares μ σ w.s (w.dumpUnit dst g src i).s := .of <| by simp [Work.dumpUnit, hm]

@[simp] theorem dumpWork_spares (c : CmdRef) (dst : Bref) (maxBytes : BitVec 32) (src : List Byte) (e : Cmd) (s : State)
    (hm : μ.AllowsSignalWork) : Spares μ σ s (dumpWork c dst maxBytes src e s).s := .of <| by simp [dumpWork, hm]

/-- The mask names nothing that `dumpBody` can change. -/
@[simp] abbrev Mask.AllowsDumpBody (μ : Mask) : Prop :=
  μ .mem = false ∧ μ .poison = false ∧ μ .cellar = false ∧ μ .cellarPoison = false ∧ μ .regs = false ∧ μ .cmds = false ∧
  μ .staged = false ∧ μ .dpool = false ∧ μ .cores = false ∧ μ .partSets = false ∧ μ .stackDies = false ∧ μ .fab = false ∧
  μ .g0 = false ∧ μ .g1 = false ∧ μ .faults = false ∧ μ .mgmt = false ∧ μ .out = false

@[simp] theorem dumpBody_spares (c : CmdRef) (dst : Bref) (maxBytes : BitVec 32) (src : List Byte) (e : Cmd) (s : State)
    (hm : μ.AllowsDumpBody) : Spares μ σ s (dumpBody c dst maxBytes src e s) := .of <| by simp [dumpBody, hm]

/-- The mask names nothing that `execDumpCoreRegs` can change. -/
@[simp] abbrev Mask.AllowsExecDumpCoreRegs (μ : Mask) : Prop :=
  μ .mem = false ∧ μ .poison = false ∧ μ .cellar = false ∧ μ .cellarPoison = false ∧ μ .regs = false ∧ μ .cmds = false ∧
  μ .staged = false ∧ μ .dpool = false ∧ μ .walks = false ∧ μ .cores = false ∧ μ .partSets = false ∧ μ .stackDies = false ∧
  μ .fab = false ∧ μ .g0 = false ∧ μ .g1 = false ∧ μ .faults = false ∧ μ .mgmt = false ∧ μ .out = false

@[simp] theorem execDumpCoreRegs_gives (c : CmdRef) (core : BitVec 8) (dst : Bref) (maxBytes : BitVec 32) (s : State)
    (hm : μ.AllowsExecDumpCoreRegs) : Gives μ s (execDumpCoreRegs c core dst maxBytes s) := by simp [execDumpCoreRegs, hm]

@[simp] theorem execDumpSpill_gives (c : CmdRef) (dst : Bref) (maxBytes : BitVec 32) (s : State) (hm : μ.AllowsExecDumpCoreRegs)
    : Gives μ s (execDumpSpill c dst maxBytes s) := by simp [execDumpSpill, hm]

@[simp] theorem execDumpLedger_gives (c : CmdRef) (dst : Bref) (maxBytes : BitVec 32) (s : State)
    (hm : μ.AllowsExecDumpCoreRegs) : Gives μ s (execDumpLedger c dst maxBytes s) := by simp [execDumpLedger, hm]

end

end Sys2Proof.Machine
end

section
/-! The fabric's messages and the accesses held for a fence spare what is to be left. -/

namespace Sys2Proof.Machine
open Sys2Proof

section
variable {μ : Mask} {σ : State}

/-! ### The messages as their destination acts on them (R472 to R486) -/

@[simp] theorem forward_spares (kind : Nat) (h : MsgHdr) (args : List Nat) (bs : List Byte) (s : State)
    (hm : μ .regs = false ∧ μ .fab = false ∧ μ .out = false) : Spares μ σ s (forward kind h args bs s) :=
  .of <| by simp [forward, hm]

@[simp] theorem sendAck_spares (src cls seq : Nat) (f : Fail) (s : State) (hm : μ .fab = false ∧ μ .out = false) :
    Spares μ σ s (sendAck src cls seq f s) := .of <| by simp [sendAck, hm]

theorem receiveThen_kept (after : State → State) (kind : Nat) (h : MsgHdr) (args : List Nat) (bs : List Byte)
    (apply : State → State × Fail) (s : State) (hafter : ∀ s, Kept μ s (after s)) (happly : ∀ s, Kept μ s (apply s).1)
    (hm : μ .regs = false ∧ μ .fab = false ∧ μ .out = false) : Kept μ s (receiveThen after kind h args bs apply s) :=
  by simp [receiveThen, Spares.of (hafter ..), Spares.of (happly ..), hm]

@[simp] theorem receiveThen_spares (after : State → State) (kind : Nat) (h : MsgHdr) (args : List Nat) (bs : List Byte)
    (apply : State → State × Fail) (s : State) (hafter : ∀ s, Kept μ s (after s)) (happly : ∀ s, Kept μ s (apply s).1)
    (hm : μ .regs = false ∧ μ .fab = false ∧ μ .out = false) : Spares μ σ s (receiveThen after kind h args bs apply s) :=
  .of (receiveThen_kept after kind h args bs apply s hafter happly hm)

theorem receive_kept (kind : Nat) (h : MsgHdr) (args : List Nat) (bs : List Byte) (apply : State → State × Fail) (s : State)
    (happly : ∀ s, Kept .none s (apply s).1) : Kept .none s (receive kind h args bs apply s) :=
  by simp [receive, Spares.of (happly ..)]

@[simp] theorem receive_spares (kind : Nat) (h : MsgHdr) (args : List Nat) (bs : List Byte) (apply : State → State × Fail)
    (s : State) (happly : ∀ s, Kept .none s (apply s).1) : Spares .none σ s (receive kind h args bs apply s) :=
  .of (receive_kept kind h args bs apply s happly)

theorem receiveEpoch_kept (h : MsgHdr) (args : List Nat) (apply : State → State) (s : State) (happly : ∀ s, Kept μ s (apply s))
    (hm : μ .regs = false ∧ μ .fab = false ∧ μ .out = false) : Kept μ s (receiveEpoch h args apply s) :=
  by simp [receiveEpoch, Spares.of (happly ..), hm]

@[simp] theorem receiveEpoch_spares (h : MsgHdr) (args : List Nat) (apply : State → State) (s : State)
    (happly : ∀ s, Kept μ s (apply s)) (hm : μ .regs = false ∧ μ .fab = false ∧ μ .out = false) :
    Spares μ σ s (receiveEpoch h args apply s) := .of (receiveEpoch_kept h args apply s happly hm)

/-- The mask names nothing that `execPrepare` can change. -/
@[simp] abbrev Mask.AllowsExecPrepare (μ : Mask) : Prop :=
  μ .regs = false ∧ μ .cmds = false ∧ μ .progs = false ∧ μ .fab = false ∧ μ .out = false

@[simp] theorem execPrepare_gives (h : MsgHdr) (handle : BitVec 16) (slot : BitVec 8) (epoch : BitVec 32) (bell : BitVec 64)
    (period : BitVec 8) (s : State) (hm : μ.AllowsExecPrepare) : Gives μ s (execPrepare h handle slot epoch bell period s) :=
  by simp [execPrepare, hm]

@[simp] theorem execVote_gives (h : MsgHdr) (handle : BitVec 16) (kind : VoteKind) (s : State) (hm : μ.AllowsCommitBody) :
    Gives μ s (execVote h handle kind s) := by simp [execVote, hm]

@[simp] theorem execDecide_gives (h : MsgHdr) (d : Decision) (s : State)
    (hm : μ .regs = false ∧ μ .progs = false ∧ μ .fab = false ∧ μ .out = false) : Gives μ s (execDecide h d s) :=
  by simp [execDecide, hm]

@[simp] theorem execAbort_gives (m : AbortMsg) (s : State)
    (hm : μ .regs = false ∧ μ .progs = false ∧ μ .fab = false ∧ μ .out = false) : Gives μ s (execAbort m s) := by
  unfold execAbort
  split <;> simp [hm]

@[simp] theorem remoteWrite_spares (sender : Nat) (r : RemoteRef) (bs : List Byte) (tile : Bool) (s : State)
    (hm : μ.AllowsWorkStoreBytes) : Spares μ σ s (remoteWrite sender r bs tile s).1 := by
  refine .of ?_
  unfold remoteWrite
  (repeat' split) <;> simp [hm]

@[simp] theorem execFabWrite_gives (h : MsgHdr) (r : RemoteRef) (bytes : List (BitVec 8)) (tile : Bool) (s : State) :
    Gives .none s (execFabWrite h r bytes tile s) := by
  unfold execFabWrite
  split <;> simp

@[simp] theorem remoteRead_spares (h : MsgHdr) (r : RemoteRef) (n : Nat) (s : State)
    (hm : μ .regs = false ∧ μ .cores = false ∧ μ .fab = false ∧ μ .out = false) : Spares μ σ s (remoteRead h r n s).1 := by
  refine .of ?_
  unfold remoteRead
  split <;> simp [hm]

@[simp] theorem execReadReq_gives (h : MsgHdr) (r : RemoteRef) (len : BitVec 16) (s : State) :
    Gives .none s (execReadReq h r len s) := by
  unfold execReadReq
  split <;> simp

@[simp] theorem execReadResp_gives (h : MsgHdr) (bytes : List (BitVec 8)) (poison : Bool) (s : State) :
    Gives .none s (execReadResp h bytes poison s) := by
  unfold execReadResp
  (repeat' split) <;> simp

@[simp] theorem acked_spares (r : OutReq) (s : State) (hm : μ.AllowsFlushOwed) : Spares μ σ s (acked r s) := by
  refine .of ?_
  unfold acked
  (repeat' split) <;> simp [hm]

@[simp] theorem execAck_gives (h : MsgHdr) (status detail : BitVec 16) (s : State) :
    Gives .none s (execAck h status detail s) := by
  unfold execAck
  (repeat' split) <;> simp

@[simp] theorem remoteTally_spares (src : Nat) (op : TallyOpKind) (t : TallyRef) (n scope : Nat) (s : State)
    (hm : μ .regs = false ∧ μ .cmds = false ∧ μ .tallies = false ∧ μ .waiters = false) :
    Spares μ σ s (remoteTally src op t n scope s).1 := by
  refine .of ?_
  unfold remoteTally
  split <;> simp [hm]

@[simp] theorem execTallyOp_gives (h : MsgHdr) (op : TallyOpKind) (t : TallyRef) (n : BitVec 64) (scope : BitVec 3) (s : State)
    : Gives .none s (execTallyOp h op t n scope s) := by simp [execTallyOp]

@[simp] theorem dropSlot_spares (root coll tile : Nat) (s : State) (hm : μ .fab = false) :
    Spares μ σ s (dropSlot root coll tile s) := .of <| by simp [dropSlot, hm]

@[simp] theorem putSlot_spares (x : CollSlot) (s : State) (hm : μ .fab = false) : Spares μ σ s (putSlot x s) :=
  .of <| by simp [putSlot, hm]

@[simp] theorem collDone_spares (d : CollDesc) (f : Option Fail) (trunc : Bool) (s : State) :
    Spares .none σ s (collDone d f trunc s) := by
  refine .of ?_
  unfold collDone
  split <;> simp

@[simp] theorem collWrite_spares (d : CollDesc) (x : CollSlot) (s : State) : Spares .none σ s (collWrite d x s) :=
  .of <| by simp [collWrite]

@[simp] theorem slotFull_spares (d : CollDesc) (x : CollSlot) (s : State) : Spares .none σ s (slotFull d x s) :=
  .of <| by simp [slotFull]

theorem collCombine_kept {d : CollDesc} {h : MsgHdr} {m : CollMsg} {s t : State} (e : collCombine d h m s = some t) :
    Kept .none s t := by
  unfold collCombine at e
  extract_lets die put at e
  have hput (x : CollSlot) : Kept .none s (put x) := by simp [put]
  clear_value put
  split at e
  · split at e
    · cases e; exact hput _
    · split at e <;> cases e
      simp
  · split at e <;> cases e
    exact hput _

@[simp] theorem execCollAdd_gives (h : MsgHdr) (m : CollMsg) (s : State) : Gives .none s (execCollAdd h m s) := by
  have combined (d : CollDesc) (s t : State) (ht : Kept .none s t) : Kept .none s ((collCombine d h m s).getD t) := by
    rcases e : collCombine d h m s with _ | u
    · exact ht
    · exact (collCombine_kept e)
  unfold execCollAdd
  dsimp only
  split
  · simp
  · split
    · split
      · simp
      · simp [Spares.of (combined ..)]
    · split
      · simp
      · simp [Spares.of (combined ..)]

@[simp] theorem maxDown_spares (d : CollDesc) (x : MaxSlot) (s : State) : Spares .none σ s (maxDown d x s) := by
  refine .of ?_
  unfold maxDown
  dsimp only
  (repeat' split) <;> simp

@[simp] theorem collMaxAt_spares (d : CollDesc) (h : MsgHdr) (m : CollMaxMsg) (s : State) :
    Spares .none σ s (collMaxAt d h m s) := .of <| by simp [collMaxAt]

@[simp] theorem execCollMax_gives (h : MsgHdr) (m : CollMaxMsg) (s : State) : Gives .none s (execCollMax h m s) := by
  unfold execCollMax
  split <;> simp

@[simp] theorem noTarget_spares (w : Agent) (store : Bool) (s : State) (hm : μ .out = false) :
    Spares μ σ s (noTarget w store s) := by
  refine .of ?_
  unfold noTarget
  split <;> simp [hm]

@[simp] theorem execRemotePortAccess_gives (w : Agent) (addr : BitVec 48) (write : Option (List (BitVec 8))) (len : BitVec 7)
    (s : State) : Gives .none s (execRemotePortAccess w addr write len s) := by
  unfold execRemotePortAccess
  dsimp only
  (repeat' split) <;> simp

/-! ### Held accesses (R197, R198, R571, R573) -/

@[simp] theorem orSame_spares {a : Ans} {s : State} (h : Gives μ s a) : Spares μ σ s (orSame s a) := by
  obtain ⟨t, rfl, k⟩ := h
  exact .of k

@[simp] theorem serveHeld_spares (a : HeldAccess) (s : State) : Spares .none σ s (serveHeld a s) :=
  .of <| by cases a <;> simp [serveHeld]

@[simp] theorem serveAllHeld_spares (s : State) : Spares .none σ s (serveAllHeld s) := .of <| by simp [serveAllHeld]
@[simp] theorem execSpareMapIn_gives (core : BitVec 8) (s : State) : Gives .none s (execSpareMapIn core s) :=
  by simp [execSpareMapIn]

@[simp] theorem execSparePatrol_gives (die : BitVec 2) (phys : BitVec 7) (failed : BitVec 4) (s : State) :
    Gives .none s (execSparePatrol die phys failed s) := by simp [execSparePatrol]

@[simp] theorem execDieFence_gives (die : BitVec 2) (s : State) : Gives .none s (execDieFence die s) := by simp [execDieFence]

@[simp] theorem execDomainFence_gives (d : DomainRef) (s : State) : Gives .none s (execDomainFence d s) := by
  unfold execDomainFence
  split <;> simp

@[simp] theorem lookDie_spares (d : Nat) (s : State) : Spares .none σ s (lookDie d s) := .of <| by simp [lookDie]
@[simp] theorem lookHost_spares (s : State) : Spares .none σ s (lookHost s) := .of <| by simp [lookHost]
@[simp] theorem execOwlCheck_gives (s : State) : Gives .none s (execOwlCheck s) := by simp [execOwlCheck]

@[simp] theorem execStileFence_gives (link : BitVec 6) (s : State) : Gives .none s (execStileFence link s) := by
  unfold execStileFence
  extract_lets i s1 lost
  have hlost (s : State) (x : Nat) : Kept .none s (lost s x) := by
    unfold lost
    dsimp only
    (repeat' split) <;> simp
  clear_value lost
  split
  · simp
  · simp [s1, Spares.of (hlost ..)]

end

end Sys2Proof.Machine
end

section
/-! Starts, losses of power and the edge leave the commands that wait and the canonical form. -/

namespace Sys2Proof.Machine
open Sys2Proof

section
variable {μ : Mask} {σ : State}

/-! ### Power (R541, R601, R651 to R653) -/

/-- The mask names nothing that `dropMain` can change. -/
@[simp] abbrev Mask.AllowsDropMain (μ : Mask) : Prop :=
  μ .mem = false ∧ μ .poison = false ∧ μ .wbuf = false ∧ μ .regs = false ∧ μ .queues = false ∧ μ .cmds = false ∧ μ .ctxs = false
  ∧ μ .parts = false ∧ μ .staged = false ∧ μ .segs = false ∧ μ .dpool = false ∧ μ .walks = false ∧ μ .tallies = false ∧
  μ .waiters = false ∧ μ .cores = false ∧ μ .progs = false ∧ μ .partSets = false ∧ μ .stackDies = false ∧ μ .hc = false ∧
  μ .fab = false ∧ μ .g0 = false ∧ μ .g1 = false ∧ μ .pA = false ∧ μ .pB = false ∧ μ .power = false ∧ μ .faults = false ∧
  μ .mgmt = false ∧ μ .tray = false ∧ μ .chainGen = false ∧ μ .chainPosted = false ∧ μ .unswept = false

@[simp] theorem dropMain_spares (journal : Bool) (s : State) (hm : μ.AllowsDropMain) : Spares μ σ s (dropMain journal s) :=
  .of <| by simp [dropMain, hm]

@[simp] theorem powerDown_spares (journal : Bool) (s : State) (hm : μ.AllowsDropMain) : Spares μ σ s (powerDown journal s) :=
  .of <| by simp [powerDown, hm]

@[simp] theorem standbyLost_spares (s : State) (hm : μ.AllowsDropMain) : Spares μ σ s (standbyLost s) :=
  .of <| by simp [standbyLost, hm]

@[simp] theorem mainLost_spares (s : State) (hm : μ.AllowsDropMain) : Spares μ σ s (mainLost s) :=
  .of <| by simp [mainLost, hm]

@[simp] theorem execMainInputLoss_gives (s : State) : Gives .none s (execMainInputLoss s) := by simp [execMainInputLoss]

@[simp] theorem standbyInputLost_spares (mainOk : Bool) (s : State) (hm : μ.AllowsDropMain) :
    Spares μ σ s (standbyInputLost mainOk s) := by
  refine .of ?_
  unfold standbyInputLost
  split <;> simp [hm]

@[simp] theorem execStandbyInputLoss_gives (mainInRange : Bool) (s : State) :
    Gives .none s (execStandbyInputLoss mainInRange s) := by simp [execStandbyInputLoss]

@[simp] theorem execPrsntDeassert_gives (s : State) : Gives .none s (execPrsntDeassert s) := by simp [execPrsntDeassert]

@[simp] theorem execCycleReqTimeout_gives (s : State) : Gives .none s (execCycleReqTimeout s) := by
  unfold execCycleReqTimeout
  split <;> simp

/-- The mask names nothing that `thermalTrip` can change. -/
@[simp] abbrev Mask.AllowsThermalTrip (μ : Mask) : Prop :=
  μ .mem = false ∧ μ .poison = false ∧ μ .wbuf = false ∧ μ .regs = false ∧ μ .queues = false ∧ μ .cmds = false ∧ μ .ctxs = false
  ∧ μ .parts = false ∧ μ .staged = false ∧ μ .segs = false ∧ μ .dpool = false ∧ μ .walks = false ∧ μ .tallies = false ∧
  μ .waiters = false ∧ μ .cores = false ∧ μ .progs = false ∧ μ .partSets = false ∧ μ .stackDies = false ∧ μ .hc = false ∧
  μ .fab = false ∧ μ .g0 = false ∧ μ .g1 = false ∧ μ .pA = false ∧ μ .pB = false ∧ μ .power = false ∧ μ .faults = false ∧
  μ .mgmt = false ∧ μ .tray = false ∧ μ .chainGen = false ∧ μ .chainPosted = false ∧ μ .out = false ∧ μ .unswept = false

@[simp] theorem thermalTrip_spares (isl c : Nat) (s : State) (hm : μ.AllowsThermalTrip) :
    Spares μ σ s (thermalTrip isl c s) := by
  refine .of ?_
  unfold thermalTrip
  split
  · simp
  · extract_lets s1 s2 s3 s4
    have h2 : Kept μ s s2 := by simp [s2, s1, hm]
    have h3 : Kept μ s s3 := by unfold s3; split <;> simp [h2, hm]
    simp [s4, h3, hm]

@[simp] theorem execThermalTrip_gives (r : BitVec 9) (celsius : BitVec 8) (s : State) (hm : μ.AllowsThermalTrip) :
    Gives μ s (execThermalTrip r celsius s) := by simp [execThermalTrip, hm]

@[simp] theorem mailPowerOff_spares (s : State) : Spares .none σ s (mailPowerOff s) := .of <| by simp [mailPowerOff]

@[simp] theorem execPowerOff_gives (m : MailRef) (s : State) : Gives .none s (execPowerOff m s) := by simp [execPowerOff, done]

@[simp] theorem mirrorAll_spares (s : State) (hm : μ .faults = false) : Spares μ σ s (mirrorAll s) :=
  .of <| by simp [mirrorAll, hm]

/-- The mask names nothing that `dropLinks` can change. -/
@[simp] abbrev Mask.AllowsDropLinks (μ : Mask) : Prop :=
  μ .regs = false ∧ μ .fab = false ∧ μ .pA = false ∧ μ .pB = false ∧ μ .out = false

@[simp] theorem dropLinks_spares (s : State) (hm : μ.AllowsDropLinks) : Spares μ σ s (dropLinks s) :=
  .of <| by simp [dropLinks, hm]

/-- The mask names nothing that `execSafeEntry` can change. -/
@[simp] abbrev Mask.AllowsExecSafeEntry (μ : Mask) : Prop :=
  μ .mem = false ∧ μ .poison = false ∧ μ .cellar = false ∧ μ .cellarPoison = false ∧ μ .wbuf = false ∧ μ .regs = false ∧
  μ .queues = false ∧ μ .cmds = false ∧ μ .ctxs = false ∧ μ .parts = false ∧ μ .staged = false ∧ μ .segs = false ∧
  μ .dpool = false ∧ μ .walks = false ∧ μ .tallies = false ∧ μ .waiters = false ∧ μ .cores = false ∧ μ .progs = false ∧
  μ .partSets = false ∧ μ .stackDies = false ∧ μ .hc = false ∧ μ .fab = false ∧ μ .g0 = false ∧ μ .g1 = false ∧ μ .pA = false ∧
  μ .pB = false ∧ μ .power = false ∧ μ .faults = false ∧ μ .mgmt = false ∧ μ .tray = false ∧ μ .chainGen = false ∧
  μ .chainPosted = false ∧ μ .out = false ∧ μ .unswept = false

@[simp] theorem execSafeEntry_gives (s : State) (hm : μ.AllowsExecSafeEntry) : Gives μ s (execSafeEntry s) :=
  by simp [execSafeEntry, hm]

/-! ### Starts (R585 to R590) -/

@[simp] theorem loadConfig_spares (s : State) (hm : μ.AllowsAfterStore) : Spares μ σ s (loadConfig s) :=
  .of <| by simp [loadConfig, hm]

@[simp] theorem replayJournal_spares (s : State) (hm : μ.AllowsModuleCycle) : Spares μ σ s (replayJournal s) :=
  .of <| by simp [replayJournal, hm]

@[simp] theorem startCellar_spares (bays : Nat) (s : State) (hm : μ .regs = false ∧ μ .tray = false) :
    Spares μ σ s (startCellar bays s) := .of <| by simp [startCellar, hm]

@[simp] theorem startPorts_spares (cables : Nat) (s : State) (hm : μ .regs = false ∧ μ .fab = false) :
    Spares μ σ s (startPorts cables s) := by
  refine .of ?_
  unfold startPorts
  refine foldl_kept _ (fun s p => ?_) _ _
  dsimp only
  split <;> simp [hm]

@[simp] theorem startGuests_spares (s : State) (hm : μ .regs = false ∧ μ .g0 = false ∧ μ .g1 = false) :
    Spares μ σ s (startGuests s) := .of <| by simp [startGuests, hm]

@[simp] theorem startMemory_spares (found : Nat) (ddr fast : Bool) (s : State)
    (hm : μ .regs = false ∧ μ .faults = false ∧ μ .mgmt = false ∧ μ .out = false) :
    Spares μ σ s (startMemory found ddr fast s) := .of <| by simp [startMemory, hm]

/-- The mask names nothing that `startDies` can change. -/
@[simp] abbrev Mask.AllowsStartDies (μ : Mask) : Prop :=
  μ .regs = false ∧ μ .cores = false ∧ μ .power = false ∧ μ .faults = false ∧ μ .mgmt = false ∧ μ .out = false

@[simp] theorem startDies_spares (dies : Nat) (s : State) (hm : μ.AllowsStartDies) : Spares μ σ s (startDies dies s) := by
  refine .of ?_
  have hfence (d : Nat) (s : State) : Kept μ s (((List.range 64).map (64 * d + ·)).foldl (fun s n => fenceCoreState n s) s) := by
    simp [hm]
  simp [startDies, Spares.of (hfence ..), hm]

/-- The mask names nothing that `serveAgain` can change. -/
@[simp] abbrev Mask.AllowsServeAgain (μ : Mask) : Prop :=
  μ .regs = false ∧ μ .hc = false ∧ μ .pA = false ∧ μ .pB = false ∧ μ .faults = false ∧ μ .mgmt = false ∧ μ .tray = false ∧
  μ .out = false

@[simp] theorem serveAgain_spares (s : State) (hm : μ.AllowsServeAgain) : Spares μ σ s (serveAgain s) :=
  .of <| by simp [serveAgain, hm]

theorem startWardens_kept {r : StartReport} {s t : State} (e : startWardens r s = some t)
    (hm : μ .regs = false ∧ μ .faults = false ∧ μ .mgmt = false ∧ μ .out = false) : Kept μ s t := by
  unfold startWardens at e
  split at e
  · cases e
  · split at e
    · cases e
    · rw [← Option.some.inj e]
      split <;> simp [hm]

@[simp] theorem bringUp_spares (warm : Bool) (r : StartReport) (s : State) : Spares .none σ s (bringUp warm r s) := by
  refine .of ?_
  unfold bringUp
  extract_lets s0 t1 s1 s2 s3
  have h3 : Kept .none s s3 := by simp [s3, s2, s1, t1, s0]
  split
  · simp [h3]
  · extract_lets s4 s5 s6 s7
    have h7 : Kept .none s s7 := by simp [s7, s6, s5, s4, h3]
    simp [h7]

@[simp] theorem coldStart_spares (r : StartReport) (s : State) : Spares .none σ s (coldStart r s) := by
  refine .of ?_
  unfold coldStart
  split
  · simp
  · extract_lets next t1 f1 s1 s2
    have h2 : Kept .none s s2 := by simp [s2, s1, f1, t1]
    split
    · simp [h2]
    next s3 e =>
      have h3 : Kept .none s s3 := h2.trans ((startWardens_kept (μ := .none) e (by simp)))
      simp [h3]

@[simp] theorem execColdStart_gives (r : StartReport) (s : State) : Gives .none s (execColdStart r s) := by simp [execColdStart]

@[simp] theorem warmStart_spares (r : StartReport) (s : State) : Spares .none σ s (warmStart r s) := by
  refine .of ?_
  unfold warmStart
  split <;> simp

@[simp] theorem execWarmStart_gives (r : StartReport) (s : State) : Gives .none s (execWarmStart r s) := by simp [execWarmStart]

/-! ### The edge (R307) -/

@[simp] theorem nextCount_spares (schedule : Nat) (s : State) (hm : μ .regs = false) : Spares μ σ s (nextCount schedule s) :=
  by
  have hstep (s : State) (n : BitVec 64) (j : Bool) : Kept μ s { s with bell := n, jumped := j } := by simp
  refine .of ?_
  unfold nextCount
  dsimp only
  split
  · exact hstep ..
  · split
    · exact .trans (by simp [hm]) (hstep ..)
    · exact .trans (by simp [hm]) (hstep ..)

@[simp] theorem bellEdge_spares (schedule : Nat) (s : State) : Spares .none σ s (bellEdge schedule s) :=
  .of <| by simp [bellEdge]

@[simp] theorem execBellEdge_gives (schedule : BitVec 64) (s : State) : Gives .none s (execBellEdge schedule s) :=
  by simp [execBellEdge]

end

end Sys2Proof.Machine
end

section
/-! Every command has a next state; it leaves the queue of waiting commands and the canonical form (chapters 09 and 24). -/

namespace Sys2Proof.Machine
open Sys2Proof

/-- Every command, by the rule of its own. -/
theorem exec_gives (i : Instr) (s : State) : Gives .none s (exec i s) := by
  cases i
  all_goals dsimp only [exec]
  all_goals simp

theorem Kept.canonical {μ : Mask} {s t : State} (h : Kept μ s t) (hs : Canonical s) : Canonical t :=
  ⟨h.mem hs.mem, h.cellar hs.cellar, h.regs hs.regs⟩

end Sys2Proof.Machine

namespace Sys2Proof
open Machine

/-- Settles O2: the next state, and the queue among what it has kept. -/
theorem everyCommandAnswersAndLeavesTheQueue : Obligations.EveryCommandAnswersAndLeavesTheQueue := fun i s =>
  let ⟨t, ht, hkept⟩ := exec_gives i s
  ⟨t, ht, hkept.pending⟩

/-- Settles O3: a step idles, or runs the front command on a state with the same maps. -/
theorem stepsKeepCanonicalForm : Obligations.StepsKeepCanonicalForm := by
  intro s t hs ht
  unfold step at ht
  split at ht
  · exact Host.Outcome.next.inj ht ▸ hs
  next i rest _ =>
    obtain ⟨u, hu, hkept⟩ := exec_gives i { s with pending := rest }
    obtain rfl : u = t := Host.Outcome.next.inj (hu.symm.trans ht)
    exact hkept.canonical ⟨hs.mem, hs.cellar, hs.regs⟩

end Sys2Proof
end

section
/-! What packet commands leave unchanged, family by family (chapters 08, 09 and 13). -/

namespace Sys2Proof.Machine
open Sys2Proof

/-- The mask of the pieces listed. -/
def Mask.of (l : List Piece) : Mask := fun p => decide (p ∈ l)

/-- What `SameBell` speaks of, but for the count, which has rules of its own. -/
def bellPieces : List Piece := [.power, .tray, .chainGen, .chainPosted]

def memoryPieces : List Piece := [.mem, .poison, .cellar, .cellarPoison, .wbuf]

def outsidePieces : List Piece := [.hc, .fab, .g0, .g1, .pA, .pB, .stackDies]

def tablePieces : List Piece := [.parts, .staged, .segs, .partSets, .progs, .tallies, .waiters]

/-- The command leaves the bell count and the pieces listed. -/
def Leaves (l : List Piece) (i : Instr) (s : State) : Prop :=
  movesTheBell i = false ∧ Gives (.of (bellPieces ++ l)) s (exec i s)

/-- What a command that leaves some pieces has left. -/
theorem Leaves.apply {l : List Piece} {i : Instr} {s t : State} (h : Leaves l i s) (e : exec i s = .next t) :
    SameBell s t ∧ ∀ p ∈ l, p.Same s t := by
  obtain ⟨hbell, u, hu, hkept⟩ := h
  obtain rfl : u = t := Host.Outcome.next.inj (hu.symm.trans e)
  have hsame (p : Piece) (hp : p ∈ bellPieces ++ l) : p.Same s u := hkept.pieces p (decide_eq_true hp)
  have hbellSame (p : Piece) (hp : p ∈ bellPieces) : p.Same s u := hsame p (List.mem_append_left l hp)
  obtain ⟨hcount, hjumped⟩ := Prod.mk.inj (exec_keeps s hbell u hu)
  exact ⟨⟨hcount, hjumped, hbellSame .power (by decide), hbellSame .tray (by decide), hbellSame .chainGen (by decide),
    hbellSame .chainPosted (by decide)⟩, fun p hp => hsame p (List.mem_append_right bellPieces hp)⟩

/-! ### The families -/

def dataPieces : List Piece :=
  [.parts, .segs, .progs, .tallies, .waiters, .unswept, .queues, .hc, .pA, .pB]

theorem leaves_of_isData {i : Instr} (h : isData i = true) (s : State) : Leaves dataPieces i s := by
  cases i
  case copy | gather | scatter | zero | cellarRead | cellarWrite | matmul | matmulAcc | anchorScan | reduce | elementwise | func
    | softmax | norm | rowstat | dumpSpill | dumpLedger | dumpCoreRegs =>
    refine ⟨rfl, ?_⟩
    dsimp only [exec]
    simp [Mask.of, bellPieces, dataPieces]
  all_goals cases h

def queueControlPieces : List Piece := tablePieces ++ [.ctxs, .hc, .wbuf]

theorem leaves_of_isQueueControl {i : Instr} (h : isQueueControl i = true) (s : State) : Leaves queueControlPieces i s := by
  cases i
  case nop | queueMark | fence =>
    refine ⟨rfl, ?_⟩
    dsimp only [exec]
    simp [Mask.of, bellPieces, queueControlPieces, tablePieces]
  all_goals cases h

def tallyPieces : List Piece :=
  memoryPieces ++ outsidePieces ++ [.queues, .ctxs, .parts, .progs, .segs, .staged, .cores, .faults]

theorem leaves_of_isTally {i : Instr} (h : isTally i = true) (s : State) : Leaves tallyPieces i s := by
  cases i
  case tallyAdd | tallySub | tallyWait | tallyTake =>
    refine ⟨rfl, ?_⟩
    dsimp only [exec]
    simp [Mask.of, bellPieces, tallyPieces, memoryPieces, outsidePieces]
  all_goals cases h

def signalPieces : List Piece := [.queues, .ctxs, .parts, .progs, .segs, .unswept]

theorem leaves_of_isSignal {i : Instr} (h : isSignal i = true) (s : State) : Leaves signalPieces i s := by
  cases i
  case signalRemote | signalHost | signalHostAdd =>
    refine ⟨rfl, ?_⟩
    dsimp only [exec]
    simp [Mask.of, bellPieces, signalPieces]
  all_goals cases h

theorem leaves_of_isRemoteSignal {i : Instr} (h : isRemoteSignal i = true) (s : State) : Leaves [.staged] i s := by
  cases i
  case signalRemote =>
    refine ⟨rfl, ?_⟩
    dsimp only [exec]
    simp [Mask.of, bellPieces]
  all_goals cases h

def epochPieces : List Piece := [.queues, .parts, .tallies, .waiters, .segs, .unswept, .hc]

theorem leaves_of_isEpoch {i : Instr} (h : isEpoch i = true) (s : State) : Leaves epochPieces i s := by
  cases i
  case epochStage | epochCommit | epochCommitParish | epochPin | epochUnpin =>
    refine ⟨rfl, ?_⟩
    dsimp only [exec]
    simp [Mask.of, bellPieces, epochPieces]
  all_goals cases h

def partPieces : List Piece :=
  memoryPieces ++ outsidePieces ++ [.queues, .ctxs, .progs, .segs, .tallies, .waiters, .faults]

theorem leaves_of_isPart {i : Instr} (h : isPart i = true) (s : State) : Leaves partPieces i s := by
  cases i
  case partSetCores | partSetCaps | partSetMode | partSetTimeouts | partSetVectors | partSetVolumes | partSetTalliesGrant
    | partSetTalliesRevoke | partSetKey | selftestLoopback | selftestPatrol =>
    refine ⟨rfl, ?_⟩
    dsimp only [exec]
    simp [Mask.of, bellPieces, partPieces, memoryPieces, outsidePieces]
  all_goals cases h

theorem leaves_regs_of_isPart {i : Instr} (h : isPart i = true) (hset : setsTimeouts i = false) (s : State) :
    Leaves [.regs] i s := by
  cases i
  case partSetCores | partSetCaps | partSetMode | partSetVectors | partSetVolumes | partSetTalliesGrant
    | partSetTalliesRevoke | partSetKey | selftestLoopback | selftestPatrol =>
    refine ⟨rfl, ?_⟩
    dsimp only [exec]
    simp [Mask.of, bellPieces]
  case partSetTimeouts => cases hset
  all_goals cases h

def programPieces : List Piece := [.queues, .parts, .waiters, .hc, .unswept]

theorem leaves_of_isProgram {i : Instr} (h : isProgram i = true) (s : State) : Leaves programPieces i s := by
  cases i
  case stepLoad | stepUnload | stepRun =>
    refine ⟨rfl, ?_⟩
    dsimp only [exec]
    simp [Mask.of, bellPieces, programPieces]
  all_goals cases h

/-! ### The timeouts of cores -/

/-- A packet command answers as one without an effect would, or its effect takes place. -/
theorem runCmd_eq_or (i : Instr) (c : CmdRef) (needsCore : Bool) (s : State) (body : Cmd → State → State) :
    runCmd i c needsCore s body = runCmd i c needsCore s (fun _ s => s) ∨
      runCmd i c needsCore s body = body (runEntry i c s) (markStarted i c s) := by
  unfold runCmd
  dsimp only
  split
  · exact .inl rfl
  · split
    · exact .inl rfl
    · split
      · exact .inl rfl
      · split
        · exact .inl rfl
        · split
          · exact .inl rfl
          · exact .inr rfl

theorem pendTimeouts_leavesReg {r : Nat} (hr : ∀ n, n < 256 → r ≠ TIER_TMO n ∧ r ≠ TIER_TMO2 n) (p t t2 : Nat) (s : State) :
    LeavesReg r s (pendTimeouts p t t2 s) := by
  unfold pendTimeouts
  generalize hl : (List.range 256).filter _ = l
  have hlt : ∀ n ∈ l, n < 256 := fun n hn => List.mem_range.mp (List.mem_of_mem_filter (hl ▸ hn))
  clear hl
  induction l generalizing s with
  | nil => exact .refl s
  | cons n l ih =>
    obtain ⟨hne, hne2⟩ := hr n (hlt n (List.mem_cons_self ..))
    exact .trans (((LeavesReg.refl s).setReg hne t).setReg hne2 t2) (ih _ fun m hm => hlt m (List.mem_cons_of_mem _ hm))

theorem execPartSetTimeouts_leavesReg {r : Nat} (hr : ∀ n, n < 256 → r ≠ TIER_TMO n ∧ r ≠ TIER_TMO2 n) {c : CmdRef}
    {part : BitVec 8} {tmo tmo2 : BitVec 64} {s t : State} (h : execPartSetTimeouts c part tmo tmo2 s = .next t) :
    LeavesReg r s t := by
  obtain rfl := Host.Outcome.next.inj h
  have hstarted : LeavesReg r s (markStarted (.partSetTimeouts c part tmo tmo2) c s) := .of_regs <|
    (markStarted_spares (μ := .of [.regs]) _ c s (by simp [Mask.of])).kept.pieces .regs rfl
  rcases runCmd_eq_or (.partSetTimeouts c part tmo tmo2) c false s _ with hsame | heffect
  · rw [hsame]
    exact .of_regs ((runCmd_kept (μ := .of [.regs]) _ c false s _ (fun _ s => .refl s) (by simp [Mask.of])).pieces .regs rfl)
  · rw [heffect]
    exact (hstarted.trans (pendTimeouts_leavesReg hr _ _ _ _)).trans (.of_regs rfl)

/-- A PART_SET writes no register but the pending timeouts. -/
theorem isPart_leavesReg {i : Instr} (h : isPart i = true) {r : Nat} (hr : ∀ n, n < 256 → r ≠ TIER_TMO n ∧ r ≠ TIER_TMO2 n)
    {s t : State} (e : exec i s = .next t) : LeavesReg r s t := by
  cases hset : setsTimeouts i with
  | false => exact .of_regs (((leaves_regs_of_isPart h hset s).apply e).2 .regs (by decide))
  | true =>
    cases i
    case partSetTimeouts => exact execPartSetTimeouts_leavesReg hr e
    all_goals cases hset

end Sys2Proof.Machine

namespace Sys2Proof
open Machine

theorem memoryPieces_same {s t : State} (h : ∀ p ∈ memoryPieces, p.Same s t) : SameMemory s t where
  mem := h .mem (by decide)
  poison := h .poison (by decide)
  cellar := h .cellar (by decide)
  cellarPoison := h .cellarPoison (by decide)
  wbuf := h .wbuf (by decide)

theorem outsidePieces_same {s t : State} (h : ∀ p ∈ outsidePieces, p.Same s t) : SameOutside s t where
  hc := h .hc (by decide)
  fab := h .fab (by decide)
  g0 := h .g0 (by decide)
  g1 := h .g1 (by decide)
  pA := h .pA (by decide)
  pB := h .pB (by decide)
  stackDies := h .stackDies (by decide)

/-- Settles O59: family by family, what the commands' rules leave. -/
theorem packetCommandsKeepTheirFrame : Obligations.PacketCommandsKeepTheirFrame := by
  intro i s t e
  refine ⟨fun hi => ?_, fun hi => ?_, fun hi => ?_, fun hi => ?_, fun hi => ?_, fun hi => ?_, fun hi => ?_⟩
  · obtain ⟨hbell, h⟩ := (leaves_of_isData hi s).apply e
    refine ⟨hbell, h .parts (by decide), h .segs (by decide), h .progs (by decide), h .tallies (by decide),
      h .waiters (by decide), fun hnone => ?_, h .queues (by decide), h .hc (by decide), h .pA (by decide), h .pB (by decide)⟩
    obtain ⟨hstaged, hsets⟩ := h .unswept (by decide) hnone
    exact ⟨h .parts (by decide), hstaged, h .segs (by decide), hsets, h .progs (by decide), h .tallies (by decide),
      h .waiters (by decide)⟩
  · obtain ⟨hbell, h⟩ := (leaves_of_isQueueControl hi s).apply e
    exact ⟨hbell, ⟨h .parts (by decide), h .staged (by decide), h .segs (by decide), h .partSets (by decide),
      h .progs (by decide), h .tallies (by decide), h .waiters (by decide)⟩, h .ctxs (by decide), h .hc (by decide),
      h .wbuf (by decide)⟩
  · obtain ⟨hbell, h⟩ := (leaves_of_isTally hi s).apply e
    exact ⟨hbell, memoryPieces_same fun p hp => h p (by simp [tallyPieces, hp]),
      outsidePieces_same fun p hp => h p (by simp [tallyPieces, hp]), h .queues (by decide), h .ctxs (by decide),
      h .parts (by decide), h .progs (by decide), h .segs (by decide), h .staged (by decide), h .cores (by decide),
      h .faults (by decide)⟩
  · obtain ⟨hbell, h⟩ := (leaves_of_isSignal hi s).apply e
    refine ⟨hbell, h .queues (by decide), h .ctxs (by decide), h .parts (by decide), h .progs (by decide), h .segs (by decide),
      fun hwhen => ?_⟩
    rcases hwhen with hremote | hnone
    · exact ((leaves_of_isRemoteSignal hremote s).apply e).2 .staged (by decide)
    · exact (h .unswept (by decide) hnone).1
  · obtain ⟨hbell, h⟩ := (leaves_of_isEpoch hi s).apply e
    exact ⟨hbell, h .queues (by decide), h .parts (by decide), h .tallies (by decide), h .waiters (by decide),
      h .segs (by decide), fun hnone => (h .unswept (by decide) hnone).1, h .hc (by decide)⟩
  · obtain ⟨hbell, h⟩ := (leaves_of_isPart hi s).apply e
    exact ⟨hbell, memoryPieces_same fun p hp => h p (by simp [partPieces, hp]),
      outsidePieces_same fun p hp => h p (by simp [partPieces, hp]),
      fun hset => ((leaves_regs_of_isPart hi hset s).apply e).2 .regs (by decide),
      fun hwf x hx => (isPart_leavesReg hi hx e hwf).2, h .queues (by decide), h .ctxs (by decide), h .progs (by decide),
      h .segs (by decide), h .tallies (by decide), h .waiters (by decide), h .faults (by decide)⟩
  · obtain ⟨hbell, h⟩ := (leaves_of_isProgram hi s).apply e
    exact ⟨hbell, h .queues (by decide), h .parts (by decide), h .waiters (by decide), h .hc (by decide),
      fun hnone => (h .unswept (by decide) hnone).2⟩

end Sys2Proof
end

section
/-! Power samples, trips and coolant (chapter 19), by what their steps leave. -/

namespace Sys2Proof.Machine
open Sys2Proof

theorem sensorEvent_tray (id v : Nat) (s : State) : (sensorEvent id v s).tray = s.tray :=
  (sensorEvent_spares (μ := .of [.tray]) id v s (by simp [Mask.of])).kept.pieces .tray rfl

theorem ledger_tray (kind sev dom addr data : Nat) (s : State) : (ledger kind sev dom addr data s).tray = s.tray :=
  (ledger_spares (μ := .of [.tray]) kind sev dom addr data s (by simp [Mask.of])).kept.pieces .tray rfl

theorem ledger_power (kind sev dom addr data : Nat) (s : State) : (ledger kind sev dom addr data s).power = s.power :=
  (ledger_spares (μ := .of [.power]) kind sev dom addr data s (by simp [Mask.of])).kept.pieces .power rfl

theorem raiseReg_tray (off : Nat) (s : State) : (raiseReg off s).tray = s.tray :=
  (raiseReg_spares (μ := .of [.tray]) off s (by simp [Mask.of])).kept.pieces .tray rfl

/-- A change of the removal state ends its deadline and touches nothing else of the tray. -/
theorem setRstate_tray (v : Nat) (s : State) :
    (setRstate v s).tray = s.tray ∨ (setRstate v s).tray = { s.tray with drainEnd := none } := by
  unfold setRstate
  dsimp only
  split
  · exact .inl rfl
  · refine .inr ?_
    split
    · rw [raiseReg_tray, sensorEvent_tray]
      rfl
    · rw [sensorEvent_tray]
      rfl

theorem setRstate_mainOn (v : Nat) (s : State) : (setRstate v s).tray.mainOn = s.tray.mainOn := by
  rcases setRstate_tray v s with h | h <;> rw [h]

theorem powerDown_off (journal : Bool) (s : State) : (powerDown journal s).tray.mainOn = false := by
  unfold powerDown
  split
  · rfl
  next hoff => exact eq_false_of_ne_true hoff

theorem powerDown_on {journal : Bool} {s : State} (h : s.tray.mainOn = true) : powerDown journal s = dropMain journal s := if_pos h

/-- A trip holds main power off until the Warden is asked for it. -/
def tripHold (s : State) : State := { s with tray := { s.tray with hold := 2 } }

/-- A trip at 110 degrees turns main power off and holds it off. -/
theorem thermalTrip_eq {isl c : Nat} {s : State} (hc : 110 ≤ c) (hon : s.tray.mainOn = true) :
    ∃ u, thermalTrip isl c s = tripHold (dropMain true u) := by
  unfold thermalTrip
  rw [if_neg (by simp [hon, hc])]
  extract_lets s1 s2 s3 s4
  have h2 : s2.tray.mainOn = true := by rw [← hon, sensorEvent_tray, ledger_tray]; rfl
  have h3 : s3.tray.mainOn = true := by
    unfold s3
    split
    · exact h2
    · exact (setRstate_mainOn _ s2).trans h2
  exact ⟨s3, congrArg tripHold (powerDown_on h3)⟩

theorem thermalTrip_cellar (isl c : Nat) (s : State) : (thermalTrip isl c s).cellar = s.cellar :=
  (thermalTrip_spares (μ := .of [.cellar]) isl c s (by simp [Mask.of])).kept.pieces .cellar rfl

theorem effectiveCap_cooling {s : State} (h : s.power.cooling = true) : effectiveCap s ≤ 1200 := by
  rw [effectiveCap, if_pos h]
  exact Nat.min_le_left ..

/-- A sample found bad for as long as the rule asks sets the cooling alarm. -/
theorem execCoolantSample_bad {inlet outlet flow : BitVec 12} {s : State} (hwarm : s.power.cooling = false)
    (hbad : flow.toNat < 10 * getF s THERM_CTL THERM_CTL_FLOW_MIN ∨ 450 < inlet.toNat) :
    ∃ (data : Nat) (u : State), execCoolantSample inlet outlet flow true s =
      .next (ledger 0x0506 0 0 0 data { u with power := { u.power with cooling := true } }) := by
  have hnote : (decide (flow.toNat < 10 * getF s THERM_CTL THERM_CTL_FLOW_MIN) || decide (450 < inlet.toNat)) = true := by
    simpa using hbad
  unfold execCoolantSample
  dsimp only
  rw [hnote, hwarm, if_pos ⟨rfl, rfl, rfl⟩]
  exact ⟨_, _, rfl⟩

end Sys2Proof.Machine

namespace Sys2Proof
open Machine

/-- Settles O46: the cap, the readings and what is held choose. -/
theorem powerEventsTakeEffect : Obligations.PowerEventsTakeEffect := by
  intro s
  refine ⟨fun w mv cur es => ?_, fun hover hnone => ?_, rfl, fun rs ls => rfl, fun i c hc hon => ?_, fun i o f => ?_⟩
  · intro s1 s2 hmoving hcap
    obtain ⟨u, hu⟩ : ∃ u, u = overState { countSample w.toNat s1.power with moving := [] }
      { s1 with power := countSample w.toNat s1.power } := ⟨_, rfl⟩
    obtain ⟨hcap1, hcapu, hsample⟩ := powerSample_over (mv := mv.toNat) (cur := cur.toNat) (es := es) w.isLt hmoving hcap rfl hu
    refine ⟨u, (congrArg Host.Outcome.next hsample).trans ?_, ?_⟩
    · rw [capAction_over (by rw [hcapu]; exact hcap)]
    · have hbit : bnat (decide (effectiveCap s1 < w.toNat)) = 1 := by
        rw [hcap1]
        simp [bnat, hcap]
      rw [hu]
      show _ = setF PWR_STATUS PWR_STATUS_SETTLING 0 (setF PWR_STATUS PWR_STATUS_OVER (bnat _) _)
      rw [hbit]
      rfl
  · show execCapUnmet s = _
    simp [execCapUnmet, hover, hnone]
  · obtain ⟨u, hu⟩ := thermalTrip_eq (isl := i.toNat) hc hon
    refine ⟨_, rfl, ?_, ?_, ?_, ?_, thermalTrip_cellar ..⟩ <;> rw [hu] <;> rfl
  · refine ⟨rfl, fun hbad hwarm => ?_⟩
    obtain ⟨data, u, hsample⟩ := execCoolantSample_bad (outlet := o) hwarm hbad
    have hcooling : (ledger 0x0506 0 0 0 data { u with power := { u.power with cooling := true } }).power.cooling = true := by
      rw [ledger_power]
    exact ⟨_, hsample, hcooling, effectiveCap_cooling hcooling⟩

end Sys2Proof
end

section
/-! The host complex: reset, boot, READY and keep-ranges (chapters 15 and 21). -/

namespace Sys2Proof.Machine
open Sys2Proof

theorem failCurrents_hc (f : Fail) (l : List Nat) (s : State) :
    (l.foldl (fun s a => failCurrent (a - 128) f s) s).hc = s.hc :=
  (foldl_kept (μ := .of [.hc]) _ (fun s a => (failCurrent_spares (a - 128) f s (by simp [Mask.of])).kept) l s).pieces .hc rfl

theorem domainReset_hc (dom idx limit : Nat) (s : State) : (domainReset dom idx limit s).1.hc = s.hc :=
  (domainReset_spares (μ := .of [.hc]) dom idx limit s (by simp [Mask.of])).kept.pieces .hc rfl

/-- A reset keeps no cache, no directory and no transaction. -/
theorem hostComplexReset_hc (cause : Nat) (s : State) : (hostComplexReset cause s).hc = HostComplex.reset := by
  unfold hostComplexReset
  extract_lets lost s0 s1 s2 s3 n s4
  calc (domainReset domHost 0 0 s4).1.hc = s4.hc := domainReset_hc ..
    _ = s2.hc := rfl
    _ = HostComplex.reset := failCurrents_hc ..

theorem takeHostBank_idle {s : State} (h : s.mgmt.activating = none) : takeHostBank s = s := by
  unfold takeHostBank
  rw [h]

theorem LeavesReg.cfgReject {r : Nat} {s t : State} (h : LeavesReg r s t) (hcount : r ≠ GLB_CFG_REJECT_COUNT)
    (hreject : r ≠ GLB_CFG_REJECT) (hdata : r ≠ GLB_CFG_REJECT_DATA) (w : Agent) (off v reason : Nat) :
    LeavesReg r s (Machine.cfgReject w off v reason t) := by
  unfold Machine.cfgReject
  have h1 := h.setF hcount GLB_CFG_REJECT_COUNT_COUNT
  dsimp only
  split
  · exact (h1 _).setF hreject _ _
  · exact ((h1 _).setReg hdata _).setReg hreject _

theorem cfgReject_leavesKeep {k : Nat} (hk : k < 8) (w : Agent) (off v reason : Nat) (s : State) :
    LeavesReg (KEEP k) s (cfgReject w off v reason (setF KEEP_STATUS KEEP_STATUS_REJECT 1 s)) := by
  have hne (r : Nat) (hr : r < KEEP 0 ∨ KEEP 8 ≤ r) : KEEP k ≠ r := by
    unfold KEEP at hr ⊢
    omega
  exact ((LeavesReg.refl s).setF (hne KEEP_STATUS (by decide)) _ _).cfgReject (hne GLB_CFG_REJECT_COUNT (by decide))
    (hne GLB_CFG_REJECT (by decide)) (hne GLB_CFG_REJECT_DATA (by decide)) w off v reason

end Sys2Proof.Machine

namespace Sys2Proof
open Machine

/-- Settles O45: the conditions of a boot and of a keep-range choose. -/
theorem hostComplexCommandsTakeEffect : Obligations.HostComplexCommandsTakeEffect := by
  intro s
  refine ⟨fun cause => ⟨_, rfl, rfl, hostComplexReset_hc ..⟩, fun b hstate hon hsource hddr hidle hbank => ?_, fun hstate => ?_,
    fun w k v hmay => ⟨fun hgood => ?_, fun hbad => ⟨_, ?_, rfl, ?_⟩⟩⟩
  · show execHostBoot s = _
    unfold execHostBoot hostBoot
    dsimp only
    rw [hstate, hon, if_neg (by decide), if_neg hsource, if_neg (by simp [hddr]), takeHostBank_idle hidle, hbank]
    rfl
  · show execHcReady s = _
    unfold execHcReady
    dsimp only
    rw [if_pos hstate]
  · show execKeepWrite w k v s = _
    unfold execKeepWrite
    dsimp only
    rw [hmay, if_neg (by decide), if_neg hgood]
  · show execKeepWrite w k v s = _
    unfold execKeepWrite
    dsimp only
    rw [hmay, if_neg (by decide), if_pos hbad]
  · exact fun hwf => (cfgReject_leavesKeep k.isLt w _ _ _ s hwf).2

end Sys2Proof
end

section
/-! Removal, bays, cables and the inputs (chapters 22 and 25). -/

namespace Sys2Proof.Machine
open Sys2Proof

/-! ### Every command has its result -/

/-- Every command of the table has its result. -/
def AllAnswered (s : State) : Prop := ∀ e ∈ s.cmds, e.result.isSome = true

theorem AllAnswered.of_cmds {s t : State} (h : AllAnswered s) (hcmds : t.cmds = s.cmds) : AllAnswered t := by
  rwa [AllAnswered, hcmds]

/-- Where every command has its result, no held-up effect comes due. -/
theorem AllAnswered.settle {s : State} (h : AllAnswered s) : Machine.settle s = s := by
  refine foldl_eq_self fun e he => ?_
  unfold settleOne
  rw [h e he, Bool.or_true, if_pos rfl]

theorem completeCmd_answered (e : Cmd) {s : State} (h : AllAnswered s) :
    AllAnswered (completeCmd e s) ∧ (completeCmd e s).cellar = s.cellar := by
  have hposted (q r : Nat) (s : State) : (postRecord q r s).cmds = s.cmds ∧ (postRecord q r s).cellar = s.cellar :=
    have k := (postRecord_spares (μ := .of [.cmds, .cellar]) q r s (by simp [Mask.of])).kept
    ⟨k.pieces .cmds rfl, k.pieces .cellar rfl⟩
  have hended (q : Nat) (k : BitVec 32) (s : State) : (endRetry q k s).cmds = s.cmds ∧ (endRetry q k s).cellar = s.cellar :=
    have k := (endRetry_spares (μ := .of [.cmds, .cellar]) q k s (by simp [Mask.of])).kept
    ⟨k.pieces .cmds rfl, k.pieces .cellar rfl⟩
  unfold completeCmd
  split
  · exact ⟨h, rfl⟩
  next r _ =>
    extract_lets q s1
    have hdropped : AllAnswered (dropCmd e.ref s) := fun x hx => h x (List.mem_of_mem_filter hx)
    have h1 : AllAnswered s1 ∧ s1.cellar = s.cellar := ⟨hdropped.of_cmds (hposted ..).1, (hposted ..).2⟩
    have h2 : AllAnswered (if e.instr.isNone && unseen r.1 then endRetry q e.ref.index s1 else s1) ∧
        (if e.instr.isNone && unseen r.1 then endRetry q e.ref.index s1 else s1).cellar = s.cellar := by
      split
      · exact ⟨h1.1.of_cmds (hended ..).1, (hended ..).2.trans h1.2⟩
      · exact h1
    rw [h2.1.settle]
    exact h2

/-- Writing every record leaves the cellar. -/
theorem postAll_cellar {s : State} (h : AllAnswered s) : (postAll s).cellar = s.cellar := by
  unfold postAll
  generalize s.cmds = l
  induction l generalizing s with
  | nil => rfl
  | cons e l ih =>
    rw [List.foldl_cons]
    split
    next x _ =>
      obtain ⟨hanswered, hcellar⟩ := completeCmd_answered x h
      exact (ih hanswered).trans hcellar
    · exact ih h

theorem allAnswered_of_quiesced {s : State} (h : quiesced s = true) : AllAnswered s := by
  simp only [quiesced, Bool.and_eq_true] at h
  exact List.all_eq_true.mp h.1.2

/-! ### Main power goes off -/

theorem abandonRungs_tray (l : List (Nat × Nat × Bool)) (s : State) :
    (l.foldl (fun s a => abandonRung a.1 a.2.1 s) s).tray = s.tray := by
  refine foldl_proj State.tray (fun s a => ?_) l s
  simp [abandonRung, endRung]

theorem abandonRungs_mirror (l : List (Nat × Nat × Bool)) (s : State) :
    (l.foldl (fun s a => abandonRung a.1 a.2.1 s) s).faults.mirror = s.faults.mirror := by
  refine foldl_proj (fun s => s.faults.mirror) (fun s a => ?_) l s
  simp [abandonRung, endRung]

/-- The tray once main power is off. -/
def trayOff (journal : Bool) (t : Tray) : Tray :=
  { t with mainOn := false, pwrgd := false, cycleReq := false, journal := t.journal || journal, drainEnd := none }

theorem dropMain_tray (journal : Bool) (s : State) : (dropMain journal s).tray = trayOff journal s.tray := by
  unfold dropMain
  extract_lets s1 s2 s3
  have h3 : s3.tray = s.tray := by
    rw [← abandonRungs_tray _ s]
    unfold s3 s2
    split <;> rfl
  exact congrArg (trayOff journal) h3

theorem dropMain_mirror (journal : Bool) (s : State) : (dropMain journal s).faults.mirror = s.faults.mirror := by
  unfold dropMain
  extract_lets s1 s2 s3
  show s3.faults.mirror = s.faults.mirror
  rw [← abandonRungs_mirror _ s]
  unfold s3 s2
  split <;> rfl

/-- What is the same after main power has gone off: the cellar, the mirror, the inputs, standby power and the seat. -/
structure OnlyMainLost (s t : State) : Prop where
  mainOn : t.tray.mainOn = false
  cellar : t.cellar = s.cellar
  mirror : t.faults.mirror = s.faults.mirror
  standbyInput : t.tray.standbyInput = s.tray.standbyInput
  standby : t.tray.standby = s.tray.standby
  prsnt : t.tray.prsnt = s.tray.prsnt
  mem : t.mem = if s.tray.mainOn then [] else s.mem

theorem powerDown_onlyMainLost (journal : Bool) (s : State) : OnlyMainLost s (powerDown journal s) := by
  cases hon : s.tray.mainOn with
  | false => rw [powerDown, hon, if_neg Bool.false_ne_true]; exact ⟨hon, rfl, rfl, rfl, rfl, rfl, by rw [hon]; rfl⟩
  | true =>
    have htray := dropMain_tray journal s
    rw [powerDown_on hon]
    exact {
      mainOn := rfl
      cellar := (dropMain_spares (μ := .of [.cellar]) journal s (by simp [Mask.of])).kept.pieces .cellar rfl
      mirror := dropMain_mirror journal s
      standbyInput := by rw [htray]; rfl
      standby := by rw [htray]; rfl
      prsnt := by rw [htray]; rfl
      mem := by rw [hon]; rfl }

/-- Main power and its input are gone. -/
def mainGone (s : State) : State :=
  { powerDown true s with tray := { (powerDown true s).tray with mainInput := false, cycleReq := false } }

theorem mainLost_eq (s : State) : mainLost s = if s.tray.standbyInput then mainGone s else standbyLost (mainGone s) := by
  rw [← (powerDown_onlyMainLost true s).standbyInput]
  rfl

/-- With main power gone, the loss of standby power leaves memory, the cellar, the mirror and the inputs. -/
theorem standbyLost_off {s : State} (h : s.tray.mainOn = false) :
    (standbyLost s).tray.mainOn = false ∧ (standbyLost s).tray.standby = false ∧ (standbyLost s).tray.mainInput = s.tray.mainInput ∧
      (standbyLost s).tray.prsnt = s.tray.prsnt ∧ (standbyLost s).mem = s.mem ∧ (standbyLost s).cellar = s.cellar ∧
      (standbyLost s).faults.ring = [] ∧ (standbyLost s).faults.mirror = s.faults.mirror := by
  have hpower : powerDown true s = s := if_neg (by simp [h])
  unfold standbyLost
  rw [hpower]
  exact ⟨h, rfl, rfl, rfl, rfl, rfl, rfl, rfl⟩

/-- What a loss of the main input leaves, whether standby power goes with it or not. -/
theorem mainLost_leaves (s : State) : (mainLost s).tray.mainOn = false ∧ (mainLost s).tray.mainInput = false ∧
    (mainLost s).tray.prsnt = s.tray.prsnt ∧ (mainLost s).mem = (if s.tray.mainOn then [] else s.mem) ∧
    (mainLost s).cellar = s.cellar := by
  have h := powerDown_onlyMainLost true s
  rw [mainLost_eq]
  split
  · exact ⟨h.mainOn, rfl, h.prsnt, h.mem, h.cellar⟩
  · obtain ⟨hon, -, hinput, hprsnt, hmem, hcellar, -⟩ := standbyLost_off (s := mainGone s) h.mainOn
    exact ⟨hon, hinput, hprsnt.trans h.prsnt, hmem.trans h.mem, hcellar.trans h.cellar⟩

theorem standbyInputLost_leaves {s : State} (hoff : s.tray.mainOn = false) :
    (standbyInputLost false s).tray.mainOn = false ∧ (standbyInputLost false s).tray.standby = false ∧
      (standbyInputLost false s).tray.prsnt = s.tray.prsnt ∧ (standbyInputLost false s).mem = s.mem := by
  obtain ⟨u, hu⟩ : ∃ u, u = { s with tray := { s.tray with standbyInput := false } } := ⟨_, rfl⟩
  have hlost : standbyInputLost false s = standbyLost (mainGone u) := by
    have hinput : u.tray.standbyInput = false := by rw [hu]
    have h := mainLost_eq u
    rw [hinput, if_neg Bool.false_ne_true, hu] at h
    rw [hu]
    exact h
  have h := powerDown_onlyMainLost true u
  obtain ⟨hon, hstandby, -, hprsnt, hmem, -⟩ := standbyLost_off (s := mainGone u) h.mainOn
  rw [hlost]
  have hstill : u.tray.mainOn = false := by rw [hu, hoff]
  have hmemory : (mainGone u).mem = u.mem := h.mem.trans (by rw [hstill]; rfl)
  refine ⟨hon, hstandby, (hprsnt.trans h.prsnt).trans ?_, (hmem.trans hmemory).trans ?_⟩ <;> rw [hu]

theorem attend_arms {s : State} (hstate : rstate s = rsInService) (hon : s.tray.mainOn = true) :
    attend s = setRstate rsArmed s := by
  rw [attend, if_pos hstate, if_pos hon]

/-- A press of the button, the first in a while, arms the removal. -/
theorem attention_arms {s : State} (hlast : s.tray.lastAttn = none) (hstate : rstate s = rsInService) (hon : s.tray.mainOn = true) :
    ∃ k tray, attention true s = setRstate rsArmed { s with tick := k, tray := tray } := by
  unfold attention
  dsimp only
  rw [hlast, if_neg Bool.false_ne_true]
  exact ⟨_, _, attend_arms hstate hon⟩

/-- A safe entry turns main power off and leaves the cellar. -/
theorem execSafeEntry_off {s : State} (h : quiesced s = true) :
    ∃ t, execSafeEntry s = .next t ∧ t.tray.mainOn = false ∧ t.tray.hold = 1 ∧ t.cellar = s.cellar := by
  unfold execSafeEntry
  rw [if_neg (by simp [h])]
  extract_lets s1 s2
  have hposted : s1.cellar = s.cellar := postAll_cellar (allAnswered_of_quiesced h)
  have hlinks : (mirrorAll (dropLinks s1)).cellar = s1.cellar :=
    (Kept.trans (μ := .of [.cellar]) (dropLinks_spares s1 (by simp [Mask.of])).kept
      (mirrorAll_spares _ (by simp [Mask.of])).kept).pieces .cellar rfl
  have h2 := powerDown_onlyMainLost false (mirrorAll (dropLinks s1))
  obtain ⟨u, hu⟩ : ∃ u, u = { s2 with tray := { s2.tray with hold := 1 } } := ⟨_, rfl⟩
  refine ⟨setRstate rsSafe u, by rw [hu], ?_, ?_, ?_⟩
  · rw [setRstate_mainOn, hu]
    exact h2.mainOn
  · rcases setRstate_tray rsSafe u with htray | htray <;> rw [htray, hu]
  · calc (setRstate rsSafe u).cellar = u.cellar :=
          (setRstate_spares (μ := .of [.cellar]) rsSafe u (by simp [Mask.of])).kept.pieces .cellar rfl
      _ = s2.cellar := by rw [hu]
      _ = (mirrorAll (dropLinks s1)).cellar := h2.cellar
      _ = s.cellar := hlinks.trans hposted

end Sys2Proof.Machine

namespace Sys2Proof
open Machine

/-- Settles O50: the removal state and the inputs choose. -/
theorem trayCommandsTakeEffect : Obligations.TrayCommandsTakeEffect := by
  intro s
  refine ⟨fun ms hup hms hlast hstate hon => ?_, fun hstate => ?_, fun hstate => ⟨fun hforce => ?_, fun hforce => ?_, ?_⟩,
    fun hstate => ?_, fun hstate hidle => ?_, fun hquiet => execSafeEntry_off hquiet,
    fun ms hup hms => ⟨fun hstate => ?_, fun hstate => ?_⟩, fun hstate => ?_,
    fun b hup hpresent => ⟨fun hsafe => ?_, fun hsafe hon hcellar => ?_⟩, fun p hoff b => ?_, fun p hdown => ?_, ?_, rfl, ?_,
    fun hrung hon => ?_⟩
  · obtain ⟨k, tray, harmed⟩ := attention_arms hlast hstate hon
    refine ⟨{ s with tick := k, tray := tray }, ?_, rfl⟩
    show onWarden (attentionFrom (.button ms)) s = _
    rw [onWarden, if_pos hup, ← harmed, attentionFrom, if_neg (by omega)]
  · refine ⟨_, if_neg (by simp [hstate]), ?_, ?_⟩ <;> rfl
  · show execDrainDeadline s = _
    rw [execDrainDeadline, if_neg (by simp [hstate]), if_pos hforce]
  · show execDrainDeadline s = _
    rw [execDrainDeadline, if_neg (by simp [hstate]), if_neg (by simp [hforce])]
  · exact congrArg Host.Outcome.next (if_pos hstate)
  · exact congrArg Host.Outcome.next (if_pos hstate)
  · exact if_pos ⟨hstate, by rw [hidle]; rfl⟩
  · show onWarden (leverTouched ms.toNat) s = _
    rw [onWarden, if_pos hup, leverTouched, if_neg (by omega), if_pos hstate]
  · show onWarden (leverTouched ms.toNat) s = _
    rw [onWarden, if_pos hup, leverTouched, if_neg (by omega), if_neg hstate]
  · exact if_pos hstate
  · show onWarden (bayButton b.toNat) s = _
    rw [onWarden, if_pos hup]
    unfold bayButton
    dsimp only
    rw [if_neg (by simp [hpresent]), if_pos hsafe]
  · show onWarden (bayButton b.toNat) s = _
    rw [onWarden, if_pos hup]
    unfold bayButton
    dsimp only
    rw [if_neg (by simp [hpresent]), if_neg (by simp [hsafe]), if_pos ⟨hon, .inl hcellar⟩]
  · show execCableEvent p b s = _
    unfold execCableEvent cableEvent
    dsimp only
    rw [if_pos (by simp [hoff])]
  · show execCageOvercurrent p s = _
    unfold execCageOvercurrent
    dsimp only
    rw [hdown, if_neg (by decide), if_neg (by decide)]
  · obtain ⟨hon, hinput, -, -, hcellar⟩ := mainLost_leaves s
    have h := powerDown_onlyMainLost true s
    refine ⟨_, rfl, hon, hinput, hcellar, fun hin => ?_, fun hin => ?_⟩
    · rw [mainLost_eq, if_pos hin]
      exact h.standby
    · obtain ⟨-, hstandby, -, -, -, -, hring, hmirror⟩ := standbyLost_off (s := mainGone s) h.mainOn
      rw [mainLost_eq, if_neg (by simp [hin])]
      exact ⟨hstandby, hring, hmirror.trans h.mirror⟩
  · obtain ⟨hoff, -, hprsnt, hmem, -⟩ := mainLost_leaves { s with tray := { s.tray with prsnt := false } }
    obtain ⟨toff, tstandby, tprsnt, tmem⟩ := standbyInputLost_leaves hoff
    exact ⟨_, rfl, toff, tstandby, tprsnt.trans hprsnt, tmem.trans hmem⟩
  · refine ⟨_, if_pos ⟨hrung, hon⟩, powerDown_off .., ?_⟩
    rw [powerDown_on (by exact hon), dropMain_tray]
    rfl

end Sys2Proof
end

section
/-! A packet that is consumed advances F, whatever becomes of it (R249). -/

namespace Sys2Proof.Machine
open Sys2Proof

/-- The step leaves F of queue `q`, and keeps the queues canonical. -/
structure KeepsF (q : Nat) (s t : State) : Prop where
  keeps : Assoc.wf (fun _ => Queue.reset) s.queues = true →
    Assoc.wf (fun _ => Queue.reset) t.queues = true ∧ (queueOf t q).f = (queueOf s q).f

theorem queueOf_setQueue {s : State} (h : Assoc.wf (fun _ => Queue.reset) s.queues = true) (q r : Nat) (x : Queue) :
    queueOf (setQueue q x s) r = if r = q then x else queueOf s r := Assoc.get_put h ..

namespace KeepsF

variable {q : Nat} {s t u : State}

theorem of_queues (h : t.queues = s.queues) : KeepsF q s t :=
  ⟨fun hwf => ⟨h ▸ hwf, by rw [queueOf, queueOf, h]⟩⟩

theorem refl (s : State) : KeepsF q s s := of_queues rfl

theorem trans (h : KeepsF q s t) (k : KeepsF q t u) : KeepsF q s u :=
  ⟨fun hwf =>
    have ⟨hwf', hf⟩ := h.keeps hwf
    have ⟨hwf'', hf'⟩ := k.keeps hwf'
    ⟨hwf'', hf'.trans hf⟩⟩

theorem of_kept (h : Kept (.of [.queues]) s t) : KeepsF q s t := of_queues (h.pieces .queues rfl)

theorem foldl {α : Type} {f : State → α → State} (h : ∀ s x, KeepsF q s (f s x)) (l : List α) (s : State) :
    KeepsF q s (l.foldl f s) := by
  induction l generalizing s with
  | nil => exact refl s
  | cons x l ih => exact (h s x).trans (ih _)

theorem setQueue {r : Nat} {x : Queue} (hf : x.f = (queueOf s r).f) : KeepsF q s (Machine.setQueue r x s) := by
  refine ⟨fun hwf => ⟨Assoc.wf_put hwf, ?_⟩⟩
  rw [queueOf_setQueue hwf]
  split
  next h => rw [hf, h]
  · rfl

/-- A write of a queue after a step that left the queues alone. -/
theorem setQueue_after (h : t.queues = s.queues) {r : Nat} {x : Queue} (hf : x.f = (queueOf s r).f) :
    KeepsF q s (Machine.setQueue r x t) :=
  (of_queues h).trans (setQueue (by rw [hf, queueOf, queueOf, h]))

theorem queueStop (r cause value first last : Nat) (s : State) : KeepsF q s (Machine.queueStop r cause value first last s) := by
  unfold Machine.queueStop
  extract_lets x s1 s2 s3
  have h1 : KeepsF q s s1 := setQueue rfl
  have h3 : KeepsF q s s3 := h1.trans (of_kept (by unfold s3 s2; split <;> simp [Mask.of]))
  split
  · exact refl s
  · exact h3.trans (of_kept (by simp [Mask.of]))

theorem askIrq (r : Nat) (s : State) : KeepsF q s (Machine.askIrq r s) := by
  unfold Machine.askIrq
  dsimp only
  split
  · exact of_kept (by simp [Mask.of])
  · split
    · exact setQueue rfl
    · refine .trans (setQueue (r := r) (x := { queueOf s r with holdoffOn := true }) rfl) (of_kept ?_)
      simp [Mask.of]

theorem postRecord (r rec : Nat) (s : State) : KeepsF q s (Machine.postRecord r rec s) := by
  unfold Machine.postRecord
  extract_lets x tag failed a w
  split
  · exact refl s
  · split
    · exact setQueue rfl
    · split
      · exact .trans (setQueue (r := r) (x := { x with held := [rec], discard := x.state == .draining }) rfl) (queueStop ..)
      next s1 e1 =>
        have h1 : s1.queues = s.queues := (queueWrite_kept (μ := .of [.queues]) e1 (by simp [Mask.of])).pieces .queues rfl
        split
        · exact of_queues h1
        · extract_lets x1 s2
          have h2 : KeepsF q s s2 := (of_queues h1).trans (setQueue rfl)
          split
          · exact h2.trans (queueStop ..)
          next s3 e3 =>
            have h3 : KeepsF q s s3 := h2.trans (of_kept (writeBack_kept e3 (by simp [Mask.of])))
            extract_lets s4
            have h4 : KeepsF q s s4 := by
              unfold s4
              split
              · exact h3.trans (askIrq ..)
              · exact h3
            split
            · exact h4.trans (queueStop ..)
            · exact h4

theorem markEffect (c : CmdRef) (p : MarkP) (s : State) : KeepsF q s (Machine.markEffect c p s) := by
  unfold Machine.markEffect
  extract_lets r n clear
  have hclear (t : State) (h : Kept (.of [.queues]) s t) : KeepsF q s (clear t) := (of_kept h).trans (setQueue rfl)
  split
  · exact hclear _ (by simp [Mask.of])
  · split
    next w g e =>
    have hw : Kept (.of [.queues]) s w.s := .of_fst (by simp [Mask.of]) e
    split
    · exact hclear _ (by simp [Mask.of, hw])
    · extract_lets w1
      have hw1 : Kept (.of [.queues]) s w1.s := by simp [Mask.of, w1, hw]
      split
      · exact refl s
      · split
        · exact hclear _ (by simp [Mask.of, hw1])
        · exact hclear _ (by simp [Mask.of, hw1])

theorem settle (s : State) : KeepsF q s (Machine.settle s) := by
  refine foldl (fun s e => ?_) _ s
  unfold settleOne
  split
  · exact refl s
  · split
    · split
      · exact of_kept (by simp [Mask.of])
      · exact refl s
    · split
      · exact markEffect ..
      · exact refl s
    · exact of_kept (by simp [Mask.of])
    · exact of_kept (by simp [Mask.of])
    · exact refl s

end KeepsF

/-- A command that ends leaves F of its queue where it was, one past its packet. -/
theorem completeReady_f {e : Cmd} {s : State} (hwf : Assoc.wf (fun _ => Queue.reset) s.queues = true)
    (hf : (queueOf s e.ref.queue.toNat).f = e.ref.index + 1) :
    (queueOf (completeReady e s) e.ref.queue.toNat).f = e.ref.index + 1 := by
  unfold completeReady
  split
  · unfold completeCmd
    split
    · exact hf
    next r _ =>
      extract_lets q s1
      have h1 : KeepsF q s s1 := KeepsF.trans (t := dropCmd e.ref s) (.of_queues rfl) (.postRecord ..)
      have hf1 : (queueOf s1 q).f = e.ref.index + 1 := (h1.keeps hwf).2.trans hf
      split
      · have hended : KeepsF q s1 (endRetry q e.ref.index s1) := 
          KeepsF.trans (.setQueue (r := q) (x := { queueOf s1 q with f := e.ref.index + 1, retrying := none }) hf1.symm) (.queueStop ..)
        exact ((h1.trans (hended.trans (.settle _))).keeps hwf).2.trans hf
      · exact ((h1.trans (.settle _)).keeps hwf).2.trans hf
  · exact hf

theorem mem_putCmd (e : Cmd) (s : State) : e ∈ (putCmd e s).cmds := by
  unfold putCmd
  split
  next h =>
    obtain ⟨x, hx, hcmd⟩ := List.any_eq_true.mp h
    exact List.mem_map.mpr ⟨x, hx, if_pos hcmd⟩
  · exact List.mem_append_right s.cmds (List.mem_singleton_self e)

end Sys2Proof.Machine

namespace Sys2Proof
open Machine

/-- Settles O22: the queue is written before the checks choose, and what then ends the command leaves F. -/
theorem consumingAPacketAdvancesF : Obligations.ConsumingAPacketAdvancesF := by
  intro q pk s hq hwf x t
  obtain ⟨c, hc⟩ : ∃ c : CmdRef, c = ⟨BitVec.ofNat 16 q, x.f, BitVec.ofNat 32 (if pf pk 3 1 == 2 then pf pk 8 2 else pf pk 8 4)⟩ :=
    ⟨_, rfl⟩
  have hqueue : c.queue.toNat = q := by rw [hc]; exact Nat.mod_eq_of_lt hq
  have hindex : c.index = x.f := by rw [hc]
  obtain ⟨s1, hs1⟩ : ∃ s1, s1 = incF (Q_FETCHED x.homeLive) Q_FETCHED_Q_FETCHED 1 (setQueue q { x with f := x.f + 1, retrying := none } s) :=
    ⟨_, rfl⟩
  have hwf1 : Assoc.wf (fun _ => Queue.reset) s1.queues = true := by rw [hs1]; exact Assoc.wf_put hwf
  have hqueues (r : Nat) : queueOf s1 r = if r = q then { x with f := x.f + 1, retrying := none } else queueOf s r := by
    rw [hs1]
    exact queueOf_setQueue hwf ..
  have ht : ∃ e : Cmd, e.ref = c ∧ e.irq = bitAt (if pf pk 3 1 == 2 then pf pk 1 1 else pf pk 2 1) 0 ∧
      ((∃ i, packetCommand s x c pk = .ok i ∧ e.instr = some i ∧ t = putCmd e s1) ∨
        ((∀ i, packetCommand s x c pk ≠ .ok i) ∧ t = advance (completeReady e (putCmd e s1)))) := by
    unfold t consume
    dsimp only
    rw [← hs1, ← hc]
    cases hpacket : packetCommand s x c pk with
    | ok i => exact ⟨_, rfl, rfl, .inl ⟨i, rfl, rfl, rfl⟩⟩
    | error f => exact ⟨_, rfl, rfl, .inr ⟨fun i hok => (nomatch hok), rfl⟩⟩
  obtain ⟨e, hcmd, hirq, ⟨i, hok, hinstr, ht⟩ | ⟨herror, ht⟩⟩ := ht
  · have hput (r : Nat) : queueOf t r = queueOf s1 r := by rw [ht, queueOf, queueOf, putCmd_queues]
    refine ⟨by rw [hput, hqueues, if_pos rfl], fun j hj => ?_⟩
    rw [← hc, hok] at hj
    obtain rfl := Except.ok.inj hj
    refine ⟨by rw [hput, hqueues, if_pos rfl], fun r hr => by rw [hput, hqueues, if_neg hr], ?_, e, ?_, hinstr, ?_, ?_, hirq⟩
    · rw [ht, putCmd_mem, hs1]
      rfl
    · rw [ht]
      exact mem_putCmd e s1
    · rw [hcmd, hqueue]
    · rw [hcmd, hindex]
  · refine ⟨?_, fun i hi => absurd (hc ▸ hi) (herror i)⟩
    have href : e.ref.queue.toNat = q := by rw [hcmd, hqueue]
    have hf : (queueOf (putCmd e s1) e.ref.queue.toNat).f = e.ref.index + 1 := by
      rw [queueOf, putCmd_queues, ← queueOf, href, hqueues, if_pos rfl, hcmd, hindex]
    have hended := completeReady_f (e := e) (s := putCmd e s1) (by rw [putCmd_queues]; exact hwf1) hf
    rw [href, hcmd, hindex] at hended
    rw [ht, queueOf, advance_queues]
    exact hended

end Sys2Proof
end

section
/-! Mailbox commands (chapter 23). -/

namespace Sys2Proof.Machine
open Sys2Proof

/-- A mailbox command that takes place is answered with what its action gives. -/
theorem MailTakesPlace.mail_eq {m : MailRef} {acc : Access} {s : State} (h : MailTakesPlace m acc s) (op : Nat)
    {act : State → State × Nat × List Byte} {t : State} {status : Nat} {payload : List Byte} (hact : act s = (t, status, payload)) :
    mail m op acc act s = .next (mailAnswer m op status payload t) := by
  have hfree : (acc != .opened && privBusy s) = false := by
    cases acc
    case opened => rfl
    all_goals exact h.notBusy (by decide)
  unfold mail
  rw [h.up, h.fresh, h.allowed, hfree, if_neg (by decide)]
  dsimp only
  rw [if_neg (by decide), if_neg (by decide), hact]

/-! ### Rungs that a mailbox asks for -/

theorem pldmEvent_faults (c : Nat) (s : State) : (pldmEvent c s).faults = s.faults :=
  (pldmEvent_spares (μ := .of [.faults]) c s (by simp [Mask.of])).kept.pieces .faults rfl

theorem ledgerF_active (kind sev flags dom addr data : Nat) (s : State) :
    (ledgerF kind sev flags dom addr data s).faults.active = s.faults.active := by
  unfold ledgerF
  split
  · rfl
  · extract_lets rec lost faults s1 s2 s3
    have h2 : s2.faults = s1.faults := by
      unfold s2
      split <;> rfl
    have h3 : s3.faults = s1.faults := by
      unfold s3
      split
      · rw [pldmEvent_faults, h2]
      · exact h2
    show s3.faults.active = _
    rw [h3]

theorem beginCapture_active (trig : Nat) (s : State) : (beginCapture trig s).faults.active = s.faults.active := by
  unfold beginCapture
  split <;> rfl

theorem endCapture_active (absent : Nat) (truncated abandoned : Bool) (s : State) :
    (endCapture absent truncated abandoned s).faults.active = s.faults.active := by
  unfold endCapture
  split
  · rfl
  · extract_lets trig f0 s0 old s1 used s2
    have h1 : s1.faults.active = s.faults.active := by
      unfold s1
      split <;> rfl
    exact (ledgerF_active ..).trans h1

theorem rungCapture_active (trig : Nat) (s : State) : (rungCapture trig s).faults.active = s.faults.active := by
  unfold rungCapture
  split
  · rfl
  · exact (endCapture_active ..).trans (beginCapture_active ..)

theorem beginRung_active (r t : Nat) (counts esc : Bool) (s : State) : (r, t, esc) ∈ (beginRung r t counts esc s).faults.active := by
  unfold beginRung
  dsimp only
  rw [ledgerF_active]
  exact List.mem_append_right _ (List.mem_singleton_self _)

theorem underRung_of_idle {s : State} (h : s.faults.active = []) (r t : Nat) : underRung s r t = false := by
  rw [underRung, h]
  rfl

theorem underRung_moduleCycle {s : State} (h : s.faults.active = []) (counts esc : Bool) :
    underRung (moduleCycle counts esc s) 5 0 = true := by
  unfold moduleCycle
  rw [underRung_of_idle h, if_neg (by decide)]
  extract_lets s1 keep
  refine List.any_eq_true.mpr ⟨(5, 0, esc), ?_, by simp⟩
  show _ ∈ s1.faults.active
  rw [show s1.faults.active = _ from rungCapture_active ..]
  exact beginRung_active ..

theorem mailRung_now {r t : Nat} {s : State} (hok : rungTargetOk r t = true) (hidle : s.faults.active = [])
    (hon : r < 5 → s.tray.mainOn = true) : mailRung r t s =
      ({ requestRung r t s with mgmt := { (requestRung r t s).mgmt with privRung := some (r, t) } }, mbOk, []) := by
  have hfree : ¬ (underRung s r t = true ∨ (r < 5 ∧ (underRung s 5 0 = true ∨ (!s.tray.mainOn) = true))) := by
    rw [underRung_of_idle hidle, underRung_of_idle hidle]
    rintro (h | ⟨hr, h | h⟩)
    · cases h
    · cases h
    · rw [hon hr] at h
      cases h
  unfold mailRung
  rw [if_neg (by simp [hok]), if_neg hfree]
  rfl

theorem requestRung_module {s : State} (hidle : s.faults.active = []) : requestRung 5 0 s = moduleCycle false false s := by
  unfold requestRung
  rw [underRung_of_idle hidle, if_neg (by simp)]
  rfl

theorem execPowerCycle_now {m : MailRef} {s : State} (h : MailTakesPlace m .privileged s) (hidle : s.faults.active = []) :
    execPowerCycle m s = .next (mailAnswer m 0x13 mbOk []
      { requestRung 5 0 s with mgmt := { (requestRung 5 0 s).mgmt with privRung := some (5, 0) } }) := by
  rw [execPowerCycle]
  exact h.mail_eq 0x13 (mailRung_now rfl hidle fun h => absurd h (by decide))

/-! ### The configuration -/

/-- The interleaving register apart, what a register starts leaves memory. -/
theorem afterStore_mem {r : RegRow} (hname : r.name ≠ "STK_CFG") (off v : Nat) (old s : State) :
    (afterStore r off v old s).mem = s.mem := by
  have hext (b : Bool) (s : State) : (setExtState b 0 s).mem = s.mem :=
    (setExtState_spares (μ := .of [.mem]) b 0 s (by simp [Mask.of])).kept.pieces .mem rfl
  have hsensor (v : Nat) (s : State) : (sensorEvent 0x41 v s).mem = s.mem :=
    (sensorEvent_spares (μ := .of [.mem]) 0x41 v s (by simp [Mask.of])).kept.pieces .mem rfl
  unfold afterStore
  dsimp only
  split
  case h_1 h => exact absurd h hname
  all_goals (repeat' split) <;> simp only [hext, hsensor, setReg_mem]

theorem configReg_mem {off : Nat} (h : ((regRow off).all fun r => r.name != "STK_CFG") = true) (v : Nat) (s : State) :
    (configReg s (off, v)).mem = s.mem := by
  unfold configReg
  dsimp only
  split
  next r hrow =>
    rw [hrow] at h
    have hname : r.name ≠ "STK_CFG" := by simpa using h
    split
    · unfold putValue
      rw [hrow]
      exact (afterStore_mem hname ..).trans
        ((storeReg_spares (μ := .of [.mem]) _ r off v s (by simp [Mask.of])).kept.pieces .mem rfl)
    · rfl
  · rfl

theorem writeConfig_mem (r : ConfigRec) (s : State) : (writeConfig r s).mem = s.mem := by
  unfold writeConfig
  simp only [List.foldl_cons, List.foldl_nil]
  rw [configReg_mem (by decide), configReg_mem (by decide), configReg_mem (by decide), configReg_mem (by decide),
    configReg_mem (by decide), configReg_mem (by decide)]

end Sys2Proof.Machine

namespace Sys2Proof
open Machine

/-- Settles O51: a command that takes place is answered with its action, whose conditions choose. -/
theorem mailboxCommandsTakeEffect : Obligations.MailboxCommandsTakeEffect := by
  intro m s
  refine ⟨fun r hup hfound v => ?_, fun h => ⟨?_, fun o hrange hserved => ?_, fun o hapart => ?_, ?_, fun q n hlow hhigh =>
    ⟨?_, fun hon hstate => ?_⟩, ?_⟩, fun h => ⟨fun k o hk hup hused => ?_, fun k p hk hp hup => ?_, fun hup hidle hnext => ?_,
    fun v hok hidle hon => ?_, fun hon => ⟨?_, ?_⟩, ?_, fun hcool hstate => ?_, fun hidle => ?_, fun n hon hassigned hmapping => ?_,
    fun hstate => ?_, fun hstate hqueues => ?_, fun r => ⟨?_, writeConfig_mem r s⟩⟩⟩
  · show execMailboxRung m v s = _
    rw [execMailboxRung]
    unfold mail
    rw [hup, hfound, if_neg (by decide)]
  · show execMailboxIdent m s = _
    rw [execMailboxIdent]
    refine h.mail_eq 0x01 ?_
    rfl
  · show execRegRead m o s = _
    rw [execRegRead]
    refine h.mail_eq 0x02 ?_
    dsimp only
    rw [if_neg (by omega), if_neg (by simp [hserved])]
    rfl
  · rw [readWindow, if_neg (by omega)]
  · rw [readWindow, if_pos (by decide)]
  · show execLedgerRead m q n s = _
    rw [execLedgerRead]
    refine h.mail_eq 0x03 ?_
    rw [if_neg (by omega)]
  · show execMirrorRead m q n s = _
    rw [execMirrorRead]
    refine h.mail_eq 0x04 ?_
    rw [if_neg (by simp [hon, hstate]), if_neg (by omega)]
  · show execConfigRead m s = _
    rw [execConfigRead]
    refine h.mail_eq 0x16 ?_
    rfl
  · show execCaptureRead m k o s = _
    rw [execCaptureRead]
    refine h.mail_eq 0x05 ?_
    dsimp only
    rw [if_neg (by omega), if_neg (by simp [hup]), if_neg (by simp [hused])]
  · show execCapturePin m k p s = _
    rw [execCapturePin]
    refine h.mail_eq 0x06 ?_
    dsimp only
    rw [if_neg (by omega), if_neg (by simp [hup])]
    rfl
  · show execCaptureNow m s = _
    rw [execCaptureNow]
    refine h.mail_eq 0x07 ?_
    rw [if_neg (by simp [hup]), if_neg (by simp [hidle]), if_neg (by simpa [Option.isSome_iff_ne_none] using hnext)]
    rfl
  · show execMailboxRung m v s = _
    rw [execMailboxRung]
    refine h.mail_eq 0x10 ?_
    exact mailRung_now hok hidle fun _ => hon
  · show execHostReset m s = _
    rw [execHostReset]
    refine h.mail_eq 0x11 ?_
    rw [if_pos hon]
    rfl
  · show execDdrReset m s = _
    rw [execDdrReset]
    refine h.mail_eq 0x12 ?_
    rw [if_pos hon]
    rfl
  · show execPowerOff m s = _
    rw [execPowerOff]
    refine h.mail_eq 0x13 ?_
    rfl
  · show execPowerOn m s = _
    rw [execPowerOn]
    refine h.mail_eq 0x13 ?_
    dsimp only
    rw [if_neg (by simp [hcool, Nat.not_le_of_lt hstate])]
    rfl
  · refine ⟨_, execPowerCycle_now h hidle, ?_, rfl⟩
    rw [requestRung_module hidle]
    exact underRung_moduleCycle hidle false false
  · show execRetire m n s = _
    rw [execRetire]
    refine h.mail_eq 0x14 ?_
    dsimp only
    rw [if_neg (by simp [hon, hassigned, hmapping])]
    rfl
  · show execService m 0 s = _
    rw [execService]
    refine h.mail_eq 0x15 ?_
    show mailService 0 s = _
    unfold mailService
    dsimp only
    rw [if_pos rfl, if_pos hstate]
    rfl
  · show execService m 2 s = _
    rw [execService]
    refine h.mail_eq 0x15 ?_
    show mailService 2 s = _
    unfold mailService
    dsimp only
    rw [if_neg (by decide), if_pos rfl, if_pos ⟨hstate, hqueues⟩]
    rfl
  · show execConfigWrite m r s = _
    rw [execConfigWrite]
    refine h.mail_eq 0x17 ?_
    rfl

end Sys2Proof
end

section
/-! Keys, certificates, anchors and minimum SVNs (chapters 21 and 23). -/

namespace Sys2Proof.Machine
open Sys2Proof

/-- An SVN is one byte. -/
theorem imgAt_byte_lt (x : List Byte) (o : Nat) : imgAt x o 1 < 256 := by
  have hbyte : ∃ b : Byte, slice x o 1 = [b] := by
    unfold slice
    cases h : x.drop o with
    | nil => exact ⟨0, rfl⟩
    | cons b r => exact ⟨b, rfl⟩
  obtain ⟨b, hb⟩ := hbyte
  rw [imgAt, hb, leNat, leNat]
  omega

theorem Component.id_bounds (c : Component) : 1 ≤ Component.id c ∧ Component.id c ≤ 4 := by
  cases c <;> decide

/-- A commit raises the minimum to the running image's, where it is above. -/
theorem minSvn_commitSvn {s : State} (hwf : Assoc.wf regReset s.regs = true) (c : Component) :
    minSvn s c ≤ minSvn (commitSvn c s) c := by
  obtain ⟨hlow, hhigh⟩ := Component.id_bounds c
  unfold commitSvn
  extract_lets svn k
  split
  · exact Nat.le_refl _
  next habove =>
    have hsvn : svn < 256 := imgAt_byte_lt ..
    have hget : getReg (bumpMeas (setReg TRUST_SVN (setBits (getReg s TRUST_SVN) (8 * k + 7) (8 * k) svn) s)) TRUST_SVN =
        setBits (getReg s TRUST_SVN) (8 * k + 7) (8 * k) svn % 2 ^ 64 := by
      rw [bumpMeas, incF, setF, getReg_setReg (Assoc.wf_put hwf), if_neg (by decide), getReg_setReg hwf, if_pos rfl]
    have hnew : minSvn (bumpMeas (setReg TRUST_SVN (setBits (getReg s TRUST_SVN) (8 * k + 7) (8 * k) svn) s)) c = svn := by
      rw [minSvn, hget, show 8 * Component.id c - 1 = 8 * k + 7 by omega, show 8 * Component.id c - 8 = 8 * k by omega,
        bits_mod_two_pow (by omega) (by omega), bits_setBits_same, show 8 * k + 7 + 1 - 8 * k = 8 by omega]
      exact Nat.mod_eq_of_lt hsvn
    rw [hnew]
    exact Nat.le_of_lt (Nat.lt_of_not_le habove)

end Sys2Proof.Machine

namespace Sys2Proof
open Machine

/-- Settles O52: slot by slot, the command's own conditions; the SVN by `minSvn_commitSvn`. -/
theorem keyCommandsTakeEffect : Obligations.KeyCommandsTakeEffect := by
  intro m slot s k
  refine ⟨fun h => ⟨fun hlow hhigh => ⟨fun key hfresh => ?_, fun henrolled => ?_, fun hunnamed hset => ?_⟩, fun c hlow hhigh => ?_,
    fun a hhigh => ?_, fun n hlow hhigh hidle hwf => ⟨_, ?_, rfl, minSvn_commitSvn hwf _⟩⟩, fun h hlow hhigh key => ?_⟩
  · have hslot : keySlotOk slot.toNat = true := decide_eq_true ⟨hlow, hhigh⟩
    show execSetkeyEnrol m slot key s = _
    rw [execSetkeyEnrol]
    refine h.mail_eq 0x20 ?_
    dsimp only
    rw [if_neg (by simp [hslot]), if_neg (by simp [show (setKeyOf s slot.toNat).enrolled = false from hfresh])]
    rfl
  · have hslot : keySlotOk slot.toNat = true := decide_eq_true ⟨hlow, hhigh⟩
    show execSetkeyRevoke m slot s = _
    rw [execSetkeyRevoke]
    refine h.mail_eq 0x21 ?_
    dsimp only
    rw [if_neg (by simp [hslot]), if_neg (by simp [show (setKeyOf s slot.toNat).enrolled = true from henrolled])]
    rfl
  · have hslot : keySlotOk slot.toNat = true := decide_eq_true ⟨hlow, hhigh⟩
    show execDatakeyErase m slot s = _
    rw [execDatakeyErase]
    refine h.mail_eq 0x23 ?_
    rw [if_neg (by simp [hslot]), if_neg (by simp [show keyNamed s slot.toNat = false from hunnamed]),
      if_neg (by simpa [Option.isSome_iff_ne_none] using hset)]
    rfl
  · show execCertSet m slot c s = _
    rw [execCertSet]
    refine h.mail_eq 0x24 ?_
    rw [if_neg (show ¬ (slot.toNat = 0 ∨ 7 < slot.toNat) by omega)]
    rfl
  · show execAnchorSet m slot a s = _
    rw [execAnchorSet]
    refine h.mail_eq 0x25 ?_
    rw [if_neg (show ¬ 3 < slot.toNat by omega)]
    rfl
  · show execSvnCommit m n s = _
    rw [execSvnCommit]
    refine h.mail_eq 0x26 ?_
    dsimp only
    rw [if_neg (by omega), if_neg (by simp [hidle])]
    rfl
  · show execDatakeySet m slot key s = _
    rw [execDatakeySet]
    refine h.mail_eq 0x22 ?_
    rw [if_pos (show keySlotOk slot.toNat = true from decide_eq_true ⟨hlow, hhigh⟩)]
    rfl

end Sys2Proof
end

section
/-! Service frames and platform requests (chapters 22 and 23). -/

namespace Sys2Proof.Machine
open Sys2Proof

theorem standby_of_wardenUp {s : State} (h : wardenUp s = true) : s.tray.standby = true :=
  (Bool.and_eq_true_iff.mp h).1

/-- With standby power a frame is answered from the state that knows of the handheld. -/
theorem serveFrame_eq {s : State} (h : s.tray.standby = true) (op : Nat) (tag : BitVec 32)
    {act : State → State × Nat × List Byte} {t : State} {status : Nat} {payload : List Byte}
    (hact : act (setF SVC_STATUS SVC_STATUS_PORT_CONNECTED 1 s) = (t, status, payload)) :
    serveFrame op tag act s = .next (emit (.service op tag.toNat status payload) t) := by
  unfold serveFrame
  rw [h, if_neg (by decide), hact]

/-- An effecter that the requester may set. -/
theorem execSetEffecter_eq {m : MailRef} {id value : BitVec 16} {s t : State} (hup : wardenUp s = true)
    (hrange : ¬ (id.toNat < 0x100 ∨ 0x102 < id.toNat)) (hmay : id.toNat = 0x101 ∨ authorised s m .privileged = true)
    (heffect : effect id.toNat value.toNat s = some t) :
    execSetEffecter m id value s = .next (emit (.pldm m.eid.toNat 0 []) t) := by
  have hallowed : ¬ (id.toNat ≠ 0x101 ∧ (!authorised s m .privileged) = true) := by
    rintro ⟨hne, hdenied⟩
    rcases hmay with h | h
    · exact hne h
    · rw [h] at hdenied
      cases hdenied
  unfold execSetEffecter
  dsimp only
  rw [if_neg (by simp [hup]), if_neg hrange, if_neg hallowed, heffect]

end Sys2Proof.Machine

namespace Sys2Proof
open Machine

/-- Settles O53: frame by frame and request by request, their own conditions. -/
theorem serviceAndPlatformRequestsAreAnswered : Obligations.ServiceAndPlatformRequestsAreAnswered := by
  refine ⟨fun tag s hstandby => ?_, fun s hup => ⟨fun e b => ?_, fun n => rfl, fun e i v hsensor hvalue => ?_, fun m v hv => ?_,
    fun m v hlow hhigh hmay => ?_, fun e hzero hall => ?_, fun a => if_pos (standby_of_wardenUp hup)⟩⟩
  · intro s1
    refine ⟨?_, fun o => ?_, fun q n hlow hhigh => ?_, fun hport hstate => ?_, fun hstate => ?_, fun v hv => ?_⟩
    · show execServiceIdent tag s = _
      rw [execServiceIdent]
      refine serveFrame_eq hstandby 0x01 tag ?_
      rfl
    · show execServiceRead tag o s = _
      rw [execServiceRead]
      cases hreads : portReads o.toNat with
      | true =>
        refine serveFrame_eq hstandby 0x02 tag ?_
        rfl
      | false =>
        refine serveFrame_eq hstandby 0x02 tag ?_
        rfl
    · show execServiceLedger tag q n s = _
      rw [execServiceLedger]
      refine serveFrame_eq hstandby 0x03 tag ?_
      rw [if_neg (by omega)]
      rfl
    · show execServiceAttention tag s = _
      rw [execServiceAttention]
      refine serveFrame_eq hstandby 0x04 tag ?_
      show (if getF s1 SVC_CTL SVC_CTL_PORT_ATTN = 0 then _ else if rstate s1 = rsQuiescing ∨ rstate s1 = rsReleased then _ else _) = _
      rw [hport, hstate, if_neg (by decide), if_neg (by decide)]
      rfl
    · show execServiceCancel tag s = _
      rw [execServiceCancel]
      refine serveFrame_eq hstandby 0x05 tag ?_
      show (if rstate s1 = rsArmed ∨ rstate s1 = rsDraining then (cancelRemoval s1, svOk, []) else _) = _
      rw [if_pos (.inl hstate), cancelRemoval, if_pos (.inl hstate)]
      rfl
    · show execServiceLocate tag v s = _
      rw [execServiceLocate]
      refine serveFrame_eq hstandby 0x06 tag ?_
      rw [if_neg (by omega)]
      rfl
  · show execSetEventReceiver e b s = _
    rw [execSetEventReceiver, hup, if_neg (by decide)]
  · show execGetSensorReading e i s = _
    rw [execGetSensorReading, hup, hsensor, if_neg (by decide), if_neg (by decide), hvalue]
  · exact execSetEffecter_eq hup (by decide) (.inl rfl) (if_pos hv)
  · exact execSetEffecter_eq hup (by decide) (.inr hmay) (if_pos ⟨hlow, hhigh⟩)
  · have hne : ¬ ((!wardenUp s) = true ∨ e.toNat = 0 ∨ e.toNat = 0xFF) := by
      rintro (h | h | h)
      · rw [hup] at h
        cases h
      · exact hzero (BitVec.eq_of_toNat_eq h)
      · exact hall (BitVec.eq_of_toNat_eq h)
    exact if_neg hne

end Sys2Proof
end

section
/-! SIGNAL commands (R290, R291): a larder that wakes, a word that is stored, an interrupt. -/

namespace Sys2Proof.Machine
open Sys2Proof

/-! ### Little-endian words -/

theorem leNat_lt (bs : List Byte) : leNat bs < 256 ^ bs.length := by
  induction bs with
  | nil => simp [leNat]
  | cons b r ih =>
    have hb : b.toNat < 256 := b.isLt
    rw [leNat, List.length_cons, Nat.pow_succ]
    omega

theorem leNat_leBytes (n v : Nat) : leNat (leBytes n v) = v % 256 ^ n := by
  induction n generalizing v with
  | zero => simp [leBytes, leNat, Nat.mod_one]
  | succ n ih =>
    have hpow : 256 ^ (n + 1) = 256 * 256 ^ n := Nat.pow_succ'
    rw [leBytes, leNat, ih, BitVec.toNat_ofNat, hpow, Nat.mod_mul]

/-! ### A larder that wakes -/

/-- `t` is `s` but for the cores, of which each is in the state it was in. -/
structure CoresApart (s t : State) : Prop where
  eq : ∃ m, t = { s with cores := m }
  state : ∀ n, (coreOf t n).state = (coreOf s n).state

theorem CoresApart.refl (s : State) : CoresApart s s := ⟨⟨s.cores, rfl⟩, fun _ => rfl⟩

/-- A larder that wakes stays in its core's state. -/
theorem wakeLarder_coresApart (p : Place) (s : State) : CoresApart s (wakeLarder p s) := by
  unfold wakeLarder
  split
  · split
    next n _ =>
      split
      · refine ⟨⟨_, rfl⟩, fun k => ?_⟩
        rw [coreOf, setCore, Assoc.get_put_of_ne]
        · split
          next h => rw [h]
          · rfl
        · intro h
          exact Bool.noConfusion (congrArg Core.larderAwake h)
      · exact .refl s
    · exact .refl s
  · exact .refl s

namespace CoresApart

variable {s t : State} (h : CoresApart s t)
include h

theorem mem : t.mem = s.mem := by
  obtain ⟨m, hm⟩ := h.eq
  rw [hm]

theorem poison : t.poison = s.poison := by
  obtain ⟨m, hm⟩ := h.eq
  rw [hm]

theorem fab : t.fab = s.fab := by
  obtain ⟨m, hm⟩ := h.eq
  rw [hm]

theorem g0 : t.g0 = s.g0 := by
  obtain ⟨m, hm⟩ := h.eq
  rw [hm]

theorem g1 : t.g1 = s.g1 := by
  obtain ⟨m, hm⟩ := h.eq
  rw [hm]

theorem ctxOf (x : Nat) : ctxOf t x = Machine.ctxOf s x := by
  obtain ⟨m, hm⟩ := h.eq
  rw [Machine.ctxOf, Machine.ctxOf, hm]

theorem partOf (p : Nat) : partOf t p = Machine.partOf s p := by
  obtain ⟨m, hm⟩ := h.eq
  rw [Machine.partOf, Machine.partOf, hm]

theorem stackOf (k : Nat) : stackOf t k = Machine.stackOf s k := by
  obtain ⟨m, hm⟩ := h.eq
  rw [Machine.stackOf, Machine.stackOf, hm]

theorem getF (o : Nat) (f : Fld) : getF t o f = Machine.getF s o f := by
  obtain ⟨m, hm⟩ := h.eq
  rw [Machine.getF, Machine.getF, getReg, getReg, hm]

theorem isFenced (dom idx : Nat) : isFenced t dom idx = Machine.isFenced s dom idx := by
  obtain ⟨m, hm⟩ := h.eq
  rw [Machine.isFenced, Machine.isFenced, hm]

theorem lowestMissing : lowestMissing t = Machine.lowestMissing s := by
  obtain ⟨m, hm⟩ := h.eq
  rw [Machine.lowestMissing, Machine.lowestMissing, hm]

theorem readMem (a n : Nat) : readMem t a n = Machine.readMem s a n := by
  simp only [Machine.readMem, memByte, h.mem]

theorem stackDies : t.stackDies = s.stackDies := by
  obtain ⟨m, hm⟩ := h.eq
  rw [hm]

theorem nearK : nearK t = Machine.nearK s := by
  rw [Machine.nearK, Machine.nearK, h.getF]

theorem channelLost (sec : Nat) : channelLost t sec = Machine.channelLost s sec := by
  unfold Machine.channelLost
  rw [h.nearK, h.stackDies]
  generalize sectorChannel (Machine.nearK s) sec = x
  obtain ⟨k, c⟩ := x
  dsimp only
  rw [h.stackOf]

theorem poisoned (a n : Nat) : poisoned t a n = Machine.poisoned s a n := by
  simp only [Machine.poisoned, h.poison, h.channelLost]

theorem tgtOf (a : Nat) : tgtOf t a = Machine.tgtOf s a := by
  have hvariant : Machine.getF t ID_DEVICE ID_DEVICE_VARIANT = Machine.getF s ID_DEVICE ID_DEVICE_VARIANT := h.getF ..
  unfold Machine.tgtOf
  rw [h.nearK, hvariant]
  generalize Machine.getF s ID_DEVICE ID_DEVICE_VARIANT = x
  dsimp only
  rw [h.state]

theorem refusal (write : Bool) (x : Tgt) : refusal t write x = Machine.refusal s write x := by
  have hstack (k : Nat) : stackFenced t k = stackFenced s k := by rw [stackFenced, stackFenced, h.isFenced, h.isFenced, h.isFenced]
  cases x <;> simp only [Machine.refusal, hstack, h.isFenced, h.state, h.getF, h.lowestMissing]

theorem descMem (ctx seg : Nat) : descMem t ctx seg = Machine.descMem s ctx seg := by
  simp only [Machine.descMem, h.ctxOf, h.tgtOf, h.refusal, h.poisoned, h.readMem]

theorem pairFor (part a : Nat) : pairFor t part a = Machine.pairFor s part a := by
  obtain ⟨m, hm⟩ := h.eq
  have hmgmt : t.mgmt = s.mgmt := by rw [hm]
  simp only [Machine.pairFor, h.partOf, h.tgtOf, hmgmt]

theorem placeOf (g : Seg) (o : Nat) : placeOf t g o = Machine.placeOf s g o := by
  have hlocal (g : Seg) (o : Nat) : localPlace t g o = localPlace s g o := by
    rw [localPlace, localPlace, aperBase, aperBase, h.getF, h.pairFor]
  have hself : selfTarget t g = selfTarget s g := by rw [selfTarget, selfTarget, h.descMem, h.ctxOf]
  have hmodule : moduleId t = moduleId s := by rw [moduleId, moduleId, h.getF]
  simp only [Machine.placeOf, hlocal, hself, hmodule]

theorem placeHeld (p : Place) : placeHeld t p = Machine.placeHeld s p := by
  cases p <;> simp only [Machine.placeHeld, h.tgtOf, h.state, h.isFenced]

theorem placeFault (write : Bool) (slot seg a : Nat) (k : Option Nat) :
    placeFault t write slot seg (.mem a k) = Machine.placeFault s write slot seg (.mem a k) := by
  simp only [Machine.placeFault, h.tgtOf, h.refusal]

theorem owesAck (c : CmdRef) : owesAck t c = Machine.owesAck s c := by
  simp only [Machine.owesAck, h.fab, h.g0, h.g1]

end CoresApart

/-! ### Work on one word -/

theorem Work.stop_parked (w : Work) (f : Fail) : (w.stop f).parked = w.parked := by
  unfold Work.stop
  split <;> rfl

theorem Work.hold_parked (w : Work) (d : CachedDesc) : (w.hold d).parked = w.parked := by
  unfold Work.hold
  split <;> rfl

theorem Work.hear_parked_none {w : Work} {f : Work → Work × Heard} (h : w.parked = none) (hf : (f w).1.parked = none) :
    (w.hear f).1.parked = none := by
  cases hlog : w.log with
  | nil => rw [w.hear_now f h hlog hf]; exact hf
  | cons a r => rw [w.hear_again f a r h hlog]; exact h

/-- Resolving a segment fails or not; it does not park. -/
theorem Work.seg_parked (w : Work) (slot seg rights : Nat) (classOk : Nat → Bool) : (w.seg slot seg rights classOk).1.parked = w.parked := by
  unfold Work.seg
  dsimp only
  split
  · exact Work.stop_parked ..
  · (repeat' split) <;> simp only [Work.stop_parked]

theorem Work.bytesRef_parked {w : Work} (h : w.parked = none) (slot : Nat) (r : Bref) (n rights : Nat) :
    (w.bytesRef slot r n rights).1.parked = none := by
  have hseg (w : Work) (classOk : Nat → Bool) (hw : w.parked = none) :
      (w.seg slot r.seg.toNat rights classOk).1.parked = none := (Work.seg_parked ..).trans hw
  unfold Work.bytesRef Work.ref
  dsimp only
  split
  · exact h
  · rw [Work.hold_parked]
    refine Work.hear_parked_none h ?_
    dsimp only
    (repeat' split) <;> simp only [Work.stop_parked, hseg _ _ h]

/-- Bytes read from plain memory that nothing holds, fences or poisons. -/
theorem Work.bytes_mem {w : Work} (hparked : w.parked = none) (hfail : w.fail = none) (hlog : w.log = []) {bad : Fail}
    {slot seg o n a : Nat} {g : Seg} {k : Option Nat} (hpl : placeOf w.s g o = .mem a k)
    (hheld : placeHeld w.s (.mem a k) = false) (hfault : placeFault w.s false slot seg (.mem a k) = none)
    (hsound : placePoison (wakeLarder (.mem a k) w.s) (.mem a k) n = false) :
    ∃ hd, w.bytes bad slot seg g o n = ({ w with s := wakeLarder (.mem a k) w.s, heard := hd },
      leBytes n (leNat (placeRead (wakeLarder (.mem a k) w.s) (.mem a k) n))) := by
  have hok : w.failed = false := by rw [Work.failed, hfail, hparked]; rfl
  unfold Work.bytes
  rw [hok, if_neg (by decide)]
  rw [Work.hear_now w _ hparked hlog]
  all_goals
    dsimp only
    rw [hpl, hheld, if_neg (by decide), hfault]
    simp only [Work.ask, Work.upd, hsound, Bool.false_eq_true, if_false, hparked]
  exact ⟨_, rfl⟩

/-- Bytes stored to plain memory that nothing holds or fences. -/
theorem Work.storeBytes_mem {w : Work} (hparked : w.parked = none) (hfail : w.fail = none) (hlog : w.log = [])
    {slot seg a : Nat} {k : Option Nat} (hheld : placeHeld w.s (.mem a k) = false)
    (hfault : placeFault w.s true slot seg (.mem a k) = none) (bs : List Byte) :
    ∃ hd, w.storeBytes slot seg (.mem a k) bs =
      { w with s := placeWrite (slot, seg) (.mem a k) bs (.cmd w.c) (wakeLarder (.mem a k) w.s), heard := hd } := by
  have hok : w.failed = false := by rw [Work.failed, hfail, hparked]; rfl
  unfold Work.storeBytes
  rw [hok, if_neg (by decide)]
  rw [Work.hear_now w _ hparked hlog]
  all_goals
    rw [hheld, if_neg (by decide), hfault]
    simp only [Work.upd, hparked]
  exact ⟨_, rfl⟩

theorem clearPoison_mem (secs : List Nat) (s : State) : (clearPoison secs s).mem = s.mem :=
  (clearPoison_spares (μ := .of [.mem]) secs s (by simp [Mask.of])).kept.pieces .mem rfl

theorem plainSectors_congr {s t : State} (h : t.mem = s.mem) (pair first n : Nat) :
    plainSectors t pair first n = plainSectors s pair first n := by
  induction n generalizing first with
  | zero => rfl
  | succ n ih => simp only [plainSectors, readMem, memByte, h, ih]

/-- A write of plain memory changes memory by what memory held, and no request that is under way. -/
theorem placeWrite_mem_congr {s t : State} (h : t.mem = s.mem) (sl : Nat × Nat) (a : Nat) (k : Option Nat) (bs : List Byte)
    (o o' : Barrier) : (placeWrite sl (.mem a k) bs o t).mem = (placeWrite sl (.mem a k) bs o' s).mem := by
  cases k with
  | none =>
    obtain ⟨_, ht⟩ := writeMem_eq a bs t
    obtain ⟨_, hs⟩ := writeMem_eq a bs s
    rw [placeWrite, placeWrite, ht, hs, h]
  | some k =>
    rw [placeWrite, placeWrite, clearPoison_mem, clearPoison_mem, plainSectors_congr h, h]

theorem placeWrite_mem_owesAck (sl : Nat × Nat) (a : Nat) (k : Option Nat) (bs : List Byte) (o : Barrier) (s : State) (c : CmdRef) :
    owesAck (placeWrite sl (.mem a k) bs o s) c = owesAck s c := by
  have hkept : Kept (.of [.fab, .g0, .g1]) s (placeWrite sl (.mem a k) bs o s) := by
    cases k <;> simp [placeWrite, Mask.of]
  have hfab : (placeWrite sl (.mem a k) bs o s).fab = s.fab := hkept.pieces .fab rfl
  have hg0 : (placeWrite sl (.mem a k) bs o s).g0 = s.g0 := hkept.pieces .g0 rfl
  have hg1 : (placeWrite sl (.mem a k) bs o s).g1 = s.g1 := hkept.pieces .g1 rfl
  rw [owesAck, owesAck, hfab, hg0, hg1]

theorem length_slice (bs : List Byte) (o n : Nat) : (slice bs o n).length = n := by
  simp only [slice, List.length_append, List.length_take, List.length_replicate]
  omega

theorem length_placeRead_mem (s : State) (a : Nat) (k : Option Nat) (n : Nat) : (placeRead s (.mem a k) n).length = n := by
  cases k with
  | none => rw [placeRead, readMem, List.length_map, List.length_range]
  | some k => exact length_slice ..

/-- The word that plain memory gives is what its bytes say. -/
theorem leNat_leBytes_placeRead (s : State) (a : Nat) (k : Option Nat) (n : Nat) :
    leNat (leBytes n (leNat (placeRead s (.mem a k) n))) = leNat (placeRead s (.mem a k) n) := by
  have hlt := leNat_lt (placeRead s (.mem a k) n)
  rw [length_placeRead_mem] at hlt
  rw [leNat_leBytes, Nat.mod_eq_of_lt hlt]

/-- The store of a signal in plain memory, its place resolved: the word, or the sum with the word that was there. -/
theorem signalWork_mem {add : Bool} {c : CmdRef} {p : SignalP} {r : Bref} {e : Cmd} {s : State} {w : Work} {g : Seg} {a : Nat}
    {k : Option Nat} (hw : (Work.start c e.core s).bytesRef 10 r 8 (rtWrite + rtSignal) = (w, g)) (hfail : w.fail = none)
    (hlog : w.log = []) (hpl : placeOf w.s g r.off.toNat = .mem a k) (hheld : placeHeld w.s (.mem a k) = false)
    (hfault : ∀ write, placeFault w.s write 10 r.seg.toNat (.mem a k) = none)
    (hsound : add = true → placePoison (wakeLarder (.mem a k) w.s) (.mem a k) 8 = false) (howes : owesAck w.s c = false) :
    (signalWork add c p r e s).failed = false ∧ (signalWork add c p r e s).s.mem = (placeWrite (10, r.seg.toNat) (.mem a k)
      (leBytes 8 ((if add then leNat (placeRead (wakeLarder (.mem a k) w.s) (.mem a k) 8) else 0) + p.value.toNat)) (.cmd c) w.s).mem := by
  have hparked : w.parked = none := by
    have h := Work.bytesRef_parked (w := Work.start c e.core s) rfl 10 r 8 (rtWrite + rtSignal)
    rwa [hw] at h
  have hstored {w1 : Work} {old : Nat} (hread : CoresApart w.s w1.s) (hparked1 : w1.parked = none) (hfail1 : w1.fail = none)
      (hlog1 : w1.log = []) :
      let w2 := w1.storeBytes 10 r.seg.toNat (placeOf w1.s g r.off.toNat) (leBytes 8 (old + p.value.toNat))
      let w3 := if !w2.failed && owesAck w2.s c then w2.await else w2
      w3.failed = false ∧
        w3.s.mem = (placeWrite (10, r.seg.toNat) (.mem a k) (leBytes 8 (old + p.value.toNat)) (.cmd c) w.s).mem := by
    have hplace : placeOf w1.s g r.off.toNat = .mem a k := (hread.placeOf ..).trans hpl
    obtain ⟨hd, hstore⟩ := Work.storeBytes_mem hparked1 hfail1 hlog1 (slot := 10) (seg := r.seg.toNat) (a := a) (k := k)
      ((hread.placeHeld _).trans hheld) ((hread.placeFault ..).trans (hfault true)) (leBytes 8 (old + p.value.toNat))
    have hwake := wakeLarder_coresApart (.mem a k) w1.s
    dsimp only
    rw [hplace, hstore, placeWrite_mem_owesAck, hwake.owesAck, hread.owesAck, howes, Bool.and_false, if_neg Bool.false_ne_true]
    refine ⟨?_, placeWrite_mem_congr (hwake.mem.trans hread.mem) ..⟩
    rw [Work.failed, hfail1, hparked1]
    rfl
  unfold signalWork
  rw [hw]
  dsimp only
  cases add with
  | false =>
    rw [if_neg Bool.false_ne_true]
    exact hstored (.refl _) hparked hfail hlog
  | true =>
    obtain ⟨hd, hbytes⟩ := Work.bytes_mem hparked hfail hlog hpl hheld (hfault false) (hsound rfl) (bad := fAbort 6)
    rw [if_pos rfl, if_pos rfl, hbytes, leNat_leBytes_placeRead]
    exact hstored (w1 := { w with s := wakeLarder (.mem a k) w.s, heard := hd }) (wakeLarder_coresApart (.mem a k) w.s) hparked hfail hlog

end Sys2Proof.Machine

namespace Sys2Proof
open Machine

theorem exec_signal (add : Bool) (c : CmdRef) (p : SignalP) (s : State) :
    exec (if add then .signalHostAdd c p else .signalHost c p) s =
      .next (runCmd (if add then .signalHostAdd c p else .signalHost c p) c true s (signalHost add c p)) := by
  cases add <;> rfl

/-- Settles O14: the module named, the checks of the add, and the place of the word choose. -/
theorem signalCommandsTakeEffect : Obligations.SignalCommandsTakeEffect := by
  intro c s
  refine ⟨fun t scope m n h => ?_, fun t scope m n v h => ?_, fun add p r => ?_, fun add p b a => ?_⟩
  · intro s1 hfar hpeer
    obtain ⟨l, hl⟩ := markStarted_eq (.signalRemote c t scope m n) c s
    have hmodule : m.toNat ≠ moduleId s1 := by rw [show s1 = _ from hl]; exact hfar
    rw [exec_of_takesPlace rfl h]
    dsimp only
    rw [if_neg hmodule, hpeer]
  · intro d x e s1 a hhere hopen hexport hx hv hadd
    obtain ⟨l, hl⟩ := markStarted_eq (.signalRemote c t scope m n) c s
    have hmodule : m.toNat = moduleId s1 := by rw [show s1 = _ from hl]; exact hhere
    have htally : tallyOf s1 d x = a := tallyOf_markStarted ..
    rw [exec_of_takesPlace rfl h]
    dsimp only
    rw [if_pos hmodule, if_neg (by rw [hopen]; decide), if_pos ⟨htally ▸ hexport, hx⟩, addWithPartner_eq (htally ▸ hv),
      applyAdd_passes (htally ▸ hadd), htally]
    rfl
  · intro i h hdest s1 w pl old all hvector
    have hexec : exec i s = .next (signalHost add c p (runEntry i c s) s1) := exec_of_takesPlace (exec_signal add c p s) h
    refine ⟨fun hdone => ?_, fun hfailed => ?_, fun hheard hfail hlog hheld hfault hsound hplain howes => ?_⟩
    · rw [hexec]
      unfold signalHost
      dsimp only
      rw [if_neg (by rw [hvector]; decide), hdest]
      dsimp only
      rw [if_neg (by rw [hdone]; decide)]
    · rw [hexec]
      unfold signalHost
      dsimp only
      rw [if_neg (by rw [hvector]; decide), hdest]
      dsimp only
      rw [if_pos hfailed]
    · obtain ⟨a, k, hpl⟩ := hplain
      rw [hpl] at hheld hfault hsound
      have hstored := signalWork_mem (add := add) (p := p) (r := r) (e := runEntry i c s) (s := s1) (w := w.1) (g := w.2) rfl
        hfail hlog hpl hheld hfault hsound howes
      show all.failed = false ∧ all.s.mem = (placeWrite (10, r.seg.toNat) pl (leBytes 8
        ((if add then leNat (placeRead (wakeLarder pl w.1.s) pl 8) else 0) + p.value.toNat)) (.cmd c) w.1.s).mem
      rw [hpl]
      exact hstored
  · intro i h hdest s1 s2 hvector htarget hlost hopen
    have hexec : exec i s = .next (signalHost add c p (runEntry i c s) s1) := exec_of_takesPlace (exec_signal add c p s) h
    obtain ⟨l, hl⟩ := markStarted_eq i c s
    have hqueue : queueOf s1 c.queue.toNat = queueOf s c.queue.toNat := by rw [show s1 = _ from hl]; rfl
    rw [hexec]
    unfold signalHost
    dsimp only
    rw [if_neg (by rw [hvector]; decide), hdest]
    dsimp only
    rw [hqueue, if_neg (by rw [htarget]; exact fun h => h rfl), if_neg (by rw [hlost]; decide), if_neg (by rw [hopen]; decide)]

end Sys2Proof
end

section
/-! A tile stored in plain memory (R54, R60, R371): its bytes, its header, and what the base die finds. -/

namespace Sys2Proof

/-- A read of `c` comes to an entry that holds `v`, whatever the form of the map. -/
def Assoc.Reaches {α : Type} (c : Nat) (v : α) : Assoc α → Prop
  | [] => False
  | (j, w) :: r => if c = j then w = v else j < c ∧ Reaches c v r

namespace Assoc.Reaches

variable {α : Type} {d : Nat → α} {c : Nat} {v : α}

theorem get {m : Assoc α} (h : Reaches c v m) : Assoc.get d m c = v := by
  induction m with
  | nil => exact h.elim
  | cons e r ih =>
    obtain ⟨j, w⟩ := e
    simp only [Reaches] at h
    simp only [Assoc.get]
    split at h
    next hj => rw [if_pos hj, h]
    next hj => rw [if_neg hj, if_neg (by omega), ih h.2]

variable [DecidableEq α]

theorem put_self (hv : v ≠ d c) (m : Assoc α) : Reaches c v (Assoc.put d m c v) := by
  induction m with
  | nil => simp [Assoc.put, hv, Reaches]
  | cons e r ih =>
    obtain ⟨j, w⟩ := e
    simp only [Assoc.put, if_neg hv]
    split
    · simp [Reaches]
    · split
      · simp [Reaches]
      · simp only [Reaches]
        rw [if_neg (by assumption)]
        exact ⟨by omega, ih⟩

/-- A write of another key, of any value, leaves the way to `c`. -/
theorem put_other {m : Assoc α} (h : Reaches c v m) {b : Nat} (hne : b ≠ c) (x : α) : Reaches c v (Assoc.put d m b x) := by
  induction m with
  | nil => exact h.elim
  | cons e r ih =>
    obtain ⟨j, w⟩ := e
    simp only [Reaches] at h
    simp only [Assoc.put]
    by_cases hcj : c = j
    · rw [if_pos hcj] at h
      rw [if_neg (by omega)]
      split
      · split
        · simpa [Reaches, hcj] using h
        · simp only [Reaches]
          rw [if_neg (by omega), if_pos hcj]
          exact ⟨by omega, h⟩
      · simpa [Reaches, hcj] using h
    · rw [if_neg hcj] at h
      split
      · split
        · exact h.2
        · simp only [Reaches]
          rw [if_neg (by omega)]
          exact ⟨by omega, h.2⟩
      · split
        · split
          · simpa [Reaches, hcj] using h
          · simp only [Reaches]
            rw [if_neg (by omega), if_neg hcj]
            exact ⟨by omega, h⟩
        · simp only [Reaches]
          rw [if_neg hcj]
          exact ⟨h.1, ih h.2⟩

end Assoc.Reaches

/-! ### The bytes of a header -/

theorem slice_append_mid (a b c : List Byte) : slice (a ++ b ++ c) a.length b.length = b := by
  simp [slice]

theorem field_append_leBytes {a c : List Byte} {o n : Nat} (ho : a.length = o) (v : Nat) :
    field (a ++ leBytes n v ++ c) o n = v % 256 ^ n := by
  have h := slice_append_mid a (leBytes n v) c
  rw [Machine.length_leBytes, ho] at h
  rw [field, h, Machine.leNat_leBytes]

theorem Header.length_toBytes (h : Header) : h.toBytes.length = 64 := by
  simp [Header.toBytes, Header.covered, Machine.length_leBytes]

theorem Header.gen_ofBytes_toBytes (h : Header) : (Header.ofBytes h.toBytes).gen = h.gen % 2 ^ 32 := by
  have hbytes : h.toBytes = (leBytes 1 h.format ++ leBytes 1 h.flags ++ leBytes 2 h.rows ++ leBytes 2 h.cols ++ leBytes 2 h.maxexp) ++
      leBytes 4 h.gen ++ (leBytes 2 h.prodModule ++ leBytes 2 h.prodUnit ++ leBytes 4 h.prodCtx ++ leBytes 4 h.epoch ++
      leBytes 8 h.sealBell ++ leBytes 24 h.reserved ++ leBytes 4 h.crc ++ leBytes 4 h.tail) := by
    simp only [Header.toBytes, Header.covered, List.append_assoc]
  dsimp only [Header.ofBytes]
  rw [hbytes, field_append_leBytes (by simp [Machine.length_leBytes]), show (256 : Nat) ^ 4 = 2 ^ 32 by decide]

theorem Header.flags_ofBytes_toBytes (h : Header) : (Header.ofBytes h.toBytes).flags = h.flags % 256 := by
  have hbytes : h.toBytes = leBytes 1 h.format ++ leBytes 1 h.flags ++ (leBytes 2 h.rows ++ leBytes 2 h.cols ++ leBytes 2 h.maxexp ++
      leBytes 4 h.gen ++ leBytes 2 h.prodModule ++ leBytes 2 h.prodUnit ++ leBytes 4 h.prodCtx ++ leBytes 4 h.epoch ++
      leBytes 8 h.sealBell ++ leBytes 24 h.reserved ++ leBytes 4 h.crc ++ leBytes 4 h.tail) := by
    simp only [Header.toBytes, Header.covered, List.append_assoc]
  dsimp only [Header.ofBytes]
  rw [hbytes, field_append_leBytes (Machine.length_leBytes ..), Nat.pow_one]

theorem Header.invalid_ofBytes_toBytes (h : Header) : (Header.ofBytes h.toBytes).invalid = h.invalid := by
  rw [Header.invalid, Header.invalid, Header.flags_ofBytes_toBytes]
  unfold bitAt
  congr 1
  omega

theorem Tile.sealed_hdr_gen (t : Tile) (o : Nat) : (t.sealed o).hdr.gen = (o + 1) % 2 ^ 32 := rfl

theorem Tile.sealed_hdr_invalid (t : Tile) (o : Nat) : (t.sealed o).hdr.invalid = t.hdr.invalid := rfl

/-- A header with INVALID in its flags (R60). -/
theorem Header.invalid_or_two (h : Header) : ({ h with flags := h.flags ||| 2 } : Header).invalid = true := by
  rw [Header.invalid, Machine.bitAt_eq_testBit, Nat.testBit_or, show Nat.testBit 2 1 = true from rfl, Bool.or_true]

/-- The generation after the open one is even. -/
theorem genOpen_succ_even (g : Nat) : (genOpen g + 1) % 2 ^ 32 % 2 = 0 := by
  unfold genOpen
  split <;> omega

namespace Machine

/-! ### The bytes in memory -/

/-- Memory as the three stages of R54 leave it. -/
def tileStored (pa ha og : Nat) (hdr : Header) (payload : List Byte) (s : State) : State :=
  writeMem ha hdr.toBytes (writeMem pa payload (writeMem (ha + 8) (leBytes 4 og) s))

theorem wf_writeMem {s : State} (hwf : Memory.wf s.mem = true) (a : Nat) (bs : List Byte) : Memory.wf (writeMem a bs s).mem = true := by
  obtain ⟨k, hk⟩ := writeMem_eq a bs s
  rw [hk]
  exact wf_putBytes bs hwf

theorem readMem_writeMem_apart {s : State} (hwf : Memory.wf s.mem = true) {a b n : Nat} (bs : List Byte)
    (hapart : a + bs.length ≤ b ∨ b + n ≤ a) : readMem (writeMem a bs s) b n = readMem s b n := by
  refine List.map_congr_left fun i hi => ?_
  have hin := List.mem_range.mp hi
  rw [memByte_writeMem hwf, if_neg (by omega)]

theorem readMem_congr {s t : State} (h : t.mem = s.mem) (a n : Nat) : readMem t a n = readMem s a n := by
  simp only [readMem, memByte, h]

section
variable {s : State} (hwf : Memory.wf s.mem = true) {pa ha : Nat} (og : Nat) (hdr : Header) {payload : List Byte}
include hwf

theorem readMem_tileStored_header : readMem (tileStored pa ha og hdr payload s) ha 64 = hdr.toBytes := by
  have h := readMem_writeMem_same (wf_writeMem (wf_writeMem hwf (ha + 8) (leBytes 4 og)) pa payload) ha hdr.toBytes
  rwa [Header.length_toBytes] at h

theorem readMem_tileStored_payload (hlen : payload.length = 4096) (hapart : ha + 64 ≤ pa ∨ pa + 4096 ≤ ha) :
    readMem (tileStored pa ha og hdr payload s) pa 4096 = payload := by
  have hopen := wf_writeMem hwf (ha + 8) (leBytes 4 og)
  have hstored := readMem_writeMem_same hopen pa payload
  rw [hlen] at hstored
  rw [tileStored, readMem_writeMem_apart (wf_writeMem hopen pa payload) _ (by rw [Header.length_toBytes]; exact hapart), hstored]

theorem memByte_tileStored_outside (hlen : payload.length = 4096) {x : Nat} (hp : x < pa ∨ pa + 4096 ≤ x)
    (hh : x < ha ∨ ha + 64 ≤ x) : memByte (tileStored pa ha og hdr payload s) x = memByte s x := by
  have hopen := wf_writeMem hwf (ha + 8) (leBytes 4 og)
  have hopenLen : (leBytes 4 og).length = 4 := length_leBytes ..
  rw [tileStored, memByte_writeMem (wf_writeMem hopen pa payload), Header.length_toBytes, if_neg (by omega), memByte_writeMem hopen,
    hlen, if_neg (by omega), memByte_writeMem hwf, hopenLen, if_neg (by omega)]

end

theorem tileStored_regs (pa ha og : Nat) (hdr : Header) (payload : List Byte) (s : State) :
    (tileStored pa ha og hdr payload s).regs = s.regs := by
  obtain ⟨_, h1⟩ := writeMem_eq (ha + 8) (leBytes 4 og) s
  obtain ⟨_, h2⟩ := writeMem_eq pa payload (writeMem (ha + 8) (leBytes 4 og) s)
  rw [tileStored, (writeMem_eq ..).choose_spec, h2, h1]

theorem tileStored_mem_congr {s t : State} (h : t.mem = s.mem) (pa ha og : Nat) (hdr : Header) (payload : List Byte) :
    (tileStored pa ha og hdr payload t).mem = (tileStored pa ha og hdr payload s).mem := by
  have hput {s t : State} (h : t.mem = s.mem) (a : Nat) (bs : List Byte) : (writeMem a bs t).mem = (writeMem a bs s).mem :=
    placeWrite_mem_congr h (0, 0) a none bs .none .none
  exact hput (hput (hput h ..) ..) ..

/-! ### What the base die finds (R371) -/

/-- The register of stack `k` says that a tile was resent. -/
def RetryShown (k : Nat) (s : State) : Prop :=
  ∃ v, bits v.toNat STK_ECC_TILE_RETRY.hi STK_ECC_TILE_RETRY.lo = 1 ∧ Assoc.Reaches (STK_ECC k) v s.regs

theorem RetryShown.getF {k : Nat} {s : State} (h : RetryShown k s) : getF s (STK_ECC k) STK_ECC_TILE_RETRY = 1 := by
  obtain ⟨v, hv, hreach⟩ := h
  rw [Machine.getF, getReg, hreach.get, hv]

theorem RetryShown.of_regs {k : Nat} {s t : State} (h : RetryShown k s) (hregs : t.regs = s.regs) : RetryShown k t := by
  unfold RetryShown
  rw [hregs]
  exact h

theorem retryShown_setF {k : Nat} (hk : k < 12) (s : State) : RetryShown k (setF (STK_ECC k) STK_ECC_TILE_RETRY 1 s) := by
  have hreset : bits (regReset (STK_ECC k)).toNat STK_ECC_TILE_RETRY.hi STK_ECC_TILE_RETRY.lo = 0 := by
    revert k
    decide
  have hword : bits (BitVec.ofNat 64 (setBits (getReg s (STK_ECC k)) STK_ECC_TILE_RETRY.hi STK_ECC_TILE_RETRY.lo 1)).toNat
      STK_ECC_TILE_RETRY.hi STK_ECC_TILE_RETRY.lo = 1 := by
    rw [BitVec.toNat_ofNat, bits_mod_two_pow (by decide) (by decide), bits_setBits_same]
    rfl
  exact ⟨_, hword, Assoc.Reaches.put_self (fun h => by rw [h, hreset] at hword; exact absurd hword (by decide)) s.regs⟩

theorem retryShown_ledgerTile {k : Nat} {s : State} (h : RetryShown k s) (dom slot : Nat) (p : Place) (hdr : Header) :
    RetryShown k (ledgerTile dom slot p hdr s) := by
  have hwrite {t : State} (ht : RetryShown k t) (v : Nat) : RetryShown k (setF LEDGER_STATUS LEDGER_STATUS_LOST v t) := by
    obtain ⟨v, hv, hreach⟩ := ht
    refine ⟨v, hv, hreach.put_other ?_ _⟩
    unfold LEDGER_STATUS STK_ECC
    omega
  unfold ledgerTile ledger ledgerF
  split
  · exact h.of_regs rfl
  · extract_lets r lost faults s1 s2 s3
    have h1 : RetryShown k s1 := h.of_regs rfl
    have h2 : RetryShown k s2 := iteInduction (fun _ => hwrite h1 _) fun _ => h1
    have h3 : RetryShown k s3 := iteInduction (fun hsev => absurd hsev.1 (by decide)) fun _ => h2
    exact h3.of_regs rfl

theorem ledgerTile_mem (dom slot : Nat) (p : Place) (hdr : Header) (s : State) : (ledgerTile dom slot p hdr s).mem = s.mem :=
  (ledgerTile_spares (μ := .of [.mem]) dom slot p hdr s (by simp [Mask.of])).kept.pieces .mem rfl

theorem stack_of_transferUpset {s : State} {a k : Nat} {x : Option Nat} {again : Bool}
    (h : transferUpset s (.mem a x) = some (k, again)) : k < 12 := by
  unfold transferUpset at h
  dsimp only at h
  split at h
  next j htgt =>
    obtain ⟨u, -, hu⟩ := List.exists_of_findSome?_eq_some h
    split at hu
    · split at hu
      · cases hu
        exact stack_lt_of_tgtOf htgt
      · cases hu
    · cases hu
  · cases h

theorem CoresApart.transferUpset {s t : State} (h : CoresApart s t) (a : Nat) (k : Option Nat) :
    transferUpset t (.mem a k) = Machine.transferUpset s (.mem a k) := by
  obtain ⟨m, hm⟩ := h.eq
  have hupsets : t.upsets = s.upsets := by rw [hm]
  simp only [Machine.transferUpset, h.tgtOf, hupsets]

theorem Work.stop_of_not_failed {w : Work} (h : w.failed = false) (f : Fail) : w.stop f = { w with fail := some f } := by
  rw [Work.stop, h, if_neg Bool.false_ne_true]

/-- The base die has refused a transfer to stack `k`: the error is spent, and STK_ECC shows it. -/
def retried (k : Nat) (again : Bool) (s : State) : State :=
  setF (STK_ECC k) STK_ECC_TILE_RETRY 1 { s with upsets := s.upsets.erase (.transfer k again) }

/-- The header that a transfer over the generation `g` leaves: sealed, and INVALID where the base die refuses it twice. -/
def transferHeader (h : Header) (payload : List Byte) (g : Nat) (refused : Bool) : Header :=
  ((Tile.mk (if refused then { h with flags := h.flags ||| 2 } else h) payload).sealed (genOpen g)).hdr

section
variable {w : Work} {slot seg pa ha : Nat} (h : Header) (payload : List Byte) (hfail : w.fail = none) (hparked : w.parked = none)
include hfail hparked

/-- The three outcomes of a transfer's CRC. -/
theorem Work.transfer_storedAs (g : Nat) :
    let u := w.transfer (.mem pa none) (Tile.mk h payload) (genOpen g) fun t w => w.upd fun s =>
      placeWrite (slot, seg) (.mem ha none) t.hdr.toBytes (.cmd w.c) (placeWrite (slot, seg) (.mem pa none) payload (.cmd w.c)
        (openTile slot seg (.mem ha none) g (.cmd w.c) s))
    let refused := (transferUpset w.s (.mem pa none)).any (·.2)
    u.parked = none ∧ u.fail = (if refused then some (fTile 8 .corrupt) else none) ∧
      u.s.mem = (tileStored pa ha (genOpen g) (transferHeader h payload g refused) payload w.s).mem ∧
      ∀ k again, transferUpset w.s (.mem pa none) = some (k, again) → RetryShown k u.s := by
  have hok : w.failed = false := by rw [Work.failed, hfail, hparked]; rfl
  dsimp only
  unfold Work.transfer
  cases hupset : transferUpset w.s (.mem pa none) with
  | none => exact ⟨hparked, hfail, rfl, fun k again h => by cases h⟩
  | some u =>
    obtain ⟨k, again⟩ := u
    have hmem (hdr : Header) : (tileStored pa ha (genOpen g) hdr payload (retried k again w.s)).mem =
        (tileStored pa ha (genOpen g) hdr payload w.s).mem := tileStored_mem_congr (s := w.s) (t := retried k again w.s) rfl ..
    have hshown (hdr : Header) : RetryShown k (tileStored pa ha (genOpen g) hdr payload (retried k again w.s)) :=
      (retryShown_setF (stack_of_transferUpset hupset) _).of_regs (tileStored_regs ..)
    dsimp only
    cases again with
    | false =>
      rw [if_neg Bool.false_ne_true]
      refine ⟨hparked, hfail, hmem _, fun j again hj => ?_⟩
      cases hj
      exact hshown _
    | true =>
      rw [if_pos rfl, Work.stop_of_not_failed]
      · refine ⟨hparked, rfl, (ledgerTile_mem ..).trans (hmem _), fun j again hj => ?_⟩
        cases hj
        exact retryShown_ledgerTile (hshown _) ..
      · exact hok

theorem Work.storeAt_storedAs (hlog : w.log = []) (hheldP : placeHeld w.s (.mem pa none) = false)
    (hheldH : placeHeld w.s (.mem ha none) = false) (hfaultP : placeFault w.s true slot seg (.mem pa none) = none)
    (hfaultH : placeFault w.s true slot seg (.mem ha none) = none) :
    let u := w.storeAt slot seg (.mem pa none) (.mem ha none) h payload
    let g := (Header.ofBytes (placeRead w.s (.mem ha none) 64)).gen
    let refused := (transferUpset w.s (.mem pa none)).any (·.2)
    u.fail = (if refused then some (fTile 8 .corrupt) else none) ∧
      u.s.mem = (tileStored pa ha (genOpen g) (transferHeader h payload g refused) payload w.s).mem ∧
      ∀ k again, transferUpset w.s (.mem pa none) = some (k, again) → RetryShown k u.s := by
  have hok : w.failed = false := by rw [Work.failed, hfail, hparked]; rfl
  have hwake := wakeLarder_coresApart (.mem pa none) w.s
  have hold : placeRead (wakeLarder (.mem pa none) w.s) (.mem ha none) 64 = placeRead w.s (.mem ha none) 64 := hwake.readMem ..
  have htransfer := Work.transfer_storedAs (w := w.upd (wakeLarder (.mem pa none))) (slot := slot) (seg := seg) (pa := pa) (ha := ha)
    h payload hfail hparked (Header.ofBytes (placeRead w.s (.mem ha none) 64)).gen
  dsimp only at htransfer
  rw [show (w.upd (wakeLarder (.mem pa none))).s = wakeLarder (.mem pa none) w.s from rfl, hwake.transferUpset,
    tileStored_mem_congr hwake.mem] at htransfer
  obtain ⟨hp, hf, hm, hr⟩ := htransfer
  dsimp only
  unfold Work.storeAt
  rw [hok, if_neg Bool.false_ne_true, w.hear_now _ hparked hlog]
  all_goals
    rw [hheldP, hheldH, Bool.or_false, if_neg Bool.false_ne_true, hfaultP, hfaultH]
    dsimp only [Option.orElse, Work.ask]
    rw [show (w.upd (wakeLarder (.mem pa none))).s = wakeLarder (.mem pa none) w.s from rfl, hold]
  · exact ⟨hf, hm, hr⟩
  · exact hp

end

/-- What memory says of the tile once the three stages are done. -/
theorem tileStored_reads {s t : State} (hwf : Memory.wf s.mem = true) {pa ha g : Nat} {h : Header} {payload : List Byte} {refused : Bool}
    (hm : t.mem = (tileStored pa ha (genOpen g) (transferHeader h payload g refused) payload s).mem) (hlen : payload.length = 4096)
    (hapart : ha + 64 ≤ pa ∨ pa + 4096 ≤ ha) :
    (Header.ofBytes (placeRead t (.mem ha none) 64)).gen = (genOpen g + 1) % 2 ^ 32 ∧
      (Header.ofBytes (placeRead t (.mem ha none) 64)).invalid = (if refused then true else h.invalid) ∧ readMem t pa 4096 = payload ∧
      ∀ x, (x < pa ∨ pa + 4096 ≤ x) → (x < ha ∨ ha + 64 ≤ x) → memByte t x = memByte s x := by
  have hnew : placeRead t (.mem ha none) 64 = (transferHeader h payload g refused).toBytes :=
    (readMem_congr hm ..).trans (readMem_tileStored_header hwf ..)
  rw [hnew, Header.gen_ofBytes_toBytes, Header.invalid_ofBytes_toBytes, transferHeader, Tile.sealed_hdr_gen, Tile.sealed_hdr_invalid,
    Nat.mod_mod]
  refine ⟨rfl, ?_, (readMem_congr hm ..).trans (readMem_tileStored_payload hwf _ _ hlen hapart), fun x hp hh => ?_⟩
  · cases refused
    · rfl
    · exact h.invalid_or_two
  · rw [memByte, hm]
    exact memByte_tileStored_outside hwf _ _ hlen hp hh

/-- Settles O10: the three stages of R54, and what the base die finds of the transfer. -/
theorem tileStoreSealsItsGeneration : Obligations.TileStoreSealsItsGeneration := by
  intro w slot seg pa ha h payload hwf hfail hparked hlog hlen hapart hfaultP hfaultH hheldP hheldH u t old new
  obtain ⟨hf, hm, hr⟩ := Work.storeAt_storedAs h payload hfail hparked hlog hheldP hheldH hfaultP hfaultH
  obtain ⟨hgen, hinvalid, hpayload, houtside⟩ := tileStored_reads hwf hm hlen hapart
  refine ⟨fun k again hk => (hr k again hk).getF, ?_, hgen, ?_, hpayload, houtside⟩
  · cases hrefused : (transferUpset w.s (.mem pa none)).any (·.2) <;> rw [hrefused] at hf hinvalid <;> exact ⟨hf, hinvalid⟩
  · rw [show new.gen = _ from hgen]
    exact genOpen_succ_even _

end Machine
end Sys2Proof
end

section
/-! Packets (chapters 08, 09): what a reader finds in a packet written from its fields, and each command's fields read back. -/

namespace Sys2Proof

/-! ### The fields of a packet -/

/-- Two fields share no byte. -/
@[simp] def fieldsApart (o n o' n' : Nat) : Bool := decide (o + n ≤ o') || decide (o' + n' ≤ o)

/-- No field of the list reaches into bytes `o` to `o + n`. -/
@[simp] def fieldFree (o n : Nat) : List (Nat × Nat × Nat) → Bool
  | [] => true
  | (o', n', _) :: r => fieldsApart o n o' n' && fieldFree o n r

/-- No two fields of the list share a byte. -/
def fieldsDisjoint : List (Nat × Nat × Nat) → Bool
  | [] => true
  | (o, n, _) :: r => fieldFree o n r && fieldsDisjoint r

/-- Bytes `o` to `o + n` are one field of the list, or none reaches into them. -/
@[simp] def fieldFits (o n : Nat) : List (Nat × Nat × Nat) → Bool
  | [] => true
  | (o', n', _) :: r => bif o == o' && n == n' then true else fieldsApart o n o' n' && fieldFits o n r

/-- What `n` bytes hold of a value. -/
def fieldVal (n v : Nat) : Nat := v % 2 ^ (8 * n)

/-- The value of the field in bytes `o` to `o + n`, or 0. -/
@[simp] def fieldAt (o n : Nat) : List (Nat × Nat × Nat) → Nat
  | [] => 0
  | (o', n', v) :: r => bif o == o' && n == n' then fieldVal n' v else fieldAt o n r

/-- The bytes of an added field read as it. -/
theorem add_field_self {A N L x H : Nat} (hL : L < A) (hx : x < N) : (x * A + (L + A * (N * H))) / A % N = x := by
  rw [show x * A + (L + A * (N * H)) = L + A * (x + N * H) by ring, Nat.add_mul_div_left _ _ (by omega), Nat.div_eq_of_lt hL,
    Nat.zero_add, Nat.add_mul_mod_self_left, Nat.mod_eq_of_lt hx]

/-- The bytes above an added field read as before. -/
theorem add_field_above {A N L x H : Nat} (hL : L < A) (hx : x < N) :
    (x * A + (L + A * (N * H))) / (A * N) = (L + A * (N * H)) / (A * N) := by
  have hfield : A * (x + 1) ≤ A * N := Nat.mul_le_mul_left A hx
  have hlow : L + A * x < A * N := by rw [Nat.mul_add] at hfield; omega
  have hpos : 0 < A * N := by omega
  rw [show x * A + (L + A * (N * H)) = (L + A * x) + A * N * H by ring, show L + A * (N * H) = L + A * N * H by ring,
    Nat.add_mul_div_left _ _ hpos, Nat.add_mul_div_left _ _ hpos, Nat.div_eq_of_lt hlow, Nat.div_eq_of_lt (by omega)]

/-- The bytes below an added field read as before. -/
theorem add_field_below {A N K x P : Nat} (hA : 0 < A) : (x * (A * (N * K)) + P) / A % N = P / A % N := by
  rw [show x * (A * (N * K)) + P = P + A * (N * (K * x)) by ring, Nat.add_mul_div_left _ _ hA, Nat.add_mul_mod_self_left]

theorem two_pow_bytes {a b c : Nat} (h : a + b ≤ c) : 2 ^ (8 * c) = 2 ^ (8 * a) * (2 ^ (8 * b) * 2 ^ (8 * (c - (a + b)))) := by
  rw [← Nat.pow_add, ← Nat.pow_add]
  exact congrArg (2 ^ ·) (by omega)

/-- Adding a field to a packet with nothing but 0 in its bytes. -/
theorem pf_add_field {P o n : Nat} (h : pf P o n = 0) (v : Nat) :
    pf (v % 2 ^ (8 * n) * 2 ^ (8 * o) + P) o n = fieldVal n v ∧
      ∀ o' n', fieldsApart o' n' o n = true → pf (v % 2 ^ (8 * n) * 2 ^ (8 * o) + P) o' n' = pf P o' n' := by
  have hv : v % 2 ^ (8 * n) < 2 ^ (8 * n) := Nat.mod_lt _ (Nat.two_pow_pos _)
  have hlow : P % 2 ^ (8 * o) < 2 ^ (8 * o) := Nat.mod_lt _ (Nat.two_pow_pos _)
  have hzero : P / 2 ^ (8 * o) = 2 ^ (8 * n) * (P / 2 ^ (8 * o) / 2 ^ (8 * n)) := by
    have hdiv := Nat.div_add_mod (P / 2 ^ (8 * o)) (2 ^ (8 * n))
    rw [pf] at h
    omega
  have hP : P = P % 2 ^ (8 * o) + 2 ^ (8 * o) * (2 ^ (8 * n) * (P / 2 ^ (8 * o) / 2 ^ (8 * n))) := by
    rw [← hzero]
    exact (Nat.mod_add_div ..).symm
  refine ⟨?_, fun o' n' hapart => ?_⟩
  · rw [pf, hP]
    exact add_field_self hlow hv
  · rw [fieldsApart, Bool.or_eq_true, decide_eq_true_iff, decide_eq_true_iff] at hapart
    rw [pf, pf]
    rcases hapart with hbelow | habove
    · rw [two_pow_bytes hbelow]
      exact add_field_below (Nat.two_pow_pos _)
    · have hsum := add_field_above (H := P / 2 ^ (8 * o) / 2 ^ (8 * n)) hlow hv
      rw [← hP] at hsum
      simp only [two_pow_bytes habove, ← Nat.div_div_eq_div_mul] at hsum ⊢
      rw [hsum]

/-- Bytes that no field reaches into are 0. -/
theorem pf_packFields_of_free {fs : List (Nat × Nat × Nat)} (hd : fieldsDisjoint fs = true) {o n : Nat} (hf : fieldFree o n fs = true) :
    pf (packFields fs) o n = 0 := by
  induction fs generalizing o n with
  | nil => simp [packFields, pf]
  | cons f r ih =>
    obtain ⟨o', n', v⟩ := f
    simp only [fieldsDisjoint, fieldFree, Bool.and_eq_true] at hd hf
    obtain ⟨hhead, hrest⟩ := hd
    rw [packFields, (pf_add_field (ih hrest hhead) v).2 o n hf.1, ih hrest hf.2]

/-- What a reader finds in a packet that is the sum of its fields. -/
theorem pf_packFields {fs : List (Nat × Nat × Nat)} (hd : fieldsDisjoint fs = true) {o n : Nat} (hf : fieldFits o n fs = true) :
    pf (packFields fs) o n = fieldAt o n fs := by
  induction fs with
  | nil => simp [packFields, pf, fieldAt]
  | cons f r ih =>
    obtain ⟨o', n', v⟩ := f
    simp only [fieldsDisjoint, Bool.and_eq_true] at hd
    obtain ⟨hhead, hrest⟩ := hd
    have hadd := pf_add_field (pf_packFields_of_free hrest hhead) v
    rw [packFields, fieldAt]
    rw [fieldFits] at hf
    cases hsame : o == o' && n == n' with
    | true =>
      rw [Bool.and_eq_true, beq_iff_eq, beq_iff_eq] at hsame
      obtain ⟨rfl, rfl⟩ := hsame
      exact hadd.1
    | false =>
      rw [hsame, cond_false, Bool.and_eq_true] at hf
      rw [hadd.2 o n hf.1, ih hrest hf.2]
      rfl

/-! ### What the values of the fields are -/

theorem fieldVal_of_lt {n v : Nat} (h : v < 2 ^ (8 * n)) : fieldVal n v = v := Nat.mod_eq_of_lt h

@[simp] theorem fieldVal_toNat {w n : Nat} (x : BitVec w) (h : w ≤ 8 * n) : fieldVal n x.toNat = x.toNat :=
  Nat.mod_eq_of_lt (Nat.lt_of_lt_of_le x.isLt (Nat.pow_le_pow_right (by decide) h))

theorem trefNat_lt (r : Tref) : trefNat r < 2 ^ (8 * 6) := by
  have htile := r.tile.isLt
  have hseg := r.seg.isLt
  rw [trefNat]
  omega

theorem brefNat_lt (r : Bref) : brefNat r < 2 ^ (8 * 6) := by
  have hoff := r.off.isLt
  have hseg := r.seg.isLt
  rw [brefNat]
  omega

@[simp] theorem fieldVal_trefNat (r : Tref) : fieldVal 6 (trefNat r) = trefNat r := Nat.mod_eq_of_lt (trefNat_lt r)

@[simp] theorem fieldVal_brefNat (r : Bref) : fieldVal 6 (brefNat r) = brefNat r := Nat.mod_eq_of_lt (brefNat_lt r)

/-! ### The readers of one field -/

@[simp] theorem ok_bind {α β : Type} (a : α) (f : α → Dec β) : (Except.ok a : Dec α) >>= f = f a := rfl

@[simp] theorem ok_map {α β : Type} (a : α) (f : α → β) : Except.map f (.ok a : Dec α) = .ok (f a) := rfl

@[simp] theorem need_true (reason off : Nat) : need true reason off = .ok () := rfl

def trefOf (v : Nat) : Tref := ⟨BitVec.ofNat 44 (v / 16), BitVec.ofNat 4 v⟩

def brefOf (v : Nat) : Bref := ⟨BitVec.ofNat 44 (v / 16), BitVec.ofNat 4 v⟩

theorem tref_eq (pk o : Nat) : tref pk o = trefOf (pf pk o 6) := rfl

theorem bref_eq (pk o : Nat) : bref pk o = brefOf (pf pk o 6) := rfl

theorem brefAligned_eq (pk o a : Nat) :
    brefAligned pk o a = (do need ((pf pk o 6 / 16) % a == 0) 0x02 o; .ok (brefOf (pf pk o 6))) := rfl

@[simp] theorem trefOf_trefNat (r : Tref) : trefOf (trefNat r) = r := by
  have hseg := r.seg.isLt
  have htile : trefNat r / 16 = r.tile.toNat := by rw [trefNat]; omega
  have hlow : trefNat r % 2 ^ 4 = r.seg.toNat := by rw [trefNat]; omega
  rw [trefOf, htile, BitVec.ofNat_toNat, BitVec.setWidth_eq]
  exact congrArg (Tref.mk _) (BitVec.eq_of_toNat_eq (by rw [BitVec.toNat_ofNat, hlow]))

@[simp] theorem brefNat_div (r : Bref) : brefNat r / 16 = r.off.toNat := by
  have hseg := r.seg.isLt
  rw [brefNat]
  omega

@[simp] theorem brefOf_brefNat (r : Bref) : brefOf (brefNat r) = r := by
  have hseg := r.seg.isLt
  have hlow : brefNat r % 2 ^ 4 = r.seg.toNat := by rw [brefNat]; omega
  rw [brefOf, brefNat_div, BitVec.ofNat_toNat, BitVec.setWidth_eq]
  exact congrArg (Bref.mk _) (BitVec.eq_of_toNat_eq (by rw [BitVec.toNat_ofNat, hlow]))

/-- A packet reads as its fields. -/
def ReadsAs (pk : Nat) (fs : List (Nat × Nat × Nat)) : Prop := ∀ o n, fieldFits o n fs = true → pf pk o n = fieldAt o n fs

theorem ReadsAs.nil {pk : Nat} (h : ReadsAs pk []) (o n : Nat) : pf pk o n = 0 := h o n rfl

theorem fieldFits_of_free {o n : Nat} {fs : List (Nat × Nat × Nat)} (h : fieldFree o n fs = true) : fieldFits o n fs = true := by
  induction fs with
  | nil => rfl
  | cons f r ih =>
    rw [fieldFree, Bool.and_eq_true] at h
    rw [fieldFits, h.1, ih h.2]
    cases (o == f.1 && n == f.2.1) <;> rfl

theorem fieldAt_of_free {o n : Nat} {fs : List (Nat × Nat × Nat)} (h : fieldFree o n fs = true) : fieldAt o n fs = 0 := by
  induction fs with
  | nil => rfl
  | cons f r ih =>
    obtain ⟨o', n', v⟩ := f
    rw [fieldFree, Bool.and_eq_true] at h
    obtain ⟨hapart, hrest⟩ := h
    rw [fieldAt]
    cases hsame : o == o' && n == n' with
    | false => exact ih hrest
    | true =>
      simp only [Bool.and_eq_true, beq_iff_eq] at hsame
      simp only [fieldsApart, Bool.or_eq_true, decide_eq_true_iff] at hapart
      obtain ⟨ho, hn⟩ := hsame
      have hempty : n' = 0 := by omega
      rw [cond_true, fieldVal, hempty, Nat.mul_zero, Nat.pow_zero, Nat.mod_one]

/-- Fields in front of others, where no other reaches. -/
theorem ReadsAs.of_append {pk : Nat} {a b : List (Nat × Nat × Nat)} (h : ReadsAs pk (a ++ b)) {o n : Nat} (hfits : fieldFits o n a = true)
    (hfree : fieldFree o n b = true) : pf pk o n = fieldAt o n a := by
  have happend : fieldFits o n (a ++ b) = true ∧ fieldAt o n (a ++ b) = fieldAt o n a := by
    clear h
    induction a with
    | nil => exact ⟨fieldFits_of_free hfree, fieldAt_of_free hfree⟩
    | cons f r ih =>
      rw [fieldFits] at hfits
      rw [List.cons_append, fieldFits, fieldAt, fieldAt]
      cases hsame : o == f.1 && n == f.2.1 with
      | true => exact ⟨rfl, rfl⟩
      | false =>
        rw [hsame, cond_false, Bool.and_eq_true] at hfits
        obtain ⟨hf, ha⟩ := ih hfits.2
        rw [hf, ha, hfits.1]
        exact ⟨rfl, rfl⟩
  rw [h o n happend.1, happend.2]

theorem readsAs_packFields {fs : List (Nat × Nat × Nat)} (h : fieldsDisjoint fs = true) : ReadsAs (packFields fs) fs :=
  fun _ _ => pf_packFields h

end Sys2Proof
end

section
/-! Each command's fields read back (R263 to R265, Tables 09-7 to 09-20). -/

namespace Sys2Proof

/-! ### The readers that several packets share -/

theorem one_le_toNat_of_ne_zero {w : Nat} {x : BitVec w} (h : ¬ x = 0#w) : 1 ≤ x.toNat :=
  Nat.pos_of_ne_zero fun hz => h (BitVec.eq_of_toNat_eq (hz.trans (by simp)))

theorem aligned_iff {r : Bref} {a : Nat} : r.aligned a = true ↔ r.off.toNat % a = 0 := decide_eq_true_iff

/-- Bytes inside a field. -/
theorem pf_within {pk o n v d m : Nat} (h : pf pk o n = v) (hle : d + m ≤ n) : pf pk (o + d) m = v / 2 ^ (8 * d) % 2 ^ (8 * m) := by
  have hsplit : 2 ^ (8 * n) = 2 ^ (8 * d) * (2 ^ (8 * m) * 2 ^ (8 * (n - (d + m)))) := two_pow_bytes hle
  rw [← h, pf, pf, hsplit, Nat.mul_add, Nat.pow_add, ← Nat.div_div_eq_div_mul, Nat.mod_mul_right_div_self, Nat.mod_mul_right_mod]

theorem anchorField_of {pk o : Nat} {a : BitVec 16} (h : pf pk o 2 = a.toNat) (ha : anchorBitsOk a = true) :
    anchorField pk o = .ok a := by
  have hint : ofTwos 16 a.toNat = a.toInt := by
    rw [ofTwos, BitVec.toInt_eq_toNat_cond]
    split <;> split <;> omega
  rw [anchorBitsOk] at ha
  simp [anchorField, h, hint, ha]

theorem aword_of {pk o c : Nat} {a : AWord} (hmode : pf pk c 1 % 4 = (awordNat a).1) (hword : pf pk o 6 = (awordNat a).2)
    (ha : a.wf = true) : aword false pk o c = .ok a := by
  cases a with
  | default => simp [aword, hmode, awordNat, unused, hword]
  | explicit x =>
    have hx : x.toNat < 2 ^ 16 := x.isLt
    have hlow : pf pk o 2 = x.toNat := (pf_within (d := 0) hword (by decide)).trans (by simp [awordNat]; omega)
    have hhigh : pf pk (o + 2) 4 = 0 := (pf_within hword (by decide)).trans (by simp [awordNat]; omega)
    simp [aword, hmode, awordNat, zeros, hhigh, anchorField_of hlow ha]
  | scanned r =>
    have hr : r.off.toNat % 8 = 0 := aligned_iff.mp ha
    simp [aword, hmode, awordNat, hword, brefAligned_eq, hr]

theorem seedField_of {pk c : Nat} {x : Option (BitVec 64)} (hround : bitAt (pf pk c 1) 2 = x.isSome)
    (hseed : pf pk 56 8 = (seedNat x).2) : seedField false pk c = .ok x := by
  cases x <;> simp [seedField, hround, seedNat, hseed]

theorem fmtField_of {pk o : Nat} {f : Fmt} (h : pf pk o 1 = f.code) : fmtField pk o = .ok f := by
  rw [fmtField, h]
  cases f <;> rfl

@[simp] theorem fieldVal_fmtCode (f : Fmt) : fieldVal 1 f.code = f.code := by
  cases f <;> rfl

theorem outField_of {pk o : Nat} {f : Fmt} (h : pf pk o 1 = f.code) (hf : (f != .acc128) = true) : outField pk o = .ok f := by
  rw [outField, fmtField_of h, ok_bind, hf]
  rfl

theorem tallyField_of {pk : Nat} {t : TallyRef} (h : pf pk 16 4 = tallyNat t) (ht : t.wf = true) : tallyField false pk = .ok t := by
  have hdie := t.die.isLt
  have hindex := t.index.isLt
  have hlow : pf pk 16 2 = t.index.toNat :=
    (pf_within (d := 0) h (by decide)).trans (by simp [tallyNat]; omega)
  have hhigh : tallyNat t / 65536 = t.die.toNat := by rw [tallyNat]; omega
  have hpad : tallyNat t / 524288 = 0 := by rw [tallyNat]; omega
  have hfour : (t.die.toNat != 4) = (t.die != 4) := by
    rw [Bool.eq_iff_iff, bne_iff_ne, bne_iff_ne, ne_eq, ne_eq, ← BitVec.toNat_inj]
    rfl
  rw [TallyRef.wf, Bool.and_eq_true] at ht
  obtain ⟨hdieOk, hindexOk⟩ := ht
  rw [← hfour] at hindexOk
  simp [tallyField, upper, h, hhigh, hpad, hlow, hindexOk, hdieOk]

@[simp] theorem fieldVal_tallyNat (t : TallyRef) : fieldVal 4 (tallyNat t) = tallyNat t := by
  have hdie := t.die.isLt
  have hindex := t.index.isLt
  refine fieldVal_of_lt ?_
  rw [tallyNat]
  omega

/-! ### Queue control and movement -/

theorem decMark_none {pk : Nat} (h : ReadsAs pk []) : decMark pk = .ok ⟨none⟩ := by
  simp [decMark, h.nil, upper, zeros, unused, bitAt]

theorem decMark_some {pk : Nat} {r : Bref} {v : BitVec 64} (hr : r.aligned 8 = true)
    (h : ReadsAs pk [(16, 1, 1), (20, 6, brefNat r), (32, 8, v.toNat)]) : decMark pk = .ok ⟨some (r, v)⟩ := by
  rw [aligned_iff] at hr
  unfold ReadsAs at h
  simp [decMark, h, upper, zeros, bitAt, fieldVal_of_lt, brefAligned_eq, hr]

theorem decFence_all {pk : Nat} (h : ReadsAs pk []) : decFence pk = .ok .all := by
  simp [decFence, h.nil, zeros, unused]

/-- FENCE's other kinds with no destination field. -/
theorem decFence_plain {pk : Nat} {k : FenceKind} {n : Nat} (hk : (k, n) ∈ [(FenceKind.extA, 2), (.extB, 3), (.onModule, 4)])
    (h : ReadsAs pk [(16, 1, n)]) : decFence pk = .ok k := by
  unfold ReadsAs at h
  simp only [List.mem_cons, Prod.mk.injEq, List.not_mem_nil, or_false] at hk
  rcases hk with ⟨rfl, rfl⟩ | ⟨rfl, rfl⟩ | ⟨rfl, rfl⟩ <;> simp [decFence, h, zeros, unused, fieldVal_of_lt]

theorem decFence_module {pk : Nat} {m : BitVec 16} (h : ReadsAs pk [(16, 1, 1), (18, 2, m.toNat)]) :
    decFence pk = .ok (.module m) := by
  unfold ReadsAs at h
  simp [decFence, h, zeros, fieldVal_of_lt]

theorem decCopy_tiles {pk : Nat} {a b : Tref} {n : BitVec 32} (hwf : (CopyP.tiles a b n).wf = true)
    (h : ReadsAs pk [(16, 6, trefNat a), (22, 6, trefNat b), (28, 4, n.toNat)]) : decCopy pk = .ok (.tiles a b n) := by
  have hn : 1 ≤ n.toNat := one_le_toNat_of_ne_zero (by simpa [CopyP.wf] using hwf)
  unfold ReadsAs at h
  simp [decCopy, h, upper, zeros, atLeast1, bitAt, tref_eq, hn]

theorem decCopy_raw {pk : Nat} {a b : Bref} {n : BitVec 32} (hwf : (CopyP.raw a b n).wf = true)
    (h : ReadsAs pk [(16, 6, brefNat a), (22, 6, brefNat b), (28, 4, n.toNat), (32, 1, 1)]) : decCopy pk = .ok (.raw a b n) := by
  simp only [CopyP.wf, Bool.and_eq_true, aligned_iff, bne_iff_ne, ne_eq] at hwf
  obtain ⟨⟨ha, hb⟩, hn⟩ := hwf
  have hn1 := one_le_toNat_of_ne_zero hn
  unfold ReadsAs at h
  simp [decCopy, h, upper, zeros, atLeast1, bitAt, fieldVal_of_lt, brefAligned_eq, ha, hb, hn1]

theorem decIdx_encode {pk : Nat} {p : IdxP} (hidx : p.idx.aligned 8 = true) (hcount : (p.count != 0) = true)
    (h : ReadsAs pk [(16, 6, brefNat p.idx), (22, 6, trefNat p.base), (28, 4, p.count.toNat)]) : decIdx pk = .ok p := by
  rw [aligned_iff] at hidx
  have hn := one_le_toNat_of_ne_zero (bne_iff_ne.mp hcount)
  unfold ReadsAs at h
  simp [decIdx, h, zeros, atLeast1, tref_eq, brefAligned_eq, hidx, hn]

theorem decCellar_encode {pk : Nat} {p : CellarP} (hcount : (p.count != 0) = true)
    (h : ReadsAs pk [(16, 6, trefNat p.mem), (28, 4, p.count.toNat), (32, 1, p.volume.toNat), (34, 6, p.ctile.toNat)]) :
    decCellar pk = .ok p := by
  have hn := one_le_toNat_of_ne_zero (bne_iff_ne.mp hcount)
  unfold ReadsAs at h
  simp [decCellar, h, zeros, atLeast1, tref_eq, hn]

theorem decZero_encode {pk : Nat} {p : ZeroP} (hwf : p.wf = true) (h : ReadsAs pk (encZero p)) : decZero pk = .ok p := by
  unfold ReadsAs at h
  cases p with
  | raw d n =>
    simp only [ZeroP.wf, Bool.and_eq_true, aligned_iff, bne_iff_ne, ne_eq] at hwf
    obtain ⟨hd, hn⟩ := hwf
    have hn1 := one_le_toNat_of_ne_zero hn
    simp [encZero] at h
    simp [decZero, h, upper, zeros, unused, atLeast1, bitAt, fieldVal_of_lt, brefAligned_eq, hd, hn1]
  | tiles d n layout fmt rows cols anchor =>
    simp only [ZeroP.wf, Bool.and_eq_true, bne_iff_ne, ne_eq] at hwf
    obtain ⟨hn, hshape⟩ := hwf
    have hn1 := one_le_toNat_of_ne_zero hn
    have hctrl : fieldVal 1 (2 * bnat layout) = 2 * bnat layout := by cases layout <;> rfl
    have hraw : 2 * bnat layout % 2 = 0 := Nat.mul_mod_right ..
    have hpad : 2 * bnat layout / 4 = 0 := by cases layout <;> rfl
    have hlayout : (bnat layout % 2 == 1) = layout := by cases layout <;> rfl
    simp only [encZero] at h
    cases fmt with
    | none =>
      simp only [Bool.and_eq_true, beq_iff_eq] at hshape
      obtain ⟨⟨rfl, rfl⟩, rfl⟩ := hshape
      simp [decZero, h, upper, zeros, unused, atLeast1, bitAt, tref_eq, hn1, hctrl, hraw, hpad, hlayout, fieldVal_of_lt]
    | some f =>
      have hcode : f.code ≠ 0 := by cases f <;> decide
      have hfmt : fmtField pk 33 = .ok f := fmtField_of (by simp [h])
      simp only [Bool.and_eq_true] at hshape
      obtain ⟨hshape, hanchor⟩ := hshape
      by_cases hacc : f = .acc128
      · rw [if_pos hacc] at hanchor
        subst hacc
        have ha : anchorField pk 38 = .ok anchor := anchorField_of (by simp [h]) hanchor
        simp [decZero, h, upper, zeros, atLeast1, bitAt, tref_eq, hn1, hctrl, hraw, hpad, hlayout, hfmt, hcode, hshape, ha]
      · rw [if_neg hacc, beq_iff_eq] at hanchor
        simp [decZero, h, upper, zeros, unused, atLeast1, bitAt, tref_eq, hn1, hctrl, hraw, hpad, hlayout, hfmt, hcode, hshape, hacc, hanchor, fieldVal_of_lt]

/-! ### Matrix, lane, function and row commands -/

/-- A control byte of an accumulation mode, ROUND and RMS. -/
theorem ctrl_bits (m : Nat) (hm : m ≤ 2) (x : Option (BitVec 64)) (rms : Bool) :
    let v := m + (seedNat x).1 + 8 * bnat rms
    fieldVal 1 v = v ∧ v % 4 = m ∧ bitAt v 2 = x.isSome ∧ v / 2 ^ 4 = 0 ∧ bitAt v 3 = rms ∧ (rms = false → v / 2 ^ 3 = 0) := by
  have hm' : m = 0 ∨ m = 1 ∨ m = 2 := by omega
  rcases hm' with rfl | rfl | rfl <;> cases x <;> cases rms <;> simp [seedNat, bnat, fieldVal, bitAt]

theorem awordNat_mode_le (a : AWord) : (awordNat a).1 ≤ 2 := by
  cases a <;> simp [awordNat]

theorem fieldVal_awordNat (a : AWord) : fieldVal 6 (awordNat a).2 = (awordNat a).2 := by
  cases a with
  | default => rfl
  | explicit x => exact fieldVal_toNat x (by decide)
  | scanned r => exact fieldVal_brefNat r

theorem fieldVal_seedNat (x : Option (BitVec 64)) : fieldVal 8 (seedNat x).2 = (seedNat x).2 := by
  cases x with
  | none => rfl
  | some x => exact fieldVal_toNat x (by decide)

/-- The fields that MATMUL and MATMUL_ACC share, in front of byte 56. -/
def matmulFields (p : MatmulP) : List (Nat × Nat × Nat) :=
  [(16, 6, trefNat p.a), (22, 6, trefNat p.b), (28, 6, trefNat p.d), (34, 3, p.aStr.toNat), (37, 3, p.bStr.toNat), (40, 2, p.mt.toNat),
   (42, 2, p.kt.toNat), (44, 2, p.nt.toNat), (46, 1, p.fmtOut.code), (47, 1, (awordNat p.anchor).1 + (seedNat p.seed).1),
   (48, 6, (awordNat p.anchor).2)]

theorem encMatmul_eq (p : MatmulP) : encMatmul p = matmulFields p ++ [(56, 8, (seedNat p.seed).2)] := rfl

/-- The seed's bytes hold 0, or the tile that MATMUL_ACC adds to. -/
theorem packFields_matmulAcc (p : MatmulP) (c : Nat) :
    packFields (encMatmul { p with seed := none } ++ [(56, 6, c)]) = packFields (matmulFields { p with seed := none } ++ [(56, 6, c)]) := by
  simp only [encMatmul_eq, matmulFields, seedNat, List.cons_append, List.nil_append, packFields, Nat.zero_mod, Nat.zero_mul, Nat.zero_add]

theorem decMatmul_of {acc : Bool} {pk n x : Nat} {p : MatmulP} (hwf : p.wf = true) (h : ReadsAs pk (matmulFields p ++ [(56, n, x)]))
    (hseed : bitAt (pf pk 47 1) 2 = p.seed.isSome →
      if acc then p.seed = none ∧ pf pk 62 2 = 0 else seedField false pk 47 = .ok p.seed) : decMatmul false acc pk = .ok p := by
  simp only [MatmulP.wf, Bool.and_eq_true, bne_iff_ne, ne_eq] at hwf
  obtain ⟨⟨⟨hmt, hkt⟩, hnt⟩, hanchor⟩ := hwf
  have hmt1 := one_le_toNat_of_ne_zero hmt
  have hkt1 := one_le_toNat_of_ne_zero hkt
  have hnt1 := one_le_toNat_of_ne_zero hnt
  unfold ReadsAs at h
  simp only [matmulFields, List.cons_append, List.nil_append] at h
  obtain ⟨hbyte, hmode, hround, -, -, hpad⟩ := ctrl_bits _ (awordNat_mode_le p.anchor) p.seed false
  have hctrl : pf pk 47 1 = (awordNat p.anchor).1 + (seedNat p.seed).1 + 8 * bnat false :=
    (by simp [h] : pf pk 47 1 = fieldVal 1 ((awordNat p.anchor).1 + (seedNat p.seed).1)).trans hbyte
  have hfmt : fmtField pk 46 = .ok p.fmtOut := fmtField_of (by simp [h])
  have haword : aword false pk 48 47 = .ok p.anchor :=
    aword_of (hctrl ▸ hmode) (by simp [h, fieldVal_awordNat]) hanchor
  have hupper : upper pk 47 1 3 = .ok () := by
    rw [upper, hctrl, hpad rfl]
    rfl
  have hround : bitAt (pf pk 47 1) 2 = p.seed.isSome := hctrl ▸ hround
  have hseed := hseed hround
  cases acc with
  | false =>
    rw [if_neg Bool.false_ne_true] at hseed
    simp [decMatmul, h, zeros, atLeast1, tref_eq, hmt1, hkt1, hnt1, hfmt, hupper, haword, hseed]
  | true =>
    rw [if_pos rfl] at hseed
    obtain ⟨hnone, hpad⟩ := hseed
    rw [hnone] at hround
    simp only [decMatmul, hround, zeros, hpad]
    simp [h, atLeast1, tref_eq, hmt1, hkt1, hnt1, hfmt, hupper, haword]
    rw [← hnone]

theorem decMatmul_encode {pk : Nat} {p : MatmulP} (hwf : p.wf = true) (h : ReadsAs pk (encMatmul p)) :
    decMatmul false false pk = .ok p :=
  decMatmul_of hwf h fun hround => seedField_of hround (by
    unfold ReadsAs at h
    simp [h, encMatmul_eq, matmulFields, fieldVal_seedNat])

theorem decMatmulAcc_encode {pk : Nat} {p : MatmulAccP} (hwf : p.base.wf = true) (hseed : p.base.seed = none)
    (h : ReadsAs pk (matmulFields { p.base with seed := none } ++ [(56, 6, trefNat p.c)])) :
    decMatmul false true pk = .ok p.base ∧ tref pk 56 = p.c := by
  obtain ⟨⟨a, b, d, aStr, bStr, mt, kt, nt, fmtOut, anchor, seed⟩, c⟩ := p
  cases hseed
  have hbytes := h
  unfold ReadsAs at hbytes
  refine ⟨decMatmul_of hwf h fun hround => ?_, by simp [tref_eq, hbytes, matmulFields]⟩
  rw [if_pos rfl]
  exact ⟨rfl, by simp [hbytes, matmulFields]⟩

theorem decScan_encode {pk : Nat} {p : ScanP} (hwf : p.wf = true) (h : ReadsAs pk (encScan p)) : decScan pk = .ok p := by
  obtain ⟨a, aStr, aRows, aCols, b, k, res⟩ := p
  simp only [ScanP.wf, Bool.and_eq_true, bne_iff_ne, ne_eq, aligned_iff, decide_eq_true_iff] at hwf
  obtain ⟨⟨⟨⟨⟨hrows, hcols⟩, hk⟩, hkmax⟩, hres⟩, hb⟩ := hwf
  have hrows1 := one_le_toNat_of_ne_zero hrows
  have hcols1 := one_le_toNat_of_ne_zero hcols
  have hk1 := one_le_toNat_of_ne_zero hk
  have hkmax : k.toNat ≤ 281474976710656 := hkmax
  unfold ReadsAs at h
  cases b with
  | none =>
    simp only [encScan, List.cons_append, List.nil_append] at h
    simp [decScan, h, upper, zeros, unused, atLeast1, bitAt, tref_eq, brefAligned_eq, fieldVal_of_lt, hrows1, hcols1, hk1, hkmax, hres]
  | some b =>
    obtain ⟨r, st, rows, cols⟩ := b
    rw [Bool.and_eq_true, bne_iff_ne, bne_iff_ne] at hb
    obtain ⟨hr, hc⟩ := hb
    have hr1 := one_le_toNat_of_ne_zero hr
    have hc1 := one_le_toNat_of_ne_zero hc
    simp only [encScan, List.cons_append, List.nil_append] at h
    simp [decScan, h, upper, zeros, atLeast1, bitAt, tref_eq, brefAligned_eq, hrows1, hcols1, hk1, hkmax, hres, hr1, hc1]

theorem decReduce_encode {pk : Nat} {p : ReduceP} (hwf : p.wf = true) (h : ReadsAs pk (encReduce p)) : decReduce false pk = .ok p := by
  simp only [ReduceP.wf, Bool.and_eq_true, bne_iff_ne, ne_eq, decide_eq_true_iff] at hwf
  obtain ⟨⟨htiles, hcount⟩, hanchor⟩ := hwf
  have htiles1 := one_le_toNat_of_ne_zero htiles
  unfold ReadsAs at h
  simp only [encReduce] at h
  obtain ⟨hbyte, hmode, hround, -, -, hpad⟩ := ctrl_bits _ (awordNat_mode_le p.anchor) p.seed false
  have hctrl : pf pk 39 1 = (awordNat p.anchor).1 + (seedNat p.seed).1 + 8 * bnat false :=
    (by simp [h] : pf pk 39 1 = fieldVal 1 ((awordNat p.anchor).1 + (seedNat p.seed).1)).trans hbyte
  have hfmt : fmtField pk 38 = .ok p.fmtOut := fmtField_of (by simp [h])
  have haword : aword false pk 40 39 = .ok p.anchor :=
    aword_of (hctrl ▸ hmode) (by simp [h, fieldVal_awordNat]) hanchor
  have hseed : seedField false pk 39 = .ok p.seed := seedField_of (hctrl ▸ hround) (by simp [h, fieldVal_seedNat])
  have hupper : upper pk 39 1 3 = .ok () := by
    rw [upper, hctrl, hpad rfl]
    rfl
  simp [decReduce, h, zeros, atLeast1, tref_eq, htiles1, hcount, hfmt, hupper, haword, hseed]

theorem decFunc_encode {pk : Nat} {p : FuncP} (hwf : p.wf = true) (h : ReadsAs pk (encFunc p)) : decFunc false pk = .ok p := by
  simp only [FuncP.wf, Bool.and_eq_true, bne_iff_ne, ne_eq] at hwf
  obtain ⟨htiles, hfmtOut⟩ := hwf
  have htiles1 := one_le_toNat_of_ne_zero htiles
  unfold ReadsAs at h
  simp only [encFunc] at h
  obtain ⟨hbyte, hmode, hround, -, -, hpad⟩ := ctrl_bits 0 (by decide) p.seed false
  rw [Nat.zero_add] at hbyte hmode hround hpad
  have hctrl : pf pk 38 1 = (seedNat p.seed).1 + 8 * bnat false :=
    (by simp [h] : pf pk 38 1 = fieldVal 1 (seedNat p.seed).1).trans hbyte
  have hout : outField pk 37 = .ok p.fmtOut := outField_of (by simp [h]) (bne_iff_ne.mpr hfmtOut)
  have hseed : seedField false pk 38 = .ok p.seed := seedField_of (hctrl ▸ hround) (by simp [h, fieldVal_seedNat])
  have hlow : (pf pk 38 1 == pf pk 38 1 % 8 && pf pk 38 1 % 4 == 0) = true := by
    have hsmall := hpad rfl
    rw [← hctrl] at hmode hsmall
    simp only [Bool.and_eq_true, beq_iff_eq]
    omega
  simp only [decFunc, hlow]
  simp [h, zeros, atLeast1, tref_eq, setField, htiles1, hout, hseed]

@[simp] theorem VOp.ofCode_code (op : VOp) : VOp.ofCode op.code = some op := by
  cases op <;> rfl

@[simp] theorem fieldVal_vopCode (op : VOp) : fieldVal 1 op.code = op.code := by
  cases op <;> rfl

@[simp] theorem VFmt.ofCode_code (f : VFmt) : VFmt.ofCode f.code = some f := by
  cases f <;> rfl

@[simp] theorem fieldVal_vfmtCode (f : VFmt) : fieldVal 1 f.code = f.code := by
  cases f <;> rfl

/-- A rounding mode that a packet can name, with the bit of a scalar operand. -/
theorem rnd_bits {r : Rnd} (hr : (match r with | .stochastic _ => false | _ => true) = true) (scalar : Bool) :
    let v := r.code + 8 * bnat scalar
    fieldVal 1 v = v ∧ v / 2 ^ 4 = 0 ∧ Rnd.ofCode (v % 8) = some r ∧ bitAt v 3 = scalar := by
  cases r with
  | stochastic n => exact absurd hr Bool.false_ne_true
  | ties => cases scalar <;> decide
  | zero => cases scalar <;> decide
  | up => cases scalar <;> decide
  | down => cases scalar <;> decide
  | away => cases scalar <;> decide

/-- A tile reference that is 0 is 0 in its field. -/
theorem or_trefNat_of {b : Bool} {r : Tref} (h : (b || r == ⟨0, 0⟩) = true) : (b || trefNat r == 0) = true := by
  cases b with
  | true => rfl
  | false =>
    rw [Bool.false_or, beq_iff_eq] at h
    rw [h]
    rfl

theorem decElem_encode {pk : Nat} {p : ElemP} (hwf : p.wf = true) (h : ReadsAs pk (encElem p)) : decElem pk = .ok p := by
  obtain ⟨x, y, z, d, tiles, op, vfmt, fmtOut, rnd, scalar⟩ := p
  simp only [ElemP.wf, Bool.and_eq_true, bne_iff_ne, ne_eq] at hwf
  obtain ⟨⟨⟨⟨⟨⟨htiles, hkind⟩, hfmtOut⟩, hrnd⟩, huses⟩, hy⟩, hz⟩ := hwf
  have htiles1 := one_le_toNat_of_ne_zero htiles
  unfold ReadsAs at h
  simp only [encElem] at h
  obtain ⟨hbyte, hpad, hmode, hscalar⟩ := rnd_bits hrnd scalar.isSome
  have hctrl : pf pk 53 1 = rnd.code + 8 * bnat scalar.isSome :=
    (by simp [h] : pf pk 53 1 = fieldVal 1 (rnd.code + 8 * bnat scalar.isSome)).trans hbyte
  have hout : outField pk 52 = .ok fmtOut := outField_of (by simp [h]) (bne_iff_ne.mpr hfmtOut)
  rw [← hctrl] at hpad hmode hscalar
  have hunusedZ : (op.uses.2 || trefNat z == 0) = true := or_trefNat_of hz
  have hunusedY : (op.uses.1 && scalar.isNone || trefNat y == 0) = true := or_trefNat_of hy
  simp only [decElem, upper, hpad, hmode, hscalar, hout]
  cases scalar with
  | none =>
    simp only [Option.isNone_none, Bool.and_true] at hunusedY
    simp [h, zeros, atLeast1, tref_eq, htiles1, hkind, hunusedY, hunusedZ, fieldVal_of_lt]
  | some v =>
    simp only [Option.isNone_some, Bool.and_false, Bool.or_false, Bool.false_or] at hunusedY huses
    simp [h, zeros, atLeast1, tref_eq, htiles1, hkind, hunusedY, hunusedZ, huses]

/-! ### Row commands -/

section
variable {pk : Nat} {p : RowP} {rms : Bool} (hwf : p.wf = true)
include hwf

/-- The fields that the row commands share, whatever stands in bytes 44 to 54. -/
theorem decRow_encode (h : ∀ o n, o + n ≤ 44 ∨ 55 ≤ o → fieldFits o n (encRow p rms) = true → pf pk o n = fieldAt o n (encRow p rms)) :
    decRow false pk = .ok p ∧ bitAt (pf pk 41 1) 3 = rms := by
  obtain ⟨x, d, rowt, colt, n, set, fmtOut, anchor, seed⟩ := p
  simp only [RowP.wf, Bool.and_eq_true, bne_iff_ne, ne_eq, decide_eq_true_iff] at hwf
  obtain ⟨⟨⟨⟨⟨hrowt, hcolt⟩, hn⟩, hnmax⟩, hfmtOut⟩, hanchor⟩ := hwf
  have hrowt1 := one_le_toNat_of_ne_zero hrowt
  have hcolt1 := one_le_toNat_of_ne_zero hcolt
  have hn1 := one_le_toNat_of_ne_zero hn
  have hout : outField pk 40 = .ok fmtOut := outField_of (by simp [h, encRow]) (bne_iff_ne.mpr hfmtOut)
  let mode := match anchor with | none => AWord.default | some a => .explicit a
  have henc : encRow ⟨x, d, rowt, colt, n, set, fmtOut, anchor, seed⟩ rms = [(16, 6, trefNat x), (22, 6, trefNat d), (28, 2, rowt.toNat),
      (30, 2, colt.toNat), (32, 4, n.toNat), (36, 4, set.toNat), (40, 1, fmtOut.code),
      (41, 1, (awordNat mode).1 + (seedNat seed).1 + 8 * bnat rms), (42, 2, (awordNat mode).2), (56, 8, (seedNat seed).2)] := by
    cases anchor <;> rfl
  rw [henc] at h
  obtain ⟨hbyte, hmode, hround, hpad, hrms, -⟩ := ctrl_bits _ (awordNat_mode_le mode) seed rms
  have hctrl : pf pk 41 1 = (awordNat mode).1 + (seedNat seed).1 + 8 * bnat rms :=
    (by simp [h] : pf pk 41 1 = fieldVal 1 ((awordNat mode).1 + (seedNat seed).1 + 8 * bnat rms)).trans hbyte
  rw [← hctrl] at hmode hround hpad hrms
  have hseed : seedField false pk 41 = .ok seed := seedField_of hround (by simp [h, fieldVal_seedNat])
  refine ⟨?_, hrms⟩
  simp only [decRow, upper, hpad, hmode, hseed, hout]
  cases anchor with
  | none => simp [h, zeros, unused, setField, atLeast1, tref_eq, hrowt1, hcolt1, hn1, hnmax, mode, awordNat, fieldVal_of_lt]
  | some a =>
    have ha : anchorField pk 42 = .ok a := anchorField_of (by simp [h, mode, awordNat]) hanchor
    simp [h, zeros, setField, atLeast1, tref_eq, hrowt1, hcolt1, hn1, hnmax, mode, awordNat, ha]

theorem decSoftmax_encode (hanchor : p.anchor = none) (h : ReadsAs pk (encRow p false)) : decSoftmax false pk = .ok p := by
  obtain ⟨hrow, hrms⟩ := decRow_encode hwf fun o n _ => h o n
  have hbytes : ∀ o n, fieldFits o n (encRow p false) = true → pf pk o n = fieldAt o n (encRow p false) := h
  simp only [decSoftmax, hrow, hrms, ok_bind, hanchor]
  simp [hbytes, encRow, unused]

end

theorem decNorm_encode {pk : Nat} {p : NormP} (hwf : p.wf = true)
    (h : ReadsAs pk (encRow p.row p.rms ++ [(44, 6, trefNat p.gb), (50, 4, p.eps.toNat)])) : decNorm false pk = .ok p := by
  rw [NormP.wf, Bool.and_eq_true] at hwf
  obtain ⟨hrowWf, heps⟩ := hwf
  obtain ⟨hrow, hrms⟩ := decRow_encode hrowWf fun o n ho hfits =>
    h.of_append hfits (by simp only [fieldFree, fieldsApart, Bool.and_true, Bool.and_eq_true, Bool.or_eq_true, decide_eq_true_iff]; omega)
  have hbytes := h
  unfold ReadsAs at hbytes
  simp only [encRow, List.cons_append, List.nil_append] at hbytes
  simp only [decNorm, hrow, hrms, ok_bind]
  simp [hbytes, heps, unused, tref_eq]

theorem decRowstat_encode {pk : Nat} {p : RowP} {st : BitVec 8} (hwf : p.wf = true) (hst : rowstatOk p st = true)
    (h : ReadsAs pk (encRow p false ++ [(54, 1, st.toNat)])) : decRowstat false pk = .ok (p, st) := by
  obtain ⟨hrow, hrms⟩ := decRow_encode hwf fun o n ho hfits =>
    h.of_append hfits (by simp only [fieldFree, fieldsApart, Bool.and_true, Bool.or_eq_true, decide_eq_true_iff]; omega)
  have hbytes := h
  unfold ReadsAs at hbytes
  simp only [encRow, List.cons_append, List.nil_append] at hbytes
  simp only [rowstatOk, Bool.and_eq_true] at hst
  obtain ⟨⟨⟨⟨hset, hfmt⟩, hne⟩, hbit⟩, hfew⟩ := hst
  have hfew : (p.set == 0#32 || !bitAt st.toNat 3 && !bitAt st.toNat 4) = true := hfew
  have hne0 : st.toNat ≠ 0 := fun hz => bne_iff_ne.mp hne (BitVec.eq_of_toNat_eq hz)
  have hstat : (st.toNat != 0 && !bitAt st.toNat 7) = true := by rw [bne_iff_ne.mpr hne0, hbit]; rfl
  simp only [decRowstat, hrow, hrms, ok_bind, hset, hfmt]
  simp [hbytes, unused, hstat, hfew]

/-! ### Microprograms, tallies and signals -/

theorem decMicroprog_load {pk : Nat} (c : CmdRef) {r : Bref} {n : BitVec 32} (h : ReadsAs pk [(16, 6, brefNat r), (24, 4, n.toNat)]) :
    decMicroprog c pk = .ok (.microprogLoad c r n) := by
  unfold ReadsAs at h
  simp [decMicroprog, h, zeros, unused, bref_eq]

theorem decMicroprog_unload {pk : Nat} (c : CmdRef) {x : BitVec 32} (h : ReadsAs pk [(28, 1, 1), (32, 4, x.toNat)]) :
    decMicroprog c pk = .ok (.microprogUnload c x) := by
  unfold ReadsAs at h
  simp [decMicroprog, h, zeros, unused, fieldVal_of_lt]

/-- Fields that are 0 add nothing to a packet. -/
theorem packFields_encTally_noScope (t : TallyRef) (n : BitVec 64) :
    packFields (encTally t 0 0 n) = packFields [(16, 4, tallyNat t), (24, 8, n.toNat)] := by
  simp only [encTally, packFields, Nat.zero_mod, Nat.zero_mul, Nat.zero_add]

section
variable {pk : Nat} (c : CmdRef) {t : TallyRef} {n : BitVec 64} (ht : t.wf = true) (hn : (n != 0) = true)
include ht hn

theorem decSync_tallyAdd {sc : BitVec 8} (hsc : decide (sc.toNat ≤ 4) = true) (h : ReadsAs pk (encTally t 0 sc.toNat n)) :
    decSync false c 0x0400 pk = .ok (.tallyAdd c t sc n) := by
  have hn1 := one_le_toNat_of_ne_zero (bne_iff_ne.mp hn)
  unfold ReadsAs at h
  simp only [encTally] at h
  have htally : tallyField false pk = .ok t := tallyField_of (by simp [h]) ht
  simp [decSync, scopeField, h, htally, zeros, atLeast1, hsc, hn1, fieldVal_of_lt]

theorem decSync_tallySub {sc : BitVec 8} (hsc : decide (sc.toNat ≤ 4) = true) (h : ReadsAs pk (encTally t 1 sc.toNat n)) :
    decSync false c 0x0400 pk = .ok (.tallySub c t sc n) := by
  have hn1 := one_le_toNat_of_ne_zero (bne_iff_ne.mp hn)
  unfold ReadsAs at h
  simp only [encTally] at h
  have htally : tallyField false pk = .ok t := tallyField_of (by simp [h]) ht
  simp [decSync, scopeField, h, htally, zeros, atLeast1, hsc, hn1, fieldVal_of_lt]

/-- WAIT and TAKE, which have no scope. -/
theorem decSync_noScope (h : ReadsAs pk [(16, 4, tallyNat t), (24, 8, n.toNat)]) :
    decSync false c 0x0401 pk = .ok (.tallyWait c t n) ∧ decSync false c 0x0402 pk = .ok (.tallyTake c t n) := by
  have hn1 := one_le_toNat_of_ne_zero (bne_iff_ne.mp hn)
  unfold ReadsAs at h
  have htally : tallyField false pk = .ok t := tallyField_of (by simp [h]) ht
  constructor <;> simp [decSync, h, htally, zeros, atLeast1, hn1]

theorem decSync_signalRemote {sc : BitVec 8} {m : BitVec 16} (hsc : (sc == 3 || sc == 4) = true)
    (h : ReadsAs pk ((22, 2, m.toNat) :: encTally t 0 sc.toNat n)) :
    decSync false c 0x0403 pk = .ok (.signalRemote c t sc m n) := by
  have hn1 := one_le_toNat_of_ne_zero (bne_iff_ne.mp hn)
  unfold ReadsAs at h
  simp only [encTally] at h
  have htally : tallyField false pk = .ok t := tallyField_of (by simp [h]) ht
  have hscope : (sc.toNat == 3 || sc.toNat == 4) = true := by
    simp only [Bool.or_eq_true, beq_iff_eq] at hsc ⊢
    rcases hsc with rfl | rfl
    · exact .inl rfl
    · exact .inr rfl
  simp [decSync, scopeField, h, htally, zeros, atLeast1, hscope, hn1, fieldVal_of_lt]

end

theorem decSignal_encode {pk : Nat} (c : CmdRef) {p : SignalP} {add : Bool} (hwf : p.wf add = true) (h : ReadsAs pk (encSignal p add)) :
    decSignal false c pk = .ok (if add then .signalHostAdd c p else .signalHost c p) := by
  obtain ⟨dest, value, irqKind, vector⟩ := p
  simp only [SignalP.wf, Bool.and_eq_true, decide_eq_true_iff, Bool.or_eq_true, bne_iff_ne, beq_iff_eq] at hwf
  obtain ⟨⟨hkind, hvector⟩, hdest⟩ := hwf
  unfold ReadsAs at h
  have hvec (hz : irqKind.toNat = 0) : vector.toNat = 0 := by
    rcases hvector with hne | rfl
    · exact absurd (BitVec.eq_of_toNat_eq hz) hne
    · rfl
  cases dest with
  | seg w =>
    rw [aligned_iff] at hdest
    simp only [encSignal, List.cons_append, List.nil_append] at h
    cases add <;>
      (simp [decSignal, h, zeros, unused, brefAligned_eq, hdest, hkind, fieldVal_of_lt, bnat]
       intro hz
       simp [hvec hz])
  | port b a =>
    simp only [encSignal, List.cons_append, List.nil_append] at h
    simp only [Bool.and_eq_true, decide_eq_true_iff, Bool.not_eq_true'] at hdest
    obtain ⟨ha, rfl⟩ := hdest
    cases b <;>
      (simp [decSignal, h, zeros, unused, ha, hkind, fieldVal_of_lt, bnat]
       intro hz
       simp [hvec hz])

end Sys2Proof
end

section
/-! The fields of epoch, context, partition, program and diagnostic commands; packets decode to the command written (O5). -/

namespace Sys2Proof

section
variable {pk : Nat} (c : CmdRef)

/-! ### Epochs -/

theorem decEpoch_stage {p : StageP} (hepoch : (p.epoch != 0) = true) (h : ReadsAs pk [(16, 2, p.handle.toNat), (18, 1, p.slot.toNat),
    (20, 6, trefNat p.src), (28, 4, p.epoch.toNat), (32, 4, p.tiles.toNat)]) : decEpoch c 0x0500 pk = .ok (.epochStage c p) := by
  have hn := one_le_toNat_of_ne_zero (bne_iff_ne.mp hepoch)
  unfold ReadsAs at h
  simp [decEpoch, h, zeros, atLeast1, tref_eq, hn]

theorem decEpoch_commit {hd : BitVec 16} {k : BitVec 8} {b : BitVec 64}
    (h : ReadsAs pk [(16, 2, hd.toNat), (18, 1, k.toNat), (24, 8, b.toNat)]) :
    decEpoch c 0x0501 pk = .ok (.epochCommit c hd k b) := by
  unfold ReadsAs at h
  simp [decEpoch, h, zeros]

theorem decEpoch_commitParish {hd : BitVec 16} {k : BitVec 8} {b : BitVec 64}
    (h : ReadsAs pk [(16, 2, hd.toNat), (18, 1, k.toNat), (19, 1, 1), (24, 8, b.toNat)]) :
    decEpoch c 0x0501 pk = .ok (.epochCommitParish c hd k b) := by
  unfold ReadsAs at h
  simp [decEpoch, h, zeros, fieldVal_of_lt]

theorem decEpoch_pins {hd : BitVec 16} {k : BitVec 8} (h : ReadsAs pk [(16, 2, hd.toNat), (18, 1, k.toNat)]) :
    decEpoch c 0x0502 pk = .ok (.epochPin c hd k) ∧ decEpoch c 0x0503 pk = .ok (.epochUnpin c hd k) := by
  unfold ReadsAs at h
  constructor <;> simp [decEpoch, h, zeros]

/-! ### Contexts -/

/-- A flag alone in its byte. -/
theorem flag_bits (b : Bool) : fieldVal 1 (bnat b) = bnat b ∧ bnat b / 2 = 0 ∧ (bnat b % 2 == 1) = b := by
  cases b <;> decide

theorem decAdmin_ctxCreate {p : BitVec 8} {b : Bool} {a : BitVec 64} (hp : p.toNat ≤ 15)
    (h : ReadsAs pk [(16, 1, p.toNat), (17, 1, bnat b), (24, 8, a.toNat)]) :
    decAdmin c 0x0600 pk = .ok (.ctxCreate c p b a) := by
  unfold ReadsAs at h
  simp [decAdmin, h, zeros, upper, bitAt, hp, flag_bits]

theorem decAdmin_ctxDestroy (h : ReadsAs pk []) : decAdmin c 0x0601 pk = .ok (.ctxDestroy c) := by
  simp [decAdmin, h.nil, zeros, upper, bitAt]

theorem decAdmin_ctxDestroyAbortOnly (h : ReadsAs pk [(16, 1, 1)]) : decAdmin c 0x0601 pk = .ok (.ctxDestroyAbortOnly c) := by
  unfold ReadsAs at h
  simp [decAdmin, h, zeros, upper, bitAt, fieldVal_of_lt]

theorem decAdmin_segSet {g : BitVec 8} {d : BitVec 256} (hg : g.toNat ≤ 15) (h : ReadsAs pk [(16, 1, g.toNat), (24, 32, d.toNat)]) :
    decAdmin c 0x0602 pk = .ok (.segSet c g d) := by
  unfold ReadsAs at h
  simp [decAdmin, h, zeros, hg]

theorem decAdmin_segInvalidate_none (h : ReadsAs pk []) : decAdmin c 0x0603 pk = .ok (.segInvalidate c none) := by
  simp [decAdmin, h.nil, zeros, unused, upper, bitAt]

theorem decAdmin_segInvalidate_some {p : BitVec 8} (hp : p.toNat ≤ 15) (h : ReadsAs pk [(16, 1, 1), (17, 1, p.toNat)]) :
    decAdmin c 0x0603 pk = .ok (.segInvalidate c (some p)) := by
  unfold ReadsAs at h
  simp [decAdmin, h, zeros, upper, bitAt, fieldVal_of_lt, hp]

theorem decAdmin_allotSet {p : AllotP} (h : ReadsAs pk [(16, 4, p.engine.toNat), (20, 4, p.stack.toNat), (24, 4, p.fabric.toNat),
    (28, 4, p.host.toNat), (32, 1, bnat p.carry)]) : decAdmin c 0x0604 pk = .ok (.allotSet c p) := by
  unfold ReadsAs at h
  simp [decAdmin, h, zeros, upper, bitAt, flag_bits]

/-! ### Partitions -/

section
variable {p : BitVec 8} (hp : p.toNat ≤ 15)
include hp

theorem decPartSet_cores {m : BitVec 256} (h : ReadsAs pk (encPart p 0x01 [(24, 32, m.toNat)])) :
    decPartSet c pk = .ok (.partSetCores c p m) := by
  unfold ReadsAs at h
  simp only [encPart] at h
  simp [decPartSet, h, zeros, hp, fieldVal_of_lt]

theorem decPartSet_caps {e k f hst : BitVec 32} {pr : BitVec 8} (hpr : pr.toNat ≤ 15) (h : ReadsAs pk (encPart p 0x02
      [(24, 4, e.toNat), (28, 4, k.toNat), (32, 4, f.toNat), (36, 4, hst.toNat), (40, 1, pr.toNat)])) :
    decPartSet c pk = .ok (.partSetCaps c p e k f hst pr) := by
  unfold ReadsAs at h
  simp only [encPart] at h
  simp [decPartSet, h, zeros, hp, hpr, fieldVal_of_lt]

theorem decPartSet_key {st d : Bool} {k : BitVec 8} (hk1 : 1 ≤ k.toNat) (hk : k.toNat ≤ 15)
    (h : ReadsAs pk (encPart p 0x03 [(24, 1, bnat st + 2 * bnat d), (25, 1, k.toNat)])) :
    decPartSet c pk = .ok (.partSetKey c p st d k) := by
  have hflags : let v := bnat st + 2 * bnat d
      fieldVal 1 v = v ∧ v / 2 ^ 2 = 0 ∧ bitAt v 0 = st ∧ bitAt v 1 = d := by
    cases st <;> cases d <;> decide
  obtain ⟨hbyte, hpad, hstack, hddr⟩ := hflags
  unfold ReadsAs at h
  simp only [encPart] at h
  have hctrl : pf pk 24 1 = bnat st + 2 * bnat d :=
    (by simp [h] : pf pk 24 1 = fieldVal 1 (bnat st + 2 * bnat d)).trans hbyte
  rw [← hctrl] at hpad hstack hddr
  simp only [decPartSet, upper, hpad, hstack, hddr]
  simp [h, zeros, hp, hk1, hk, fieldVal_of_lt]

theorem decPartSet_mode {b : Bool} (h : ReadsAs pk (encPart p 0x04 [(24, 1, bnat b)])) :
    decPartSet c pk = .ok (.partSetMode c p b) := by
  unfold ReadsAs at h
  simp only [encPart] at h
  simp [decPartSet, h, zeros, upper, bitAt, hp, fieldVal_of_lt, flag_bits]

theorem decPartSet_timeouts {x y : BitVec 64} (hx : x.toNat < 2 ^ 48) (hy : y.toNat < 2 ^ 48)
    (h : ReadsAs pk (encPart p 0x05 [(24, 8, x.toNat), (32, 8, y.toNat)])) :
    decPartSet c pk = .ok (.partSetTimeouts c p x y) := by
  unfold ReadsAs at h
  simp only [encPart] at h
  have hxPad : pf pk 30 2 = 0 := by
    rw [pf_within (o := 24) (n := 8) (d := 6) (v := x.toNat) (by simp [h]) (by decide), Nat.div_eq_of_lt hx, Nat.zero_mod]
  have hyPad : pf pk 38 2 = 0 := by
    rw [pf_within (o := 32) (n := 8) (d := 6) (v := y.toNat) (by simp [h]) (by decide), Nat.div_eq_of_lt hy, Nat.zero_mod]
  simp [decPartSet, h, zeros, hp, hxPad, hyPad, fieldVal_of_lt]

theorem decPartSet_vectors {b n : BitVec 16} {k : BitVec 8} (hk : k.toNat ≤ 3)
    (h : ReadsAs pk (encPart p 0x06 [(24, 2, b.toNat), (26, 2, n.toNat), (28, 1, k.toNat)])) :
    decPartSet c pk = .ok (.partSetVectors c p b n k) := by
  unfold ReadsAs at h
  simp only [encPart] at h
  simp [decPartSet, h, zeros, hp, hk, fieldVal_of_lt]

theorem decPartSet_volumes {m : BitVec 256} (h : ReadsAs pk (encPart p 0x07 [(24, 32, m.toNat)])) :
    decPartSet c pk = .ok (.partSetVolumes c p m) := by
  unfold ReadsAs at h
  simp only [encPart] at h
  simp [decPartSet, h, zeros, hp, fieldVal_of_lt]

theorem decPartSet_talliesGrant {d : BitVec 8} {f n : BitVec 16}
    (h : ReadsAs pk (encPart p 0x08 [(24, 1, d.toNat), (26, 2, f.toNat), (28, 2, n.toNat)])) :
    decPartSet c pk = .ok (.partSetTalliesGrant c p d f n) := by
  unfold ReadsAs at h
  simp only [encPart] at h
  simp [decPartSet, h, zeros, upper, bitAt, hp, fieldVal_of_lt]

theorem decPartSet_talliesRevoke {d : BitVec 8} {f n : BitVec 16}
    (h : ReadsAs pk (encPart p 0x08 [(24, 1, d.toNat), (25, 1, 1), (26, 2, f.toNat), (28, 2, n.toNat)])) :
    decPartSet c pk = .ok (.partSetTalliesRevoke c p d f n) := by
  unfold ReadsAs at h
  simp only [encPart] at h
  simp [decPartSet, h, zeros, upper, bitAt, hp, fieldVal_of_lt]

end

/-! ### Programs and diagnostics -/

theorem decFizan_stepLoad {hd : BitVec 16} {r : Bref} {n : BitVec 32}
    (h : ReadsAs pk [(16, 2, hd.toNat), (20, 6, brefNat r), (28, 4, n.toNat)]) :
    decFizan c 0x0700 pk = .ok (.stepLoad c hd r n) := by
  unfold ReadsAs at h
  simp [decFizan, h, zeros, upper, bitAt, bref_eq]

theorem decFizan_stepUnload {hd : BitVec 16} (h : ReadsAs pk [(16, 2, hd.toNat), (18, 1, 1)]) :
    decFizan c 0x0700 pk = .ok (.stepUnload c hd) := by
  unfold ReadsAs at h
  simp [decFizan, h, zeros, unused, upper, bitAt, fieldVal_of_lt]

theorem decFizan_stepRun {p : RunP} (hargs : p.args.aligned 8 = true) (h : ReadsAs pk [(16, 2, p.handle.toNat), (18, 1, p.slot.toNat),
    (20, 6, brefNat p.args), (26, 2, p.argCount.toNat)]) : decFizan c 0x0701 pk = .ok (.stepRun c p) := by
  rw [aligned_iff] at hargs
  unfold ReadsAs at h
  simp [decFizan, h, zeros, brefAligned_eq, hargs]

theorem decFizan_selftestPatrol {m : BitVec 256} (h : ReadsAs pk [(16, 1, 1), (20, 32, m.toNat)]) :
    decFizan c 0x0F00 pk = .ok (.selftestPatrol c m) := by
  unfold ReadsAs at h
  simp [decFizan, h, zeros, fieldVal_of_lt]

theorem decFizan_selftestLoopback {m : BitVec 256} (h : ReadsAs pk [(16, 1, 2), (20, 32, m.toNat)]) :
    decFizan c 0x0F00 pk = .ok (.selftestLoopback c m) := by
  unfold ReadsAs at h
  simp [decFizan, h, zeros, fieldVal_of_lt]

section
variable {r : Bref} {n : BitVec 32} (hr : r.aligned 64 = true)
include hr

theorem decFizan_dumpCoreRegs {k : BitVec 8} (h : ReadsAs pk [(16, 1, 1), (17, 1, k.toNat), (20, 6, brefNat r), (28, 4, n.toNat)]) :
    decFizan c 0x0F01 pk = .ok (.dumpCoreRegs c k r n) := by
  rw [aligned_iff] at hr
  unfold ReadsAs at h
  simp [decFizan, h, zeros, brefAligned_eq, hr, fieldVal_of_lt]

theorem decFizan_dumpSpill (h : ReadsAs pk [(16, 1, 2), (20, 6, brefNat r), (28, 4, n.toNat)]) :
    decFizan c 0x0F01 pk = .ok (.dumpSpill c r n) := by
  rw [aligned_iff] at hr
  unfold ReadsAs at h
  simp [decFizan, h, zeros, unused, brefAligned_eq, hr, fieldVal_of_lt]

theorem decFizan_dumpLedger (h : ReadsAs pk [(16, 1, 3), (20, 6, brefNat r), (28, 4, n.toNat)]) :
    decFizan c 0x0F01 pk = .ok (.dumpLedger c r n) := by
  rw [aligned_iff] at hr
  unfold ReadsAs at h
  simp [decFizan, h, zeros, unused, brefAligned_eq, hr, fieldVal_of_lt]

end
end

/-! ### The round trip -/

/-- A reader of operands, in front of the command that takes them. -/
theorem bind_of_ok {α : Type} {d : Dec α} {a : α} (h : d = .ok a) (f : α → Instr) : (d >>= fun x => .ok (f x)) = .ok (f a) := by
  rw [h]
  rfl

/-- A packet of pairwise disjoint fields reads as them. -/
theorem reads (fs : List (Nat × Nat × Nat)) (h : fieldsDisjoint fs = true := by rfl) : ReadsAs (packFields fs) fs :=
  readsAs_packFields h

theorem zeros_nop {pk : Nat} (h : ReadsAs pk []) : zeros pk [(16, 48)] = .ok () := by
  simp [zeros, h.nil]

theorem fieldsDisjoint_encZero (p : ZeroP) : fieldsDisjoint (encZero p) = true := by
  cases p <;> rfl

theorem fieldsDisjoint_encScan (p : ScanP) : fieldsDisjoint (encScan p) = true := by
  obtain ⟨a, aStr, aRows, aCols, b, k, res⟩ := p
  cases b <;> rfl

theorem fieldsDisjoint_encSignal (p : SignalP) (add : Bool) : fieldsDisjoint (encSignal p add) = true := by
  obtain ⟨dest, value, irqKind, vector⟩ := p
  cases dest <;> rfl

theorem decodeParams_of_encodeParams {i : Instr} {c : CmdRef} {op : Nat} {fs : List (Nat × Nat × Nat)} (hwf : wellFormed i = true)
    (h : encodeParams i = some (c, op, fs)) : decodeParams false c op (packFields fs) = .ok i := by
  unfold encodeParams at h
  split at h <;> cases h
  case h_1 => exact bind_of_ok (zeros_nop (reads [])) fun _ => Instr.nop c
  case h_2 p =>
    obtain ⟨write⟩ := p
    cases write with
    | none => exact bind_of_ok (decMark_none (reads [])) (Instr.queueMark c)
    | some x => exact bind_of_ok (decMark_some (Bool.and_elim_right hwf) (reads _)) (Instr.queueMark c)
  case h_3 k =>
    cases k with
    | all => exact bind_of_ok (decFence_all (reads [])) (Instr.fence c)
    | module m => exact bind_of_ok (decFence_module (reads _)) (Instr.fence c)
    | extA => exact bind_of_ok (decFence_plain (by decide) (reads _)) (Instr.fence c)
    | extB => exact bind_of_ok (decFence_plain (by decide) (reads _)) (Instr.fence c)
    | onModule => exact bind_of_ok (decFence_plain (by decide) (reads _)) (Instr.fence c)
  case h_4 a b n => exact bind_of_ok (decCopy_tiles (Bool.and_elim_right hwf) (reads _)) (Instr.copy c)
  case h_5 a b n => exact bind_of_ok (decCopy_raw (Bool.and_elim_right hwf) (reads _)) (Instr.copy c)
  case h_6 p =>
    exact bind_of_ok (decIdx_encode (Bool.and_elim_right (Bool.and_elim_left hwf)) (Bool.and_elim_right hwf) (reads _)) (Instr.gather c)
  case h_7 p =>
    exact bind_of_ok (decIdx_encode (Bool.and_elim_right (Bool.and_elim_left hwf)) (Bool.and_elim_right hwf) (reads _)) (Instr.scatter c)
  case h_8 p => exact bind_of_ok (decZero_encode (Bool.and_elim_right hwf) (reads _ (fieldsDisjoint_encZero p))) (Instr.zero c)
  case h_9 p => exact bind_of_ok (decCellar_encode (Bool.and_elim_right hwf) (reads _)) (Instr.cellarRead c)
  case h_10 p => exact bind_of_ok (decCellar_encode (Bool.and_elim_right hwf) (reads _)) (Instr.cellarWrite c)
  case h_11 p => exact bind_of_ok (decMatmul_encode (Bool.and_elim_right hwf) (reads (encMatmul p))) (Instr.matmul c)
  case h_12 p =>
    have hseed : p.base.seed = none := Option.isNone_iff_eq_none.mp (Bool.and_elim_right hwf)
    obtain ⟨hbase, hc⟩ := decMatmulAcc_encode (Bool.and_elim_right (Bool.and_elim_left hwf)) hseed
      (reads (matmulFields { p.base with seed := none } ++ [(56, 6, trefNat p.c)]))
    rw [packFields_matmulAcc]
    refine (bind_of_ok hbase fun b => Instr.matmulAcc c ⟨b, tref _ 56⟩).trans ?_
    rw [hc]
  case h_13 p => exact bind_of_ok (decScan_encode (Bool.and_elim_right hwf) (reads _ (fieldsDisjoint_encScan p))) (Instr.anchorScan c)
  case h_14 p => exact bind_of_ok (decReduce_encode (Bool.and_elim_right hwf) (reads (encReduce p))) (Instr.reduce c)
  case h_15 p => exact bind_of_ok (decElem_encode (Bool.and_elim_right hwf) (reads (encElem p))) (Instr.elementwise c)
  case h_16 p => exact bind_of_ok (decFunc_encode (Bool.and_elim_right hwf) (reads (encFunc p))) (Instr.func c)
  case h_17 p =>
    exact bind_of_ok (decSoftmax_encode (Bool.and_elim_right (Bool.and_elim_left hwf))
      (Option.isNone_iff_eq_none.mp (Bool.and_elim_right hwf)) (reads (encRow p false))) (Instr.softmax c)
  case h_18 p => exact bind_of_ok (decNorm_encode (Bool.and_elim_right hwf) (reads (encRow p.row p.rms ++ _))) (Instr.norm c)
  case h_19 p st =>
    exact bind_of_ok (decRowstat_encode (Bool.and_elim_right (Bool.and_elim_left hwf)) (Bool.and_elim_right hwf)
      (reads (encRow p false ++ _))) fun x => Instr.rowstat c x.1 x.2
  case h_20 r n => exact decMicroprog_load c (reads _)
  case h_21 x => exact decMicroprog_unload c (reads _)
  case h_22 t sc n =>
    exact decSync_tallyAdd c (Bool.and_elim_right (Bool.and_elim_left (Bool.and_elim_left hwf))) (Bool.and_elim_right hwf)
      (Bool.and_elim_right (Bool.and_elim_left hwf)) (reads _)
  case h_23 t sc n =>
    exact decSync_tallySub c (Bool.and_elim_right (Bool.and_elim_left (Bool.and_elim_left hwf))) (Bool.and_elim_right hwf)
      (Bool.and_elim_right (Bool.and_elim_left hwf)) (reads _)
  case h_24 t n =>
    rw [packFields_encTally_noScope]
    exact (decSync_noScope c (Bool.and_elim_right (Bool.and_elim_left hwf)) (Bool.and_elim_right hwf) (reads _)).1
  case h_25 t n =>
    rw [packFields_encTally_noScope]
    exact (decSync_noScope c (Bool.and_elim_right (Bool.and_elim_left hwf)) (Bool.and_elim_right hwf) (reads _)).2
  case h_26 t sc m n =>
    exact decSync_signalRemote c (Bool.and_elim_right (Bool.and_elim_left (Bool.and_elim_left hwf))) (Bool.and_elim_right hwf)
      (Bool.and_elim_right (Bool.and_elim_left hwf)) (reads _)
  case h_27 p => exact decSignal_encode c (add := false) (Bool.and_elim_right hwf) (reads _ (fieldsDisjoint_encSignal p _))
  case h_28 p => exact decSignal_encode c (add := true) (Bool.and_elim_right hwf) (reads _ (fieldsDisjoint_encSignal p _))
  case h_29 p => exact decEpoch_stage c (Bool.and_elim_right hwf) (reads _)
  case h_30 => exact decEpoch_commit c (reads _)
  case h_31 => exact decEpoch_commitParish c (reads _)
  case h_32 => exact (decEpoch_pins c (reads _)).1
  case h_33 => exact (decEpoch_pins c (reads _)).2
  case h_34 => exact decAdmin_ctxCreate c (of_decide_eq_true (Bool.and_elim_right hwf)) (reads _)
  case h_35 => exact decAdmin_ctxDestroy c (reads _)
  case h_36 => exact decAdmin_ctxDestroyAbortOnly c (reads _)
  case h_37 => exact decAdmin_segSet c (of_decide_eq_true (Bool.and_elim_right hwf)) (reads _)
  case h_38 => exact decAdmin_segInvalidate_none c (reads _)
  case h_39 => exact decAdmin_segInvalidate_some c (of_decide_eq_true (Bool.and_elim_right hwf)) (reads _)
  case h_40 => exact decAdmin_allotSet c (reads _)
  case h_41 => exact decPartSet_cores c (of_decide_eq_true (Bool.and_elim_right hwf)) (reads _)
  case h_42 =>
    exact decPartSet_caps c (of_decide_eq_true (Bool.and_elim_right (Bool.and_elim_left hwf)))
      (of_decide_eq_true (Bool.and_elim_right hwf)) (reads _)
  case h_43 =>
    exact decPartSet_key c (of_decide_eq_true (Bool.and_elim_right (Bool.and_elim_left (Bool.and_elim_left hwf))))
      (of_decide_eq_true (Bool.and_elim_right (Bool.and_elim_left hwf))) (of_decide_eq_true (Bool.and_elim_right hwf)) (reads _)
  case h_44 => exact decPartSet_mode c (of_decide_eq_true (Bool.and_elim_right hwf)) (reads _)
  case h_45 =>
    exact decPartSet_timeouts c (of_decide_eq_true (Bool.and_elim_right (Bool.and_elim_left (Bool.and_elim_left hwf))))
      (of_decide_eq_true (Bool.and_elim_right (Bool.and_elim_left hwf))) (of_decide_eq_true (Bool.and_elim_right hwf)) (reads _)
  case h_46 =>
    exact decPartSet_vectors c (of_decide_eq_true (Bool.and_elim_right (Bool.and_elim_left hwf)))
      (of_decide_eq_true (Bool.and_elim_right hwf)) (reads _)
  case h_47 => exact decPartSet_volumes c (of_decide_eq_true (Bool.and_elim_right hwf)) (reads _)
  case h_48 => exact decPartSet_talliesGrant c (of_decide_eq_true (Bool.and_elim_right hwf)) (reads _)
  case h_49 => exact decPartSet_talliesRevoke c (of_decide_eq_true (Bool.and_elim_right hwf)) (reads _)
  case h_50 => exact decFizan_stepLoad c (reads _)
  case h_51 => exact decFizan_stepUnload c (reads _)
  case h_52 => exact decFizan_stepRun c (Bool.and_elim_right hwf) (reads _)
  case h_53 => exact decFizan_selftestPatrol c (reads _)
  case h_54 => exact decFizan_selftestLoopback c (reads _)
  case h_55 => exact decFizan_dumpCoreRegs c (Bool.and_elim_right hwf) (reads _)
  case h_56 => exact decFizan_dumpSpill c (Bool.and_elim_right hwf) (reads _)
  case h_57 => exact decFizan_dumpLedger c (Bool.and_elim_right hwf) (reads _)

/-- Settles O5: each reader finds the fields that the command was written from. -/
theorem packetEncodingRoundTrips : Obligations.PacketEncodingRoundTrips := by
  intro i c op pk hwf h
  obtain ⟨⟨c', op', fs⟩, hfs, hpacket⟩ := Option.map_eq_some_iff.mp h
  cases hpacket
  exact decodeParams_of_encodeParams hwf hfs

end Sys2Proof
end

section
/-! What a reader accepts is well formed (O6). -/

namespace Sys2Proof

/-! ### Readers that succeed -/

theorem bind_eq_ok {α β : Type} {d : Dec α} {f : α → Dec β} {y : β} : (d >>= f) = .ok y ↔ ∃ x, d = .ok x ∧ f x = .ok y := by
  cases d with
  | ok a => exact ⟨fun h => ⟨a, rfl, h⟩, fun ⟨x, hx, hf⟩ => by cases hx; exact hf⟩
  | error e => exact ⟨fun h => (nomatch h), fun ⟨x, hx, _⟩ => (nomatch hx)⟩

theorem map_eq_ok {α β : Type} {d : Dec α} {f : α → β} {y : β} : Except.map f d = .ok y ↔ ∃ x, d = .ok x ∧ f x = y := by
  cases d with
  | ok a => exact ⟨fun h => ⟨a, rfl, Except.ok.inj h⟩, fun ⟨x, hx, hf⟩ => by cases hx; exact congrArg _ hf⟩
  | error e => exact ⟨fun h => (nomatch h), fun ⟨x, hx, _⟩ => (nomatch hx)⟩

theorem need_eq_ok {b : Bool} {reason off : Nat} {u : Unit} : need b reason off = .ok u ↔ b = true := by
  cases b
  · exact ⟨fun h => (nomatch h), fun h => (nomatch h)⟩
  · exact ⟨fun _ => rfl, fun _ => rfl⟩

theorem pf_lt (pk o n : Nat) : pf pk o n < 2 ^ (8 * n) := Nat.mod_lt _ (Nat.two_pow_pos _)

theorem toNat_ofNat_pf {w n : Nat} (h : 8 * n ≤ w) (pk o : Nat) : (BitVec.ofNat w (pf pk o n)).toNat = pf pk o n := by
  rw [BitVec.toNat_ofNat]
  exact Nat.mod_eq_of_lt (Nat.lt_of_lt_of_le (pf_lt pk o n) (Nat.pow_le_pow_right (by decide) h))

theorem ofNat_pf_ne_zero {w n pk o : Nat} (hw : 8 * n ≤ w) (h : 1 ≤ pf pk o n) : ¬ BitVec.ofNat w (pf pk o n) = 0#w := by
  intro hz
  have htoNat := toNat_ofNat_pf hw pk o
  rw [hz, BitVec.toNat_ofNat, Nat.zero_mod] at htoNat
  omega

theorem aligned_bref {pk o a : Nat} (h : pf pk o 6 / 16 % a = 0) : (bref pk o).aligned a = true := by
  have hlt : pf pk o 6 < 2 ^ 48 := pf_lt pk o 6
  have hoff : pf pk o 6 / 16 < 2 ^ 44 := by omega
  rw [aligned_iff, bref, BitVec.toNat_ofNat, Nat.mod_eq_of_lt hoff, h]

theorem aligned_of_brefAligned {pk o a : Nat} {r : Bref} (h : brefAligned pk o a = .ok r) : r.aligned a = true := by
  simp only [brefAligned, bind_eq_ok, need_eq_ok, exists_const, beq_iff_eq, Except.ok.injEq] at h
  obtain ⟨ha, rfl⟩ := h
  exact aligned_bref ha

theorem anchorBitsOk_of_anchorField {pk o : Nat} {a : BitVec 16} (h : anchorField pk o = .ok a) : anchorBitsOk a = true := by
  simp only [anchorField, bind_eq_ok, need_eq_ok, exists_const, Except.ok.injEq] at h
  obtain ⟨hrange, rfl⟩ := h
  have hint : (BitVec.ofNat 16 (pf pk o 2)).toInt = ofTwos 16 (pf pk o 2) := by
    rw [ofTwos, BitVec.toInt_eq_toNat_cond, toNat_ofNat_pf (by decide)]
    split <;> split <;> omega
  rw [anchorBitsOk, hint]
  exact hrange

theorem wf_of_aword {v2 : Bool} {pk o c : Nat} {a : AWord} (h : aword v2 pk o c = .ok a) : a.wf = true := by
  unfold aword at h
  split at h <;> simp only [bind_eq_ok, need_eq_ok, exists_const, Except.ok.injEq] at h
  next =>
    obtain ⟨-, -, rfl⟩ := h
    rfl
  next =>
    obtain ⟨-, -, x, hx, ha⟩ := h
    cases ha
    exact anchorBitsOk_of_anchorField hx
  next =>
    obtain ⟨-, r, hr, ha⟩ := h
    cases ha
    exact aligned_of_brefAligned hr
  next => exact absurd h.1 Bool.false_ne_true

theorem wf_of_tallyField {v2 : Bool} {pk : Nat} {t : TallyRef} (h : tallyField v2 pk = .ok t) : t.wf = true := by
  simp only [tallyField, upper, bind_eq_ok, need_eq_ok, exists_const, Except.ok.injEq, decide_eq_true_iff] at h
  obtain ⟨-, hdie, hindex, rfl⟩ := h
  have hdie4 : pf pk 16 4 / 2 ^ 16 ≤ 4 := by
    cases v2 <;> simp at hdie <;> omega
  have htoNat : (BitVec.ofNat 3 (pf pk 16 4 / 2 ^ 16)).toNat = pf pk 16 4 / 2 ^ 16 := by
    rw [BitVec.toNat_ofNat]
    exact Nat.mod_eq_of_lt (by omega)
  have hfour : (BitVec.ofNat 3 (pf pk 16 4 / 2 ^ 16) != 4) = (pf pk 16 4 / 2 ^ 16 != 4) := by
    rw [Bool.eq_iff_iff, bne_iff_ne, bne_iff_ne, ne_eq, ne_eq, ← BitVec.toNat_inj, htoNat]
    rfl
  rw [TallyRef.wf, htoNat, hfour, toNat_ofNat_pf (by decide), hindex, decide_eq_true hdie4]
  rfl

theorem ne_acc128_of_outField {pk o : Nat} {f : Fmt} (h : outField pk o = .ok f) : (f != .acc128) = true := by
  simp only [outField, bind_eq_ok, need_eq_ok, exists_const, Except.ok.injEq] at h
  obtain ⟨g, -, hg, rfl⟩ := h
  exact hg

/-! ### Each command -/

theorem aligned_of_decMark {pk : Nat} {p : MarkP} (h : decMark pk = .ok p) {r : Bref} {v : BitVec 64} (hw : p.write = some (r, v)) :
    r.aligned 8 = true := by
  simp only [decMark, upper, bind_eq_ok, need_eq_ok, exists_const] at h
  obtain ⟨-, -, -, h⟩ := h
  split at h <;> simp only [bind_eq_ok] at h
  · obtain ⟨a, ha, hp⟩ := h
    cases hp
    cases hw
    exact aligned_of_brefAligned ha
  · obtain ⟨-, -, hp⟩ := h
    cases hp
    cases hw

theorem wf_of_decCopy {pk : Nat} {p : CopyP} (h : decCopy pk = .ok p) : p.wf = true := by
  simp only [decCopy, upper, atLeast1, bind_eq_ok, need_eq_ok, exists_const, decide_eq_true_iff] at h
  obtain ⟨-, -, -, hn, h⟩ := h
  have hne := ofNat_pf_ne_zero (w := 32) (by decide) hn
  split at h
  · simp only [bind_eq_ok] at h
    obtain ⟨a, ha, b, hb, hp⟩ := h
    cases hp
    simp [CopyP.wf, aligned_of_brefAligned ha, aligned_of_brefAligned hb, hne]
  · cases h
    simp [CopyP.wf, hne]

theorem wf_of_decIdx {pk : Nat} {p : IdxP} (h : decIdx pk = .ok p) : p.idx.aligned 8 = true ∧ (p.count != 0) = true := by
  simp only [decIdx, atLeast1, bind_eq_ok, need_eq_ok, exists_const, decide_eq_true_iff] at h
  obtain ⟨-, -, hn, a, ha, hp⟩ := h
  cases hp
  exact ⟨aligned_of_brefAligned ha, bne_iff_ne.mpr (ofNat_pf_ne_zero (by decide) hn)⟩

theorem wf_of_decZero {pk : Nat} {p : ZeroP} (h : decZero pk = .ok p) : p.wf = true := by
  simp only [decZero, upper, atLeast1, bind_eq_ok, need_eq_ok, exists_const, decide_eq_true_iff, beq_iff_eq] at h
  obtain ⟨-, -, -, hn, h⟩ := h
  have hne := ofNat_pf_ne_zero (w := 32) (by decide) hn
  split at h
  · simp only [bind_eq_ok, need_eq_ok, exists_const, beq_iff_eq] at h
    obtain ⟨-, -, -, a, ha, hp⟩ := h
    cases hp
    simp [ZeroP.wf, aligned_of_brefAligned ha, hne]
  · split at h
    · simp only [bind_eq_ok, need_eq_ok, exists_const, Bool.and_eq_true, beq_iff_eq] at h
      obtain ⟨⟨hr, hc⟩, -, -, hp⟩ := h
      cases hp
      simp [ZeroP.wf, hne]
    · simp only [bind_eq_ok, need_eq_ok, exists_const] at h
      obtain ⟨f, -, hshape, h⟩ := h
      have hrows : (BitVec.ofNat 16 (pf pk 34 2)).toNat = pf pk 34 2 := toNat_ofNat_pf (by decide) pk 34
      have hcols : (BitVec.ofNat 16 (pf pk 36 2)).toNat = pf pk 36 2 := toNat_ofNat_pf (by decide) pk 36
      split at h
      next hacc =>
        subst hacc
        simp only [bind_eq_ok] at h
        obtain ⟨a, ha, hp⟩ := h
        cases hp
        simp only [ZeroP.wf, hrows, hcols, hshape, anchorBitsOk_of_anchorField ha]
        simp [hne]
      next hacc =>
        simp only [bind_eq_ok, Except.ok.injEq] at h
        obtain ⟨-, -, a, rfl, hp⟩ := h
        cases hp
        simp only [ZeroP.wf, hrows, hcols, hshape, hacc]
        simp [hne]

theorem count_ne_zero_of_decCellar {pk : Nat} {p : CellarP} (h : decCellar pk = .ok p) : (p.count != 0) = true := by
  simp only [decCellar, atLeast1, bind_eq_ok, need_eq_ok, exists_const, decide_eq_true_iff] at h
  obtain ⟨-, -, hn, hp⟩ := h
  cases hp
  simp [ofNat_pf_ne_zero (w := 32) (by decide) hn]

theorem wf_of_decMatmul {v2 acc : Bool} {pk : Nat} {p : MatmulP} (h : decMatmul v2 acc pk = .ok p) :
    p.wf = true ∧ (acc = true → p.seed = none) := by
  simp only [decMatmul, upper, atLeast1, bind_eq_ok, need_eq_ok, exists_const, decide_eq_true_iff] at h
  obtain ⟨hm, hk, hn, f, -, -, a, ha, -, -, h⟩ := h
  have hm0 := ofNat_pf_ne_zero (w := 16) (by decide) hm
  have hk0 := ofNat_pf_ne_zero (w := 16) (by decide) hk
  have hn0 := ofNat_pf_ne_zero (w := 16) (by decide) hn
  split at h
  next hacc =>
    simp only [bind_eq_ok, Except.ok.injEq] at h
    obtain ⟨-, -, -, -, seed, rfl, hp⟩ := h
    cases hp
    exact ⟨by simp [MatmulP.wf, wf_of_aword ha, hm0, hk0, hn0], fun _ => rfl⟩
  next hacc =>
    simp only [bind_eq_ok] at h
    obtain ⟨seed, -, hp⟩ := h
    cases hp
    exact ⟨by simp [MatmulP.wf, wf_of_aword ha, hm0, hk0, hn0], fun h => absurd h hacc⟩

theorem wf_of_decScan {pk : Nat} {p : ScanP} (h : decScan pk = .ok p) : p.wf = true := by
  simp only [decScan, upper, atLeast1, bind_eq_ok, need_eq_ok, exists_const, decide_eq_true_iff] at h
  obtain ⟨hr, hc, hk, hkmax, res, hres, -, -, -, h⟩ := h
  have hr0 := ofNat_pf_ne_zero (w := 16) (by decide) hr
  have hc0 := ofNat_pf_ne_zero (w := 16) (by decide) hc
  have hk0 := ofNat_pf_ne_zero (w := 64) (by decide) hk
  have hkNat : (BitVec.ofNat 64 (pf pk 42 8)).toNat = pf pk 42 8 := toNat_ofNat_pf (by decide) pk 42
  split at h
  · simp only [bind_eq_ok, Except.ok.injEq] at h
    obtain ⟨-, -, b, rfl, hp⟩ := h
    cases hp
    simp only [ScanP.wf, hkNat, decide_eq_true hkmax, aligned_of_brefAligned hres]
    simp [hr0, hc0, hk0]
  · simp only [bind_eq_ok, need_eq_ok, exists_const, decide_eq_true_iff, Except.ok.injEq] at h
    obtain ⟨hbr, hbc, b, rfl, hp⟩ := h
    have hbr0 := ofNat_pf_ne_zero (w := 16) (by decide) hbr
    have hbc0 := ofNat_pf_ne_zero (w := 16) (by decide) hbc
    cases hp
    simp only [ScanP.wf, hkNat, decide_eq_true hkmax, aligned_of_brefAligned hres]
    simp [hr0, hc0, hk0, hbr0, hbc0]

theorem wf_of_decReduce {v2 : Bool} {pk : Nat} {p : ReduceP} (h : decReduce v2 pk = .ok p) : p.wf = true := by
  simp only [decReduce, upper, atLeast1, bind_eq_ok, need_eq_ok, exists_const, decide_eq_true_iff] at h
  obtain ⟨htiles, hcount, f, -, -, a, ha, -, -, seed, -, hp⟩ := h
  cases hp
  simp only [ReduceP.wf, toNat_ofNat_pf (show 8 * 2 ≤ 16 by decide), decide_eq_true hcount, wf_of_aword ha]
  simp [ofNat_pf_ne_zero (w := 32) (by decide) htiles]

theorem error_bind {α β : Type} (e : ParamFault) (f : α → Dec β) : (Except.error e : Dec α) >>= f = .error e := rfl

/-- A tile reference whose bytes are 0. -/
theorem or_tref_of {b : Bool} {pk o : Nat} (h : (b || pf pk o 6 == 0) = true) : (b || tref pk o == ⟨0, 0⟩) = true := by
  cases b with
  | true => rfl
  | false =>
    rw [Bool.false_or, beq_iff_eq] at h
    rw [tref, h]
    rfl

theorem not_stochastic_of_ofCode {n : Nat} {r : Rnd} : Rnd.ofCode n = some r →
    (match r with | .stochastic _ => false | _ => true) = true := by
  intro h
  unfold Rnd.ofCode at h
  split at h <;> cases h <;> rfl

theorem wf_of_decElem {pk : Nat} {p : ElemP} (h : decElem pk = .ok p) : p.wf = true := by
  simp only [decElem, upper, atLeast1, bind_eq_ok, need_eq_ok, exists_const, decide_eq_true_iff] at h
  obtain ⟨-, -, htiles, h⟩ := h
  split at h
  case h_2 => cases h
  case h_1 op _ =>
    rw [ok_bind] at h
    split at h
    case h_2 => cases h
    case h_1 vf _ =>
      rw [ok_bind] at h
      simp only [bind_eq_ok, need_eq_ok, exists_const] at h
      obtain ⟨hkind, f, hf, -, h⟩ := h
      cases hr : Rnd.ofCode (pf pk 53 1 % 8) with
      | none => simp only [hr, error_bind, reduceCtorEq] at h
      | some r =>
        simp only [hr] at h
        rw [ok_bind] at h
        simp only [bind_eq_ok, need_eq_ok, exists_const] at h
        obtain ⟨huses, hy, hz, -, hp⟩ := h
        cases hp
        have hscalar : (if bitAt (pf pk 53 1) 3 = true then some (BitVec.ofNat 64 (pf pk 56 8)) else none).isNone = !bitAt (pf pk 53 1) 3 := by
          cases bitAt (pf pk 53 1) 3 <;> rfl
        have hcount : (BitVec.ofNat 32 (pf pk 46 4) != 0) = true := bne_iff_ne.mpr (ofNat_pf_ne_zero (by decide) htiles)
        simp only [ElemP.wf, hcount, hscalar, hkind, ne_acc128_of_outField hf, huses, or_tref_of hy, or_tref_of hz, Bool.and_true,
          Bool.true_and]
        exact not_stochastic_of_ofCode hr

theorem wf_of_decFunc {v2 : Bool} {pk : Nat} {p : FuncP} (h : decFunc v2 pk = .ok p) : p.wf = true := by
  simp only [decFunc, atLeast1, bind_eq_ok, need_eq_ok, exists_const, decide_eq_true_iff] at h
  obtain ⟨htiles, set, -, f, hf, -, -, -, seed, -, hp⟩ := h
  cases hp
  simpa [FuncP.wf, ofNat_pf_ne_zero (w := 32) (by decide) htiles] using ne_acc128_of_outField hf

theorem wf_of_decRow {v2 : Bool} {pk : Nat} {p : RowP} (h : decRow v2 pk = .ok p) : p.wf = true := by
  simp only [decRow, upper, atLeast1, bind_eq_ok, need_eq_ok, exists_const, decide_eq_true_iff, Bool.and_eq_true] at h
  obtain ⟨hrow, hcol, ⟨hn, hnmax⟩, set, -, f, hf, -, -, -, h⟩ := h
  have hrow0 := ofNat_pf_ne_zero (w := 16) (by decide) hrow
  have hcol0 := ofNat_pf_ne_zero (w := 16) (by decide) hcol
  have hn0 := ofNat_pf_ne_zero (w := 32) (by decide) hn
  have hnNat : (BitVec.ofNat 32 (pf pk 32 4)).toNat = pf pk 32 4 := toNat_ofNat_pf (by decide) pk 32
  have hout := bne_iff_ne.mp (ne_acc128_of_outField hf)
  split at h
  · simp only [bind_eq_ok, map_eq_ok] at h
    obtain ⟨-, ⟨a, ha, rfl⟩, -, -, seed, -, hp⟩ := h
    cases hp
    simp only [RowP.wf, hnNat, decide_eq_true hnmax, anchorBitsOk_of_anchorField ha]
    simp [hrow0, hcol0, hn0, hout]
  · simp only [bind_eq_ok, map_eq_ok] at h
    obtain ⟨-, ⟨-, -, rfl⟩, -, -, seed, -, hp⟩ := h
    cases hp
    simp only [RowP.wf, hnNat, decide_eq_true hnmax]
    simp [hrow0, hcol0, hn0, hout]

theorem wf_of_decSoftmax {v2 : Bool} {pk : Nat} {p : RowP} (h : decSoftmax v2 pk = .ok p) : p.wf = true ∧ p.anchor.isNone = true := by
  simp only [decSoftmax, bind_eq_ok, need_eq_ok, exists_const, beq_iff_eq] at h
  obtain ⟨r, hr, -, hanchor, -, -, hp⟩ := h
  cases hp
  exact ⟨wf_of_decRow hr, Option.isNone_iff_eq_none.mpr hanchor⟩

theorem wf_of_decNorm {v2 : Bool} {pk : Nat} {p : NormP} (h : decNorm v2 pk = .ok p) : p.wf = true := by
  simp only [decNorm, bind_eq_ok, need_eq_ok, exists_const] at h
  obtain ⟨r, hr, heps, -, -, hp⟩ := h
  cases hp
  rw [NormP.wf, wf_of_decRow hr, toNat_ofNat_pf (by decide), heps]
  rfl

theorem wf_of_decRowstat {v2 : Bool} {pk : Nat} {x : RowP × BitVec 8} (h : decRowstat v2 pk = .ok x) :
    x.1.wf = true ∧ rowstatOk x.1 x.2 = true := by
  simp only [decRowstat, bind_eq_ok, need_eq_ok, exists_const] at h
  obtain ⟨r, hr, hset, -, hfmt, -, -, hst, hfew, hp⟩ := h
  cases hp
  have hstNat : (BitVec.ofNat 8 (pf pk 54 1)).toNat = pf pk 54 1 := toNat_ofNat_pf (by decide) pk 54
  rw [Bool.and_eq_true] at hst
  have hst0 : (BitVec.ofNat 8 (pf pk 54 1) != 0) = true :=
    bne_iff_ne.mpr (ofNat_pf_ne_zero (by decide) (Nat.pos_of_ne_zero (bne_iff_ne.mp hst.1)))
  exact ⟨wf_of_decRow hr, by simp only [rowstatOk, hstNat, hset, hfmt, hst0, hst.2, hfew, Bool.and_true]⟩

/-- The signal that a packet describes, its destination read. -/
def signalOf (pk : Nat) (d : SigDest) : SignalP :=
  ⟨d, BitVec.ofNat 64 (pf pk 24 8), BitVec.ofNat 8 (pf pk 33 1), BitVec.ofNat 16 (pf pk 34 2)⟩

/-- The destination of a signal. -/
def signalDest (pk : Nat) : Dec SigDest :=
  if pf pk 32 1 = 0 then (do zeros pk [(22, 2)]; let w ← brefAligned pk 16 8; .ok (SigDest.seg w))
  else (do need (pf pk 16 8 % 8 == 0) 0x02 16; .ok (.port (pf pk 32 1 == 2) (BitVec.ofNat 64 (pf pk 16 8))))

/-- The command of a signal, its operands read. -/
def signalOp (c : CmdRef) (pk : Nat) (p : SignalP) : Dec Instr :=
  match pf pk 36 1 with
  | 0 => .ok (.signalHost c p)
  | 1 => do need (pf pk 32 1 == 0) 0x12 36; .ok (.signalHostAdd c p)
  | _ => .error ⟨0x12, 36⟩

theorem decSignal_eq (v2 : Bool) (c : CmdRef) (pk : Nat) : decSignal v2 c pk = (do
    need (decide (pf pk 32 1 ≤ if v2 then 0 else 2)) 0x02 32
    let d ← signalDest pk
    need (decide (pf pk 33 1 ≤ 3)) 0x02 33
    (if pf pk 33 1 = 0 then unused pk [(34, 2)] else .ok ())
    zeros pk [(37, 27)]
    signalOp c pk (signalOf pk d)) := by
  by_cases hdest : pf pk 32 1 = 0 <;> by_cases hkind : pf pk 33 1 = 0
  all_goals simp only [decSignal, signalDest, signalOp, signalOf, hdest, hkind, if_true, if_false] <;> rfl

theorem wf_of_signalDest {pk : Nat} {d : SigDest} : signalDest pk = .ok d → match d with
    | .seg w => w.aligned 8 = true
    | .port _ a => a.toNat % 8 = 0 ∧ pf pk 32 1 ≠ 0 := by
  intro h
  unfold signalDest at h
  split at h
  · simp only [bind_eq_ok] at h
    obtain ⟨-, -, w, hw, hd⟩ := h
    cases hd
    exact aligned_of_brefAligned hw
  next hdest =>
    simp only [bind_eq_ok, need_eq_ok, exists_const, beq_iff_eq] at h
    obtain ⟨ha, hd⟩ := h
    cases hd
    exact ⟨by rw [toNat_ofNat_pf (by decide), ha], hdest⟩

theorem wf_of_signalOp {c : CmdRef} {pk : Nat} {p : SignalP} {i : Instr} (hc : c.wf = true)
    (hp : p.wf false = true) (hadd : pf pk 32 1 = 0 → p.wf true = true) (h : signalOp c pk p = .ok i) : wellFormed i = true := by
  have hand {b : Bool} (h : b = true) : (c.wf && b) = true := by rw [hc, h]; rfl
  unfold signalOp at h
  split at h
  · cases h
    exact hand hp
  · simp only [bind_eq_ok, need_eq_ok, exists_const, beq_iff_eq] at h
    obtain ⟨hdest, hi⟩ := h
    cases hi
    exact hand (hadd hdest)
  · cases h

theorem wf_of_decSignal {v2 : Bool} {c : CmdRef} {pk : Nat} {i : Instr} (hc : c.wf = true) (h : decSignal v2 c pk = .ok i) :
    wellFormed i = true := by
  simp only [decSignal_eq, bind_eq_ok, need_eq_ok, exists_const, decide_eq_true_iff] at h
  obtain ⟨-, d, hd, hkind, _, hvector, -, -, h⟩ := h
  have hdest := wf_of_signalDest hd
  have hkindNat : (BitVec.ofNat 8 (pf pk 33 1)).toNat = pf pk 33 1 := toNat_ofNat_pf (by decide) pk 33
  have hvec : (BitVec.ofNat 8 (pf pk 33 1) != 0 || BitVec.ofNat 16 (pf pk 34 2) == 0) = true := by
    split at hvector
    · simp only [unused, bind_eq_ok, need_eq_ok, exists_const, beq_iff_eq] at hvector
      rw [hvector.1, Bool.or_eq_true]
      exact .inr rfl
    next hne =>
      rw [Bool.or_eq_true]
      exact .inl (bne_iff_ne.mpr (ofNat_pf_ne_zero (by decide) (Nat.pos_of_ne_zero hne)))
  cases d with
  | seg w =>
    have hp (add : Bool) : (signalOf pk (.seg w)).wf add = true := by
      simp only [SignalP.wf, signalOf, hkindNat, decide_eq_true hkind, hvec, hdest, Bool.and_true]
    exact wf_of_signalOp hc (hp _) (fun _ => hp _) h
  | port b a =>
    obtain ⟨ha, hne⟩ := hdest
    refine wf_of_signalOp hc ?_ (fun h => absurd h hne) h
    simp only [SignalP.wf, signalOf, hkindNat, decide_eq_true hkind, hvec, decide_eq_true ha, Bool.and_true, Bool.not_false]

theorem scope_of_scopeField {pk : Nat} {ok : Nat → Bool} {sc : BitVec 8} (h : scopeField pk ok = .ok sc) : ok sc.toNat = true := by
  simp only [scopeField, bind_eq_ok, need_eq_ok, exists_const, Except.ok.injEq] at h
  obtain ⟨hok, rfl⟩ := h
  rw [toNat_ofNat_pf (by decide), hok]

theorem ofNat_pf_bne_zero {w n pk o : Nat} (hw : 8 * n ≤ w) (h : 1 ≤ pf pk o n) : (BitVec.ofNat w (pf pk o n) != 0) = true :=
  bne_iff_ne.mpr (ofNat_pf_ne_zero hw h)

theorem decide_ofNat_pf_le {w n pk o k : Nat} (hw : 8 * n ≤ w) (h : pf pk o n ≤ k) :
    decide ((BitVec.ofNat w (pf pk o n)).toNat ≤ k) = true := by
  rw [toNat_ofNat_pf hw, decide_eq_true h]

/-- A value of 48 bits in a field of 8 bytes. -/
theorem decide_ofNat_pf_lt {pk o : Nat} (h : pf pk (o + 6) 2 = 0) : decide ((BitVec.ofNat 64 (pf pk o 8)).toNat < 2 ^ 48) = true := by
  have hlt : pf pk o 8 < 2 ^ 64 := pf_lt pk o 8
  have hhigh : pf pk (o + 6) 2 = pf pk o 8 / 2 ^ 48 % 2 ^ 16 := pf_within rfl (by decide)
  rw [toNat_ofNat_pf (by decide)]
  exact decide_eq_true (by omega)

section
variable {c : CmdRef} (hc : c.wf = true) {pk op : Nat} {i : Instr}
include hc

/-- A command whose operands are well formed. -/
theorem cmd_and {b : Bool} (h : b = true) : (c.wf && b) = true := by
  rw [hc, h]
  rfl

theorem cmd_and₂ {a b : Bool} (ha : a = true) (hb : b = true) : (c.wf && a && b) = true := by
  rw [hc, ha, hb]
  rfl

theorem cmd_and₃ {a b d : Bool} (ha : a = true) (hb : b = true) (hd : d = true) : (c.wf && a && b && d) = true := by
  rw [hc, ha, hb, hd]
  rfl

theorem wf_of_decMicroprog (h : decMicroprog c pk = .ok i) : wellFormed i = true := by
  simp only [decMicroprog, bind_eq_ok] at h
  obtain ⟨-, -, h⟩ := h
  split at h <;> simp only [bind_eq_ok, reduceCtorEq] at h
  · obtain ⟨-, -, hi⟩ := h
    cases hi
    exact hc
  · obtain ⟨-, -, hi⟩ := h
    cases hi
    exact hc

theorem wf_of_decSync {v2 : Bool} (h : decSync v2 c op pk = .ok i) : wellFormed i = true := by
  unfold decSync at h
  split at h
  case h_5 => exact wf_of_decSignal hc h
  all_goals simp only [atLeast1, bind_eq_ok, need_eq_ok, exists_const, decide_eq_true_iff] at h
  · obtain ⟨t, ht, -, sc, hsc, -, -, hn, h⟩ := h
    split at h <;> cases h
    · exact cmd_and₃ hc (wf_of_tallyField ht) (scope_of_scopeField hsc) (ofNat_pf_bne_zero (by decide) hn)
    · exact cmd_and₃ hc (wf_of_tallyField ht) (scope_of_scopeField hsc) (ofNat_pf_bne_zero (by decide) hn)
  · obtain ⟨t, ht, -, -, hn, hi⟩ := h
    cases hi
    exact cmd_and₂ hc (wf_of_tallyField ht) (ofNat_pf_bne_zero (by decide) hn)
  · obtain ⟨t, ht, -, -, hn, hi⟩ := h
    cases hi
    exact cmd_and₂ hc (wf_of_tallyField ht) (ofNat_pf_bne_zero (by decide) hn)
  · obtain ⟨t, ht, -, -, sc, hsc, hn, hi⟩ := h
    cases hi
    have hscope : (sc == 3 || sc == 4) = true := by
      have hok := scope_of_scopeField hsc
      simp only [Bool.or_eq_true, beq_iff_eq] at hok ⊢
      exact hok.imp (fun h => BitVec.eq_of_toNat_eq h) fun h => BitVec.eq_of_toNat_eq h
    exact cmd_and₃ hc (wf_of_tallyField ht) hscope (ofNat_pf_bne_zero (by decide) hn)

theorem wf_of_decEpoch (h : decEpoch c op pk = .ok i) : wellFormed i = true := by
  unfold decEpoch at h
  split at h <;> simp only [atLeast1, bind_eq_ok, need_eq_ok, exists_const, decide_eq_true_iff] at h
  · obtain ⟨-, -, hn, hi⟩ := h
    cases hi
    exact cmd_and hc (ofNat_pf_bne_zero (by decide) hn)
  · obtain ⟨-, -, -, hi⟩ := h
    split at hi <;> cases hi
    · exact hc
    · exact hc
  · obtain ⟨-, -, hi⟩ := h
    cases hi
    exact hc
  · obtain ⟨-, -, hi⟩ := h
    cases hi
    exact hc

theorem wf_of_decPartSet (h : decPartSet c pk = .ok i) : wellFormed i = true := by
  simp only [decPartSet, upper, bind_eq_ok, need_eq_ok, exists_const, decide_eq_true_iff] at h
  obtain ⟨hp, -, -, h⟩ := h
  have hpart : partInRange (BitVec.ofNat 8 (pf pk 16 1)) = true := decide_ofNat_pf_le (by decide) hp
  split at h
  case h_1 =>
    cases h
    exact cmd_and hc hpart
  case h_2 =>
    simp only [bind_eq_ok, need_eq_ok, exists_const, decide_eq_true_iff] at h
    obtain ⟨hprio, -, -, hi⟩ := h
    cases hi
    exact cmd_and₂ hc hpart (decide_ofNat_pf_le (by decide) hprio)
  case h_3 =>
    simp only [bind_eq_ok, need_eq_ok, exists_const, decide_eq_true_iff, Bool.and_eq_true] at h
    obtain ⟨-, ⟨hslot1, hslot⟩, -, -, hi⟩ := h
    cases hi
    exact cmd_and₃ hc hpart (decide_eq_true (by rwa [toNat_ofNat_pf (by decide)])) (decide_ofNat_pf_le (by decide) hslot)
  case h_4 =>
    simp only [bind_eq_ok, need_eq_ok, exists_const] at h
    obtain ⟨-, -, -, hi⟩ := h
    cases hi
    exact cmd_and hc hpart
  case h_5 =>
    simp only [zeros, bind_eq_ok, need_eq_ok, exists_const, beq_iff_eq] at h
    obtain ⟨⟨hx, hy, -⟩, hi⟩ := h
    cases hi
    exact cmd_and₃ hc hpart (decide_ofNat_pf_lt hx) (decide_ofNat_pf_lt hy)
  case h_6 =>
    simp only [bind_eq_ok, need_eq_ok, exists_const, decide_eq_true_iff] at h
    obtain ⟨hkind, -, -, hi⟩ := h
    cases hi
    exact cmd_and₂ hc hpart (decide_ofNat_pf_le (by decide) hkind)
  case h_7 =>
    cases h
    exact cmd_and hc hpart
  case h_8 =>
    simp only [bind_eq_ok, need_eq_ok, exists_const] at h
    obtain ⟨-, -, -, h⟩ := h
    split at h <;> cases h
    · exact cmd_and hc hpart
    · exact cmd_and hc hpart
  case h_9 => cases h

theorem wf_of_decAdmin (h : decAdmin c op pk = .ok i) : wellFormed i = true := by
  unfold decAdmin at h
  split at h
  case h_6 => exact wf_of_decPartSet hc h
  all_goals simp only [upper, bind_eq_ok, need_eq_ok, exists_const, decide_eq_true_iff] at h
  · obtain ⟨hp, -, -, -, hi⟩ := h
    cases hi
    exact cmd_and hc (decide_ofNat_pf_le (by decide) hp)
  · obtain ⟨-, -, -, h⟩ := h
    split at h <;> cases h
    · exact hc
    · exact hc
  · obtain ⟨hseg, -, -, hi⟩ := h
    cases hi
    exact cmd_and hc (decide_ofNat_pf_le (by decide) hseg)
  · obtain ⟨-, -, -, h⟩ := h
    split at h <;> simp only [bind_eq_ok, need_eq_ok, exists_const, decide_eq_true_iff] at h
    · obtain ⟨hp, hi⟩ := h
      cases hi
      exact cmd_and hc (decide_ofNat_pf_le (by decide) hp)
    · obtain ⟨-, -, hi⟩ := h
      cases hi
      exact cmd_and hc rfl
  · obtain ⟨-, -, -, hi⟩ := h
    cases hi
    exact hc

theorem wf_of_decFizan (h : decFizan c op pk = .ok i) : wellFormed i = true := by
  unfold decFizan at h
  split at h <;> simp only [upper, bind_eq_ok, need_eq_ok, exists_const] at h
  · obtain ⟨-, -, -, h⟩ := h
    split at h
    · simp only [bind_eq_ok] at h
      obtain ⟨-, -, hi⟩ := h
      cases hi
      exact hc
    · cases h
      exact hc
  · obtain ⟨-, -, r, hr, hi⟩ := h
    cases hi
    exact cmd_and hc (aligned_of_brefAligned hr)
  · obtain ⟨-, -, h⟩ := h
    split at h <;> cases h
    · exact hc
    · exact hc
  · obtain ⟨-, -, r, hr, h⟩ := h
    have hdump := cmd_and hc (aligned_of_brefAligned hr)
    split at h
    · cases h
      exact hdump
    · simp only [bind_eq_ok] at h
      obtain ⟨-, -, hi⟩ := h
      cases hi
      exact hdump
    · simp only [bind_eq_ok] at h
      obtain ⟨-, -, hi⟩ := h
      cases hi
      exact hdump
    · cases h

omit hc in
/-- The command that takes the operands read. -/
theorem wf_of_bind {α : Type} {d : Dec α} {f : α → Instr} (h : (d >>= fun x => .ok (f x)) = .ok i)
    (hf : ∀ x, d = .ok x → wellFormed (f x) = true) : wellFormed i = true := by
  obtain ⟨x, hx, hi⟩ := bind_eq_ok.mp h
  cases hi
  exact hf x hx

/-- Each opcode's command, from what its reader accepts. -/
theorem wf_of_decodeParams {v2 : Bool} (h : decodeParams v2 c op pk = .ok i) : wellFormed i = true := by
  unfold decodeParams at h
  split at h
  case h_1 => exact wf_of_bind (f := fun _ => .nop c) h fun _ _ => hc
  case h_2 =>
    refine wf_of_bind (f := .queueMark c) h fun p hp => cmd_and hc ?_
    cases hw : p.write with
    | none => rfl
    | some x => exact aligned_of_decMark hp hw
  case h_3 => exact wf_of_bind (f := .fence c) h fun _ _ => hc
  case h_4 => exact wf_of_bind (f := .copy c) h fun _ hp => cmd_and hc (wf_of_decCopy hp)
  case h_5 => exact wf_of_bind (f := .gather c) h fun _ hp => cmd_and₂ hc (wf_of_decIdx hp).1 (wf_of_decIdx hp).2
  case h_6 => exact wf_of_bind (f := .scatter c) h fun _ hp => cmd_and₂ hc (wf_of_decIdx hp).1 (wf_of_decIdx hp).2
  case h_7 => exact wf_of_bind (f := .zero c) h fun _ hp => cmd_and hc (wf_of_decZero hp)
  case h_8 => exact wf_of_bind (f := .cellarRead c) h fun _ hp => cmd_and hc (count_ne_zero_of_decCellar hp)
  case h_9 => exact wf_of_bind (f := .cellarWrite c) h fun _ hp => cmd_and hc (count_ne_zero_of_decCellar hp)
  case h_10 => exact wf_of_bind (f := .matmul c) h fun _ hp => cmd_and hc (wf_of_decMatmul hp).1
  case h_11 =>
    refine wf_of_bind (f := fun b => .matmulAcc c ⟨b, tref pk 56⟩) h fun b hb => ?_
    obtain ⟨hbase, hseed⟩ := wf_of_decMatmul hb
    exact cmd_and₂ hc hbase (Option.isNone_iff_eq_none.mpr (hseed rfl))
  case h_12 => exact wf_of_bind (f := .anchorScan c) h fun _ hp => cmd_and hc (wf_of_decScan hp)
  case h_13 => exact wf_of_bind (f := .reduce c) h fun _ hp => cmd_and hc (wf_of_decReduce hp)
  case h_14 => exact wf_of_bind (f := .elementwise c) h fun _ hp => cmd_and hc (wf_of_decElem hp)
  case h_15 => exact wf_of_bind (f := .func c) h fun _ hp => cmd_and hc (wf_of_decFunc hp)
  case h_16 => exact wf_of_bind (f := .softmax c) h fun _ hp => cmd_and₂ hc (wf_of_decSoftmax hp).1 (wf_of_decSoftmax hp).2
  case h_17 => exact wf_of_bind (f := .norm c) h fun _ hp => cmd_and hc (wf_of_decNorm hp)
  case h_18 =>
    exact wf_of_bind (f := fun x => .rowstat c x.1 x.2) h fun _ hp => cmd_and₂ hc (wf_of_decRowstat hp).1 (wf_of_decRowstat hp).2
  case h_19 => exact wf_of_decMicroprog hc h
  case h_20 | h_21 | h_22 | h_23 | h_24 => exact wf_of_decSync hc h
  case h_25 | h_26 | h_27 | h_28 => exact wf_of_decEpoch hc h
  case h_29 | h_30 | h_31 | h_32 => exact wf_of_decFizan hc h
  case h_33 => exact wf_of_decAdmin hc h

end

/-- Settles O6: each reader checks what its command needs. -/
theorem decodedPacketsAreWellFormed : Obligations.DecodedPacketsAreWellFormed :=
  fun _ _ _ _ _ _ hc h => wf_of_decodeParams hc h

end Sys2Proof
end

section
/-! Raw COPY and ZERO in the memory of this module (R180, R277, R279, R339): what each sector's store leaves, and the whole run. -/

namespace Sys2Proof.Machine
open Sys2Proof

/-! ### Bytes outside a store -/

theorem length_xtsBlocks (enc : Bool) (k : List Nat) (n t : Nat) (b : List Nat) : (xtsBlocks enc k n t b).length ≤ 16 * n := by
  induction n generalizing t b with
  | zero => rfl
  | succ n ih =>
    have hrest := ih (tweakNext t) (b.drop 16)
    have htweak : (natBytes 16 t).length = 16 := by rw [natBytes, List.length_map, length_leBytes]
    simp only [xtsBlocks, List.length_append, xorList, List.length_zipWith, htweak]
    omega

theorem length_cipherSectors (pair first n : Nat) (bs : List Byte) : (cipherSectors pair first n bs).length ≤ 64 * n := by
  induction n generalizing first bs with
  | zero => rfl
  | succ n ih =>
    have hsector : (xtsSector true pair first (bs.take 64)).length ≤ 16 * 4 := by
      rw [xtsSector, List.length_map]
      exact length_xtsBlocks ..
    have hrest := ih (first + 1) (bs.drop 64)
    rw [cipherSectors, List.length_append]
    omega

/-- Sectors `lo` to `hi` are all of memory in which `t` differs from `s`, and memory is canonical. -/
structure KeepsOutside (lo hi : Nat) (s t : State) : Prop where
  wf : Memory.wf t.mem = true
  same : ∀ a, a / 64 < lo ∨ hi < a / 64 → memByte t a = memByte s a

namespace KeepsOutside

variable {lo hi : Nat} {s t u : State}

theorem of_mem (hwf : Memory.wf s.mem = true) (h : t.mem = s.mem) : KeepsOutside lo hi s t :=
  ⟨h ▸ hwf, fun _ _ => by rw [memByte, memByte, h]⟩

theorem trans (h : KeepsOutside lo hi s t) (k : KeepsOutside lo hi t u) : KeepsOutside lo hi s u :=
  ⟨k.wf, fun a ha => (k.same a ha).trans (h.same a ha)⟩

theorem trans_mem (h : KeepsOutside lo hi s t) (k : u.mem = t.mem) : KeepsOutside lo hi s u := h.trans (of_mem h.wf k)

end KeepsOutside

/-- A store at a plain place, whatever its key, is in the sectors of its bytes. -/
theorem placeWrite_keepsOutside {lo hi : Nat} {s : State} (hwf : Memory.wf s.mem = true) (sl : Nat × Nat) {p : Nat} (k : Option Nat)
    {bs : List Byte} (hne : bs.length ≠ 0) (hlo : lo ≤ p / 64) (hhi : (p + bs.length - 1) / 64 ≤ hi) (o : Barrier) :
    KeepsOutside lo hi s (placeWrite sl (.mem p k) bs o s) := by
  cases k with
  | none =>
    refine ⟨wf_writeMem hwf p bs, fun a ha => ?_⟩
    rw [placeWrite, memByte_writeMem hwf, if_neg (by omega)]
  | some k =>
    have hcount : sectorsOf p bs.length = (p + bs.length - 1) / 64 + 1 - p / 64 := by
      rw [sectorsOf, touchedSectors, if_neg hne, List.length_map, List.length_range]
    have hlen := length_cipherSectors k (p / 64) (sectorsOf p bs.length) ((plainSectors s k (p / 64) (sectorsOf p bs.length)).take (p % 64)
      ++ bs ++ (plainSectors s k (p / 64) (sectorsOf p bs.length)).drop (p % 64 + bs.length))
    rw [placeWrite]
    generalize hnew : cipherSectors k (p / 64) (sectorsOf p bs.length) _ = new at hlen ⊢
    refine ⟨by rw [clearPoison_mem]; exact wf_putBytes new hwf, fun a ha => ?_⟩
    rw [memByte, clearPoison_mem]
    refine (get_putBytes new hwf a).trans ?_
    rw [if_neg (by omega)]
    rfl

theorem placePoisonWrite_mem (p : Place) (s : State) : (placePoisonWrite p s).mem = s.mem :=
  (placePoisonWrite_spares (μ := .of [.mem]) p s (by simp [Mask.of])).kept.pieces .mem rfl

/-- Memory classes 1 to 4 give plain places. -/
theorem placeOf_of_cls {g : Seg} (h1 : 1 ≤ g.cls) (h4 : g.cls ≤ clsDdr) (s : State) (o : Nat) : ∃ k, placeOf s g o = .mem (g.base + o) k := by
  rw [clsDdr] at h4
  have hremote : g.cls ≠ clsRemote := by rw [clsRemote]; omega
  have hcellar : g.cls ≠ clsCellar := by rw [clsCellar]; omega
  have hguest : g.cls ≠ clsGuest := by rw [clsGuest]; omega
  exact ⟨_, by rw [placeOf, if_neg hremote, localPlace, if_neg hcellar, if_neg hguest]⟩

/-! ### Work that goes sector by sector -/

/-- An exchange is replayed, or made. -/
theorem Work.hear_state {P : State → Prop} {w : Work} {f : Work → Work × Heard} (h : P w.s) (hf : P (f w).1.s) : P (w.hear f).1.s := by
  unfold Work.hear
  split
  · exact h
  · split
    · exact h
    · dsimp only
      split
      · exact hf
      · exact hf

theorem Work.each_induct {P : Work → Prop} {f : Nat → Work → Work} {n i : Nat} {w : Work} (h : P w)
    (hf : ∀ w j, i ≤ j → j < i + n → P w → P (f j w)) : P (w.each f n i) := by
  induction n generalizing i w with
  | zero => exact h
  | succ n ih =>
    rw [Work.each]
    split
    · exact h
    · exact ih (hf w i (Nat.le_refl i) (by omega) h) fun w j hij hj hw => hf w j (by omega) (by omega) hw

theorem Work.each_failed {f : Nat → Work → Work} {n i : Nat} {w : Work} (h : w.failed = true) : w.each f n i = w := by
  cases n with
  | zero => rfl
  | succ n => rw [Work.each, if_pos h]

theorem Work.stop_s (w : Work) (f : Fail) : (w.stop f).s = w.s := by
  unfold Work.stop
  split <;> rfl

theorem Work.traffic_mem (w : Work) (g : Seg) (n : Nat) : (w.traffic g n).s.mem = w.s.mem :=
  (Work.traffic_spares (μ := .of [.mem]) w g n (by simp [Mask.of])).kept.pieces .mem rfl

theorem notePoisonRead_mem (s : State) (p : Place) : (notePoisonRead s p).mem = s.mem :=
  (notePoisonRead_spares (μ := .of [.mem]) s p (by simp [Mask.of])).kept.pieces .mem rfl

theorem Work.ask_mem (w : Work) (slot seg : Nat) (p : Place) (n : Nat) : (w.ask slot seg p n).s.mem = w.s.mem :=
  (Work.ask_spares (μ := .of [.mem]) w slot seg p n (by simp [Mask.of])).kept.pieces .mem rfl

theorem length_placeRead (s : State) (p : Place) (n : Nat) : (placeRead s p n).length = n := by
  cases p with
  | mem a k => exact length_placeRead_mem s a k n
  | vol v b => rw [placeRead, readCellar, List.length_map, List.length_range]
  | far w a => rw [placeRead, List.length_map, List.length_range]

section
variable {lo hi p : Nat} (hlo : lo ≤ p / 64) (hhi : (p + 63) / 64 ≤ hi)
include hlo hhi

/-- One sector of a raw COPY, to plain memory. -/
theorem Work.copySector_keepsOutside {w : Work} (hwf : Memory.wf w.s.mem = true) (src dst : Bref) (gs : Seg) {gd : Seg} {i : Nat}
    (hplace : ∀ s, ∃ k, placeOf s gd (dst.off.toNat + 64 * i) = .mem p k) :
    KeepsOutside lo hi w.s (w.copySector src dst gs gd i).s := by
  have hpaid : (if i % 64 = 0 then (w.traffic gs 1).traffic gd 1 else w).s.mem = w.s.mem := by
    split
    · rw [Work.traffic_mem, Work.traffic_mem]
    · rfl
  have hstored (bad : Bool) {s : State} (hs : Memory.wf s.mem = true) (k : Option Nat) {bs : List Byte} (hbs : bs.length = 64) (o : Barrier) :
      KeepsOutside lo hi s ((if bad then placeWriteBad else placeWrite) (8, dst.seg.toNat) (.mem p k) bs o s) := by
    have hwrite : KeepsOutside lo hi s (placeWrite (8, dst.seg.toNat) (.mem p k) bs o s) :=
      placeWrite_keepsOutside hs _ k (by rw [hbs]; decide) hlo (by rw [hbs]; exact hhi) o
    cases bad with
    | false => exact hwrite
    | true =>
      show KeepsOutside lo hi s (placePoisonWrite (.mem p k) (placeWrite (8, dst.seg.toNat) (.mem p k) bs o s))
      exact hwrite.trans_mem (placePoisonWrite_mem ..)
  unfold Work.copySector
  generalize (if i % 64 = 0 then (w.traffic gs 1).traffic gd 1 else w) = w1 at hpaid
  dsimp only
  have hsame : KeepsOutside lo hi w.s w1.s := .of_mem hwf hpaid
  split
  · exact hsame
  · refine Work.hear_state (P := KeepsOutside lo hi w.s) hsame ?_
    obtain ⟨k, hpd⟩ := hplace w1.s
    rw [hpd]
    dsimp only
    generalize placeOf w1.s gs (src.off.toNat + 64 * i) = ps
    generalize placePoison w1.s ps 64 = bad
    split
    · exact hsame
    · split
      · rw [Work.stop_s]
        exact hsame
      · have hasked := hsame.trans_mem (w1.ask_mem 0 src.seg.toNat ps 64)
        have hready (s : State) : (wakeLarder (.mem p k) (wakeLarder ps (if bad then notePoisonRead s ps else s))).mem = s.mem := by
          rw [wakeLarder_mem, wakeLarder_mem]
          split
          · exact notePoisonRead_mem ..
          · rfl
        have hawake := hasked.trans_mem (hready _)
        rw [Bool.and_false, if_neg Bool.false_ne_true]
        exact hawake.trans (hstored bad hawake.wf k (length_placeRead ..) _)

/-- One sector of a raw ZERO, in plain memory. -/
theorem Work.storeBytes_keepsOutside {w : Work} (hwf : Memory.wf w.s.mem = true) (slot seg : Nat) (k : Option Nat) {bs : List Byte}
    (hbs : bs.length = 64) : KeepsOutside lo hi w.s (w.storeBytes slot seg (.mem p k) bs).s := by
  have hsame : KeepsOutside lo hi w.s w.s := .of_mem hwf rfl
  unfold Work.storeBytes
  split
  · exact hsame
  · refine Work.hear_state (P := KeepsOutside lo hi w.s) hsame ?_
    split
    · exact hsame
    · split
      · rw [Work.stop_s]
        exact hsame
      · exact (hsame.trans_mem (wakeLarder_mem ..)).trans
          (placeWrite_keepsOutside (wakeLarder_mem _ w.s ▸ hwf) (slot, seg) k (by rw [hbs]; decide) hlo (by rw [hbs]; exact hhi) _)

end

/-! ### The whole command -/

theorem Work.bytesRef_mem (w : Work) (slot : Nat) (r : Bref) (n rights : Nat) : (w.bytesRef slot r n rights).1.s.mem = w.s.mem :=
  (Work.bytesRef_spares (μ := .of [.mem]) w slot r n rights _ (by simp [Mask.of])).kept.pieces .mem rfl

theorem Work.allotSeg_mem (w : Work) (g : Seg) : (w.allotSeg g).s.mem = w.s.mem :=
  (Work.allotSeg_spares (μ := .of [.mem]) w g).kept.pieces .mem rfl

theorem Work.finish_mem (w : Work) (detail : Nat) : (w.finish detail).mem = w.s.mem :=
  (Work.finish_spares (μ := .of [.mem]) w detail (by simp [Mask.of])).kept.pieces .mem rfl

theorem Work.stop_failed (w : Work) (f : Fail) : (w.stop f).failed = true := by
  unfold Work.stop
  split
  · assumption
  · rfl

theorem Work.bytesRef_of_failed {w : Work} (h : w.failed = true) (slot : Nat) (r : Bref) (n rights : Nat) :
    (w.bytesRef slot r n rights).1 = w := by
  rw [Work.bytesRef, Work.ref]
  dsimp only
  rw [if_pos h]

theorem Work.allotSeg_of_failed {w : Work} (h : w.failed = true) (g : Seg) : w.allotSeg g = w := by
  rw [Work.allotSeg, Work.allot, Work.check, if_pos h]

theorem markStarted_mem (i : Instr) (c : CmdRef) (s : State) : (markStarted i c s).mem = s.mem :=
  (markStarted_spares (μ := .of [.mem]) i c s (by simp [Mask.of])).kept.pieces .mem rfl

/-- A packet command answers without its effect, memory as before, or its effect takes place. -/
theorem runCmd_mem_or (i : Instr) (c : CmdRef) (needsCore : Bool) (s : State) (body : Cmd → State → State) :
    (runCmd i c needsCore s body).mem = s.mem ∨ runCmd i c needsCore s body = body (runEntry i c s) (markStarted i c s) := by
  rcases runCmd_eq_or i c needsCore s body with hsame | heffect
  · exact .inl (hsame ▸ (runCmd_kept (μ := .of [.mem]) i c needsCore s _ (fun _ s => .refl s) (by simp [Mask.of])).pieces .mem rfl)
  · exact .inr heffect

/-- The sectors that a raw command names. -/
theorem sector_in_range {first n i : Nat} (h : i < n) :
    first / 64 ≤ (first + 64 * i) / 64 ∧ (first + 64 * i + 63) / 64 ≤ (first + 64 * n - 1) / 64 := by
  omega

section
variable {c : CmdRef} {src dst : Bref} {n : BitVec 32} {e : Cmd} {s : State}

theorem copyWork_raw_keeps (hwf : Memory.wf s.mem = true) :
    let w := ((Work.start c e.core s).bytesRef 0 src (64 * n.toNat) rtRead).1
    let g := (w.bytesRef 8 dst (64 * n.toNat) rtWrite).2
    let first := g.base + dst.off.toNat
    (w.failed = true → (copyWork c (.raw src dst n) e s).s.mem = s.mem) ∧
      (1 ≤ g.cls → g.cls ≤ clsDdr →
        KeepsOutside (first / 64) ((first + 64 * n.toNat - 1) / 64) s (copyWork c (.raw src dst n) e s).s) := by
  intro w g first
  have hw : w.s.mem = s.mem := Work.bytesRef_mem ..
  have hwork : copyWork c (.raw src dst n) e s =
      if src.seg = dst.seg ∧ rangesMeet src.off.toNat dst.off.toNat (64 * n.toNat) then (Work.start c e.core s).stop (fParam 0x0C 0)
      else (((w.bytesRef 8 dst (64 * n.toNat) rtWrite).1.allotSeg
        ((Work.start c e.core s).bytesRef 0 src (64 * n.toNat) rtRead).2).allotSeg g).each
          (fun i w => w.copySector src dst ((Work.start c e.core s).bytesRef 0 src (64 * n.toNat) rtRead).2 g i) n.toNat 0 := rfl
  rw [hwork]
  split
  · exact ⟨fun _ => by rw [Work.stop_s]; rfl, fun _ _ => .of_mem hwf (by rw [Work.stop_s]; rfl)⟩
  · refine ⟨fun hfailed => ?_, fun h1 h4 => ?_⟩
    · rw [Work.bytesRef_of_failed hfailed, Work.allotSeg_of_failed hfailed, Work.allotSeg_of_failed hfailed, Work.each_failed hfailed, hw]
    · refine Work.each_induct (P := fun w => KeepsOutside _ _ s w.s) (.of_mem hwf ?_) fun w1 i _ hi hkept => ?_
      · rw [Work.allotSeg_mem, Work.allotSeg_mem, Work.bytesRef_mem, hw]
      · obtain ⟨hlo, hhi⟩ := sector_in_range (first := first) (n := n.toNat) (i := i) (by omega)
        refine hkept.trans (Work.copySector_keepsOutside hlo hhi hkept.wf src dst _ fun s => ?_)
        rw [Nat.add_assoc]
        exact placeOf_of_cls h1 h4 s _

theorem zeroWork_raw_keeps (hwf : Memory.wf s.mem = true) :
    let w := Work.start c e.core s
    let g := (w.bytesRef 8 dst (64 * n.toNat) rtWrite).2
    let first := g.base + dst.off.toNat
    (w.failed = true → (zeroWork c (.raw dst n) e s).s.mem = s.mem) ∧
      (1 ≤ g.cls → g.cls ≤ clsDdr →
        KeepsOutside (first / 64) ((first + 64 * n.toNat - 1) / 64) s (zeroWork c (.raw dst n) e s).s) := by
  intro w g first
  have hwork : zeroWork c (.raw dst n) e s = ((w.bytesRef 8 dst (64 * n.toNat) rtWrite).1.allotSeg g).each (fun i w =>
      (if i % 64 = 0 then w.traffic g 1 else w).storeBytes 8 dst.seg.toNat
        (placeOf (if i % 64 = 0 then w.traffic g 1 else w).s g (dst.off.toNat + 64 * i)) (List.replicate 64 0)) n.toNat 0 := rfl
  rw [hwork]
  refine ⟨fun hfailed => absurd hfailed Bool.false_ne_true, fun h1 h4 => ?_⟩
  refine Work.each_induct (P := fun w => KeepsOutside _ _ s w.s) (.of_mem hwf ?_) fun w1 i _ hi hkept => ?_
  · rw [Work.allotSeg_mem, Work.bytesRef_mem]
    rfl
  · obtain ⟨hlo, hhi⟩ := sector_in_range (first := first) (n := n.toNat) (i := i) (by omega)
    have hpaid : KeepsOutside (first / 64) ((first + 64 * n.toNat - 1) / 64) s (if i % 64 = 0 then w1.traffic g 1 else w1).s := by
      split
      · exact hkept.trans_mem (Work.traffic_mem ..)
      · exact hkept
    generalize (if i % 64 = 0 then w1.traffic g 1 else w1) = w2 at hpaid
    obtain ⟨k, hplace⟩ := placeOf_of_cls h1 h4 w2.s (dst.off.toNat + 64 * i)
    rw [hplace, ← Nat.add_assoc]
    exact hpaid.trans (Work.storeBytes_keepsOutside hlo hhi hpaid.wf 8 dst.seg.toNat k (List.length_replicate ..))

end

/-- One sector copied between plain places that nothing holds, fences, poisons or encrypts. -/
theorem Work.copySector_plain {w : Work} (hfail : w.fail = none) (hparked : w.parked = none)
    (hlog : w.log = []) {src dst : Bref} {gs gd : Seg} {i a b : Nat} (hpaid : i % 64 ≠ 0)
    (hps : placeOf w.s gs (src.off.toNat + 64 * i) = .mem a none) (hpd : placeOf w.s gd (dst.off.toNat + 64 * i) = .mem b none)
    (hfaultS : placeFault w.s false 0 src.seg.toNat (.mem a none) = none) (hfaultD : placeFault w.s true 8 dst.seg.toNat (.mem b none) = none)
    (hsound : placePoison w.s (.mem a none) 64 = false) (hheldS : placeHeld w.s (.mem a none) = false)
    (hheldD : placeHeld w.s (.mem b none) = false) :
    (w.copySector src dst gs gd i).fail = none ∧
      (w.copySector src dst gs gd i).s.mem = (writeMem b (readMem w.s a 64) w.s).mem := by
  have hok : w.failed = false := by rw [Work.failed, hfail, hparked]; rfl
  have hmem : (wakeLarder (.mem b none) (wakeLarder (.mem a none) w.s)).mem = w.s.mem := by rw [wakeLarder_mem, wakeLarder_mem]
  have hread : readMem (wakeLarder (.mem b none) (wakeLarder (.mem a none) w.s)) a 64 = readMem w.s a 64 := readMem_congr hmem a 64
  unfold Work.copySector
  rw [if_neg hpaid]
  dsimp only
  rw [hok, if_neg Bool.false_ne_true, w.hear_now _ hparked hlog]
  all_goals
    rw [hps, hpd, hheldS, hheldD, Bool.or_false, if_neg Bool.false_ne_true, hfaultS, hfaultD, hsound]
    dsimp only [Option.orElse, Work.ask]
    rw [Bool.false_and, if_neg Bool.false_ne_true, if_neg Bool.false_ne_true]
  · refine ⟨hfail, ?_⟩
    show (placeWrite _ _ (readMem _ a 64) _ _).mem = _
    rw [if_neg Bool.false_ne_true, hread]
    exact placeWrite_mem_congr hmem (8, dst.seg.toNat) b none _ _ (.cmd w.c)
  · exact hparked

end Sys2Proof.Machine

namespace Sys2Proof
open Machine

/-- Settles O9: each sector's store is in the sectors named, and nothing else of the command writes memory. -/
theorem rawCommandsStoreInTheirRange : Obligations.RawCommandsStoreInTheirRange := by
  refine ⟨fun copies c src dst n s t hwf => ?_, ?_⟩
  · intro i w0 w g first hexec
    have hmarked : (markStarted i c s).mem = s.mem := markStarted_mem ..
    have hstart : Memory.wf (markStarted i c s).mem = true := hmarked ▸ hwf
    let all : Work := if copies then copyWork c (.raw src dst n) (runEntry i c s) (markStarted i c s)
      else zeroWork c (.raw dst n) (runEntry i c s) (markStarted i c s)
    have hdone : t.mem = s.mem ∨ t.mem = all.s.mem := by
      cases copies with
      | false =>
        obtain rfl := Host.Outcome.next.inj hexec
        exact (runCmd_mem_or i c true s _).imp id fun h => (congrArg State.mem h).trans (Work.finish_mem ..)
      | true =>
        obtain rfl := Host.Outcome.next.inj hexec
        exact (runCmd_mem_or i c true s _).imp id fun h => (congrArg State.mem h).trans (Work.finish_mem ..)
    have hkeeps : (w.failed = true → all.s.mem = (markStarted i c s).mem) ∧ (1 ≤ g.cls → g.cls ≤ clsDdr →
        KeepsOutside (first / 64) ((first + 64 * n.toNat - 1) / 64) (markStarted i c s) all.s) := by
      cases copies with
      | false => exact zeroWork_raw_keeps hstart
      | true => exact copyWork_raw_keeps hstart
    obtain ⟨hnothing, hrange⟩ := hkeeps
    rcases hdone with hsame | hrun
    · exact ⟨fun _ a => by rw [memByte, memByte, hsame], fun _ _ a _ => by rw [memByte, memByte, hsame]⟩
    · refine ⟨fun hfailed a => by rw [memByte, memByte, hrun, hnothing hfailed, hmarked], fun h1 h4 a ha => ?_⟩
      have hsame := (hrange h1 h4).same a ha
      rw [memByte, memByte, hmarked] at hsame
      rw [memByte, memByte, hrun, hsame]
  · intro w src dst gs gd i a b hwf hfail hparked hlog hpaid hps hpd hfaultS hfaultD hsound hheldS hheldD t
    obtain ⟨hf, hmem⟩ := Work.copySector_plain hfail hparked hlog hpaid hps hpd hfaultS hfaultD hsound hheldS hheldD
    have hlen : (readMem w.s a 64).length = 64 := length_placeRead_mem w.s a none 64
    have hbyte (x : Nat) : memByte t x = memByte (writeMem b (readMem w.s a 64) w.s) x := congrArg (Assoc.get memReset · x) hmem
    refine ⟨hf, fun j hj => ?_, fun x hx => ?_⟩
    · rw [hbyte, memByte_writeMem hwf, if_pos (by omega), Nat.add_sub_cancel_left]
      simp [readMem, hj]
    · rw [hbyte, memByte_writeMem hwf, if_neg (by omega)]

end Sys2Proof
end
